-- ==== Sys2Proof/Word.lean ====
section
/-! DEFINITION. The word types of the module: spec 00 R6 (bit numbering) and R7 (bytes). -/

namespace Sys2Proof

abbrev Byte := BitVec 8
abbrev W16 := BitVec 16
abbrev W32 := BitVec 32
abbrev W64 := BitVec 64

/-- A host address, 48 bits (04 R110). -/
abbrev HostAddr := BitVec 48

/-- A placed data offset, 40 bits (02 R43, R47). -/
abbrev DataOff := BitVec 40

end Sys2Proof
end

