-- ==== Sys2Proof/Syntax.lean ====
section
/-! DEFINITION. The commands of the block and their operands, after the rows of spec/opcode_table.json. -/

namespace Sys2Proof

/-- Channel ID (01 R16). -/
abbrev Chan := Fin 512
/-- Logical bank within a channel (01 R16). -/
abbrev BankIx := Fin 128
/-- Context record of a channel (05 R142). -/
abbrev Rec := Fin 512
/-- Lane group (03 R75). -/
abbrev Group := Fin 16
/-- Slice ID: channel [19:11], bank [10:4], slice [3:0] (01 R16). -/
abbrev SliceId := BitVec 20
/-- The number of a command in flight of a context: dispatches count up, modulo 4,096, passing over numbers still in flight. -/
abbrev CmdNo := Fin 4096
/-- An address register of a slice (06 R169). -/
abbrev AReg := Fin 32
/-- An address operand ar[n] + imm15 of the scratchpad (06 R183). -/
structure ScrAddr where
  reg : AReg
  imm : Fin 32768
deriving DecidableEq, Repr

/-- The engines of a slice (06 R173); codes 0 to 3 in completion records. -/
inductive Engine where
  | mx | vx | bx | cx
deriving DecidableEq, Repr

/-- Number formats, codes 0x0 to 0xC (07 Table 1). -/
inductive Fmt where
  | e2m1 | e2m3 | e3m2 | e4m3 | e5m2 | bf16 | fp16 | fp32 | fp64 | int8 | int16 | int32 | e8m0
deriving DecidableEq, Repr

/-- Who consumes a block whose verification failed (12 R326). -/
inductive Reader where
  | host
  | slice (sl : SliceId) (e : Engine) (blk : BitVec 34)
  | scrubber (blk : BitVec 34)
  | sequencer (r : Rec) (pos : CmdNo) (blk : BitVec 34)
  | digest (r : Rec) (pos : CmdNo) (blk : BitVec 34)
deriving DecidableEq, Repr

/-- A trained lane of a channel (02 Table 8, Table 10). -/
structure LaneSel where
  path : Fin 4
  physBank : Nat
  physSlice : Nat
  lane : Nat
deriving DecidableEq, Repr

/-- What a sweep meets on one lane: the taps at which beats mismatched (02 R62). -/
structure LaneTaps where
  lane : LaneSel
  badTaps : List Nat
deriving DecidableEq, Repr

/-- A register or a sign-extended 16-bit immediate (06 Table 8). -/
inductive RegImm16 where
  | reg (a : AReg) | imm (i : W16)
deriving DecidableEq, Repr

/-- A register or a 5-bit shift amount (06 Table 8). -/
inductive RegImm5 where
  | reg (a : AReg) | imm (i : BitVec 5)
deriving DecidableEq, Repr

/-- A register or a 32-bit immediate (10 Table 2). -/
inductive RegImm32 where
  | reg (a : AReg) | imm (i : W32)
deriving DecidableEq, Repr

/-- Conditions of CX.CMP (06 Table 8). -/
inductive CxCond where
  | eq | ne | ltu | geu | lts | ges
deriving DecidableEq, Repr

/-- The test of CX.BR (06 Table 8). -/
inductive BrTest where
  | always | zero (a : AReg) | nonzero (a : AReg)
deriving DecidableEq, Repr

/-- A trip count: 1 to 65,536, or an address register read at issue (06 R186). -/
inductive Count where
  | lit (n : Nat) | reg (a : AReg)
deriving DecidableEq, Repr

/-- A loop descriptor's counts, level 0 (innermost) first; none is one level of count 1 (06 R186). -/
structure Loop where
  counts : List Count
deriving DecidableEq, Repr

/-- A scratchpad operand with what it names in address mode, in queue mode and, on VX, as a tile buffer.
Skein word 0 chooses between address and queue mode (06 R183, R184; 08 R219). `strides` are per loop level. -/
structure ScrOperand where
  base : ScrAddr
  queue : Fin 8
  qlevel : Nat
  strides : List Int
  tile : Option (Fin 4)
deriving DecidableEq, Repr

/-- BX.LD and BX.ST: data offset ar[n] x 256 + off with its strides, a scratchpad operand, the access width
code (2, 4, 8, 16 or 64 bytes) and the loop (06 R197). -/
structure BxMove where
  dreg : AReg
  doff : Fin 256
  dstrides : List Int
  scr : ScrOperand
  wcode : Fin 5
  lp : Loop
deriving DecidableEq, Repr

/-- Accumulator block shapes (07 Table 3). -/
inductive Shape where
  | s4x4 | s4x8 | s8x4
deriving DecidableEq, Repr

/-- MX.MMA (07 R212, Table 3). -/
structure MmaOp where
  a : ScrOperand
  b : ScrOperand
  s : ScrOperand
  lp : Loop
  fa : Fmt
  fb : Fmt
  sa : Bool
  sb : Bool
  shape : Shape
  accBase : Nat
  ars : Fin 32768
  brs : Fin 32768
  sparse : Bool
deriving DecidableEq, Repr

/-- MX.ROUND (07 Table 5). -/
structure RoundOp where
  d : ScrOperand
  lp : Loop
  shape : Shape
  accBase : Nat
  fmt : Fmt
  sat : Bool
  adj : Int
  drs : Fin 32768
  clear : Bool
deriving DecidableEq, Repr

/-- Stage comparisons (08 Table 4). -/
inductive CmpCc where
  | eq | ne | lt | le | gt | ge
deriving DecidableEq, Repr

/-- Stage operations (08 Table 4). -/
inductive StageOp where
  | mov | add | sub | mul | fma | min | max | abs | neg | cmp (cc : CmpCc) | sel
  | and | or | xor | shl | shr | sar | exp2 | log2 | rcp | rsq
deriving DecidableEq, Repr

/-- Stage sources (08 Table 3). -/
inductive Src where
  | x | y | t (i : Fin 16) | k (i : Fin 4) | idx | zero
deriving DecidableEq, Repr

/-- A stage of a VX chain (08 Table 3). -/
structure Stage where
  op : StageOp
  fmt : Fmt
  a : Src
  b : Src
  c : Src
  dst : Fin 16
deriving DecidableEq, Repr

/-- Reducer kinds (08 Table 6). -/
inductive RKind where
  | none | sum | sumsq | max | min | count
deriving DecidableEq, Repr

/-- A VX.RUN's setting for one reducer (08 R230). -/
structure RedSet where
  kind : RKind
  tap : Src
  clear : Bool
deriving DecidableEq, Repr

/-- VX.RUN (08 Table 2). -/
structure VxRun where
  n : Count
  x : ScrOperand
  y : ScrOperand
  d : ScrOperand
  lp : Loop
  fx : Fmt
  fy : Fmt
  fd : Fmt
  xs : Fin 256
  ys : Fin 256
  ds : Fin 256
  xScaled : Bool
  stages : List Stage
  out : Option (Fin 16)
  red : List RedSet
deriving DecidableEq, Repr

/-- Where VX.RROUND writes (08 Table 1). -/
inductive RoundDst where
  | mem (d : ScrOperand) | k (i : Fin 4)
deriving DecidableEq, Repr

/-- A sync object by its physical number (10 R278). -/
inductive ObjRef where
  | chan (c : Chan) (o : Fin 128)
  | module (m : Fin 8192)
deriving DecidableEq, Repr

/-- A verifying hop (12 R333). -/
inductive Hop where
  | fabric | link | switch
deriving DecidableEq, Repr

/-- Whose payload a hop carries (12 R334). -/
inductive Cargo where
  | command (c : Chan) (r : Rec) (pos : CmdNo)
  | slice (sl : SliceId) (e : Engine)
  | hostRead (g : Group) (tag : W16)
  | hostWrite (blk : BitVec 34)
deriving DecidableEq, Repr

/-- Power domains with a target (13 Table 1). -/
inductive Domain where
  | bank (c : Chan) (b : BankIx)
  | channel (c : Chan)
  | link | switch | management | security
deriving DecidableEq, Repr

/-- Accesses of DBG_ACCESS (15 Table 8). -/
inductive DbgOp where
  | readReg (addr : HostAddr)
  | writeReg (addr : HostAddr) (v : W32)
  | readArray (off : DataOff)
  | writeArray (off : DataOff) (v : Byte)
  | readScratch (sl : SliceId) (a : Fin 32768)
  | writeScratch (sl : SliceId) (a : Fin 32768) (v : Byte)
  | halt (sl : SliceId)
  | release (sl : SliceId)
  | breakpoint (sl : SliceId) (pc : BitVec 18) (set : Bool)
  | step (sl : SliceId)
  | haltCore
  | releaseCore
  | breakpointCore (pc : W32) (set : Bool)
  | stepCore
deriving DecidableEq, Repr

/-- Kinds of repair record (16 Table 5). -/
inductive RepairKind where
  | row | gap | bank
deriving DecidableEq, Repr

/-- PLDM numeric sensors (16 R422). -/
inductive PldmSensor where
  | hottest (die : Fin 4)
  | excess (c : Chan)
  | draw
deriving DecidableEq, Repr

/-- What the physical world gives a boot (16 R408): the reading of the tripped sensor, whether AON_CLK toggles,
the lanes that fail the sweep of each channel, whether the engine's MRAM records authenticate, and how many of the boot's
four stages run before a reset interrupts it (16 R409). -/
structure BootEnv where
  stages : Nat
  tripReading : Int
  aonToggles : Bool
  sweeps : List (Nat × List LaneTaps)
  idRecordOk : Bool
  bootRecordOk : Bool
  tokenRecordOk : Bool
  blows : List Bool
deriving DecidableEq, Repr

/-- Storages with parity, codes 1 to 7 (12 Table 5). -/
inductive Storage where
  | scratchpad | tile | accumulator | icache | codeStore | cmdBuffer | ctxRecord
deriving DecidableEq, Repr


/-- The commands of the block: one constructor per row of spec/opcode_table.json, in its order.
A group, channel, bank or slice operand says where the step comes about; `t` is the instant, in units of 1/210 ns,
of the first unit interval of the flit that carries it; other operands are what the outside supplies. An operand with a default may be
left out: no bad parity, lane group 0, column cycle 0, every lane adapted. -/
inductive Instr where
  | downstreamFlit (g : Group) (t : Nat) (lanes : List (List Byte))
  | idle (g : Group) (t : Nat)
  | read (g : Group) (t : Nat) (tag : W16) (addr : BitVec 42) (parity : Bool)
  | write (g : Group) (t : Nat) (addr : BitVec 42) (byteEn : W64) (data : List Byte) (check : W32)
  | pfence (g : Group) (t : Nat) (tag : W16) (addr : BitVec 42)
  | readResponse (g : Group) (t : Nat) (pos : Fin 3)
  | echo (g : Group) (t : Nat)
  | standbyReq (g : Group) (t : Nat)
  | groupUnaligned (g : Group)
  | trainingSetReceive (g : Group) (lanes : List (List Byte)) (skews : List Byte) (adapted : Byte := 0xFF)
  | trainPhaseLimit (g : Group)
  | standbyResume (g : Group)
  | swell (g : Group) (ui : Nat)
  | activity (g : Group) (millivolts : Nat) (ns : Nat)
  | linkPllLock
  | retrain (g : Group)
  | linkClearCounters (g : Group)
  | portKeyArm (t : Nat) (arm : W16)
  | portKeyExpire (t : Nat)
  | portModeSwitch (t : Nat) (target : Bool) (confirm : W16)
  | hbWinWrite (w : Fin 1024) (v : W32)
  | xorMaskWrite (t : Nat) (k : Fin 16) (v : W32) (g : Group := 0)
  | violClear (c : Chan)
  | registerWrite (t : Nat) (addr : HostAddr) (v : W32) (g : Group := 0)
  | bankOperation (c : Chan) (b : BankIx) (col : Nat) (garbled : Bool)
  | readRetry (c : Chan) (b : BankIx) (who : Reader) (ok1 : Bool) (ok2 : Bool)
  | refreshTick (c : Chan) (b : BankIx) (col : Nat := 0)
  | forcedRefresh (c : Chan) (b : BankIx) (col : Nat)
  | idleRefresh (c : Chan) (b : BankIx) (col : Nat)
  | strictRefreshSlot (c : Chan) (b : BankIx) (col : Nat)
  | memClearCounters (c : Chan)
  | hardwareSweep (c : Chan) (bad : List LaneTaps)
  | sweepDone (c : Chan)
  | sweep (c : Chan)
  | nudgeUp (c : Chan)
  | nudgeDown (c : Chan)
  | patternGo (c : Chan)
  | patternRunDone (c : Chan) (mismatches : Nat)
  | doorbell (c : Chan) (r : Rec) (v : W32)
  | dbRingWrite (c : Chan) (r : Rec) (v : W32)
  | dbCqWrite (c : Chan) (r : Rec) (v : W32)
  | cqHeadWrite (c : Chan) (r : Rec) (v : W32)
  | commandRead (c : Chan) (r : Rec) (parity : Option Storage := none)
  | tornReread (c : Chan) (r : Rec) (parity : Option Storage := none)
  | tornCommand (c : Chan) (r : Rec)
  | dispatch (c : Chan) (r : Rec) (parity : Option Storage)
  | castOn (c : Chan) (r : Rec)
  | layer (c : Chan) (r : Rec) (pos : CmdNo)
  | patch (c : Chan) (r : Rec) (pos : CmdNo)
  | copy (c : Chan) (r : Rec) (pos : CmdNo)
  | stagedCopyWrite (c : Chan) (r : Rec) (pos : CmdNo)
  | fill (c : Chan) (r : Rec) (pos : CmdNo)
  | gather (c : Chan) (r : Rec) (pos : CmdNo)
  | signal (c : Chan) (r : Rec) (pos : CmdNo)
  | wait (c : Chan) (r : Rec) (pos : CmdNo)
  | fenceChannel (c : Chan) (r : Rec) (pos : CmdNo)
  | fenceModule (c : Chan) (r : Rec) (pos : CmdNo)
  | digest (c : Chan) (r : Rec) (pos : CmdNo)
  | abort (c : Chan) (r : Rec)
  | bindOff (c : Chan) (r : Rec)
  | hintCodePrefetch (c : Chan) (r : Rec) (pos : CmdNo)
  | hintRowOpen (c : Chan) (r : Rec) (pos : CmdNo)
  | completion (c : Chan) (r : Rec) (pos : CmdNo)
  | stopEvent (c : Chan) (r : Rec) (pos : CmdNo)
  | abortSlack (c : Chan) (r : Rec)
  | watchdogFire (c : Chan) (r : Rec)
  | codeBusyClear (c : Chan)
  | layerStart (sl : SliceId)
  | fetch (sl : SliceId) (e : Engine) (lens : List Nat) (parity : Option Storage)
  | icacheMissReturn (sl : SliceId) (e : Engine)
  | sliceStop (sl : SliceId)
  | deschedule (sl : SliceId)
  | resume (sl : SliceId)
  | endOp (sl : SliceId) (e : Engine)
  | nop (sl : SliceId) (e : Engine)
  | semSig (sl : SliceId) (e : Engine) (k : Fin 16) (n : Fin 256)
  | semWait (sl : SliceId) (e : Engine) (k : Fin 16) (n : Fin 256)
  | fenceEngine (sl : SliceId) (e : Engine)
  | fenceSlice (sl : SliceId) (e : Engine)
  | jmp (sl : SliceId) (e : Engine) (off : Int)
  | brar (sl : SliceId) (e : Engine) (a : AReg) (off : Int)
  | cxLi (sl : SliceId) (d : AReg) (imm : W32)
  | cxAdd (sl : SliceId) (d : AReg) (a : AReg) (b : RegImm16)
  | cxSub (sl : SliceId) (d : AReg) (a : AReg) (b : RegImm16)
  | cxShl (sl : SliceId) (d : AReg) (a : AReg) (b : RegImm5)
  | cxShr (sl : SliceId) (d : AReg) (a : AReg) (b : RegImm5)
  | cxSar (sl : SliceId) (d : AReg) (a : AReg) (b : RegImm5)
  | cxCmp (sl : SliceId) (cond : CxCond) (d : AReg) (a : AReg) (b : RegImm16)
  | cxSel (sl : SliceId) (d : AReg) (cc : AReg) (a : AReg) (b : AReg)
  | cxLdp (sl : SliceId) (d : AReg) (word : Fin 64)
  | cxStp (sl : SliceId) (word : Fin 64) (a : AReg)
  | cxId (sl : SliceId) (d : AReg)
  | cxBr (sl : SliceId) (test : BrTest) (target : Int)
  | cxSumpop (sl : SliceId) (d : AReg)
  | cxSumset (sl : SliceId) (bit : Fin 16) (a : AReg)
  | bxLd (sl : SliceId) (m : BxMove)
  | bxSt (sl : SliceId) (m : BxMove) (parity : Option Storage := none)
  | bxCopy (sl : SliceId) (desc : ScrAddr) (o : AReg) (parity : Option Storage := none)
  | bxFill (sl : SliceId) (desc : ScrAddr) (o : AReg) (parity : Option Storage := none)
  | bxGather (sl : SliceId) (desc : ScrAddr) (parity : Option Storage := none)
  | bxSend (sl : SliceId) (d : AReg) (entry : Fin 16) (src : ScrAddr) (ack : Fin 256) (parity : Option Storage := none)
  | bxSsig (sl : SliceId) (vsync : Fin 256) (amount : RegImm32)
  | bxSsub (sl : SliceId) (vsync : Fin 256) (amount : RegImm32)
  | bxSwatch (sl : SliceId) (vsync : Fin 256) (value : RegImm32)
  | bxBar (sl : SliceId) (vsync : Fin 256)
  | bxRecv (sl : SliceId) (entry : Fin 16) (dst : ScrAddr) (ack : Fin 256)
  | mxZero (sl : SliceId) (first : Fin 32) (count : Nat) (lp : Loop)
  | mxMma (sl : SliceId) (m : MmaOp) (parity : Option Storage)
  | mxRound (sl : SliceId) (m : RoundOp) (parity : Option Storage := none)
  | mxPstore (sl : SliceId) (p : ScrOperand) (x : ScrOperand) (lp : Loop) (first : Fin 32) (count : Nat) (clear : Bool) (parity : Option Storage := none)
  | mxPload (sl : SliceId) (p : ScrOperand) (x : ScrOperand) (lp : Loop) (first : Fin 32) (count : Nat) (parity : Option Storage := none)
  | vxRun (sl : SliceId) (m : VxRun) (parity : Option Storage)
  | vxKset (sl : SliceId) (k : Fin 4) (imm : W32) (fmt : Fmt) (lp : Loop)
  | vxKld (sl : SliceId) (k : Fin 4) (src : ScrOperand) (fmt : Fmt) (lp : Loop) (parity : Option Storage := none)
  | vxRclr (sl : SliceId) (mask : BitVec 4) (lp : Loop)
  | vxRround (sl : SliceId) (r : Fin 4) (dst : RoundDst) (fmt : Fmt) (sat : Bool) (adj : Int) (index : Bool) (lp : Loop)
  | vxRpstore (sl : SliceId) (r : Fin 4) (p : ScrOperand) (x : ScrOperand) (lp : Loop)
  | vxRpload (sl : SliceId) (r : Fin 4) (p : ScrOperand) (x : ScrOperand) (count : Nat) (lp : Loop) (parity : Option Storage := none)
  | vxRpost (sl : SliceId) (sumR : Fin 4) (maxR : Fin 4) (lp : Loop)
  | vxTld (sl : SliceId) (tile : Fin 4) (a : ScrOperand) (lp : Loop) (parity : Option Storage := none)
  | vxTst (sl : SliceId) (tile : Fin 4) (a : ScrOperand) (lp : Loop) (parity : Option Storage := none)
  | vxTtr (sl : SliceId) (src : Fin 4) (dst : Fin 4) (esize : Nat) (lp : Loop) (parity : Option Storage := none)
  | vxTred (sl : SliceId) (tile : Fin 4) (rows : Nat) (axis : Bool) (kind : RKind) (fin : Fmt) (fout : Fmt) (d : ScrOperand) (lp : Loop) (parity : Option Storage := none)
  | vxQblk (sl : SliceId) (x : ScrOperand) (y : ScrOperand) (d : ScrOperand) (blocks : Nat) (fx : Fmt) (fe : Fmt) (lp : Loop) (parity : Option Storage := none)
  | vxTsum (sl : SliceId) (x : ScrOperand) (lp : Loop) (d : ScrOperand) (a : AReg) (b : AReg) (parity : Option Storage := none)
  | vxTadd (sl : SliceId) (p : ScrOperand) (d : ScrOperand) (b : AReg) (lp : Loop) (parity : Option Storage := none)
  | perfClear (sl : SliceId)
  | syncOperation (o : ObjRef)
  | waitRetry (c : Chan)
  | waiterRelease (c : Chan)
  | add (o : ObjRef) (amount : W32) (g : Group := 0)
  | sub (o : ObjRef) (amount : W32) (g : Group := 0)
  | barCfgWrite (o : ObjRef) (v : W32) (g : Group := 0)
  | barStateClear (o : ObjRef) (g : Group := 0)
  | barrierArrival (o : ObjRef)
  | combinerForward (c : Chan) (m : Fin 8192)
  | barrierRelease (c : Chan)
  | messageArrival (sl : SliceId)
  | longWait (c : Chan) (r : Rec)
  | syncClearCounters (c : Chan)
  | hbSyncClearCounters
  | strictWrite (v : Bool)
  | strictOrigin
  | epochTick
  | epochClear
  | strictStatusClear (c : Chan) (mask : BitVec 6)
  | provenanceDigest (c : Chan) (r : Rec) (pos : CmdNo)
  | leafHash (c : Chan) (r : Rec) (pos : CmdNo)
  | payloadReceive (c : Chan) (hop : Hop) (cargo : Cargo) (ok : Bool)
  | transitResend (c : Chan) (ok : Bool)
  | settleNotice (c : Chan)
  | scrubInterval (c : Chan)
  | scrubRead (c : Chan) (b : BankIx) (blk : Fin 128) (ok0 : Bool) (ok1 : Bool) (ok2 : Bool)
  | clearCounters (c : Chan)
  | clearWlog (c : Chan)
  | errorLogRecord
  | errLogClear
  | ownerWait (d : Domain)
  | selfRefreshEntry (c : Chan)
  | pointOfNoReturn (d : Domain)
  | wakeSource (d : Domain)
  | transitionComplete (d : Domain)
  | selfRefreshExit (c : Chan)
  | targetWrite (d : Domain) (v : BitVec 2)
  | pllReq (c : Chan)
  | pllLock (c : Chan)
  | pllLockLoss (c : Chan)
  | opTargetWrite (c : Chan) (v : BitVec 2)
  | opPointChangeDone (c : Chan)
  | pwrRefusalClear (d : Domain)
  | pwrBankClearCounters (c : Chan)
  | ledgerAllowWrite (c : Chan) (v : W32)
  | limiterWindow (c : Chan) (drawMw : Nat)
  | sensorRead (readings : List (Nat × Int))
  | thermalTrip (sensor : Fin 2608) (reading : Int)
  | thermStatClear
  | submit
  | debug
  | lifecycle (blows : List Bool)
  | revoke (blows : List Bool)
  | secver (blows : List Bool)
  | owner (blows : List Bool)
  | challenge
  | attestGo
  | reportSigned
  | sessionKeyGenerated (blows : List Bool)
  | relock
  | bypass (tdi : List Bool)
  | idcode
  | extest (tdi : List Bool)
  | samplePreload (tdi : List Bool)
  | tapTokenLoad (off : Nat) (bytes : List Byte)
  | dbgObserve (addr : HostAddr)
  | dbgAccess (a : DbgOp)
  | dbgScan (d : Domain) (tdi : List Bool)
  | porstNAssert (aonCycles : Nat)
  | warmrstNAssert (aonCycles : Nat)
  | boot (env : BootEnv)
  | refclkLoss
  | modulePowerOff
  | inputStageCharged
  | startLink
  | bootGo
  | recover (key : W16)
  | abandon
  | loadTimeout
  | firmwareVerified
  | mgmtWatchdogExpire
  | shedMeasure (busyPct : Nat)
  | repairRecord (kind : RepairKind) (c : Chan) (b : BankIx) (target : W16)
  | getBootStatus (pec : Bool)
  | fwBegin (pec : Bool)
  | fwChunk (pec : Bool) (off : W32) (bytes : List Byte)
  | fwEnd (pec : Bool)
  | getChallenge (pec : Bool)
  | tokenLoad (pec : Bool) (off : W16) (bytes : List Byte)
  | tokenSubmit (pec : Bool)
  | attest (pec : Bool) (nonce : List Byte)
  | attestRead (pec : Bool) (off : W16) (len : Nat)
  | errlogRead (pec : Bool) (first : Byte) (count : Nat)
  | darnRead (pec : Bool) (c : W16)
  | traceRead (pec : Bool) (first : W16) (count : Nat)
  | setEndpointId (pec : Bool) (eid : Byte)
  | getEndpointId (pec : Bool)
  | getMctpVersionSupport (pec : Bool) (msgType : Byte)
  | getMessageTypeSupport (pec : Bool)
  | getVendorMessageSupport (pec : Bool)
  | getSensorReading (pec : Bool) (sensor : PldmSensor)
  | platformEventMessage (bit : Fin 13)
  | dramSelfRefreshTick (c : Chan)
  | refclkRunsAgain (us : Nat)
  | vaonApplied
  | vaonRemoved
  | trstNAssert
deriving DecidableEq, Repr

end Sys2Proof
end

