-- ==== Sys2Proof/WellFormed.lean ====
section
/-! DEFINITION. Which commands are well formed: operand combinations the Erpel interface can encode (06 R186; 07 R212, Tables 3
to 5; 08 Tables 1 to 4, R223, R231) and payloads of the length their carrier has (03 R81, R95; 04 R118). -/

namespace Sys2Proof

/-! ## Loops and operands (06 R186, Table 7) -/

def Count.ok : Count → Bool
  | .lit n => decide (1 ≤ n ∧ n ≤ 65536)
  | .reg _ => true

/-- A nest of at most `limit` levels with encodable counts. -/
def Loop.ok (limit : Nat) (lp : Loop) : Bool := decide (lp.counts.length ≤ limit) && lp.counts.all Count.ok

/-- Levels of a nest; a descriptor without counts is one level of count 1. -/
def Loop.levels (lp : Loop) : Nat := max 1 lp.counts.length

def strideOk (lo hi : Int) (d : Int) : Bool := decide (lo ≤ d ∧ d ≤ hi)

/-- Strides within a level's range, one per level, and a queue level of the nest. MX and BX operands name no tile buffer (08 R219). -/
def ScrOperand.ok (lp : Loop) (o : ScrOperand) : Bool :=
  o.strides.all (strideOk (-32768) 32767) && decide (o.strides.length ≤ lp.levels ∧ o.qlevel < lp.levels)

def BxMove.ok (m : BxMove) : Bool :=
  m.lp.ok 6 && m.scr.ok m.lp && m.scr.tile.isNone && m.dstrides.all (strideOk (-2147483648) 2147483647) && decide (m.dstrides.length ≤ m.lp.levels)

/-! ## Matrix operations (07 Tables 3 to 5) -/

def Fmt.fp46 : Fmt → Bool
  | .e2m1 | .e2m3 | .e3m2 => true
  | _ => false

def Fmt.fp8 : Fmt → Bool
  | .e4m3 | .e5m2 => true
  | _ => false

def Fmt.half : Fmt → Bool
  | .bf16 | .fp16 => true
  | _ => false

/-- The pairs of Table 4 of 07. -/
def mmaPair (a b : Fmt) : Bool :=
  (a.fp46 && b.fp46) || (a.fp8 && (b.fp8 || b.fp46)) || (a.fp46 && b.fp8) || (a.half && b.half)
    || decide (a = .fp32 ∧ b = .fp32) || decide (a = .int8 ∧ b = .int8)

/-- Block scaling a format admits: fixed at 1 for FP4 and FP6, free for FP8, fixed at 0 otherwise. -/
def scaleOk (f : Fmt) (s : Bool) : Bool := if f.fp46 then s else if f.fp8 then true else !s

def MmaOp.ok (m : MmaOp) : Bool :=
  m.lp.ok 4 && m.a.ok m.lp && m.b.ok m.lp && m.s.ok m.lp && m.a.tile.isNone && m.b.tile.isNone && m.s.tile.isNone && mmaPair m.fa m.fb && scaleOk m.fa m.sa && scaleOk m.fb m.sb
    && !(m.sparse && decide (m.fa = .fp32))

/-- MX.ROUND outputs (07 Table 4). -/
def Fmt.mxOut : Fmt → Bool
  | .e4m3 | .e5m2 | .bf16 | .fp16 | .fp32 | .int8 | .int32 => true
  | _ => false

def adjOk (a : Int) : Bool := decide (-64 ≤ a ∧ a ≤ 63)

def RoundOp.ok (m : RoundOp) : Bool := m.lp.ok 4 && m.d.ok m.lp && m.d.tile.isNone && m.fmt.mxOut && adjOk m.adj

/-- The block's first accumulator has a place in Table 3 of 07: 0 or 16 for 4x4, 0 otherwise. -/
def accBaseOk (sh : Shape) (base : Nat) : Bool := decide (base = 0) || (decide (sh = .s4x4) && decide (base = 16))

/-! ## Vector operations (08) -/

/-- Stage formats (08 Table 3). -/
def Fmt.stage : Fmt → Bool
  | .bf16 | .fp16 | .fp32 | .fp64 | .int16 | .int32 => true
  | _ => false

/-- Formats a stage operation admits (08 Table 4, R223). -/
def StageOp.fmtOk (op : StageOp) (f : Fmt) : Bool :=
  match op with
  | .and | .or | .xor | .shl | .shr | .sar => decide (f = .int16 ∨ f = .int32)
  | .exp2 | .log2 | .rcp | .rsq => decide (f = .fp32 ∨ f = .bf16 ∨ f = .fp16)
  | _ => f.stage

/-- Sources a stage operation reads. -/
def StageOp.arity : StageOp → Nat
  | .mov | .abs | .neg | .exp2 | .log2 | .rcp | .rsq => 1
  | .fma | .sel => 3
  | _ => 2

def Stage.srcs (st : Stage) : List Src := [st.a, st.b, st.c].take st.op.arity

/-- A source readable after the chain registers in `w` were written. -/
def Src.ok (w : List (Fin 16)) : Src → Bool
  | .t i => w.contains i
  | _ => true

/-- Every stage encodable, reading only what earlier stages wrote. -/
def stagesOk : List (Fin 16) → List Stage → Bool
  | _, [] => true
  | w, st :: r => st.op.fmtOk st.fmt && st.srcs.all (Src.ok w) && stagesOk (st.dst :: w) r

/-- No FP64 stage shares lanes with another format (08 R223). -/
def lanesOk (sts : List Stage) : Bool := sts.all (fun st => decide (st.fmt ≠ .fp64)) || sts.all (fun st => decide (st.fmt = .fp64))

/-- Chain registers a chain writes. -/
def chainDsts (sts : List Stage) : List (Fin 16) := sts.map (·.dst)

/-- The format a tap has: FP64 taps of SUM and SUMSQ have no encoding (08 R231). -/
def tapFmt (m : VxRun) : Src → Fmt
  | .x => m.fx
  | .y => if m.xScaled then .e8m0 else m.fy
  | .t i => match m.stages.reverse.find? (fun st => st.dst = i) with
    | some st => (match st.op with | .cmp _ => .int32 | _ => st.fmt)
    | none => .fp32
  | _ => .fp32

def RedSet.ok (m : VxRun) (r : RedSet) : Bool :=
  match r.kind with
  | .none => true
  | k =>
    (match r.tap with | .x | .y => true | .t i => (chainDsts m.stages).contains i | _ => false)
      && !((decide (k = .sum) || decide (k = .sumsq)) && decide (tapFmt m r.tap = .fp64))

def VxRun.ok (m : VxRun) : Bool :=
  m.lp.ok 4 && m.x.ok m.lp && m.y.ok m.lp && m.d.ok m.lp
    && (match m.n with | .lit n => decide (1 ≤ n ∧ n ≤ 8192) | .reg _ => true)
    && decide (1 ≤ m.stages.length ∧ m.stages.length ≤ 32) && stagesOk [] m.stages && lanesOk m.stages
    && (match m.out with | some i => (chainDsts m.stages).contains i | none => true)
    && decide (m.red.length = 4) && m.red.all (RedSet.ok m)
    && (!m.fx.fp46 || decide (m.xs = 1)) && (m.xScaled || !m.fy.fp46 || decide (m.ys = 1)) && (!m.fd.fp46 || decide (m.ds = 1))

/-- VX.QBLK: X in FP32, BF16 or FP16; elements of Table 8 of 08; 1 to 256 blocks. -/
def qblkOk (fx fe : Fmt) (blocks : Nat) : Bool :=
  decide (fx = .fp32 ∨ fx.half = true) && (fe.fp46 || fe.fp8) && decide (1 ≤ blocks ∧ blocks ≤ 256)

/-- VX.TRED: 1 to 16 rows, a kind of 08 R238, no FP64 sums. -/
def tredOk (rows : Nat) (kind : RKind) (fin : Fmt) : Bool :=
  decide (1 ≤ rows ∧ rows ≤ 16)
    && (match kind with
      | .sum | .sumsq => decide (fin ≠ .fp64)
      | .max | .min => true
      | _ => false)

/-- A count field of 1 or more (07 Table 5); more than 32 is a fault of 07 R214. -/
def accCountOk (n : Nat) : Bool := decide (1 ≤ n)

/-! ## Commands -/

/-- A command whose operands have an encoding or a carrier of the right length. -/
def Instr.wf : Instr → Bool
  | .downstreamFlit _ _ lanes => decide (lanes.length = 8) && lanes.all (fun l => decide (l.length = 37))
  | .trainingSetReceive _ lanes skews _ => decide (lanes.length = 8 ∧ skews.length = 8) && lanes.all (fun l => decide (l.length = 37))
  | .write _ _ _ _ data _ => decide (data.length = 64)
  | .bxLd _ m => m.ok
  | .bxSt _ m _ => m.ok
  | .mxZero _ _ n lp => accCountOk n && lp.ok 4
  | .mxMma _ m _ => m.ok
  | .mxRound _ m _ => m.ok
  | .mxPstore _ p x lp _ n _ _ => accCountOk n && lp.ok 4 && p.ok lp && x.ok lp && p.tile.isNone && x.tile.isNone
  | .mxPload _ p x lp _ n _ => accCountOk n && lp.ok 4 && p.ok lp && x.ok lp && p.tile.isNone && x.tile.isNone
  | .vxRun _ m _ => m.ok
  | .vxKset _ _ _ f lp => decide (f ≠ .fp64) && lp.ok 4
  | .vxKld _ _ o _ lp _ => lp.ok 4 && o.ok lp
  | .vxRclr _ _ lp => lp.ok 4
  | .vxRround _ _ _ _ _ adj _ lp => lp.ok 4 && adjOk adj
  | .vxRpstore _ _ p x lp => lp.ok 4 && p.ok lp && x.ok lp
  | .vxRpload _ _ p x _ lp _ => lp.ok 4 && p.ok lp && x.ok lp
  | .vxRpost _ _ _ lp => lp.ok 4
  | .vxTld _ _ o lp _ => lp.ok 4 && o.ok lp
  | .vxTst _ _ o lp _ => lp.ok 4 && o.ok lp
  | .vxTtr _ a b n lp _ => lp.ok 4 && decide (a ≠ b) && decide (n = 1 ∨ n = 2 ∨ n = 4 ∨ n = 8)
  | .vxTred _ _ rows _ kind fin _ d lp _ => lp.ok 4 && d.ok lp && tredOk rows kind fin
  | .vxQblk _ x y d n fx fe lp _ => lp.ok 4 && x.ok lp && y.ok lp && d.ok lp && qblkOk fx fe n
  | .vxTsum _ x lp _ _ _ _ => lp.ok 4 && x.ok lp
  | .vxTadd _ p d _ lp _ => lp.ok 4 && p.ok lp && d.ok lp
  | .semSig _ _ _ n => decide (n ≠ 0)
  | .semWait _ _ _ n => decide (n ≠ 0)
  | .jmp _ e _ => decide (e ≠ .cx)
  | .brar _ e _ _ => decide (e ≠ .cx)
  | .bxSsig _ _ n => decide (n ≠ .imm 0)
  | .bxSsub _ _ n => decide (n ≠ .imm 0)
  | .cxSumpop _ d => decide (1 ≤ d.val ∧ d.val ≤ 27)
  | .fetch _ _ lens _ => lens.all (fun n => decide (1 ≤ n)) && decide (lens.foldl (· + ·) 0 ≤ 64)
  | _ => true

end Sys2Proof
end

