-- ==== Sys2Proof/Config.lean ====
section
/-! DEFINITION. What an implementation fixes and the spec leaves open: constants with no body (log entries 9, 10, 15, 17). -/

namespace Sys2Proof

/-- A byte of the true random generator, of a key the engine generates, or of a signature it makes: free, one value
per use (15 R383, R387, R391, R395). The first argument numbers the draw, the second the byte. -/
opaque Config.freeByte : Nat → Nat → Byte

/-- XMSS verification with SHAKE256 of a tree of the given height, as NIST SP 800-208 defines it (15 R384, R392):
public key, message, signature. The standard's algorithm is not in the spec. -/
opaque Config.xmssVerify : Nat → List Byte → List Byte → List Byte → Bool

/-- Delay, in units of 1/210 ns, from the pins to column cycle 0 at the bank, which places the pin-referred period
(04 R123; Table 13 calls the internal segments design values). -/
opaque Config.pinToBank : Nat

/-- Bytes of a staging area after a staged copy, which are undefined (09 R256): draw, byte. -/
opaque Config.stagingByte : Nat → Nat → Byte

/-- Enumerations that the spec leaves to other standards: JEP106 identity of Svetlith, 11 bits (17 R442), and its
enterprise number (16 R423). -/
opaque Config.jep106 : BitVec 11
opaque Config.enterprise : W32

/-- Test data read through scan or boundary chains whose layout the spec does not give (15 R398): draw, bit. -/
opaque Config.scanBit : Nat → Nat → Bool

end Sys2Proof
end

