-- ==== Sys2Proof/Machine/State.lean ====
section
/-! DEFINITION. The state of the block as plain data, its reset value, and the reasons to stop. The home chapter and
rule of each field stand in INVENTORY.md; docstrings here name the chapter and table. -/

namespace Sys2Proof.Machine

/-- A sparse array: index and entry, indexes strictly rising. What an absent index holds is said where it is read. -/
abbrev Table (α : Type) := List (Nat × α)

/-- Byte memory in one canonical form: addresses strictly rising and no entry equal to 0, which an unlisted
address reads as (log 7). -/
abbrev Memory := List Host.Cell

/-! ## Slice (06, 07, 08, 10) -/

/-- An accumulator: value V x 2^-300 and three flags (07 R203). -/
structure Acc where
  v : BitVec 640
  nan : Bool
  posInf : Bool
  negInf : Bool
deriving DecidableEq, Repr

def Acc.zero : Acc := ⟨0, false, false, false⟩

/-- The extreme record of a reducer: value in its format, index, NaN flag (08 R230, R232). -/
structure Extreme where
  fmt : Fmt
  bits : W64
  index : Nat
  nan : Bool
deriving DecidableEq, Repr

/-- A reducer (08 R230): accumulator, extreme (empty until its first element), counts, whether the latest taps were
integers, whether an infinity was reduced, current kind. -/
structure Reducer where
  acc : Acc
  ext : Option Extreme
  elems : Nat
  nonzero : Nat
  nans : Nat
  intTap : Bool
  inf : Bool
  kind : RKind
deriving DecidableEq, Repr

def Reducer.zero : Reducer := ⟨.zero, none, 0, 0, 0, false, false, .none⟩

/-- A VX constant register: a value in a stated format (08 R229). -/
structure ConstReg where
  fmt : Fmt
  bits : W64
deriving DecidableEq, Repr

/-- One summary entry of five words (08 Table 7). -/
structure SumEntry where
  sum : W32
  max : W32
  nonzero : W32
  nans : W32
  flags : W32
deriving DecidableEq, Repr

/-- A full mailbox entry: data, sender's record and generation, acknowledgement object, sender's tag (10 R301). -/
structure Mail where
  data : List Byte
  record : Rec
  gen : Byte
  ack : ObjRef
  tag : W32
deriving DecidableEq, Repr

/-- SL_ENG state (06 Table 3) but for 3, fetch wait, which is an empty queue with a missed line. -/
inductive EngState where
  | idle | issuing | semWait | draining | stopped | faulted
deriving DecidableEq, Repr

/-- An engine: pc, byte lengths of the queued operations, state, the bounds of its section in the code store, the
iterations of the head operation already issued, a missed line, whether it has a program, the semaphore and count it waits
for, the address registers as the head operation read them at issue, and the elements a VX.TSUM has read (06 R173, R177). -/
structure EngineSt where
  pc : BitVec 18
  queue : List Nat
  state : EngState
  lo : Nat
  hi : Nat
  loopPos : Nat
  miss : Option Nat
  active : Bool
  waitSem : Option (Fin 16 × Nat)
  issued : Option (Table W32)
  vals : List W64
deriving DecidableEq, Repr

def EngineSt.zero : EngineSt := ⟨0, [], .idle, 0, 0, 0, none, false, none, none, []⟩

/-- What BX waits for beyond the slice (10 R288, R289, R294, R302). -/
inductive BxWait where
  | none
  | result
  | watch (o : ObjRef) (v : W32)
  | bar (o : ObjRef)
  | recv (entry : Fin 16)
deriving DecidableEq, Repr

/-- The LAYER that runs on a slice: context record, generation, tag, ring position, strict flag, the flags of its code object,
the number of balanced gathers issued, and skein words 0 and 8 to 23 as LAYER start interpreted them (06 Table 2, R181, 08 R240, 09 R270). -/
structure LayerRun where
  record : Rec
  gen : Byte
  tag : W32
  pos : Nat
  strict : Bool
  fp64 : Bool
  pools : Nat
  cfg : List W32
deriving DecidableEq, Repr

/-- Work a slice has been given, in dispatch order (05 R158). -/
structure WorkRef where
  record : Rec
  pos : Nat
deriving DecidableEq, Repr

/-- The shadow frame (10 R297). -/
structure Shadow where
  layer : LayerRun
  engines : Table EngineSt
  sems : Table Nat
  summary : W16
  sumQ : List SumEntry
  ars : Table W32
  qHead : Table Nat
  qTail : Table Nat
  bxWait : BxWait
  satisfied : Bool
deriving DecidableEq, Repr

/-- A line of the instruction cache: its 64-byte line number in the code store and whether it is pinned (06 R178, R180). -/
structure ILine where
  line : Nat
  pinned : Bool
deriving DecidableEq, Repr

/-- A slice (06 R169). `waitStart` is the reference cycle in which the latest of its engines to wait began, `waitUs` the desched_us then
in force (10 R297, R307). -/
structure SliceSt where
  scratch : Memory
  tiles : Memory
  accs : Table Acc
  skein : Table W32
  sems : Table Nat
  ars : Table W32
  summary : W16
  sumQ : List SumEntry
  qHead : Table Nat
  qTail : Table Nat
  consts : Table ConstReg
  reds : Table Reducer
  mail : Table Mail
  owner : Option (Rec × Byte)
  shadow : Option Shadow
  engines : Table EngineSt
  bxWait : BxWait
  waitStart : Nat
  waitUs : Nat
  layer : Option LayerRun
  work : List WorkRef
  stopReq : Bool
  fetchNext : Nat
  icache : List ILine
  pinned : Bool
  pinTrunc : Bool
  pinnedLines : Nat
  perf : Table Nat
  perfSat : BitVec 8
  perfEnable : Bool
  halted : Bool
  stepping : Bool
  breaks : List Nat
deriving DecidableEq, Repr

def SliceSt.zero : SliceSt where
  scratch := []
  tiles := []
  accs := []
  skein := []
  sems := []
  ars := []
  summary := 0
  sumQ := []
  qHead := []
  qTail := []
  consts := []
  reds := []
  mail := []
  owner := none
  shadow := none
  engines := []
  bxWait := .none
  waitStart := 0
  waitUs := 0
  layer := none
  work := []
  stopReq := false
  fetchNext := 0
  icache := []
  pinned := false
  pinTrunc := false
  pinnedLines := 0
  perf := []
  perfSat := 0
  perfEnable := true
  halted := false
  stepping := false
  breaks := []

/-! ## Sync objects (10) -/

/-- Who waits in a waiter slot (10 Table 4). -/
inductive WaiterBy where
  | command (c : Chan) (r : Rec) (pos : Nat)
  | watch (c : Chan) (entry : Nat)
  | combiner (c : Chan)
deriving DecidableEq, Repr

/-- An occupied waiter slot; `age` is its place in the serial order (10 R283). -/
structure Waiter where
  who : WaiterBy
  consume : Bool
  value : W32
  age : Nat
deriving DecidableEq, Repr

/-- The last-signaller record (10 R278, Table 4). -/
structure LastSig where
  channel : Nat
  record : Nat
  gen : Byte
  host : Bool
  slice : SliceId
  fromSlice : Bool
  tag : W32
deriving DecidableEq, Repr

/-- A sync object (10 R278). -/
structure SyncObj where
  count : W32
  waiters : Table Waiter
  nextAge : Nat
  participants : Nat
  barrierEn : Bool
  sense : Bool
  arrived : Nat
  forwarded : List Nat
  last : LastSig
  error : Bool
  lastFault : Byte
deriving DecidableEq, Repr

def SyncObj.zero : SyncObj := ⟨0, [], 0, 0, false, false, 0, [], ⟨0, 0, 0, false, 0, false, 0⟩, false, 0⟩

/-- A party that changes or waits on an object (10 "Signal and wait"). -/
inductive Party where
  | command (c : Chan) (r : Rec) (gen : Byte) (pos : Nat) (tag : W32)
  | slice (sl : SliceId) (r : Rec) (gen : Byte) (pos : Nat) (tag : W32)
  | host
deriving DecidableEq, Repr

/-- Operations on an object; `ack` is an acknowledgement signal with the error cause of a dropped message (10 R282, R304). -/
inductive SyncAct where
  | signal (n : W32)
  | subtract (n : W32)
  | wait (n : W32) (consume : Bool)
  | watch (entry : Nat) (n : W32)
  | ack (cause : Byte)
deriving DecidableEq, Repr

/-- An operation on its way to an object. `cycle` is the cycle it arrives in, `rank` its place in the order of R283. -/
structure SyncMsg where
  obj : ObjRef
  act : SyncAct
  who : Party
  cycle : Nat
  rank : Nat
deriving DecidableEq, Repr

/-- Who arrives at a barrier: a slice with the context record, generation, ring position and tag of its LAYER (10 R295). -/
structure Arriver where
  sl : SliceId
  record : Rec
  gen : Byte
  pos : Nat
  tag : W32
deriving DecidableEq, Repr

/-- Arrivals on their way to a barrier object, with the channel that forwards them (10 R293, R295), and their place in the order of R283 as a
sync operation has it. -/
structure Arrival where
  obj : ObjRef
  channel : Chan
  who : List Arriver
  cycle : Nat
  rank : Nat
deriving DecidableEq, Repr

/-- A release on its way to a waiter (10 R284, R295). -/
inductive Release where
  | waiter (who : WaiterBy)
  | result (sl : SliceId) (record : Rec) (pos : Nat) (fault : Byte)
  | barrier (o : ObjRef) (sense : Bool)
deriving DecidableEq, Repr

/-- A message on its way to a mailbox (10 R301). -/
structure Msg where
  dst : SliceId
  entry : Fin 16
  mail : Mail
  src : Party
deriving DecidableEq, Repr

/-- A watch entry (10 R289). -/
structure WatchEntry where
  obj : ObjRef
  value : W32
  slices : List SliceId
deriving DecidableEq, Repr

/-- A combiner's barrier (10 R294, R295): arrivals of the running sequencer cycle not yet forwarded, and the slices that
wait with the context record of their LAYER and the sense bit recorded, none until the arrival is counted. -/
structure Combiner where
  obj : ObjRef
  gathered : List Arriver
  waiting : List (SliceId × Rec × Option Bool)
deriving DecidableEq, Repr

/-- A wait held by its channel for want of a slot, a watch entry or a combiner (10 R285). -/
inductive Held where
  | wait (m : SyncMsg)
  | watch (sl : SliceId) (r : Rec) (o : ObjRef) (v : W32)
  | bar (a : Arriver) (o : ObjRef)
deriving DecidableEq, Repr

/-! ## Contexts and commands (05) -/

/-- Context states (05 Table 1). -/
inductive CtxState where
  | free | active | halted | aborting | slack | binding
deriving DecidableEq, Repr

/-- Command types (05 Table 4). -/
inductive CmdType where
  | castOn | layer | patch | copy | fill | gather | signal | wait | fence | digest | abort | bindOff | hint
deriving DecidableEq, Repr

/-- An execution fault (05 Table 8, 06 R177). -/
structure FaultInfo where
  cause : Byte
  slice : SliceId
  engine : Engine
  detail : W64
deriving DecidableEq, Repr

/-- How far a command in flight has come. -/
inductive Phase where
  | dispatched | executing | staged | finished
deriving DecidableEq, Repr

/-- The hashing that precedes execution, or that a DIGEST is (11 R318 to R321): leaves still to absorb as
(entry, leaf number), and the 32-byte leaf values obtained. -/
structure HashJob where
  todo : List (Nat × Nat)
  got : List ((Nat × Nat) × List Byte)
  formed : Option (List Byte)
deriving DecidableEq, Repr

/-- A command in flight: dispatched and without a record. `pos` is its number, `ring` its position in the ring; `todo`, `running`,
`finished` and `stopped` are its selected slices as they stand; `banks` the banks it leases. -/
structure Cmd where
  pos : Nat
  ring : Nat
  typ : CmdType
  tag : W32
  raw : List Byte
  desc : List Byte
  prov : List Byte
  skein : List W32
  phase : Phase
  todo : List SliceId
  running : List SliceId
  finished : List (SliceId × W16)
  stopped : List SliceId
  staging : List (SliceId × List (Nat × List Byte))
  charge : Nat
  lent : Nat
  hash : Option HashJob
  fault : Option FaultInfo
  stopReq : Bool
  released : Bool
  stopEvent : Bool
  banks : List Nat
  nextItem : Nat
  pools : List (List Byte × Nat)
deriving DecidableEq, Repr

/-- The command read at cons and not dispatched (05 R151). -/
structure Fetched where
  pos : Nat
  raw : List Byte
  torn : Bool
  firstRead : Nat
deriving DecidableEq, Repr

/-- An abort in progress (05 R164, R165); `byHost` tells whether any ABORT started or joined it, `raws` the ABORT commands it covers, in order
of acceptance, for their flags (R161). -/
structure AbortSt where
  cause : Byte
  byHost : Bool
  discarded : Nat
  firstTag : W32
  lastTag : W32
  lastPos : Nat
  number : Nat
  raws : List (List Byte)
deriving DecidableEq, Repr

/-- A context record (05 R142, R143, R146). `waitStart` is the reference cycle of the latest event that could begin its long wait, `waitUs`
the lend_us then in force (10 R298, R307); `tornScan` is the position of a torn command that the header scan has met and the reference cycle
of its first reading, `ended` the positions of commands that ended torn in the scan, before cons came to them (R151, "Abort"). -/
structure Ctx where
  state : CtxState
  strict : Bool
  balance : Bool
  gen : Byte
  lastCause : Byte
  prod : Nat
  ringBase : Nat
  ringSlots : Nat
  cqBase : Nat
  cqEntries : Nat
  cqHead : Nat
  cons : Nat
  cqTail : Nat
  overruns : Nat
  torn : Nat
  sliceSet : W32
  pageFirst : Nat
  pageCount : Nat
  chanFirst : Nat
  chanCount : Nat
  modFirst : Nat
  modCount : Nat
  watchdogMs : Nat
  watchdogStart : Nat
  fetched : Option Fetched
  inflight : List Cmd
  serial : Nat
  summaries : List (Nat × W16)
  scan : Nat
  found : List Nat
  covers : List Nat
  abort : Option AbortSt
  longWait : Bool
  waitStart : Nat
  waitUs : Nat
  tornScan : Option (Nat × Nat)
  ended : List Nat
deriving DecidableEq, Repr

def Ctx.zero : Ctx where
  state := .free
  strict := false
  balance := false
  gen := 0
  lastCause := 0
  prod := 0
  ringBase := 0
  ringSlots := 0
  cqBase := 0
  cqEntries := 0
  cqHead := 0
  cons := 0
  cqTail := 0
  overruns := 0
  torn := 0
  sliceSet := 0
  pageFirst := 0
  pageCount := 0
  chanFirst := 0
  chanCount := 0
  modFirst := 0
  modCount := 0
  watchdogMs := 0
  watchdogStart := 0
  fetched := none
  inflight := []
  serial := 0
  summaries := []
  scan := 0
  found := []
  covers := []
  abort := none
  longWait := false
  waitStart := 0
  waitUs := 0
  tornScan := none
  ended := []

/-! ## Channel (02, 04, 05, 09 to 14) -/

/-- A darning entry: the physical bank that serves a logical bank, the gap among its slices, and what of both field repairs
gave (01 R19, R20, Table 3). -/
structure Darn where
  physBank : Nat
  gap : Nat
  fieldBank : Bool
  fieldSlice : Bool
deriving DecidableEq, Repr

/-- What a training row holds: the pattern the helper wrote last, 0 none, and the draw that numbers its free bytes (02 R40, R66). -/
structure TrainRow where
  pattern : Nat
  draw : Nat
deriving DecidableEq, Repr

/-- A spare row that a copy has filled and no mapping serves yet: 8 KiB of data and the row's 128 check words (02 R40, R73). -/
structure SpareRow where
  data : List Byte
  checks : List W32
deriving DecidableEq, Repr

/-- States of a power domain (13 Table 11). -/
inductive PState where
  | on | waking | retention | off
deriving DecidableEq, Repr

/-- A power domain: target as written, state, the state it is on its way to, whether the target was written during a transition and waits
for its end, whether its owner's condition held when last looked at, refusals (13 R345 to R348). -/
structure PowerDom where
  target : BitVec 2
  state : PState
  going : Option PState
  held : Bool
  waiting : Bool
  refused : Nat
  refuser : Nat
deriving DecidableEq, Repr

def PowerDom.zero : PowerDom := ⟨0, .on, none, false, false, 0, 0⟩

/-- A host request admitted to a bank (02 R50, 04 R129). `lost` marks a write whose data failed twice in transit (12 R334); `owned` tells
whether the host owned the block's check, and `strict` whether STRICT was set, when it reached the switch (04 R113, 11 R309). -/
structure BankReq where
  id : Nat
  t : Nat
  blk : Nat
  isWrite : Bool
  data : List Byte
  byteEn : W64
  check : W32
  lost : Bool
  owned : Bool
  strict : Bool
deriving DecidableEq, Repr

/-- A logical bank as its refresh and scheduling unit sees it (02 R42, R49, R55, R57; 04 R129). Times are column cycles; `refreshed` is the
physical row the latest refresh covered, `tickAt` the cycle after its latest interval tick, `closedEnd` the sequencer cycle in which its latest
lease under CLOSED ended (04 R130). -/
structure BankSt where
  openRow : Option Nat
  debt : Nat
  rowPtr : Nat
  refreshed : Nat
  tickAt : Nat
  actAt : Option Nat
  readyAt : Nat
  wrAt : Option Nat
  queue : List BankReq
  failing : Option BankReq
  lease : Option Bool
  closedEnd : Option Nat
  pwr : PowerDom
deriving DecidableEq, Repr

def BankSt.zero : BankSt := ⟨none, 0, 0, 0, 0, none, 0, none, [], none, none, none, .zero⟩

/-- A trained lane (02 Table 11). -/
structure LaneTrain where
  mainTap : Nat
  eyeWidth : Nat
  failed : Bool
  mismatch : Nat
deriving DecidableEq, Repr

def LaneTrain.zero : LaneTrain := ⟨0, 0, false, 0⟩

/-- How far a sweep has come: none runs, its TSV phase is due, its bond phases are due, all phases have run (02 R62, R70). -/
inductive SweepPhase where
  | none | tsv | bond | done
deriving DecidableEq, Repr

/-- Training state of a channel (02 Tables 9 to 11). `dflt` tells whether a sweep has set every lane the table does not
list to the clean-eye setting; `lostTaps` names the draw of the free taps that stand in for samplers lost in OFF;
`steered` lists the failed TSV lanes carried by spares. -/
structure TrainSt where
  freeze : Bool
  pattern : Nat
  phase : SweepPhase
  lostTaps : Option Nat
  patterning : Bool
  refused : Bool
  sel : W32
  dflt : Bool
  lanes : List (LaneSel × LaneTrain)
  steered : List LaneSel
  failedBond : List LaneSel
  tsvOver : Bool
deriving DecidableEq, Repr

def TrainSt.zero : TrainSt := ⟨false, 0, .none, none, false, false, 0, false, [], [], [], false⟩

/-- A writer-log entry (12 Table 2). -/
structure WLog where
  tag : W32
  channel : Nat
  record : Nat
  gen : Byte
  host : Bool
  mixed : Bool
  pend : Bool
  valid : Bool
deriving DecidableEq, Repr

def WLog.zero : WLog := ⟨0, 0, 0, 0, false, false, false, false⟩

/-- Memory and refresh configuration and status of a channel (02 Tables 5 and 7). -/
structure MemCfg where
  ageCap : Nat
  panicLevel : Nat
  postponeEn : Bool
  refStep : Nat
  pendStep : Nat
  maxDebt : Nat
  forced : Nat
deriving DecidableEq, Repr

/-- Check and scrub registers of a channel (12 Table 3), the scrub's progress (blocks done of the row, the reference cycle in which its interval
began), and the payloads asked for again, each with the hop that asked (12 R334). -/
structure CheckSt where
  retriedOk : Nat
  readFail : Nat
  scrubFail : Nat
  transit : Nat
  parity : Nat
  keptFail : Nat
  lastBlk : Nat
  lastSrc : Nat
  scrubEn : Bool
  rowUs : Nat
  row : Nat
  passes : Nat
  done : List (Nat × Nat)
  resend : List (Hop × Cargo)
  scrubStart : Nat
deriving DecidableEq, Repr

/-- Power and clock state of a channel (13 Table 11, R353, R354): domain, operating points, PLL, the DRAM die in self-refresh, and
whether the banks accept requests (02 Table 12). -/
structure ChPower where
  dom : PowerDom
  fromOff : Bool
  opTarget : Nat
  opNow : Nat
  opChanging : Option Nat
  opNext : Option Nat
  pllReq : Bool
  pllOn : Bool
  selfRefresh : Bool
  accepting : Bool
deriving DecidableEq, Repr

/-- Throttling of a channel (14 Table 5) and its limiter's duty, 16 when it gates nothing (13 R361). Excess in quarter kelvin. -/
structure Throttle where
  engaged : Bool
  duty : Nat
  cap : Nat
  excess : Int
  limDuty : Nat
deriving DecidableEq, Repr

/-- A channel: everything its channel domain holds but its slices. `darn` is the merged map, `spares` the spare physical banks not yet
assigned, rising; `rowMap` lists, by physical bank, the logical rows its spare rows 0, 1, ... serve (01 R19 to R23, 02 R72). -/
structure Channel where
  darn : Table Darn
  spares : List Nat
  rowMap : Table (List Nat)
  spareRows : Table SpareRow
  trainRows : Table TrainRow
  offline : Bool
  mem : MemCfg
  acts : List Nat
  train : TrainSt
  policy : Table W32
  banks : Table BankSt
  cmdBuf : Memory
  code : Memory
  codeBusy : Nat
  codeLast : Nat
  fabLength : Nat
  fabSlots : Table W32
  sync : Table SyncObj
  descheduleUs : Nat
  lendUs : Nat
  msgStale : Nat
  msgFull : Nat
  syncFaults : Nat
  descheds : Nat
  watches : Table WatchEntry
  combiners : List Combiner
  held : List Held
  strictCause : BitVec 6
  strictTag : W32
  chk : CheckSt
  wlog : Table WLog
  pwr : ChPower
  thr : Throttle
  ctxs : Table Ctx
  awake : Bool
deriving DecidableEq, Repr

def Channel.zero : Channel where
  darn := []
  spares := [128, 129]
  rowMap := []
  spareRows := []
  trainRows := []
  offline := false
  mem := ⟨128, 24, true, 0, 0, 0, 0⟩
  acts := []
  train := .zero
  policy := []
  banks := []
  cmdBuf := []
  code := []
  codeBusy := 0
  codeLast := 0
  fabLength := 240
  fabSlots := []
  sync := []
  descheduleUs := 50
  lendUs := 1000
  msgStale := 0
  msgFull := 0
  syncFaults := 0
  descheds := 0
  watches := []
  combiners := []
  held := []
  strictCause := 0
  strictTag := 0
  chk := ⟨0, 0, 0, 0, 0, 0, 0, 0, true, 1000, 0, 0, [], [], 0⟩
  wlog := []
  pwr := ⟨.zero, false, 0, 0, none, none, false, false, false, true⟩
  thr := ⟨false, 16, 0, 0, 16⟩
  ctxs := []
  awake := false

/-! ## Link (03) -/

/-- Lane-group states (03 Table 10). -/
inductive GState where
  | off | train | active | standby | down
deriving DecidableEq, Repr

/-- Training phases before ACTIVE (03 Table 9). -/
inductive TPhase where
  | detect | eq | config | align
deriving DecidableEq, Repr

/-- A logical lane (03 Table 17) and its progress in training: run of valid sets, eq_done received, eq_done sent. -/
structure Lane where
  physLane : Nat
  inverted : Bool
  failed : Bool
  skew : Nat
  corrBytes : Nat
  run : Nat
  eqDone : Bool
  eqSent : Bool
deriving DecidableEq, Repr

def Lane.zero : Lane := ⟨0, false, false, 0, 0, 0, false, false⟩

/-- Echo fields due for one downstream flit (03 R89, R90). -/
structure EchoRec where
  t : Nat
  seq : Byte
  fields : List (BitVec 4)
  kind : Nat
deriving DecidableEq, Repr

/-- Response statuses (04 Table 8). -/
inductive Status where
  | ok | checkFail | leased | hole | violation | mode
deriving DecidableEq, Repr

/-- A READ or PFENCE without its response (04 R121): instant and tag, rank in its flit, channel and bank it counts toward,
its answer once known, the writes a PFENCE still waits for, whether the fixed latency of STRICT governs it (11 R309), whether retries
at its bank delay it (12 R327), whether its block is host-owned (04 R119). -/
structure OutReq where
  id : Nat
  t : Nat
  tag : W16
  rank : Nat
  chan : Option Nat
  bank : Option Nat
  status : Option Status
  data : List Byte
  check : W32
  covers : List Nat
  strict : Bool
  delayed : Bool
  owned : Bool
deriving DecidableEq, Repr

/-- A response placed in a position of the upstream flit at `t` (03 R88), with the channel its read addressed. -/
structure Placed where
  pos : Fin 3
  tag : W16
  status : Status
  data : List Byte
  check : W32
  t : Nat
  chan : Option Nat
deriving DecidableEq, Repr

/-- A lane group (03). `scrDown`, `scrUp` hold the 8 PRBS31 generators of each direction (R84); `upFlit` is what it sent last upstream, a flit or
the training sets of a flit period, empty in electrical idle; `offer` the remap value it sends; `tsCount` numbers its training sets; `turn` tells,
of a physical group that is shared, that the next flit is its partner's; `seqDown` is the number the next downstream flit should carry. -/
structure LaneGroup where
  state : GState
  tphase : TPhase
  remap : Bool
  shared : Bool
  carried : Bool
  laneFailed : Byte
  remapEn : Bool
  standbyEn : Bool
  corrected : Nat
  lost : Nat
  crcOnly : Nat
  malformed : Nat
  retrains : Nat
  lanes : Table Lane
  scrDown : List (BitVec 31)
  scrUp : List (BitVec 31)
  seqUp : Byte
  lostRun : Nat
  echoes : List EchoRec
  out : List OutReq
  placed : List Placed
  upFlit : List Byte
  offer : Nat
  tsCount : Byte
  turn : Bool
  seqDown : Byte
deriving DecidableEq, Repr

def LaneGroup.zero : LaneGroup where
  state := .off
  tphase := .detect
  remap := false
  shared := false
  carried := false
  laneFailed := 0
  remapEn := true
  standbyEn := true
  corrected := 0
  lost := 0
  crcOnly := 0
  malformed := 0
  retrains := 0
  lanes := []
  scrDown := []
  scrUp := []
  seqUp := 0
  lostRun := 0
  echoes := []
  out := []
  placed := []
  upFlit := []
  offer := 0
  tsCount := 0
  turn := false
  seqDown := 0

/-- The link domain beyond its groups: LK_WAKE and the PHY PLL (03 Table 18, Table 12). -/
structure LinkSt where
  groups : Table LaneGroup
  swellSeen : Bool
  activitySeen : Bool
  lastGroup : Nat
  pllLocked : Bool
deriving DecidableEq, Repr

/-! ## Port die (04, 09, 11, 13) -/

/-- A host write to the module-scope sync window that waits for earlier writes of its lane group (04 R141). -/
structure DeferredSync where
  covers : List Nat
  addr : HostAddr
  v : W32
deriving DecidableEq, Repr

/-- The port (04). `maskPend` holds hash masks written whose echo has not begun: instant, register, value (02 R48). -/
structure PortSt where
  compute : Bool
  refused : Bool
  armedAt : Option Nat
  lastStatus : Status
  wins : Table W32
  masks : Table W32
  maskPend : List (Nat × Nat × W32)
  violCount : Table Nat
  violCause : Table Nat
  lastReq : Table Nat
  nextId : Nat
  deferred : List DeferredSync
  strict : Bool
  epochMode : Nat
  epochAligned : Bool
  epochOffset : Nat
  slips : Nat
  lastPhase : Nat
  swLength : Nat
  swSlots : Table W32
  hostFaults : Nat
  moduleFaults : Nat
deriving DecidableEq, Repr

/-- The budget ledger (13 Table 14): per channel the charge, lent and borrowed amounts; contexts that wait, in order. -/
structure LedgerSt where
  classMw : Table Nat
  allow : Table Nat
  charged : Table Nat
  lent : Table Nat
  borrowed : Table Nat
  waiting : List (Chan × Rec)
  borrowers : List Chan
  lendEn : Bool
  pool : Nat
  allocRefused : Bool
deriving DecidableEq, Repr

/-! ## Management, sensors, logs (12, 14, 16) -/

/-- A sensor (14 Table 4): reading in quarter degrees. -/
structure Sensor where
  temp : Int
  valid : Bool
  warn : Bool
  overThrottle : Bool
deriving DecidableEq, Repr

def Sensor.zero : Sensor := ⟨0, false, false, false⟩

/-- An error-log record (12 Table 7). -/
structure ErrRec where
  kind : Byte
  channel : Nat
  group : Nat
  source : Nat
  tag : W32
  address : DataOff
  writer : W64
  time : W64
deriving DecidableEq, Repr

/-- A trace record (16 R419). -/
structure TraceRec where
  tag : W32
  channel : Nat
  record : Nat
  event : Byte
  info : Byte
  cycles : W32
deriving DecidableEq, Repr

/-- A repair record of MRAM (16 Table 5). -/
structure Repair where
  kind : RepairKind
  channel : Nat
  bank : Nat
  target : Nat
  sequence : Nat
  intact : Bool
deriving DecidableEq, Repr

/-- Boot phases (16 Table 7). -/
inductive BootPhase where
  | hwInit | waitImage | loading | verify | running | closed
deriving DecidableEq, Repr

/-- Where an image comes from (16 Table 7). -/
inductive LoadSource where
  | none | link | smbus
deriving DecidableEq, Repr

/-- The boot ROM's and firmware's state (16 Tables 7 to 9, R415, R416, R419); `coreWait` tells that the management core is in its WAIT
instruction (13 Table 2), `coreBreaks` its breakpoints (15 Table 8), `stage` how far the boot has come: 0 not released, 1 clocks, 2 security, 3 map, 4 complete (16 Table 2). -/
structure BootSt where
  stage : Nat
  phase : BootPhase
  source : LoadSource
  lastResult : Nat
  channelsReady : Bool
  slotValid : Bool
  claimRefused : Bool
  straps : BitVec 4
  por : Bool
  warm : Bool
  recover : Bool
  watchdog : Bool
  afterTrip : Bool
  zeroRepeated : Bool
  wdExpiries : Nat
  zeroPending : Bool
  slot : Memory
  keptSlot : Bool
  keptSource : LoadSource
  loadStart : Nat
  level : Nat
  forcedMin : Nat
  busyPct : Nat
  calm : Nat
  traceLost : Nat
  pollsShed : Nat
  skipped : Nat
  expiries : List Nat
  eid : Byte
  sbOut : List Byte
  polled : List (PldmSensor × Int)
  coreHalted : Bool
  coreWait : Bool
  coreBreaks : List Nat
deriving DecidableEq, Repr

/-- Management core, alerts and logs (12 Table 8, 14 Table 6, 13 Table 13). `events` are the alert events whose records
firmware has not yet written. -/
structure MgSt where
  alert : BitVec 13
  alertMask : BitVec 13
  corrThreshold : Nat
  errLog : Table ErrRec
  errHead : Nat
  errLost : Nat
  events : List ErrRec
  trace : Table TraceRec
  traceHead : Nat
  sensors : Table Sensor
  warnLogic : Nat
  warnDram : Nat
  engagements : Nat
  hottest : Nat
  tripCount : Nat
  tripSensor : Nat
  tripLatch : Bool
  darnGen : Nat
  darnDigest : List Byte
  boot : BootSt
  linkDom : PowerDom
  switchDom : PowerDom
  mgmtDom : PowerDom
  secDom : PowerDom
deriving DecidableEq, Repr

/-! ## Security (15) -/

/-- The map of a channel as manufactured (01 R21, 02 R72): entries that are not the identity without a gap, rows in spares by
physical bank, spare banks not assigned. -/
structure FuseMap where
  darn : Table Darn
  rows : Table (List Nat)
  spares : List Nat
deriving DecidableEq, Repr

def FuseMap.plain : FuseMap := ⟨[], [], [128, 129]⟩

/-- Fuses (15 Table 3; 01 Table 3; 17 Table 10). Logical bits; a hash that is not programmed is none. `secretFailed`
tells that a blow of device_secret failed (15 R383, log 39). -/
structure Fuses where
  maps : Table FuseMap
  serial : BitVec 128
  rootHash : List (Option (BitVec 256))
  rootRevoke : BitVec 4
  lifecycle : BitVec 4
  ownerHash : Option (BitVec 256)
  ownerRequired : Bool
  secver : Nat
  idBlocks : Nat
  secret0 : BitVec 256
  valid0 : Bool
  secret1 : BitVec 256
  valid1 : Bool
  secretDisable : Bool
  grade : Bool
  fp64 : Bool
  stepping : BitVec 4
  secretFailed : Bool
deriving DecidableEq, Repr

/-- A token installed in MRAM (15 R401). -/
structure Installed where
  level : BitVec 2
  expiry : Nat
deriving DecidableEq, Repr

/-- MRAM (16 Table 4): identity key and next index, boot count, installed token, repair records, the firmware's store of 180 KiB, whose
contents firmware defines. -/
structure Mram where
  idKey : Option (List Byte)
  nextIndex : Nat
  bootCount : Nat
  installed : Option Installed
  repairs : List Repair
  store : Memory
deriving DecidableEq, Repr

/-- A session key and its certificate (15 R391). -/
structure SessionKey where
  pk : List Byte
  generation : Nat
  nextIndex : Nat
  cert : List Byte
  certSig : List Byte
deriving DecidableEq, Repr

/-- Requests the engine serves in order of arrival (15 R394, 16 R410); a token as its submission found the buffer, and whether the
sideband submitted it (log 33). -/
inductive SecReq where
  | token (bytes : List Byte) (sideband : Bool)
  | report (sideband : Bool) (nonce : List Byte)
  | session
  | firmware
deriving DecidableEq, Repr

/-- Status a TAP access returns (15 R398). -/
inductive TapStatus where
  | ok | denied | notOn | off | leased
deriving DecidableEq, Repr

/-- The security engine and the TAP (15 Table 9). `sample` holds the fields of the report being served, as sampled (R393). -/
structure SecSt where
  level : BitVec 2
  max : BitVec 2
  lifecycleNow : BitVec 4
  lastEvent : Byte
  lastResult : Byte
  events : Nat
  nonce : List Byte
  busy : Bool
  result : Nat
  tokenOk : Bool
  attBusy : Bool
  attRefused : Bool
  attResult : Nat
  attNonce : List Byte
  fwMeas : List Byte
  fwHeader : List Byte
  idPk : List Byte
  tokenBuf : Memory
  attBuf : List Byte
  sbBuf : List Byte
  sample : List Byte
  session : Option SessionKey
  sessionsMade : Nat
  queue : List SecReq
  tapStatus : TapStatus
  tdo : List Bool
  bypassBit : Bool
deriving DecidableEq, Repr

/-! ## Pins and the whole (17) -/

/-- Supplies, resets, clocks and straps (17). -/
structure Pins where
  vaon : Bool
  vin : Bool
  charged : Bool
  porstN : Bool
  warmrstN : Bool
  releaseHeld : Bool
  refclk : Bool
  trstN : Bool
  strapPins : BitVec 4
  aonPin : Bool
deriving DecidableEq, Repr

/-- The block. `pending` is the queue of commands; `free` numbers the free values drawn (the model's own, log 9). -/
structure State where
  pending : List Instr
  refCount : Nat
  master : Nat
  originRef : Nat
  porBase : Nat
  pins : Pins
  link : LinkSt
  port : PortSt
  ledger : LedgerSt
  chans : Table Channel
  slices : Table SliceSt
  hsync : Table SyncObj
  syncQ : List SyncMsg
  arrQ : List Arrival
  relQ : List (Chan × Release)
  msgQ : List Msg
  settleQ : List (Chan × Chan × Rec × Byte × W32)
  mem : Memory
  checkDiff : Table W32
  mg : MgSt
  sc : SecSt
  fuses : Fuses
  mram : Mram
  free : Nat
deriving DecidableEq, Repr

def BootSt.zero : BootSt where
  stage := 0
  phase := .hwInit
  source := .none
  lastResult := 0
  channelsReady := false
  slotValid := false
  claimRefused := false
  straps := 0
  por := false
  warm := false
  recover := false
  watchdog := false
  afterTrip := false
  zeroRepeated := false
  wdExpiries := 0
  zeroPending := false
  slot := []
  keptSlot := false
  keptSource := .none
  loadStart := 0
  level := 0
  forcedMin := 0
  busyPct := 0
  calm := 0
  traceLost := 0
  pollsShed := 0
  skipped := 0
  expiries := []
  eid := 0
  sbOut := []
  polled := []
  coreHalted := false
  coreWait := false
  coreBreaks := []

def MgSt.zero : MgSt where
  alert := 0
  alertMask := 0x1DFF#13
  corrThreshold := 0x1000
  errLog := []
  errHead := 0
  errLost := 0
  events := []
  trace := []
  traceHead := 0
  sensors := []
  warnLogic := 95
  warnDram := 90
  engagements := 0
  hottest := 0
  tripCount := 0
  tripSensor := 0
  tripLatch := false
  darnGen := 0
  darnDigest := []
  boot := .zero
  linkDom := .zero
  switchDom := .zero
  mgmtDom := .zero
  secDom := .zero

def PortSt.zero : PortSt where
  compute := false
  refused := false
  armedAt := none
  lastStatus := .ok
  wins := []
  masks := []
  maskPend := []
  violCount := []
  violCause := []
  lastReq := []
  nextId := 0
  deferred := []
  strict := false
  epochMode := 0
  epochAligned := false
  epochOffset := 0
  slips := 0
  lastPhase := 0
  swLength := 64
  swSlots := []
  hostFaults := 0
  moduleFaults := 0

def LedgerSt.zero : LedgerSt := ⟨[], [], [], [], [], [], [], true, 0, false⟩

def LinkSt.zero : LinkSt := ⟨[], false, false, 0, false⟩

def SecSt.zero : SecSt where
  level := 0
  max := 0
  lifecycleNow := 0
  lastEvent := 0
  lastResult := 0
  events := 0
  nonce := []
  busy := false
  result := 0
  tokenOk := false
  attBusy := false
  attRefused := false
  attResult := 0
  attNonce := []
  fwMeas := []
  fwHeader := []
  idPk := []
  tokenBuf := []
  attBuf := []
  sbBuf := []
  sample := []
  session := none
  sessionsMade := 0
  queue := []
  tapStatus := .ok
  tdo := []
  bypassBit := false

/-- Fuses of the part the model describes: manufactured, not provisioned, full grade (log 5). -/
def Fuses.initial : Fuses := ⟨[], 0, [none, none, none, none], 0, 0, none, false, 0, 0, 0, false, 0, false, false, false, true, 0, false⟩

def Pins.initial : Pins := ⟨true, true, true, false, true, false, true, true, 0, false⟩

/-- The block right after PORST_N has reset it, supplies in range, before the release that boots it (00 R12, log 4). -/
def State.reset : State where
  pending := []
  refCount := 0
  master := 0
  originRef := 0
  porBase := 0
  pins := .initial
  link := .zero
  port := .zero
  ledger := .zero
  chans := []
  slices := []
  hsync := []
  syncQ := []
  arrQ := []
  relQ := []
  msgQ := []
  settleQ := []
  mem := []
  checkDiff := []
  mg := .zero
  sc := .zero
  fuses := .initial
  mram := ⟨none, 0, 0, none, [], []⟩
  free := 0

/-- Reasons for which the block stops with a fault. -/
inductive Fault where
  /-- Never raised by a command of the table: a part without VAON answers nothing and keeps its state. Safe. -/
  | unpowered
deriving DecidableEq, Repr

/-- Reasons for which the model gives a command no meaning. -/
inductive Refusal where
  /-- An arm of exec not yet written; raised by no meaning. Safe. -/
  | notModelled (mnemonic : String)
  /-- Operands the Erpel interface has no encoding for (07 R212, 08 R223, R231), raised by the slice operations whose
  well-formedness check fails. Safe. -/
  | noEncoding (mnemonic : String)
deriving DecidableEq, Repr

/-- The outcome of a meaning. -/
abbrev Result := Host.Outcome State Fault Refusal

end Sys2Proof.Machine
end

