-- ==== Sys2Proof/Machine/Ops.lean ====
section
/-! DEFINITION. The named operations over sparse arrays, memories, bytes, and the parts of the state; alerts, logs, trace.
A block has no exception entry: what stands in its place is raising an alert (12 R338) and ending a command FAULT (05). -/

namespace Sys2Proof.Machine

/-! ## Sparse arrays -/

/-- The entry at index `k`, if one is listed. -/
def tfind {α : Type} : Table α → Nat → Option α
  | [], _ => none
  | (i, v) :: m, k => if k < i then none else if k = i then some v else tfind m k

/-- The entry at index `k`, or `d`. -/
def tget {α : Type} (m : Table α) (k : Nat) (d : α) : α := (tfind m k).getD d

/-- Set the entry at index `k`. -/
def tput {α : Type} : Table α → Nat → α → Table α
  | [], k, v => [(k, v)]
  | (i, w) :: m, k, v => if k < i then (k, v) :: (i, w) :: m else if k = i then (k, v) :: m else (i, w) :: tput m k v

/-- Remove the entry at index `k`. -/
def tdel {α : Type} : Table α → Nat → Table α
  | [], _ => []
  | (i, w) :: m, k => if k < i then (i, w) :: m else if k = i then m else (i, w) :: tdel m k

/-- Change the entry at index `k`, taken as `d` when absent. -/
def tmod {α : Type} (m : Table α) (k : Nat) (d : α) (f : α → α) : Table α := tput m k (f (tget m k d))

/-- Change every listed entry. -/
def tmap {α : Type} (m : Table α) (f : Nat → α → α) : Table α := m.map (fun e => (e.1, f e.1 e.2))

/-! ## Byte memories (log 7) -/

/-- The byte at address `a`; an unlisted address reads as 0. -/
def rd (m : Memory) (a : Nat) : Byte := tget m a 0

/-- Write one byte; writing 0 removes the entry, so equal memories are equal data. -/
def wr (m : Memory) (a : Nat) (b : Byte) : Memory := if b = 0 then tdel m a else tput m a b

/-- `n` bytes from address `a` upward. -/
def rdN (m : Memory) (a : Nat) : Nat → List Byte
  | 0 => []
  | n + 1 => rd m a :: rdN m (a + 1) n

/-- Write bytes from address `a` upward. -/
def wrL (m : Memory) (a : Nat) : List Byte → Memory
  | [] => m
  | b :: bs => wrL (wr m a b) (a + 1) bs

/-- Indexes strictly rising from `lo`. -/
def risingFrom {α : Type} (lo : Nat) : Table α → Bool
  | [] => true
  | (i, _) :: m => decide (lo ≤ i) && risingFrom (i + 1) m

/-- The canonical form of a byte memory: addresses strictly rising, no listed byte 0. -/
def Memory.wf (m : Memory) : Bool := risingFrom 0 m && m.all (fun e => decide (e.2 ≠ 0))

/-! ## Bytes, fields and numbers (00 R6, R7) -/

/-- `n` bytes of a number, least significant first. -/
def leBytes : Nat → Nat → List Byte
  | 0, _ => []
  | n + 1, v => BitVec.ofNat 8 v :: leBytes n (v / 256)

/-- The number little-endian bytes spell. -/
def leNat : List Byte → Nat
  | [] => 0
  | b :: bs => b.toNat + 256 * leNat bs

/-- Bits [hi:lo] of a number. -/
def bits (v hi lo : Nat) : Nat := v / 2 ^ lo % 2 ^ (hi + 1 - lo)

/-- Bit `i` of a number. -/
def bitAt (v i : Nat) : Bool := v.testBit i

/-- A field value placed at bit `lo`. -/
def fld (v lo : Nat) : Nat := v * 2 ^ lo

def b2n (b : Bool) : Nat := if b then 1 else 0

/-- The low `w` bits of a number read as two's complement. -/
def sext (v w : Nat) : Int := if v.testBit (w - 1) then (v % 2 ^ w : Nat) - (2 ^ w : Nat) else (v % 2 ^ w : Nat)

/-- An integer's low `w` bits. -/
def wrapNat (i : Int) (w : Nat) : Nat := (i % (2 ^ w : Nat)).toNat

/-- Bytes `a` to `a + n - 1` of a byte list, zero past its end. -/
def slice (bs : List Byte) (a n : Nat) : List Byte :=
  let t := (bs.drop a).take n
  t ++ List.replicate (n - t.length) 0

/-- A little-endian field of `n` bytes at byte `a`. -/
def leAt (bs : List Byte) (a n : Nat) : Nat := leNat (slice bs a n)

/-- A counter that stays at its limit (10 R308). -/
def satInc (n limit : Nat) : Nat := if n < limit then n + 1 else limit

def satAdd (n k limit : Nat) : Nat := min (n + k) limit

/-- Numbers `a` to `a + n - 1`. -/
def upFrom (a : Nat) : Nat → List Nat
  | 0 => []
  | n + 1 => a :: upFrom (a + 1) n

/-- Fold a step over 0 to n - 1. -/
def forN {σ : Type} (n : Nat) (f : Nat → σ → σ) (s : σ) : σ := (upFrom 0 n).foldl (fun s i => f i s) s

def statusCode : Status → Nat
  | .ok => 0 | .checkFail => 1 | .leased => 2 | .hole => 3 | .violation => 4 | .mode => 5

def engIx : Engine → Nat
  | .mx => 0 | .vx => 1 | .bx => 2 | .cx => 3

def engOf : Nat → Engine
  | 0 => .mx | 1 => .vx | 2 => .bx | _ => .cx

/-! ## Identifiers (01 R16, R17) -/

def slChan (sl : SliceId) : Nat := sl.toNat / 2048
def slBank (sl : SliceId) : Nat := sl.toNat / 16 % 128
def slIx (sl : SliceId) : Nat := sl.toNat % 16
def mkSlice (c b i : Nat) : SliceId := BitVec.ofNat 20 (c * 2048 + b * 16 + i)

/-- Channel, bank and row of a placed data offset (02 R43). -/
def offChan (a : Nat) : Nat := a / 2 ^ 31
def offBank (a : Nat) : Nat := a / 2 ^ 24 % 128
def offRow (a : Nat) : Nat := a / 2 ^ 13 % 2048

/-- Lane group of a channel (01 R18). -/
def groupOf (c : Nat) : Nat := c % 16

/-! ## Parts of the state -/

def State.chan (s : State) (c : Nat) : Channel := tget s.chans c .zero
def State.modChan (s : State) (c : Nat) (f : Channel → Channel) : State := { s with chans := tmod s.chans c .zero f }
def State.setChan (s : State) (c : Nat) (ch : Channel) : State := { s with chans := tput s.chans c ch }

def State.slice (s : State) (sl : SliceId) : SliceSt := tget s.slices sl.toNat .zero
def State.modSlice (s : State) (sl : SliceId) (f : SliceSt → SliceSt) : State :=
  { s with slices := tmod s.slices sl.toNat .zero f }

def State.group (s : State) (g : Nat) : LaneGroup := tget s.link.groups g .zero
def State.modGroup (s : State) (g : Nat) (f : LaneGroup → LaneGroup) : State :=
  { s with link := { s.link with groups := tmod s.link.groups g .zero f } }

def State.modPort (s : State) (f : PortSt → PortSt) : State := { s with port := f s.port }
def State.modMg (s : State) (f : MgSt → MgSt) : State := { s with mg := f s.mg }
def State.modBoot (s : State) (f : BootSt → BootSt) : State := { s with mg := { s.mg with boot := f s.mg.boot } }
def State.modSc (s : State) (f : SecSt → SecSt) : State := { s with sc := f s.sc }
def State.modLedger (s : State) (f : LedgerSt → LedgerSt) : State := { s with ledger := f s.ledger }

def Channel.bank (ch : Channel) (b : Nat) : BankSt := tget ch.banks b .zero
def Channel.modBank (ch : Channel) (b : Nat) (f : BankSt → BankSt) : Channel := { ch with banks := tmod ch.banks b .zero f }
def State.modBank (s : State) (c b : Nat) (f : BankSt → BankSt) : State := s.modChan c (·.modBank b f)

def Channel.ctx (ch : Channel) (r : Nat) : Ctx := tget ch.ctxs r .zero
def Channel.modCtx (ch : Channel) (r : Nat) (f : Ctx → Ctx) : Channel := { ch with ctxs := tmod ch.ctxs r .zero f }
def State.ctx (s : State) (c r : Nat) : Ctx := (s.chan c).ctx r
def State.modCtx (s : State) (c r : Nat) (f : Ctx → Ctx) : State := s.modChan c (·.modCtx r f)

def Ctx.cmd (x : Ctx) (pos : Nat) : Option Cmd := x.inflight.find? (fun m => m.pos = pos)
def Ctx.modCmd (x : Ctx) (pos : Nat) (f : Cmd → Cmd) : Ctx :=
  { x with inflight := x.inflight.map (fun m => if m.pos = pos then f m else m) }
def State.cmd (s : State) (c r pos : Nat) : Option Cmd := (s.ctx c r).cmd pos
def State.modCmd (s : State) (c r pos : Nat) (f : Cmd → Cmd) : State := s.modCtx c r (·.modCmd pos f)

def SliceSt.eng (x : SliceSt) (e : Engine) : EngineSt := tget x.engines (engIx e) .zero
def SliceSt.modEng (x : SliceSt) (e : Engine) (f : EngineSt → EngineSt) : SliceSt :=
  { x with engines := tmod x.engines (engIx e) .zero f }

/-- ar[n]; ar0 reads as zero (06 "The control core"). -/
def SliceSt.ar (x : SliceSt) (n : AReg) : W32 := if n = 0 then 0 else tget x.ars n.val 0

/-- Write ar[n]; writes to ar0 are ignored. -/
def SliceSt.setAr (x : SliceSt) (n : AReg) (v : W32) : SliceSt := if n = 0 then x else { x with ars := tput x.ars n.val v }

/-- The work the slice comes to next: that of the context whose LAYER is suspended on it waits for it. -/
def SliceSt.nextWork (x : SliceSt) : Option WorkRef :=
  x.work.find? (fun w => match x.shadow with | some f => decide (w.record ≠ f.layer.record) | none => true)

/-- The command the slice works for: that of its LAYER, else that of the work it has come to. -/
def SliceSt.current (x : SliceSt) : Option WorkRef := match x.layer with | some l => some ⟨l.record, l.pos⟩ | none => x.nextWork

def SliceSt.skeinW (x : SliceSt) (k : Nat) : W32 := tget x.skein k 0
def SliceSt.setSkein (x : SliceSt) (k : Nat) (v : W32) : SliceSt := { x with skein := tput x.skein k v }
def SliceSt.sem (x : SliceSt) (k : Nat) : Nat := tget x.sems k 0
def SliceSt.setSem (x : SliceSt) (k n : Nat) : SliceSt := { x with sems := tput x.sems k n }
def SliceSt.acc (x : SliceSt) (k : Nat) : Acc := tget x.accs k .zero
def SliceSt.setAcc (x : SliceSt) (k : Nat) (a : Acc) : SliceSt := { x with accs := tput x.accs k a }

def State.syncObj (s : State) : ObjRef → SyncObj
  | .chan c o => tget (s.chan c).sync o.val .zero
  | .module m => tget s.hsync m.val .zero
def State.modObj (s : State) (o : ObjRef) (f : SyncObj → SyncObj) : State :=
  match o with
  | .chan c k => s.modChan c (fun ch => { ch with sync := tmod ch.sync k.val .zero f })
  | .module m => { s with hsync := tmod s.hsync m.val .zero f }

/-! ## Time (05 R160, 12 Table 7) -/

/-- The channel cycle counter: 5,760 counts to 600 reference cycles, modulo 2^64 (05 R160). -/
def State.cycles (s : State) : Nat := s.refCount * 48 / 5 % 2 ^ 64

/-- Nanoseconds since PORST_N, as the port die counts them across warm resets (12 Table 7; log 81). -/
def State.ns (s : State) : Nat := (s.porBase + s.refCount) * 32 / 5 % 2 ^ 64

/-- The column cycle the reference clock has reached: 3,840 to 600 reference cycles (01 R29, 11 R311). -/
def State.col (s : State) : Nat := s.refCount * 32 / 5

/-- Reference cycles in a number of microseconds (156.25 MHz). -/
def usRef (us : Nat) : Nat := (us * 625 + 3) / 4

/-! ## Alerts, error log, trace, security events -/

/-- The writer-log entry as its 64-bit register (12 Table 2). -/
def WLog.word (w : WLog) : W64 :=
  BitVec.ofNat 64 (w.tag.toNat + fld (w.channel % 512) 32 + fld (w.record % 512) 41 + fld w.gen.toNat 50
    + fld (b2n w.host) 58 + fld (b2n w.mixed) 59 + fld (b2n w.pend) 60 + fld (b2n w.valid) 61)

/-- An alert record that names no block. -/
def plainRec (bit c g : Nat) : ErrRec := ⟨BitVec.ofNat 8 (bit + 1), c, g, 0, 0, 0, 0, 0⟩

/-- The domain is entering a low-power state. -/
def PowerDom.entering (p : PowerDom) : Bool := decide (p.going = some .retention ∨ p.going = some .off)

/-- On, or in WAKING for a channel. -/
def PState.up : PState → Bool
  | .on => true
  | .waking => true
  | _ => false

/-- A wake source at one domain: an entry before the point of no return is aborted and counted with refuser code 7, a domain that is low
starts its exit toward `t` (13 R347, R349). -/
def PowerDom.wake (p : PowerDom) (t : PState) : PowerDom :=
  if p.entering then { p with going := none, refused := satInc p.refused 0xFFFF, refuser := 7, waiting := false, held := false }
  else if p.going.isNone && !p.state.up then { p with going := some t, waiting := false }
  else p

/-- The alert bits a wake of the management domain sets: counter_sat where its refusal counter reaches its limit (12 Table 6). -/
def PowerDom.wakeSat (p : PowerDom) : BitVec 13 := if p.entering && decide (p.refused + 1 = 0xFFFF) then 0x200#13 else 0

/-- Hardware sets an alert bit (12 R338) and an error-log record falls due (12 R339), stamped with the time. No record
of kind 11 is ever due. A bit set wakes the management domain, and the core from its WAIT (13 Table 5). -/
def State.alert (s : State) (bit : Nat) (e : ErrRec) : State :=
  let sat := s.mg.mgmtDom.wakeSat
  let stamp (e : ErrRec) : ErrRec := { e with time := BitVec.ofNat 64 s.ns }
  s.modMg (fun m => { m with
    alert := m.alert ||| BitVec.ofNat 13 (2 ^ bit) ||| sat
    events := (if bit = 10 then m.events else m.events ++ [stamp e]) ++ (if sat = 0 then [] else [stamp ⟨10, 0, 0, 0, 0, 0, 0, 0⟩])
    mgmtDom := m.mgmtDom.wake .on
    boot := { m.boot with coreWait := false } })

/-- ALERT_N's level: low while an unmasked bit is set and the management domain drives it (12 R338, 14 R374, 17 R437). -/
def State.alertN (s : State) : Bool :=
  !(s.pins.vaon && s.pins.vin && s.pins.porstN && s.pins.warmrstN && s.pins.refclk && decide (s.mg.alert &&& s.mg.alertMask ≠ 0))

/-- THERMTRIP_N's level: low while the trip latch is set (14 R374, 17 R437). -/
def State.thermtripN (s : State) : Bool := !(s.pins.vaon && s.mg.tripLatch)

/-- A counter that reached its limit sets counter_sat (12 Table 6 bit 9). -/
def State.noteSat (s : State) (old limit c : Nat) : State :=
  if old + 1 = limit then s.alert 9 (plainRec 9 c 0) else s

/-- A security event: SC_EVENT, the security alert bit and a record of kind 13 (15 R403). -/
def State.secEvent (s : State) (code : Nat) : State :=
  ((s.modSc (fun x => { x with lastEvent := BitVec.ofNat 8 code, events := satInc x.events 0xFFFF })).alert 12 (plainRec 12 0 0)).noteSat
    s.sc.events 0xFFFF 0

/-- A trace record, or one counted lost while trace export is shed or no firmware runs (16 R413, R419). -/
def State.traceEv (s : State) (tag : W32) (c r event info : Nat) : State :=
  if s.mg.boot.phase = .running ∧ s.mg.boot.level < 3 then
    s.modMg (fun m => { m with
      trace := tput m.trace m.traceHead ⟨tag, c, r, BitVec.ofNat 8 event, BitVec.ofNat 8 info, BitVec.ofNat 32 s.cycles⟩
      traceHead := (m.traceHead + 1) % 4096 })
  else if s.mg.boot.phase = .running then
    (s.modBoot (fun b => { b with traceLost := satInc b.traceLost 0xFFFF })).noteSat s.mg.boot.traceLost 0xFFFF 0
  else s

/-- The tag of the oldest command in flight in a channel, 0 when none (11 R317). -/
def Channel.oldestTag (ch : Channel) : W32 :=
  ((ch.ctxs.filterMap (fun e => e.2.inflight.head?)).head?.map (·.tag)).getD 0

/-- TIMING_BROKEN: set cause bit `i` of a channel while STRICT is set, capturing the tag with the first (11 R317). -/
def State.timing (s : State) (c i : Nat) : State :=
  if s.port.strict then
    s.modChan c (fun ch => { ch with
      strictTag := if ch.strictCause = 0 then ch.oldestTag else ch.strictTag
      strictCause := ch.strictCause ||| BitVec.ofNat 6 (2 ^ i) })
  else s

/-- Free values drawn from the generator numbered by the state's counter (log 9). -/
def State.draw (s : State) (n : Nat) : List Byte × State :=
  ((upFrom 0 n).map (Config.freeByte s.free), { s with free := s.free + 1 })

/-! ## Power domains (13 R341 to R349) -/

def State.dom (s : State) : Domain → PowerDom
  | .bank c b => ((s.chan c).bank b).pwr
  | .channel c => (s.chan c).pwr.dom
  | .link => s.mg.linkDom
  | .switch => s.mg.switchDom
  | .management => s.mg.mgmtDom
  | .security => s.mg.secDom

def State.modPwr (s : State) (c : Nat) (f : ChPower → ChPower) : State := s.modChan c (fun ch => { ch with pwr := f ch.pwr })

def State.modDom (s : State) (d : Domain) (f : PowerDom → PowerDom) : State :=
  match d with
  | .bank c b => s.modBank c b (fun k => { k with pwr := f k.pwr })
  | .channel c => s.modPwr c (fun p => { p with dom := f p.dom })
  | .link => s.modMg (fun m => { m with linkDom := f m.linkDom })
  | .switch => s.modMg (fun m => { m with switchDom := f m.switchDom })
  | .management => s.modMg (fun m => { m with mgmtDom := f m.mgmtDom })
  | .security => s.modMg (fun m => { m with secDom := f m.secDom })

/-- Channel concerned by a domain; 0 for the port die's. -/
def domChan : Domain → Nat
  | .bank c _ => c.val
  | .channel c => c.val
  | _ => 0

/-- device_secret is programmed and not disabled: the engine's MRAM records can be read (15 R382). -/
def Fuses.secrets (f : Fuses) : Bool := (f.valid0 || f.valid1) && !f.secretDisable

/-- A refused or aborted entry is counted with its refuser (R346, R347). -/
def State.refuse (s : State) (d : Domain) (code : Nat) : State :=
  let n := (s.dom d).refused
  (s.modDom d (fun p => { p with refused := satInc n 0xFFFF, refuser := code })).noteSat n 0xFFFF (domChan d)

/-- On and in no entry. -/
def PowerDom.steady (p : PowerDom) : Bool := decide (p.state = .on) && !p.entering

/-- A wake source at one domain. -/
def State.wake1 (s : State) (d : Domain) (t : PState) : State :=
  let p := s.dom d
  if p.entering then (s.modDom d (·.wake t)).noteSat p.refused 0xFFFF (domChan d)
  else if p.going.isNone && !p.state.up then s.modDom d (·.wake t)
  else s

/-- A wake source (R347, R349): a channel or the link that leaves a low state wakes the switch first. -/
def State.wake (s : State) (d : Domain) : State :=
  let sw (s : State) : State := if (s.dom d).state.up then s else s.wake1 .switch .on
  match d with
  | .channel _ => (sw s).wake1 d .waking
  | .link => (sw s).wake1 d .on
  | _ => s.wake1 d .on

/-- Work has come to the owner of a domain: its condition of Table 2 has ceased to hold, so that the next WAIT is a new one. -/
def State.stir (s : State) (d : Domain) : State := if (s.dom d).waiting then s.modDom d (fun p => { p with waiting := false }) else s

/-! ## Facts about contexts, slices and leases used by many steps -/

/-- The record is FREE and no CAST_ON has been admitted to it. -/
def Ctx.isFree (x : Ctx) : Bool := decide (x.state = .free ∧ x.inflight = [])

/-- A context record of the channel holds a strict context (11 Table 5). -/
def Channel.strictCtx (ch : Channel) : Bool := ch.ctxs.any (fun e => e.2.strict && decide (e.2.state ≠ .free))

/-- Code-store pages of a context, and those of a CAST_ON admitted whose context is not yet ACTIVE (05 R162, R163). -/
def Ctx.pages (x : Ctx) : List Nat :=
  upFrom x.pageFirst x.pageCount
    ++ x.inflight.flatMap (fun m => if m.typ = .castOn ∧ m.phase = .dispatched then upFrom (bits (leAt m.raw 36 1) 5 0) (bits (leAt m.raw 36 2) 12 6) else [])

/-- A page is held by a record that is not FREE (05 R163). -/
def Channel.mapped (ch : Channel) (p : Nat) : Bool := ch.ctxs.any (fun e => !e.2.isFree && e.2.pages.contains p)

/-- Every context record of the channel is FREE. -/
def Channel.allFree (ch : Channel) : Bool := ch.ctxs.all (fun e => e.2.isFree)

/-- Every context record of every channel is FREE (11 R309). -/
def State.allFree (s : State) : Bool := s.chans.all (fun e => e.2.allFree)

/-- The bank's slices are leased (04 R129). -/
def Channel.leased (ch : Channel) (b : Nat) : Bool := (ch.bank b).lease.isSome

def Channel.anyLease (ch : Channel) : Bool := ch.banks.any (fun e => e.2.lease.isSome)

/-- The fields of a slice selection (05 "Command layout"): bank_first, bank_count, slice_mask. -/
def selBanks (sel : W32) : Nat × Nat := (bits sel.toNat 6 0, bits sel.toNat 14 7)

/-- A selection within its stated range (05 "Command layout"). -/
def selOk (sel : W32) : Bool :=
  decide (1 ≤ (selBanks sel).2 ∧ (selBanks sel).2 ≤ 128 ∧ (selBanks sel).1 + (selBanks sel).2 ≤ 128) && !sel.getLsbD 15

/-- The slices a selection names in a channel, in ordinal order: bank first, then slice. -/
def selSlices (c : Nat) (sel : W32) : List SliceId :=
  (upFrom (selBanks sel).1 (selBanks sel).2).flatMap (fun b =>
    ((upFrom 0 16).filter (fun i => sel.getLsbD (16 + i))).map (fun i => mkSlice c b i))

/-- Selection `a` lies within selection `b`. -/
def selWithin (a b : W32) : Bool :=
  decide ((selBanks b).1 ≤ (selBanks a).1 ∧ (selBanks a).1 + (selBanks a).2 ≤ (selBanks b).1 + (selBanks b).2)
    && (upFrom 0 16).all (fun i => !a.getLsbD (16 + i) || b.getLsbD (16 + i))
    || (selSlices 0 a).all (fun x => (selSlices 0 b).contains x)

/-- The ledger's effective allowance of a channel (13 R360). -/
def State.effective (s : State) (c : Nat) : Nat :=
  min 20000 (tget s.ledger.allow c 6250 + tget s.ledger.borrowed c 0 - tget s.ledger.lent c 0)

/-- Physical constants of time: one flit period is 555, one nanosecond 210 units (log 3). -/
def flitT : Nat := 555

end Sys2Proof.Machine
end

