-- ==== Sys2Proof/Machine/Clock.lean ====
section
/-! DEFINITION. The reference clock: what a step does when no command waits (11 R311, log 2). -/

namespace Sys2Proof.Machine

/-- One cycle of the 156.25 MHz reference: the counter advances and the master period counter, modulo 600, with it. When
it wraps, the strict-schedule origin is the cycle reached. While a reset is asserted the counters are held at 0. -/
def State.tick (s : State) : State :=
  if s.pins.refclk && s.pins.vaon && s.pins.vin && s.pins.charged && s.pins.porstN && s.pins.warmrstN then
    let m := if s.master + 1 < 600 then s.master + 1 else 0
    { s with refCount := s.refCount + 1, master := m, originRef := if m = 0 then s.refCount + 1 else s.originRef }
  else s

end Sys2Proof.Machine
end

