-- ==== Sys2Proof/Machine/Crypto.lean ====
section
/-! DEFINITION. Codes over bytes: CRC-32C (12 R322), CRC-32 (03 R83), Reed-Solomon (03 R82), the scrambler (03 R84), SHAKE256. -/

namespace Sys2Proof.Machine

/-! ## CRC -/

def crcBit (poly c : W32) : W32 := if c.getLsbD 0 then (c >>> 1) ^^^ poly else c >>> 1

def crcByte (poly c : W32) (b : Byte) : W32 :=
  let c := c ^^^ b.setWidth 32
  crcBit poly (crcBit poly (crcBit poly (crcBit poly (crcBit poly (crcBit poly (crcBit poly (crcBit poly c)))))))

/-- CRC-32C, reflected, initial value and final XOR all ones (12 R322). -/
def crc32c (bs : List Byte) : W32 := ~~~(bs.foldl (crcByte 0x82F63B78#32) 0xFFFFFFFF#32)

/-- CRC-32 with polynomial 0x04C1_1DB7, reflected (03 R83). -/
def crc32 (bs : List Byte) : W32 := ~~~(bs.foldl (crcByte 0xEDB88320#32) 0xFFFFFFFF#32)

/-! ## GF(2^8) and Reed-Solomon RS(148,140) (03 R82). The first byte of a codeword is its highest power (log 18). -/

/-- Multiplication by x modulo x^8 + x^4 + x^3 + x^2 + 1. -/
def gfDouble (a : Byte) : Byte := if a.getLsbD 7 then (a <<< 1) ^^^ 0x1D#8 else a <<< 1

/-- Product, from the bits of `b` upward. -/
def gfMulGo : Nat → Byte → Byte → Byte
  | 0, _, _ => 0
  | n + 1, a, b => (if b.getLsbD 0 then a else 0) ^^^ gfMulGo n (gfDouble a) (b >>> 1)

def gfMul (a b : Byte) : Byte := gfMulGo 8 a b

def gfPow (a : Byte) : Nat → Byte
  | 0 => 1
  | n + 1 => gfMul a (gfPow a n)

/-- Inverse: a^254. -/
def gfInv (a : Byte) : Byte := gfPow a 254

/-- Powers of the generator 0x02. -/
def gfExp (n : Nat) : Byte := gfPow 2 (n % 255)

/-- Value of a polynomial, highest power first. -/
def polyEval (p : List Byte) (x : Byte) : Byte := p.foldl (fun acc c => gfMul acc x ^^^ c) 0

/-- Value of a polynomial, lowest power first. -/
def polyEvalLow (p : List Byte) (x : Byte) : Byte := polyEval p.reverse x

/-- Syndromes at α^0 to α^7. -/
def rsSyndromes (r : List Byte) : List Byte := (upFrom 0 8).map (fun i => polyEval r (gfExp i))

/-- Product of polynomials, lowest power first. -/
def polyMul : List Byte → List Byte → List Byte
  | [], _ => []
  | a :: as, bs =>
    let hi := (0 : Byte) :: polyMul as bs
    let lo := bs.map (gfMul a)
    (upFrom 0 (max hi.length lo.length)).map (fun i => hi.getD i 0 ^^^ lo.getD i 0)

/-- Sum of polynomials, lowest power first. -/
def polyAdd (a b : List Byte) : List Byte := (upFrom 0 (max a.length b.length)).map (fun i => a.getD i 0 ^^^ b.getD i 0)

/-- The generator polynomial, lowest power first. -/
def rsGen : List Byte := (upFrom 0 8).foldl (fun g i => polyMul g [gfExp i, 1]) [1]

/-- One step of the division that leaves the parity: `rem` highest power first, 8 bytes. -/
def rsDivStep (gHigh : List Byte) (rem : List Byte) (b : Byte) : List Byte :=
  let f := rem.headD 0 ^^^ b
  let sh := rem.drop 1 ++ [0]
  (upFrom 0 8).map (fun i => sh.getD i 0 ^^^ gfMul f (gHigh.getD i 0))

/-- The 8 parity bytes of 140 message bytes. -/
def rsParity (msg : List Byte) : List Byte :=
  msg.foldl (rsDivStep (rsGen.reverse.drop 1)) (List.replicate 8 0)

/-- State of the search for the error locator: locator, previous locator, its discrepancy, length, gap. -/
structure BmSt where
  c : List Byte
  b : List Byte
  bd : Byte
  len : Nat
  gap : Nat

/-- One step of the search (Berlekamp-Massey) at syndrome `n`. -/
def bmStep (syn : List Byte) (st : BmSt) (n : Nat) : BmSt :=
  let d := (upFrom 0 (st.len + 1)).foldl (fun acc i => acc ^^^ gfMul (st.c.getD i 0) (if i ≤ n then syn.getD (n - i) 0 else 0)) 0
  if d = 0 then { st with gap := st.gap + 1 }
  else
    let k := gfMul d (gfInv st.bd)
    let t := polyAdd st.c (List.replicate st.gap 0 ++ st.b.map (gfMul k))
    if 2 * st.len ≤ n then ⟨t, st.c, d, n + 1 - st.len, 1⟩
    else { st with c := t, gap := st.gap + 1 }

/-- Decode a codeword of 148 bytes: the corrected bytes and the positions corrected, or none when uncorrectable. -/
def rsDecode (r : List Byte) : Option (List Byte × List Nat) :=
  let syn := rsSyndromes r
  if syn.all (fun x => decide (x = 0)) then some (r, [])
  else
    let st := (upFrom 0 8).foldl (bmStep syn) ⟨[1], [1], 1, 0, 1⟩
    let loc := st.c.take (st.len + 1)
    -- power j belongs to position 147 - j
    let roots := (upFrom 0 148).filter (fun j => decide (polyEvalLow loc (gfExp (255 - j % 255)) = 0))
    let omega := (polyMul syn loc).take 8
    let deriv := (upFrom 0 4).map (fun i => [loc.getD (2 * i + 1) 0, 0]) |>.flatten
    let fixed := roots.foldl (fun acc j =>
      let xinv := gfExp (255 - j % 255)
      let e := gfMul (gfExp j) (gfMul (polyEvalLow omega xinv) (gfInv (polyEvalLow deriv xinv)))
      acc.set (147 - j) (acc.getD (147 - j) 0 ^^^ e)) r
    if st.len ≤ 4 ∧ roots.length = st.len ∧ (rsSyndromes fixed).all (fun x => decide (x = 0))
    then some (fixed, roots.map (147 - ·)) else none

/-! ## The scrambler (03 R84), order of bits within a byte as in log 18 -/

/-- One bit of x^31 + x^28 + 1: the feedback bit is the output and enters at bit 0, the seed's bits lie as they are numbered. DEDUCED, log 18. -/
def prbsBit (g : BitVec 31) : Bool × BitVec 31 :=
  let b := g.getLsbD 30 ^^ g.getLsbD 27
  (b, (g <<< 1) ||| (BitVec.ofBool b).setWidth 31)

/-- `n` bits. -/
def prbsBits : Nat → BitVec 31 → List Bool × BitVec 31
  | 0, g => ([], g)
  | n + 1, g =>
    let (b, g') := prbsBit g
    let (bs, g'') := prbsBits n g'
    (b :: bs, g'')

/-- A byte from bits, first bit least significant. -/
def byteOf (bs : List Bool) : Byte := BitVec.ofNat 8 (bs.foldr (fun b n => b2n b + 2 * n) 0)

/-- Scramble or descramble the bytes of one lane. -/
def scramble : List Byte → BitVec 31 → List Byte × BitVec 31
  | [], g => ([], g)
  | x :: xs, g =>
    let (bs, g') := prbsBits 8 g
    let (ys, g'') := scramble xs g'
    ((x ^^^ byteOf bs) :: ys, g'')

/-- Seed of lane g.l at the end of training. -/
def scrSeed (g l : Nat) : BitVec 31 := BitVec.ofNat 31 (0x7FFFFFFF - (8 * g + l))

/-! ## SHAKE256 with 256-bit output (FIPS 202) -/

def keccakRC : List W64 :=
  [0x0000000000000001#64, 0x0000000000008082#64, 0x800000000000808A#64, 0x8000000080008000#64,
   0x000000000000808B#64, 0x0000000080000001#64, 0x8000000080008081#64, 0x8000000000008009#64,
   0x000000000000008A#64, 0x0000000000000088#64, 0x0000000080008009#64, 0x000000008000000A#64,
   0x000000008000808B#64, 0x800000000000008B#64, 0x8000000000008089#64, 0x8000000000008003#64,
   0x8000000000008002#64, 0x8000000000000080#64, 0x000000000000800A#64, 0x800000008000000A#64,
   0x8000000080008081#64, 0x8000000000008080#64, 0x0000000080000001#64, 0x8000000080008008#64]

/-- Rotation offsets by lane x + 5y. -/
def keccakRot : List Nat :=
  [0, 1, 62, 28, 27, 36, 44, 6, 55, 20, 3, 10, 43, 25, 39, 41, 45, 15, 21, 8, 18, 2, 61, 56, 14]

def keccakRound (a : List W64) (rc : W64) : List W64 :=
  let l (i : Nat) := a.getD i 0
  let c := (upFrom 0 5).map (fun x => l x ^^^ l (x + 5) ^^^ l (x + 10) ^^^ l (x + 15) ^^^ l (x + 20))
  let d := (upFrom 0 5).map (fun x => c.getD ((x + 4) % 5) 0 ^^^ (c.getD ((x + 1) % 5) 0).rotateLeft 1)
  let t := (upFrom 0 25).map (fun i => (l i ^^^ d.getD (i % 5) 0).rotateLeft (keccakRot.getD i 0))
  -- lane (x, y) moves to (y, 2x + 3y): the lane at (X, Y) comes from x = X + 3Y, y = X
  let b := (upFrom 0 25).map (fun i => t.getD ((i % 5 + 3 * (i / 5)) % 5 + 5 * (i % 5)) 0)
  let e := (upFrom 0 25).map (fun i =>
    b.getD i 0 ^^^ (~~~(b.getD ((i % 5 + 1) % 5 + 5 * (i / 5)) 0) &&& b.getD ((i % 5 + 2) % 5 + 5 * (i / 5)) 0))
  (e.headD 0 ^^^ rc) :: e.drop 1

def keccakF (a : List W64) : List W64 := keccakRC.foldl keccakRound a

/-- Absorb one 136-byte block. -/
def absorb (a : List W64) (blk : List Byte) : List W64 :=
  keccakF ((upFrom 0 25).map (fun i => a.getD i 0 ^^^ (if i < 17 then BitVec.ofNat 64 (leAt blk (8 * i) 8) else 0)))

def absorbAll : Nat → List W64 → List Byte → List W64
  | 0, a, _ => a
  | n + 1, a, bs => absorbAll n (absorb a (bs.take 136)) (bs.drop 136)

/-- Number of blocks of an input of `n` bytes (11 R321). -/
def shakeBlocks (n : Nat) : Nat := n / 136 + 1

/-- SHAKE256, 32 bytes of output. -/
def shake256 (bs : List Byte) : List Byte :=
  let n := shakeBlocks bs.length
  let gap := n * 136 - bs.length
  let pad : List Byte := if gap = 1 then [0x9F#8] else 0x1F#8 :: (List.replicate (gap - 2) 0 ++ [0x80#8])
  let a := absorbAll n (List.replicate 25 0) (bs ++ pad)
  ((a.take 4).map (fun w => leBytes 8 w.toNat)).flatten

end Sys2Proof.Machine
end

