-- ==== Sys2Proof/Machine/Flags.lean ====
section
/-! DEFINITION. Number formats (07 R199 to R202), exact values, rounding (07 R206, R207; 08 R224), arithmetic of the vector stages
(08 R226 to R228), accumulators with their flags (07 R203 to R205) and partial records (07 R208 to R211). -/

namespace Sys2Proof.Machine

/-- An exact value: NaN, an infinity, or (-1)^neg x m x 2^e. A zero keeps its sign. -/
inductive Val where
  | nan
  | inf (neg : Bool)
  | fin (neg : Bool) (m : Nat) (e : Int)
deriving DecidableEq, Repr

/-! ## Formats (07 Table 1) -/

/-- Bits of an element. -/
def fmtBits : Fmt → Nat
  | .e2m1 => 4 | .e2m3 => 6 | .e3m2 => 6 | .e4m3 => 8 | .e5m2 => 8 | .bf16 => 16 | .fp16 => 16 | .fp32 => 32
  | .fp64 => 64 | .int8 => 8 | .int16 => 16 | .int32 => 32 | .e8m0 => 8

/-- Format codes 0x0 to 0xC. -/
def fmtCode : Fmt → Nat
  | .e2m1 => 0 | .e2m3 => 1 | .e3m2 => 2 | .e4m3 => 3 | .e5m2 => 4 | .bf16 => 5 | .fp16 => 6 | .fp32 => 7
  | .fp64 => 8 | .int8 => 9 | .int16 => 10 | .int32 => 11 | .e8m0 => 12

def fmtOf : Nat → Option Fmt
  | 0 => some .e2m1 | 1 => some .e2m3 | 2 => some .e3m2 | 3 => some .e4m3 | 4 => some .e5m2 | 5 => some .bf16
  | 6 => some .fp16 | 7 => some .fp32 | 8 => some .fp64 | 9 => some .int8 | 10 => some .int16 | 11 => some .int32
  | 12 => some .e8m0 | _ => none

/-- Mantissa bits and bias of a floating-point format. -/
def fmtFloat : Fmt → Nat × Int
  | .e2m1 => (1, 1) | .e2m3 => (3, 1) | .e3m2 => (2, 3) | .e4m3 => (3, 7) | .e5m2 => (2, 15) | .bf16 => (7, 127)
  | .fp16 => (10, 15) | .fp32 => (23, 127) | .fp64 => (52, 1023) | _ => (0, 0)

def fmtIsInt : Fmt → Bool
  | .int8 | .int16 | .int32 => true
  | _ => false

/-- Packed formats, narrower than a byte (07 R200). -/
def fmtPacked : Fmt → Bool
  | .e2m1 | .e2m3 | .e3m2 => true
  | _ => false

/-- Bytes of an element; a packed element alone takes one byte (08 R233). -/
def fmtBytes (f : Fmt) : Nat := (fmtBits f + 7) / 8

/-- Magnitude code of the largest finite value. -/
def fmtMaxCode : Fmt → Nat
  | .e2m1 => 0x7 | .e2m3 => 0x1F | .e3m2 => 0x1F | .e4m3 => 0x7E | .e5m2 => 0x7B | .bf16 => 0x7F7F | .fp16 => 0x7BFF
  | .fp32 => 0x7F7FFFFF | .fp64 => 0x7FEFFFFFFFFFFFFF | .int8 => 0x7F | .int16 => 0x7FFF | .int32 => 0x7FFFFFFF | .e8m0 => 0xFE

/-- The canonical NaN; zero where the format has none, as conversion of a NaN requires (07 R206; 08 R224). -/
def fmtNan : Fmt → Nat
  | .e4m3 => 0x7F | .e5m2 => 0x7E | .bf16 => 0x7FC0 | .fp16 => 0x7E00 | .fp32 => 0x7FC00000
  | .fp64 => 0x7FF8000000000000 | .e8m0 => 0xFF | _ => 0

/-- Formats with an infinity: its magnitude code. -/
def fmtInf : Fmt → Option Nat
  | .e5m2 => some 0x7C | .bf16 => some 0x7F80 | .fp16 => some 0x7C00 | .fp32 => some 0x7F800000
  | .fp64 => some 0x7FF0000000000000 | _ => none

/-- The value an element's bits hold (07 Table 1, R201). -/
def decodeVal (f : Fmt) (x : Nat) : Val :=
  match f with
  | .int8 | .int16 | .int32 => let v := sext x (fmtBits f); .fin (decide (v < 0)) v.natAbs 0
  | .e8m0 => if x % 256 = 255 then .nan else .fin false 1 ((x % 256 : Nat) - 127)
  | _ =>
    let w := fmtBits f
    let neg := x.testBit (w - 1)
    let mag := x % 2 ^ (w - 1)
    let (mb, bias) := fmtFloat f
    let ex := mag / 2 ^ mb
    let man := mag % 2 ^ mb
    if (match fmtInf f with | some i => decide (i < mag) | none => decide (f = .e4m3 ∧ mag = 0x7F)) = true then .nan
    else if fmtInf f = some mag then .inf neg
    else if ex = 0 then .fin neg man (1 - bias - mb)
    else .fin neg (man + 2 ^ mb) (ex - bias - mb)

/-! ## Rounding -/

/-- m / 2^s to nearest with ties to even. -/
def rne (m s : Nat) : Nat :=
  let q := m / 2 ^ s
  let r := m % 2 ^ s
  if 2 ^ s < 2 * r ∨ (2 * r = 2 ^ s ∧ q % 2 = 1) then q + 1 else q

/-- Number of bits of `m`. -/
def bitLen (m : Nat) : Nat := if m = 0 then 0 else m.log2 + 1

/-- Magnitude code of m x 2^e, rounded once with unbounded exponent; may exceed the largest finite code. -/
def roundMag (f : Fmt) (m : Nat) (e : Int) : Nat :=
  if m = 0 then 0 else
  let (mb, bias) := fmtFloat f
  let top : Int := e + bitLen m - 1
  let q : Int := max top (1 - bias) - mb
  let n := if q ≤ e then m * 2 ^ (e - q).toNat else rne m (q - e).toNat
  (q + mb + bias - 1).toNat * 2 ^ mb + n

/-- m x 2^e rounded to an integer. -/
def roundNat (m : Nat) (e : Int) : Nat := if 0 ≤ e then m * 2 ^ e.toNat else rne m (-e).toNat

/-- A positive finite value as an E8M0 byte (08 R224). -/
def roundScale (m : Nat) (e : Int) : Nat :=
  let k : Int := e + bitLen m - 1 + 127
  if k < 0 then 0
  else
    let k := k.toNat
    let half := 3 * 2 ^ (bitLen m - 1)
    let up := decide (half < 2 * m) || (decide (2 * m = half) && decide (k % 2 = 1))
    min 255 (if up then k + 1 else k)

/-- Conversion of a value into a format: 07 R206 and R207 with the saturation bit, 08 R224 with it clear. FP4 and FP6 always
saturate. -/
def encodeVal (f : Fmt) (sat : Bool) (v : Val) : Nat :=
  let sgn (neg : Bool) (mag : Nat) : Nat := mag + (if neg then 2 ^ (fmtBits f - 1) else 0)
  match v with
  | .nan => fmtNan f
  | .inf neg =>
    if fmtIsInt f then (if neg then 2 ^ (fmtBits f - 1) else fmtMaxCode f)
    else if f = .e8m0 then 0xFF
    else match fmtInf f with
      | some i => sgn neg i
      | none => if fmtPacked f || sat then sgn neg (fmtMaxCode f) else fmtNan f
  | .fin neg m e =>
    if fmtIsInt f then
      let n := roundNat m e
      let lim := 2 ^ (fmtBits f - 1)
      if neg then (2 * lim - min n lim) % (2 * lim) else min n (lim - 1)
    else if f = .e8m0 then (if m = 0 then 0 else if neg then 0xFF else roundScale m e)
    else
      let mag := roundMag f m e
      if mag ≤ fmtMaxCode f then sgn neg mag
      else if fmtPacked f || sat then sgn neg (fmtMaxCode f)
      else match fmtInf f with
        | some i => sgn neg i
        | none => fmtNan f

/-! ## Exact arithmetic -/

def Val.negate : Val → Val
  | .nan => .nan
  | .inf n => .inf (!n)
  | .fin n m e => .fin (!n) m e

def Val.magnitude : Val → Val
  | .nan => .nan
  | .inf _ => .inf false
  | .fin _ m e => .fin false m e

def Val.isNan : Val → Bool
  | .nan => true
  | _ => false

/-- +0, -0 or integer 0 (08 R230, SEL of Table 4). -/
def Val.isZero : Val → Bool
  | .fin _ 0 _ => true
  | _ => false

/-- The signed integer of a finite value in units of 2^e0, for e0 at most its exponent. -/
def finInt (n : Bool) (m : Nat) (e e0 : Int) : Int :=
  let k : Int := m * 2 ^ (e - e0).toNat
  if n then -k else k

/-- Exact sum (08 R227). -/
def Val.add : Val → Val → Val
  | .nan, _ => .nan
  | _, .nan => .nan
  | .inf a, .inf b => if a = b then .inf a else .nan
  | .inf a, .fin .. => .inf a
  | .fin .., .inf b => .inf b
  | .fin n1 m1 e1, .fin n2 m2 e2 =>
    let e0 := min e1 e2
    let t := finInt n1 m1 e1 e0 + finInt n2 m2 e2 e0
    if t = 0 then .fin (n1 && n2) 0 e0 else .fin (decide (t < 0)) t.natAbs e0

/-- Exact product (07 R205; 08 R227). -/
def Val.mul : Val → Val → Val
  | .nan, _ => .nan
  | _, .nan => .nan
  | .inf a, .inf b => .inf (a ^^ b)
  | .inf a, .fin n m _ => if m = 0 then .nan else .inf (a ^^ n)
  | .fin n m _, .inf b => if m = 0 then .nan else .inf (n ^^ b)
  | .fin n1 m1 e1, .fin n2 m2 e2 => .fin (n1 ^^ n2) (m1 * m2) (e1 + e2)

/-- Order of two values that are not NaN, -0 below +0 (08 R226, R232). -/
def Val.order : Val → Val → Ordering
  | .inf a, .inf b => if a = b then .eq else if a then .lt else .gt
  | .inf a, _ => if a then .lt else .gt
  | _, .inf b => if b then .gt else .lt
  | .fin n1 m1 e1, .fin n2 m2 e2 =>
    let e0 := min e1 e2
    let a := finInt n1 m1 e1 e0
    let b := finInt n2 m2 e2 e0
    if a < b then .lt else if b < a then .gt
    else if m1 = 0 ∧ n1 ∧ !n2 then .lt else if m1 = 0 ∧ n2 ∧ !n1 then .gt else .eq
  | _, _ => .eq

/-- A comparison of Table 4 of 08: false on a NaN but for NE; +0 and -0 equal (08 R227). -/
def Val.cmp (cc : CmpCc) (a b : Val) : Bool :=
  if a.isNan || b.isNan then decide (cc = .ne)
  else
    let o := if a.isZero && b.isZero then .eq else a.order b
    match cc with
    | .eq => decide (o = .eq) | .ne => decide (o ≠ .eq) | .lt => decide (o = .lt) | .le => decide (o ≠ .gt)
    | .gt => decide (o = .gt) | .ge => decide (o ≠ .lt)

def Val.lesser (a b : Val) : Val := if a.isNan || b.isNan then .nan else if a.order b = .gt then b else a
def Val.greater (a b : Val) : Val := if a.isNan || b.isNan then .nan else if a.order b = .lt then b else a

/-! ## Transcendentals, correctly rounded (08 R228, log 14). A result that is not exact carries a last bit 1 far below
the rounding position. -/

/-- Floor of the square root, one bit per step from bit `k`. -/
def isqrtGo (n : Nat) : Nat → Nat → Nat
  | 0, r => r
  | k + 1, r => let r' := r + 2 ^ k; isqrtGo n k (if r' * r' ≤ n then r' else r)

def isqrt (n : Nat) : Nat := isqrtGo n (bitLen n / 2 + 1) 0

def sticky (m : Nat) (exact : Bool) : Nat := 2 * m + (if exact then 0 else 1)

def Val.recip : Val → Val
  | .nan => .nan
  | .inf n => .fin n 0 0
  | .fin n m e =>
    if m = 0 then .inf n
    else
      let k := bitLen m + 64
      .fin n (sticky (2 ^ k / m) (decide (2 ^ k % m = 0))) (-(k : Int) - e - 1)

def Val.rsqrt : Val → Val
  | .nan => .nan
  | .inf n => if n then .nan else .fin false 0 0
  | .fin n m e =>
    if m = 0 then .inf n
    else if n then .nan
    else
      let (m, e) := if e % 2 = 0 then (m, e) else (2 * m, e - 1)
      let k := bitLen m / 2 + 64
      let r := isqrt (2 ^ (2 * k) / m)
      .fin false (sticky r (decide (r * r * m = 2 ^ (2 * k)))) (-(k : Int) - e / 2 - 1)

/-- Fraction bits of the fixed-point work. -/
def fixBits : Nat := 192

/-- ln 2 in units of 2^-192. -/
def ln2Fix : Nat := 4350955369971217654477563090224794165364344896676135745069

/-- The series of e^y, y in fixed point: `k` further terms, the last term `t`. -/
def expSeries (y : Nat) : Nat → Nat → Nat → Nat
  | 0, _, acc => acc
  | k + 1, t, acc => let t' := t * y / 2 ^ fixBits / (48 - k); expSeries y k t' (acc + t')

/-- The series of atanh z, z in fixed point: `k` further terms, the last power `p` of index 2 (64 - k) + 1. -/
def atanhSeries (zz : Nat) : Nat → Nat → Nat → Nat
  | 0, _, acc => acc
  | k + 1, p, acc => atanhSeries zz k (p * zz / 2 ^ fixBits) (acc + p / (2 * (63 - k) + 1))

def Val.exp2 : Val → Val
  | .nan => .nan
  | .inf n => if n then .fin false 0 0 else .inf false
  | .fin n m e =>
    if m = 0 then .fin false 1 0
    else if 12 < e + bitLen m then (if n then .fin false 1 (-4000) else .fin false 1 4000)
    else if 0 ≤ e then .fin false 1 (finInt n m e 0)
    else
      -- a in fixed point, rounded down; its integer part and its fraction
      let s := (-e).toNat
      let a : Int := if s ≤ fixBits then finInt n m 0 0 * 2 ^ (fixBits - s) else (finInt n m 0 0) / 2 ^ (s - fixBits)
      let i : Int := a / 2 ^ fixBits
      let f := (a % 2 ^ fixBits).toNat
      if f = 0 ∧ s ≤ fixBits then .fin false 1 i
      else
        let y := f * ln2Fix / 2 ^ fixBits
        let r := expSeries y 48 (2 ^ fixBits) (2 ^ fixBits)
        .fin false (sticky r false) (i - fixBits - 1)

def Val.log2 : Val → Val
  | .nan => .nan
  | .inf n => if n then .nan else .inf false
  | .fin n m e =>
    if m = 0 then .inf true
    else if n then .nan
    else
      let k := bitLen m - 1
      let top : Int := e + k
      if m = 2 ^ k then (if top = 0 then .fin false 0 0 else .fin (decide (top < 0)) top.natAbs 0)
      else
        -- 1.x as a ratio m / 2^k; ln of it by 2 atanh ((m - 2^k) / (m + 2^k))
        let z := (m - 2 ^ k) * 2 ^ fixBits / (m + 2 ^ k)
        let zz := z * z / 2 ^ fixBits
        let l := 2 * atanhSeries zz 64 z 0
        let fr := l * 2 ^ fixBits / ln2Fix
        let v : Int := top * 2 ^ fixBits + fr
        .fin (decide (v < 0)) (sticky v.natAbs false) (-(fixBits : Int) - 1)

/-! ## Stage operations (08 R226, Table 4) -/

/-- A typed value: its format and its bits. -/
abbrev TVal := ConstReg

def TVal.val (x : TVal) : Val := decodeVal x.fmt x.bits.toNat

/-- A value in a format, converted by 08 R224. -/
def mkTVal (f : Fmt) (v : Val) : TVal := ⟨f, BitVec.ofNat 64 (encodeVal f false v)⟩

/-- Stage operations on integers of `w` bits, modulo 2^w. -/
def stageInt (op : StageOp) (w a b c : Nat) : Nat :=
  let m := 2 ^ w
  let lt (x y : Nat) : Bool := decide (sext x w < sext y w)
  match op with
  | .mov => a
  | .add => (a + b) % m
  | .sub => (a + (m - b)) % m
  | .mul => a * b % m
  | .fma => (a * b + c) % m
  | .min => if lt b a then b else a
  | .max => if lt a b then b else a
  | .abs => if sext a w < 0 then (m - a) % m else a
  | .neg => (m - a) % m
  | .and => Nat.land a b
  | .or => Nat.lor a b
  | .xor => Nat.xor a b
  | .shl => a * 2 ^ (b % w) % m
  | .shr => a / 2 ^ (b % w)
  | .sar => wrapNat (sext a w / (2 ^ (b % w) : Nat)) w
  | _ => 0

/-- Stage operations on values: the exact result, rounded by the caller. -/
def stageVal (op : StageOp) (a b c : Val) : Val :=
  match op with
  | .mov => a
  | .add => a.add b
  | .sub => a.add b.negate
  | .mul => a.mul b
  | .fma => (a.mul b).add c
  | .min => a.lesser b
  | .max => a.greater b
  | .abs => a.magnitude
  | .neg => a.negate
  | .exp2 => a.exp2
  | .log2 => a.log2
  | .rcp => a.recip
  | .rsq => a.rsqrt
  | _ => .nan

/-- One stage on values already taken from its sources (08 R223, R226). -/
def stageRun (op : StageOp) (f : Fmt) (a b c : Val) : TVal :=
  let a := mkTVal f a
  let b := mkTVal f b
  let c := mkTVal f c
  match op with
  | .cmp cc => ⟨.int32, if a.val.cmp cc b.val then 1 else 0⟩
  | .sel => if a.val.isZero then c else b
  | op =>
    if fmtIsInt f then ⟨f, BitVec.ofNat 64 (stageInt op (fmtBits f) a.bits.toNat b.bits.toNat c.bits.toNat)⟩
    else mkTVal f (stageVal op a.val b.val c.val)

/-! ## Accumulators (07 R203 to R207) -/

/-- Add an exact value, or set the flag it calls for (07 R204, R205). -/
def Acc.addVal (a : Acc) (v : Val) : Acc :=
  match v with
  | .nan => { a with nan := true }
  | .inf n => if n then { a with negInf := true } else { a with posInf := true }
  | .fin n m e => { a with v := a.v + BitVec.ofInt 640 (finInt n m e (-300)) }

/-- The value MX.ROUND converts, with adjustment `adj` (07 R206). -/
def Acc.value (a : Acc) (adj : Int) : Val :=
  if a.nan || (a.posInf && a.negInf) then .nan
  else if a.posInf then .inf false
  else if a.negInf then .inf true
  else .fin (decide (a.v.toInt < 0)) a.v.toInt.natAbs (adj - 300)

/-- Number of trailing zeros, counted up to `k`. -/
def trailing : Nat → Nat → Nat
  | 0, _ => 0
  | k + 1, n => if n % 2 = 1 then 0 else 1 + trailing k (n / 2)

/-- The canonical record of an accumulator, and its full form when it spills (07 R208 to R210). -/
def Acc.record (a : Acc) : List Byte × Option (List Byte) :=
  if a.nan || a.posInf || a.negInf then
    (leBytes 24 (fld (b2n a.nan) 169 + fld (b2n a.posInf) 170 + fld (b2n a.negInf) 171), none)
  else if a.v = 0 then (leBytes 24 0, none)
  else
    let s := trailing 480 a.v.toNat
    let x : Int := a.v.toInt / (2 ^ s : Nat)
    if -(2 ^ 159 : Int) ≤ x ∧ x < 2 ^ 159 then (leBytes 24 (wrapNat x 160 + fld s 160), none)
    else (leBytes 24 (fld 1 172), some (leBytes 80 a.v.toNat))

/-- The record is a spilled one. -/
def recordSpills (r : List Byte) : Bool := bitAt (leNat r) 172

/-- Add a record, read literally; `full` is its full form (07 R211). -/
def Acc.addRecord (a : Acc) (r full : List Byte) : Acc :=
  let n := leNat r
  let x : BitVec 640 :=
    if recordSpills r then BitVec.ofNat 640 (leNat full)
    else BitVec.ofInt 640 (sext n 160 * (2 ^ bits n 168 160 : Nat))
  { v := a.v + x, nan := a.nan || bitAt n 169, posInf := a.posInf || bitAt n 170, negInf := a.negInf || bitAt n 171 }

/-! ## Reducers (08 R230 to R236) -/

/-- The clear of VX.RCLR and of the clear bit; the current kind stays (08 R230). -/
def Reducer.clear (r : Reducer) : Reducer := { Reducer.zero with kind := r.kind }

/-- An extreme's value. -/
def Extreme.val (e : Extreme) : Val := if e.nan then .nan else decodeVal e.fmt e.bits.toNat

/-- Take an element into the extreme record: kept unless the new one is passed by it (08 R232). -/
def Extreme.take (old : Option Extreme) (isMax int : Bool) (v : Val) (ix : Nat) : Extreme :=
  let f : Fmt := if int then .int32 else .fp64
  let new : Extreme := ⟨f, BitVec.ofNat 64 (encodeVal f false v), ix, false⟩
  match old with
  | none => if v.isNan then ⟨f, 0, 0, true⟩ else new
  | some e =>
    if e.nan then e
    else if v.isNan then ⟨e.fmt, 0, 0, true⟩
    else if v.order e.val = (if isMax then .gt else .lt) then new else e

/-- Reduce one tapped value (08 R230 to R232). -/
def Reducer.take (r : Reducer) (kind : RKind) (int : Bool) (v : Val) : Reducer :=
  let c : Reducer := { r with
    kind := kind
    intTap := int
    elems := satInc r.elems 0xFFFFFFFF
    nonzero := if v.isZero then r.nonzero else satInc r.nonzero 0xFFFFFFFF
    nans := if v.isNan then satInc r.nans 0xFFFFFFFF else r.nans
    inf := r.inf || (match v with | .inf _ => true | _ => false) }
  match kind with
  | .none => r
  | .sum => { c with acc := r.acc.addVal v }
  | .sumsq => { c with acc := r.acc.addVal (v.mul v) }
  | .max => { c with ext := some (Extreme.take r.ext true int v r.elems) }
  | .min => { c with ext := some (Extreme.take r.ext false int v r.elems) }
  | .count => c

/-- The value of a MAX or MIN reducer: +0, or integer 0, when empty (08 R232). -/
def Reducer.extVal (r : Reducer) : Val := match r.ext with | some e => e.val | none => .fin false 0 0
def Reducer.extIndex (r : Reducer) : Nat := match r.ext with | some e => if e.nan then 0 else e.index | none => 0

/-- The value VX.RROUND writes, in the format named, with the format it is written in (08 R233). -/
def Reducer.rround (r : Reducer) (f : Fmt) (sat : Bool) (adj : Int) (index : Bool) : TVal :=
  match r.kind with
  | .none => if index then ⟨.int32, 0⟩ else ⟨f, 0⟩
  | .sum | .sumsq => ⟨f, BitVec.ofNat 64 (encodeVal f sat (r.acc.value adj))⟩
  | .max | .min => if index then ⟨.int32, BitVec.ofNat 64 (r.extIndex % 2 ^ 32)⟩ else mkTVal f r.extVal
  | .count => ⟨.int32, BitVec.ofNat 64 (min r.nonzero 0x7FFFFFFF)⟩

/-- The key of an FP32 pattern (08 R236). -/
def fp32Key (x : W32) : W32 := if x.getLsbD 31 then x ^^^ 0x7FFFFFFF#32 else x

/-- The summary entry of VX.RPOST (08 R235, Table 7). -/
def summaryEntry (sum mx : Reducer) : SumEntry where
  sum := match sum.kind with
    | .sum | .sumsq =>
      if sum.intTap then BitVec.ofNat 32 (encodeVal .int32 false (sum.acc.value 0))
      else fp32Key (BitVec.ofNat 32 (encodeVal .fp32 false (sum.acc.value 0)))
    | _ => 0
  max := match mx.kind with
    | .max | .min =>
      if mx.intTap then BitVec.ofNat 32 (encodeVal .int32 false mx.extVal)
      else fp32Key (BitVec.ofNat 32 (encodeVal .fp32 false mx.extVal))
    | _ => 0
  nonzero := BitVec.ofNat 32 sum.nonzero
  nans := BitVec.ofNat 32 sum.nans
  flags := BitVec.ofNat 32 (b2n (decide (0 < sum.nonzero)) + fld (b2n (decide (sum.nonzero = sum.elems))) 1
    + fld (b2n (decide (0 < sum.nans))) 2 + fld (b2n (sum.inf || mx.inf)) 3
    + fld (b2n (match mx.ext with | some e => e.nan | none => false)) 4 + fld (b2n (decide (sum.elems = 0))) 5)

end Sys2Proof.Machine
end

