-- ==== Sys2Proof/Machine/Operands.lean ====
section
/-! DEFINITION. Operands of slice code: address and queue mode (06 R183, R184), loop descriptors (06 R186, R187), elements, engine
semaphores (06 R192), execution faults (06 R177), and the one way an operation issues from an engine (06 R173). -/

namespace Sys2Proof.Machine

/-! ## Fault causes and details (05 Table 7, 06 R177) -/

def causeDataCheck : Nat := 0x20
def causeCodeMiss : Nat := 0x21
def causeAlign : Nat := 0x22
def causePlain : Nat := 0x23
def causeRange : Nat := 0x24

/-- Detail of a placed data offset, a scratchpad address, a code-store address. -/
def dataDetail (a : Nat) : Nat := a % 2 ^ 40
def scrDetail (a : Nat) : Nat := a % 2 ^ 32 + fld 2 62
def codeDetail (a : Nat) : Nat := a % 2 ^ 18 + fld 1 62

def storageCode : Storage → Nat
  | .scratchpad => 1 | .tile => 2 | .accumulator => 3 | .icache => 4 | .codeStore => 5 | .cmdBuffer => 6 | .ctxRecord => 7

/-- Detail of a parity fault (12 R333). -/
def parityDetail (k : Storage) : Nat := storageCode k + fld 0xFFFFFFFE 32

/-! ## Places and elements -/

/-- A byte address of the scratchpad, or of a tile buffer. -/
structure Place where
  tile : Option (Fin 4)
  addr : Nat
deriving DecidableEq, Repr

/-- `n` bytes at `p` lie within their storage (06 R177, 08 R222). -/
def Place.fits (p : Place) (n : Nat) : Bool :=
  decide (n = 0) || decide (p.addr + n ≤ (if p.tile.isSome then 1024 else 0x8000))

def SliceSt.rdAt (x : SliceSt) (p : Place) (n : Nat) : List Byte :=
  match p.tile with
  | some t => rdN x.tiles (1024 * t.val + p.addr) n
  | none => rdN x.scratch p.addr n

def SliceSt.wrAt (x : SliceSt) (p : Place) (bs : List Byte) : SliceSt :=
  match p.tile with
  | some t => { x with tiles := wrL x.tiles (1024 * t.val + p.addr) bs }
  | none => { x with scratch := wrL x.scratch p.addr bs }

/-- Bytes `n` elements occupy from their operand's address (07 R200; 08 R220). -/
def extent (f : Fmt) (n stride : Nat) : Nat :=
  if n = 0 then 0
  else if fmtPacked f then (n * fmtBits f + 7) / 8
  else (n - 1) * stride * fmtBytes f + fmtBytes f

/-- Bits of element `i` of an operand at `p`. -/
def SliceSt.getElem (x : SliceSt) (p : Place) (f : Fmt) (i stride : Nat) : Nat :=
  if fmtPacked f then
    let b := i * fmtBits f
    leNat (x.rdAt { p with addr := p.addr + b / 8 } 2) / 2 ^ (b % 8) % 2 ^ fmtBits f
  else leNat (x.rdAt { p with addr := p.addr + i * stride * fmtBytes f } (fmtBytes f))

/-- Write the bits of element `i`; the other bits of a packed element's bytes keep their value. -/
def SliceSt.putElem (x : SliceSt) (p : Place) (f : Fmt) (i stride v : Nat) : SliceSt :=
  if fmtPacked f then
    let b := i * fmtBits f
    let q : Place := { p with addr := p.addr + b / 8 }
    let nb := (b % 8 + fmtBits f + 7) / 8
    let old := leNat (x.rdAt q nb)
    let hole := old - bits old (b % 8 + fmtBits f - 1) (b % 8) * 2 ^ (b % 8)
    x.wrAt q (leBytes nb (hole + v % 2 ^ fmtBits f * 2 ^ (b % 8)))
  else x.wrAt { p with addr := p.addr + i * stride * fmtBytes f } (leBytes (fmtBytes f) v)

/-- One element alone: a packed one in a byte of its own (08 R233). -/
def SliceSt.getOne (x : SliceSt) (p : Place) (f : Fmt) : Nat := leNat (x.rdAt p (fmtBytes f)) % 2 ^ fmtBits f
def SliceSt.putOne (x : SliceSt) (p : Place) (f : Fmt) (v : Nat) : SliceSt := x.wrAt p (leBytes (fmtBytes f) v)

/-! ## Semaphores (06 R192) -/

/-- Engine `e` may take `n` from semaphore `k`: the count suffices and no engine earlier in the order MX, VX, BX, CX waits for
what the count would give it. -/
def SliceSt.semReady (x : SliceSt) (e : Engine) (k n : Nat) : Bool :=
  decide (n ≤ x.sem k) && (upFrom 0 (engIx e)).all (fun i =>
    let g := x.eng (engOf i)
    match g.state, g.waitSem with
    | .semWait, some (j, m) => decide (j.val ≠ k ∨ x.sem k < m)
    | _, _ => true)

/-! ## Queues of the running LAYER (06 R181, R184) -/

/-- Skein word `k` (0, or 8 to 23) as LAYER start interpreted it. -/
def LayerRun.word (l : LayerRun) (k : Nat) : Nat := (l.cfg.getD (if k = 0 then 0 else k - 7) 0).toNat

/-- Queue mode of an engine. -/
def LayerRun.qmode (l : LayerRun) (e : Engine) : Bool := bitAt (l.word 0) (engIx e)

/-- A scratchpad queue: base, capacity and entry bytes, semaphores of filled and of free entries. -/
structure QCfg where
  base : Nat
  cap : Nat
  entry : Nat
  full : Nat
  free : Nat
deriving DecidableEq, Repr

def qcfgOf (w8 w9 : Nat) : QCfg := ⟨bits w8 14 0, bits w8 30 16, (bits w9 5 0 + 1) * 64, bits w9 11 8, bits w9 15 12⟩

/-- Queue `q`, when it is enabled. -/
def LayerRun.queue (l : LayerRun) (q : Nat) : Option QCfg :=
  if bitAt (l.word 0) (8 + q) then some (qcfgOf (l.word (8 + 2 * q)) (l.word (9 + 2 * q))) else none

/-- A queue pointer one entry on, modulo the capacity. -/
def QCfg.next (c : QCfg) (p : Nat) : Nat := if c.cap = 0 then c.base else c.base + (p - c.base + c.entry) % c.cap

/-! ## Loops (06 R186, R187) -/

/-- ar[n] as the head operation of the engine read it at issue. -/
def SliceSt.arI (x : SliceSt) (e : Engine) (n : AReg) : W32 :=
  if n = 0 then 0 else tget (((x.eng e).issued).getD x.ars) n.val 0

def SliceSt.countOf (x : SliceSt) (e : Engine) : Count → Nat
  | .lit n => n
  | .reg a => (x.arI e a).toNat

/-- Trip counts of a nest; none when a count or their product is out of range. -/
def SliceSt.counts (x : SliceSt) (e : Engine) (lp : Loop) : Option (List Nat) :=
  let cs := if lp.counts = [] then [1] else lp.counts.map (x.countOf e)
  if cs.all (fun c => decide (c ≤ 65536)) && decide (cs.foldl (· * ·) 1 ≤ 2 ^ 32) then some cs else none

/-- Index vector of iteration `i`, level 0 fastest. -/
def idxVec : List Nat → Nat → List Nat
  | [], _ => []
  | c :: cs, i => (i % c) :: idxVec cs (i / c)

/-- Sum of index x stride. -/
def strideSum : List Nat → List Int → Int
  | i :: is, d :: ds => i * d + strideSum is ds
  | _, _ => 0

/-! ## Operands -/

/-- An operand of an operation: written or read, and whether this operation uses it. -/
structure Opd where
  o : ScrOperand
  out : Bool
  used : Bool

/-- The operand takes queue entries. -/
def Opd.queued (qm : Bool) (p : Opd) : Bool := p.used && qm && p.o.tile.isNone

/-- Base address ar[n] + imm, modulo 2^32. -/
def SliceSt.baseOf (x : SliceSt) (e : Engine) (a : ScrAddr) : Nat := ((x.arI e a.reg).toNat + a.imm.val) % 2 ^ 32

/-- Where an operand lies in the iteration with indexes `idx`. -/
def opdPlace (x : SliceSt) (l : LayerRun) (e : Engine) (idx : List Nat) (p : Opd) : Place :=
  if p.queued (l.qmode e) then
    let ptr := tget (if p.out then x.qTail else x.qHead) p.o.queue.val 0
    ⟨none, wrapNat (ptr + strideSum (idx.take p.o.qlevel) p.o.strides) 32⟩
  else ⟨p.o.tile, wrapNat (x.baseOf e p.o.base + strideSum idx p.o.strides) 32⟩

/-- Outcome of taking queue entries: a wait for `n` of semaphore `k`, a fault at a scratchpad address. -/
inductive Acq where
  | ok (x : SliceSt)
  | wait (k : Fin 16) (n : Nat)
  | range (a : Nat)
deriving DecidableEq, Repr

/-- Take the entries the iteration begins: all of them, or none while one is not there (06 R184). A queue not enabled faults with address
0, one whose extent passes 0x7FFF with the address 0x8000. DESIGN CHOICE, log 58. -/
def acquire (l : LayerRun) (e : Engine) (idx : List Nat) : List Opd → SliceSt → Acq
  | [], x => .ok x
  | p :: ps, x =>
    if p.queued (l.qmode e) && (idx.take p.o.qlevel).all (fun i => decide (i = 0)) then
      match l.queue p.o.queue.val with
      | none => .range 0
      | some c =>
        let k := if p.out then c.free else c.full
        if 0x8000 < c.base + c.cap then .range 0x8000
        else if x.semReady e k 1 then acquire l e idx ps (x.setSem k (x.sem k - 1)) else .wait (Fin.ofNat 16 k) 1
    else acquire l e idx ps x

/-- The iteration is the last of its level-`q` iteration. -/
def lastBelow : List Nat → List Nat → Bool
  | i :: is, c :: cs => decide (i + 1 = c) && lastBelow is cs
  | _, _ => true

/-- The queue entry of an operand that the iteration ends. -/
def Opd.ends (p : Opd) (l : LayerRun) (e : Engine) (cs idx : List Nat) : Option QCfg :=
  if p.queued (l.qmode e) && lastBelow (idx.take p.o.qlevel) cs then l.queue p.o.queue.val else none

/-- Return one entry: the pointer advances and the other semaphore rises. -/
def SliceSt.giveBack (x : SliceSt) (p : Opd) (c : QCfg) : SliceSt :=
  let q := p.o.queue.val
  if p.out then { x.setSem c.full (x.sem c.full + 1) with qTail := tput x.qTail q (c.next (tget x.qTail q 0)) }
  else { x.setSem c.free (x.sem c.free + 1) with qHead := tput x.qHead q (c.next (tget x.qHead q 0)) }

/-- Return the entries the iteration ends. -/
def release (l : LayerRun) (e : Engine) (cs idx : List Nat) : List Opd → SliceSt → SliceSt
  | [], x => x
  | p :: ps, x => release l e cs idx ps (match p.ends l e cs idx with | some c => x.giveBack p c | none => x)

/-- The semaphore at 255 for which a return must wait (06 R192). The iteration then waits before it begins (log 58). -/
def fullSem (l : LayerRun) (e : Engine) (cs idx : List Nat) : List Opd → SliceSt → Option (Fin 16)
  | [], _ => none
  | p :: ps, x => match p.ends l e cs idx with
    | some c =>
      let k := if p.out then c.full else c.free
      if 255 ≤ x.sem k then some (Fin.ofNat 16 k) else fullSem l e cs idx ps (x.giveBack p c)
    | none => fullSem l e cs idx ps x

/-- The entries the iteration begins, once those it ends can be returned. -/
def takeEntries (l : LayerRun) (e : Engine) (cs idx : List Nat) (ps : List Opd) (x : SliceSt) : Acq :=
  match acquire l e idx ps x with
  | .ok y => match fullSem l e cs idx ps y with
    | some k => .wait k 256
    | none => .ok y
  | a => a

/-- An alignment the operation asks of an operand: the operand, the alignment in bytes, strides inside the iteration. -/
structure AlignReq where
  p : Opd
  n : Nat
  inner : List Nat

/-- Where an operand begins: its base address, or in queue mode the pointer of its queue. -/
def Opd.start (p : Opd) (x : SliceSt) (l : LayerRun) (e : Engine) : Nat :=
  if p.queued (l.qmode e) then tget (if p.out then x.qTail else x.qHead) p.o.queue.val 0 else x.baseOf e p.o.base

/-- The first operand whose base or strides break its alignment: its address (06 R183, 07 R214, 08 R222). -/
def misaligned (x : SliceSt) (l : LayerRun) (e : Engine) : List AlignReq → Option Nat
  | [] => none
  | r :: rs =>
    let base := r.p.start x l e
    if r.p.used && (decide (base % r.n ≠ 0)
        || r.p.o.strides.any (fun d => decide (d % (r.n : Int) ≠ 0)) || r.inner.any (fun d => decide (d % r.n ≠ 0)))
    then some base else misaligned x l e rs

/-! ## Operations -/

/-- What an operation comes to: retired after some issue slots, waiting for a semaphore, or faulted. -/
inductive OpOut where
  | done (x : SliceSt) (slots : Nat)
  | wait (x : SliceSt) (k : Fin 16) (n : Nat)
  | fault (x : SliceSt) (cause detail : Nat)
deriving DecidableEq, Repr

/-- What a loop comes to, with what its iterations carry along. -/
inductive LoopOut (σ : Type) where
  | done (x : SliceSt) (a : σ)
  | wait (x : SliceSt) (a : σ) (k : Fin 16) (n : Nat)
  | fault (x : SliceSt) (a : σ) (cause detail : Nat)

/-- One iteration's effect at the places of its operands: the new state, or a cause and detail. -/
abbrev Body (σ : Type) := SliceSt → σ → List Place → Nat → Except (Nat × Nat) (SliceSt × σ)

/-- Issue `rem` iterations from iteration `i` on (06 R187). A faulting iteration changes no state but the loop position, which counts the
iterations issued (06 R172, R177). -/
def loopGo {σ : Type} (l : LayerRun) (e : Engine) (cs : List Nat) (ps : List Opd) (body : Body σ) :
    Nat → Nat → SliceSt → σ → LoopOut σ
  | 0, _, x, a => .done x a
  | rem + 1, i, x, a =>
    let idx := idxVec cs i
    match takeEntries l e cs idx ps x with
    | .range b => .fault (x.modEng e (fun g => { g with loopPos := i })) a causeRange (scrDetail b)
    | .wait k n => .wait (x.modEng e (fun g => { g with loopPos := i })) a k n
    | .ok y =>
      match body y a (ps.map (opdPlace y l e idx)) i with
      | .error (c, d) => .fault (x.modEng e (fun g => { g with loopPos := i })) a c d
      | .ok (z, b) => loopGo l e cs ps body rem (i + 1) (release l e cs idx ps z) b

/-- Run a looped operation from where it stands: counts, alignment, iterations. A count or a product out of range has no address: its detail
is 0 (06 R187). DESIGN CHOICE, log 58. -/
def runLoop {σ : Type} (x : SliceSt) (l : LayerRun) (e : Engine) (lp : Loop) (ps : List Opd) (al : List AlignReq) (a : σ)
    (body : Body σ) : LoopOut σ :=
  match x.counts e lp with
  | none => .fault x a causeRange 0
  | some cs =>
    match misaligned x l e al with
    | some d => .fault x a causeAlign (scrDetail d)
    | none =>
      let pos := (x.eng e).loopPos
      loopGo l e cs ps body (cs.foldl (· * ·) 1 - pos) pos x a

/-- Iterations of a nest. -/
def iterations (x : SliceSt) (e : Engine) (lp : Loop) : Nat := ((x.counts e lp).getD []).foldl (· * ·) 1

/-- Iterations of a nest not yet issued, for counting issue slots. -/
def iterationsLeft (x : SliceSt) (e : Engine) (lp : Loop) : Nat := iterations x e lp - (x.eng e).loopPos

/-- A looped operation whose iterations carry nothing along. -/
def simpleLoop (x : SliceSt) (l : LayerRun) (e : Engine) (lp : Loop) (ps : List Opd) (al : List AlignReq)
    (body : SliceSt → List Place → Except (Nat × Nat) SliceSt) : OpOut :=
  match runLoop x l e lp ps al () (fun y _ pl _ => (body y pl).map (fun z => (z, ()))) with
  | .done y _ => .done y (iterationsLeft x e lp)
  | .wait y _ k n => .wait y k n
  | .fault y _ c d => .fault y c d

/-- All of `places` hold as many bytes as given, or the first that does not (06 R177). -/
def checkFits : List (Place × Nat) → Except (Nat × Nat) Unit
  | [] => .ok ()
  | (p, n) :: r => if p.fits n then checkFits r else .error (causeRange, scrDetail p.addr)

/-- The rows of an operand, each with its bytes: the first that reaches 0x8000 is the faulting address (06 R177, 07 R214). DEDUCED, log 36. -/
def rowsOf (p : Place) (rows stride n : Nat) : List (Place × Nat) := (upFrom 0 rows).map (fun r => ({ p with addr := p.addr + r * stride }, n))

/-! ## Issue (06 R173), faults (06 R177) and performance counters (06 R172) -/

/-- Add to performance counter `j` of a slice; at its limit it saturates, sets its sat bit and is logged (10 R308). -/
def State.perfAdd (s : State) (sl : SliceId) (j n : Nat) : State :=
  let x := s.slice sl
  if x.perfEnable && decide (n ≠ 0) then
    let v := tget x.perf j 0 + n
    if v < 2 ^ 48 then s.modSlice sl (fun x => { x with perf := tput x.perf j v })
    else
      let s := s.modSlice sl (fun x => { x with perf := tput x.perf j (2 ^ 48 - 1), perfSat := x.perfSat ||| BitVec.ofNat 8 (2 ^ j) })
      if x.perfSat.getLsbD j then s else s.alert 9 (plainRec 9 (slChan sl) 0)
  else s

/-- Request a stop of every slice that runs a command (05 R164, Table 7). -/
def State.requestStop (s : State) (c r pos : Nat) : State :=
  match s.cmd c r pos with
  | none => s
  | some m => m.running.foldl (fun s sl => s.modSlice sl (fun x =>
      if (match x.layer with | some l => decide (l.record.val = r ∧ l.pos = pos) | none => false) then { x with stopReq := true } else x)) s

/-- The fault event of a command (05 R166): the first event decides. -/
def State.cmdFault (s : State) (c r pos : Nat) (f : FaultInfo) : State :=
  match s.cmd c r pos with
  | none => s
  | some m =>
    if m.fault.isSome || m.stopEvent then s
    else (s.modCmd c r pos (fun m => { m with fault := some f, stopReq := true })).requestStop c r pos

/-- An operation of engine `e` faults: the engine stops, the others are asked to, and the command faults (06 R177). -/
def State.sliceFault (s : State) (sl : SliceId) (e : Engine) (cause detail : Nat) : State :=
  match (s.slice sl).layer with
  | none => s
  | some l =>
    (s.modSlice sl (fun x => { x.modEng e (fun g => { g with state := .faulted }) with stopReq := true })).cmdFault
      (slChan sl) l.record.val l.pos ⟨BitVec.ofNat 8 cause, sl, e, BitVec.ofNat 64 detail⟩

/-- A parity error in a channel's storage: counted, and alerted with the tag of the command that read it and its source, 1 a slice or the
sequencer, 2 the host (12 R335, R339). -/
def State.parityErr (s : State) (c : Nat) (tag : W32) (src : Nat) : State :=
  let n := (s.chan c).chk.parity
  ((s.modChan c (fun ch => { ch with chk := { ch.chk with parity := satInc n 0xFFFF } })).alert 3
    { plainRec 3 c 0 with tag := tag, source := src }).noteSat n 0xFFFF c

/-- A slice that a debugger holds; a LAYER of a strict context goes on (15 R400). -/
def SliceSt.heldByDebug (x : SliceSt) : Bool := x.halted && !(match x.layer with | some l => l.strict | none => false)

/-- The engine may issue: its queue holds an operation and nothing holds the slice. -/
def SliceSt.canIssue (x : SliceSt) (e : Engine) : Bool :=
  let g := x.eng e
  g.active && decide (g.queue ≠ []) && (decide (g.state = .issuing) || decide (g.state = .semWait)) && !x.stopReq
    && (!x.heldByDebug || x.stepping) && (decide (e ≠ .bx) || decide (x.bxWait = .none))

/-- The head operation retires: the queue advances, and the program counter past the operation. -/
def retired (g : EngineSt) : EngineSt :=
  { g with
    pc := g.pc + BitVec.ofNat 18 (g.queue.headD 0)
    queue := g.queue.drop 1
    state := if g.active then .issuing else .idle
    loopPos := 0
    waitSem := none
    issued := none
    vals := [] }

def SliceSt.retire (x : SliceSt) (e : Engine) : SliceSt := x.modEng e retired

/-- What stands before an operation may issue. -/
inductive Issue where
  | no (s : State)
  | go (x : SliceSt) (l : LayerRun)

/-- The guards of an issue of engine `e`: a LAYER runs, the engine may issue, its program counter lies in its section, no
breakpoint stands there. The slice that issues holds its address registers as read at issue. -/
def State.issueAt (s : State) (sl : SliceId) (e : Engine) : Issue :=
  let x := s.slice sl
  match x.layer with
  | none => .no s
  | some l =>
    let g := x.eng e
    if !x.canIssue e then .no s
    else if g.pc.toNat < g.lo ∨ g.hi ≤ g.pc.toNat then .no (s.sliceFault sl e causeRange (codeDetail g.pc.toNat))
    else if x.breaks.contains g.pc.toNat && !x.stepping && !l.strict then .no (s.modSlice sl (fun x => { x with halted := true }))
    else .go { x.modEng e (fun g => { g with issued := some (g.issued.getD x.ars) }) with stepping := false } l

def State.putSlice (s : State) (sl : SliceId) (x : SliceSt) : State := { s with slices := tput s.slices sl.toNat x }

/-- An engine of the slice begins to wait (10 R297, R307). -/
def State.waitsFrom (s : State) (sl : SliceId) (x : SliceSt) : SliceSt :=
  { x with waitStart := s.refCount, waitUs := (s.chan (slChan sl)).descheduleUs }

/-- The engine waits for a semaphore. -/
def State.await (s : State) (sl : SliceId) (x : SliceSt) (e : Engine) (k : Fin 16) (n : Nat) : State :=
  let x := if (x.eng e).state = .semWait then x else s.waitsFrom sl x
  s.putSlice sl (x.modEng e (fun g => { g with state := .semWait, waitSem := some (k, n) }))

/-- Performance counter of an engine's issue slots; BX counts the column slots in which it moves data instead (06 R172). -/
def State.issued (s : State) (sl : SliceId) (e : Engine) (n : Nat) : State :=
  match e with
  | .mx => s.perfAdd sl 0 n | .vx => s.perfAdd sl 1 n | .bx => s | .cx => s.perfAdd sl 3 n

/-- Issue an operation of engine `e`, or let it wait or fault; an iteration of it issues for `cost` slice-cycles. An operation that cannot issue
changes nothing (log 1). -/
def State.runOpBy (s : State) (sl : SliceId) (e : Engine) (cost : Nat) (f : SliceSt → LayerRun → OpOut) : State :=
  match s.issueAt sl e with
  | .no s => s
  | .go x l =>
    match f x l with
    | .done y n => (s.putSlice sl (y.retire e)).issued sl e n
    | .wait y k n => (s.await sl y e k n).issued sl e (((y.eng e).loopPos - (x.eng e).loopPos) * cost)
    | .fault y c d =>
      let s := (s.putSlice sl y).issued sl e (((y.eng e).loopPos - (x.eng e).loopPos) * cost)
      (if c = causeDataCheck then s.parityErr (slChan sl) l.tag 1 else s).sliceFault sl e c d

/-- An operation whose iterations issue for one slice-cycle each. -/
def State.runOp (s : State) (sl : SliceId) (e : Engine) (f : SliceSt → LayerRun → OpOut) : State := s.runOpBy sl e 1 f

/-- An operation one of whose reads of the slice's storage meets bad parity faults before it changes anything (12 R335, log 93). -/
def withParity (parity : Option Storage) (f : SliceSt → LayerRun → OpOut) (x : SliceSt) (l : LayerRun) : OpOut :=
  match parity with
  | some k => .fault x causeDataCheck (parityDetail k)
  | none => f x l

end Sys2Proof.Machine
end

