-- ==== Sys2Proof/Machine/Array.lean ====
section
/-! DEFINITION. The arrays: host views (02 R43 to R46), check ownership (04 R118, R119), block reads and writes with their checks
(12 R322 to R328), the writer log (12 R329, R330). -/

namespace Sys2Proof.Machine

/-! ## Views (02 R43, R44) -/

/-- HB_WIN[w]; reset 1 (04 Table 7). -/
def State.win (s : State) (w : Nat) : Nat := (tget s.port.wins w 1).toNat

/-- HB_XOR_MASK reset values (02 Table 4). -/
def maskReset (k : Nat) : Nat :=
  if k ≤ 8 then 2 ^ k else if k ≤ 13 then 0x800 * 2 ^ (k - 9) else if k = 14 then 0x200 else 0x400

def State.mask (s : State) (k : Nat) : Nat := (tget s.port.masks k (BitVec.ofNat 32 (maskReset k))).toNat

/-- Parity of the low `n` bits. -/
def parityBits : Nat → Nat → Bool
  | 0, _ => false
  | n + 1, v => (v % 2 == 1) ^^ parityBits n (v / 2)

/-- Hash bit `k`: parity of the row bits A[39:29] and byte bits A[21:17] that the mask selects. -/
def State.hashBit (s : State) (k a : Nat) : Bool :=
  parityBits 11 (Nat.land (bits (s.mask k) 10 0) (bits a 39 29)) ^^ parityBits 5 (Nat.land (bits (s.mask k) 15 11) (bits a 21 17))

/-- Channel bits, from bit `k` up, or bank bits, hashed. -/
def State.hashField (s : State) (k n v a : Nat) : Nat :=
  (upFrom 0 n).foldl (fun t i => t + (if bitAt v i ^^ s.hashBit (k + i) a then 2 ^ i else 0)) 0

/-- The placed data offset of an interleaved one. -/
def State.unhash (s : State) (a : Nat) : Nat :=
  fld (s.hashField 0 9 (bits a 16 8) a) 31 + fld (s.hashField 9 7 (bits a 28 22) a) 24 + fld (bits a 39 29) 13
    + fld (bits a 21 17) 8 + bits a 7 0

/-- The placed data offset a host data address names through its window's view. -/
def State.placed (s : State) (a : Nat) : Nat := if bitAt (s.win (a / 2 ^ 30)) 0 then s.unhash a else a

/-- Block `blk` (placed offset / 64) is host-owned (04 R119). -/
def State.hostOwned (s : State) (blk : Nat) : Bool :=
  let a := blk * 64
  let p := s.win (a / 2 ^ 30)
  let i := s.win (offRow a / 2)
  (!bitAt p 0 && bitAt p 1) || (bitAt i 0 && bitAt i 1)

/-! ## Blocks (12 R322, R323) -/

def State.blockData (s : State) (blk : Nat) : List Byte := rdN s.mem (blk * 64) 64

/-- The difference of the stored check word from the CRC-32C of the block's data (log 8). -/
def State.diff (s : State) (blk : Nat) : W32 := tget s.checkDiff blk 0

def State.setDiff (s : State) (blk : Nat) (d : W32) : State :=
  { s with checkDiff := if d = 0 then tdel s.checkDiff blk else tput s.checkDiff blk d }

/-- The stored check word. -/
def State.checkWord (s : State) (blk : Nat) : W32 := crc32c (s.blockData blk) ^^^ s.diff blk

/-- A read of the block fails verification. -/
def State.failing (s : State) (blk : Nat) : Bool := !s.hostOwned blk && decide (s.diff blk ≠ 0)

/-! ## The writer log (12 R329, R330) -/

/-- Who writes: a command of a context, or the host. -/
inductive Writer where
  | cmd (tag : W32) (c r : Nat) (gen : Byte)
  | host
deriving DecidableEq, Repr

/-- Entry index of a placed data offset within its channel. -/
def wlogIx (a : Nat) : Nat := a / 2 ^ 16 % 32768

def WLog.names (w : WLog) (tag : W32) (c r : Nat) (gen : Byte) : Bool :=
  w.valid && !w.host && decide (w.tag = tag ∧ w.channel = c ∧ w.record = r ∧ w.gen = gen)

/-- The entry after a write. -/
def WLog.write (w : WLog) : Writer → WLog
  | .host => ⟨0, 0, 0, 0, true, w.pend, false, true⟩
  | .cmd tag c r gen =>
    if w.names tag c r gen && w.pend then w else ⟨tag, c, r, gen, false, w.pend, true, true⟩

def State.wlogAt (s : State) (a : Nat) : WLog := tget (s.chan (offChan a)).wlog (wlogIx a) .zero

def State.logWrite (s : State) (a : Nat) (w : Writer) : State :=
  s.modChan (offChan a) (fun ch => { ch with wlog := tmod ch.wlog (wlogIx a) .zero (fun e => e.write w) })

/-! ## Failures (12 R326, R328, R333) -/

/-- Detail of a DATA_CHECK fault at an array block. -/
def State.arrayDetail (s : State) (a : Nat) : Nat := (s.wlogAt a).tag.toNat + fld (a / 2 ^ 16 % 2 ^ 24) 32

/-- The record of an array failure, with the alert bit it belongs to. -/
def State.blockRec (s : State) (bit src blk : Nat) (tag : W32) : ErrRec :=
  ⟨BitVec.ofNat 8 (bit + 1), offChan (blk * 64), 0, src, tag, BitVec.ofNat 40 (blk * 64), (s.wlogAt (blk * 64)).word, 0⟩

def State.modChk (s : State) (c : Nat) (f : CheckSt → CheckSt) : State := s.modChan c (fun ch => { ch with chk := f ch.chk })

/-- A persistent failure of a read (12 R326): read_fail, CH_CHK_LAST, the alert. `tag` is that of the faulted command. -/
def State.readFail (s : State) (blk src : Nat) (tag : W32) : State :=
  let c := offChan (blk * 64)
  let n := (s.chan c).chk.readFail
  ((((s.modChk c (fun k => { k with readFail := satInc n 0xFFFF, lastBlk := blk % 2 ^ 25, lastSrc := src })).alert 0
    (s.blockRec 0 src blk tag)).noteSat n 0xFFFF c)).timing c 3

/-- A write stored with an inverted check (12 R328). -/
def State.keptFail (s : State) (blk : Nat) (src : Nat) (tag : W32) : State :=
  let c := offChan (blk * 64)
  let n := (s.chan c).chk.keptFail
  ((s.modChk c (fun k => { k with keptFail := satInc n 0xFFFF, lastBlk := blk % 2 ^ 25, lastSrc := src })).alert 0
    (s.blockRec 0 src blk tag)).noteSat n 0xFFFF c

/-! ## Writes -/

/-- Write bytes of one block of module-owned storage with a valid check. -/
def State.putBytes (s : State) (a : Nat) (bs : List Byte) (w : Writer) : State :=
  ({ s with mem := wrL s.mem a bs }.setDiff (a / 64) 0).logWrite a w

/-- Merge bytes into a failing block and keep it failing: data written with its check inverted (12 R328). The failure's record shows the
writer-log entry as it stood (12 Table 7). -/
def State.putKept (s : State) (a : Nat) (bs : List Byte) (w : Writer) (tag : W32) : State :=
  (({ (s.keptFail (a / 64) 4 tag) with mem := wrL s.mem a bs }.setDiff (a / 64) 0xFFFFFFFF#32).logWrite a w).timing (offChan a) 3

/-- A write by a command of bytes within one block; `whole` tells that the run it belongs to covers the block (09 R272). A partial
write into a failing block is not performed (12 R328). The error is a cause and a detail. -/
def State.cmdWrite (s : State) (a : Nat) (bs : List Byte) (whole : Bool) (w : Writer) : Except (Nat × Nat) State :=
  let blk := a / 64
  if s.hostOwned blk then .error (causePlain, dataDetail a)
  else if s.failing blk && !whole then .error (causeDataCheck, s.arrayDetail a)
  else .ok (s.putBytes a bs w)

/-- A read by a command of bytes within one block. -/
def State.cmdRead (s : State) (a n : Nat) : Except (Nat × Nat) (List Byte) :=
  if s.failing (a / 64) then .error (causeDataCheck, s.arrayDetail a) else .ok (rdN s.mem a n)

/-- Note the failure behind a command's DATA_CHECK: source 1 a read, 4 a merged write. -/
def State.noteCheck (s : State) (e : Nat × Nat) (a src : Nat) (tag : W32) : State :=
  if e.1 = causeDataCheck then s.readFail (a / 64) src tag else s

/-- Write one byte of masked data: the bytes of a host WRITE whose enables are set. -/
def mergeBytes (en : W64) (new : List Byte) : Nat → List Byte → List Byte
  | _, [] => []
  | i, o :: os => (if en.getLsbD i then new.getD i 0 else o) :: mergeBytes en new (i + 1) os

/-- A host WRITE is performed at its block (04 R117, R118; 12 R328, R329). `lost` marks data that failed twice in transit
(12 R334), stored with its check inverted; `owned` tells whether the host owned the block's check when the request reached the switch
(04 R113). -/
def State.hostWrite (s : State) (blk : Nat) (en : W64) (data : List Byte) (check : W32) (lost owned : Bool) : State :=
  let a := blk * 64
  let merged := mergeBytes en data 0 (s.blockData blk)
  if owned then
    ({ s with mem := wrL s.mem a merged }.setDiff blk (check ^^^ crc32c merged)).logWrite a .host
  else if lost || (s.failing blk && decide (en ≠ BitVec.allOnes 64)) then s.putKept a merged .host 0
  else s.putBytes a merged .host

end Sys2Proof.Machine
end

