-- ==== Sys2Proof/Machine/Matrix.lean ====
section
/-! DEFINITION. The matrix engine (07): MX.ZERO, MX.MMA, MX.ROUND, MX.PSTORE, MX.PLOAD. -/

namespace Sys2Proof.Machine

/-- Rows and columns of a shape (07 Table 3). -/
def shapeDim : Shape → Nat × Nat
  | .s4x4 => (4, 4) | .s4x8 => (4, 8) | .s8x4 => (8, 4)

/-- Clear accumulators `first` to `first + n - 1` (07 R203). -/
def SliceSt.clearAccs (x : SliceSt) (first n : Nat) : SliceSt :=
  { x with accs := forN n (fun i m => tput m (first + i) .zero) x.accs }

/-- MX.ZERO (07 R203, R214). -/
def mxZeroOp (first n : Nat) (lp : Loop) (x : SliceSt) (l : LayerRun) : OpOut :=
  if 32 < first + n then .fault x causeRange 0
  else simpleLoop x l .mx lp [] [] (fun y _ => .ok (y.clearAccs first n))

/-! ## MX.MMA (07 R212, R214, R215) -/

/-- Bytes of a dense row of 32 elements, and of a sparse one: 16 elements and a metadata word. -/
def mmaRowBytes (f : Fmt) (sparse : Bool) : Nat := if sparse then 16 * fmtBits f / 8 + 4 else 32 * fmtBits f / 8

def mmaRowAlign (f : Fmt) (sparse : Bool) : Nat :=
  if sparse then 4 else match f with | .e2m3 | .e3m2 => 8 | _ => 16

/-- The value of an element under the scale of its block (07 R202). -/
def scaled (v : Val) (scale : Option Nat) : Val :=
  match scale with
  | none => v
  | some e => v.mul (decodeVal .e8m0 e)

/-- A row of B, or of a dense A: element k with its position. -/
def denseRow (x : SliceSt) (p : Place) (f : Fmt) (scale : Option Nat) : List (Nat × Val) :=
  (upFrom 0 32).map (fun k => (k, scaled (decodeVal f (x.getElem p f k 1)) scale))

/-- A sparse row of A expanded: the kept elements at their positions, and zero at every other (07 R215). -/
def sparseRow (x : SliceSt) (p : Place) (f : Fmt) (scale : Option Nat) : List (Nat × Val) :=
  let nb := 16 * fmtBits f / 8
  let md := leNat (x.rdAt { p with addr := p.addr + nb } 4)
  let pos (k : Nat) : Nat := 4 * (k / 2) + (if k % 2 = 0 then bits md (4 * (k / 2) + 1) (4 * (k / 2)) else bits md (4 * (k / 2) + 3) (4 * (k / 2) + 2))
  let kept := (upFrom 0 16).map (fun k => (pos k, scaled (decodeVal f (x.getElem p f k 1)) scale))
  kept ++ ((upFrom 0 32).filter (fun k => kept.all (fun e => decide (e.1 ≠ k)))).map (fun k => (k, scaled (.fin false 0 0) scale))

/-- Add every product of two rows. -/
def addProducts (acc : Acc) (a b : List (Nat × Val)) : Acc :=
  a.foldl (fun acc e => acc.addVal (e.2.mul ((b.find? (fun y => y.1 = e.1)).elim (.fin false 0 0) (·.2)))) acc

def mmaBody (m : MmaOp) (x : SliceSt) (pl : List Place) : Except (Nat × Nat) SliceSt := do
  let pa := pl.getD 0 ⟨none, 0⟩
  let pb := pl.getD 1 ⟨none, 0⟩
  let ps := pl.getD 2 ⟨none, 0⟩
  let (rows, cols) := shapeDim m.shape
  checkFits (rowsOf pa rows m.ars.val (mmaRowBytes m.fa m.sparse) ++ rowsOf pb cols m.brs.val (mmaRowBytes m.fb false)
    ++ [(ps, if m.sa || m.sb then 16 else 0)])
  let s := x.rdAt ps 16
  let scale (on : Bool) (i : Nat) : Option Nat := if on then some (s.getD i 0).toNat else none
  let a := (upFrom 0 rows).map (fun r =>
    let p : Place := { pa with addr := pa.addr + r * m.ars.val }
    if m.sparse then sparseRow x p m.fa (scale m.sa r) else denseRow x p m.fa (scale m.sa r))
  let b := (upFrom 0 cols).map (fun c => denseRow x { pb with addr := pb.addr + c * m.brs.val } m.fb (scale m.sb (8 + c)))
  .ok (forN rows (fun r x => forN cols (fun c x =>
    let i := m.accBase + cols * r + c
    x.setAcc i (addProducts (x.acc i) (a.getD r []) (b.getD c []))) x) x)

def mmaOpds (m : MmaOp) : List Opd := [⟨m.a, false, true⟩, ⟨m.b, false, true⟩, ⟨m.s, false, m.sa || m.sb⟩]

def mxMmaOp (m : MmaOp) (x : SliceSt) (l : LayerRun) : OpOut :=
  let (r, c) := shapeDim m.shape
  if 32 < m.accBase + r * c then .fault x causeRange 0
  else
    let ps := mmaOpds m
    let al : List AlignReq := [⟨⟨m.a, false, true⟩, mmaRowAlign m.fa m.sparse, [m.ars.val]⟩, ⟨⟨m.b, false, true⟩, mmaRowAlign m.fb false, [m.brs.val]⟩,
      ⟨⟨m.s, false, m.sa || m.sb⟩, 16, []⟩]
    simpleLoop x l .mx m.lp ps al (mmaBody m)

/-! ## MX.ROUND (07 R206, R207, R213) -/

def roundBody (m : RoundOp) (x : SliceSt) (pl : List Place) : Except (Nat × Nat) SliceSt := do
  let pd := pl.getD 0 ⟨none, 0⟩
  let (rows, cols) := shapeDim m.shape
  checkFits (rowsOf pd rows m.drs.val (cols * fmtBytes m.fmt))
  let y := forN rows (fun r y => forN cols (fun c y =>
    y.putElem { pd with addr := pd.addr + r * m.drs.val } m.fmt c 1
      (encodeVal m.fmt m.sat ((x.acc (m.accBase + cols * r + c)).value m.adj))) y) x
  .ok (if m.clear then y.clearAccs m.accBase (rows * cols) else y)

def mxRoundOp (m : RoundOp) (x : SliceSt) (l : LayerRun) : OpOut :=
  let (r, c) := shapeDim m.shape
  if 32 < m.accBase + r * c then .fault x causeRange 0
  else simpleLoop x l .mx m.lp [⟨m.d, true, true⟩] [⟨⟨m.d, true, true⟩, min 16 (c * fmtBytes m.fmt), [m.drs.val]⟩] (roundBody m)

/-! ## Partials (07 R209 to R211) -/

/-- Write records at P and full forms at X: the state and the number of spills. -/
def storeRecords (x : SliceSt) (p q : Place) : List Acc → Nat → Nat → SliceSt
  | [], _, _ => x
  | a :: as, i, j =>
    let (rec, full) := a.record
    let y := x.wrAt { p with addr := p.addr + 24 * i } rec
    match full with
    | none => storeRecords y p q as (i + 1) j
    | some f => storeRecords (y.wrAt { q with addr := q.addr + 80 * j } f) p q as (i + 1) (j + 1)

def pstoreBody (first n : Nat) (clear : Bool) (x : SliceSt) (pl : List Place) : Except (Nat × Nat) SliceSt := do
  let p := pl.getD 0 ⟨none, 0⟩
  let q := pl.getD 1 ⟨none, 0⟩
  let as := (upFrom first n).map x.acc
  checkFits [(p, 24 * n), (q, 80 * (as.filter (fun a => a.record.2.isSome)).length)]
  let y := storeRecords x p q as 0 0
  .ok (if clear then y.clearAccs first n else y)

def mxPstoreOp (p q : ScrOperand) (lp : Loop) (first n : Nat) (clear : Bool) (x : SliceSt) (l : LayerRun) : OpOut :=
  if 32 < first + n then .fault x causeRange 0
  else simpleLoop x l .mx lp [⟨p, true, true⟩, ⟨q, true, true⟩] [⟨⟨p, true, true⟩, 8, []⟩, ⟨⟨q, true, true⟩, 16, []⟩] (pstoreBody first n clear)

/-- Records at P, each with its full form at X when it spills: `i` the record, `j` the spills before it. -/
def loadRecords (x : SliceSt) (p q : Place) : Nat → Nat → Nat → List (List Byte × List Byte)
  | 0, _, _ => []
  | n + 1, i, j =>
    let r := x.rdAt { p with addr := p.addr + 24 * i } 24
    let sp := recordSpills r
    (r, if sp then x.rdAt { q with addr := q.addr + 80 * j } 80 else []) :: loadRecords x p q n (i + 1) (if sp then j + 1 else j)

def ploadBody (first n : Nat) (x : SliceSt) (pl : List Place) : Except (Nat × Nat) SliceSt := do
  let p := pl.getD 0 ⟨none, 0⟩
  let q := pl.getD 1 ⟨none, 0⟩
  checkFits [(p, 24 * n)]
  let rs := loadRecords x p q n 0 0
  checkFits [(q, 80 * (rs.filter (fun r => recordSpills r.1)).length)]
  .ok (forN n (fun i y => match rs[i]? with
    | some r => y.setAcc (first + i) ((y.acc (first + i)).addRecord r.1 r.2)
    | none => y) x)

def mxPloadOp (p q : ScrOperand) (lp : Loop) (first n : Nat) (x : SliceSt) (l : LayerRun) : OpOut :=
  if 32 < first + n then .fault x causeRange 0
  else simpleLoop x l .mx lp [⟨p, false, true⟩, ⟨q, false, true⟩] [⟨⟨p, false, true⟩, 8, []⟩, ⟨⟨q, false, true⟩, 16, []⟩] (ploadBody first n)

/-! ## Meanings -/

def execMxZero (sl : SliceId) (first : Fin 32) (count : Nat) (lp : Loop) (s : State) : Result :=
  if (Instr.mxZero sl first count lp).wf then .next (s.runOp sl .mx (mxZeroOp first.val count lp)) else .refused (.noEncoding "MX_ZERO")

def execMxMma (sl : SliceId) (m : MmaOp) (parity : Option Storage) (s : State) : Result :=
  if m.ok then
    let (r, c) := shapeDim m.shape
    if 32 < m.accBase + r * c ∨ accBaseOk m.shape m.accBase then .next (s.runOp sl .mx (withParity parity (mxMmaOp m)))
    else .refused (.noEncoding "MX_MMA")
  else .refused (.noEncoding "MX_MMA")

/-- Any acc_base: Table 5 limits none, R214 only the block's end. -/
def execMxRound (sl : SliceId) (m : RoundOp) (s : State) (parity : Option Storage := none) : Result :=
  if m.ok then .next (s.runOp sl .mx (withParity parity (mxRoundOp m))) else .refused (.noEncoding "MX_ROUND")

def execMxPstore (sl : SliceId) (p : ScrOperand) (x : ScrOperand) (lp : Loop) (first : Fin 32) (count : Nat) (clear : Bool) (s : State) (parity : Option Storage := none) : Result :=
  if (Instr.mxPstore sl p x lp first count clear parity).wf then .next (s.runOp sl .mx (withParity parity (mxPstoreOp p x lp first.val count clear)))
  else .refused (.noEncoding "MX_PSTORE")

def execMxPload (sl : SliceId) (p : ScrOperand) (x : ScrOperand) (lp : Loop) (first : Fin 32) (count : Nat) (s : State) (parity : Option Storage := none) : Result :=
  if (Instr.mxPload sl p x lp first count parity).wf then .next (s.runOp sl .mx (withParity parity (mxPloadOp p x lp first.val count)))
  else .refused (.noEncoding "MX_PLOAD")

end Sys2Proof.Machine
end

