-- ==== Sys2Proof/Machine/Vector.lean ====
section
/-! DEFINITION. The vector engine and reduction unit (08): VX.RUN and its stage chain, constant registers, reducers, tiles,
block-scaled output and the FP64 canonical tree. -/

namespace Sys2Proof.Machine

/-! ## The stage chain (08 R220 to R226) -/

/-- Operands a chain reads: its stages' sources and its reducers' taps. -/
def runReads (m : VxRun) (q : Src) : Bool :=
  m.stages.any (fun st => st.srcs.contains q) || m.red.any (fun r => decide (r.kind ≠ .none) && decide (r.tap = q))

def runUsesX (m : VxRun) : Bool := runReads m .x
def runUsesY (m : VxRun) : Bool := runReads m .y || (m.xScaled && runUsesX m)

/-- Lanes of a pass (08 R225). -/
def laneWidth (sts : List Stage) : Nat :=
  if sts.all (fun st => decide (st.fmt = .fp64)) then 1
  else if sts.all (fun st => decide (st.fmt = .bf16 ∨ st.fmt = .fp16 ∨ st.fmt = .int16)) then 8 else 4

/-- Weight of a stage (08 Table 4). -/
def stageWeight : StageOp → Nat
  | .exp2 | .log2 | .rcp | .rsq => 2
  | _ => 1

/-- Slice-cycles of a pass (08 R225). -/
def passCost (sts : List Stage) : Nat := (sts.map (fun st => stageWeight st.op)).foldl (· + ·) 0 + 2 * ((sts.length + 7) / 8 - 1)

/-- Passes after which a pass's results are read by a later pass of the same operation: its last slot lies 6 slice-cycles before
the reading pass's first slot (08 R245). -/
def passLag (cost : Nat) : Nat := (2 * cost + 4) / cost

/-- Any part of a chain uses the FP64 lanes (08 R240). -/
def runFp64 (m : VxRun) : Bool :=
  m.stages.any (fun st => decide (st.fmt = .fp64)) || (runUsesX m && decide (m.fx = .fp64))
    || (runUsesY m && !m.xScaled && decide (m.fy = .fp64)) || (m.out.isSome && decide (m.fd = .fp64))

/-- What an element's stages read: X, Y, the chain registers, the constants and the logical index. -/
structure ElemEnv where
  x : Val
  y : Val
  t : Table TVal
  k : Table TVal
  ix : Nat

def constZero : TVal := ⟨.fp32, 0⟩

def ElemEnv.src (v : ElemEnv) : Src → Val
  | .x => v.x
  | .y => v.y
  | .t i => (tget v.t i.val constZero).val
  | .k i => (tget v.k i.val constZero).val
  | .idx => decodeVal .int32 (v.ix % 2 ^ 32)
  | .zero => .fin false 0 0

/-- Run the stages of a chain on one element. -/
def runStages (sts : List Stage) (v : ElemEnv) : ElemEnv :=
  sts.foldl (fun v st => { v with t := tput v.t st.dst.val (stageRun st.op st.fmt (v.src st.a) (v.src st.b) (v.src st.c)) }) v

/-- The tap carries integers. -/
def runIntTap (m : VxRun) (q : Src) : Bool := fmtIsInt (tapFmt m q)

/-- Take one element's taps into the reducers. -/
def takeTaps (m : VxRun) (v : ElemEnv) (x : SliceSt) : SliceSt :=
  forN 4 (fun i x => match m.red[i]? with
    | some r => if r.kind = .none then x
      else { x with reds := tmod x.reds i .zero (fun q => q.take r.kind (runIntTap m r.tap) (v.src r.tap)) }
    | none => x) x

/-- A result on its way to D: the pass that made it, the element, its bits. -/
structure PendingOut where
  pass : Nat
  p : Place
  i : Nat
  v : Nat

def flushOut (m : VxRun) (x : SliceSt) (ws : List PendingOut) : SliceSt :=
  ws.foldl (fun x w => x.putElem w.p m.fd w.i m.ds.val w.v) x

/-- What the passes of a VX.RUN carry along: passes so far, results not yet performed. -/
structure RunAux where
  pass : Nat
  ws : List PendingOut

/-- One element: its taps are taken and its result joins the pending ones. -/
def runElem (m : VxRun) (px py pd : Place) (base e pass : Nat) (x : SliceSt) (ws : List PendingOut) : SliceSt × List PendingOut :=
  let sc : Val := if m.xScaled && runUsesX m then decodeVal .e8m0 (leNat (x.rdAt { py with addr := py.addr + e / 32 } 1)) else .fin false 1 0
  let vx : Val := if runUsesX m then
      (let v := decodeVal m.fx (x.getElem px m.fx e m.xs.val); if m.xScaled then v.mul sc else v) else .fin false 0 0
  let vy : Val := if runUsesY m then
      (if m.xScaled then decodeVal .e8m0 (leNat (x.rdAt { py with addr := py.addr + e / 32 } 1)) else decodeVal m.fy (x.getElem py m.fy e m.ys.val))
    else .fin false 0 0
  let v := runStages m.stages ⟨vx, vy, [], x.consts, base + e⟩
  let x := takeTaps m v x
  match m.out with
  | none => (x, ws)
  | some o => (x, ws ++ [⟨pass, pd, e, encodeVal m.fd false (v.src (.t o))⟩])

/-- Passes of one iteration, each of `w` elements: a pass reads its elements after the results of passes `lag` or more before it
are performed. -/
def runPasses (m : VxRun) (px py pd : Place) (base n w lag : Nat) : Nat → SliceSt → RunAux → SliceSt × RunAux
  | 0, x, a => (x, a)
  | k + 1, x, a =>
    let lo := ((n + w - 1) / w - (k + 1)) * w
    let ready := a.ws.filter (fun q => decide (q.pass + lag ≤ a.pass))
    let rest := a.ws.filter (fun q => !decide (q.pass + lag ≤ a.pass))
    let x := flushOut m x ready
    let (y, ws) := (upFrom lo (min w (n - lo))).foldl (fun (z : SliceSt × List PendingOut) e => runElem m px py pd base e a.pass z.1 z.2) (x, rest)
    runPasses m px py pd base n w lag k y ⟨a.pass + 1, ws⟩

/-- Name kinds and clear reducers before the first element (08 R230), also where there is none. DEDUCED, log 84. -/
def beginReducers (m : VxRun) (x : SliceSt) : SliceSt :=
  forN 4 (fun i x => match m.red[i]? with
    | some r => if r.kind = .none then x
      else { x with reds := tmod x.reds i .zero (fun q => { (if r.clear then q.clear else q) with kind := r.kind, intTap := runIntTap m r.tap }) }
    | none => x) x

/-- Results still on their way into an entry that this iteration pops from the queue they are pushed to are performed first, and so are
those before them: the pop waits for its write (06 R184; 08 R245). -/
def settlePopped (l : LayerRun) (m : VxRun) (x : SliceSt) (a : RunAux) : SliceSt × RunAux :=
  let pops (o : ScrOperand) (on : Bool) (w : PendingOut) : Bool :=
    (Opd.mk o false on).queued (l.qmode .vx) && decide (o.queue = m.d.queue) && (match l.queue o.queue.val with
      | some c =>
        let hd := tget x.qHead o.queue.val 0
        let b := w.p.addr + (if fmtPacked m.fd then w.i * fmtBits m.fd / 8 else w.i * m.ds.val * fmtBytes m.fd)
        decide (hd ≤ b ∧ b < hd + c.entry)
      | none => false)
  let hit (w : PendingOut) : Bool := w.p.tile.isNone && (Opd.mk m.d true m.out.isSome).queued (l.qmode .vx) && (pops m.x (runUsesX m) w || pops m.y (runUsesY m) w)
  let k := a.ws.length - a.ws.reverse.findIdx hit
  (flushOut m x (a.ws.take k), { a with ws := a.ws.drop k })

def vxRunBody (l : LayerRun) (m : VxRun) (n : Nat) : Body RunAux := fun x a pl i => do
  let px := pl.getD 0 ⟨none, 0⟩
  let py := pl.getD 1 ⟨none, 0⟩
  let pd := pl.getD 2 ⟨none, 0⟩
  checkFits [(px, if runUsesX m then extent m.fx n m.xs.val else 0),
    (py, if runUsesY m then (if m.xScaled then (n + 31) / 32 else extent m.fy n m.ys.val) else 0),
    (pd, if m.out.isSome then extent m.fd n m.ds.val else 0)]
  let w := laneWidth m.stages
  let t := settlePopped l m x a
  .ok (runPasses m px py pd (i * n) n w (passLag (passCost m.stages)) ((n + w - 1) / w) (if i = 0 then beginReducers m t.1 else t.1) t.2)

def elemAlign (f : Fmt) : Nat := if fmtPacked f then 1 else fmtBytes f

/-- Alignment of the operands of a VX.RUN (08 R222): element bytes for bases and loop strides, 8 for the bases of packed and
block-scaled operands. -/
def runMisaligned (m : VxRun) (x : SliceSt) (l : LayerRun) : Option Nat :=
  let ox : Opd := ⟨m.x, false, runUsesX m⟩
  let oy : Opd := ⟨m.y, false, runUsesY m⟩
  let od : Opd := ⟨m.d, true, m.out.isSome⟩
  let base8 (p : Opd) (on : Bool) : List AlignReq := if on then [⟨{ p with o := { p.o with strides := [] } }, 8, []⟩] else []
  misaligned x l .vx ([⟨ox, elemAlign m.fx, []⟩, ⟨oy, if m.xScaled then 1 else elemAlign m.fy, []⟩, ⟨od, elemAlign m.fd, []⟩]
    ++ base8 ox (fmtPacked m.fx || m.xScaled) ++ base8 oy (!m.xScaled && fmtPacked m.fy) ++ base8 od (fmtPacked m.fd))

def scaleFmtOk (f : Fmt) : Bool := f.fp46 || f.fp8

/-- Slice-cycles of an iteration of `n` elements. -/
def runCost (m : VxRun) (n : Nat) : Nat := (n + laneWidth m.stages - 1) / laneWidth m.stages * passCost m.stages

def vxRunOp (m : VxRun) (x : SliceSt) (l : LayerRun) : OpOut :=
  let n := x.countOf .vx m.n
  if 8192 < n || (m.xScaled && !scaleFmtOk m.fx) || (runFp64 m && !l.fp64) then .fault x causeRange 0
  else
    match runMisaligned m x l with
    | some d => .fault x causeAlign (scrDetail d)
    | none =>
      match runLoop x l .vx m.lp [⟨m.x, false, runUsesX m⟩, ⟨m.y, false, runUsesY m⟩, ⟨m.d, true, m.out.isSome⟩] [] ⟨0, []⟩ (vxRunBody l m n) with
      | .done z a => .done (flushOut m (if iterations x .vx m.lp = 0 then beginReducers m z else z) a.ws) (iterationsLeft x .vx m.lp * runCost m n)
      | .wait z a k n => .wait (flushOut m z a.ws) k n
      | .fault z a c d => .fault (flushOut m z a.ws) c d

/-! ## Constants and reducers (08 R229 to R235) -/

def vxKsetOp (k : Fin 4) (imm : W32) (f : Fmt) (lp : Loop) (x : SliceSt) (l : LayerRun) : OpOut :=
  simpleLoop x l .vx lp [] [] (fun y _ => .ok { y with consts := tput y.consts k.val ⟨f, BitVec.ofNat 64 (imm.toNat % 2 ^ fmtBits f)⟩ })

def vxKldOp (k : Fin 4) (o : ScrOperand) (f : Fmt) (lp : Loop) (x : SliceSt) (l : LayerRun) : OpOut :=
  simpleLoop x l .vx lp [⟨o, false, true⟩] [⟨⟨o, false, true⟩, fmtBytes f, []⟩] (fun y pl => do
    let p := pl.getD 0 ⟨none, 0⟩
    checkFits [(p, fmtBytes f)]
    .ok { y with consts := tput y.consts k.val ⟨f, BitVec.ofNat 64 (y.getOne p f)⟩ })

def vxRclrOp (mask : BitVec 4) (lp : Loop) (x : SliceSt) (l : LayerRun) : OpOut :=
  simpleLoop x l .vx lp [] [] (fun y _ => .ok { y with
    reds := forN 4 (fun i m => if mask.getLsbD i then tmod m i .zero Reducer.clear else m) y.reds })

/-- The result a VX.RROUND writes. The spec states none for a SUM or SUMSQ reducer in a format that is no output of theirs:
then it is the free value drawn as `fv` (log 19). -/
def rroundValue (fv : Nat) (q : Reducer) (f : Fmt) (sat : Bool) (adj : Int) (index : Bool) : TVal :=
  if (decide (q.kind = .sum) || decide (q.kind = .sumsq)) && !(f.mxOut || decide (f = .int16)) then
    ⟨f, BitVec.ofNat 64 (leNat ((upFrom 0 8).map (Config.freeByte fv)) % 2 ^ fmtBits f)⟩
  else q.rround f sat adj index

def vxRroundOp (fv : Nat) (r : Fin 4) (dst : RoundDst) (f : Fmt) (sat : Bool) (adj : Int) (index : Bool) (lp : Loop)
    (x : SliceSt) (l : LayerRun) : OpOut :=
  let v (y : SliceSt) := rroundValue fv (tget y.reds r.val .zero) f sat adj index
  match dst with
  | .k i => simpleLoop x l .vx lp [] [] (fun y _ => .ok { y with consts := tput y.consts i.val (v y) })
  | .mem d =>
    let g := (v x).fmt
    simpleLoop x l .vx lp [⟨d, true, true⟩] [⟨⟨d, true, true⟩, fmtBytes f, []⟩] (fun y pl => do
      let p := pl.getD 0 ⟨none, 0⟩
      checkFits [(p, fmtBytes g)]
      .ok (y.putOne p g (v y).bits.toNat))

/-- The reducer holds a sum (08 R234). -/
def Reducer.isSum (q : Reducer) : Bool := decide (q.kind = .sum) || decide (q.kind = .sumsq)

def vxRpstoreOp (r : Fin 4) (p q : ScrOperand) (lp : Loop) (x : SliceSt) (l : LayerRun) : OpOut :=
  let red := tget x.reds r.val .zero
  if !red.isSum then .fault x causeRange 0
  else simpleLoop x l .vx lp [⟨p, true, true⟩, ⟨q, true, true⟩] [⟨⟨p, true, true⟩, 8, []⟩, ⟨⟨q, true, true⟩, 16, []⟩] (fun y pl => do
    let pp := pl.getD 0 ⟨none, 0⟩
    let pq := pl.getD 1 ⟨none, 0⟩
    checkFits [(pp, 24), (pq, if red.acc.record.2.isSome then 80 else 0)]
    .ok (storeRecords y pp pq [red.acc] 0 0))

def vxRploadOp (r : Fin 4) (p q : ScrOperand) (n : Nat) (lp : Loop) (x : SliceSt) (l : LayerRun) : OpOut :=
  if !(tget x.reds r.val .zero).isSum then .fault x causeRange 0
  else simpleLoop x l .vx lp [⟨p, false, true⟩, ⟨q, false, true⟩] [⟨⟨p, false, true⟩, 8, []⟩, ⟨⟨q, false, true⟩, 16, []⟩] (fun y pl => do
    let pp := pl.getD 0 ⟨none, 0⟩
    let pq := pl.getD 1 ⟨none, 0⟩
    checkFits [(pp, 24 * n)]
    let rs := loadRecords y pp pq n 0 0
    checkFits [(pq, 80 * (rs.filter (fun t => recordSpills t.1)).length)]
    .ok { y with reds := tmod y.reds r.val .zero (fun q => { q with acc := rs.foldl (fun a t => a.addRecord t.1 t.2) q.acc }) })

/-- Post summaries, `rem` of them (08 R235; 06 R189). -/
def postGo (sumR maxR : Fin 4) (n : Nat) : Nat → Nat → SliceSt → OpOut
  | 0, _, x => .done x n
  | rem + 1, i, x =>
    if 255 ≤ x.sem 15 then .wait (x.modEng .vx (fun g => { g with loopPos := i })) 15 256
    else if x.semReady .vx 14 1 then
      let y := x.setSem 14 (x.sem 14 - 1)
      let y := { y with sumQ := y.sumQ ++ [summaryEntry (tget y.reds sumR.val .zero) (tget y.reds maxR.val .zero)] }
      postGo sumR maxR n rem (i + 1) (y.setSem 15 (y.sem 15 + 1))
    else .wait (x.modEng .vx (fun g => { g with loopPos := i })) 14 1

def vxRpostOp (sumR maxR : Fin 4) (lp : Loop) (x : SliceSt) (l : LayerRun) : OpOut :=
  match x.counts .vx lp with
  | none => .fault x causeRange 0
  | some cs =>
    let pos := (x.eng .vx).loopPos
    let n := cs.foldl (· * ·) 1 - pos
    if !bitAt (l.word 0) 3 then .done x n else postGo sumR maxR n n pos x

/-! ## Tiles (08 R237, R238) -/

def tilePlace (t : Fin 4) : Place := ⟨some t, 0⟩

def vxTldOp (t : Fin 4) (o : ScrOperand) (lp : Loop) (x : SliceSt) (l : LayerRun) : OpOut :=
  simpleLoop x l .vx lp [⟨o, false, true⟩] [⟨⟨o, false, true⟩, 64, []⟩] (fun y pl => do
    let p := pl.getD 0 ⟨none, 0⟩
    checkFits [(p, 1024)]
    .ok (y.wrAt (tilePlace t) (y.rdAt p 1024)))

def vxTstOp (t : Fin 4) (o : ScrOperand) (lp : Loop) (x : SliceSt) (l : LayerRun) : OpOut :=
  simpleLoop x l .vx lp [⟨o, true, true⟩] [⟨⟨o, true, true⟩, 64, []⟩] (fun y pl => do
    let p := pl.getD 0 ⟨none, 0⟩
    checkFits [(p, 1024)]
    .ok (y.wrAt p (y.rdAt (tilePlace t) 1024)))

/-- The bytes of a tile of 16 rows transposed, elements of `n` bytes. -/
def transpose (bs : List Byte) (n : Nat) : List Byte :=
  let c := 64 / n
  (upFrom 0 c).flatMap (fun j => (upFrom 0 16).flatMap (fun i => slice bs ((i * c + j) * n) n))

def vxTtrOp (src dst : Fin 4) (n : Nat) (lp : Loop) (x : SliceSt) (l : LayerRun) : OpOut :=
  simpleLoop x l .vx lp [] [] (fun y _ => .ok (y.wrAt (tilePlace dst) (transpose (y.rdAt (tilePlace src) 1024) n)))

/-- One result of an axis reduction: the reducer of the elements. -/
def reduceList (kind : RKind) (f : Fmt) (es : List Nat) : Reducer :=
  es.foldl (fun q e => q.take kind (fmtIsInt f) (decodeVal f e)) { Reducer.zero with kind := kind }

/-- Elements a row of a tile holds (08 R237): 64 bytes over the element's, packed elements without gaps (07 R200). DEDUCED, log 80. -/
def tileCols (f : Fmt) : Nat := 512 / fmtBits f

def vxTredOp (fv : Nat) (t : Fin 4) (rows : Nat) (axis : Bool) (kind : RKind) (fin fout : Fmt) (d : ScrOperand) (lp : Loop)
    (x : SliceSt) (l : LayerRun) : OpOut :=
  if decide (fin = .fp64) && !l.fp64 then .fault x causeRange 0
  else
    let c := tileCols fin
    let n := if axis then rows else c
    let nb := fmtBytes fout
    simpleLoop x l .vx lp [⟨d, true, true⟩] [⟨⟨d, true, true⟩, nb, []⟩] (fun y pl => do
      let p := pl.getD 0 ⟨none, 0⟩
      checkFits [(p, n * nb)]
      let elem (r k : Nat) : Nat := y.getElem ⟨some t, 64 * r⟩ fin k 1
      .ok (forN n (fun i z =>
        let es := if axis then (upFrom 0 c).map (elem i) else (upFrom 0 rows).map (fun r => elem r i)
        z.putOne { p with addr := p.addr + i * nb } fout (rroundValue (fv + i) (reduceList kind fin es) fout false 0 false).bits.toNat) y))

/-! ## Block-scaled output (08 R239) -/

/-- The largest exponent of an element format (08 Table 8). -/
def emaxOf : Fmt → Int
  | .e2m1 | .e2m3 => 2 | .e3m2 => 4 | .e4m3 => 8 | .e5m2 => 15 | _ => 0

def isSpecial : Val → Bool
  | .fin .. => false
  | _ => true

/-- floor(log2 |v|) of a nonzero finite value. -/
def floorLog2 : Val → Int
  | .fin _ m e => e + bitLen m - 1
  | _ => 0

/-- The scale byte and the elements of one block. -/
def quantize (fe : Fmt) (vs : List Val) : Nat × List Nat :=
  if vs.any isSpecial then (0xFF, vs.map (fun _ => 0))
  else
    let amax := vs.foldl (fun (a v : Val) => a.greater v.magnitude) (Val.fin false 0 0)
    if amax.isZero then (0, vs.map (fun _ => 0))
    else
      let e : Int := max (-127) (min 127 (floorLog2 amax - emaxOf fe))
      ((e + 127).toNat, vs.map (fun (v : Val) => encodeVal fe true (v.mul (.fin false 1 (-e)))))

def vxQblkOp (ox oy od : ScrOperand) (blocks : Nat) (fx fe : Fmt) (lp : Loop) (x : SliceSt) (l : LayerRun) : OpOut :=
  let px : Opd := ⟨ox, false, true⟩
  let py : Opd := ⟨oy, true, true⟩
  let pd : Opd := ⟨od, true, true⟩
  simpleLoop x l .vx lp [px, py, pd] [⟨px, fmtBytes fx, []⟩, ⟨{ pd with o := { od with strides := [] } }, 8, []⟩] (fun y pl => do
    let a := pl.getD 0 ⟨none, 0⟩
    let b := pl.getD 1 ⟨none, 0⟩
    let c := pl.getD 2 ⟨none, 0⟩
    checkFits [(a, extent fx (32 * blocks) 1), (b, blocks), (c, extent fe (32 * blocks) 1)]
    .ok (forN blocks (fun k z =>
      let (sc, es) := quantize fe ((upFrom 0 32).map (fun i => decodeVal fx (z.getElem a fx (32 * k + i) 1)))
      let z := z.wrAt { b with addr := b.addr + k } [BitVec.ofNat 8 sc]
      forN 32 (fun i z => z.putElem c fe (32 * k + i) 1 (es.getD i 0)) z) y))

/-! ## The canonical tree (08 R241 to R243) -/

/-- Height of a tree of length `n`: the least h with 2^h at least n. -/
def treeHeight (n : Nat) : Nat := if n ≤ 1 then 0 else bitLen (n - 1)

/-- Node (h, j) exists in a tree of length `n`. -/
def nodeExists (n h j : Nat) : Bool := decide (j * 2 ^ h < n)

/-- The highest node of a tree of length `n` whose range is `a` to `a + m - 1`: its level and index, sought downward from level
`h`. -/
def nodeOf (n a m : Nat) : Nat → Option (Nat × Nat)
  | 0 => if m = 1 ∧ a < n then some (0, a) else none
  | h + 1 =>
    if a % 2 ^ (h + 1) = 0 ∧ a < n ∧ min (a + 2 ^ (h + 1)) n = a + m then some (h + 1, a / 2 ^ (h + 1)) else nodeOf n a m h

/-- FP64 sum, rounded once. -/
def addF64 (a b : W64) : W64 := (stageRun .add .fp64 (decodeVal .fp64 a.toNat) (decodeVal .fp64 b.toNat) .nan).bits

/-- The next level of a tree: pairs summed, a last one alone copied. -/
def pairUp : List W64 → List W64
  | a :: b :: r => addF64 a b :: pairUp r
  | r => r

/-- The value of a node of level `h` over its elements. -/
def treeValue : Nat → List W64 → W64
  | 0, vs => vs.headD 0
  | h + 1, vs => treeValue h (pairUp vs)

/-- A NaN result is canonical (07 R201). -/
def canonF64 (v : W64) : W64 := (mkTVal .fp64 (decodeVal .fp64 v.toNat)).bits

/-- A tree record (08 Table 9). -/
def treeRecord (v : W64) (h j : Nat) : List Byte := leBytes 16 (v.toNat + fld (j % 2 ^ 32) 64 + fld h 96 + fld 1 102)

/-- The address at which the record of a VX.TSUM passes its storage, or its queue is no queue: known as the operation issues, so that
no entry is taken (06 R177, R184). -/
def tsumRange (pd : Opd) (x : SliceSt) (l : LayerRun) : Option Nat :=
  if pd.queued (l.qmode .vx) then
    (match l.queue pd.o.queue.val with
    | none => some 0
    | some c => if 0x8000 < c.base + c.cap then some 0x8000 else none)
  else
    let p := opdPlace x l .vx [0] pd
    if p.fits 16 then none else some p.addr

def vxTsumOp (ox : ScrOperand) (lp : Loop) (od : ScrOperand) (ra rb : AReg) (x : SliceSt) (l : LayerRun) : OpOut :=
  let n := (x.arI .vx rb).toNat
  let a := (x.arI .vx ra).toNat
  let px : Opd := ⟨ox, false, true⟩
  let pd : Opd := ⟨{ od with strides := [] }, true, true⟩
  match x.counts .vx lp with
  | none => .fault x causeRange 0
  | some cs =>
    match nodeOf n a (cs.foldl (· * ·) 1) (treeHeight n) with
    | none => .fault x causeRange 0
    | some (h, j) =>
      if !l.fp64 then .fault x causeRange 0
      else
        match misaligned x l .vx [⟨pd, 8, []⟩] with
        | some d => .fault x causeAlign (scrDetail d)
        | none => match tsumRange pd x l with
          | some b => .fault x causeRange (scrDetail b)
          | none =>
            match runLoop x l .vx lp [px] [⟨px, 8, []⟩] (x.eng .vx).vals (fun y vs pl _ => do
              let p := pl.getD 0 ⟨none, 0⟩
              checkFits [(p, 8)]
              .ok (y, vs ++ [BitVec.ofNat 64 (y.getElem p .fp64 0 1)])) with
            | .fault y _ c d => .fault y c d
            | .wait y vs k n => .wait (y.modEng .vx (fun g => { g with vals := vs })) k n
            | .done y vs =>
              -- the record is one entry of its own in queue mode
              match takeEntries l .vx [1] [0] [{ pd with o := { pd.o with qlevel := 0 } }] y with
              | .range b => .fault y causeRange (scrDetail b)
              | .wait k n => .wait (y.modEng .vx (fun g => { g with vals := vs, loopPos := cs.foldl (· * ·) 1 })) k n
              | .ok z =>
                .done (release l .vx [1] [0] [pd] (z.wrAt (opdPlace z l .vx [0] pd) (treeRecord (canonF64 (treeValue h vs)) h j))) (iterationsLeft x .vx lp)

/-- The parent two tree records make in a tree of length `n` (08 R243). -/
def treeParent (n : Nat) (r0 r1 : List Byte) : Option (List Byte) :=
  let a := leNat r0
  let b := leNat r1
  let h := bits a 101 96
  let j := bits a 95 64
  if !bitAt a 102 || decide (j % 2 ≠ 0) || !nodeExists n h j || decide (32 ≤ h) then none
  else if bitAt b 102 then
    if bits b 101 96 = h ∧ bits b 95 64 = j + 1 ∧ nodeExists n h (j + 1) then
      some (treeRecord (addF64 (BitVec.ofNat 64 a) (BitVec.ofNat 64 b)) (h + 1) (j / 2))
    else none
  else if nodeExists n h (j + 1) then none
  else some (treeRecord (canonF64 (BitVec.ofNat 64 a)) (h + 1) (j / 2))

def vxTaddOp (op od : ScrOperand) (rb : AReg) (lp : Loop) (x : SliceSt) (l : LayerRun) : OpOut :=
  let n := (x.arI .vx rb).toNat
  if !l.fp64 then .fault x causeRange 0
  else
    simpleLoop x l .vx lp [⟨op, false, true⟩, ⟨od, true, true⟩] [⟨⟨op, false, true⟩, 8, []⟩, ⟨⟨od, true, true⟩, 8, []⟩] (fun y pl => do
      let p := pl.getD 0 ⟨none, 0⟩
      let d := pl.getD 1 ⟨none, 0⟩
      checkFits [(p, 32), (d, 16)]
      match treeParent n (y.rdAt p 16) (y.rdAt { p with addr := p.addr + 16 } 16) with
      | some r => .ok (y.wrAt d r)
      | none => .error (causeRange, scrDetail p.addr))

/-! ## Meanings -/

def execVxRun (sl : SliceId) (m : VxRun) (parity : Option Storage) (s : State) : Result :=
  if m.ok then .next (s.runOpBy sl .vx (runCost m ((s.slice sl).countOf .vx m.n)) (withParity parity (vxRunOp m))) else .refused (.noEncoding "VX_RUN")

def execVxKset (sl : SliceId) (k : Fin 4) (imm : W32) (fmt : Fmt) (lp : Loop) (s : State) : Result :=
  if (Instr.vxKset sl k imm fmt lp).wf then .next (s.runOp sl .vx (vxKsetOp k imm fmt lp)) else .refused (.noEncoding "VX_KSET")

def execVxKld (sl : SliceId) (k : Fin 4) (src : ScrOperand) (fmt : Fmt) (lp : Loop) (s : State) (parity : Option Storage := none) : Result :=
  if (Instr.vxKld sl k src fmt lp parity).wf then .next (s.runOp sl .vx (withParity parity (vxKldOp k src fmt lp))) else .refused (.noEncoding "VX_KLD")

def execVxRclr (sl : SliceId) (mask : BitVec 4) (lp : Loop) (s : State) : Result :=
  if lp.ok 4 then .next (s.runOp sl .vx (vxRclrOp mask lp)) else .refused (.noEncoding "VX_RCLR")

/-- Each VX.RROUND draws one free value, which it uses only where the spec states no result. -/
def execVxRround (sl : SliceId) (r : Fin 4) (dst : RoundDst) (fmt : Fmt) (sat : Bool) (adj : Int) (index : Bool) (lp : Loop) (s : State) : Result :=
  if (Instr.vxRround sl r dst fmt sat adj index lp).wf && (match dst with | .mem d => d.ok lp | .k _ => true) then
    .next ({ s with free := s.free + 1 }.runOp sl .vx (vxRroundOp s.free r dst fmt sat adj index lp))
  else .refused (.noEncoding "VX_RROUND")

def execVxRpstore (sl : SliceId) (r : Fin 4) (p : ScrOperand) (x : ScrOperand) (lp : Loop) (s : State) : Result :=
  if (Instr.vxRpstore sl r p x lp).wf then .next (s.runOp sl .vx (vxRpstoreOp r p x lp)) else .refused (.noEncoding "VX_RPSTORE")

def execVxRpload (sl : SliceId) (r : Fin 4) (p : ScrOperand) (x : ScrOperand) (count : Nat) (lp : Loop) (s : State) (parity : Option Storage := none) : Result :=
  if (Instr.vxRpload sl r p x count lp parity).wf then .next (s.runOp sl .vx (withParity parity (vxRploadOp r p x count lp))) else .refused (.noEncoding "VX_RPLOAD")

def execVxRpost (sl : SliceId) (sumR : Fin 4) (maxR : Fin 4) (lp : Loop) (s : State) : Result :=
  if lp.ok 4 then .next (s.runOp sl .vx (vxRpostOp sumR maxR lp)) else .refused (.noEncoding "VX_RPOST")

def execVxTld (sl : SliceId) (tile : Fin 4) (a : ScrOperand) (lp : Loop) (s : State) (parity : Option Storage := none) : Result :=
  if (Instr.vxTld sl tile a lp parity).wf then .next (s.runOp sl .vx (withParity parity (vxTldOp tile a lp))) else .refused (.noEncoding "VX_TLD")

def execVxTst (sl : SliceId) (tile : Fin 4) (a : ScrOperand) (lp : Loop) (s : State) (parity : Option Storage := none) : Result :=
  if (Instr.vxTst sl tile a lp parity).wf then .next (s.runOp sl .vx (withParity parity (vxTstOp tile a lp))) else .refused (.noEncoding "VX_TST")

def execVxTtr (sl : SliceId) (src : Fin 4) (dst : Fin 4) (esize : Nat) (lp : Loop) (s : State) (parity : Option Storage := none) : Result :=
  if (Instr.vxTtr sl src dst esize lp parity).wf then .next (s.runOp sl .vx (withParity parity (vxTtrOp src dst esize lp))) else .refused (.noEncoding "VX_TTR")

/-- Each VX.TRED draws a free value for each result, used only where the spec states none. -/
def execVxTred (sl : SliceId) (tile : Fin 4) (rows : Nat) (axis : Bool) (kind : RKind) (fin : Fmt) (fout : Fmt) (d : ScrOperand) (lp : Loop) (s : State) (parity : Option Storage := none) : Result :=
  if (Instr.vxTred sl tile rows axis kind fin fout d lp parity).wf then .next ({ s with free := s.free + 128 }.runOp sl .vx (withParity parity (vxTredOp s.free tile rows axis kind fin fout d lp)))
  else .refused (.noEncoding "VX_TRED")

def execVxQblk (sl : SliceId) (x : ScrOperand) (y : ScrOperand) (d : ScrOperand) (blocks : Nat) (fx : Fmt) (fe : Fmt) (lp : Loop) (s : State) (parity : Option Storage := none) : Result :=
  if (Instr.vxQblk sl x y d blocks fx fe lp parity).wf then .next (s.runOp sl .vx (withParity parity (vxQblkOp x y d blocks fx fe lp)))
  else .refused (.noEncoding "VX_QBLK")

def execVxTsum (sl : SliceId) (x : ScrOperand) (lp : Loop) (d : ScrOperand) (a : AReg) (b : AReg) (s : State) (parity : Option Storage := none) : Result :=
  if (Instr.vxTsum sl x lp d a b parity).wf then .next (s.runOp sl .vx (withParity parity (vxTsumOp x lp d a b))) else .refused (.noEncoding "VX_TSUM")

def execVxTadd (sl : SliceId) (p : ScrOperand) (d : ScrOperand) (b : AReg) (lp : Loop) (s : State) (parity : Option Storage := none) : Result :=
  if (Instr.vxTadd sl p d b lp parity).wf then .next (s.runOp sl .vx (withParity parity (vxTaddOp p d b lp))) else .refused (.noEncoding "VX_TADD")

end Sys2Proof.Machine
end

