-- ==== Sys2Proof/Machine/Descriptor.lean ====
section
/-! DEFINITION. Tensor records and descriptors (09 R246 to R268): their fields, their checks in the order of Table 10, and the points
and items they move. -/

namespace Sys2Proof.Machine

/-! ## Records (09 R246 to R249) -/

/-- A tensor record: base, space, access width W, extents and strides, innermost dimension first. -/
structure TRec where
  base : Nat
  scr : Bool
  w : Nat
  dims : List (Nat × Int)
deriving DecidableEq, Repr

/-- Access width of a code; none where it is reserved. -/
def widthOf : Nat → Option Nat
  | 0 => some 2 | 1 => some 4 | 2 => some 8 | 3 => some 16 | 4 => some 64 | _ => none

def wordAt (bs : List Byte) (n : Nat) : Nat := leAt bs (8 * n) 8

/-- The tensor record at word `k`; none where a field breaks Table 1 or 2 of 09. -/
def parseRec (bs : List Byte) (k : Nat) : Option TRec := do
  let b := wordAt bs k
  let w ← widthOf (bits b 43 41)
  let n := bits b 46 44
  let ds := (upFrom 0 6).map (fun i => wordAt bs (k + 1 + i))
  let scr := bitAt b 40
  if n = 0 ∨ 6 < n ∨ bits b 63 47 ≠ 0 ∨ (scr ∧ bits b 39 15 ≠ 0) ∨ (ds.drop n).any (fun d => decide (d ≠ 0))
    ∨ (ds.take n).any (fun d => decide (bits d 23 0 = 0)) then none
  else some ⟨bits b 39 0, scr, w, (ds.take n).map (fun d => (bits d 23 0, sext (bits d 63 24) 40))⟩

def TRec.points (t : TRec) : Nat := (t.dims.map (·.1)).foldl (· * ·) 1

/-- Address of the point at `ix`, its base moved by `d`. -/
def TRec.addr (t : TRec) (d : Int) (ix : List Nat) : Int := t.base + d + strideSum ix (t.dims.map (·.2))

/-- Coordinates of the `n`-th point in canonical order. -/
def TRec.coords (t : TRec) (n : Nat) : List Nat := idxVec (t.dims.map (·.1)) n

/-- Base and strides are multiples of W (09 R248). -/
def TRec.aligned (t : TRec) : Bool := decide (t.base % t.w = 0) && t.dims.all (fun d => decide (d.2 % (t.w : Int) = 0))

/-- A byte interval in data space or in one slice's scratchpad (09 R249). -/
structure Foot where
  scr : Bool
  lo : Int
  hi : Int
deriving DecidableEq, Repr

def TRec.foot (t : TRec) (d : Int) : Foot :=
  let ends := t.dims.map (fun e => ((e.1 : Int) - 1) * e.2)
  ⟨t.scr, t.base + d + (ends.map (fun e => min 0 e)).foldl (· + ·) 0, t.base + d + (ends.map (fun e => max 0 e)).foldl (· + ·) 0 + t.w - 1⟩

def Foot.inRange (f : Foot) : Bool := decide (0 ≤ f.lo ∧ f.hi ≤ (if f.scr then 0x7FFF else 2 ^ 40 - 1))
def Foot.meets (a b : Foot) : Bool := decide (a.scr = b.scr ∧ a.lo ≤ b.hi ∧ b.lo ≤ a.hi)

/-! ## Descriptors (09 R250, Tables 3 to 7) -/

/-- A window word (09 Table 5). -/
structure Win where
  perm : Nat
  pad : Bool
  origin : Int
  step : Int
deriving DecidableEq, Repr

/-- COPY (09 R252 to R256). -/
structure CopyD where
  staged : Bool
  writePad : Bool
  stageAddr : Nat
  stageBlocks : Nat
  padValue : Nat
  ordStep : Int
  src : TRec
  wins : List Win
  dst : TRec
deriving DecidableEq, Repr

/-- Reduce codes (09 Table 6). -/
inductive Reduce where
  | none | sum | wsum
deriving DecidableEq, Repr

/-- GATHER (09 Table 7). -/
structure GatherD where
  writePad : Bool
  balance : Bool
  tableBase : Nat
  rows : Nat
  rowStride : Nat
  spread : Nat
  spreadStride : Nat
  elems : Nat
  fin : Fmt
  fout : Fmt
  reduce : Reduce
  w : Nat
  part : Bool
  idxBase : Nat
  idxScr : Bool
  bags : Nat
  bagLen : Nat
  split : Nat
  outBase : Nat
  outScr : Bool
  outStride : Nat
  wtBase : Nat
  wtScr : Bool
  stageAddr : Nat
deriving DecidableEq, Repr

inductive Desc where
  | copy (d : CopyD)
  | fill (v : Nat) (dst : TRec)
  | gather (d : GatherD)
  | digest (src : TRec)
deriving DecidableEq, Repr

def CopyD.perSlice (d : CopyD) : Bool := d.src.scr || d.dst.scr

def parseCopy (bs : List Byte) : Option CopyD := do
  let h := wordAt bs 0
  let src ← parseRec bs 3
  let dst ← parseRec bs 16
  let n := dst.dims.length
  let ws := (upFrom 0 6).map (fun i => wordAt bs (10 + i))
  let wins := (ws.take n).map (fun w => (⟨bits w 2 0, bitAt w 3, sext (bits w 31 8) 24, sext (bits w 63 32) 32⟩ : Win))
  let staged := bitAt h 0
  let sb := bits h 33 24
  let step := sext (bits (wordAt bs 2) 39 0) 40
  let shared := !(src.scr || dst.scr)
  if bs.length ≠ 184 ∨ bits h 7 2 ≠ 0 ∨ bitAt h 23 ∨ bits h 63 34 ≠ 0 ∨ bits (wordAt bs 2) 63 40 ≠ 0
    ∨ (staged ∧ (sb = 0 ∨ 512 < sb)) ∨ (!staged ∧ sb ≠ 0)
    ∨ src.w ≠ dst.w ∨ src.dims.length ≠ n ∨ (ws.take n).any (fun w => decide (bits w 7 4 ≠ 0)) ∨ (ws.drop n).any (fun w => decide (w ≠ 0))
    ∨ !((upFrom 0 n).all (fun k => wins.any (fun w => w.perm = k)))
    ∨ (shared ∧ (step ≠ 0 ∨ wins.any (fun w => decide (w.step ≠ 0)))) then none
  else some ⟨staged, bitAt h 1, bits h 22 8, sb, wordAt bs 1, step, src, wins, dst⟩

/-- Formats of Table 8 of 09. -/
def gatherFmtOk (r : Reduce) (fi fo : Fmt) : Bool :=
  let wide (f : Fmt) : Bool := f.fp8 || f.half || decide (f = .fp32)
  let ints (f : Fmt) : Bool := decide (f = .int8 ∨ f = .int16 ∨ f = .int32)
  match r with
  | .none => (wide fi || ints fi || decide (fi = .fp64)) && decide (fo = fi)
  | .sum => if fi = .fp64 then decide (fo = .fp64) else (wide fi || ints fi) && (wide fo || decide (fo = .int8 ∨ fo = .int32))
  | .wsum => wide fi && (wide fo || decide (fo = .int8 ∨ fo = .int32))

def GatherD.rowBytes (d : GatherD) : Nat := d.elems * fmtBytes d.fin
def GatherD.fp64 (d : GatherD) : Bool := decide (d.fin = .fp64)
def GatherD.chunkLen (d : GatherD) : Nat := if d.fp64 then 16 else 32
def GatherD.chunks (d : GatherD) : Nat := (d.elems + d.chunkLen - 1) / d.chunkLen
/-- Partial slots are written (09 R264). -/
def GatherD.slots (d : GatherD) : Bool := d.part || decide (1 < d.split)
def GatherD.slotBytes (d : GatherD) : Nat := if d.fp64 then 256 else 3328

def GatherD.items (d : GatherD) : Nat :=
  match d.reduce with | .none => d.bags * d.bagLen | _ => d.bags * d.split * d.chunks

/-- The least out_stride (09 R264). -/
def GatherD.minStride (d : GatherD) : Nat :=
  match d.reduce with
  | .none => d.rowBytes
  | _ => if d.slots then d.chunks * d.slotBytes else d.elems * fmtBytes d.fout

def parseGather (bs : List Byte) : Option GatherD := do
  let h := wordAt bs 0
  let w (n : Nat) := wordAt bs n
  let red ← (match bits (w 4) 23 22 with | 0 => some Reduce.none | 1 => some .sum | 2 => some .wsum | _ => none)
  let fi ← fmtOf (bits (w 4) 17 14)
  let fo ← fmtOf (bits (w 4) 21 18)
  let width ← widthOf (bits (w 4) 26 24)
  let d : GatherD := ⟨bitAt h 1, bitAt h 2, bits (w 1) 39 0, bits (w 1) 63 40, bits (w 2) 39 0, bits (w 2) 42 40, bits (w 3) 39 0,
    bits (w 4) 13 0, fi, fo, red, width, bitAt (w 4) 27, bits (w 5) 39 0, bitAt (w 5) 40, bits (w 6) 23 0, bits (w 6) 39 24, bits (w 6) 44 40,
    bits (w 7) 39 0, bitAt (w 7) 40, bits (w 8) 31 0, bits (w 9) 39 0, bitAt (w 9) 40, bits h 22 8⟩
  if bs.length ≠ 80 ∨ bitAt h 0 ∨ bits h 7 3 ≠ 0 ∨ bits h 63 23 ≠ 0 ∨ bits (w 2) 63 43 ≠ 0 ∨ bits (w 3) 63 40 ≠ 0 ∨ bits (w 4) 63 28 ≠ 0
    ∨ bits (w 5) 63 41 ≠ 0 ∨ bits (w 6) 63 45 ≠ 0 ∨ bits (w 7) 63 41 ≠ 0 ∨ bits (w 8) 63 32 ≠ 0 ∨ bits (w 9) 63 41 ≠ 0
    ∨ (red ≠ .wsum ∧ w 9 ≠ 0) ∨ d.rows = 0 ∨ d.elems = 0 ∨ 8192 < d.elems ∨ d.bags = 0 ∨ d.bagLen = 0 ∨ d.split = 0 ∨ 16 < d.split ∨ d.bagLen < d.split
    ∨ (red = .none ∧ (d.split ≠ 1 ∨ d.part)) ∨ (d.balance ∧ d.outScr) ∨ !gatherFmtOk red fi fo ∨ d.outStride < d.minStride then none
  else some d

/-- A descriptor of a command type; none is ADMIT_MALFORMED. -/
def parseDesc (t : CmdType) (bs : List Byte) : Option Desc :=
  match t with
  | .copy => (parseCopy bs).map .copy
  | .fill => if bs.length ≠ 72 ∨ wordAt bs 0 ≠ 0 then none else (parseRec bs 2).map (.fill (wordAt bs 1))
  | .gather => (parseGather bs).map .gather
  | .digest => if bs.length ≠ 64 ∨ wordAt bs 0 ≠ 0 then none else (parseRec bs 1).map .digest
  | _ => none

/-! ## Footprints -/

/-- A performing slice with the number that takes the place of the ordinal. -/
structure Perf where
  sl : SliceId
  ord : Int
deriving DecidableEq, Repr

/-- Where a GATHER's row `i` lies (09 R260). -/
def GatherD.rowAddr (d : GatherD) (i : Nat) : Nat :=
  d.tableBase + i % 2 ^ d.spread * d.spreadStride + i / 2 ^ d.spread * d.rowStride

def GatherD.tableFoot (d : GatherD) : Foot :=
  let q := (d.rows - 1) / 2 ^ d.spread
  let last := d.rowAddr (d.rows - 1)
  let full := if 0 < q then d.rowAddr (q * 2 ^ d.spread - 1) else last
  ⟨false, d.tableBase, max last full + d.rowBytes - 1⟩

def GatherD.outRows (d : GatherD) : Nat :=
  match d.reduce with
  | .none => d.bags * d.bagLen
  | _ => if d.slots then d.bags * d.split else d.bags

/-- Footprints a performer reads. -/
def Desc.reads (d : Desc) (_ : Perf) : List Foot :=
  match d with
  | .copy d => [d.src.foot 0]
  | .fill .. => []
  | .digest t => [t.foot 0]
  | .gather d => [d.tableFoot, ⟨d.idxScr, d.idxBase, d.idxBase + 4 * (d.bags * d.bagLen) - 1⟩]
      ++ (if d.reduce = .wsum then [⟨d.wtScr, d.wtBase, d.wtBase + 4 * (d.bags * d.bagLen) - 1⟩] else [])

/-- Footprints a performer writes. -/
def Desc.writes (d : Desc) (p : Perf) : List Foot :=
  match d with
  | .copy d => [d.dst.foot (if d.perSlice then p.ord * d.ordStep else 0)]
  | .fill _ t => [t.foot 0]
  | .digest _ => []
  | .gather d => [⟨d.outScr, d.outBase, d.outBase + d.outRows * d.outStride - 1⟩]

/-- The global banks, channel x 128 + bank, that a data footprint touches; what lies outside the data range is no bank's. -/
def Foot.banks (f : Foot) : List Nat :=
  if f.hi < 0 ∨ 2 ^ 40 ≤ f.lo then []
  else
    let a := (max 0 f.lo / 2 ^ 24).toNat
    let b := (min f.hi (2 ^ 40 - 1) / 2 ^ 24).toNat
    upFrom a (b + 1 - a)

/-- A data footprint touches a host-owned block (04 R119), window by window. -/
def State.footHostOwned (s : State) (f : Foot) : Bool :=
  !f.scr && s.port.wins.any (fun e =>
    let v := e.2.toNat
    bitAt v 1 && (if bitAt v 0 then
        decide ((2 : Int) ^ 24 ≤ f.hi - f.lo + 1) ||
          (let lo := f.lo % 2 ^ 24
           let hi := lo + (f.hi - f.lo)
           let a : Int := e.1 * 2 ^ 14
           let b : Int := a + 2 ^ 14 - 1
           decide ((lo ≤ b ∧ a ≤ hi) ∨ (lo ≤ b + 2 ^ 24 ∧ a + 2 ^ 24 ≤ hi)))
      else decide (f.lo ≤ (e.1 : Int) * 2 ^ 30 + 2 ^ 30 - 1 ∧ (e.1 : Int) * 2 ^ 30 ≤ f.hi)))

/-- A footprint names an offline channel's data (02 R64). -/
def State.footOffline (s : State) (f : Foot) : Bool :=
  !f.scr && f.inRange && s.chans.any (fun e => e.2.offline &&
    decide (f.lo ≤ (e.1 : Int) * 2 ^ 31 + 2 ^ 31 - 1 ∧ (e.1 : Int) * 2 ^ 31 ≤ f.hi))

/-! ## Strict slots (09 R275, R277) -/

def fabValid (len : Nat) : Bool := decide (len % 16 = 0 ∧ 0 < len ∧ 5760 % len = 0 ∧ len ≤ 256)
def swValid (len : Nat) : Bool := decide (len % 4 = 0 ∧ 0 < len ∧ 7680 % len = 0 ∧ len ≤ 64)

/-- CH_FAB_SLOT[i]. -/
def Channel.fabSlot (ch : Channel) (i : Nat) : Nat := (tget ch.fabSlots i 0xFFFF#32).toNat

/-- A fabric slot of the frame names the pair; indexes 0 modulo 16 are the host's. -/
def Channel.hasFab (ch : Channel) (src dst : Nat) : Bool :=
  (upFrom 0 ch.fabLength).any (fun i => decide (i % 16 ≠ 0 ∧ bits (ch.fabSlot i) 7 0 = src ∧ bits (ch.fabSlot i) 15 8 = dst))

/-- A switch slot at output port `p` names source channel `c`; indexes 0 modulo 4 are the host's. -/
def State.hasSw (s : State) (p c : Nat) : Bool :=
  (upFrom 0 s.port.swLength).any (fun i =>
    let v := (tget s.port.swSlots (64 * p + i) 0).toNat
    decide (i % 4 ≠ 0 ∧ bits v 8 0 = c) && bitAt v 9)

/-- The slots between global banks exist. -/
def State.pairOk (s : State) (a b : Nat) : Bool :=
  let ca := a / 128
  let cb := b / 128
  if a = b then true
  else if ca = cb then (s.chan ca).hasFab (a % 128) (b % 128)
  else (s.chan ca).hasFab (a % 128) 128 && s.hasSw cb ca && (s.chan cb).hasFab 128 (b % 128)

/-- The slots from a global bank to the digest engine of channel `c`. -/
def State.digestOk (s : State) (a c : Nat) : Bool :=
  (s.chan (a / 128)).hasFab (a % 128) 128 && (decide (a / 128 = c) || s.hasSw c (a / 128))

/-- Global banks of an end: of a data footprint, or the bank of the performing slice. -/
def endBanks (p : Perf) (f : Foot) : List Nat := if f.scr then [slChan p.sl * 128 + slBank p.sl] else f.banks

/-- The digest engines that may hash a string over these global banks: those of the channels it touches (11 R321). DEDUCED, log 84. -/
def enginesOf (banks : List Nat) : List Nat := (banks.map (· / 128)).eraseDups

/-- Every source end is paired with every destination end: a bank, or the digest engine of a channel (R277). -/
def State.endsOk (s : State) (srcs dsts engines : List Nat) : Bool :=
  srcs.all (fun a => dsts.all (fun b => s.pairOk a b) && engines.all (fun c => s.digestOk a c))

/-- Every transfer the ends of a command can join has its slots: those of its descriptor for its performers, and of the tensors `ts` of its
provenance list, which are hashed. -/
def State.slotsOk (s : State) (d : Desc) (ps : List Perf) (ts : List TRec) : Bool :=
  let reads := (ps.flatMap (fun p => (d.reads p).flatMap (endBanks p))).eraseDups
  let given := (ts.filter (fun t => !t.scr)).flatMap (fun t => (t.foot 0).banks)
  let hashed := match d with | .digest _ => reads | _ => given
  s.endsOk (reads ++ given) (ps.flatMap (fun p => (d.writes p).flatMap (endBanks p))).eraseDups (enginesOf hashed)

/-! ## Checks (09 R271, Table 10) -/

/-- An identity copy (09 R255). -/
def CopyD.identity (d : CopyD) : Bool :=
  (upFrom 0 d.wins.length).all (fun k => match d.wins[k]? with | some w => decide (w.perm = k ∧ w.origin = 0 ∧ w.step = 0) | none => true)
    && decide (d.src.dims = d.dst.dims)

/-- Points of ordinal `o` of `n` when `total` points divide among them (09 R254): first, and how many. -/
def share (o n total : Nat) : Nat × Nat := (o * total / n, (o + 1) * total / n - o * total / n)

/-- The copy's tensors overlap for a performer. -/
def CopyD.overlaps (d : CopyD) (p : Perf) : Bool := (d.src.foot 0).meets (d.dst.foot (if d.perSlice then p.ord * d.ordStep else 0))

def CopyD.stageFoot (d : CopyD) : Foot := ⟨true, d.stageAddr, d.stageAddr + 64 * d.stageBlocks - 1⟩

/-- Parts of an FP64 SUM's bags are nodes of the canonical tree (09 R265). -/
def GatherD.partsOk (d : GatherD) : Bool :=
  !(d.fp64 && decide (d.reduce = .sum)) || decide (d.split ≤ 1) ||
    (upFrom 0 d.split).all (fun q => let (a, m) := share q d.split d.bagLen; (nodeOf d.bagLen a m (treeHeight d.bagLen)).isSome)

def Desc.alignedOk : Desc → Bool
  | .copy d => d.src.aligned && d.dst.aligned && decide (d.stageAddr % 64 = 0) && (!d.perSlice || decide (d.ordStep % (d.dst.w : Int) = 0))
  | .fill _ t => t.aligned
  | .digest t => t.aligned
  | .gather d =>
    let m (a n : Nat) : Bool := decide (a % n = 0)
    m d.rowBytes d.w && m d.tableBase d.w && m d.rowStride d.w && m d.spreadStride d.w && m d.idxBase 4
      && (!decide (d.reduce = .wsum) || m d.wtBase 4) && m d.stageAddr 64
      && (let n := if d.reduce = .none then d.w else if d.slots then 16 else fmtBytes d.fout; m d.outBase n && m d.outStride n)

def Desc.tooMany : Desc → Bool
  | .copy d => decide (2 ^ 32 < d.src.points ∨ 2 ^ 32 < d.dst.points)
  | .fill _ t => decide (2 ^ 32 < t.points)
  | .digest t => decide (2 ^ 32 < t.points)
  | .gather d => decide (2 ^ 32 < d.items)

/-- Causes of Table 10 that a well-formed descriptor raises for its performers, code by rule; `ts` are the tensors of the command's provenance
list. -/
def State.descCauses (s : State) (strict balanceEn : Bool) (ps : List Perf) (ts : List TRec) (d : Desc) : List Nat :=
  let reads := ps.flatMap d.reads
  let writes := ps.flatMap d.writes
  let when (b : Bool) (k : Nat) : List Nat := if b then [k] else []
  let inr := (reads ++ writes).all Foot.inRange
  when ((match d with | .gather g => g.balance && !balanceEn | _ => false) || (strict && !s.slotsOk d ps ts)) 5
    ++ when (!inr || (reads ++ writes).any s.footOffline || d.tooMany
        || (match d with
          | .copy k => k.staged && decide (0x8000 < k.stageAddr + 64 * k.stageBlocks)
          | .digest t => t.scr
          | _ => false)) 6
    ++ when (match d with | .gather g => !s.fuses.fp64 && g.fp64 && decide (g.reduce = .sum) | _ => false) 8
    ++ when (!d.alignedOk) 9
    ++ when (writes.any s.footHostOwned) 10
    ++ when (match d with
        | .copy k =>
          if k.staged then
            decide (64 * k.stageBlocks < k.src.w * (if k.perSlice || (k.identity && k.overlaps ⟨0, 0⟩) then k.dst.points else (k.dst.points + ps.length - 1) / max 1 ps.length))
              || (reads ++ writes).any (fun f => f.meets k.stageFoot)
          else !k.identity && ps.any k.overlaps
        | _ => false) 11
    ++ when (match d with | .gather g => !g.partsOk | _ => false) 12

/-! ## Moving (09 R251 to R258) -/

/-- Why a movement stops: cause, detail, the block address concerned and the source code of CH_CHK_LAST. -/
structure MoveErr where
  cause : Nat
  detail : Nat
  addr : Nat
  src : Nat
deriving DecidableEq, Repr

/-- Who performs and who is logged as the writer. -/
structure Mover where
  p : Perf
  who : Writer
  tag : W32

/-- Pieces of `n` bytes from `a` that each lie within one block. -/
def pieces : Nat → Nat → Nat → List (Nat × Nat)
  | 0, _, _ => []
  | k + 1, a, n => if n = 0 then [] else let m := min n (64 - a % 64); (a, m) :: pieces k (a + m) (n - m)

def splitBlocks (a n : Nat) : List (Nat × Nat) := pieces (n / 64 + 2) a n

/-- Read `n` bytes of data or of the performer's scratchpad. -/
def State.moveRead (s : State) (m : Mover) (scr : Bool) (a n : Nat) : Except MoveErr (List Byte) :=
  if scr then .ok (rdN (s.slice m.p.sl).scratch a n)
  else (splitBlocks a n).foldlM (fun acc e => match s.cmdRead e.1 e.2 with
    | .ok bs => .ok (acc ++ bs)
    | .error (c, d) => .error ⟨c, d, e.1, 1⟩) []

/-- Writes in order merged into runs whose addresses follow one another (09 R272). -/
def runsOf : List (Nat × List Byte) → List (Nat × List Byte)
  | [] => []
  | (a, bs) :: r => match runsOf r with
    | (b, cs) :: q => if a + bs.length = b then (a, bs ++ cs) :: q else (a, bs) :: (b, cs) :: q
    | [] => [(a, bs)]

/-- Perform writes in order; a failing one stops the rest, and leaves those before it. -/
def State.moveWrite (s : State) (m : Mover) (scr : Bool) (ws : List (Nat × List Byte)) : State × Option MoveErr :=
  if scr then (s.modSlice m.p.sl (fun x => { x with scratch := ws.foldl (fun t e => wrL t e.1 e.2) x.scratch }), none)
  else ((runsOf ws).flatMap (fun r => (splitBlocks r.1 r.2.length).map (fun e => (e.1, Sys2Proof.Machine.slice r.2 (e.1 - r.1) e.2)))).foldl
    (fun (t : State × Option MoveErr) e => match t.2 with
      | some _ => t
      | none => match t.1.cmdWrite e.1 e.2 (decide (e.2.length = 64)) m.who with
        | .ok s => (s, none)
        | .error (c, d) => (t.1, some ⟨c, d, e.1, 4⟩)) (s, none)

/-- A pad or fill value over W bytes (09 R251). -/
def fillBytes (v w : Nat) : List Byte := if w ≤ 8 then leBytes w v else (upFrom 0 (w / 8)).flatMap (fun _ => leBytes 8 v)

/-- Destination and source of a point: none a pad point, and whether it is written at all. -/
def CopyD.point (d : CopyD) (p : Perf) (n : Nat) : Nat × Option Nat :=
  let ix := d.dst.coords n
  let dst := (d.dst.addr (if d.perSlice then p.ord * d.ordStep else 0) ix).toNat
  let raw (k : Nat) : Int := match d.wins[k]? with
    | some w => (ix.getD k 0 : Int) + w.origin + p.ord * w.step
    | none => 0
  let dimOf (j : Nat) : Option Nat := (upFrom 0 d.wins.length).find? (fun k => match d.wins[k]? with | some w => w.perm = j | none => false)
  -- each source coordinate, none where PAD puts it outside
  let cs := (upFrom 0 d.src.dims.length).map (fun j =>
    let ext := (d.src.dims.getD j (1, 0)).1
    match dimOf j with
    | none => some 0
    | some k =>
      let v := raw k
      if 0 ≤ v ∧ v < ext then some v.toNat
      else if (match d.wins[k]? with | some w => w.pad | none => false) then none
      else some (if v < 0 then 0 else ext - 1))
  (dst, if cs.all Option.isSome then some (d.src.addr 0 (cs.map (·.getD 0))).toNat else none)

/-- Read points `first` to `first + n - 1` of a copy: the writes they make, in canonical order. -/
def State.copyRead (s : State) (m : Mover) (d : CopyD) (first n : Nat) : Except MoveErr (List (Nat × List Byte)) :=
  (upFrom first n).foldlM (fun acc k =>
    match d.point m.p k with
    | (a, some b) => (s.moveRead m d.src.scr b d.src.w).map (fun bs => acc ++ [(a, bs)])
    | (a, none) => .ok (if d.writePad then acc ++ [(a, fillBytes d.padValue d.dst.w)] else acc)) []

/-- The points ordinal `o` of `n` performs; all are the lowest's where the identity's own destinations overlap. DEDUCED, log 84. -/
def CopyD.share (d : CopyD) (o n : Nat) : Nat × Nat :=
  if d.perSlice then (0, d.dst.points)
  else if d.identity && d.overlaps ⟨0, 0⟩ then (if o = 0 then (0, d.dst.points) else (0, 0))
  else Sys2Proof.Machine.share o n d.dst.points

/-- The writes of a FILL's share. -/
def fillWrites (v : Nat) (t : TRec) (first n : Nat) : List (Nat × List Byte) :=
  (upFrom first n).map (fun k => ((t.addr 0 (t.coords k)).toNat, fillBytes v t.w))

/-- The bytes left in a staging area are undefined (09 R256): free. -/
def State.scrubStage (s : State) (sl : SliceId) (d : CopyD) : State :=
  { s with free := s.free + 1 }.modSlice sl (fun x => { x with
    scratch := wrL x.scratch d.stageAddr ((upFrom 0 (64 * d.stageBlocks)).map (Config.stagingByte s.free)) })

/-! ## GATHER (09 R260 to R267) -/

/-- Index `k` of bag `b`: none for a padding index, else clamped. -/
def State.gatherIndex (s : State) (m : Mover) (d : GatherD) (b k : Nat) : Except MoveErr (Option Nat) :=
  (s.moveRead m d.idxScr (d.idxBase + 4 * (b * d.bagLen + k)) 4).map (fun bs =>
    let i := leNat bs
    if i = 0xFFFFFFFF then none else some (min i (d.rows - 1)))

/-- Elements `lo` to `lo + n - 1` of a row, as bits. -/
def State.rowElems (s : State) (m : Mover) (d : GatherD) (i lo n : Nat) : Except MoveErr (List Nat) :=
  let fb := fmtBytes d.fin
  (s.moveRead m false (d.rowAddr i + lo * fb) (n * fb)).map (fun bs => (upFrom 0 n).map (fun e => leAt bs (e * fb) fb))

/-- The weight of index `k` of bag `b`; 1 for SUM. -/
def State.gatherWeight (s : State) (m : Mover) (d : GatherD) (b k : Nat) : Except MoveErr Val :=
  if d.reduce = .wsum then (s.moveRead m d.wtScr (d.wtBase + 4 * (b * d.bagLen + k)) 4).map (fun bs => decodeVal .fp32 (leNat bs))
  else .ok (.fin false 1 0)

/-- Add the rows of index positions `first` to `first + n - 1` of a bag into accumulators, elements `lo` on. -/
def State.sumRows (s : State) (m : Mover) (d : GatherD) (b first n lo cnt : Nat) : Except MoveErr (List Acc) :=
  (upFrom first n).foldlM (fun accs k => do
    match ← s.gatherIndex m d b k with
    | none => .ok accs
    | some i =>
      let w ← s.gatherWeight m d b k
      let es ← s.rowElems m d i lo cnt
      .ok ((accs.zip es).map (fun e => e.1.addVal (w.mul (decodeVal d.fin e.2))))) (List.replicate cnt Acc.zero)

/-- The columns of FP64 elements of index positions of a bag, a padding index entering as +0. -/
def State.columns64 (s : State) (m : Mover) (d : GatherD) (b first n lo cnt : Nat) : Except MoveErr (List (List W64)) :=
  (upFrom first n).foldlM (fun cols k => do
    let es ← (match ← s.gatherIndex m d b k with
      | none => Except.ok (List.replicate cnt 0)
      | some i => s.rowElems m d i lo cnt)
    .ok ((cols.zip es).map (fun e => e.1 ++ [BitVec.ofNat 64 e.2]))) (List.replicate cnt [])

/-- Records of a chunk with their full forms, at the chunk's place (09 R264). -/
def recordWrites (a : Nat) : List Acc → Nat → Nat → List (Nat × List Byte)
  | [], _, _ => []
  | v :: vs, i, j => match v.record with
    | (r, none) => (a + 24 * i, r) :: recordWrites a vs (i + 1) j
    | (r, some f) => (a + 24 * i, r) :: (a + 768 + 80 * j, f) :: recordWrites a vs (i + 1) (j + 1)

/-- The writes of one item. -/
def State.itemWrites (s : State) (m : Mover) (d : GatherD) (t : Nat) : Except MoveErr (List (Nat × List Byte)) :=
  match d.reduce with
  | .none => do
    let a := d.outBase + t * d.outStride
    match ← s.gatherIndex m d (t / d.bagLen) (t % d.bagLen) with
    | none => .ok (if d.writePad then [(a, List.replicate d.rowBytes 0)] else [])
    | some i => .ok [(a, ← s.moveRead m false (d.rowAddr i) d.rowBytes)]
  | _ => do
    let c := t % d.chunks
    let q := t / d.chunks % d.split
    let b := t / d.chunks / d.split
    let lo := c * d.chunkLen
    let cnt := min d.chunkLen (d.elems - lo)
    let (first, n) := Sys2Proof.Machine.share q d.split d.bagLen
    let slot := d.outBase + (b * d.split + q) * d.outStride + c * d.slotBytes
    if d.fp64 then
      let cols ← s.columns64 m d b first n lo cnt
      if d.slots then
        match nodeOf d.bagLen first n (treeHeight d.bagLen) with
        | none => .ok []
        | some (h, j) => .ok ((upFrom 0 16).map (fun i => (slot + 16 * i, match cols[i]? with
          | some vs => treeRecord (canonF64 (treeValue h vs)) h j
          | none => leBytes 16 0)))
      else .ok [(d.outBase + b * d.outStride + lo * 8, cols.flatMap (fun vs => leBytes 8 (canonF64 (treeValue (treeHeight d.bagLen) vs)).toNat))]
    else
      let accs ← s.sumRows m d b first n lo cnt
      if d.slots then .ok (recordWrites slot (accs ++ List.replicate (32 - cnt) Acc.zero) 0 0)
      else
        let fb := fmtBytes d.fout
        .ok [(d.outBase + b * d.outStride + lo * fb, accs.flatMap (fun a => leBytes fb (encodeVal d.fout false (a.value 0))))]

/-- Perform one item on its slice; a SUM or WSUM item leaves acc0 to acc31 zero (09 R266). -/
def State.runItem (s : State) (m : Mover) (d : GatherD) (t : Nat) : State × Option MoveErr :=
  match s.itemWrites m d t with
  | .error e => (s, some e)
  | .ok ws =>
    let (s, e) := s.moveWrite m d.outScr ws
    (if d.reduce = .none then s else s.modSlice m.p.sl (fun x => x.clearAccs 0 32), e)

/-- Perform items `first` to `first + n - 1`. -/
def State.runItems (s : State) (m : Mover) (d : GatherD) (first n : Nat) : State × Option MoveErr :=
  (upFrom first n).foldl (fun t k => match t.2 with | some _ => t | none => t.1.runItem m d k) (s, none)

end Sys2Proof.Machine
end

