-- ==== Sys2Proof/Machine/Ledger.lean ====
section
/-! DEFINITION. The budget ledger's accounts (13 R359, R360, R362 to R364; 05 R157). -/

namespace Sys2Proof.Machine

/-- Power-class reset values in milliwatts (13 Table 10). -/
def classReset (k : Nat) : Nat :=
  [0, 50, 100, 200, 400, 600, 800, 1000, 1500, 2000, 2500, 3000, 4000, 5000, 6250, 8000].getD k 0

def State.classMw (s : State) (k : Nat) : Nat := tget s.ledger.classMw k (classReset k)

def State.baseMw (s : State) (c : Nat) : Nat := tget s.ledger.allow c 6250
def State.charged (s : State) (c : Nat) : Nat := tget s.ledger.charged c 0

/-- Add to or take from an account. -/
def acctAdd (m : Table Nat) (c v : Nat) : Table Nat := tput m c (tget m c 0 + v)
def acctSub (m : Table Nat) (c v : Nat) : Table Nat := tput m c (tget m c 0 - v)

/-- Charge `v` to channel `c`. -/
def State.charge (s : State) (c v : Nat) : State := s.modLedger (fun l => { l with charged := acctAdd l.charged c v })

/-- What channel `c` lacks to charge `v` more. -/
def State.shortfall (s : State) (c v : Nat) : Nat := s.charged c + v - s.effective c

/-- The channel may borrow what it lacks now: it waits longest, the pool holds the amount, the cap of 20,000 mW holds, STRICT
is clear (13 R362, R364; log 28). -/
def State.canBorrow (s : State) (c : Chan) (r : Rec) (v : Nat) : Bool :=
  !s.port.strict && decide (s.ledger.waiting.head? = some (c, r)) && decide (s.shortfall c.val v ≤ s.ledger.pool)
    && decide (s.effective c.val + s.shortfall c.val v ≤ 20000)

/-- Join the channels that wait at the ledger. -/
def State.ledgerWait (s : State) (c : Chan) (r : Rec) : State :=
  if s.ledger.waiting.contains (c, r) then s else s.modLedger (fun l => { l with waiting := l.waiting ++ [(c, r)] })

def State.ledgerLeave (s : State) (c : Chan) (r : Rec) : State :=
  s.modLedger (fun l => { l with waiting := l.waiting.filter (· ≠ (c, r)) })

/-- Borrow an amount from the pool. -/
def State.borrow (s : State) (c : Chan) (v : Nat) : State :=
  if v = 0 then s
  else s.modLedger (fun l => { l with
    pool := l.pool - v
    borrowed := acctAdd l.borrowed c.val v
    borrowers := c :: l.borrowers.filter (· ≠ c) })

/-- Take `v` from borrowers, the most recent first. -/
def takeBack : List Chan → Nat → Table Nat → Table Nat
  | [], _, m => m
  | c :: cs, v, m => let k := min v (tget m c.val 0); takeBack cs (v - k) (acctSub m c.val k)

/-- Reclaim `v` lent by channel `c` (13 R363): from the pool, then from the borrowers. The charge is the channel's own again. -/
def State.reclaim (s : State) (c v : Nat) : State :=
  if v = 0 then s
  else s.modLedger (fun l =>
    let k := min v l.pool
    { l with
      pool := l.pool - k
      borrowed := takeBack l.borrowers (v - k) l.borrowed
      lent := acctSub l.lent c v
      charged := acctAdd l.charged c v })

/-- Move a charge of channel `c` into the pool (13 R362). -/
def State.lend (s : State) (c v : Nat) : State :=
  s.modLedger (fun l => { l with pool := l.pool + v, lent := acctAdd l.lent c v, charged := acctSub l.charged c v })

/-- Return a charge, and of what the channel borrowed all that its charges no longer need. -/
def State.uncharge (s : State) (c v : Nat) : State :=
  s.modLedger (fun l =>
    let charged := acctSub l.charged c v
    let own := tget l.allow c 6250 - tget l.lent c 0
    let b := tget l.borrowed c 0
    let back := b - min b (tget charged c 0 - own)
    { l with charged := charged, borrowed := acctSub l.borrowed c back, pool := l.pool + back })

/-- The charge of an ending command returns, one that was lent being reclaimed first. -/
def State.endCharge (s : State) (c : Nat) (m : Cmd) : State := (s.reclaim c m.lent).uncharge c m.charge

/-- A context's long wait ends: its lent charges are reclaimed (10 R298, 13 R363). -/
def State.endLongWait (s : State) (c r : Nat) : State :=
  let x := s.ctx c r
  let s := s.reclaim c ((x.inflight.map (·.lent)).foldl (· + ·) 0)
  s.modCtx c r (fun x => { x with longWait := false, inflight := x.inflight.map (fun m => { m with lent := 0 }) })

/-- An event that may begin a long wait of the context (10 R298, R307). -/
def State.waitMark (s : State) (c r : Nat) : State :=
  s.modCtx c r (fun x => { x with waitStart := s.refCount, waitUs := (s.chan c).lendUs })

end Sys2Proof.Machine
end

