-- ==== Sys2Proof/Machine/Rows.lean ====
section
/-! DEFINITION. Rows of banks: physical banks and slices (01 R19, R20), timing (02 Table 1), the open row that host and slices share (02
R49), the turn of a slice's or the sequencer's request at a bank (02 R50, R53; 13 R343, R350), trained lanes (02 Table 8). -/

namespace Sys2Proof.Machine

/-! ## Physical banks, slices and rows (01 R19, R20; 02 R40, R55, R72) -/

/-- The darning entry of a logical bank; the manufactured map is the identity without a gap where it lists nothing (log 5). -/
def Channel.darnOf (ch : Channel) (b : Nat) : Darn := tget ch.darn b ⟨b, 16, false, false⟩

/-- The physical slice that serves logical slice `i`: the shift past the gap. -/
def Darn.phys (d : Darn) (i : Nat) : Nat := if i < d.gap then i else i + 1

/-- The logical slice a physical slice serves; none at the gap, where it is powered off. -/
def Darn.logical (d : Darn) (p : Nat) : Option Nat := if p = d.gap then none else some (if p < d.gap then p else p - 1)

/-- The logical bank a physical bank serves; a spare serves none. -/
def Channel.bankOf (ch : Channel) (p : Nat) : Option Nat := (upFrom 0 128).find? (fun b => decide ((ch.darnOf b).physBank = p))

/-- Rows of a physical bank that its spare rows serve, spare row 0 first. -/
def Channel.rowsOf (ch : Channel) (p : Nat) : List Nat := tget ch.rowMap p []

/-- The physical row that serves a logical row of bank `b`: itself, or 2,048 + k for spare row `k`, the last that was given to it. -/
def Channel.physRow (ch : Channel) (b row : Nat) : Nat :=
  let l := ch.rowsOf (ch.darnOf b).physBank
  if l.contains row then 2047 + l.length - l.reverse.findIdx (fun r => r = row) else row

/-! ## Bank timing (02 Table 1) -/

def tRCD : Nat := 14
def tRAS : Nat := 32
def tRP : Nat := 14
def tWR : Nat := 12
def tRFC : Nat := 48

/-- The first cycle in which the open row may close. -/
def BankSt.closeAt (k : BankSt) : Nat :=
  max ((k.actAt.map (fun a => a + tRAS)).getD 0) ((k.wrAt.map (fun w => w + tWR)).getD 0)

/-- The open row may close. -/
def BankSt.mayClose (k : BankSt) (col : Nat) : Bool := decide (k.closeAt ≤ col)

/-- Close the row: the next activation or refresh waits tRP. -/
def BankSt.precharge (k : BankSt) (col : Nat) : BankSt := { k with openRow := none, readyAt := col + tRP, wrAt := none }

/-- Fewer than 16 activations began in the 16 column cycles up to this one (R42). -/
def Channel.actOk (ch : Channel) (col : Nat) : Bool := decide ((ch.acts.filter (fun a => decide (col < a + 16))).length < 16)

/-- The first cycle from `col` on in which an activation may begin. -/
def Channel.actFrom (ch : Channel) (col : Nat) : Nat := ((upFrom col 64).find? ch.actOk).getD (col + 64)

/-- At column cycle `col`, an activation or a refresh that begins at cycle `start` is noted. -/
def Channel.noteAct (ch : Channel) (col start : Nat) : Channel := { ch with acts := start :: ch.acts.filter (fun a => decide (col < a + 16)) }

/-- The arrays take refreshes of the controller: powered, not in self-refresh (13 R357). -/
def Channel.arraysOn (ch : Channel) : Bool := !ch.pwr.selfRefresh && ch.pwr.dom.state.up

/-- The banks serve slices, the sequencer and the fabric: they accept requests, and lanes lost in OFF are trained again (02 R70, 13 R343). -/
def Channel.serves (ch : Channel) : Bool :=
  ch.pwr.accepting && ch.arraysOn && (decide (ch.pwr.dom.state = .on) || !ch.pwr.fromOff)

/-- The channel dispatches and runs slices: booted, and ON or in WAKING from RETENTION (13 R343). -/
def Channel.runs (ch : Channel) : Bool :=
  ch.awake && (decide (ch.pwr.dom.state = .on) || (decide (ch.pwr.dom.state = .waking) && !ch.pwr.fromOff))

/-- The channel's clocks come from its PLL (13 R354). -/
def Channel.onPll (ch : Channel) : Bool := decide (ch.pwr.dom.state = .on) && ch.pwr.pllOn

/-- A refresh must come before anything else (02 R50, R57). -/
def Channel.mustRefresh (ch : Channel) (b : Nat) : Bool := decide (8 ≤ (ch.bank b).debt) || (!ch.mem.postponeEn && decide (0 < (ch.bank b).debt))

/-! ## The strict refresh period (02 R59, 11 R311) -/

/-- (a - b) mod m. -/
def cycleDiff (a b m : Nat) : Nat := (a % m + (m - b % m)) % m

/-- Column cycles since the strict-schedule origin, modulo the period of 3,840. -/
def State.strictCol (s : State) (col : Nat) : Nat := cycleDiff (col * 210) (s.originRef * 1344) 806400 / 210

/-- Column cycles from `col` to the start of the next blackout slot of bank `b`. -/
def State.toSlot (s : State) (b col : Nat) : Nat := (30 * b + 3840 - s.strictCol col) % 3840

/-- In STRICT, `n` more cycles end before the blackout slot of bank `b`. -/
def State.slotClear (s : State) (b col n : Nat) : Bool := !s.port.strict || decide (n ≤ s.toSlot b col)

/-! ## Turns (02 R50 to R53) -/

/-- Age of a host request at its bank, in column cycles. -/
def BankReq.age (q : BankReq) (col : Nat) : Nat := col - (q.t + Config.pinToBank) / 210

/-- age_cap and panic_level as they act (02 Table 5). -/
def MemCfg.cap (m : MemCfg) : Nat := max 32 (min 128 m.ageCap)
def MemCfg.panic (m : MemCfg) : Nat := min 32 m.panicLevel

/-- Reads of the channel without a response. -/
def State.chanReads (s : State) (c : Nat) : Nat := ((s.group (groupOf c)).out.filter (fun o => o.chan = some c)).length

def State.panic (s : State) (c : Nat) : Bool := decide ((s.chan c).mem.panic ≠ 0 ∧ (s.chan c).mem.panic ≤ s.chanReads c)

def BankReq.row (q : BankReq) : Nat := offRow (q.blk * 64)

/-- The oldest host request of the bank comes before every request of a slice: aged, or panic is raised. -/
def State.hostFirst (s : State) (c : Nat) (k : BankSt) : Bool :=
  match k.queue with
  | [] => false
  | q :: _ => s.panic c || decide ((s.chan c).mem.cap < q.age s.col)

/-- When an activation for another row of the bank can begin. -/
def State.actTime (s : State) (c b : Nat) : Nat :=
  let ch := s.chan c
  let k := ch.bank b
  ch.actFrom (if k.openRow.isSome then max s.col k.closeAt + tRP else max s.col k.readyAt)

/-- A request of a slice, or of the sequencer, for the block at `a` is the one its bank serves next: after a forced refresh, a bank's
retries and every host request that comes first; in STRICT after every earlier request, and with its activation over before the
blackout slot. -/
def State.rowTurn (s : State) (a : Nat) : Bool :=
  let c := offChan a
  let b := offBank a
  let ch := s.chan c
  let k := ch.bank b
  let hit := decide (k.openRow = some (offRow a))
  ch.serves && k.failing.isNone &&
    (if s.port.strict then decide (k.queue = []) && (hit || decide (s.actTime c b + tRAS + tRCD ≤ s.col + s.toSlot b s.col))
    else !ch.mustRefresh b && !s.hostFirst c k && (decide (k.queue = []) || hit))

/-- An access of a slice, or of the sequencer, at its bank: the open row serves it, or is closed for its own row, which stays open
(R49). Its instants are the earliest that Table 1 and R42 allow (log 85). -/
def State.touchRow (s : State) (a : Nat) (write : Bool) : State :=
  let c := offChan a
  let b := offBank a
  let k := (s.chan c).bank b
  let wr (act : Nat) : Option Nat := if write then some (max s.col (act + tRCD)) else none
  if k.openRow = some (offRow a) then
    (if write then s.modBank c b (fun k => { k with wrAt := wr (k.actAt.getD 0) }) else s)
  else
    let act := s.actTime c b
    s.modChan c (fun ch => (ch.modBank b (fun k => { k with openRow := some (offRow a), actAt := some act, wrAt := wr act })).noteAct s.col act)

/-! ## Trained lanes (02 Table 8, Table 10) -/

/-- The lane CH_TRAIN_LANE selects. -/
def selLane (v : W32) : LaneSel :=
  let tsv := decide (2 ≤ bits v.toNat 1 0)
  ⟨Fin.ofNat 4 (bits v.toNat 1 0), if tsv then 0 else bits v.toNat 9 2, if tsv then 0 else bits v.toNat 14 10, bits v.toNat 20 15⟩

def laneTsv (l : LaneSel) : Bool := decide (2 ≤ l.path.val)
/-- The lane is one of Table 8. -/
def laneOk (l : LaneSel) : Bool :=
  if (laneTsv l) then decide (l.lane ≤ 35 ∧ l.physBank = 0 ∧ l.physSlice = 0) else decide (l.lane ≤ 16 ∧ l.physBank < 130 ∧ l.physSlice ≤ 16)
/-- Taps, and the minimum eye, of a path. -/
def laneTaps (l : LaneSel) : Nat := if (laneTsv l) then 64 else 128
def laneMinEye (l : LaneSel) : Nat := if (laneTsv l) then 16 else 32

/-- A lane swept with no mismatch at any tap. -/
def laneClean (l : LaneSel) : LaneTrain := ⟨(laneTaps l) / 2, (laneTaps l), false, 0⟩

/-- The tap of a lane whose sampler was lost in OFF: free (R70, log 9). -/
def lostTap (draw : Nat) (l : LaneSel) : Nat :=
  (Config.freeByte draw (((l.path.val * 256 + l.physBank) * 32 + l.physSlice) * 64 + l.lane)).toNat % laneTaps l

/-- The state of a lane. Lanes not listed hold the clean setting once a sweep has run. -/
def TrainSt.lane (t : TrainSt) (l : LaneSel) : LaneTrain :=
  let v := match t.lanes.find? (fun e => e.1 = l) with
    | some e => e.2
    | none => if t.dflt then (laneClean l) else ⟨0, 0, false, 0⟩
  match t.lostTaps with
  | some n => if laneTsv l && decide (t.phase = .bond ∨ t.phase = .done) then v else { v with mainTap := lostTap n l }
  | none => v

def TrainSt.setLane (t : TrainSt) (l : LaneSel) (v : LaneTrain) : TrainSt := { t with lanes := (l, v) :: t.lanes.filter (fun e => e.1 ≠ l) }

def State.modTrain (s : State) (c : Nat) (f : TrainSt → TrainSt) : State := s.modChan c (fun ch => { ch with train := f ch.train })

/-- Mismatches counted on the selected lane. -/
def State.mismatches (s : State) (c n : Nat) : State :=
  let t := (s.chan c).train
  let v := t.lane (selLane t.sel)
  let s := s.modTrain c (fun t => t.setLane (selLane t.sel) { v with mismatch := satAdd v.mismatch n 0xFFFF })
  if v.mismatch < 0xFFFF ∧ 0xFFFF ≤ v.mismatch + n then s.alert 9 (plainRec 9 c 0) else s

/-- Live traffic of `n` bytes at `a` on the selected lane while its shadow sampler is enabled: on how many of its beats the samplers disagree
is free (R65, log 78). `tsv` tells that the data also cross to or from the base die. -/
def State.shadowed (s : State) (a n : Nat) (write tsv : Bool) : State :=
  let c := offChan a
  let ch := s.chan c
  let l := selLane ch.train.sel
  let d := ch.darnOf (offBank a)
  let on := if laneTsv l then tsv && decide ((l.path.val = 3) = (write = true))
    else decide (l.physBank = d.physBank ∧ l.physSlice = d.phys (a / 512 % 16) ∧ (l.path.val = 1) = (write = true))
  if ch.train.sel.getLsbD 28 && on then
    let beats := (n + 15) / 16
    (s.draw 1).2.mismatches c (leNat (s.draw 1).1 % (beats + 1))
  else s

/-! ## Accesses of slices and the sequencer -/

/-- Runs of bytes cut at block boundaries: the address and length of each piece. -/
def blocksOf (l : List (Nat × Nat)) : List Nat :=
  l.flatMap (fun e => if e.2 = 0 then [] else (upFrom (e.1 / 64) ((e.1 + e.2 - 1) / 64 + 1 - e.1 / 64)).map (· * 64))

/-- Each first block of a row touched in turn: consecutive blocks of one row count once. -/
def rowHeads : List Nat → List Nat
  | [] => []
  | [a] => [a]
  | a :: b :: r => if a / 2 ^ 13 = b / 2 ^ 13 then (match rowHeads (b :: r) with | _ :: q => a :: q | [] => [a]) else a :: rowHeads (b :: r)

/-- Every bank of these accesses serves them now. -/
def State.banksServe (s : State) (l : List (Nat × Nat)) : Bool := (rowHeads (blocksOf l)).all s.rowTurn

/-- Traffic for channels that sleep wakes them, and is held at their switch ports (13 R349, R350). -/
def State.wakeFor (s : State) (l : List (Nat × Nat)) : State :=
  l.foldl (fun s e => match (if h : offChan e.1 < 512 then some (⟨offChan e.1, h⟩ : Chan) else none) with
    | some c => if (s.chan c).serves then s else s.wake (.channel c)
    | none => s) s

/-- The accesses as their banks and lanes see them. -/
def State.touch (s : State) (reads writes : List (Nat × Nat)) : State :=
  let go (w : Bool) (s : State) (l : List (Nat × Nat)) : State :=
    let t := (rowHeads (blocksOf l)).foldl (fun s a => s.touchRow a w) s
    l.foldl (fun s e => s.shadowed e.1 e.2 w false) t
  go true (go false s reads) writes

end Sys2Proof.Machine
end

