-- ==== Sys2Proof/Machine/Sync.lean ====
section
/-! DEFINITION. Sync objects, waiters, watches, barriers, messages and long waits (10 R278 to R305). -/

namespace Sys2Proof.Machine

/-! ## Names (10 R279) -/

/-- The object virtual ID `v` names for a context of channel `c`. -/
def Ctx.vobj (x : Ctx) (c : Chan) (v : Nat) : Option ObjRef :=
  if v < x.chanCount then some (.chan c (Fin.ofNat 128 (x.chanFirst + v)))
  else if v < x.chanCount + x.modCount then some (.module (Fin.ofNat 8192 (x.modFirst + (v - x.chanCount)))) else none

def chanOf (c : Nat) : Chan := Fin.ofNat 512 c

/-! ## Sending (10 R283) -/

/-- The place of an operation among those of one cycle: channel, then commands, slices, watch entries. -/
def syncRank (who : Party) (act : SyncAct) : Nat :=
  match act, who with
  | .watch e _, .command c .. => c.val * 2 ^ 24 + 3 * 2 ^ 21 + e
  | .watch e _, .slice sl .. => slChan sl * 2 ^ 24 + 3 * 2 ^ 21 + e
  | _, .command c r .. => c.val * 2 ^ 24 + 2 ^ 21 + r.val
  | _, .slice sl .. => slChan sl * 2 ^ 24 + 2 * 2 ^ 21 + sl.toNat
  | _, .host => 2 ^ 34

/-- An operation leaves toward its object; operations sent in one reference cycle count as one cycle's (log 20). -/
def State.send (s : State) (o : ObjRef) (act : SyncAct) (who : Party) : State :=
  { s with syncQ := s.syncQ ++ [⟨o, act, who, s.refCount, syncRank who act⟩] }

/-! ## Performing (10 R282 to R286) -/

def lastOf : Party → LastSig
  | .command c r gen _ tag => ⟨c.val, r.val, gen, false, 0, false, tag⟩
  | .slice sl r gen _ tag => ⟨slChan sl, r.val, gen, false, sl, true, tag⟩
  | .host => ⟨0, 0, 0, true, 0, false, 0⟩

/-- The party behind a waiting command. -/
def State.waiterParty (s : State) : WaiterBy → Party
  | .command c r pos => .command c r (s.ctx c.val r.val).gen pos (((s.cmd c.val r.val pos).map (·.tag)).getD 0)
  | _ => .host

/-- Insert by age. -/
def byAge (e : Nat × Waiter) : List (Nat × Waiter) → List (Nat × Waiter)
  | [] => [e]
  | f :: r => if e.2.age < f.2.age then e :: f :: r else f :: byAge e r

/-- Waiters from the oldest. -/
def SyncObj.aged (o : SyncObj) : List (Nat × Waiter) := o.waiters.foldl (fun l e => byAge e l) []

/-- One waiter of the scan: released when its condition holds, a consuming one taking its value. -/
def scanOne (party : WaiterBy → Party) (t : SyncObj × List WaiterBy) (e : Nat × Waiter) : SyncObj × List WaiterBy :=
  match e.2.who with
  | .combiner _ => t
  | w =>
    if e.2.value.toNat ≤ t.1.count.toNat then
      ({ t.1 with
          waiters := tdel t.1.waiters e.1
          count := if e.2.consume then t.1.count - e.2.value else t.1.count
          last := if e.2.consume then lastOf (party w) else t.1.last }, t.2 ++ [w])
    else t

/-- The scan of R284: the object after it, and who is released. -/
def scanObj (party : WaiterBy → Party) (o : SyncObj) : SyncObj × List WaiterBy := o.aged.foldl (scanOne party) (o, [])

/-- A release leaves toward a waiter; a command released cannot be withdrawn (05 R166). -/
def State.releaseWaiter (s : State) (w : WaiterBy) : State :=
  match w with
  | .command c r pos => { s with relQ := s.relQ ++ [(c, Release.waiter w)] }.modCmd c.val r.val pos (fun m => { m with released := true })
  | .watch c _ => { s with relQ := s.relQ ++ [(c, Release.waiter w)] }
  | .combiner _ => s

/-- Scan the waiters of an object. -/
def State.scan (s : State) (o : ObjRef) : State :=
  let r := scanObj s.waiterParty (s.syncObj o)
  r.2.foldl State.releaseWaiter (s.modObj o (fun _ => r.1))

/-- A fault at an object: the error bit, its cause, the counter (10 R286, R287). -/
def State.objFault (s : State) (o : ObjRef) (cause : Nat) (host : Bool) : State :=
  let s := s.modObj o (fun x => { x with error := true, lastFault := BitVec.ofNat 8 cause })
  match o with
  | .chan c _ =>
    let n := (s.chan c).syncFaults
    (s.modChan c (fun ch => { ch with syncFaults := satInc n 0xFFFF })).noteSat n 0xFFFF c
  | .module _ =>
    if host then (s.modPort (fun p => { p with hostFaults := satInc p.hostFaults 0xFFFF })).noteSat s.port.hostFaults 0xFFFF 0
    else (s.modPort (fun p => { p with moduleFaults := satInc p.moduleFaults 0xFFFF })).noteSat s.port.moduleFaults 0xFFFF 0

/-- The result of an operation returns to its party: 0, or the cause of its fault. -/
def State.answer (s : State) (who : Party) (cause : Nat) : State :=
  match who with
  | .command c r _ pos _ =>
    if cause = 0 then s.modCmd c.val r.val pos (fun m => { m with phase := .finished })
    else s.cmdFault c.val r.val pos ⟨BitVec.ofNat 8 cause, 0, .mx, 0⟩
  | .slice sl r _ pos _ => { s with relQ := s.relQ ++ [(chanOf (slChan sl), .result sl r pos (BitVec.ofNat 8 cause))] }
  | .host => s

/-- Is the party the host? -/
def Party.isHost : Party → Bool
  | .host => true
  | _ => false

def causeOverflow : Nat := 0x40
def causeUnderflow : Nat := 0x41
def causeMode : Nat := 0x42
def causeStale : Nat := 0x43
def causeFull : Nat := 0x44

/-- The fault a signal or subtract of `n` meets at an object; 0 none. -/
def SyncObj.addFault (o : SyncObj) (n : Nat) : Nat :=
  if o.barrierEn then causeMode else if 2 ^ 32 ≤ o.count.toNat + n then causeOverflow else 0
def SyncObj.subFault (o : SyncObj) (n : Nat) : Nat :=
  if o.barrierEn then causeMode else if o.count.toNat < n then causeUnderflow else 0

/-- Signal an object: 0, or the cause for which it was not performed. -/
def State.signalObj (s : State) (o : ObjRef) (n : W32) (who : Party) : State × Nat :=
  let f := (s.syncObj o).addFault n.toNat
  if f ≠ 0 then (s.objFault o f who.isHost, f)
  else ((s.modObj o (fun x => { x with count := x.count + n, last := lastOf who })).scan o, 0)

/-- Subtract from an object. -/
def State.subtractObj (s : State) (o : ObjRef) (n : W32) (who : Party) : State × Nat :=
  let f := (s.syncObj o).subFault n.toNat
  if f ≠ 0 then (s.objFault o f who.isHost, f)
  else (s.modObj o (fun x => { x with count := x.count - n, last := lastOf who }), 0)

/-- The free waiter slot with the lowest number. -/
def SyncObj.freeSlot (o : SyncObj) : Option Nat := (upFrom 0 16).find? (fun k => (tfind o.waiters k).isNone)

/-- Take slot `k`; the age is the place in the serial order. -/
def SyncObj.take (o : SyncObj) (k : Nat) (w : WaiterBy) (consume : Bool) (v : W32) : SyncObj :=
  { o with waiters := tput o.waiters k ⟨w, consume, v, o.nextAge⟩, nextAge := o.nextAge + 1 }

def State.hold (s : State) (c : Nat) (h : Held) : State := s.modChan c (fun ch => { ch with held := ch.held ++ [h] })

def partyChan : Party → Nat
  | .command c .. => c.val
  | .slice sl .. => slChan sl
  | .host => 0

/-- A wait at its object: released at once, put in a slot, or held (R282, R285). -/
def State.waitObj (s : State) (m : SyncMsg) (w : WaiterBy) (v : W32) (consume : Bool) : State :=
  let x := s.syncObj m.obj
  if v.toNat ≤ x.count.toNat then
    (if consume then s.modObj m.obj (fun x => { x with count := x.count - v, last := lastOf m.who }) else s).releaseWaiter w
  else match x.freeSlot with
    | some k => s.modObj m.obj (fun x => x.take k w consume v)
    | none => s.hold (partyChan m.who) (.wait m)

/-- Perform an operation at its object. -/
def State.perform (s : State) (m : SyncMsg) : State :=
  match m.act with
  | .signal n => let r := s.signalObj m.obj n m.who; r.1.answer m.who r.2
  | .subtract n => let r := s.subtractObj m.obj n m.who; r.1.answer m.who r.2
  | .wait n consume =>
    if consume && (s.syncObj m.obj).barrierEn then (s.objFault m.obj causeMode false).answer m.who causeMode
    else (match m.who with
      | .command c r _ pos _ => s.waitObj m (.command c r pos) n consume
      | _ => s)
  | .watch e n => s.waitObj m (.watch (chanOf (partyChan m.who)) e) n false
  | .ack cause =>
    let r := s.signalObj m.obj 1 m.who
    if r.2 ≠ 0 then (if cause = 0 then r.1.answer m.who r.2 else r.1)
    else if cause = 0 then r.1
    else r.1.modObj m.obj (fun x => { x with error := true, lastFault := cause })

/-- `a` comes before `b` in the serial order. -/
def SyncMsg.before (a b : SyncMsg) : Bool := decide (a.cycle < b.cycle ∨ (a.cycle = b.cycle ∧ a.rank < b.rank))

/-- The first operation for an object in the serial order. -/
def nextMsg (o : ObjRef) (q : List SyncMsg) : Option SyncMsg :=
  (q.filter (fun m => m.obj = o)).foldl (fun t m => match t with | none => some m | some b => if m.before b then some m else some b) none

/-- The list without its first entry equal to `a`. -/
def dropFirst {α : Type} [DecidableEq α] (a : α) : List α → List α
  | [] => []
  | b :: r => if b = a then r else b :: dropFirst a r

/-! ## Watches (10 R289) and combiners (10 R294, R295) -/

/-- A slice's watch joins the entry of its object and value, takes a free entry, or is held. -/
def State.joinWatch (s : State) (sl : SliceId) (r : Rec) (o : ObjRef) (v : W32) : State :=
  let c := slChan sl
  let ws := (s.chan c).watches
  match ws.find? (fun e => decide (e.2.obj = o ∧ e.2.value = v)) with
  | some e => s.modChan c (fun ch => { ch with watches := tput ch.watches e.1 { e.2 with slices := e.2.slices ++ [sl] } })
  | none => match (upFrom 0 32).find? (fun k => (tfind ws k).isNone) with
    | some k => (s.modChan c (fun ch => { ch with watches := tput ch.watches k ⟨o, v, [sl]⟩ })).send o (.watch k v) (.slice sl r 0 0 0)
    | none => s.hold c (.watch sl r o v)

def Channel.modCombiner (ch : Channel) (o : ObjRef) (f : Combiner → Combiner) : Channel :=
  { ch with combiners := ch.combiners.map (fun k => if k.obj = o then f k else k) }

/-- An arrival word leaves toward its object, at the place of a slice's operation in the order of R283. -/
def State.sendArrival (s : State) (o : ObjRef) (c : Chan) (who : List Arriver) : State :=
  let r := match who with
    | a :: _ => syncRank (.slice a.sl a.record a.gen a.pos a.tag) (.signal 1)
    | [] => 0
  { s with arrQ := s.arrQ ++ [⟨o, c, who, s.refCount, r⟩] }

/-- A combiner with nothing left is freed. -/
def Channel.trimCombiners (ch : Channel) : Channel :=
  { ch with combiners := ch.combiners.filter (fun k => decide (k.gathered ≠ [] ∨ k.waiting ≠ [])) }

/-- A slice arrives: its channel's combiner takes the arrival, or it is held. Toward a channel-scope object it leaves at once. -/
def State.joinBar (s : State) (a : Arriver) (o : ObjRef) : State :=
  let c := slChan a.sl
  let ks := (s.chan c).combiners
  if ks.any (fun k => k.obj = o) || decide (ks.length < 16) then
    let s := if ks.any (fun k => k.obj = o) then s else s.modChan c (fun ch => { ch with combiners := ch.combiners ++ [⟨o, [], []⟩] })
    let now := match o with | .chan .. => true | .module _ => false
    let s := s.modChan c (·.modCombiner o (fun k => { k with
      gathered := if now then k.gathered else k.gathered ++ [a], waiting := k.waiting ++ [(a.sl, a.record, none)] }))
    if now then s.sendArrival o (chanOf c) [a] else s
  else s.hold c (.bar a o)

def execCombinerForward (c : Chan) (m : Fin 8192) (s : State) : Result :=
  match (s.chan c).combiners.find? (fun k => k.obj = .module m) with
  | none => .next s
  | some k =>
    if k.gathered = [] then .next s
    else .next ((s.modChan c (·.modCombiner (.module m) (fun k => { k with gathered := [] }))).sendArrival (.module m) c k.gathered)

/-- Every held wait is offered again, in order (10 R285). -/
def execWaitRetry (c : Chan) (s : State) : Result :=
  .next ((s.chan c).held.foldl (fun s h => match h with
    | .wait m => s.perform m
    | .watch sl r o v => s.joinWatch sl r o v
    | .bar a o => s.joinBar a o) (s.modChan c (fun ch => { ch with held := [] })))

/-! ## Barriers (10 R293 to R296) -/

/-- Participants: 0 acts as 1 (Table 4). -/
def SyncObj.parties (o : SyncObj) : Nat := max 1 o.participants

def Arriver.party (a : Arriver) : Party := .slice a.sl a.record a.gen a.pos a.tag

/-- The combiner of channel `c` takes a waiter slot at the barrier while its slices wait, when one is free (log 21). -/
def State.combinerSlot (s : State) (o : ObjRef) (c : Chan) : State :=
  let waits := (s.chan c).combiners.any (fun k => decide (k.obj = o ∧ k.waiting ≠ []))
  let x := s.syncObj o
  if waits && !x.waiters.any (fun e => e.2.who = .combiner c) then
    match x.freeSlot with
    | some k => s.modObj o (fun x => x.take k (.combiner c) false (x.count + 1))
    | none => s
  else s

/-- The episode ends: the sense flips, the count rises modulo 2^32, and every channel that forwarded arrivals is released. -/
def State.episodeEnd (s : State) (o : ObjRef) (a : Arriver) (chs : List Nat) : State :=
  let x := s.syncObj o
  let s := s.modObj o (fun x => { x with
    arrived := 0, sense := !x.sense, count := x.count + 1, last := lastOf a.party, forwarded := []
    waiters := x.waiters.filter (fun e => match e.2.who with | .combiner _ => false | _ => true) })
  { s with relQ := s.relQ ++ chs.map (fun c => (chanOf c, Release.barrier o (!x.sense))) }.scan o

/-- One arrival at a barrier object. -/
def State.arrive (s : State) (o : ObjRef) (c : Chan) (a : Arriver) : State :=
  let x := s.syncObj o
  if !x.barrierEn then
    ((s.objFault o causeMode false).answer a.party causeMode).modChan c (fun ch => (ch.modCombiner o (fun k => { k with
      waiting := k.waiting.filter (fun w => decide (w.1 ≠ a.sl ∨ w.2.1 ≠ a.record)) })).trimCombiners)
  else
    let s := s.modChan c (·.modCombiner o (fun k => { k with
      waiting := k.waiting.map (fun w => if w.1 = a.sl ∧ w.2.1 = a.record ∧ w.2.2 = none then (w.1, w.2.1, some x.sense) else w) }))
    let chs := if x.forwarded.contains c.val then x.forwarded else x.forwarded ++ [c.val]
    if x.parties ≤ x.arrived + 1 then s.episodeEnd o a chs
    else (s.modObj o (fun x => { x with arrived := x.arrived + 1, forwarded := chs })).combinerSlot o c

/-- The first arrival word for an object in the serial order. -/
def nextArr (o : ObjRef) (q : List Arrival) : Option Arrival :=
  (q.filter (fun w => w.obj = o)).foldl (fun t w => match t with
    | none => some w
    | some b => if w.cycle < b.cycle ∨ (w.cycle = b.cycle ∧ w.rank < b.rank) then some w else some b) none

/-- The operation comes before every arrival word waiting for its object. -/
def State.opFirst (s : State) (m : SyncMsg) : Bool :=
  match nextArr m.obj s.arrQ with
  | none => true
  | some w => decide (m.cycle < w.cycle ∨ (m.cycle = w.cycle ∧ m.rank < w.rank))

/-- The arrival word comes before every other operation waiting for its object. -/
def State.arrFirst (s : State) (w : Arrival) : Bool :=
  match nextMsg w.obj s.syncQ with
  | none => true
  | some m => !s.opFirst m

def State.doOp (s : State) (m : SyncMsg) : State := { s with syncQ := dropFirst m s.syncQ }.perform m
def State.doArrival (s : State) (w : Arrival) : State := w.who.foldl (fun s a => s.arrive w.obj w.channel a) { s with arrQ := dropFirst w s.arrQ }

/-- The next operation in the serial order of R283, unless an arrival word comes before it. -/
def execSyncOperation (o : ObjRef) (s : State) : Result :=
  match nextMsg o s.syncQ with
  | none => .next s
  | some m => if s.opFirst m then .next (s.doOp m) else .next s

/-- The next arrival word in the serial order, unless another operation comes before it. -/
def execBarrierArrival (o : ObjRef) (s : State) : Result :=
  match nextArr o s.arrQ with
  | none => .next s
  | some w => if s.arrFirst w then .next (s.doArrival w) else .next s

/-- Every operation sent to an object by now is performed, in the serial order (log 20). -/
def State.catchUp (s : State) (o : ObjRef) : State :=
  forN (s.syncQ.length + s.arrQ.length) (fun _ s =>
    match nextMsg o s.syncQ, nextArr o s.arrQ with
    | some m, _ => if s.opFirst m then s.doOp m else (match nextArr o s.arrQ with | some w => s.doArrival w | none => s)
    | none, some w => s.doArrival w
    | none, none => s) s

/-- BX of the LAYER of record `r` on a slice, running or suspended, waits for `w` no longer (10 R297). -/
def State.bxGo (s : State) (sl : SliceId) (r : Nat) (w : BxWait) : State :=
  let s := s.modSlice sl (fun x =>
    if (match x.layer with | some l => decide (l.record.val = r) | none => false) && decide (x.bxWait = w) then { x.retire .bx with bxWait := .none }
    else match x.shadow with
      | some f =>
        if f.layer.record.val = r ∧ f.bxWait = w then
          { x with shadow := some { f with bxWait := .none, satisfied := true, engines := tmod f.engines (engIx .bx) .zero retired } }
        else x
      | none => x)
  (if (s.ctx (slChan sl) r).longWait then s.endLongWait (slChan sl) r else s).waitMark (slChan sl) r

/-- The first release of a channel that `p` admits. -/
def nextRel (c : Chan) (p : Release → Bool) (q : List (Chan × Release)) : Option Release :=
  (q.find? (fun e => decide (e.1 = c) && p e.2)).map (·.2)

def Release.isBarrier : Release → Bool
  | .barrier .. => true
  | _ => false

/-- The slices whose recorded sense differs wait no longer. -/
def State.barGo (s : State) (c : Chan) (o : ObjRef) (sense : Bool) : State :=
  match (s.chan c).combiners.find? (fun k => k.obj = o) with
  | none => s
  | some k =>
    let go (w : SliceId × Rec × Option Bool) : Bool := match w.2.2 with | some x => x != sense | none => false
    (k.waiting.filter go).foldl (fun s w => s.bxGo w.1 w.2.1.val (.bar o))
      (s.modChan c (fun ch => (ch.modCombiner o (fun k => { k with waiting := k.waiting.filter (fun w => !go w) })).trimCombiners))

/-- A release for a channel that cannot dispatch wakes it, and is held (13 R349, R350). -/
def execBarrierRelease (c : Chan) (s : State) : Result :=
  match nextRel c Release.isBarrier s.relQ with
  | some (.barrier o sense) => if !(s.chan c).runs then .next (s.wake (.channel c)) else .next ({ s with relQ := dropFirst (c, .barrier o sense) s.relQ }.barGo c o sense)
  | _ => .next s

/-! ## Releases (10 R284, R289) -/

/-- The contexts of the channel whose LAYER on the slice waits in BX for `w`. -/
def SliceSt.watchers (x : SliceSt) (w : BxWait) : List Nat :=
  (match x.layer with | some l => if x.bxWait = w then [l.record.val] else [] | none => [])
    ++ (match x.shadow with | some f => if f.bxWait = w then [f.layer.record.val] else [] | none => [])

/-- The fault of an operation returns to BX of its LAYER (10 R286). -/
def State.bxFault (s : State) (sl : SliceId) (r : Rec) (pos : Nat) (cause : Byte) : State :=
  let runs := match (s.slice sl).layer with | some l => decide (l.record = r ∧ l.pos = pos) | none => false
  if runs then (s.modSlice sl (fun x => { x with bxWait := .none })).sliceFault sl .bx cause.toNat 0
  else s.cmdFault (slChan sl) r.val pos ⟨cause, sl, .bx, 0⟩

def execWaiterRelease (c : Chan) (s : State) : Result :=
  match nextRel c (fun r => !r.isBarrier) s.relQ with
  | none => .next s
  | some r =>
    if !(s.chan c).runs then .next (s.wake (.channel c))
    else
    let s := { s with relQ := dropFirst (c, r) s.relQ }
    match r with
    | .waiter (.command _ k pos) =>
      let s := s.modCmd c.val k.val pos (fun m => { m with phase := .finished })
      .next ((if (s.ctx c.val k.val).longWait then s.endLongWait c.val k.val else s).waitMark c.val k.val)
    | .waiter (.watch _ e) => (match tfind (s.chan c).watches e with
      | none => .next s
      | some w =>
        let s := s.modChan c (fun ch => { ch with watches := tdel ch.watches e })
        .next (w.slices.foldl (fun s sl =>
          ((s.slice sl).watchers (.watch w.obj w.value)).foldl (fun s k => s.bxGo sl k (.watch w.obj w.value)) s) s))
    | .result sl k pos cause =>
      if cause ≠ 0 then .next (s.bxFault sl k pos cause)
      else .next (s.modSlice sl (fun x => if x.bxWait = .result then { x.retire .bx with bxWait := .none } else x))
    | _ => .next s

/-! ## Messages (10 R301 to R304) -/

/-- A message is dropped: counted, and its acknowledgement object signalled with the error bit. -/
def State.dropMail (s : State) (sl : SliceId) (m : Mail) (cause : Nat) : State :=
  let c := slChan sl
  let ch := s.chan c
  let s := if cause = causeStale then (s.modChan c (fun ch => { ch with msgStale := satInc ch.msgStale 0xFFFF })).noteSat ch.msgStale 0xFFFF c
    else (s.modChan c (fun ch => { ch with msgFull := satInc ch.msgFull 0xFFFF })).noteSat ch.msgFull 0xFFFF c
  s.send m.ack (.ack (BitVec.ofNat 8 cause)) (.slice sl m.record m.gen 0 m.tag)

/-- The channel of a slice can dispatch and the slice's bank is ON; both are woken where they are not (13 R349, R350). -/
def State.bankOn (s : State) (sl : SliceId) : Bool := (s.chan (slChan sl)).runs && (s.dom (.bank (chanOf (slChan sl)) (Fin.ofNat 128 (slBank sl)))).steady
def State.wakeBank (s : State) (sl : SliceId) : State :=
  let c := chanOf (slChan sl)
  let s := if (s.chan c).runs then s else s.wake (.channel c)
  s.wake (.bank c (Fin.ofNat 128 (slBank sl)))

def execMessageArrival (sl : SliceId) (s : State) : Result :=
  match s.msgQ.find? (fun m => m.dst = sl) with
  | none => .next s
  | some m =>
    if !s.bankOn sl then .next (s.wakeBank sl)
    else
    let s := { s with msgQ := dropFirst m s.msgQ }
    let x := s.slice sl
    if x.owner ≠ some (m.mail.record, m.mail.gen) then .next (s.dropMail sl m.mail causeStale)
    else if (tfind x.mail m.entry.val).isSome then .next (s.dropMail sl m.mail causeFull)
    else .next (s.modSlice sl (fun x => { x with mail := tput x.mail m.entry.val m.mail }))

/-! ## Long waits (10 R298, 13 R362) -/

/-- BX waits in BX.SWATCH or BX.BAR. -/
def BxWait.long : BxWait → Bool
  | .watch .. => true
  | .bar _ => true
  | _ => false

/-- The LAYER of record `r` at `pos` is suspended on the slice, or waits there in BX.SWATCH or BX.BAR. -/
def SliceSt.longWaits (x : SliceSt) (r pos : Nat) : Bool :=
  (match x.layer with | some l => decide (l.record.val = r ∧ l.pos = pos) && x.bxWait.long | none => false)
    || (match x.shadow with | some f => decide (f.layer.record.val = r ∧ f.layer.pos = pos) && !f.satisfied | none => false)

/-- A command in flight that lets its context wait long. -/
def State.cmdLongWaits (s : State) (r : Nat) (m : Cmd) : Bool :=
  match m.typ with
  | .wait => !m.released
  | .layer => decide (m.todo = [] ∧ m.finished = [] ∧ m.stopped = [] ∧ m.running ≠ []) && m.running.all (fun sl => (s.slice sl).longWaits r m.pos)
  | _ => false

def execLongWait (c : Chan) (r : Rec) (s : State) : Result :=
  let x := s.ctx c r
  if x.longWait || decide (x.waitUs = 0) || decide (x.inflight = []) || !x.inflight.all (s.cmdLongWaits r)
      || decide (s.refCount < x.waitStart + usRef x.waitUs) then .next s
  else
    let s := s.modCtx c r (fun x => { x with longWait := true })
    if s.ledger.lendEn && !s.port.strict then
      let s := s.lend c ((x.inflight.map (·.charge)).foldl (· + ·) 0)
      .next (s.modCtx c r (fun x => { x with inflight := x.inflight.map (fun m => { m with lent := m.charge }) }))
    else .next s

/-! ## Withdrawal (05 R164, R176) -/

/-- Remove what the LAYER of record `r` waits for through BX on a slice: its place in a watch entry, in a combiner and among the
held waits. An entry or combiner left empty frees its waiter slot. -/
def State.withdrawBx (s : State) (sl : SliceId) (r : Rec) (w : BxWait) : State :=
  let c := slChan sl
  match w with
  | .watch o v =>
    let s := s.modChan c (fun ch => { ch with held := ch.held.filter (fun h => match h with | .watch x k _ _ => decide (x ≠ sl ∨ k ≠ r) | _ => true) })
    (match (s.chan c).watches.find? (fun e => decide (e.2.obj = o ∧ e.2.value = v)) with
    | none => s
    | some e =>
      let left := dropFirst sl e.2.slices
      if left ≠ [] then s.modChan c (fun ch => { ch with watches := tput ch.watches e.1 { e.2 with slices := left } })
      else
        let who := WaiterBy.watch (chanOf c) e.1
        let s := s.modChan c (fun ch => { ch with
          watches := tdel ch.watches e.1
          held := ch.held.filter (fun h => match h with | .wait m => decide (m.act ≠ .watch e.1 v ∨ m.obj ≠ o) | _ => true) })
        let s := s.modObj o (fun x => { x with waiters := x.waiters.filter (fun k => k.2.who ≠ who) })
        { s with
          relQ := s.relQ.filter (fun k => k.2 ≠ .waiter who)
          syncQ := s.syncQ.filter (fun m => decide (m.obj ≠ o ∨ m.act ≠ .watch e.1 v ∨ partyChan m.who ≠ c)) })
  | .bar o =>
    let s := s.modChan c (fun ch => ({ ch with held := ch.held.filter (fun h => match h with | .bar a _ => decide (a.sl ≠ sl ∨ a.record ≠ r) | _ => true) }.modCombiner o
      (fun k => { k with waiting := k.waiting.filter (fun x => decide (x.1 ≠ sl ∨ x.2.1 ≠ r)) })).trimCombiners)
    if (s.chan c).combiners.any (fun k => decide (k.obj = o ∧ k.waiting ≠ [])) then s
    else s.modObj o (fun x => { x with waiters := x.waiters.filter (fun k => k.2.who ≠ .combiner (chanOf c)) })
  | _ => s

/-- Remove a WAIT command's place in the queue, at its object or among the held waits. -/
def State.withdrawWait (s : State) (c : Chan) (r : Rec) (pos : Nat) : State :=
  let mine (m : SyncMsg) : Bool := match m.who with | .command d k _ p _ => decide (d = c ∧ k = r ∧ p = pos) | _ => false
  let s := { s with syncQ := s.syncQ.filter (fun m => !mine m) }
  let s := s.modChan c (fun ch => { ch with held := ch.held.filter (fun h => match h with | .wait m => !mine m | _ => true) })
  let drop (x : SyncObj) : SyncObj := { x with waiters := x.waiters.filter (fun k => k.2.who ≠ .command c r pos) }
  { s.modChan c (fun ch => { ch with sync := tmap ch.sync (fun _ => drop) }) with hsync := tmap s.hsync (fun _ => drop) }

end Sys2Proof.Machine
end

