-- ==== Sys2Proof/Machine/Bx.lean ====
section
/-! DEFINITION. The BX engine: loads and stores (06 R197), movement in slice code (09 R268 to R270), synchronisation and messages
(10 R288 to R290, R294, R302, R305). -/

namespace Sys2Proof.Machine

/-! ## Issue -/

/-- What a BX operation comes to: retired, left at the head of the queue, waiting beyond the slice or for a semaphore, faulted. -/
inductive BxOut where
  | done (s : State)
  | again (s : State)
  | hold (s : State) (w : BxWait)
  | wait (s : State) (k : Fin 16) (n : Nat)
  | fault (s : State) (cause detail : Nat)

/-- A payload of the engine's transfer has been asked for again (12 R334). -/
def State.resending (s : State) (p : Cargo → Bool) : Bool := s.chans.any (fun e => e.2.chk.resend.any (fun r => p r.2))

/-- Issue an operation of BX, once no payload of its is asked for again. -/
def State.runBx (s : State) (sl : SliceId) (f : State → SliceSt → LayerRun → BxOut) : State :=
  if s.resending (· = .slice sl .bx) then s else
  match s.issueAt sl .bx with
  | .no s => s
  | .go x l =>
    match f (s.putSlice sl x) x l with
    | .done t => t.modSlice sl (·.retire .bx)
    | .again t => t
    | .hold t w => (t.modSlice sl (fun y => { t.waitsFrom sl y with bxWait := w })).waitMark (slChan sl) l.record.val
    | .wait t k n => t.await sl (t.slice sl) .bx k n
    | .fault t c d => t.sliceFault sl .bx c d

/-- An operation of BX whose read of its slice's scratchpad meets bad parity (12 R335, log 93). -/
def bxParity (parity : Option Storage) (sl : SliceId) (f : State → SliceSt → LayerRun → BxOut) (s : State) (x : SliceSt) (l : LayerRun) : BxOut :=
  match parity with
  | some k => .fault (s.parityErr (slChan sl) l.tag 1) causeDataCheck (parityDetail k)
  | none => f s x l

/-- Run a movement whose accesses are these once every bank of theirs serves it; channels that sleep are woken meanwhile (02 R50, R53; 13
R350). -/
def State.moved (s : State) (reads writes : List (Nat × Nat)) (f : State → BxOut) : BxOut :=
  if s.banksServe (reads ++ writes) then f (s.touch reads writes) else .again (s.wakeFor (reads ++ writes))

def LayerRun.writer (l : LayerRun) (sl : SliceId) : Writer := .cmd l.tag (slChan sl) l.record.val l.gen
def LayerRun.party (l : LayerRun) (sl : SliceId) : Party := .slice sl l.record l.gen l.pos l.tag

/-! ## Column slots of the slice's own bank port (06 R172 counter 2, 09 Table 11) -/

/-- Accesses merged into runs. -/
def spans : List (Nat × Nat) → List (Nat × Nat)
  | [] => []
  | (a, n) :: r => match spans r with
    | (b, m) :: q => if a + n = b then (a, n + m) :: q else (a, n) :: (b, m) :: q
    | [] => [(a, n)]

def beats (a n : Nat) : Nat := if n = 0 then 0 else (a + n - 1) / 16 + 1 - a / 16

/-- Column cycles of reads, and of writes with one more for each block written in part, at the slice's own bank. -/
def portSlots (sl : SliceId) (reads writes : List (Nat × Nat)) : Nat :=
  let own (e : Nat × Nat) : Bool := decide (offChan e.1 = slChan sl ∧ offBank e.1 = slBank sl)
  let sum (l : List Nat) : Nat := l.foldl (· + ·) 0
  sum (((spans reads).filter own).map (fun e => beats e.1 e.2))
    + sum (((spans writes).filter own).map (fun e => beats e.1 e.2 + ((splitBlocks e.1 e.2).filter (fun p => decide (p.2 < 64))).length))

/-! ## BX.LD and BX.ST (06 R197) -/

def widthBytes (k : Fin 5) : Nat := [2, 4, 8, 16, 64].getD k.val 2

def moveBase (x : SliceSt) (m : BxMove) : Nat := (x.arI .bx m.dreg).toNat * 256 + m.doff.val

/-- The data offset of iteration indexes. -/
def moveAddr (x : SliceSt) (m : BxMove) (idx : List Nat) : Int := moveBase x m + strideSum idx m.dstrides

/-- The fault an access of `w` bytes at `a` meets before it moves: outside the data range, in an offline channel, or, in a strict
context, without a slot between the banks. -/
def State.moveFault (s : State) (sl : SliceId) (l : LayerRun) (a : Int) (w : Nat) (load : Bool) : Option (Nat × Nat) :=
  if a < 0 ∨ 2 ^ 40 < a + w then some (causeRange, dataDetail (wrapNat a 40))
  else
    let n := a.toNat
    let mine := slChan sl * 128 + slBank sl
    let there := offChan n * 128 + offBank n
    if (s.chan (offChan n)).offline || (l.strict && !(if load then s.pairOk there mine else s.pairOk mine there)) then
      some (causeRange, dataDetail n) else none

/-- The data operand's base or strides break the access width. -/
def moveAligned (x : SliceSt) (m : BxMove) : Bool :=
  let w := widthBytes m.wcode
  decide (moveBase x m % w = 0) && m.dstrides.all (fun d => decide (d % (w : Int) = 0))

def moveOpd (m : BxMove) (out : Bool) : Opd := ⟨m.scr, out, true⟩

/-- The accesses of the iterations not yet issued, up to the first that faults. -/
def State.moveAccesses (s : State) (sl : SliceId) (l : LayerRun) (x : SliceSt) (m : BxMove) (cs : List Nat) (load : Bool) : List (Nat × Nat) :=
  let w := widthBytes m.wcode
  let pos := (x.eng .bx).loopPos
  (((upFrom pos (cs.foldl (· * ·) 1 - pos)).map (fun i => moveAddr x m (idxVec cs i))).takeWhile (fun a => (s.moveFault sl l a w load).isNone)).map
    (fun a => (a.toNat, w))

/-- One iteration of a load; the addresses read are carried along. -/
def State.loadBody (s : State) (sl : SliceId) (l : LayerRun) (m : BxMove) (cs : List Nat) : Body (List Nat) := fun y acc ps i =>
  let w := widthBytes m.wcode
  let a := moveAddr y m (idxVec cs i)
  let p := ps.headD ⟨none, 0⟩
  match s.moveFault sl l a w true with
  | some e => .error e
  | none => do
    checkFits [(p, w)]
    let bs ← s.cmdRead a.toNat w
    .ok (y.wrAt p bs, acc ++ [a.toNat])

/-- One iteration of a store; the writes it makes are carried along. The iteration `stop` faults. -/
def State.storeBody (s : State) (sl : SliceId) (l : LayerRun) (m : BxMove) (cs : List Nat) (stop : Option (Nat × MoveErr)) : Body (List (Nat × List Byte)) := fun y acc ps i =>
  let w := widthBytes m.wcode
  let a := moveAddr y m (idxVec cs i)
  let p := ps.headD ⟨none, 0⟩
  match (stop.filter (fun e => e.1 = i)).map (fun e => (e.2.cause, e.2.detail)), s.moveFault sl l a w false with
  | some e, _ => .error e
  | none, some e => .error e
  | none, none => do
    checkFits [(p, w)]
    if s.hostOwned (a.toNat / 64) then .error (causePlain, dataDetail a.toNat)
    else .ok (y, acc ++ [(a.toNat, y.rdAt p w)])

/-- A read failure behind a DATA_CHECK is logged. -/
def State.noteErr (s : State) (e : MoveErr) (tag : W32) : State :=
  if e.cause = causeDataCheck then s.readFail (e.addr / 64) e.src tag else s

def loadOp (sl : SliceId) (m : BxMove) (s : State) (x : SliceSt) (l : LayerRun) : BxOut :=
  let w := widthBytes m.wcode
  if !moveAligned x m then .fault s causeAlign (dataDetail (moveBase x m))
  else
    let cs := (x.counts .bx m.lp).getD []
    s.moved (s.moveAccesses sl l x m cs true) [] fun s =>
    let x := s.slice sl
    let fin (y : SliceSt) (acc : List Nat) : State := (s.putSlice sl y).perfAdd sl 2 (portSlots sl (acc.map (fun a => (a, w))) [])
    match runLoop x l .bx m.lp [moveOpd m true] [⟨moveOpd m true, w, []⟩] [] (s.loadBody sl l m cs) with
    | .done y acc => .done (fin y acc)
    | .wait y acc k n => .wait (fin y acc) k n
    | .fault y acc c d =>
      let a := (moveAddr x m (idxVec cs ((x.eng .bx).loopPos + acc.length))).toNat
      .fault ((fin y acc).noteErr ⟨c, d, a, 1⟩ l.tag) c d

def storeOp (sl : SliceId) (m : BxMove) (s : State) (x : SliceSt) (l : LayerRun) : BxOut :=
  if !moveAligned x m then .fault s causeAlign (dataDetail (moveBase x m))
  else
    let cs := (x.counts .bx m.lp).getD []
    s.moved [] (s.moveAccesses sl l x m cs false) fun s =>
    let x := s.slice sl
    let run (stop : Option (Nat × MoveErr)) := runLoop x l .bx m.lp [moveOpd m false] [⟨moveOpd m false, widthBytes m.wcode, []⟩] [] (s.storeBody sl l m cs stop)
    let write (y : SliceSt) (acc : List (Nat × List Byte)) : State × Option MoveErr := (s.putSlice sl y).moveWrite ⟨⟨sl, 0⟩, l.writer sl, l.tag⟩ false acc
    let fin (y : SliceSt) (acc : List (Nat × List Byte)) : State :=
      (write y acc).1.perfAdd sl 2 (portSlots sl [] (acc.map (fun e => (e.1, e.2.length))))
    -- the first iteration whose write fails is one that faults, before it takes or returns any queue entry
    let first (y : SliceSt) (acc : List (Nat × List Byte)) : Option (Nat × MoveErr) :=
      (write y acc).2.map (fun e => ((x.eng .bx).loopPos + acc.findIdx (fun w => decide (w.1 / 64 ≤ e.addr / 64 ∧ e.addr / 64 ≤ (w.1 + w.2.length - 1) / 64)), e))
    let stop := match run none with | .done y acc => first y acc | .wait y acc _ _ => first y acc | .fault y acc _ _ => first y acc
    match run stop with
    | .done y acc => .done (fin y acc)
    | .wait y acc k n => .wait (fin y acc) k n
    | .fault y acc c d => .fault (match stop with | some (_, e) => (fin y acc).noteErr e l.tag | none => fin y acc) c d

def execBxLd (sl : SliceId) (m : BxMove) (s : State) : Result :=
  if m.ok then .next (s.runBx sl (loadOp sl m)) else .refused (.noEncoding "BX_LD")

def execBxSt (sl : SliceId) (m : BxMove) (s : State) (parity : Option Storage := none) : Result :=
  if m.ok then .next (s.runBx sl (bxParity parity sl (storeOp sl m))) else .refused (.noEncoding "BX_ST")

/-! ## Movement by descriptor (09 R268 to R270) -/

/-- The fault in place of an admission cause (R269). -/
def execCause (k : Nat) : Nat := if k = 9 then causeAlign else if k = 10 then causePlain else causeRange

/-- Parse and check descriptor bytes `bs` named at a scratchpad address: the bytes and what they say. FP64 work needs uses_fp64 (08 R240). -/
def State.bxDescOf (s : State) (sl : SliceId) (x : SliceSt) (l : LayerRun) (t : CmdType) (n : Nat) (desc : ScrAddr) (ord : Nat) (bs : List Byte) :
    Except (Nat × Nat) (List Byte × Desc) :=
  let a := x.baseOf .bx desc
  if a % 8 ≠ 0 then .error (causeAlign, scrDetail a)
  else if 0x8000 < a + n then .error (causeRange, scrDetail a)
  else
    match parseDesc t bs with
    | none => .error (causeRange, scrDetail a)
    | some d =>
      let bad64 : Bool := match d with | .gather g => g.fp64 && decide (g.reduce = .sum) && !l.fp64 | _ => false
      match (s.descCauses l.strict true [⟨sl, ord⟩] [] d).min? with
      | some k => .error (execCause k, scrDetail a)
      | none => if bad64 then .error (causeRange, scrDetail a) else .ok (bs, d)

/-- The descriptor of an operation, read from the scratchpad as it issues (R268). -/
def State.bxDesc (s : State) (sl : SliceId) (x : SliceSt) (l : LayerRun) (t : CmdType) (n : Nat) (desc : ScrAddr) (ord : Nat) :
    Except (Nat × Nat) (List Byte × Desc) :=
  s.bxDescOf sl x l t n desc ord (rdN x.scratch (x.baseOf .bx desc) n)

def LayerRun.mover (l : LayerRun) (sl : SliceId) (ord : Nat) : Mover := ⟨⟨sl, ord⟩, l.writer sl, l.tag⟩

/-- Points `first` to `first + n - 1` of a copy: all its reads, then its writes. -/
def State.runCopy (s : State) (m : Mover) (d : CopyD) (first n : Nat) : State × Option MoveErr :=
  match s.copyRead m d first n with
  | .error e => (s, some e)
  | .ok ws => s.moveWrite m d.dst.scr ws

/-- Data addresses points of a copy read and write. -/
def CopyD.accesses (d : CopyD) (p : Perf) (first n : Nat) : List (Nat × Nat) × List (Nat × Nat) :=
  let pts := (upFrom first n).map (d.point p)
  (if d.src.scr then [] else pts.filterMap (fun q => q.2.map (fun b => (b, d.src.w))),
   if d.dst.scr then [] else pts.filterMap (fun q => if q.2.isSome || d.writePad then some (q.1, d.dst.w) else none))

/-- A movement of the slice ends: its staging area is left undefined, its port slots are counted, its failure logged. -/
def moveEnd (sl : SliceId) (l : LayerRun) (r : State × Option MoveErr) (slots : Nat) : BxOut :=
  match r.2 with
  | some e => .fault (r.1.noteErr e l.tag) e.cause e.detail
  | none => .done (r.1.perfAdd sl 2 slots)

def copyOp (sl : SliceId) (desc : ScrAddr) (o : AReg) (s : State) (x : SliceSt) (l : LayerRun) : BxOut :=
  match s.bxDesc sl x l .copy 184 desc (x.arI .bx o).toNat with
  | .ok (_, .copy d) =>
    let m := l.mover sl (x.arI .bx o).toNat
    let acc := d.accesses m.p 0 d.dst.points
    s.moved acc.1 acc.2 fun s =>
    let r := s.runCopy m d 0 d.dst.points
    moveEnd sl l (if d.staged then r.1.scrubStage sl d else r.1, r.2) (portSlots sl acc.1 acc.2)
  | .ok _ => .fault s causeRange (scrDetail (x.baseOf .bx desc))
  | .error e => .fault s e.1 e.2

def execBxCopy (sl : SliceId) (desc : ScrAddr) (o : AReg) (s : State) (parity : Option Storage := none) : Result :=
  .next (s.runBx sl (bxParity parity sl (copyOp sl desc o)))

def fillOp (sl : SliceId) (desc : ScrAddr) (o : AReg) (s : State) (x : SliceSt) (l : LayerRun) : BxOut :=
  match s.bxDesc sl x l .fill 72 desc (x.arI .bx o).toNat with
  | .ok (_, .fill v t) =>
    let ws := fillWrites v t 0 t.points
    let acc := if t.scr then [] else ws.map (fun e => (e.1, e.2.length))
    s.moved [] acc fun s => moveEnd sl l (s.moveWrite (l.mover sl 0) t.scr ws) (portSlots sl [] acc)
  | .ok _ => .fault s causeRange (scrDetail (x.baseOf .bx desc))
  | .error e => .fault s e.1 e.2

def execBxFill (sl : SliceId) (desc : ScrAddr) (o : AReg) (s : State) (parity : Option Storage := none) : Result :=
  .next (s.runBx sl (bxParity parity sl (fillOp sl desc o)))

/-- Rows and results an item moves at the banks: its row reads, each a run, and its writes (Table 11). -/
def State.itemAccesses (s : State) (m : Mover) (d : GatherD) (t : Nat) : List (Nat × Nat) × List (Nat × Nat) :=
  let row (b k lo n : Nat) : List (Nat × Nat) := match s.gatherIndex m d b k with
    | .ok (some i) => [(d.rowAddr i + lo, n)]
    | _ => []
  let reads := match d.reduce with
    | .none => row (t / d.bagLen) (t % d.bagLen) 0 d.rowBytes
    | _ =>
      let c := t % d.chunks
      let fb := fmtBytes d.fin
      let lo := c * d.chunkLen
      let (first, n) := Sys2Proof.Machine.share (t / d.chunks % d.split) d.split d.bagLen
      (upFrom first n).flatMap (fun k => row (t / d.chunks / d.split) k (lo * fb) (min d.chunkLen (d.elems - lo) * fb))
  (reads, if d.outScr then [] else (((s.itemWrites m d t).toOption).getD []).map (fun e => (e.1, e.2.length)))

/-- Index and weight words that an item reads from data. -/
def GatherD.indexReads (d : GatherD) (t : Nat) : List (Nat × Nat) :=
  let (k, n) := match d.reduce with
    | .none => (t, 1)
    | _ =>
      let (first, n) := Sys2Proof.Machine.share (t / d.chunks % d.split) d.split d.bagLen
      (t / d.chunks / d.split * d.bagLen + first, n)
  (if d.idxScr then [] else [(d.idxBase + 4 * k, 4 * n)]) ++ (if d.reduce = .wsum ∧ d.wtScr = false then [(d.wtBase + 4 * k, 4 * n)] else [])

/-- What items `first` to `first + n - 1` read and write at banks. -/
def State.itemsAccesses (s : State) (m : Mover) (d : GatherD) (first n : Nat) : List (Nat × Nat) × List (Nat × Nat) :=
  let l := (upFrom first n).map (s.itemAccesses m d)
  ((upFrom first n).flatMap d.indexReads ++ l.flatMap (·.1), l.flatMap (·.2))

def State.itemSlots (s : State) (m : Mover) (d : GatherD) (t : Nat) : Nat :=
  let a := s.itemAccesses m d t
  portSlots m.p.sl a.1 a.2

/-- The balanced pool `k` of a command: its next item, once its descriptor is `bs`; none when another descriptor fixed it. -/
def Cmd.pool (m : Cmd) (k : Nat) (bs : List Byte) : Option Nat :=
  match m.pools[k]? with
  | none => some 0
  | some (ds, t) => if ds = bs then some t else none

def Cmd.setPool (m : Cmd) (k : Nat) (bs : List Byte) (t : Nat) : Cmd :=
  { m with pools := if k < m.pools.length then m.pools.set k (bs, t) else m.pools ++ [(bs, t)] }

/-- The bytes of a GATHER's descriptor: those the slice took its first item with, else the scratchpad's (R268, R270). DEDUCED, log 84. -/
def State.gatherBytes (s : State) (sl : SliceId) (x : SliceSt) (l : LayerRun) (desc : ScrAddr) : List Byte :=
  let bs := rdN x.scratch (x.baseOf .bx desc) 80
  if (x.eng .bx).loopPos = 0 then bs
  else match s.cmd (slChan sl) l.record.val l.pos with
    | none => bs
    | some m => match m.pools[l.pools]? with
      | none => bs
      | some (ds, _) => ds

/-- A balanced gather takes one item of the LAYER's pool each time it comes about, and retires when the pool is empty (R267, R270). -/
def gatherOp (sl : SliceId) (desc : ScrAddr) (s : State) (x : SliceSt) (l : LayerRun) : BxOut :=
  let c := slChan sl
  let bad := scrDetail (x.baseOf .bx desc)
  match s.bxDescOf sl x l .gather 80 desc 0 (s.gatherBytes sl x l desc) with
  | .ok (bs, .gather d) =>
    let m := l.mover sl 0
    if !d.balance then
      let acc := s.itemsAccesses m d 0 d.items
      s.moved acc.1 acc.2 fun s => moveEnd sl l (s.runItems m d 0 d.items) ((upFrom 0 d.items).foldl (fun n t => n + s.itemSlots m d t) 0)
    else
      match s.cmd c l.record.val l.pos with
      | none => .again s
      | some k => match k.pool l.pools bs with
        | none => .fault s causeRange bad
        | some t =>
          if d.items ≤ t then
            .done ((s.modCmd c l.record.val l.pos (·.setPool l.pools bs t)).modSlice sl (fun y => { y with
              layer := y.layer.map (fun l => { l with pools := l.pools + 1 }) }))
          else
            s.moved (s.itemsAccesses m d t 1).1 (s.itemsAccesses m d t 1).2 fun s =>
            let u := s.modCmd c l.record.val l.pos (·.setPool l.pools bs (t + 1))
            (match moveEnd sl l (u.runItem m d t) (s.itemSlots m d t) with
            | .done v => .again (v.modSlice sl (fun y => y.modEng .bx (fun g => { g with loopPos := 1 })))
            | r => r)
  | .ok _ => .fault s causeRange bad
  | .error e => .fault s e.1 e.2

def execBxGather (sl : SliceId) (desc : ScrAddr) (s : State) (parity : Option Storage := none) : Result :=
  .next (s.runBx sl (bxParity parity sl (gatherOp sl desc)))

/-! ## Messages (10 R301, R302, R305) -/

/-- A slice of channel `c` lies in a selection. -/
def inSel (c : Nat) (sel : W32) (sl : Nat) : Bool :=
  decide (sl / 2048 = c ∧ (selBanks sel).1 ≤ sl / 16 % 128 ∧ sl / 16 % 128 < (selBanks sel).1 + (selBanks sel).2) && sel.getLsbD (16 + sl % 16)

/-- A 64-byte scratchpad operand: its address, or the fault it meets. -/
def block64 (x : SliceSt) (a : ScrAddr) : Except (Nat × Nat) Nat :=
  let n := x.baseOf .bx a
  if n % 64 ≠ 0 then .error (causeAlign, scrDetail n) else if 0x8000 < n + 64 then .error (causeRange, scrDetail n) else .ok n

/-- The object a virtual ID names for the running LAYER, or EXEC_RANGE (R279). -/
def State.layerObj (s : State) (sl : SliceId) (l : LayerRun) (v : Nat) : Except (Nat × Nat) ObjRef :=
  match (s.ctx (slChan sl) l.record.val).vobj (chanOf (slChan sl)) v with
  | some o => .ok o
  | none => .error (causeRange, 0)

def sendOp (sl : SliceId) (d : AReg) (entry : Fin 16) (src : ScrAddr) (ack : Fin 256) (s : State) (x : SliceSt) (l : LayerRun) : BxOut :=
  let to_ := (x.arI .bx d).toNat
  let r : Except (Nat × Nat) Msg := do
    let o ← s.layerObj sl l ack.val
    if to_ < 2 ^ 20 ∧ inSel (slChan sl) (s.ctx (slChan sl) l.record.val).sliceSet to_ then .ok () else .error (causeRange, 0)
    let a ← block64 x src
    .ok ⟨BitVec.ofNat 20 to_, entry, ⟨rdN x.scratch a 64, l.record, l.gen, o, l.tag⟩, l.party sl⟩
  match r with
  | .error e => .fault s e.1 e.2
  | .ok m => .done ({ s with msgQ := s.msgQ ++ [m] }.stir (.bank (chanOf (slChan m.dst)) (Fin.ofNat 128 (slBank m.dst))))

def execBxSend (sl : SliceId) (d : AReg) (entry : Fin 16) (src : ScrAddr) (ack : Fin 256) (s : State) (parity : Option Storage := none) : Result :=
  .next (s.runBx sl (bxParity parity sl (sendOp sl d entry src ack)))

/-- The message's own acknowledgement object is signalled (R302, log 22). -/
def recvOp (sl : SliceId) (entry : Fin 16) (dst : ScrAddr) (ack : Fin 256) (s : State) (x : SliceSt) (l : LayerRun) : BxOut :=
  let r : Except (Nat × Nat) Nat := do
    let _ ← s.layerObj sl l ack.val
    block64 x dst
  match r with
  | .error e => .fault s e.1 e.2
  | .ok a => match tfind x.mail entry.val with
    | none => .hold s (.recv entry)
    | some m =>
      .done ((s.modSlice sl (fun y => { y with scratch := wrL y.scratch a m.data, mail := tdel y.mail entry.val })).send m.ack (.ack 0) (l.party sl))

/-- BX in BX.RECV looks at its entry again. -/
def State.recvAgain (s : State) (sl : SliceId) (entry : Fin 16) : State :=
  let x := s.slice sl
  if x.bxWait = .recv entry ∧ ({ x with bxWait := .none } : SliceSt).canIssue .bx then s.putSlice sl { x with bxWait := .none } else s

def execBxRecv (sl : SliceId) (entry : Fin 16) (dst : ScrAddr) (ack : Fin 256) (s : State) : Result :=
  .next ((s.recvAgain sl entry).runBx sl (recvOp sl entry dst ack))

/-! ## Synchronisation (10 R288, R290, R294) -/

/-- Every message and sync operation the slice issued has been performed; its writes are performed as they issue (R290). -/
def State.sliceClear (s : State) (sl : SliceId) : Bool :=
  let mine (p : Party) : Bool := match p with | .slice x .. => decide (x = sl) | _ => false
  !s.msgQ.any (fun m => mine m.src) && !s.syncQ.any (fun m => mine m.who)

def amount32 (x : SliceSt) : RegImm32 → W32
  | .reg a => x.arI .bx a
  | .imm i => i

/-- BX.SSIG and BX.SSUB hold BX until the result returns. -/
def changeOp (sl : SliceId) (v : Fin 256) (n : RegImm32) (sig : Bool) (s : State) (x : SliceSt) (l : LayerRun) : BxOut :=
  match s.layerObj sl l v.val with
  | .error e => .fault s e.1 e.2
  | .ok o =>
    let k := amount32 x n
    if k = 0 then .fault s causeRange 0
    else if sig && !s.sliceClear sl then .again s
    else .hold (s.send o (if sig then .signal k else .subtract k) (l.party sl)) .result

def execBxSsig (sl : SliceId) (vsync : Fin 256) (amount : RegImm32) (s : State) : Result :=
  if amount = .imm 0 then .refused (.noEncoding "BX_SSIG") else .next (s.runBx sl (changeOp sl vsync amount true))

def execBxSsub (sl : SliceId) (vsync : Fin 256) (amount : RegImm32) (s : State) : Result :=
  if amount = .imm 0 then .refused (.noEncoding "BX_SSUB") else .next (s.runBx sl (changeOp sl vsync amount false))

def watchOp (sl : SliceId) (v : Fin 256) (n : RegImm32) (s : State) (x : SliceSt) (l : LayerRun) : BxOut :=
  match s.layerObj sl l v.val with
  | .error e => .fault s e.1 e.2
  | .ok o => .hold (s.joinWatch sl l.record o (amount32 x n)) (.watch o (amount32 x n))

def execBxSwatch (sl : SliceId) (vsync : Fin 256) (value : RegImm32) (s : State) : Result := .next (s.runBx sl (watchOp sl vsync value))

def barOp (sl : SliceId) (v : Fin 256) (s : State) (_ : SliceSt) (l : LayerRun) : BxOut :=
  match s.layerObj sl l v.val with
  | .error e => .fault s e.1 e.2
  | .ok o => if s.sliceClear sl then .hold (s.joinBar ⟨sl, l.record, l.gen, l.pos, l.tag⟩ o) (.bar o) else .again s

def execBxBar (sl : SliceId) (vsync : Fin 256) (s : State) : Result := .next (s.runBx sl (barOp sl vsync))

end Sys2Proof.Machine
end

