-- ==== Sys2Proof/Machine/Code.lean ====
section
/-! DEFINITION. Code objects: the container of 05 Table 9 and the walk of 05 R162. -/

namespace Sys2Proof.Machine

/-- A section: offset in the object, size and kind. -/
structure Section where
  off : Nat
  size : Nat
  kind : Nat
deriving DecidableEq, Repr

/-- A code object at byte `base` of the code store. An entry names per engine a section index and a start offset in bytes. -/
structure CodeObj where
  base : Nat
  size : Nat
  sections : List Section
  entries : List (List (Nat × Nat))
  fp64 : Bool
  balance : Bool
  digest : List Byte
deriving DecidableEq, Repr

def codeMagic : Nat := 0x4E394F42

/-- The object whose header stands at `base`, as its fields spell it. -/
def readObj (code : Memory) (base : Nat) : CodeObj :=
  let le (a n : Nat) : Nat := leNat (rdN code (base + a) n)
  let ns := le 12 2
  let ne := le 14 2
  let tab := 64 + 48 * ns
  ⟨base, le 8 4, (upFrom 0 ns).map (fun i => ⟨le (64 + 48 * i) 4, le (68 + 48 * i) 4, le (72 + 48 * i) 2⟩),
    (upFrom 0 ne).map (fun i => (upFrom 0 4).map (fun e => (le (tab + 16 * i + 4 * e) 1, le (tab + 16 * i + 4 * e + 1) 3 * 64))),
    bitAt (le 18 2) 0, bitAt (le 18 2) 1, rdN code (base + 24) 32⟩

/-- Sections `a` and `b` share no byte. -/
def Section.apart (a b : Section) : Bool := decide (a.size = 0 ∨ b.size = 0 ∨ a.off + a.size ≤ b.off ∨ b.off + b.size ≤ a.off)

/-- The header and tables meet R162 within the code set, which ends at byte `limit`. -/
def objOk (code : Memory) (limit base : Nat) : Bool :=
  let le (a n : Nat) : Nat := leNat (rdN code (base + a) n)
  let o := readObj code base
  let ns := o.sections.length
  let ne := o.entries.length
  let head := 64 + 48 * ns + 16 * ne
  decide (le 4 2 = 1 ∧ le 6 2 = 9 ∧ o.size % 64 = 0 ∧ 256 ≤ o.size ∧ o.size ≤ 262144 ∧ 1 ≤ ns ∧ ns ≤ 16 ∧ 1 ≤ ne ∧ ne ≤ 64
      ∧ le 16 2 = 1 ∧ le 18 2 < 4 ∧ le 20 4 = 0 ∧ le 56 8 = 0 ∧ head ≤ o.size ∧ base + head ≤ limit ∧ base + o.size ≤ 262144)
    && (upFrom 0 ns).all (fun i => decide (1 ≤ le (72 + 48 * i) 2 ∧ le (72 + 48 * i) 2 ≤ 5 ∧ le (74 + 48 * i) 2 = 0 ∧ le (76 + 48 * i) 4 = 0))
    && o.sections.all (fun x => decide (x.off + x.size ≤ o.size ∧ base + x.off + x.size ≤ limit ∧ head ≤ x.off ∧ x.off % 64 = 0))
    && (upFrom 0 ns).all (fun i => (upFrom 0 i).all (fun j => match o.sections[i]?, o.sections[j]? with | some a, some b => a.apart b | _, _ => true))
    && o.entries.all (fun es => (upFrom 0 4).all (fun e => match es[e]? with
      | some (x, start) => decide (x = 0xFF) || (match o.sections[x]? with | some c => decide (c.kind = e + 1 ∧ start < c.size) | none => false)
      | none => true))

/-- The section digests and the object digest are those of the bytes they cover. -/
def digestsOk (code : Memory) (base : Nat) : Bool :=
  let o := readObj code base
  decide (shake256 (rdN code (base + 64) (o.size - 64)) = o.digest)
    && (upFrom 0 o.sections.length).all (fun i => match o.sections[i]? with
      | some x => decide (shake256 (rdN code (base + x.off) x.size) = rdN code (base + 80 + 48 * i) 32)
      | none => true)

/-- The walk over a code set from page `p` to page `stop`: the objects met, or none at an invalid one. `full` also checks digests,
which a mapped page keeps (R163). -/
def walk (code : Memory) (full : Bool) (stop : Nat) : Nat → Nat → Option (List CodeObj)
  | 0, _ => some []
  | n + 1, p =>
    let base := p * 4096
    if stop ≤ p ∨ leNat (rdN code base 4) ≠ codeMagic then some []
    else if objOk code (stop * 4096) base && (!full || digestsOk code base) then
      let o := readObj code base
      (walk code full stop n (p + (o.size + 4095) / 4096)).map (fun os => o :: os)
    else none

/-- The objects of a code set, once CAST_ON has found it valid. -/
def codeSet (code : Memory) (first count : Nat) : List CodeObj := (walk code false (first + count) 64 first).getD []

/-- The section an entry names for engine `e`: its first byte, its end and the start, in the code store. -/
def CodeObj.program (o : CodeObj) (entry e : Nat) : Option (Nat × Nat × Nat) := do
  let es ← o.entries[entry]?
  let (x, start) ← es[e]?
  let c ← (if x = 0xFF then none else o.sections[x]?)
  some (o.base + c.off, o.base + c.off + c.size, o.base + c.off + start)

/-- The lines a strict LAYER pins (06 R180): section by section, at most 128, each once. -/
def CodeObj.lines (o : CodeObj) (entry : Nat) : List Nat :=
  (upFrom 0 4).foldl (fun ls e => match o.program entry e with
    | some (lo, hi, _) => (upFrom (lo / 64) ((hi + 63) / 64 - lo / 64)).foldl (fun ls k => if ls.contains k then ls else ls ++ [k]) ls
    | none => ls) []

end Sys2Proof.Machine
end

