-- ==== Sys2Proof/Machine/Command.lean ====
section
/-! DEFINITION. Commands: their layout (05 R153, R154), format rules, provenance lists (11 R319) and admission (05 R155 to R157,
Table 7). A cause of rule n has code n, so the least cause is the first check that fails. -/

namespace Sys2Proof.Machine

/-! ## Layout (05 Tables 3 to 6) -/

def cmdTypes : List CmdType :=
  [.castOn, .layer, .patch, .copy, .fill, .gather, .signal, .wait, .fence, .digest, .abort, .bindOff, .hint]

/-- A type code, 1 to 13. -/
def typeOf (n : Nat) : Option CmdType := if n = 0 then none else cmdTypes[n - 1]?

def typeCode (t : CmdType) : Nat := (cmdTypes.findIdx (fun u => u = t)) + 1

/-- Size in units of 32 bytes that a header spells: below 2 counts as 2, above 9 as 9 (R149). -/
def sizeOf_ (control : Nat) : Nat := max 2 (min 9 (bits control 7 4))

def control (raw : List Byte) : Nat := leAt raw 0 8
def predicate (raw : List Byte) : Nat := leAt raw 8 8
def cmdTag (raw : List Byte) : W32 := BitVec.ofNat 32 (leAt raw 4 4)
def flagAddr (raw : List Byte) : Nat := leAt raw 16 5
def digestAddr (raw : List Byte) : Nat := leAt raw 24 5
def cflag (raw : List Byte) : Bool := bitAt (control raw) 12
def wantsDigest (raw : List Byte) : Bool := bitAt (control raw) 13
def powerClass (raw : List Byte) : Nat := bits (control raw) 11 8

/-- Body bits [hi:lo]. -/
def bodyF (raw : List Byte) (hi lo : Nat) : Nat := bits (leAt raw 32 24) hi lo

/-- Inline data, bytes 56 to 32z - 9. -/
def inlineData (raw : List Byte) : List Byte := (raw.drop 56).take (raw.length - 64)

/-- The slice selection of a body. -/
def cmdSel (raw : List Byte) : W32 := BitVec.ofNat 32 (bodyF raw 31 0)

def zeroBits (v hi lo : Nat) : Bool := decide (bits v hi lo = 0)

/-- The predicate word's own rules (Table 4). -/
def predicateOk (raw : List Byte) : Bool :=
  let p := predicate raw
  zeroBits p 7 3 && zeroBits p 31 24 && (match bits p 1 0 with
    | 0 => zeroBits p 23 8 && zeroBits p 63 32
    | 1 => zeroBits p 23 18
    | 2 => zeroBits p 15 8 && zeroBits p 63 32
    | _ => false)

/-- Does the command take inline data? -/
def inlineAllowed (t : CmdType) (raw : List Byte) : Bool :=
  match t with
  | .layer => bodyF raw 44 44 = 0
  | .patch => true
  | .copy | .fill | .gather | .digest => bodyF raw 32 32 = 0
  | _ => false

/-- The body's fields lie in their ranges and its other bits are zero (Table 6). -/
def bodyOk (t : CmdType) (raw : List Byte) : Bool :=
  let z (hi lo : Nat) : Bool := decide (bodyF raw hi lo = 0)
  let inl := (inlineData raw).length
  match t with
  | .castOn =>
    selOk (cmdSel raw) && decide (bodyF raw 44 38 ≤ 64 ∧ bodyF raw 37 32 + bodyF raw 44 38 ≤ 64) && z 47 45 && decide (bodyF raw 62 55 ≤ 128) && z 63 63
      && decide (bodyF raw 85 77 ≤ 256 ∧ bodyF raw 62 55 + bodyF raw 85 77 ≤ 256) && z 95 88 && decide (bodyF raw 115 96 ≤ 600000) && z 191 116
  | .layer =>
    selOk (cmdSel raw) && decide (bodyF raw 57 51 ≤ 64 ∧ bodyF raw 50 45 + bodyF raw 57 51 ≤ 64)
      && (decide (bodyF raw 44 44 = 1) || decide (bodyF raw 57 51 ≤ 56 ∧ 4 * bodyF raw 57 51 ≤ inl)) && z 63 58 && z 191 104
  | .patch =>
    selOk (cmdSel raw) && decide (1 ≤ bodyF raw 35 32 ∧ bodyF raw 35 32 ≤ 14 ∧ 16 * bodyF raw 35 32 ≤ inl) && z 191 36
      && (upFrom 0 (bodyF raw 35 32)).all (fun i => zeroBits (leAt (inlineData raw) (16 * i + 8) 4) 31 6)
  | .copy | .fill | .gather | .digest =>
    (decide (t = .digest) || selOk (cmdSel raw)) && decide (bodyF raw 43 33 % 8 = 0 ∧ 8 ≤ bodyF raw 43 33 ∧ bodyF raw 43 33 ≤ 1024)
      && (decide (bodyF raw 32 32 = 1) || decide (bodyF raw 43 33 ≤ inl)) && z 47 44 && z 191 88
  | .signal => z 31 8 && decide (bodyF raw 63 32 ≠ 0) && z 191 64
  | .wait => z 31 9 && z 191 64
  | .fence => decide (bodyF raw 1 0 = 2 ∨ bodyF raw 1 0 = 3) && z 191 2
  | .hint => z 7 4 && z 31 14 && z 191 64
  | .abort | .bindOff => z 191 0

/-- Rule 1 on the command's own bytes: its type, or none when malformed. -/
def formatType (raw : List Byte) : Option CmdType := do
  let t ← typeOf (bits (control raw) 3 0)
  let size := bits (control raw) 7 4
  let hasDigest := match t with | .layer | .copy | .gather | .digest => true | _ => false
  if 2 ≤ size ∧ size ≤ 9 ∧ raw.length = 32 * size ∧ (size = 2 ∨ inlineAllowed t raw = true) ∧ zeroBits (control raw) 31 14 = true ∧ predicateOk raw = true
    ∧ leAt raw 21 3 = 0 ∧ leAt raw 29 3 = 0 ∧ zeroBits (leAt raw (raw.length - 8) 4) 31 1 = true
    ∧ (wantsDigest raw = true → hasDigest = true) ∧ (t = .digest → wantsDigest raw = true) ∧ bodyOk t raw = true then some t else none

/-! ## Rings (05 R147 to R149) -/

/-- A ring's size is one it may have. -/
def Ctx.ringOk (x : Ctx) : Bool := decide (2 ≤ x.ringSlots ∧ x.ringSlots ≤ 2048)
def Ctx.cqOk (x : Ctx) : Bool := decide (2 ≤ x.cqEntries ∧ x.cqEntries ≤ 1024)

/-- (a - b) modulo `n`. -/
def modSub (a b n : Nat) : Nat := if n = 0 then 0 else wrapMod (a : Int) b n
where wrapMod (a : Int) (b n : Nat) : Nat := ((a - b) % (n : Int)).toNat

/-- Slots announced and not dispatched. -/
def Ctx.announced (x : Ctx) : Nat := modSub x.prod x.cons (2 * x.ringSlots)

/-- The bytes of ring position `p`. -/
def Channel.ringSlot (ch : Channel) (x : Ctx) (p : Nat) : List Byte := rdN ch.cmdBuf ((x.ringBase + p % x.ringSlots) % 2048 * 32) 32

/-- Lap bit of a position in a ring of `n`. -/
def lapBit (p n : Nat) : Nat := if p / n = 0 then 1 else 0

def Ctx.advance (x : Ctx) (p n : Nat) : Nat := (p + n) % (2 * x.ringSlots)

/-- The header at position `p` and the command's size. -/
def Channel.headerAt (ch : Channel) (x : Ctx) (p : Nat) : Nat × Nat :=
  let h := leNat ((ch.ringSlot x p).take 8)
  (h, sizeOf_ h)

/-- The command at position `p`: its bytes, and whether it is torn (R151). -/
def Channel.cmdAt (ch : Channel) (x : Ctx) (p : Nat) : List Byte × Bool :=
  let z := (ch.headerAt x p).2
  let raw := (upFrom 0 z).flatMap (fun i => ch.ringSlot x (x.advance p i))
  let phase := leAt raw (raw.length - 8) 8
  (raw, decide (phase % 2 ≠ lapBit (x.advance p (z - 1)) x.ringSlots ∨ phase / 2 ^ 32 ≠ (cmdTag raw).toNat))

/-- Slot intervals [a, a + n) and [b, b + m) share a slot. -/
def slotsMeet (a n b m : Nat) : Bool := decide (a < b + m ∧ b < a + n)

/-- The completion ring lies in the command buffer and overlaps neither its own command ring, whose slots count modulo 2,048 (R148), nor a ring of
another record that is not FREE. DEDUCED, log 83. -/
def Channel.cqPlaced (ch : Channel) (r : Nat) : Bool :=
  let x := ch.ctx r
  x.cqOk && decide (x.cqBase + x.cqEntries ≤ 2048) && !slotsMeet x.cqBase x.cqEntries x.ringBase x.ringSlots
    && !slotsMeet x.cqBase x.cqEntries 0 (x.ringBase + x.ringSlots - 2048)
    && ch.ctxs.all (fun e => decide (e.1 = r) || e.2.isFree ||
      (!slotsMeet x.cqBase x.cqEntries e.2.ringBase e.2.ringSlots && !slotsMeet x.cqBase x.cqEntries e.2.cqBase e.2.cqEntries))

/-- The layout CAST_ON asks for (R147). -/
def Channel.ringsPlaced (ch : Channel) (r : Nat) : Bool :=
  let x := ch.ctx r
  ch.cqPlaced r && x.ringOk && decide (x.ringBase + x.ringSlots ≤ 2048)
    && ch.ctxs.all (fun e => decide (e.1 = r) || e.2.isFree ||
      (!slotsMeet x.ringBase x.ringSlots e.2.ringBase e.2.ringSlots && !slotsMeet x.ringBase x.ringSlots e.2.cqBase e.2.cqEntries))

/-- Completion entries free beyond those of commands in flight (R152). -/
def Ctx.cqFree (x : Ctx) : Int := (x.cqEntries : Int) - modSub x.cqTail x.cqHead (2 * x.cqEntries) - x.inflight.length

/-! ## Reads by the sequencer (12 R326) -/

/-- Read bytes of data: none and the block at fault where verification fails. -/
def State.seqRead (s : State) (a n : Nat) : Except Nat (List Byte) :=
  (splitBlocks a n).foldlM (fun acc e => if s.failing (e.1 / 64) then .error e.1 else .ok (acc ++ rdN s.mem e.1 e.2)) []

/-- The DATA_CHECK the sequencer's read of a block at `a` raises: slice 0, engine BX (12 R333). -/
def State.seqFault (s : State) (a : Nat) : FaultInfo := ⟨BitVec.ofNat 8 causeDataCheck, 0, .bx, BitVec.ofNat 64 (s.arrayDetail a)⟩

/-! ## Provenance lists (11 R319) -/

/-- Does the command read a provenance list? -/
def provOf (t : CmdType) (raw : List Byte) : Bool := wantsDigest raw && (match t with | .layer | .copy | .gather => true | _ => false)

/-- Entry `e` of a list: a tensor record, or a given digest, or none where malformed. -/
def provEntry (bs : List Byte) (e : Nat) : Option (TRec ⊕ List Byte) :=
  let at_ := 64 + 64 * e
  let k := leAt bs at_ 8
  if k = 0 then (parseRec (slice bs (at_ + 8) 56) 0).map .inl
  else if k = 1 ∧ leAt bs (at_ + 40) 24 = 0 then some (.inr (slice bs (at_ + 8) 32)) else none

def provCount (bs : List Byte) : Nat := bits (leAt bs 0 8) 4 0

/-- A list's entries, none where malformed. -/
def provEntries (bs : List Byte) : Option (List (TRec ⊕ List Byte)) :=
  if zeroBits (leAt bs 0 8) 63 5 && decide (provCount bs ≤ 16 ∧ leAt bs 8 56 = 0) then (upFrom 0 (provCount bs)).mapM (provEntry bs) else none

def tensorsOf (es : List (TRec ⊕ List Byte)) : List TRec := es.filterMap (fun e => match e with | .inl t => some t | .inr _ => none)

/-- The slots the leaves of a list's tensors need. -/
def State.leavesOk (s : State) (ts : List TRec) : Bool :=
  let banks := (ts.filter (fun t => !t.scr)).flatMap (fun t => (t.foot 0).banks)
  s.endsOk banks [] (enginesOf banks)

/-- Causes that a list's tensor records raise but for slots, which are the command's whole (R277). -/
def State.provCauses (s : State) (ts : List TRec) : List Nat :=
  ts.flatMap (fun t =>
    (if t.scr || !(t.foot 0).inRange || s.footOffline (t.foot 0) then [6] else [])
      ++ (if t.aligned then [] else [9]))

/-! ## Steps 2 and 3 of R155 -/

/-- What the memory-resident parts of a command come to. -/
inductive Fetch2 where
  | refuse (cause : Nat)
  | fault (blk : Nat)
  | ok (desc prov : List Byte)

/-- The bytes [a, a + n) are data that exists. -/
def State.dataThere (s : State) (a n : Nat) : Bool := decide (a + n ≤ 2 ^ 40) && (decide (n = 0) || !s.footOffline ⟨false, a, a + n - 1⟩)

/-- Read a list of bytes in memory once its address passes range and alignment. -/
def State.fetchList (s : State) (a n : Nat) : Except (Nat ⊕ Nat) (List Byte) :=
  if !s.dataThere a n then .error (.inl 6)
  else if a % 64 ≠ 0 then .error (.inl 9)
  else match s.seqRead a n with
    | .ok bs => .ok bs
    | .error b => .error (.inr b)

/-- Descriptor and provenance list of a command, read and format-checked. -/
def State.fetchParts (s : State) (t : CmdType) (raw : List Byte) : Fetch2 :=
  let r : Except (Nat ⊕ Nat) (List Byte × List Byte) := do
    let desc ← (match t with
      | .copy | .fill | .gather | .digest =>
        let n := bodyF raw 43 33
        if bodyF raw 32 32 = 0 then .ok ((inlineData raw).take n) else s.fetchList (bodyF raw 87 48) n
      | _ => .ok [])
    match t with
    | .copy | .fill | .gather | .digest => if (parseDesc t desc).isNone then Except.error (.inl 1) else Except.ok ()
    | _ => .ok ()
    if provOf t raw then do
      let a := digestAddr raw
      let head ← s.fetchList a 64
      if 16 < provCount head then Except.error (.inl 1) else
        let bs ← s.fetchList a (64 + 64 * provCount head)
        if (provEntries bs).isNone then .error (.inl 1) else .ok (desc, bs)
    else .ok (desc, [])
  match r with
  | .ok (d, p) => .ok d p
  | .error (.inl k) => .refuse k
  | .error (.inr f) => .fault f

/-- What the sequencer reads from data memory as it dispatches a command: its descriptor and its provenance list, once their addresses pass. -/
def State.dispatchReads (s : State) (t : CmdType) (raw : List Byte) : List (Nat × Nat) :=
  let ok (a n : Nat) : Bool := s.dataThere a n && decide (a % 64 = 0)
  let desc := match t with
    | .copy | .fill | .gather | .digest => if bodyF raw 32 32 = 1 ∧ ok (bodyF raw 87 48) (bodyF raw 43 33) = true then [(bodyF raw 87 48, bodyF raw 43 33)] else []
    | _ => []
  let a := digestAddr raw
  let n := 64 + 64 * min 16 (provCount (rdN s.mem a 64))
  desc ++ (if provOf t raw && ok a n then [(a, n)] else [])

/-- The summary of the command `back + 1` commands earlier; zero where none lies after SLACK or CAST_ON. -/
def Ctx.summaryBack (x : Ctx) (back : Nat) : W16 := ((x.summaries[back]?).map (·.2)).getD 0

/-- The command a summary predicate refers to is in flight. -/
def Ctx.awaitsSummary (x : Ctx) (raw : List Byte) : Bool :=
  let p := predicate raw
  decide (bits p 1 0 = 2) && (match x.summaries[bits p 19 16]? with | some e => (x.cmd e.1).isSome | none => false)

/-- The predicate (R156): none where its virtual ID lies beyond the context's count. -/
def State.predTrue (s : State) (c : Chan) (r : Nat) (raw : List Byte) : Option Bool :=
  let x := s.ctx c r
  let p := predicate raw
  let neg := bitAt p 2
  match bits p 1 0 with
  | 1 => (x.vobj c (bits p 15 8)).map (fun o =>
      let n := (s.syncObj o).count.toNat
      let v := bits p 63 32
      neg ^^ (match bits p 17 16 with | 0 => decide (v ≤ n) | 1 => decide (n = v) | 2 => decide (n < v) | _ => decide (n ≠ v)))
  | 2 => some (neg ^^ (x.summaryBack (bits p 19 16)).getLsbD (bits p 23 20))
  | _ => some (!neg)

/-! ## Step 4: rules 3 to 13 -/

/-- The code object a LAYER starts: code-set page `code_page` counts from the set's first page (log 23). -/
def Channel.layerObj (ch : Channel) (x : Ctx) (raw : List Byte) : Option CodeObj :=
  (codeSet ch.code x.pageFirst x.pageCount).find? (fun o => decide (o.base = (x.pageFirst + bodyF raw 37 32) * 4096))

/-- A record holds a strict context, or a strict CAST_ON admitted to it will make one. -/
def Ctx.holdsStrict (x : Ctx) : Bool := x.strict || x.inflight.any (fun m => decide (m.typ = .castOn) && decide (bodyF m.raw 86 86 = 1))

/-- Rules of CAST_ON: R147, R144, R276 and 01 R31, R279, R162. That the fast oscillator refuses a strict CAST_ON under rule 5 is DEDUCED,
log 96. -/
def State.castOnCauses (s : State) (c : Chan) (r : Nat) (raw : List Byte) : List Nat :=
  let ch := s.chan c
  let strict := bodyF raw 86 86 = 1
  let others := ch.ctxs.filter (fun e => decide (e.1 ≠ r) && !e.2.isFree)
  let when (b : Bool) (k : Nat) : List Nat := if b then [k] else []
  when (!ch.ringsPlaced r) 3
    ++ when ((s.port.strict && (!decide strict || decide (others ≠ []) || decide (bodyF raw 87 87 = 1))) || others.any (fun e => e.2.holdsStrict)
        || (decide strict && !(fabValid ch.fabLength && swValid s.port.swLength && ch.onPll))) 5
    ++ when (decide (128 < bodyF raw 54 48 + bodyF raw 62 55 ∨ 8192 < bodyF raw 76 64 + bodyF raw 85 77)) 6
    ++ when ((walk ch.code true (bodyF raw 37 32 + bodyF raw 44 38) 64 (bodyF raw 37 32)).isNone) 7

/-- Rules of LAYER. -/
def State.layerCauses (s : State) (c : Chan) (r : Nat) (raw : List Byte) : List Nat :=
  let x := s.ctx c r
  let obj := (s.chan c).layerObj x raw
  let n := 4 * bodyF raw 57 51
  let when (b : Bool) (k : Nat) : List Nat := if b then [k] else []
  when ((match obj with | some o => o.balance | none => false) && !x.balance) 5
    ++ when (decide (x.pageCount ≤ bodyF raw 37 32) || (decide (bodyF raw 44 44 = 1) && !s.dataThere (bodyF raw 103 64) n)) 6
    ++ when (match obj with | some o => decide (o.entries.length ≤ bodyF raw 43 38) | none => true) 7
    ++ when ((match obj with | some o => o.fp64 | none => false) && !s.fuses.fp64) 8
    ++ when (decide (bodyF raw 44 44 = 1 ∧ bodyF raw 103 64 % 64 ≠ 0)) 9

/-- Rules on the flag and digest addresses. -/
def State.addrCauses (s : State) (raw : List Byte) : List Nat :=
  let when (b : Bool) (k : Nat) : List Nat := if b then [k] else []
  (if cflag raw then
    when (!s.dataThere (flagAddr raw) 4) 6 ++ when (decide (flagAddr raw % 4 ≠ 0)) 9 ++ when (s.hostOwned (flagAddr raw / 64)) 10 else [])
    ++ (if wantsDigest raw then
      when (!s.dataThere (digestAddr raw) 32) 6 ++ when (decide (digestAddr raw % 64 ≠ 0)) 9 ++ when (s.hostOwned (digestAddr raw / 64)) 10 else [])

/-- The performers of a descriptor command. -/
def performers (c : Nat) (t : CmdType) (raw : List Byte) : List Perf :=
  if t = .digest then [⟨0, 0⟩] else
  let sl := selSlices c (cmdSel raw)
  (upFrom 0 sl.length).filterMap (fun (i : Nat) => (sl[i]?).map (fun x => (⟨x, i⟩ : Perf)))

/-- Causes that a command raises under rules 3 to 13. -/
def State.admitCauses (s : State) (c : Chan) (r : Nat) (t : CmdType) (raw desc prov : List Byte) : List Nat :=
  let x := s.ctx c r
  let when (b : Bool) (k : Nat) : List Nat := if b then [k] else []
  let ts := tensorsOf ((provEntries prov).getD [])
  when ((s.chan c).offline && decide (t ≠ .bindOff)) 4
    ++ s.addrCauses raw
    ++ s.provCauses ts
    ++ (match t with
      | .castOn => s.castOnCauses c r raw
      | .layer => when (x.strict && !s.leavesOk ts) 5 ++ when (!selWithin (cmdSel raw) x.sliceSet) 6 ++ s.layerCauses c r raw
      | .patch => when (!selWithin (cmdSel raw) x.sliceSet) 6
      | .copy | .fill | .gather => when (!selWithin (cmdSel raw) x.sliceSet) 6
          ++ (match parseDesc t desc with | some d => s.descCauses x.strict x.balance (performers c t raw) ts d | none => [])
      | .digest => (match parseDesc t desc with | some d => s.descCauses x.strict x.balance (performers c t raw) [] d | none => [])
      | .signal | .wait => when ((x.vobj c (bodyF raw 7 0)).isNone) 6
      | .hint => when (decide (bodyF raw 3 0 = 0 ∧ x.pageCount ≤ bodyF raw 13 8)) 6
      | _ => [])
    ++ when (decide (s.baseMw c < s.classMw (powerClass raw))) 13

/-- What dispatch decides about a command's bytes. -/
inductive Verdict where
  | refuse (cause : Nat)
  | fault (blk : Nat)
  | skip
  | accept (t : CmdType) (desc prov : List Byte)
deriving DecidableEq, Repr

/-- A descriptor among the command's own bytes has the format of its type. -/
def inlineOk (t : CmdType) (raw : List Byte) : Bool :=
  match t with
  | .copy | .fill | .gather | .digest => decide (bodyF raw 32 32 = 1) || (parseDesc t ((inlineData raw).take (bodyF raw 43 33))).isSome
  | _ => true

/-- Format checks, memory-resident parts, predicate, remaining checks, in that order (R155). -/
def State.verdict (s : State) (c : Chan) (r : Nat) (raw : List Byte) : Verdict :=
  let x := s.ctx c r
  match formatType raw with
  | none => .refuse 1
  | some t =>
    if !inlineOk t raw then .refuse 1
    else if decide (x.state = .free) != decide (t = .castOn) then .refuse 2
    else match s.fetchParts t raw with
      | .refuse k => .refuse k
      | .fault f => .fault f
      | .ok desc prov => match s.predTrue c r raw with
        | none => .refuse 6
        | some false => .skip
        | some true => match (s.admitCauses c r t raw desc prov).min? with
          | some k => .refuse k
          | none => .accept t desc prov

end Sys2Proof.Machine
end

