-- ==== Sys2Proof/Machine/Context.lean ====
section
/-! DEFINITION. Contexts: doorbells, reading, dispatch, completion, abort and watchdog (05 R142 to R168, 10 R299). -/

namespace Sys2Proof.Machine

/-! ## Doorbell block (05 R146, R150, R152) -/

/-- Host writes admitted to banks of the channel and not yet performed. -/
def Channel.pendingWrites (ch : Channel) : List Nat :=
  ch.banks.flatMap (fun e => ((e.2.failing.toList ++ e.2.queue).filter (·.isWrite)).map (·.id))

/-- A write discarded as an overrun: counted and recorded. -/
def State.overrun (s : State) (c r : Nat) : State :=
  let n := (s.ctx c r).overruns
  (s.modCtx c r (fun x => { x with overruns := satInc n 0xFFFF, lastCause := 0x11 })).noteSat n 0xFFFF c

/-- Look for ABORTs from the position scanned so far; a torn command, until it ends, or one not wholly announced, stops the search. In
FREE and BINDING an ABORT found is discarded (05 "Abort"). -/
def scanGo (ch : Channel) : Nat → Ctx → Ctx
  | 0, x => x
  | n + 1, x =>
    let left := x.announced - modSub x.scan x.cons (2 * x.ringSlots)
    if left = 0 ∨ left < (ch.headerAt x x.scan).2 then x
    else
      let (raw, torn) := ch.cmdAt x x.scan
      if torn then x
      else
        let hit := decide (formatType raw = some .abort ∧ x.state ≠ .free ∧ x.state ≠ .binding)
        scanGo ch n { x with scan := x.advance x.scan (ch.headerAt x x.scan).2, found := if hit then x.found ++ [x.scan] else x.found }

/-- The scan stands at a torn command: since when. -/
def Ctx.noteTorn (x : Ctx) (ch : Channel) (now : Nat) : Ctx :=
  let left := x.announced - modSub x.scan x.cons (2 * x.ringSlots)
  if left ≠ 0 ∧ (ch.headerAt x x.scan).2 ≤ left ∧ (ch.cmdAt x x.scan).2 = true then
    { x with tornScan := some (x.scan, ((x.tornScan.filter (fun e => e.1 = x.scan)).map (·.2)).getD now) }
  else { x with tornScan := none }

def State.scanHeaders (s : State) (c r : Nat) : State :=
  let ch := s.chan c
  let x := ch.ctx r
  if x.ringOk && !x.covers.any (fun i => ch.pendingWrites.contains i) then s.modCtx c r (fun x => (scanGo ch 2049 x).noteTorn ch s.refCount) else s

/-- A write of CH_DB_PROD (R150). It releases the host writes before it (04 R138). -/
def State.doorbell (s : State) (c r : Nat) (v : W32) : State :=
  let ch := s.chan c
  let x := ch.ctx r
  let p := bits v.toNat 11 0
  let n := 2 * x.ringSlots
  if p = x.prod then s
  else if !x.ringOk || decide (n ≤ p) || decide (x.ringSlots < modSub p x.cons n) || decide (modSub p x.cons n < x.announced) then s.overrun c r
  else
    let idle := decide (x.announced = 0 ∧ x.inflight = [])
    (s.modCtx c r (fun x => { x with
      prod := p
      covers := ch.pendingWrites
      watchdogStart := if idle then s.refCount else x.watchdogStart })).scanHeaders c r |>.stir (.channel (chanOf c))

/-- A new ring drops what was read of the old one and restarts the scan at cons. DESIGN CHOICE, log 95. -/
def State.dbRing (s : State) (c r : Nat) (v : W32) : State :=
  s.modCtx c r (fun x => if x.isFree then
    { x with ringBase := bits v.toNat 10 0, ringSlots := bits v.toNat 23 12, scan := x.cons, fetched := none, found := [], tornScan := none, ended := [] } else x)

def State.dbCq (s : State) (c r : Nat) (v : W32) : State :=
  s.modCtx c r (fun x => if x.isFree then { x with cqBase := bits v.toNat 10 0, cqEntries := bits v.toNat 22 12 } else x)

/-- A write of CH_DB_CQ_HEAD; without a valid size it is ignored (log 24). -/
def State.cqHead (s : State) (c r : Nat) (v : W32) : State :=
  let x := s.ctx c r
  let h := bits v.toNat 10 0
  if !x.cqOk then s
  else if 2 * x.cqEntries ≤ h ∨ x.cqEntries < modSub x.cqTail h (2 * x.cqEntries) then s.overrun c r
  else s.modCtx c r (fun x => { x with cqHead := h })

/-! ## Reading (05 R151) -/

/-- The record reads and dispatches commands. -/
def Ctx.dispatches (x : Ctx) : Bool := decide (x.state = .free ∨ x.state = .active ∨ x.state = .slack)

/-- The command at cons is there to be read. -/
def Channel.readable (ch : Channel) (r : Nat) : Bool :=
  let x := ch.ctx r
  ch.runs && x.dispatches && x.ringOk && x.fetched.isNone && decide (x.announced ≠ 0 ∧ (ch.headerAt x x.cons).2 ≤ x.announced)
    && !x.covers.any (fun i => ch.pendingWrites.contains i)

/-- The command at cons is read; its first reading may have been the header scan's. -/
def State.readCommand (s : State) (c r : Nat) : State :=
  let ch := s.chan c
  let x := ch.ctx r
  let (raw, torn) := ch.cmdAt x x.cons
  let first := ((x.tornScan.filter (fun e => e.1 = x.cons)).map (·.2)).getD s.refCount
  (s.modCtx c r (fun x => { x with fetched := some ⟨x.cons, raw, torn, first⟩, covers := [] })).scanHeaders c r

/-- The first reading was 2 µs ago. -/
def State.readExpired (s : State) (first : Nat) : Bool := decide (first + usRef 2 ≤ s.refCount)

/-! ## Records and flags (05 R160, R161) -/

/-- The fields of a completion record but its phase and time (Table 8). -/
structure RecFields where
  tag : W32
  status : Nat
  typ : Nat
  cause : Nat
  summary : Nat
  position : Nat
  count : Nat
  sl : Nat
  engine : Nat
  detail : Nat

def recordBytes (f : RecFields) (phase time : Nat) : List Byte :=
  leBytes 4 f.tag.toNat
    ++ leBytes 4 (f.status + fld phase 3 + fld f.typ 4 + fld f.cause 8 + fld f.summary 16)
    ++ leBytes 8 (f.position + fld (f.count % 65536) 16 + fld f.sl 32 + fld f.engine 52)
    ++ leBytes 8 f.detail ++ leBytes 8 time

/-- Write a record at cq_tail and advance it; in a FREE record whose completion ring has no valid place only last_cause tells (R147). -/
def State.writeRecord (s : State) (c r : Nat) (f : RecFields) : State :=
  let ch := s.chan c
  let x := ch.ctx r
  let s := s.modCtx c r (fun x => { x with lastCause := if f.cause = 0 then x.lastCause else BitVec.ofNat 8 f.cause, watchdogStart := s.refCount })
  if x.state = .free && !ch.cqPlaced r then s
  else (s.modChan c (fun ch => { ch with
      cmdBuf := wrL ch.cmdBuf ((x.cqBase + x.cqTail % x.cqEntries) % 2048 * 32) (recordBytes f (lapBit x.cqTail x.cqEntries) s.cycles) })).modCtx c r
    (fun x => { x with cqTail := (x.cqTail + 1) % (2 * x.cqEntries) })

/-- Write bytes of the sequencer's own, the flag or the digest: merged into a failing block they keep it failing (12 R328; log 25). -/
def State.seqWrite (s : State) (a : Nat) (bs : List Byte) (w : Writer) (tag : W32) : State :=
  if s.failing (a / 64) then s.putKept a bs w tag else s.putBytes a bs w

/-- The completion flag, under the three tests of R161. -/
def State.writeFlag (s : State) (c r : Nat) (raw : List Byte) (good : Bool) : State :=
  let a := flagAddr raw
  let tag := cmdTag raw
  if cflag raw && s.dataThere a 4 && decide (a % 4 = 0) && !s.hostOwned (a / 64) then
    s.seqWrite a (leBytes 4 (if good then tag else tag ^^^ 0xFFFFFFFF#32).toNat) (.cmd tag c r (s.ctx c r).gen) tag
  else s

/-- Settle notices go to every channel with an entry that still names the command (12 R330). -/
def State.settle (s : State) (c : Chan) (r : Rec) (tag : W32) : State :=
  let gen := (s.ctx c r).gen
  let named := s.chans.filter (fun e => e.2.wlog.any (fun k => k.2.pend && k.2.names tag c r gen))
  { s with settleQ := s.settleQ ++ named.map (fun e => (c, chanOf e.1, r, gen, tag)) }

/-! ## Ends of commands not dispatched -/

/-- cons passes a command of `z` slots. -/
def Ctx.pass (x : Ctx) (z : Nat) : Ctx :=
  let n := 2 * x.ringSlots
  { x with
    cons := x.advance x.cons z
    fetched := none
    scan := if modSub x.scan x.cons n < z then x.advance x.cons z else x.scan }

/-- Positions ended in the scan that cons has not passed. -/
def Ctx.trimEnded (x : Ctx) : Ctx := { x with ended := x.ended.filter (fun p => decide (modSub p x.cons (2 * x.ringSlots) < x.announced)) }

/-- A command's number, kept with a summary of zero until it has one; the 16 latest are kept (R156). -/
def Ctx.noteDispatch (x : Ctx) (pos : Nat) : Ctx := { x with summaries := (pos, 0) :: x.summaries.take 15, serial := (pos + 1) % 4096 }

/-- The next number not in flight. -/
def Ctx.freshPos (x : Ctx) : Nat := ((upFrom x.serial 65).map (· % 4096)).find? (fun n => (x.cmd n).isNone) |>.getD x.serial

/-- The context after a command that ended FAULT: HALTED, but for a FREE record and one that aborts. -/
def Ctx.halt (x : Ctx) : Ctx := if x.state = .active ∨ x.state = .slack then { x with state := .halted } else x

/-- The detail of a record that carries no fault: CAST_ON's generation (Table 8). -/
def Ctx.plainDetail (x : Ctx) (typ : Nat) : Nat := if typ = 1 then x.gen.toNat else 0

/-- A command read ends without dispatch: its record, and a flag where `flag` says so. -/
def State.endUnread (s : State) (c : Chan) (r : Rec) (f : Fetched) (status cause : Nat) (fi : Option FaultInfo) (flag : Bool) : State :=
  let x := s.ctx c r
  let tag := cmdTag f.raw
  let typ := bits (control f.raw) 3 0
  let g : FaultInfo := fi.getD ⟨0, 0, .mx, BitVec.ofNat 64 (x.plainDetail typ)⟩
  let w : RecFields := ⟨tag, status, typ, cause, 0, f.pos, 0, g.slice.toNat, engIx g.engine, g.detail.toNat⟩
  let s := ((s.ledgerLeave c r).writeRecord c r w).modCtx c r (fun x => (x.pass (f.raw.length / 32)).noteDispatch x.freshPos)
  let s := if flag then (s.writeFlag c r f.raw (decide (status ≠ 4))).settle c r tag else s
  let s := s.modCtx c r (fun y => if status = 4 then y.halt else if x.state = .slack then { y with state := .active } else y)
  s.traceEv tag c r (if status ≠ 4 then 2 else if cause < 0x10 then 3 else 4) (if status = 4 then cause else status)

/-- A completion entry is there for a record (R152); a FREE record without a valid completion ring needs none. -/
def Channel.hasEntry (ch : Channel) (r : Nat) : Bool :=
  let x := ch.ctx r
  (decide (x.state = .free) && !ch.cqPlaced r) || decide (2 ≤ x.cqFree)

/-- A parity error of the sequencer's own read faults the command (12 R335). -/
def parityInfo (k : Storage) : FaultInfo := ⟨BitVec.ofNat 8 causeDataCheck, 0, .bx, BitVec.ofNat 64 (parityDetail k)⟩

/-- The command read at cons ends DATA_CHECK, once a completion entry is there. -/
def State.parityEnd (s : State) (c : Chan) (r : Rec) (f : Fetched) (k : Storage) : State :=
  if (s.chan c).hasEntry r then (s.parityErr c (cmdTag f.raw) 1).endUnread c r f 4 causeDataCheck (some (parityInfo k)) true else s

def execCommandRead (c : Chan) (r : Rec) (s : State) (parity : Option Storage := none) : Result :=
  let ch := s.chan c
  let x := ch.ctx r
  if !ch.readable r then .next s
  else if x.ended.contains x.cons then .next (s.modCtx c r (fun x => ((x.pass (ch.headerAt x x.cons).2).noteDispatch x.freshPos).trimEnded))
  else match parity with
    | none => .next (s.readCommand c r)
    | some k => match ((s.readCommand c r).ctx c r).fetched with
      | some f => .next (s.parityEnd c r f k)
      | none => .next s

/-- A torn command is read again: that at cons, else the one the header scan stands at. -/
def execTornReread (c : Chan) (r : Rec) (s : State) (parity : Option Storage := none) : Result :=
  let ch := s.chan c
  let x := ch.ctx r
  let more (t : Nat) : Bool := !s.port.strict && !s.readExpired t && ch.runs
  match x.fetched.filter (·.torn), x.tornScan with
  | some f, _ =>
    if !more f.firstRead then .next s
    else if x.announced < (ch.headerAt x x.cons).2 then .next (s.modCtx c r (fun x => { x with fetched := none }))
    else match parity with
      | some k => .next (s.parityEnd c r f k)
      | none =>
        let (raw, torn) := ch.cmdAt x x.cons
        .next ((s.modCtx c r (fun x => { x with fetched := some { f with raw := raw, torn := torn } })).scanHeaders c r)
  | none, some (_, t) => if more t then .next (s.scanHeaders c r) else .next s
  | none, none => .next s

/-- A TORN_COMMAND fault is counted. -/
def State.countTorn (s : State) (c r : Nat) : State :=
  let n := (s.ctx c r).torn
  (s.modCtx c r (fun x => { x with torn := satInc n 0xFFFF })).noteSat n 0xFFFF c

/-- A torn command that the header scan has met ahead of cons ends FAULT where it stands; cons passes it later (05 "Abort", R151). -/
def State.endScanned (s : State) (c : Chan) (r : Rec) (p : Nat) : State :=
  let x := s.ctx c r
  let raw := ((s.chan c).cmdAt x p).1
  let typ := bits (control raw) 3 0
  let s := (s.ledgerLeave c r).writeRecord c r ⟨cmdTag raw, 4, typ, 0x10, 0, p, 0, 0, 0, x.plainDetail typ⟩
  let s := (s.modCtx c r (fun x => { x.halt with scan := x.advance p (raw.length / 32), ended := x.ended ++ [p], tornScan := none })).countTorn c r
  (s.traceEv (cmdTag raw) c r 4 0x10).scanHeaders c r

def execTornCommand (c : Chan) (r : Rec) (s : State) : Result :=
  let ch := s.chan c
  let x := ch.ctx r
  let due (t : Nat) : Bool := (s.port.strict || s.readExpired t) && ch.runs && ch.hasEntry r
  match x.fetched.filter (·.torn), x.tornScan with
  | some f, _ => if due f.firstRead && x.dispatches then .next ((s.endUnread c r f 4 0x10 none false).countTorn c r) else .next s
  | none, some (p, t) => if due t && decide (x.state ≠ .binding) then .next (s.endScanned c r p) else .next s
  | none, none => .next s

/-! ## Dispatch (05 R155 to R157) -/

/-- Leaves of a tensor: pieces of 65,536 bytes of its canonical string (11 R318). -/
def TRec.leaves (t : TRec) : Nat := (t.points * t.w + 65535) / 65536

/-- The hashing a command needs before it executes, or that it is. -/
def hashJob (t : CmdType) (raw desc prov : List Byte) : Option HashJob :=
  let todo (es : List (TRec ⊕ List Byte)) : List (Nat × Nat) :=
    (upFrom 0 es.length).flatMap (fun (e : Nat) => match es[e]? with | some (.inl t) => (upFrom 0 t.leaves).map (fun i => (e, i)) | _ => [])
  if provOf t raw then some ⟨todo ((provEntries prov).getD []), [], none⟩
  else match t, parseDesc t desc with
    | .digest, some (.digest src) => some ⟨todo [.inl src], [], none⟩
    | _, _ => none

/-- The slices that do a command's work. -/
def workSlices (c : Nat) (t : CmdType) (raw : List Byte) : List SliceId :=
  match t with
  | .layer | .patch | .copy | .fill | .gather => selSlices c (cmdSel raw)
  | _ => []

/-- The command as it enters flight. -/
def newCmd (c pos ring : Nat) (t : CmdType) (raw desc prov : List Byte) (charge : Nat) : Cmd where
  pos := pos
  ring := ring
  typ := t
  tag := cmdTag raw
  raw := raw
  desc := desc
  prov := prov
  skein := []
  phase := if t = .hint ∧ 1 < bodyF raw 3 0 then .finished else .dispatched
  todo := workSlices c t raw
  running := []
  finished := []
  stopped := []
  staging := []
  charge := charge
  lent := 0
  hash := hashJob t raw desc prov
  fault := none
  stopReq := false
  released := false
  stopEvent := false
  banks := []
  nextItem := 0
  pools := []

/-- An admitted command goes in flight: its slices are given the work in ring order. -/
def State.takeOff (s : State) (c : Chan) (r : Rec) (f : Fetched) (t : CmdType) (desc prov : List Byte) (charge : Nat) : State :=
  let x := s.ctx c r
  let pos := x.freshPos
  let m := newCmd c pos f.pos t f.raw desc prov charge
  let s := s.modCtx c r (fun x =>
    let y := (x.pass (f.raw.length / 32)).noteDispatch pos
    { y with
      inflight := y.inflight ++ [m]
      state := if t = .bindOff then .binding else if t = .castOn then y.state else .active })
  let s := m.todo.foldl (fun s sl => (s.modSlice sl (fun z => { z with work := z.work ++ [⟨r, pos⟩] })).stir (.bank c (Fin.ofNat 128 (slBank sl)))) s
  let s := (if x.longWait then s.endLongWait c r else s).stir (.channel c)
  ((s.charge c charge).traceEv m.tag c r 1 0).waitMark c r

/-- Charge and dispatch, or wait at the ledger (R157, 13 R362). -/
def State.ledgerGate (s : State) (c : Chan) (r : Rec) (v : Nat) (go : State → State) : State :=
  if s.shortfall c v = 0 then go (s.ledgerLeave c r)
  else
    let s := s.ledgerWait c r
    if s.canBorrow c r v then go ((s.borrow c (s.shortfall c v)).ledgerLeave c r) else s

/-- A command that later ones wait for (R155); a CAST_ON until the context it opens is ACTIVE. -/
def Cmd.barrier (m : Cmd) : Bool :=
  match m.typ with
  | .fence | .wait | .bindOff => true
  | .castOn => decide (m.phase = .dispatched)
  | _ => false

/-- The bytes of data memory that the dispatch of the command reads: none where rules 1 and 2 end it first. -/
def State.readsAt (s : State) (c : Chan) (r : Nat) (raw : List Byte) : List (Nat × Nat) :=
  match formatType raw with
  | none => []
  | some t => if !inlineOk t raw || (decide ((s.ctx c r).state = .free) != decide (t = .castOn)) then [] else s.dispatchReads t raw

/-- A command accepted waits until the banks of its slices are ON, which it wakes (13 R349, R350), and for its charge. -/
def State.launch (s : State) (c : Chan) (r : Rec) (f : Fetched) (t : CmdType) (desc prov : List Byte) : State :=
  let off := (workSlices c t f.raw).filter (fun sl => !s.bankOn sl)
  if off ≠ [] then off.foldl State.wakeBank s
  else
    let v := s.classMw (powerClass f.raw)
    s.ledgerGate c r v (fun s => s.takeOff c r f t desc prov v)

def execDispatch (c : Chan) (r : Rec) (parity : Option Storage) (s : State) : Result :=
  let ch := s.chan c
  let x := ch.ctx r
  match x.fetched with
  | none => .next s
  | some f =>
    if f.torn || decide (f.pos ≠ x.cons) || !ch.runs || !x.dispatches || decide (64 ≤ x.inflight.length) || !ch.hasEntry r || x.inflight.any Cmd.barrier
        || x.found.contains f.pos then .next s
    else match parity with
    | some k => .next (s.parityEnd c r f k)
    | none =>
      let rd := s.readsAt c r f.raw
      if formatType f.raw = some .abort then .next (s.modCtx c r (fun x => (x.pass (f.raw.length / 32)).trimEnded))
      else if (formatType f.raw).isSome && x.awaitsSummary f.raw then .next s
      else if !s.banksServe rd then .next (s.wakeFor rd)
      else
        let s := s.touch rd []
        match s.verdict c r f.raw with
        | .refuse k => .next (s.endUnread c r f 4 k none (decide (10 < k)))
        | .fault b => .next ((s.readFail (b / 64) 1 (cmdTag f.raw)).endUnread c r f 4 causeDataCheck (some (s.seqFault b)) true)
        | .skip => .next (s.endUnread c r f 1 0 none true)
        | .accept t desc prov => .next (s.launch c r f t desc prov)

/-! ## CAST_ON and BIND_OFF (05 R143 to R145) -/

/-- The record becomes ACTIVE with what CAST_ON fixes. -/
def Ctx.castOn (x : Ctx) (raw : List Byte) (pos : Nat) : Ctx :=
  { x with
    state := .active
    strict := bodyF raw 86 86 = 1
    balance := bodyF raw 87 87 = 1
    gen := x.gen + 1
    lastCause := 0
    overruns := 0
    torn := 0
    sliceSet := cmdSel raw
    pageFirst := bodyF raw 37 32
    pageCount := bodyF raw 44 38
    chanFirst := bodyF raw 54 48
    chanCount := bodyF raw 62 55
    modFirst := bodyF raw 76 64
    modCount := bodyF raw 85 77
    watchdogMs := if bodyF raw 115 96 = 0 then 10000 else bodyF raw 115 96
    summaries := [(pos, 0)] }

def execCastOn (c : Chan) (r : Rec) (s : State) : Result :=
  match (s.ctx c r).inflight.find? (fun m => decide (m.typ = .castOn ∧ m.phase = .dispatched)) with
  | none => .next s
  | some m => .next (s.modCtx c r (fun x => (x.castOn m.raw m.pos).modCmd m.pos (fun m => { m with phase := .finished })))

/-- A slice released by BIND_OFF is cleared (06 R169); its instruction cache, engines and counters stay. -/
def SliceSt.clear (x : SliceSt) : SliceSt :=
  { x with
    scratch := [], tiles := [], accs := [], skein := [], ars := [], summary := 0, sumQ := [], consts := [], reds := []
    mail := [], owner := none, shadow := none }

/-- Slices of a channel drop the lines of pages no longer mapped (06 R179). -/
def State.unmapLines (s : State) (c : Nat) : State :=
  let ch := s.chan c
  { s with slices := tmap s.slices (fun k x => if k / 2048 = c then { x with icache := x.icache.filter (fun l => ch.mapped (l.line / 64)) } else x) }

/-- Release the slice set, the translations and the pages. -/
def State.releaseCtx (s : State) (c r : Nat) : State :=
  let ch := s.chan c
  let x := ch.ctx r
  let others := ch.ctxs.filter (fun e => decide (e.1 ≠ r) && !e.2.isFree)
  let gone := (selSlices c x.sliceSet).filter (fun sl => !others.any (fun e => inSel c e.2.sliceSet sl.toNat))
  let s := gone.foldl (fun s sl => if (tfind s.slices sl.toNat).isSome then s.modSlice sl SliceSt.clear else s) s
  (s.modCtx c r (fun x => { x with sliceSet := 0, chanFirst := 0, chanCount := 0, modFirst := 0, modCount := 0, pageFirst := 0, pageCount := 0 })).unmapLines c

/-- The oldest command in flight is `m`. -/
def Ctx.oldest (x : Ctx) (m : Cmd) : Bool := decide ((x.inflight.head?).map (·.pos) = some m.pos)

def execBindOff (c : Chan) (r : Rec) (s : State) : Result :=
  let x := s.ctx c r
  match x.inflight.find? (fun m => decide (m.typ = .bindOff ∧ m.phase = .dispatched)) with
  | none => .next s
  | some m =>
    if !x.oldest m then .next s
    else
      let s := (s.endCharge c m).releaseCtx c r
      .next (s.modCmd c r m.pos (fun m => { m with phase := .finished, charge := 0, lent := 0 }))

/-! ## Commands of the sequencer: SIGNAL, WAIT, FENCE, HINT (05 R158) -/

/-- The party that a command is. -/
def cmdParty (c : Chan) (r : Rec) (x : Ctx) (m : Cmd) : Party := .command c r x.gen m.pos m.tag

/-- A command of a type, dispatched and not begun, that no stop has reached. -/
def Cmd.fresh (m : Cmd) (t : CmdType) : Bool := decide (m.typ = t ∧ m.phase = .dispatched) && !m.stopReq && !m.stopEvent

def State.begin_ (s : State) (c r pos : Nat) (p : Phase) : State := s.modCmd c r pos (fun m => { m with phase := p })

def execSignal (c : Chan) (r : Rec) (pos : CmdNo) (s : State) : Result :=
  let x := s.ctx c r
  match x.cmd pos with
  | none => .next s
  | some m =>
    if !m.fresh .signal || !x.oldest m then .next s
    else match x.vobj c (bodyF m.raw 7 0) with
      | none => .next s
      | some o => .next ((s.begin_ c r pos .executing).send o (.signal (BitVec.ofNat 32 (bodyF m.raw 63 32))) (cmdParty c r x m))

def execWait (c : Chan) (r : Rec) (pos : CmdNo) (s : State) : Result :=
  let x := s.ctx c r
  match x.cmd pos with
  | none => .next s
  | some m =>
    if !m.fresh .wait then .next s
    else match x.vobj c (bodyF m.raw 7 0) with
      | none => .next s
      | some o => .next ((s.begin_ c r pos .executing).send o (.wait (BitVec.ofNat 32 (bodyF m.raw 63 32)) (bodyF m.raw 8 8 = 1)) (cmdParty c r x m))

/-- A command of a context has nothing left on its way: sync operations, arrivals, messages, a resend (R159, 10 R305). -/
def State.drained (s : State) (c r pos : Nat) : Bool :=
  let mine (p : Party) : Bool := match p with
    | .command d k _ q _ => decide (d.val = c ∧ k.val = r ∧ q = pos)
    | .slice sl k _ q _ => decide (slChan sl = c ∧ k.val = r ∧ q = pos)
    | .host => false
  !s.syncQ.any (fun m => mine m.who) && !s.msgQ.any (fun m => mine m.src) && !s.arrQ.any (fun w => w.who.any (fun a => mine a.party))
    && !s.resending (fun g => match g with
      | .command d k q => decide (d.val = c ∧ k.val = r ∧ q.val = pos)
      | .slice sl _ => decide (slChan sl = c) && (match (s.slice sl).current with | some w => decide (w.record.val = r ∧ w.pos = pos) | none => false)
      | _ => false)

/-- Every request the channel has issued through its channel link has been performed (R158). -/
def State.linkClear (s : State) (c : Nat) : Bool :=
  let far (o : ObjRef) : Bool := match o with | .module _ => true | .chan d _ => decide (d.val ≠ c)
  !s.syncQ.any (fun m => decide (partyChan m.who = c) && !m.who.isHost && far m.obj) && !s.arrQ.any (fun w => decide (w.channel.val = c) && far w.obj)

def execFenceChannel (c : Chan) (r : Rec) (pos : CmdNo) (s : State) : Result :=
  let x := s.ctx c r
  match x.cmd pos with
  | none => .next s
  | some m => if m.fresh .fence && decide (bodyF m.raw 1 0 = 2) && x.oldest m then .next (s.begin_ c r pos .finished) else .next s

def execFenceModule (c : Chan) (r : Rec) (pos : CmdNo) (s : State) : Result :=
  let x := s.ctx c r
  match x.cmd pos with
  | none => .next s
  | some m =>
    if m.fresh .fence && decide (bodyF m.raw 1 0 = 3) && x.oldest m && s.linkClear c then .next (s.begin_ c r pos .finished) else .next s

/-- A hint completes and changes nothing (log 26). -/
def execHintCodePrefetch (c : Chan) (r : Rec) (pos : CmdNo) (s : State) : Result :=
  match s.cmd c r pos with
  | none => .next s
  | some m => if m.fresh .hint && decide (bodyF m.raw 3 0 = 0) then .next (s.begin_ c r pos .finished) else .next s

def execHintRowOpen (c : Chan) (r : Rec) (pos : CmdNo) (s : State) : Result :=
  match s.cmd c r pos with
  | none => .next s
  | some m => if m.fresh .hint && decide (bodyF m.raw 3 0 = 1) then .next (s.begin_ c r pos .finished) else .next s

/-! ## Completion (05 R159 to R161) -/

/-- The combined summary (R160): OR of bits 7 to 0, AND of bits 15 to 8. -/
def combined (l : List (SliceId × W16)) : W16 :=
  match l with
  | [] => 0
  | _ => (l.foldl (fun t e => t ||| e.2) 0 &&& 0x00FF#16) ||| (l.foldl (fun t e => t &&& e.2) 0xFFFF#16 &&& 0xFF00#16)

/-- The command's record is due. -/
def State.recordDue (s : State) (c r : Nat) (m : Cmd) : Bool :=
  s.drained c r m.pos && (if m.fault.isSome || m.stopEvent then decide (m.todo = [] ∧ m.running = []) else decide (m.phase = .finished))

/-- How the command ends: status, cause. -/
def Ctx.ending (x : Ctx) (m : Cmd) : Nat × Nat :=
  let why := ((x.abort.map (fun (a : AbortSt) => a.cause)).getD 0).toNat
  match m.fault with
  | some f => (4, f.cause.toNat)
  | none => if m.stopEvent then (2, why) else if x.state = .aborting then (3, why) else (0, 0)

/-- The record of a command in flight. -/
def Ctx.recFields (x : Ctx) (m : Cmd) : RecFields :=
  let (status, cause) := x.ending m
  let sum := if (status = 0 ∨ status = 3) ∧ m.typ = .layer then combined m.finished else 0
  let f := m.fault.getD ⟨0, 0, .mx, 0⟩
  ⟨m.tag, status, typeCode m.typ, cause, sum.toNat, m.ring, 0, f.slice.toNat, engIx f.engine,
    if m.fault.isSome then f.detail.toNat else x.plainDetail (typeCode m.typ)⟩

/-- The leases of a command end where no other command of the channel runs on the bank (04 R129). -/
def State.endLeases (s : State) (c r : Nat) (m : Cmd) : State :=
  s.modChan c (fun ch =>
    let held (b : Nat) : Bool := ch.ctxs.any (fun e => e.2.inflight.any (fun k => decide (e.1 ≠ r ∨ k.pos ≠ m.pos) && k.banks.contains b))
    m.banks.foldl (fun ch b => if held b then ch else ch.modBank b (fun k => { k with
      lease := none, closedEnd := if k.lease = some true then some s.cycles else k.closedEnd })) ch)

/-- The record enters FREE (R145). -/
def Ctx.freed (x : Ctx) : Ctx :=
  { x with
    state := .free, strict := false, balance := false, prod := 0, cons := 0, cqHead := 0, cqTail := 0
    fetched := none, scan := 0, found := [], covers := [], summaries := [], longWait := false, tornScan := none, ended := [] }

def execCompletion (c : Chan) (r : Rec) (pos : CmdNo) (s : State) : Result :=
  let x := s.ctx c r
  match x.cmd pos with
  | none => .next s
  | some m =>
    if !s.recordDue c r m || !(s.chan c).runs then .next s
    else
      let (status, cause) := x.ending m
      let good := status ≠ 2 ∧ status ≠ 4
      let s := match m.hash.bind (·.formed) with
        | some d => if good then s.seqWrite (digestAddr m.raw) d (.cmd m.tag c r x.gen) m.tag else s
        | none => s
      let f := x.recFields m
      let s := (s.writeRecord c r f).writeFlag c r m.raw (decide good)
      let s := ((s.endCharge c m).endLeases c r m).settle c r m.tag
      let s := if status = 4 then s.ledgerLeave c r else s
      let s := s.modCtx c r (fun x =>
        let x := { x with
          inflight := x.inflight.filter (fun k => k.pos ≠ m.pos)
          summaries := x.summaries.map (fun e => if e.1 = m.pos then (e.1, BitVec.ofNat 16 f.summary) else e) }
        if m.typ = .bindOff then x.freed else if status = 4 then x.halt else x)
      .next ((s.traceEv m.tag c r (if status = 4 then 4 else 2) (if status = 4 then cause else status)).waitMark c r)

/-! ## Abort and watchdog (05 R164 to R168, 10 R299) -/

/-- A stop request reaches a command in flight (R164, R166). -/
def State.stopCmd (s : State) (c : Chan) (r : Rec) (m : Cmd) : State :=
  if m.fault.isSome then s
  else
    let s := (s.modCmd c r m.pos (fun m => { m with stopReq := true })).requestStop c r m.pos
    let stop (s : State) : State := s.modCmd c r m.pos (fun m => { m with stopEvent := true })
    match m.typ with
    | .wait => if m.released ∨ m.phase = .finished then s else stop (s.withdrawWait c r m.pos)
    | .signal => if m.phase = .dispatched then stop s else s
    | .fence | .hint => if m.phase = .finished then s else stop s
    | .digest => if m.phase = .finished then s else stop (s.modCmd c r m.pos (fun m => { m with hash := none }))
    | _ => s

/-- The context enters ABORTING and its commands are asked to stop. -/
def State.beginAbort (s : State) (c : Chan) (r : Rec) (a : AbortSt) : State :=
  let s := if (s.ctx c r).longWait then s.endLongWait c r else s
  let s := s.modCtx c r (fun x => { x with state := .aborting, abort := some a })
  ((s.ctx c r).inflight.foldl (fun s m => s.stopCmd c r m) s).ledgerLeave c r

/-- Commands announced between cons and position `p` that have no record yet. -/
def countTo (ch : Channel) (x : Ctx) (p : Nat) : Nat → Nat → Nat
  | 0, _ => 0
  | n + 1, q => if q = p then 0 else (if x.ended.contains q then 0 else 1) + countTo ch x p n (x.advance q (ch.headerAt x q).2)

/-- What an accepted ABORT adds to the abort in progress (R165). -/
def AbortSt.join (a : AbortSt) (raw : List Byte) (ring n : Nat) : AbortSt :=
  { a with
    byHost := true
    discarded := a.discarded + n
    firstTag := if a.number = 0 then cmdTag raw else a.firstTag
    lastTag := cmdTag raw
    lastPos := ring
    number := a.number + 1
    raws := a.raws ++ [raw] }

def execAbort (c : Chan) (r : Rec) (s : State) : Result :=
  let s := s.scanHeaders c r
  let ch := s.chan c
  let x := ch.ctx r
  match x.found with
  | [] => .next s
  | p :: more =>
    if x.state = .free ∨ x.state = .binding then .next (s.modCtx c r (fun x => { x with found := more }))
    else
      let raw := (ch.cmdAt x p).1
      let n := countTo ch x p 2049 x.cons
      let s := s.modCtx c r (fun x => { x with found := more, cons := x.advance p (raw.length / 32), fetched := none }.trimEnded)
      match x.state, x.abort with
      | .aborting, some a => .next (s.modCtx c r (fun x => { x with abort := some (a.join raw p n) }))
      | _, _ => .next (s.beginAbort c r ((⟨0x30, true, 0, 0, 0, 0, 0, []⟩ : AbortSt).join raw p n))

/-- Watchdog period in reference cycles. -/
def Ctx.period (x : Ctx) : Nat := x.watchdogMs * 156250

def execWatchdogFire (c : Chan) (r : Rec) (s : State) : Result :=
  let x := s.ctx c r
  if decide (x.state ≠ .active ∧ x.state ≠ .halted) || decide (x.inflight = [] ∧ x.announced = 0) || decide (s.refCount < x.watchdogStart + x.period) then .next s
  else if !(s.chan c).runs then .next (s.wake (.channel c))
  else .next ((s.modCtx c r (fun x => { x with lastCause := 0x31 })).beginAbort c r ⟨0x31, false, 0, 0, 0, 0, 0, []⟩)

/-- Every slice has answered, one of them stopped, and no other event came first (R166). -/
def execStopEvent (c : Chan) (r : Rec) (pos : CmdNo) (s : State) : Result :=
  match s.cmd c r pos with
  | none => .next s
  | some m =>
    if decide ((s.ctx c r).state = .aborting) && m.stopReq && m.fault.isNone && !m.stopEvent && decide (m.todo = [] ∧ m.running = [] ∧ m.stopped ≠ []) then
      .next (s.modCmd c r pos (fun m => { m with stopEvent := true }))
    else .next s

/-- Nothing of the context is on its way. -/
def State.ctxDrained (s : State) (c r : Nat) : Bool :=
  let mine (p : Party) : Bool := match p with
    | .command d k .. => decide (d.val = c ∧ k.val = r)
    | .slice sl k .. => decide (slChan sl = c ∧ k.val = r)
    | .host => false
  !s.syncQ.any (fun m => mine m.who) && !s.msgQ.any (fun m => mine m.src) && !s.arrQ.any (fun w => w.who.any (fun a => mine a.party))

def execAbortSlack (c : Chan) (r : Rec) (s : State) : Result :=
  let x := s.ctx c r
  match x.state, x.abort with
  | .aborting, some a =>
    if x.inflight ≠ [] || !s.ctxDrained c r then .next s
    else if a.byHost then
      let f : RecFields := ⟨a.lastTag, 0, 11, 0, 0, a.lastPos, a.discarded, 0, 0, a.firstTag.toNat + fld (a.number % 65536) 32⟩
      let s := a.raws.foldl (fun s raw => (s.writeFlag c r raw true).settle c r (cmdTag raw)) (s.writeRecord c r f)
      .next ((s.modCtx c r (fun x => { x with state := .slack, abort := none, summaries := [] })).traceEv a.lastTag c r 2 0)
    else .next (s.modCtx c r (fun x => { x with state := .halted, abort := none }))
  | _, _ => .next s

end Sys2Proof.Machine
end

