-- ==== Sys2Proof/Machine/Gate.lean ====
section
/-! DEFINITION. Host writes of registers as they reach the port switch (04 R107, R114, R115, R122), and the registers of sync objects
(10 R296, R306, R307). -/

namespace Sys2Proof.Machine

/-! ## Power and resets -/

/-- Generated rails are on and no reset is asserted (16 R405, 17 R434). -/
def State.powered (s : State) : Bool :=
  s.pins.vaon && s.pins.vin && s.pins.charged && s.pins.porstN && s.pins.warmrstN && s.pins.refclk && !s.mg.tripLatch

/-- The firmware runs. -/
def State.fwRuns (s : State) : Bool :=
  s.powered && decide (s.mg.boot.phase = .running ∧ s.mg.mgmtDom.state = .on) && !s.mg.boot.coreHalted

/-- Some lane group is ACTIVE and the switch is ON, so the host reaches the port die (16 R408). -/
def State.reached (s : State) : Bool :=
  s.powered && decide (s.mg.switchDom.state = .on) && s.link.groups.any (fun e => decide (e.2.state = .active))

/-- The channel serves host requests: ON, its arrays outside the interval of self-refresh entry to exit (04 R122, 02 R71). -/
def State.hostAwake (s : State) (c : Nat) : Bool :=
  let ch := s.chan c
  ch.awake && ch.pwr.dom.steady && ch.pwr.accepting

/-- The physical group that carries a logical one. -/
def State.phys (s : State) (g : Nat) : Nat := if (s.group g).carried then (g + 8) % 16 else g

/-- The group's flits reach the port switch. With both partners DOWN none reach their channels (03 R101). -/
def State.linkUp (s : State) (g : Nat) : Bool :=
  s.powered && decide (s.mg.switchDom.state = .on ∧ (s.group (s.phys g)).state = .active)

/-! ## Statuses (04 R115, R125) -/

/-- A tide-table violation charged to channel `c`, with its cause. -/
def State.violation (s : State) (c cause : Nat) : State :=
  let n := tget s.port.violCount c 0
  (s.modPort (fun p => { p with violCount := tput p.violCount c (satInc n 0xFFFF), violCause := tput p.violCause c cause })).noteSat n 0xFFFF c

/-- The windows that hold registers. -/
inductive RegWin where
  | port
  | chan (c : Nat)
  | sync
deriving DecidableEq, Repr

/-- Whether a window serves a register write now. -/
def State.winStatus (s : State) : RegWin → Status
  | .port => .ok
  | .chan c => if !s.port.compute then .mode else if s.hostAwake c then .ok else .violation
  | .sync => if s.port.compute then .ok else .mode

/-- What a refused write leaves: the violation counted against a channel not awake. -/
def State.winRefused (s : State) : RegWin → State
  | .chan c => if s.port.compute then s.violation c 6 else s
  | _ => s

def State.keyOff (s : State) : State := s.modPort (fun p => { p with armedAt := none })

def State.status (s : State) (st : Status) : State := s.modPort (fun p => { p with lastStatus := st })

/-- A lane group carries a write to the window: a channel's own, or any (03 R76). -/
def State.winReached (s : State) : RegWin → Bool
  | .chan c => s.linkUp (groupOf c)
  | _ => s.reached

/-- A host WRITE of one register: any WRITE disarms the port key (04 R108); a status other than OK changes nothing else. -/
def State.hostReg (s : State) (w : RegWin) (own : Status) (f : State → State) : State :=
  if !s.winReached w then s
  else
    let s := s.keyOff
    match s.winStatus w with
    | .ok => (match own with | .ok => (f s).status .ok | st => s.status st)
    | st => (s.winRefused w).status st

/-! ## Doorbell blocks (05) -/

def execDoorbell (c : Chan) (r : Rec) (v : W32) (s : State) : Result := .next (s.hostReg (.chan c) .ok (fun s => s.doorbell c r v))
def execDbRingWrite (c : Chan) (r : Rec) (v : W32) (s : State) : Result := .next (s.hostReg (.chan c) .ok (fun s => s.dbRing c r v))
def execDbCqWrite (c : Chan) (r : Rec) (v : W32) (s : State) : Result := .next (s.hostReg (.chan c) .ok (fun s => s.dbCq c r v))
def execCqHeadWrite (c : Chan) (r : Rec) (v : W32) (s : State) : Result := .next (s.hostReg (.chan c) .ok (fun s => s.cqHead c r v))

/-- CH_CODE_BUSY clear (05 R163). -/
def State.codeBusyClear (s : State) (c : Nat) : State := s.modChan c (fun ch => { ch with codeBusy := 0, codeLast := 0 })

def execCodeBusyClear (c : Chan) (s : State) : Result := .next (s.hostReg (.chan c) .ok (fun s => s.codeBusyClear c))

/-! ## Sync object registers (10 Table 4) -/

def objWin : ObjRef → RegWin
  | .chan c _ => .chan c
  | .module _ => .sync

/-- A host write to _ADD or _SUB comes last of the operations of its cycle (10 R283): those sent by now are performed before it. -/
def State.hostAdd (s : State) (o : ObjRef) (v : W32) : State := if v = 0 then s else ((s.catchUp o).signalObj o v .host).1
def State.hostSub (s : State) (o : ObjRef) (v : W32) : State := if v = 0 then s else ((s.catchUp o).subtractObj o v .host).1

/-- No waiter holds a slot of the object. -/
def SyncObj.idle (x : SyncObj) : Bool := decide (x.waiters = [])

/-- A write of _BAR_CFG (R296). -/
def State.barCfg (s : State) (o : ObjRef) (v : W32) : State :=
  if (s.syncObj o).idle && decide ((s.syncObj o).arrived = 0) then
    s.modObj o (fun x => { x with participants := bits v.toNat 20 0, barrierEn := v.getLsbD 31, forwarded := [] })
  else s.objFault o causeMode true

/-- A write of _BAR_STATE (R296). -/
def State.barClear (s : State) (o : ObjRef) (v : W32) : State :=
  if !v.getLsbD 31 then s
  else if (s.syncObj o).idle then s.modObj o (fun x => { x with arrived := 0, forwarded := [] })
  else s.objFault o causeMode true

/-- A write of _STATE: error is W1C. -/
def State.objStateWrite (s : State) (o : ObjRef) (v : W32) : State :=
  if v.getLsbD 7 then s.modObj o (fun x => { x with error := false }) else s

def State.syncClear (s : State) (c : Nat) : State := s.modChan c (fun ch => { ch with msgStale := 0, msgFull := 0, syncFaults := 0, descheds := 0 })

def State.hbSyncClear (s : State) : State := s.modPort (fun p => { p with hostFaults := 0, moduleFaults := 0 })

/-- A write of CH_SYNC_CFG (10 Table 5). -/
def State.syncCfg (s : State) (c : Nat) (v : W32) : State :=
  let s := s.modChan c (fun ch => { ch with descheduleUs := bits v.toNat 15 0, lendUs := bits v.toNat 30 16 })
  if v.getLsbD 31 then s.syncClear c else s

/-- Does the block of an object hold a register at this offset? -/
def objHas (off : Nat) : Bool := decide (off % 4 = 0 ∧ (off ≤ 0x20 ∨ (0x40 ≤ off ∧ off < 0xC0)))

/-- A waiter slot as its register. -/
def Waiter.word (w : Waiter) : Nat :=
  (match w.who with
  | .command c r _ => c.val + fld r.val 9
  | .watch c e => c.val + fld e 9 + fld 1 19
  | .combiner c => c.val + fld 1 19) + fld (b2n w.consume) 18 + fld 1 20

/-- Registers of an object as they read. -/
def SyncObj.read (x : SyncObj) (off : Nat) : Option Nat :=
  if !objHas off then none
  else if off = 0x08 then some x.count.toNat
  else if off = 0x0C then some (x.waiters.length + fld (b2n x.barrierEn) 5 + fld (b2n x.sense) 6 + fld (b2n x.error) 7 + fld x.lastFault.toNat 8)
  else if off = 0x10 then some (x.last.channel % 512 + fld (x.last.record % 512) 9 + fld x.last.gen.toNat 18 + fld (b2n x.last.host) 31)
  else if off = 0x14 then some (x.last.slice.toNat + fld (b2n x.last.fromSlice) 20)
  else if off = 0x18 then some x.last.tag.toNat
  else if off = 0x1C then some (x.participants + fld (b2n x.barrierEn) 31)
  else if off = 0x20 then some x.arrived
  else if 0x40 ≤ off then some (match tfind x.waiters ((off - 0x40) / 8) with
    | none => 0
    | some w => if off % 8 = 0 then w.word else w.value.toNat)
  else some 0

/-- A host write of one register of an object. -/
def State.objWrite (s : State) (o : ObjRef) (off : Nat) (v : W32) : State :=
  if off = 0x00 then s.hostAdd o v
  else if off = 0x04 then s.hostSub o v
  else if off = 0x0C then s.objStateWrite o v
  else if off = 0x1C then s.barCfg o v
  else if off = 0x20 then s.barClear o v
  else s

def execSyncClearCounters (c : Chan) (s : State) : Result := .next (s.hostReg (.chan c) .ok (fun s => s.syncClear c))
def execHbSyncClearCounters (s : State) : Result := .next (s.hostReg .port .ok State.hbSyncClear)

/-! ## Deferred writes of the module-scope window (04 R141) -/

/-- Host writes admitted to any bank and not yet performed. -/
def State.allPending (s : State) : List Nat := s.chans.flatMap (fun e => e.2.pendingWrites)

/-- The module-scope object and offset at a host address of the sync window. -/
def syncTarget (a : HostAddr) : ObjRef × Nat := (.module (Fin.ofNat 8192 ((a.toNat - 0x021000000000) / 256)), a.toNat % 256)

/-- Deferred writes whose earlier writes have all been performed are performed, in order. -/
def State.runDeferred (s : State) : State :=
  let p := s.allPending
  let ready (d : DeferredSync) : Bool := !d.covers.any (fun i => p.contains i)
  (s.port.deferred.filter ready).foldl (fun s d => s.objWrite (syncTarget d.addr).1 (syncTarget d.addr).2 d.v)
    (s.modPort (fun q => { q with deferred := q.deferred.filter (fun d => !ready d) }))

/-- Writes of the lane group admitted and not yet performed. -/
def State.groupPending (s : State) (g : Nat) : List Nat := s.chans.flatMap (fun e => if groupOf e.1 = g then e.2.pendingWrites else [])

/-- The host address of a register of a module-scope object. -/
def objAddr (m : Fin 8192) (off : Nat) : HostAddr := BitVec.ofNat 48 (0x021000000000 + m.val * 256 + off)

/-- A host write of a register of an object that lane group `g` carries: at the module scope behind the group's earlier writes (R141). -/
def State.objWriteBy (s : State) (g : Nat) (o : ObjRef) (off : Nat) (v : W32) : State :=
  match o with
  | .chan _ _ => s.objWrite o off v
  | .module m =>
    let cs := s.groupPending g
    if cs = [] then s.objWrite o off v else s.modPort (fun p => { p with deferred := p.deferred ++ [⟨cs, objAddr m off, v⟩] })

/-! A write of one register of an object; `g` is the lane group that carries one at the module scope. -/

def execAdd (o : ObjRef) (amount : W32) (s : State) (g : Group := 0) : Result := .next (s.hostReg (objWin o) .ok (fun s => s.objWriteBy g o 0x00 amount))
def execSub (o : ObjRef) (amount : W32) (s : State) (g : Group := 0) : Result := .next (s.hostReg (objWin o) .ok (fun s => s.objWriteBy g o 0x04 amount))
def execBarCfgWrite (o : ObjRef) (v : W32) (s : State) (g : Group := 0) : Result := .next (s.hostReg (objWin o) .ok (fun s => s.objWriteBy g o 0x1C v))
def execBarStateClear (o : ObjRef) (s : State) (g : Group := 0) : Result := .next (s.hostReg (objWin o) .ok (fun s => s.objWriteBy g o 0x20 0x80000000))

end Sys2Proof.Machine
end

