-- ==== Sys2Proof/Machine/Bank.lean ====
section
/-! DEFINITION. The refresh and scheduling unit: host requests at banks, refresh (02 R49 to R60, 04 R129 to R134) and training (02 R61
to R67). Column cycles are numbered from the instant at which `t` is 0. -/

namespace Sys2Proof.Machine

/-! ## Requests -/

/-- Give an outstanding request of channel `c` its answer. -/
def State.answerReq (s : State) (c id : Nat) (st : Status) (data : List Byte) (check : W32) : State :=
  s.modGroup (groupOf c) (fun g => { g with out := g.out.map (fun o =>
    if o.id = id ∧ o.status = none then { o with status := some st, data := data, check := check } else o) })

/-- Sixty-four zero bytes, and their check: the beat of a response whose status is not OK (12 Table 1). -/
def zeroBeat : List Byte := List.replicate 64 0
def zeroCheck : W32 := crc32c zeroBeat

/-- PFENCEs whose covered writes have all been performed are answered OK (04 R137). -/
def State.fences (s : State) : State :=
  let p := s.allPending
  { s with link := { s.link with groups := tmap s.link.groups (fun _ g => { g with out := g.out.map (fun o =>
      if o.covers ≠ [] ∧ o.status = none ∧ o.covers.any (fun i => p.contains i) = false then
        { o with status := some .ok, data := zeroBeat, check := zeroCheck } else o) }) } }

/-- What follows a performed write: fences answered, deferred sync writes performed, doorbells' header scans (04 R137, R138, R141). -/
def State.wrote (s : State) (c : Nat) : State :=
  let s := s.fences.runDeferred
  (s.chan c).ctxs.foldl (fun s e => if e.2.covers ≠ [] then s.scanHeaders c e.1 else s) s

/-- Complete a host request at its bank with its data good (04 R117, R118). -/
def State.complete (s : State) (c : Nat) (q : BankReq) : State :=
  if q.isWrite then (s.hostWrite q.blk q.byteEn q.data q.check q.lost q.owned).wrote c
  else s.answerReq c q.id .ok (s.blockData q.blk) (s.checkWord q.blk)

/-- Complete a host request whose block failed both retries (12 R326, R328). -/
def State.completeBad (s : State) (c : Nat) (q : BankReq) : State :=
  if q.isWrite then (s.hostWrite q.blk q.byteEn q.data q.check true q.owned).wrote c
  else (s.readFail q.blk 2 0).answerReq c q.id .checkFail zeroBeat zeroCheck

/-! ## Refresh (02 R55 to R59) -/

/-- When a refresh begins: after the precharge of an open row. -/
def BankSt.refreshAt (k : BankSt) (col : Nat) : Nat := if k.openRow.isSome then col + tRP else max col k.readyAt

/-- The row at the pointer is refreshed, a repaired one in its spare, and the pointer walks on (R55). -/
def Channel.refreshRow (ch : Channel) (b : Nat) : Channel :=
  ch.modBank b (fun k => { k with refreshed := ch.physRow b k.rowPtr, rowPtr := (k.rowPtr + 1) % 2048 })

/-- One refresh of the controller, from a closed row to a closed row. -/
def Channel.refresh (ch : Channel) (b col : Nat) : Channel :=
  (ch.refreshRow b).modBank b (fun k => { k with openRow := none, wrAt := none, debt := k.debt - 1, readyAt := k.refreshAt col + tRFC })

/-- Every bank precharges and refreshes until its debt is 0 (R68). -/
def Channel.settleDebts (ch : Channel) : Channel :=
  (upFrom 0 128).foldl (fun (ch : Channel) b =>
    ((upFrom 0 (ch.bank b).debt).foldl (fun (ch : Channel) _ => ch.refreshRow b) ch).modBank b (fun k => { k with
      openRow := none, wrAt := none, actAt := none, debt := 0 })) ch

/-- The bank can begin a refresh at this column cycle. -/
def Channel.canRefresh (ch : Channel) (b col : Nat) : Bool :=
  let k := ch.bank b
  ch.arraysOn && k.failing.isNone && ch.actOk (k.refreshAt col) && (if k.openRow.isSome then k.mayClose col else decide (k.readyAt ≤ col))

def State.forced (s : State) (c b col : Nat) : State :=
  let n := (s.chan c).mem.forced
  (s.modChan c (fun ch => { (ch.refresh b col).noteAct col ((ch.bank b).refreshAt col) with mem := { ch.mem with forced := satInc n 0xFFFF } })).noteSat n 0xFFFF c

def execForcedRefresh (c : Chan) (b : BankIx) (col : Nat) (s : State) : Result :=
  let ch := s.chan c
  if !s.port.strict && ch.mustRefresh b && ch.canRefresh b col then .next (s.forced c b col) else .next s

def execIdleRefresh (c : Chan) (b : BankIx) (col : Nat) (s : State) : Result :=
  let ch := s.chan c
  if !s.port.strict && ch.mem.postponeEn && decide ((ch.bank b).queue = [] ∧ 0 < (ch.bank b).debt) && ch.canRefresh b col then
    .next (s.modChan c (fun ch => (ch.refresh b col).noteAct col ((ch.bank b).refreshAt col)))
  else .next s

/-- Where a blackout slot's refresh begins: after the precharge, when Table 1 and R42 allow it. -/
def Channel.slotAt (ch : Channel) (b col : Nat) : Nat :=
  let k := ch.bank b
  ch.actFrom (max ((if k.openRow.isSome then max col k.closeAt else col) + tRP) k.readyAt)

/-- The blackout slot, at cycle 30 b of the period since the origin: precharge for 14 cycles, refresh for 48. The slot is its own tick, so the
debt stays (log 29). -/
def execStrictRefreshSlot (c : Chan) (b : BankIx) (col : Nat) (s : State) : Result :=
  let ch := s.chan c
  if s.port.strict && ch.arraysOn && decide (s.strictCol col = 30 * b.val ∧ (ch.bank b).tickAt ≤ col) then
    .next (s.modChan c (fun ch => ((ch.refreshRow b).modBank b (fun k => { k with
      openRow := none, wrAt := none, readyAt := ch.slotAt b col + tRFC, tickAt := col + 1 })).noteAct col (ch.slotAt b col)))
  else .next s

/-- Four refresh intervals of a step, in column cycles (Table 6). -/
def fourIntervals : Nat → Nat
  | 0 => 62500 | 1 => 31250 | _ => 15625

/-- Bank `b`'s tick falls in this column cycle: at offset floor(b I / 128) of an interval, the intervals counted from cycle 0 (R55, log 86). -/
def tickDue (step b col : Nat) : Bool :=
  let q := fourIntervals step
  let x := col - b * q / 512
  decide (b * q / 512 ≤ col ∧ (4 * x + 3) / q * q / 4 = x)

/-- A tick: debt rises, a pending step takes effect, the highest debt is kept (02 R55 to R57, Table 7). -/
def execRefreshTick (c : Chan) (b : BankIx) (s : State) (col : Nat := 0) : Result :=
  let ch := s.chan c
  if s.port.strict || !ch.arraysOn || !tickDue ch.mem.refStep b col || decide (col < (ch.bank b).tickAt) then .next s
  else
    let d := min 8 ((ch.bank b).debt + 1)
    .next (s.modChan c (fun ch => { ch.modBank b (fun k => { k with debt := d, tickAt := col + 1 }) with
      mem := { ch.mem with refStep := ch.mem.pendStep, maxDebt := max ch.mem.maxDebt d } }))

/-- In self-refresh the die refreshes a row of each bank on its own timer (02 R69). -/
def execDramSelfRefreshTick (c : Chan) (s : State) : Result :=
  if (s.chan c).pwr.selfRefresh && s.pins.vin then
    .next (s.modChan c (fun ch => (upFrom 0 128).foldl Channel.refreshRow ch))
  else .next s

/-! ## Scheduling (02 R50 to R53) -/

/-- The host request the unit serves next. One that came under STRICT is served in arrival order (R53, 11 R309). -/
def State.pick (s : State) (c b col : Nat) : Option BankReq :=
  let k := (s.chan c).bank b
  match k.queue with
  | [] => none
  | [q] => some q
  | q :: r =>
    if q.strict || s.panic c || decide ((s.chan c).mem.cap < q.age col) then some q
    else some (((q :: r).takeWhile (fun x => !x.strict)).find? (fun x => some x.row = k.openRow) |>.getD q)

/-- Retries begin at a bank: the reads outstanding there may be carried past their last moment (12 R327). -/
def State.delayReads (s : State) (c b : Nat) : State :=
  s.modGroup (groupOf c) (fun g => { g with out := g.out.map (fun o => if o.chan = some c ∧ o.bank = some b then { o with delayed := true } else o) })

/-- The column access of a request (02 R41): a block that must verify and does not goes to the retries (12 R325). Its data cross the TSV
path too. -/
def State.access (s : State) (c b col : Nat) (q : BankReq) (garbled : Bool) : State :=
  let s := (s.modBank c b (fun k => { k with queue := dropFirst q k.queue, wrAt := if q.isWrite then some col else k.wrAt })).shadowed
    (q.blk * 64) 64 q.isWrite true
  let reads := !q.isWrite || decide (q.byteEn ≠ BitVec.allOnes 64)
  if reads && !q.owned && (garbled || decide (s.diff q.blk ≠ 0)) then (s.modBank c b (fun k => { k with failing := some q })).delayReads c b
  else if garbled && !q.isWrite then
    let d := s.draw 64
    d.2.answerReq c q.id .ok d.1 (d.2.checkWord q.blk)
  else s.complete c q

/-- A host request may take this column cycle for its access: one that came under STRICT, and one to a bank leased under OPEN, only the
reserved slots, whose column-cycle count is 7 modulo 8 (04 R131, R132, R134, 06 R196). In STRICT a write is over before the bank's
blackout slot. -/
def State.hostSlot (s : State) (c b col : Nat) (q : BankReq) : Bool :=
  (!(q.strict || decide (((s.chan c).bank b).lease = some false)) || decide (col % 8 = 7)) && (!q.isWrite || s.slotClear b col tWR)

/-- The operation that brings the request nearer: precharge, activation or column access. In STRICT a row is opened only where it may close
again before the blackout slot. -/
def State.serve (s : State) (c b col : Nat) (q : BankReq) (garbled : Bool) : State :=
  let ch := s.chan c
  let k := ch.bank b
  match k.openRow with
  | some r =>
    if r = q.row then (if (k.actAt.getD 0) + tRCD ≤ col ∧ s.hostSlot c b col q = true then s.access c b col q garbled else s)
    else if k.mayClose col then s.modBank c b (·.precharge col) else s
  | none =>
    if k.readyAt ≤ col ∧ ch.actOk col = true ∧ s.slotClear b col tRAS = true then
      s.modChan c (fun ch => (ch.modBank b (fun k => { k with openRow := some q.row, actAt := some col, wrAt := none })).noteAct col col)
    else s

def execBankOperation (c : Chan) (b : BankIx) (col : Nat) (garbled : Bool) (s : State) : Result :=
  let ch := s.chan c
  if !ch.serves || (ch.bank b).failing.isSome then .next s
  else if !s.port.strict && ch.mustRefresh b then (if ch.canRefresh b col then .next (s.forced c b col) else .next s)
  else match s.pick c b col with
    | none => .next s
    | some q => .next (s.serve c b col q garbled)

/-! ## CH_MEM_CFG (02 Table 5) -/

def State.memClear (s : State) (c : Nat) : State := s.modChan c (fun ch => { ch with mem := { ch.mem with maxDebt := 0, forced := 0 } })

def State.memCfg (s : State) (c : Nat) (v : W32) : State :=
  let s := s.modChan c (fun ch => { ch with mem := { ch.mem with
    ageCap := bits v.toNat 7 0, panicLevel := bits v.toNat 13 8, postponeEn := v.getLsbD 14 } })
  if v.getLsbD 31 then s.memClear c else s

def execMemClearCounters (c : Chan) (s : State) : Result := .next (s.hostReg (.chan c) .ok (fun s => s.memClear c))

/-- CH_MEM_STATUS (02 Table 7). -/
def State.memStatus (s : State) (c : Nat) : Nat :=
  let m := (s.chan c).mem
  (if s.port.strict then 3 else m.refStep) + fld m.maxDebt 2 + fld m.forced 16

/-! ## Training (02 R61 to R67) -/

/-- The longest run of good taps, the lowest of equals: lower edge and width. -/
def eyeGo (bad : List Nat) : List Nat → Nat × Nat → Nat × Nat → Nat × Nat
  | [], _, best => best
  | k :: r, run, best =>
    let run' := if bad.contains k then (k + 1, 0) else (run.1, run.2 + 1)
    eyeGo bad r run' (if best.2 < run'.2 then run' else best)

/-- A lane after a sweep that met mismatches at the taps listed (R62, R63). -/
def trainLane1 (l : LaneTaps) : LaneTrain :=
  let e := eyeGo l.badTaps (upFrom 0 (laneTaps l.lane)) (0, 0) (0, 0)
  ⟨e.1 + e.2 / 2, e.2, decide (e.2 < (laneMinEye l.lane)), 0⟩

/-- The outcome of the TSV phase, the bond phases, or both: lanes named met mismatches, every other lane none. A lane's mismatch count is
left as it is (Table 11). -/
def TrainSt.sweepLanes (t : TrainSt) (tsv bond : Bool) (bad : List LaneTaps) : TrainSt :=
  let on (l : LaneSel) : Bool := if laneTsv l then tsv else bond
  let hit : List LaneTaps := bad.filter (fun l => laneOk l.lane && on l.lane)
  let ls : List (LaneSel × LaneTrain) := hit.map (fun l => (l.lane, { trainLane1 l with mismatch := (t.lane l.lane).mismatch }))
  let rest : List (LaneSel × LaneTrain) := t.lanes.filterMap (fun (e : LaneSel × LaneTrain) =>
    if !on e.1 then some e
    else if (t.lane e.1).mismatch = 0 ∨ ls.any (fun k => decide (k.1 = e.1)) = true then none
    else some (e.1, { laneClean e.1 with mismatch := (t.lane e.1).mismatch }))
  { t with
    dflt := t.dflt || bond, lanes := ls ++ rest, steered := if tsv then [] else t.steered, tsvOver := t.tsvOver && !tsv
    failedBond := if bond then (ls.filter (fun e => e.2.failed && !(laneTsv e.1))).map (·.1) else t.failedBond }

/-- A whole sweep's outcome. -/
def TrainSt.sweep (t : TrainSt) (bad : List LaneTaps) : TrainSt := t.sweepLanes true true bad

/-- Failed TSV lanes of a direction. -/
def TrainSt.failedTsv (t : TrainSt) (dir : Nat) : List LaneSel := (t.lanes.filter (fun e => e.2.failed && decide (e.1.path.val = dir))).map (·.1)

/-- Steering: up to 2 failed lanes of each direction are carried by spares (R63). -/
def TrainSt.steer (t : TrainSt) : TrainSt :=
  let a := t.failedTsv 2
  let b := t.failedTsv 3
  { t with steered := a.take 2 ++ b.take 2, tsvOver := decide (2 < a.length ∨ 2 < b.length) }

/-- A sweep trains every lane; that of a wake from OFF first the TSV lanes, with the arrays in self-refresh, and once the die is ready
the bond lanes (R62, R70). -/
def execHardwareSweep (c : Chan) (bad : List LaneTaps) (s : State) : Result :=
  let ch := s.chan c
  match ch.train.phase with
  | .tsv =>
    if ch.pwr.fromOff then .next (s.modTrain c (fun t => { t.sweepLanes true false bad with phase := .bond }))
    else .next (s.modTrain c (fun t => { t.sweep bad with phase := .done, lostTaps := none }))
  | .bond => if ch.pwr.selfRefresh then .next s else .next (s.modTrain c (fun t => { t.sweepLanes false true bad with phase := .done, lostTaps := none }))
  | _ => .next s

/-- Spare rows of the physical bank that serves logical bank `b` in use, with those that records not yet merged will take. -/
def State.rowsUsed (s : State) (c b : Nat) : Nat :=
  let l := (s.chan c).rowsOf ((s.chan c).darnOf b).physBank
  l.length + (s.mram.repairs.filter (fun r => decide (r.kind = .row ∧ r.channel = c ∧ r.bank = b) && r.intact && !l.contains r.target)).length

/-- Append a repair record to MRAM; with all 4,096 used, mgmt is set instead (16 R421). A row fault of a bank without a spare row left is
recorded as a bank repair (R74). -/
def State.addRepair (s : State) (k : RepairKind) (c b target : Nat) : State :=
  let full := decide (k = .row ∧ 32 ≤ s.rowsUsed c b)
  let k := if full then .bank else k
  let target := if full then 0 else target
  if s.mram.repairs.length < 4096 then
    { s with mram := { s.mram with repairs := s.mram.repairs ++ [⟨k, c, b, target, s.mram.repairs.length + 1, true⟩] } }
  else s.alert 11 (plainRec 11 c 0)

/-- The channel goes offline (01 R23). -/
def State.goOffline (s : State) (c : Nat) : State := (s.modChan c (fun ch => { ch with offline := true })).alert 7 (plainRec 7 c 0)

/-- Logical banks and physical slices whose bond lanes failed, each once. A spare bank's slices and the slice at a gap are powered off (01
R19, R20). -/
def Channel.badSlices (ch : Channel) : List (Nat × Nat) :=
  ch.train.failedBond.foldl (fun (l : List (Nat × Nat)) x => match ch.bankOf x.physBank with
    | some b => if l.contains (b, x.physSlice) || decide ((ch.darnOf b).gap = x.physSlice) then l else l ++ [(b, x.physSlice)]
    | none => l) []

/-- Records for the failed slices of a sweep outside boot (R64). -/
def State.repairSlices (s : State) (c : Nat) : State :=
  (s.chan c).badSlices.foldl (fun s e =>
    if ((s.chan c).darnOf e.1).gap = 16 then s.addRepair .gap c e.1 e.2 else s.addRepair .bank c e.1 0) s

/-! ### CH_TRAIN_CTRL (Table 9) -/

def TrainSt.busy (t : TrainSt) : Bool := decide (t.phase ≠ .none) || t.patterning

/-- A sweep request: accepted while no bank is leased and nothing runs. -/
def State.sweepReq (s : State) (c : Nat) : State :=
  let ch := s.chan c
  if ch.anyLease || ch.train.busy then s.modTrain c (fun t => { t with refused := true })
  else s.modTrain c (fun t => { t with phase := .tsv, refused := false })

/-- A nudge of the selected main sampler. -/
def State.nudge (s : State) (c : Nat) (up : Bool) : State :=
  s.modTrain c (fun t =>
    let l := selLane t.sel
    let v := t.lane l
    let ok := if up then decide (v.mainTap + 1 < (laneTaps l)) else decide (0 < v.mainTap)
    if t.freeze || !ok || !(laneOk l) then { t with refused := true }
    else { t.setLane l { v with mainTap := if up then v.mainTap + 1 else v.mainTap - 1 } with refused := false })

/-- The selected physical bank serves a leased logical bank. -/
def Channel.selLeased (ch : Channel) : Bool :=
  !(laneTsv (selLane ch.train.sel)) && (upFrom 0 128).any (fun b => decide ((ch.darnOf b).physBank = (selLane ch.train.sel).physBank) && ch.leased b)

/-- The pattern in force: 5 to 7 act as 0. -/
def patternOf (k : Nat) : Nat := if 5 ≤ k then 0 else k

/-- Byte `i` of the data of a training row (Table 9). PRBS bytes are free: the spec gives no seed (log 87). -/
def TrainRow.byte (t : TrainRow) (i : Nat) : Byte :=
  match t.pattern with
  | 0 => 0
  | 3 => if i % 2 = 0 then 0x55 else 0xAA
  | 4 => BitVec.ofNat 8 (2 ^ (i % 8))
  | _ => Config.freeByte t.draw i

/-- pattern_go (R66): the selected pattern goes into the training row of the selected physical bank. -/
def State.patternGo (s : State) (c : Nat) : State :=
  let ch := s.chan c
  if s.port.strict || ch.train.busy || ch.selLeased then s.modTrain c (fun t => { t with refused := true })
  else
    let p := patternOf ch.train.pattern
    let row (ch : Channel) : Channel :=
      if p = 0 then ch else { ch with trainRows := tput ch.trainRows (selLane ch.train.sel).physBank ⟨p, s.free⟩ }
    { s.modChan c (fun ch => { row ch with train :=
        { ch.train.setLane (selLane ch.train.sel) { ch.train.lane (selLane ch.train.sel) with mismatch := 0 } with patterning := true, refused := false } }) with
      free := s.free + 1 }

/-- A write of CH_TRAIN_CTRL: its RW fields, then its requests from bit 0 up. -/
def State.trainCtrl (s : State) (c : Nat) (v : W32) : State :=
  let s := s.modTrain c (fun t => { t with freeze := v.getLsbD 1, pattern := bits v.toNat 6 4 })
  let s := if v.getLsbD 0 then s.sweepReq c else s
  let s := if bits v.toNat 3 2 = 1 then s.nudge c true else if bits v.toNat 3 2 = 2 then s.nudge c false else s
  if v.getLsbD 7 then s.patternGo c else s

/-- A write of CH_TRAIN_LANE; shadow_en 1 clears mismatch (Table 10). -/
def State.trainLane (s : State) (c : Nat) (v : W32) : State :=
  s.modTrain c (fun t =>
    let t := { t with sel := v &&& 0x1FFFFFFF#32 }
    if v.getLsbD 28 then t.setLane (selLane v) { t.lane (selLane v) with mismatch := 0 } else t)

def TrainSt.ctrlWord (t : TrainSt) : Nat := fld (b2n t.freeze) 1 + fld t.pattern 4 + fld (b2n t.busy) 8 + fld (b2n t.refused) 9

/-- CH_TRAIN_RESULT of the selected lane (Table 11). -/
def TrainSt.resultWord (t : TrainSt) : Nat :=
  let v := t.lane (selLane t.sel)
  v.mainTap % 128 + fld (min v.eyeWidth 127) 8 + fld (b2n v.failed) 15 + fld v.mismatch 16

def execSweep (c : Chan) (s : State) : Result := .next (s.hostReg (.chan c) .ok (fun s => s.sweepReq c))
def execNudgeUp (c : Chan) (s : State) : Result := .next (s.hostReg (.chan c) .ok (fun s => s.nudge c true))
def execNudgeDown (c : Chan) (s : State) : Result := .next (s.hostReg (.chan c) .ok (fun s => s.nudge c false))
def execPatternGo (c : Chan) (s : State) : Result := .next (s.hostReg (.chan c) .ok (fun s => s.patternGo c))

/-- A request is pending at the selected physical bank. -/
def Channel.selPending (ch : Channel) : Bool :=
  !(laneTsv (selLane ch.train.sel)) && (match ch.bankOf (selLane ch.train.sel).physBank with
    | some b => decide ((ch.bank b).queue ≠ []) || (ch.bank b).failing.isSome
    | none => false)

/-- The helper has read the row back. It yields to every request, and runs neither on a leased bank nor in STRICT (R66). -/
def execPatternRunDone (c : Chan) (mismatches : Nat) (s : State) : Result :=
  let ch := s.chan c
  if !ch.train.patterning || s.port.strict || ch.selLeased || ch.selPending then .next s
  else .next ((s.modTrain c (fun t => { t with patterning := false })).mismatches c mismatches)

end Sys2Proof.Machine
end

