-- ==== Sys2Proof/Machine/Control.lean ====
section
/-! DEFINITION. What every engine executes, the control core, the fetch unit and the instruction cache (06 R173 to R180, R188 to R195). -/

namespace Sys2Proof.Machine

/-! ## END (06 R175) -/

/-- A command all of whose slices are done is finished. -/
def State.allDone (s : State) (c r pos : Nat) : State :=
  s.modCmd c r pos (fun m => if m.todo = [] ∧ m.running = [] ∧ m.stopped = [] ∧ m.fault = none then { m with phase := .finished } else m)

/-- The slice has finished its LAYER once END has retired on every engine with a program; it reports to the sequencer.
SL_ICACHE goes on showing the pinned set of a strict LAYER that has ended. DESIGN CHOICE, log 94. -/
def State.sliceFinish (s : State) (sl : SliceId) : State :=
  let x := s.slice sl
  match x.layer with
  | none => s
  | some l =>
    if (upFrom 0 4).any (fun i => (x.eng (engOf i)).active) then s
    else
      ((s.modSlice sl (fun x => { x with layer := none, stopReq := false, pinned := false, icache := x.icache.map (fun c => { c with pinned := false }) })).modCmd
        (slChan sl) l.record.val l.pos (fun m => { m with running := m.running.filter (· ≠ sl), finished := m.finished ++ [(sl, x.summary)] })).allDone
          (slChan sl) l.record.val l.pos

/-- The messages BX of the slice has sent have been performed at their mailboxes. -/
def State.sent (s : State) (sl : SliceId) : Bool :=
  !s.msgQ.any (fun m => match m.src with | .slice x .. => decide (x = sl) | _ => false)

/-- END retires once every earlier operation of its engine has been performed: BX drains while a message of its is on the way. A missed
line it waits for no longer is dropped. -/
def execEndOp (sl : SliceId) (e : Engine) (s : State) : Result :=
  let s := if ((s.slice sl).eng e).state = .draining then s.modSlice sl (·.modEng e (fun g => { g with state := .issuing })) else s
  if e = .bx && !s.sent sl then
    .next (match s.issueAt sl e with
      | .no t => t
      | .go x _ => s.putSlice sl (x.modEng e (fun g => { g with state := .draining })))
  else .next ((s.runOp sl e (fun x _ => .done (x.modEng e (fun g => { g with active := false, miss := none })) 1)).sliceFinish sl)

def execNop (sl : SliceId) (e : Engine) (s : State) : Result := .next (s.runOp sl e (fun x _ => .done x 1))

/-! ## Semaphores and fences (06 R192 to R195) -/

/-- SEM.SIG waits while the sum would exceed 255. -/
def execSemSig (sl : SliceId) (e : Engine) (k : Fin 16) (n : Fin 256) (s : State) : Result :=
  if n = 0 then .refused (.noEncoding "SEM_SIG")
  else .next (s.runOp sl e (fun x _ =>
    if x.sem k.val + n.val ≤ 255 then .done (x.setSem k.val (x.sem k.val + n.val)) 1 else .wait x k 256))

def execSemWait (sl : SliceId) (e : Engine) (k : Fin 16) (n : Fin 256) (s : State) : Result :=
  if n = 0 then .refused (.noEncoding "SEM_WAIT")
  else .next (s.runOp sl e (fun x _ =>
    if x.semReady e k.val n.val then .done (x.setSem k.val (x.sem k.val - n.val)) 1 else .wait x k n.val))

/-- Each operation performs its writes in its own step (log 1) but BX.SEND, for whose message a fence waits. -/
def execFenceEngine (sl : SliceId) (e : Engine) (s : State) : Result :=
  if e = .bx && !s.sent sl then .next s else .next (s.runOp sl e (fun x _ => .done x 1))

def execFenceSlice (sl : SliceId) (e : Engine) (s : State) : Result :=
  if s.sent sl then .next (s.runOp sl e (fun x _ => .done x 1)) else .next s

/-! ## Jumps (06 R188, R191) -/

/-- Go to the engine's program counter plus `off`; what its queue held after the jump is dropped. -/
def SliceSt.jump (x : SliceSt) (e : Engine) (off : Int) : SliceSt :=
  x.modEng e (fun g =>
    let len := g.queue.headD 0
    { g with pc := g.pc + BitVec.ofInt 18 off - BitVec.ofNat 18 len, queue := [len] })

def execJmp (sl : SliceId) (e : Engine) (off : Int) (s : State) : Result :=
  if e = .cx then .refused (.noEncoding "JMP") else .next (s.runOp sl e (fun x _ => .done (x.jump e off) 1))

def execBrar (sl : SliceId) (e : Engine) (a : AReg) (off : Int) (s : State) : Result :=
  if e = .cx then .refused (.noEncoding "BRAR")
  else .next (s.runOp sl e (fun x _ => .done (if x.arI e a ≠ 0 then x.jump e off else x) 1))

/-! ## The control core (06 R188 to R190, Table 8) -/

/-- An operation of CX that always retires. -/
def cxOp (f : SliceSt → SliceSt) : SliceSt → LayerRun → OpOut := fun x _ => .done (f x) 1

def SliceSt.val16 (x : SliceSt) : RegImm16 → W32
  | .reg a => x.ar a
  | .imm i => i.signExtend 32

/-- A shift amount, modulo 32. -/
def SliceSt.amount (x : SliceSt) : RegImm5 → Nat
  | .reg a => (x.ar a).toNat % 32
  | .imm i => i.toNat

def cxTrue (c : CxCond) (a b : W32) : Bool :=
  match c with
  | .eq => decide (a = b) | .ne => decide (a ≠ b) | .ltu => a.ult b | .geu => !a.ult b | .lts => a.slt b | .ges => !a.slt b

def execCxLi (sl : SliceId) (d : AReg) (imm : W32) (s : State) : Result := .next (s.runOp sl .cx (cxOp (fun x => x.setAr d imm)))

def execCxAdd (sl : SliceId) (d : AReg) (a : AReg) (b : RegImm16) (s : State) : Result :=
  .next (s.runOp sl .cx (cxOp (fun x => x.setAr d (x.ar a + x.val16 b))))

def execCxSub (sl : SliceId) (d : AReg) (a : AReg) (b : RegImm16) (s : State) : Result :=
  .next (s.runOp sl .cx (cxOp (fun x => x.setAr d (x.ar a - x.val16 b))))

def execCxShl (sl : SliceId) (d : AReg) (a : AReg) (b : RegImm5) (s : State) : Result :=
  .next (s.runOp sl .cx (cxOp (fun x => x.setAr d (x.ar a <<< x.amount b))))

def execCxShr (sl : SliceId) (d : AReg) (a : AReg) (b : RegImm5) (s : State) : Result :=
  .next (s.runOp sl .cx (cxOp (fun x => x.setAr d (x.ar a >>> x.amount b))))

def execCxSar (sl : SliceId) (d : AReg) (a : AReg) (b : RegImm5) (s : State) : Result :=
  .next (s.runOp sl .cx (cxOp (fun x => x.setAr d ((x.ar a).sshiftRight (x.amount b)))))

def execCxCmp (sl : SliceId) (cond : CxCond) (d : AReg) (a : AReg) (b : RegImm16) (s : State) : Result :=
  .next (s.runOp sl .cx (cxOp (fun x => x.setAr d (if cxTrue cond (x.ar a) (x.val16 b) then 1 else 0))))

def execCxSel (sl : SliceId) (d : AReg) (cc : AReg) (a : AReg) (b : AReg) (s : State) : Result :=
  .next (s.runOp sl .cx (cxOp (fun x => x.setAr d (if x.ar cc ≠ 0 then x.ar a else x.ar b))))

def execCxLdp (sl : SliceId) (d : AReg) (word : Fin 64) (s : State) : Result :=
  .next (s.runOp sl .cx (cxOp (fun x => x.setAr d (x.skeinW word.val))))

def execCxStp (sl : SliceId) (word : Fin 64) (a : AReg) (s : State) : Result :=
  .next (s.runOp sl .cx (cxOp (fun x => x.setSkein word.val (x.ar a))))

def execCxId (sl : SliceId) (d : AReg) (s : State) : Result :=
  .next (s.runOp sl .cx (cxOp (fun x => x.setAr d (sl.setWidth 32))))

/-- The branch is taken. -/
def brTaken (x : SliceSt) : BrTest → Bool
  | .always => true
  | .zero a => decide (x.ar a = 0)
  | .nonzero a => decide (x.ar a ≠ 0)

def execCxBr (sl : SliceId) (test : BrTest) (target : Int) (s : State) : Result :=
  .next (s.runOp sl .cx (cxOp (fun x => if brTaken x test then x.jump .cx target else x)))

/-- The five words of a summary entry, in ar[d] to ar[d + 4]. -/
def SliceSt.setSummary (x : SliceSt) (d : Nat) (e : SumEntry) : SliceSt :=
  (((((x.setAr (Fin.ofNat 32 d) e.sum).setAr (Fin.ofNat 32 (d + 1)) e.max).setAr (Fin.ofNat 32 (d + 2)) e.nonzero).setAr
    (Fin.ofNat 32 (d + 3)) e.nans).setAr (Fin.ofNat 32 (d + 4)) e.flags)

/-- The entry a CX.SUMPOP reads when semaphore 15 was raised without a post: free (log 19). -/
def freeEntry (fv : Nat) : SumEntry :=
  let w (k : Nat) : W32 := BitVec.ofNat 32 (leNat ((upFrom (4 * k) 4).map (Config.freeByte fv)))
  ⟨w 0, w 1, w 2, w 3, w 4⟩

def sumpopOp (fv : Nat) (d : AReg) (x : SliceSt) (_ : LayerRun) : OpOut :=
  if 255 ≤ x.sem 14 then .wait x 14 256
  else if x.semReady .cx 15 1 then
    let y := x.setSem 15 (x.sem 15 - 1)
    let y := { y.setSummary d.val (y.sumQ.headD (freeEntry fv)) with sumQ := y.sumQ.drop 1 }
    .done (y.setSem 14 (y.sem 14 + 1)) 1
  else .wait x 15 1

def execCxSumpop (sl : SliceId) (d : AReg) (s : State) : Result :=
  if 1 ≤ d.val ∧ d.val ≤ 27 then .next ({ s with free := s.free + 1 }.runOp sl .cx (sumpopOp s.free d))
  else .refused (.noEncoding "CX_SUMPOP")

def execCxSumset (sl : SliceId) (bit : Fin 16) (a : AReg) (s : State) : Result :=
  .next (s.runOp sl .cx (cxOp (fun x =>
    let m : W16 := BitVec.ofNat 16 (2 ^ bit.val)
    { x with summary := if x.ar a ≠ 0 then x.summary ||| m else x.summary &&& ~~~m })))

/-! ## Fetch and the instruction cache (06 R173, R178, R180) -/

/-- A line held in the cache. -/
def SliceSt.holds (x : SliceSt) (ln : Nat) : Bool := x.icache.any (fun c => c.line = ln)

/-- Insert or touch a line: most recent first; a set holds 4 lines and drops its least recently used one that is not pinned. -/
def touchLine (cache : List ILine) (ln : Nat) (pin : Bool) : List ILine :=
  let old := (cache.find? (fun c => c.line = ln)).map (·.pinned)
  let rest := cache.filter (fun c => c.line ≠ ln)
  let peers := rest.filter (fun c => c.line % 32 = ln % 32)
  let victim := if 4 ≤ peers.length then (peers.reverse.find? (fun c => !c.pinned)).map (·.line) else none
  ⟨ln, pin || old.getD false⟩ :: rest.filter (fun c => decide (some c.line ≠ victim))

/-- The code-store address fetched next for an engine. -/
def EngineSt.fetchAt (g : EngineSt) : Nat := g.pc.toNat + g.queue.foldl (· + ·) 0

/-- An engine the fetch unit would serve: a program with code left to fetch, and at least 4 free queue entries. -/
def EngineSt.wantsFetch (g : EngineSt) : Bool :=
  g.active && decide (g.queue.length ≤ 12) && (decide (g.state = .issuing) || decide (g.state = .semWait)) && g.miss.isNone
    && (decide (g.fetchAt < g.hi) || decide (g.queue = []))

/-- The engine served now, in rotation MX, VX, BX, CX. -/
def SliceSt.fetchTurn (x : SliceSt) : Option Nat :=
  ((upFrom 0 4).map (fun i => (x.fetchNext + i) % 4)).find? (fun i => (x.eng (engOf i)).wantsFetch)

/-- Lines of `n` bytes of code at `a`. -/
def linesOf (a n : Nat) : List Nat := if n = 0 then [] else upFrom (a / 64) ((a + n - 1) / 64 + 1 - a / 64)

def execFetch (sl : SliceId) (e : Engine) (lens : List Nat) (parity : Option Storage) (s : State) : Result :=
  let x := s.slice sl
  let g := x.eng e
  match x.layer with
  | none => .next s
  | some l =>
    if x.stopReq || (x.heldByDebug && !x.stepping) || decide (x.fetchTurn ≠ some (engIx e)) then .next s
    else if g.queue = [] ∧ (g.pc.toNat < g.lo ∨ g.hi ≤ g.pc.toNat) then .next (s.sliceFault sl e causeRange (codeDetail g.pc.toNat))
    else
      match parity with
      | some k => .next ((s.parityErr (slChan sl) l.tag 1).sliceFault sl e causeDataCheck (parityDetail k))
      | none =>
        if !(lens.all (fun n => decide (1 ≤ n))) || decide (64 < lens.foldl (· + ·) 0) || decide (16 < g.queue.length + lens.length) then .next s
        else
          let s := s.modSlice sl (fun x => { x with fetchNext := (engIx e + 1) % 4 })
          let ls := linesOf g.fetchAt (max 1 (lens.foldl (· + ·) 0))
          match ls.find? (fun ln => !x.holds ln || (l.strict && !(x.icache.any (fun c => c.line = ln && c.pinned)))) with
          | some ln =>
            if l.strict then .next (s.sliceFault sl e causeCodeMiss (codeDetail (64 * ln)))
            else .next ((s.modSlice sl (fun x => x.modEng e (fun g => { g with miss := some ln }))).perfAdd sl 5 1)
          | none => .next (s.modSlice sl (fun x => { x.modEng e (fun g => { g with queue := g.queue ++ lens }) with
              icache := ls.foldl (fun c ln => touchLine c ln false) x.icache }))

/-- The code store answers a missed line (06 R178); a line of a page no longer mapped is not kept (06 R179). -/
def execIcacheMissReturn (sl : SliceId) (e : Engine) (s : State) : Result :=
  match ((s.slice sl).eng e).miss with
  | none => .next s
  | some ln =>
    let keep := (s.chan (slChan sl)).mapped (ln / 64)
    .next (s.modSlice sl (fun x => { x.modEng e (fun g => { g with miss := none }) with icache := if keep then touchLine x.icache ln false else x.icache }))

/-- SL_PERF_CTL clear (06 R172, Table 5). -/
def execPerfClear (sl : SliceId) (s : State) : Result := .next (s.modSlice sl (fun x => { x with perf := [], perfSat := 0 }))

end Sys2Proof.Machine
end

