-- ==== Sys2Proof/Machine/Layer.lean ====
section
/-! DEFINITION. Work on slices: digests before it (11 R318 to R321), LAYER, PATCH, COPY, FILL and GATHER commands (05 R154, R158; 09
R252 to R267), starts, stops and suspension (06 R174, R176; 10 R297). -/

namespace Sys2Proof.Machine

/-! ## Turns and leases (05 R158, 04 R129) -/

/-- The bank can begin work: it is ON, and host requests admitted before a lease have been performed. -/
def State.bankReady (s : State) (sl : SliceId) : Bool :=
  let k := (s.chan (slChan sl)).bank (slBank sl)
  decide (k.pwr.state = .on) && (k.lease.isSome || (decide (k.queue = []) && k.failing.isNone))

/-- The slice, running nothing, has come to this work: no sweep is under way (02 R64), and no suspended LAYER may go on first (10 R297). -/
def State.turn (s : State) (sl : SliceId) (r : Rec) (pos : Nat) : Bool :=
  let x := s.slice sl
  x.layer.isNone && decide (x.nextWork = some ⟨r, pos⟩) && s.bankReady sl && (s.chan (slChan sl)).runs
    && decide ((s.chan (slChan sl)).train.phase = .none) && !(match x.shadow with | some f => f.satisfied | none => false)

/-- CH_LEASE_POLICY of a bank. -/
def Channel.closed (ch : Channel) (b : Nat) : Bool := (tget ch.policy (b / 32) 0).getLsbD (b % 32)

/-- A bank's slices start executing a command: the lease begins, its policy sampled. -/
def State.leaseFor (s : State) (sl : SliceId) (r pos : Nat) : State :=
  let c := slChan sl
  let b := slBank sl
  (s.modChan c (fun ch => ch.modBank b (fun k => { k with lease := some (k.lease.getD (ch.closed b)) }))).modCmd c r pos
    (fun m => { m with banks := if m.banks.contains b then m.banks else m.banks ++ [b] })

/-- A command whose hashing, if it has any, is done. -/
def Cmd.hashed (m : Cmd) : Bool := match m.hash with | none => true | some h => h.formed.isSome

/-- A LAYER whose digest, if any, is formed is done where it selects no slice. -/
def State.hashedDone (s : State) (c : Chan) (r : Rec) (pos : Nat) : State :=
  match s.cmd c r pos with
  | none => s
  | some m => if m.typ = .layer ∧ m.hashed = true ∧ workSlices c m.typ m.raw = [] then s.allDone c r pos else s

/-- A command that may go on with its work. -/
def Cmd.goes (m : Cmd) : Bool := !m.stopReq && m.fault.isNone && !m.stopEvent

/-! ## Digests (11 R318 to R321) -/

/-- The tensor record of entry `e`. -/
def Cmd.tensor (m : Cmd) (e : Nat) : Option TRec :=
  if m.typ = .digest then (match parseDesc .digest m.desc with | some (.digest t) => some t | _ => none)
  else match provEntry m.prov e with | some (.inl t) => some t | _ => none

/-- Where the points of leaf `i` lie, runs merged. -/
def TRec.leafReads (t : TRec) (i : Nat) : List (Nat × Nat) :=
  let first := i * 65536 / t.w
  spans ((upFrom first (min (65536 / t.w) (t.points - first))).map (fun k => ((t.addr 0 (t.coords k)).toNat, t.w)))

/-- Bytes of leaf `i`: its points in canonical order, read with verification. -/
def State.leafBytes (s : State) (t : TRec) (i : Nat) : Except Nat (List Byte) :=
  let first := i * 65536 / t.w
  (upFrom first (min (65536 / t.w) (t.points - first))).foldlM (fun acc k =>
    (s.seqRead (t.addr 0 (t.coords k)).toNat t.w).map (fun bs => acc ++ bs)) []

def execLeafHash (c : Chan) (r : Rec) (pos : CmdNo) (s : State) : Result :=
  match s.cmd c r pos with
  | none => .next s
  | some m =>
    if !m.goes then .next s
    else match m.hash with
    | none => .next s
    | some h => match h.todo with
      | [] => .next s
      | (e, i) :: more => match m.tensor e with
        | none => .next s
        | some t =>
          let rd := t.leafReads i
          if !s.banksServe rd then .next (s.wakeFor rd)
          else
          let s := s.touch rd []
          match s.leafBytes t i with
          | .error b => .next ((s.readFail (b / 64) 1 m.tag).cmdFault c r pos (s.seqFault b))
          | .ok bs => .next (s.modCmd c r pos (fun m => { m with hash := some { h with todo := more, got := h.got ++ [((e, i), shake256 (0x00 :: bs))] } }))

/-- One level of the tree over leaves. -/
def pairLeaves : List (List Byte) → List (List Byte)
  | a :: b :: r => shake256 (0x01 :: (a ++ b)) :: pairLeaves r
  | l => l

def treeRoot : Nat → List (List Byte) → List Byte
  | 0, l => l.headD []
  | n + 1, l => if l.length ≤ 1 then l.headD [] else treeRoot n (pairLeaves l)

/-- The tensor digest T of entry `e` from its leaves. -/
def tensorDigest (t : TRec) (h : HashJob) (e : Nat) : List Byte :=
  let leaves := (upFrom 0 t.leaves).map (fun i => ((h.got.find? (fun g => g.1 = (e, i))).map (·.2)).getD [])
  shake256 (0x02 :: (leBytes 8 (t.points * t.w) ++ treeRoot 48 leaves))

def execDigest (c : Chan) (r : Rec) (pos : CmdNo) (s : State) : Result :=
  match s.cmd c r pos with
  | none => .next s
  | some m => match m.hash, m.tensor 0 with
    | some h, some t =>
      if m.fresh .digest && m.fault.isNone && decide (h.todo = []) then
        .next (s.modCmd c r pos (fun m => { m with phase := .finished, hash := some { h with formed := some (tensorDigest t h 0) } }))
      else .next s
    | _, _ => .next s

/-- Skein words a LAYER loads. -/
def Cmd.loadSkein (m : Cmd) (k : Nat) (old : W32) : W32 := (m.skein[k - bodyF m.raw 50 45]?).getD old |> fun v => if k < bodyF m.raw 50 45 then old else v

/-- The 64 skein words of a slice as they stand at LAYER start. -/
def State.startSkein (s : State) (m : Cmd) (sl : SliceId) : List W32 := (upFrom 0 64).map (fun k => m.loadSkein k ((s.slice sl).skeinW k))

/-- What stands before the count in the provenance string (R320). -/
def State.provHead (s : State) (c : Chan) (r : Rec) (m : Cmd) : List Byte :=
  match m.typ with
  | .layer =>
    let ch := s.chan c
    let obj := ch.layerObj (ch.ctx r) m.raw
    let sls := workSlices c m.typ m.raw
    ((obj.map (·.digest)).getD []) ++ leBytes 1 (bodyF m.raw 43 38) ++ leBytes 4 sls.length
      ++ sls.flatMap (fun sl => (s.startSkein m sl).flatMap (fun w => leBytes 4 w.toNat))
  | _ => leBytes 2 (bodyF m.raw 43 33) ++ m.desc

def State.provString (s : State) (c : Chan) (r : Rec) (m : Cmd) (h : HashJob) : List Byte :=
  let es := (provEntries m.prov).getD []
  0x03 :: (leBytes 1 (typeCode m.typ) ++ s.provHead c r m ++ leBytes 1 es.length
    ++ (upFrom 0 es.length).flatMap (fun (e : Nat) => match es[e]? with
      | some (.inl t) => tensorDigest t h e
      | some (.inr d) => d
      | none => []))

/-- The digest is formed once every leaf is hashed; that of a LAYER with its skein words read and every slice at its turn: the leases begin with
it, so that the words it binds are those the LAYER starts with (11 R320). -/
def execProvenanceDigest (c : Chan) (r : Rec) (pos : CmdNo) (s : State) : Result :=
  match s.cmd c r pos with
  | none => .next s
  | some m => match m.hash with
    | none => .next s
    | some h =>
      let ready := decide (m.typ ≠ .layer) || (decide (m.phase = .executing) && m.todo.all (fun sl => s.turn sl r pos))
      if m.typ = .digest || h.formed.isSome || !m.goes || decide (h.todo ≠ []) || !ready then .next s
      else
        let t := if m.typ = .layer then m.todo.foldl (fun s sl => s.leaseFor sl r pos) s else s
        .next ((t.modCmd c r pos (fun m => { m with hash := some { h with formed := some (shake256 (s.provString c r m h)) } })).hashedDone c r pos)

/-! ## PATCH (05 R154) -/

/-- Entry `i` applied to a slice of ordinal `o`. -/
def patchWord (inl : List Byte) (o : Nat) (x : SliceSt) (i : Nat) : SliceSt :=
  let v : W32 := BitVec.ofNat 32 (leAt inl (16 * i) 4)
  let mask : W32 := BitVec.ofNat 32 (leAt inl (16 * i + 4) 4)
  let k := leAt inl (16 * i + 8) 4 % 64
  let step : W32 := BitVec.ofNat 32 (leAt inl (16 * i + 12) 4)
  x.setSkein k ((x.skeinW k &&& ~~~mask) ||| ((v + step * BitVec.ofNat 32 o) &&& mask))

def patchSlice (raw : List Byte) (o : Nat) (x : SliceSt) : SliceSt :=
  (upFrom 0 (bodyF raw 35 32)).foldl (patchWord (inlineData raw) o) x

/-- A slice's part is done: its work leaves the slice. -/
def State.partDone (s : State) (c : Chan) (r : Rec) (pos : Nat) (sl : SliceId) : State :=
  (s.modSlice sl (fun x => { x with work := dropFirst ⟨r, pos⟩ x.work })).modCmd c r pos (fun m => { m with
    todo := m.todo.filter (· ≠ sl), running := m.running.filter (· ≠ sl), finished := m.finished ++ [(sl, 0)] })

/-- A slice's rank in the command's selection. -/
def Cmd.ordinal (m : Cmd) (c : Nat) (sl : SliceId) : Nat := (workSlices c m.typ m.raw).findIdx (fun x => x = sl)

def execPatch (c : Chan) (r : Rec) (pos : CmdNo) (s : State) : Result :=
  match s.cmd c r pos with
  | none => .next s
  | some m =>
    if m.typ ≠ .patch || !m.goes then .next s
    else .next ((m.todo.foldl (fun s sl =>
      if s.turn sl r pos then (s.modSlice sl (patchSlice m.raw (m.ordinal c sl))).partDone c r pos sl else s) s).allDone c r pos)

/-! ## COPY, FILL and GATHER (09) -/

/-- Who moves for a command on a slice. -/
def Cmd.mover (m : Cmd) (c : Chan) (r : Rec) (gen : Byte) (sl : SliceId) : Mover := ⟨⟨sl, m.ordinal c sl⟩, .cmd m.tag c r gen, m.tag⟩

/-- A movement of a command fails on a slice. -/
def State.partFault (s : State) (c : Chan) (r : Rec) (pos : Nat) (sl : SliceId) (e : MoveErr) (tag : W32) : State :=
  (s.noteErr e tag).cmdFault c r pos ⟨BitVec.ofNat 8 e.cause, sl, .bx, BitVec.ofNat 64 e.detail⟩

/-- A step of a command on one slice: the state, what failed, and whether the slice's part is done. -/
abbrev Part := State → Cmd → Mover → State × Option MoveErr × Bool

/-- Do a part once every bank of its accesses serves it: else it waits, and channels that sleep are woken (02 R50, R53; 13 R350). -/
def State.partMoved (s : State) (reads writes : List (Nat × Nat)) (f : State → State × Option MoveErr × Bool) : State × Option MoveErr × Bool :=
  if s.banksServe (reads ++ writes) then f (s.touch reads writes) else (s.wakeFor (reads ++ writes), none, false)

/-- Do the parts of the slices whose turn has come, in ordinal order, until one fails; a slice one of whose payloads is asked for again waits
(12 R334). -/
def State.doParts (s : State) (c : Chan) (r : Rec) (pos : Nat) (f : Part) : State :=
  match s.cmd c r pos with
  | none => s
  | some m0 =>
    let gen := (s.ctx c r).gen
    (m0.todo.foldl (fun s sl => match s.cmd c r pos with
      | none => s
      | some m =>
        if m.goes && s.turn sl r pos && !s.resending (fun g => match g with
            | .slice x _ => decide (x = sl)
            | .command d k q => decide (d = c ∧ k = r ∧ q.val = pos)
            | _ => false) then
          let s := s.leaseFor sl r pos
          let (t, e, done) := f s m (m.mover c r gen sl)
          (match e with
          | some e => t.partFault c r pos sl e m.tag
          | none => if done then t.partDone c r pos sl else t)
        else s) s).allDone c r pos

/-- Bytes that higher ordinals of a copy have written already: their points win (R257). -/
def Cmd.later (m : Cmd) (c : Nat) (d : CopyD) (o n : Nat) : List (Nat × Nat) :=
  m.finished.flatMap (fun e =>
    let k := m.ordinal c e.1
    if d.dst.scr || decide (k ≤ o) then [] else (d.accesses ⟨e.1, k⟩ (d.share k n).1 (d.share k n).2).2)

/-- A byte address lies in one of the ranges. -/
def inRanges (rs : List (Nat × Nat)) (a : Nat) : Bool := rs.any (fun r => decide (r.1 ≤ a) && decide (a < r.1 + r.2))

/-- Writes without the bytes that lie in the ranges: a write that meets none stays whole. -/
def dropRanges (rs : List (Nat × Nat)) (ws : List (Nat × List Byte)) : List (Nat × List Byte) :=
  ws.flatMap (fun e =>
    if (upFrom e.1 e.2.length).any (inRanges rs) then ((upFrom e.1 e.2.length).zip (e.2.map (fun b => [b]))).filter (fun q => !inRanges rs q.1) else [e])

/-- What a slice's part of a copy writes: its points, but for the bytes a higher ordinal has written (R257). -/
def Cmd.copyWrites (m : Cmd) (c : Nat) (d : CopyD) (o n : Nat) (ws : List (Nat × List Byte)) : List (Nat × List Byte) :=
  if m.later c d o n = [] then ws else dropRanges (m.later c d o n) ws

/-- Points a slice performs, all of them read and written, or read into its staging area (R254, R256, R257). -/
def copyPart (c : Chan) (r : Rec) (pos : Nat) (d : CopyD) : Part := fun s m mv =>
  let n := (workSlices c m.typ m.raw).length
  let (first, k) := d.share (m.ordinal c mv.p.sl) n
  let acc := d.accesses mv.p first k
  if d.staged then
    s.partMoved acc.1 [] fun s =>
    match s.copyRead mv d first k with
    | .error e => (s, some e, false)
    | .ok ws =>
      (((s.scrubStage mv.p.sl d).modCmd c r pos (fun m => { m with
        todo := m.todo.filter (· ≠ mv.p.sl), running := m.running ++ [mv.p.sl], staging := m.staging ++ [(mv.p.sl, ws)] })).perfAdd mv.p.sl 2
          (portSlots mv.p.sl acc.1 []), none, false)
  else
    s.partMoved acc.1 acc.2 fun s =>
    match s.copyRead mv d first k with
    | .error e => (s.perfAdd mv.p.sl 2 (portSlots mv.p.sl acc.1 acc.2), some e, true)
    | .ok ws =>
      let q := s.moveWrite mv d.dst.scr (m.copyWrites c d (m.ordinal c mv.p.sl) n ws)
      (q.1.perfAdd mv.p.sl 2 (portSlots mv.p.sl acc.1 acc.2), q.2, true)

def execCopy (c : Chan) (r : Rec) (pos : CmdNo) (s : State) : Result :=
  match s.cmd c r pos with
  | none => .next s
  | some m => match m.typ, parseDesc .copy m.desc with
    | .copy, some (.copy d) =>
      if !m.hashed then .next s
      else
        let s := s.doParts c r pos (copyPart c r pos d)
        .next (s.modCmd c r pos (fun m => if m.phase = .dispatched ∧ m.todo = [] ∧ m.goes = true ∧ d.staged then { m with phase := .staged } else m))
    | _, _ => .next s

/-- Phase 2 of a staged copy (R256), from the lowest ordinal. -/
def execStagedCopyWrite (c : Chan) (r : Rec) (pos : CmdNo) (s : State) : Result :=
  match s.cmd c r pos with
  | none => .next s
  | some m => match parseDesc .copy m.desc with
    | some (.copy d) =>
      if m.phase ≠ .staged || !m.goes then .next s
      else
        let gen := (s.ctx c r).gen
        let wr := if d.dst.scr then [] else m.staging.flatMap (fun e => e.2.map (fun w => (w.1, w.2.length)))
        if !s.banksServe wr then .next (s.wakeFor wr)
        else
        let s := s.touch [] wr
        .next (((workSlices c m.typ m.raw).foldl (fun s sl => match s.cmd c r pos, m.staging.find? (fun e => e.1 = sl) with
          | some k, some (_, ws) =>
            if !k.goes then s
            else match s.moveWrite (m.mover c r gen sl) d.dst.scr ws with
              | (t, some e) => t.partFault c r pos sl e m.tag
              | (t, none) => (t.perfAdd sl 2 (portSlots sl [] (if d.dst.scr then [] else ws.map (fun e => (e.1, e.2.length))))).partDone c r pos sl
          | _, _ => s) s).allDone c r pos)
    | _ => .next s

/-- FILL: the destination alone decides the mode (R258). -/
def fillPart (c : Chan) (v : Nat) (t : TRec) : Part := fun s m mv =>
  let n := (workSlices c m.typ m.raw).length
  let (first, k) := if t.scr then (0, t.points) else share (m.ordinal c mv.p.sl) n t.points
  let ws := fillWrites v t first k
  s.partMoved [] (if t.scr then [] else ws.map (fun e => (e.1, e.2.length))) fun s =>
  let q := s.moveWrite mv t.scr ws
  (q.1.perfAdd mv.p.sl 2 (portSlots mv.p.sl [] (if t.scr then [] else ws.map (fun e => (e.1, e.2.length)))), q.2, true)

def execFill (c : Chan) (r : Rec) (pos : CmdNo) (s : State) : Result :=
  match s.cmd c r pos with
  | none => .next s
  | some m => match m.typ, parseDesc .fill m.desc with
    | .fill, some (.fill v t) => .next (s.doParts c r pos (fillPart c v t))
    | _, _ => .next s

/-- GATHER: by number, per slice, or one item of the pool at a time (R267). -/
def gatherPart (c : Chan) (r : Rec) (pos : Nat) (d : GatherD) : Part := fun s m mv =>
  let n := (workSlices c m.typ m.raw).length
  if d.balance then
    if d.items ≤ m.nextItem then (s, none, true)
    else
      let acc := s.itemsAccesses mv d m.nextItem 1
      s.partMoved acc.1 acc.2 fun s =>
      let q := (s.modCmd c r pos (fun m => { m with nextItem := m.nextItem + 1 })).runItem mv d m.nextItem
      (q.1.perfAdd mv.p.sl 2 (s.itemSlots mv d m.nextItem), q.2, false)
  else
    let (first, k) := if d.outScr then (0, d.items) else share (m.ordinal c mv.p.sl) n d.items
    let acc := s.itemsAccesses mv d first k
    s.partMoved acc.1 acc.2 fun s =>
    let q := s.runItems mv d first k
    (q.1.perfAdd mv.p.sl 2 ((upFrom first k).foldl (fun t i => t + s.itemSlots mv d i) 0), q.2, true)

def execGather (c : Chan) (r : Rec) (pos : CmdNo) (s : State) : Result :=
  match s.cmd c r pos with
  | none => .next s
  | some m => match m.typ, parseDesc .gather m.desc with
    | .gather, some (.gather d) => if m.hashed then .next (s.doParts c r pos (gatherPart c r pos d)) else .next s
    | _, _ => .next s

/-! ## LAYER (05 R154, 06 R174, R180, R181, R185) -/

/-- LAYER takes its skein words, from inline data or memory; its slices then start as they come to it. One that selects no slice is done. -/
def execLayer (c : Chan) (r : Rec) (pos : CmdNo) (s : State) : Result :=
  match s.cmd c r pos with
  | none => .next s
  | some m =>
    if !m.fresh .layer || !m.goes then .next s
    else
      let n := bodyF m.raw 57 51
      let rd := if bodyF m.raw 44 44 = 0 then [] else [(bodyF m.raw 103 64, 4 * n)]
      if !s.banksServe rd then .next (s.wakeFor rd)
      else
      let s := s.touch rd []
      let src := if bodyF m.raw 44 44 = 0 then .ok ((inlineData m.raw).take (4 * n)) else s.seqRead (bodyF m.raw 103 64) (4 * n)
      match src with
      | .error b => .next ((s.readFail (b / 64) 1 m.tag).cmdFault c r pos (s.seqFault b))
      | .ok bs => .next (s.modCmd c r pos (fun m => { m with
          phase := .executing, skein := (upFrom 0 n).map (fun i => BitVec.ofNat 32 (leAt bs (4 * i) 4)) }) |>.hashedDone c r pos)

/-- Semaphores with a role: those of enabled queues, and 14 and 15 while summary_en is set. -/
def LayerRun.roles (l : LayerRun) : List Nat :=
  ((upFrom 0 8).filterMap l.queue).flatMap (fun q => [q.full, q.free]) ++ (if bitAt (l.word 0) 3 then [14, 15] else [])

/-- No value stands twice. -/
def allDistinct : List Nat → Bool
  | [] => true
  | a :: r => !r.contains a && allDistinct r

/-- The queue settings of R185 hold. -/
def LayerRun.queuesOk (l : LayerRun) : Bool :=
  allDistinct l.roles && ((upFrom 0 8).filterMap l.queue).all (fun q => decide (q.cap / q.entry ≤ 255 ∧ q.cap % q.entry = 0))

/-- Semaphores at LAYER start. -/
def LayerRun.sems (l : LayerRun) : Table Nat :=
  let m := ((upFrom 0 8).filterMap l.queue).foldl (fun m q => tput m q.free (q.cap / q.entry)) ([] : Table Nat)
  if bitAt (l.word 0) 3 then tput m 14 4 else m

/-- Queue pointers at their bases. -/
def LayerRun.pointers (l : LayerRun) : Table Nat :=
  (upFrom 0 8).foldl (fun m q => match l.queue q with | some c => tput m q c.base | none => m) []

/-- An engine at the start of its program; idle without one. -/
def startEngine (p : Option (Nat × Nat × Nat)) : EngineSt :=
  match p with
  | some (lo, hi, pc) => { EngineSt.zero with pc := BitVec.ofNat 18 pc, state := .issuing, lo := lo, hi := hi, active := true }
  | none => .zero

/-- The slice at the start of a LAYER: skein, pinned set, semaphores and queues, engines. A pinned set of more than four lines
of one cache set is held whole. DESIGN CHOICE, log 94. -/
def SliceSt.start (x : SliceSt) (l : LayerRun) (skein : List W32) (lines : Option (List Nat)) (engines : Table EngineSt) : SliceSt :=
  let pins := (lines.getD []).take 128
  { x with
    skein := (upFrom 0 64).foldl (fun m k => tput m k (skein.getD k 0)) x.skein
    sems := l.sems, qHead := l.pointers, qTail := l.pointers, summary := 0, sumQ := []
    engines := engines, bxWait := .none, layer := some l, stopReq := false, fetchNext := 0, owner := some (l.record, l.gen)
    icache := if lines.isSome then pins.map (fun k => ⟨k, true⟩) else x.icache
    pinned := lines.isSome, pinTrunc := decide (128 < (lines.getD []).length), pinnedLines := pins.length }

/-- Full mailbox entries from another context are dropped (10 R303). -/
def State.dropMails (s : State) (sl : SliceId) (own : Rec × Byte) : State :=
  let x := s.slice sl
  if x.owner = some own then s
  else x.mail.foldl (fun s e => s.dropMail sl e.2 causeStale) (s.modSlice sl (fun x => { x with mail := [] }))

/-- Start a LAYER on a slice. -/
def State.startLayer (s : State) (sl : SliceId) (r : Rec) (m : Cmd) : State :=
  let c := slChan sl
  let ch := s.chan c
  let x := ch.ctx r
  let skein := s.startSkein m sl
  let entry := bodyF m.raw 43 38
  match ch.layerObj x m.raw with
  | none => s
  | some o =>
    let cfg := skein.headD 0 :: (skein.drop 8).take 16
    let l : LayerRun := ⟨r, x.gen, m.tag, m.pos, x.strict, o.fp64, 0, cfg⟩
    let engines : Table EngineSt := (upFrom 0 4).map (fun e => (e, startEngine (o.program entry e)))
    let s := (s.leaseFor sl r m.pos).dropMails sl (r, x.gen)
    let s := s.modSlice sl (fun x => { x.start l skein (if l.strict then some (o.lines entry) else none) engines with work := dropFirst ⟨r, m.pos⟩ x.work })
    let s := s.modCmd c r m.pos (fun m => { m with todo := m.todo.filter (· ≠ sl), running := m.running ++ [sl] })
    if l.queuesOk then s.sliceFinish sl else s.sliceFault sl .cx causeRange 0

/-- A LAYER that may start on the slice: its skein words are there, its digest, if any, is formed. -/
def State.readyLayer (s : State) (sl : SliceId) (w : WorkRef) : Option Cmd :=
  match s.cmd (slChan sl) w.record w.pos with
  | none => none
  | some m => if m.typ = .layer ∧ m.phase = .executing ∧ m.goes = true ∧ m.hashed = true then some m else none

def execLayerStart (sl : SliceId) (s : State) : Result :=
  match (s.slice sl).nextWork with
  | none => .next s
  | some w => match s.readyLayer sl w with
    | none => .next s
    | some m => if s.turn sl w.record w.pos then .next (s.startLayer sl w.record m) else .next s

/-! ## Stops (06 R176, 05 R164) -/

/-- The slice answers a stop request: stopped. -/
def State.answerStop (s : State) (c r pos : Nat) (sl : SliceId) : State :=
  s.modCmd c r pos (fun m => { m with todo := m.todo.filter (· ≠ sl), running := m.running.filter (· ≠ sl), stopped := m.stopped ++ [sl] })

/-- An engine at its operation boundary. -/
def stopEngine (g : EngineSt) : EngineSt :=
  { g with
    queue := [], active := false, loopPos := 0, miss := none, waitSem := none, issued := none, vals := []
    state := if g.active && decide (g.state ≠ .faulted) then .stopped else g.state }

/-- The running LAYER stops. -/
def State.stopRunning (s : State) (sl : SliceId) (l : LayerRun) : State :=
  let s := s.withdrawBx sl l.record (s.slice sl).bxWait
  (s.modSlice sl (fun x => { x with
    engines := tmap x.engines (fun _ => stopEngine), bxWait := .none, layer := none, stopReq := false, pinned := false
    icache := x.icache.map (fun k => { k with pinned := false }) })).answerStop (slChan sl) l.record l.pos sl

/-- A command has been asked to stop. -/
def State.asked (s : State) (c r pos : Nat) : Bool := match s.cmd c r pos with | some m => m.stopReq | none => false

/-- A stop request reaches the slice: its running LAYER stops once BX holds no sync result, then a suspended one is discarded, then work
not begun is given back. -/
def execSliceStop (sl : SliceId) (s : State) : Result :=
  let x := s.slice sl
  let c := slChan sl
  let rest : State :=
    match x.shadow.filter (fun f => s.asked c f.layer.record f.layer.pos) with
    | some f => ((s.withdrawBx sl f.layer.record f.bxWait).modSlice sl (fun x => { x with shadow := none })).answerStop c f.layer.record f.layer.pos sl
    | none => match x.work.find? (fun w => s.asked c w.record w.pos) with
      | some w => (s.modSlice sl (fun x => { x with work := dropFirst w x.work })).answerStop c w.record w.pos sl
      | none => s
  match x.layer with
  | some l =>
    if !x.stopReq then .next rest
    else if x.bxWait = .result then .next s
    else .next (s.stopRunning sl l)
  | none => .next rest

/-! ## Suspension (10 R297) -/

/-- The running LAYER waits as descheduling asks. -/
def State.waitsLong (s : State) (sl : SliceId) : Bool :=
  let x := s.slice sl
  !s.port.strict && !x.stopReq && decide (x.waitUs ≠ 0 ∧ x.waitStart + usRef x.waitUs ≤ s.refCount) && x.bxWait.long && decide (x.mail = [])
    && [Engine.mx, .vx, .cx].all (fun e => let g := x.eng e; !g.active || decide (g.state = .semWait))

/-- The running LAYER moves into the shadow frame. -/
def SliceSt.suspend (x : SliceSt) (l : LayerRun) : SliceSt :=
  { x with
    shadow := some ⟨l, x.engines, x.sems, x.summary, x.sumQ, x.ars, x.qHead, x.qTail, x.bxWait, false⟩
    layer := none, engines := [], bxWait := .none }

def State.noteDesched (s : State) (c : Nat) : State :=
  let n := (s.chan c).descheds
  (s.modChan c (fun ch => { ch with descheds := satInc n 0xFFFF })).noteSat n 0xFFFF c

/-- The first work of each other context. -/
def SliceSt.otherWork (x : SliceSt) (l : LayerRun) : List WorkRef :=
  x.work.filter (fun w => decide (w.record ≠ l.record) && decide (x.work.find? (fun v => v.record = w.record) = some w))

/-- A LAYER of another context that is ready to start in place of the running one. -/
def State.otherLayer (s : State) (sl : SliceId) (l : LayerRun) : Option (WorkRef × Cmd) :=
  ((s.slice sl).otherWork l).findSome? (fun w => (s.readyLayer sl w).map (fun m => (w, m)))

def execDeschedule (sl : SliceId) (s : State) : Result :=
  let x := s.slice sl
  match x.layer with
  | none => .next s
  | some l => match s.otherLayer sl l with
    | none => .next s
    | some (w, m) =>
      if x.shadow.isSome || !s.waitsLong sl || !s.bankReady sl then .next s
      else .next (((s.modSlice sl (fun x => x.suspend l)).noteDesched (slChan sl)).startLayer sl w.record m)

/-- The suspended LAYER runs again. -/
def SliceSt.restore (x : SliceSt) (f : Shadow) (next : Option Shadow) : SliceSt :=
  { x with
    shadow := next, layer := some f.layer, engines := f.engines, sems := f.sems, summary := f.summary, sumQ := f.sumQ
    ars := f.ars, qHead := f.qHead, qTail := f.qTail, bxWait := f.bxWait, owner := some (f.layer.record, f.layer.gen) }

def execResume (sl : SliceId) (s : State) : Result :=
  let x := s.slice sl
  match x.shadow with
  | none => .next s
  | some f =>
    if !f.satisfied || s.asked (slChan sl) f.layer.record f.layer.pos then .next s
    else match x.layer with
      | none => .next (s.modSlice sl (fun x => s.waitsFrom sl (x.restore f none)))
      | some l =>
        if !s.waitsLong sl then .next s
        else .next ((s.modSlice sl (fun x => s.waitsFrom sl (x.restore f (x.suspend l).shadow))).noteDesched (slChan sl))

end Sys2Proof.Machine
end

