-- ==== Sys2Proof/Machine/Check.lean ====
section
/-! DEFINITION. Read retries, transit, settling, scrubbing and the error log (12 R325 to R340). -/

namespace Sys2Proof.Machine

/-! ## Retries (12 R325, R326) -/

/-- A retry passed. -/
def State.retriedOk (s : State) (c : Nat) : State :=
  let n := (s.chan c).chk.retriedOk
  (s.modChk c (fun k => { k with retriedOk := satInc n 0xFFFF })).noteSat n 0xFFFF c

/-- A retry after a first failure passes only when the stored block verifies. -/
def State.retryPasses (s : State) (blk : Nat) (ok1 ok2 : Bool) : Bool := (ok1 || ok2) && !s.failing blk

/-- The tag of the LAYER on a slice. -/
def State.layerTag (s : State) (sl : SliceId) : W32 := match (s.slice sl).layer with | some l => l.tag | none => 0

/-- A persistent failure found by the scrubber (12 R337). -/
def State.scrubFail (s : State) (c blk : Nat) : State :=
  let n := (s.chan c).chk.scrubFail
  ((s.modChk c (fun k => { k with scrubFail := satInc n 0xFFFF, lastBlk := blk % 2 ^ 25, lastSrc := 3 })).alert 1
    (s.blockRec 1 3 blk 0)).noteSat n 0xFFFF c

/-- A command's read through the sequencer or the digest engine fails for good: the command faults, or one read and not yet dispatched ends. -/
def State.seqReadFails (s : State) (c : Chan) (r : Rec) (pos : CmdNo) (blk : Nat) : State :=
  match s.cmd c r pos, ((s.ctx c r).fetched.filter (fun f => !f.torn)) with
  | some m, _ => if m.fault.isSome then s else (s.readFail blk 1 m.tag).cmdFault c r pos (s.seqFault (blk * 64))
  | none, some f =>
    if (s.ctx c r).dispatches && (s.chan c).hasEntry r then
      (s.readFail blk 1 (cmdTag f.raw)).endUnread c r f 4 causeDataCheck (some (s.seqFault (blk * 64))) true
    else s
  | none, none => s

/-- Retry 2 closes the row, precharges and activates it again (R325), at the earliest cycles that Table 1 of 02 allows. -/
def State.reactivate (s : State) (c b row : Nat) : State :=
  s.modChan c (fun ch =>
    let k := ch.bank b
    let act := ch.actFrom (max s.col k.closeAt + tRP)
    (ch.modBank b (fun k => { k with openRow := some row, actAt := some act, wrAt := none })).noteAct s.col act)

/-- A read of a slice fails for good: that of its LAYER's BX, or of the COPY, FILL or GATHER it works for. -/
def State.sliceReadFails (s : State) (sl : SliceId) (e : Engine) (blk : Nat) : State :=
  match (s.slice sl).layer, (s.slice sl).current with
  | some l, _ => (s.readFail blk 1 l.tag).sliceFault sl e causeDataCheck (s.arrayDetail (blk * 64))
  | none, some w => match s.cmd (slChan sl) w.record w.pos with
    | some m =>
      if m.goes && (match m.typ with | .copy | .fill | .gather => true | _ => false) then
        (s.readFail blk 1 m.tag).cmdFault (slChan sl) w.record w.pos ⟨BitVec.ofNat 8 causeDataCheck, sl, .bx, BitVec.ofNat 64 (s.arrayDetail (blk * 64))⟩
      else s
    | none => s
  | none, none => s

/-- The scrubber works in a channel. -/
def State.scrubs (s : State) (c : Nat) : Bool :=
  let ch := s.chan c
  s.hostAwake c && ch.chk.scrubEn && !ch.strictCtx && !s.port.strict

/-- The retries of one read of block `blk` of bank `b`: the second, where the first fails, activates the row again. -/
def State.retried (s : State) (c b blk : Nat) (ok1 ok2 : Bool) (bad : State → State) : State :=
  let t := s.timing c 3
  let u := if ok1 && !s.failing blk then t else t.reactivate c b (offRow (blk * 64))
  if s.retryPasses blk ok1 ok2 then u.retriedOk c else bad u

/-- The retries of one failed read of a bank of channel `c`, by whom it consumes. A block the channel does not hold is none of its reads. -/
def execReadRetry (c : Chan) (b : BankIx) (who : Reader) (ok1 ok2 : Bool) (s : State) : Result :=
  let here (blk : Nat) : Bool := decide (offChan (blk * 64) = c.val ∧ offBank (blk * 64) = b.val) && !s.hostOwned blk
  match who with
  | .host => match ((s.chan c).bank b).failing with
    | none => .next s
    | some q =>
      let s := (s.modBank c b (fun k => { k with failing := none })).timing c 3
      let s := if ok1 && !s.failing q.blk then s else s.reactivate c b q.row
      if s.retryPasses q.blk ok1 ok2 then .next ((s.retriedOk c).complete c q) else .next (s.completeBad c q)
  | .slice sl e blk =>
    if !here blk.toNat || (s.slice sl).current.isNone then .next s
    else .next (s.retried c b blk.toNat ok1 ok2 (fun s => s.sliceReadFails sl e blk.toNat))
  | .scrubber blk =>
    if !here blk.toNat || !s.scrubs c then .next s else .next (s.retried c b blk.toNat ok1 ok2 (fun s => s.scrubFail c blk.toNat))
  | .sequencer r pos blk =>
    if !here blk.toNat then .next s else .next (s.retried c b blk.toNat ok1 ok2 (fun s => s.seqReadFails c r pos blk.toNat))
  | .digest r pos blk =>
    if !here blk.toNat then .next s else .next (s.retried c b blk.toNat ok1 ok2 (fun s => s.seqReadFails c r pos blk.toNat))

/-! ## Transit (12 R334) -/

def hopCode : Hop → Nat
  | .fabric => 1 | .link => 2 | .switch => 3

/-- Detail of a transit fault (12 R333). -/
def hopDetail (c : Nat) (h : Hop) : Nat := c + fld (hopCode h) 9 + fld 0xFFFFFFFF 32

/-- The payload is on its way and its check is verified: one of a command, or of a slice's engine, with blocks still to move; one of a host
request outstanding whose block is not host-owned (R323). -/
def State.carried (s : State) : Cargo → Bool
  | .command c r pos => (match s.cmd c r pos with | some m => m.goes && decide (m.phase ≠ .finished) | none => false)
  | .slice sl _ => (match (s.slice sl).current with
    | some w => (match s.cmd (slChan sl) w.record w.pos with | some m => m.goes | none => false)
    | none => false)
  | .hostRead g tag => (s.group g).out.any (fun o => decide (o.tag = tag) && !o.owned)
  | .hostWrite blk => ((s.chan (offChan (blk.toNat * 64))).bank (offBank (blk.toNat * 64))).queue.any (fun q => decide (q.blk = blk.toNat) && q.isWrite && !q.owned)

/-- A hop receives a payload: one that fails is asked for once again. It fails before any block of its transfer is written (log 92). -/
def execPayloadReceive (c : Chan) (hop : Hop) (cargo : Cargo) (ok : Bool) (s : State) : Result :=
  if ok || !s.carried cargo then .next s
  else .next ((s.modChk c (fun k => { k with resend := k.resend ++ [(hop, cargo)] })).timing c 3)

/-- The tag of the command a payload belongs to. -/
def State.cargoTag (s : State) : Cargo → W32
  | .command c r pos => ((s.cmd c r pos).map (·.tag)).getD 0
  | .slice sl _ => match (s.slice sl).current with
    | some w => ((s.cmd (slChan sl) w.record w.pos).map (·.tag)).getD 0
    | none => 0
  | _ => 0

/-- The first write of a block waiting at its bank has lost its data. -/
def loseFirst (blk : Nat) : List BankReq → List BankReq
  | [] => []
  | q :: r => if q.blk = blk ∧ q.isWrite = true then { q with lost := true } :: r else q :: loseFirst blk r

/-- The slice that moves for a COPY, FILL or GATHER, the first of those at work; 0 for the sequencer and the digest engine (R333). -/
def Cmd.transferSlice (m : Cmd) : SliceId := match m.typ with | .copy | .fill | .gather => (m.running ++ m.todo).headD 0 | _ => 0

/-- A payload that failed twice is not delivered. -/
def State.undelivered (s : State) (c : Nat) (h : Hop) : Cargo → State
  | .command d r pos => match s.cmd d r pos with
    | some m => s.cmdFault d r pos ⟨BitVec.ofNat 8 causeDataCheck, m.transferSlice, .bx, BitVec.ofNat 64 (hopDetail c h)⟩
    | none => s
  | .slice sl e =>
    if (s.slice sl).layer.isSome then s.sliceFault sl e causeDataCheck (hopDetail c h)
    else match (s.slice sl).current with
      | some w => s.cmdFault (slChan sl) w.record w.pos ⟨BitVec.ofNat 8 causeDataCheck, sl, .bx, BitVec.ofNat 64 (hopDetail c h)⟩
      | none => s
  | .hostRead g tag => s.modGroup g (fun x => { x with out := x.out.map (fun o =>
      if o.tag = tag ∧ o.chan = some c then { o with status := some .checkFail, data := zeroBeat, check := zeroCheck } else o) })
  | .hostWrite blk => s.modBank (offChan (blk.toNat * 64)) (offBank (blk.toNat * 64)) (fun k => { k with queue := loseFirst blk.toNat k.queue })

/-- The oldest payload asked for again arrives. -/
def execTransitResend (c : Chan) (ok : Bool) (s : State) : Result :=
  match (s.chan c).chk.resend with
  | [] => .next s
  | (h, g) :: more =>
    let s := s.modChk c (fun k => { k with resend := more })
    if ok || !s.carried g then .next s
    else
      let n := (s.chan c).chk.transit
      let e : ErrRec := { plainRec 2 c 0 with source := 5, tag := s.cargoTag g, address := BitVec.ofNat 40 (hopDetail c h % 2 ^ 32) }
      .next (((((s.modChk c (fun k => { k with transit := satInc n 0xFFFF, lastSrc := 5 })).alert 2 e).noteSat n 0xFFFF c).timing c 3).undelivered c h g)

/-! ## Settle notices (12 R330) -/

def execSettleNotice (c : Chan) (s : State) : Result :=
  match s.settleQ.find? (fun n => n.2.1 = c) with
  | none => .next s
  | some (src, dst, r, gen, tag) =>
    .next ({ s with settleQ := dropFirst (src, dst, r, gen, tag) s.settleQ }.modChan c (fun ch => { ch with
      wlog := tmap ch.wlog (fun _ e => if e.names tag src r gen then { e with pend := false } else e) }))

/-! ## The scrubber (12 R336, R337) -/

/-- Block `k` of the row the scrubber is at, in bank `b`. -/
def Channel.scrubBlk (ch : Channel) (c b k : Nat) : Nat := (c * 2 ^ 31 + b * 2 ^ 24 + ch.chk.row * 2 ^ 13) / 64 + k

def execScrubRead (c : Chan) (b : BankIx) (blk : Fin 128) (ok0 ok1 ok2 : Bool) (s : State) : Result :=
  let ch := s.chan c
  if !s.scrubs c || decide ((ch.bank b).queue ≠ []) || (ch.bank b).failing.isSome || ch.chk.done.contains (b.val, blk.val) then .next s
  else
    let k := ch.scrubBlk c b blk
    let s := s.modChk c (fun x => { x with done := x.done ++ [(b.val, blk.val)] })
    if s.hostOwned k || (ok0 && !s.failing k) then .next s
    else if s.retryPasses k ok1 ok2 then .next (s.retriedOk c)
    else .next (s.scrubFail c k)

/-- An interval of row_us microseconds, 0 acting as 1, expires: the scrubber moves on once it has read every block of the row in every bank. -/
def execScrubInterval (c : Chan) (s : State) : Result :=
  let k := (s.chan c).chk
  if !s.scrubs c || decide (s.refCount < k.scrubStart + usRef (max 1 k.rowUs)) then .next s
  else
    let s := s.modChk c (fun x => { x with scrubStart := s.refCount })
    if k.done.length < 128 * 128 then .next s
    else
    let wrap := decide (k.row = 2047)
    let s := s.modChk c (fun x => { x with row := if wrap then 0 else x.row + 1, passes := if wrap then satInc x.passes 0xFFFF else x.passes, done := [] })
    .next (if wrap then s.noteSat k.passes 0xFFFF c else s)

/-! ## Registers (Table 3, Table 8) -/

def State.chkClear (s : State) (c : Nat) : State :=
  s.modChk c (fun k => { k with retriedOk := 0, readFail := 0, scrubFail := 0, transit := 0, parity := 0, keptFail := 0, lastBlk := 0, lastSrc := 0 })

def State.wlogClear (s : State) (c : Nat) : State := if (s.chan c).allFree then s.modChan c (fun ch => { ch with wlog := [] }) else s

/-- A write of CH_CHK_CTRL. -/
def State.chkCtrl (s : State) (c : Nat) (v : W32) : State :=
  let s := if v.getLsbD 0 then s.chkClear c else s
  if v.getLsbD 1 then s.wlogClear c else s

/-- A write of CH_SCRUB_CFG. -/
def State.scrubCfg (s : State) (c : Nat) (v : W32) : State :=
  s.modChk c (fun k => { k with scrubEn := v.getLsbD 0, rowUs := bits v.toNat 31 16 })

def execClearCounters (c : Chan) (s : State) : Result := .next (s.hostReg (.chan c) .ok (fun s => s.chkClear c))
def execClearWlog (c : Chan) (s : State) : Result := .next (s.hostReg (.chan c) .ok (fun s => s.wlogClear c))

/-- MG_ERR_CTRL clear. -/
def State.errClear (s : State) : State := s.modMg (fun m => { m with errLog := [], errHead := 0, errLost := 0 })

def execErrLogClear (s : State) : Result := .next (s.hostReg .port .ok State.errClear)

/-! ## The error log (12 R339, 16 R413, R419) -/

/-- The record of an event due is written, or counted as shed. -/
def execErrorLogRecord (s : State) : Result :=
  match s.mg.events with
  | [] => .next s
  | e :: r =>
    let s := s.modMg (fun m => { m with events := r })
    if s.fwRuns ∧ s.mg.boot.level < 2 then
      .next (s.modMg (fun m => { m with errLog := tput m.errLog m.errHead e, errHead := (m.errHead + 1) % 256 }))
    else
      let n := s.mg.errLost
      .next (((s.modMg (fun m => { m with errLost := satInc n 0xFFFF })).alert 10 (plainRec 10 0 0)).noteSat n 0xFFFF 0)

/-- A record as its 32 bytes (Table 7). -/
def ErrRec.nat (e : ErrRec) : Nat :=
  e.kind.toNat + fld (e.channel % 512) 8 + fld (e.group % 16) 17 + fld (e.source % 8) 21 + fld e.tag.toNat 32 + fld e.address.toNat 64
    + fld e.writer.toNat 128 + fld e.time.toNat 192

end Sys2Proof.Machine
end

