-- ==== Sys2Proof/Machine/Power.lean ====
section
/-! DEFINITION. Power domains, channel clocks and the ledger's registers (13 R341 to R365). -/

namespace Sys2Proof.Machine

/-! ## Domains -/

/-- A base-die partition takes the highest state of its channel and the channel's banks, WAKING counted as ON (R344). -/
def State.partition (s : State) (c : Nat) : PState :=
  let ch := s.chan c
  let l := (upFrom 0 128).map (fun b => (ch.bank b).pwr.state)
  if ch.pwr.dom.state.up || l.contains .on then .on
  else if decide (ch.pwr.dom.state = .retention) || l.contains .retention then .retention
  else .off

/-- A channel in transition: one of Table 6's runs, WAKING to ON after the PLL request and the hardware sweep after OFF among them. -/
def ChPower.inTransit (p : ChPower) : Bool := p.dom.going.isSome || (decide (p.dom.state = .waking) && (p.pllReq || p.fromOff))

def State.inTransit (s : State) : Domain → Bool
  | .channel c => (s.chan c).pwr.inTransit
  | d => (s.dom d).going.isSome

/-! ## The owner's WAIT (R345) -/

/-- A command in flight with a slice of the bank still to do or at work. -/
def Cmd.onBank (m : Cmd) (b : Nat) : Bool := (m.todo ++ m.running).any (fun sl => decide (slBank sl = b))

/-- The command read at cons selects a slice of the bank. -/
def fetchedOn (c b : Nat) (x : Ctx) : Bool :=
  match x.fetched with
  | none => false
  | some f => match formatType f.raw with
    | some t => (workSlices c t f.raw).any (fun sl => decide (slBank sl = b))
    | none => false

def State.bankIdle (s : State) (c b : Nat) : Bool :=
  (upFrom 0 16).all (fun i => let x := s.slice (mkSlice c b i); x.layer.isNone && x.shadow.isNone)
    && (s.chan c).ctxs.all (fun e => !e.2.inflight.any (fun m => m.onBank b) && !fetchedOn c b e.2)
    && s.msgQ.all (fun m => decide (slChan m.dst ≠ c ∨ slBank m.dst ≠ b))

/-- A command of the context could be dispatched. -/
def Ctx.couldDispatch (x : Ctx) : Bool :=
  x.dispatches && (x.fetched.isSome || decide (x.announced ≠ 0)) && !x.inflight.any Cmd.barrier

/-- No host request to the channel is outstanding. -/
def State.hostIdle (s : State) (c : Nat) : Bool :=
  decide ((s.chan c).pendingWrites = []) && decide (s.chanReads c = 0)

def State.chanIdle (s : State) (c : Nat) : Bool :=
  (s.chan c).ctxs.all (fun e => !e.2.couldDispatch && e.2.inflight.all (fun m => match m.hash with | some h => decide (h.todo = []) | none => true))
    && s.hostIdle c

def State.groupsAll (s : State) (p : GState → Bool) : Bool := (upFrom 0 16).all (fun g => p (s.group g).state)

/-- The condition of Table 2. For the port die's domains the management core's WAIT instruction is part of it. -/
def State.waits (s : State) : Domain → Bool
  | .bank c b => s.bankIdle c b
  | .channel c => s.chanIdle c
  | .link => s.groupsAll (fun g => decide (g = .standby ∨ g = .off ∨ g = .down))
  | .security => s.mg.boot.coreWait && decide (s.sc.queue = []) && !s.sc.busy && !s.sc.attBusy
  | .switch => s.mg.boot.coreWait
  | .management => s.mg.boot.coreWait

/-- Debug holds the domain on (15 R399, Table 8). -/
def State.debugHolds (s : State) (d : Domain) : Bool :=
  decide (s.sc.level = 3) || (decide (s.sc.level = 2) && match d with
    | .bank c b => (upFrom 0 16).any (fun i => let x := s.slice (mkSlice c b i); x.halted || decide (x.breaks ≠ []))
    | .management => s.mg.boot.coreHalted || decide (s.mg.boot.coreBreaks ≠ [])
    | _ => false)

/-- The refuser of an entry to `t`, by Table 3; 0 none. -/
def State.refuser (s : State) (d : Domain) (t : Nat) : Nat :=
  if s.debugHolds d then 6
  else match d with
  | .bank c b =>
    let ch := s.chan c
    if ch.strictCtx then 1
    else if t = 2 ∧ ch.ctxs.any (fun e => !e.2.isFree && (upFrom 0 16).any (fun i => inSel c e.2.sliceSet (mkSlice c b i).toNat)) = true then 1
    else 0
  | .channel c =>
    let ch := s.chan c
    if ch.anyLease then 2
    else if ch.strictCtx || (upFrom 0 128).any (fun b => decide ((ch.bank b).pwr.state = .on)) || ch.ctxs.any (fun e => e.2.inflight.any (fun m => m.typ ≠ .wait)) then 1
    else if t = 2 ∧ ch.allFree = false then 1
    else 0
  | .link =>
    if t = 1 then (if s.groupsAll (fun g => decide (g ≠ .train ∧ g ≠ .active)) then 0 else 3)
    else if s.groupsAll (fun g => decide (g ≠ .standby)) then 0 else 3
  | .switch =>
    if s.mg.linkDom.state ≠ .off || s.chans.any (fun e => e.2.awake && e.2.pwr.dom.state.up) then 4 else 0
  | .management => 0
  | .security => if s.sc.busy || s.sc.attBusy || decide (s.sc.queue ≠ []) then 5 else 0

def targetState (t : Nat) : PState := if t = 1 then .retention else .off

/-- A WAIT: the entry starts, or is refused (R346). In a transition none starts. -/
def State.tryEntry (s : State) (d : Domain) : State :=
  let p := s.dom d
  let t := p.target.toNat
  if t = 0 || t = 3 || s.inTransit d || !p.state.up || !s.waits d then s
  else
    let r := s.refuser d t
    if r ≠ 0 then s.refuse d r else s.modDom d (fun p => { p with going := some (targetState t) })

def coreOwned : Domain → Bool
  | .switch => true
  | .management => true
  | .security => true
  | _ => false

/-- The owner reaches its WAIT: the condition begins to hold while the target is not 0, or the management core executes its WAIT
instruction. A condition that goes on holding is no new WAIT (R345, log 88). -/
def execOwnerWait (d : Domain) (s : State) : Result :=
  if !s.powered then .next s
  else if coreOwned d then .next ((s.modBoot (fun b => { b with coreWait := true })).tryEntry d)
  else
    let p := s.dom d
    if !s.waits d || s.inTransit d then .next (s.stir d)
    else if p.waiting || decide (p.target = 0 ∨ p.target = 3) then .next s
    else .next ((s.modDom d (fun p => { p with waiting := true })).tryEntry d)

/-! ## Self-refresh (02 R68 to R70) -/

/-- Banks precharge and refresh until their debt is 0; the die refreshes itself (R68). -/
def Channel.selfRefreshIn (ch : Channel) : Channel :=
  let ch := ch.settleDebts
  { ch with pwr := { ch.pwr with selfRefresh := true, accepting := false } }

def execSelfRefreshEntry (c : Chan) (s : State) : Result :=
  let ch := s.chan c
  if ch.pwr.dom.entering && !ch.pwr.selfRefresh then .next (s.modChan c Channel.selfRefreshIn) else .next s

/-- One refresh per bank, debt 0; the banks accept requests (02 Table 12). -/
def Channel.accept (ch : Channel) : Channel :=
  let ch := (upFrom 0 128).foldl (fun (ch : Channel) b => (ch.refreshRow b).modBank b (fun k => { k with
    openRow := none, wrAt := none, actAt := none, debt := 0 })) ch
  { ch with pwr := { ch.pwr with accepting := true } }

/-- The exit of R70: after RETENTION with the clocks of WAKING, or of an aborted entry; after OFF, once the TSV phase of the sweep has
run, up to the die's readiness. -/
def execSelfRefreshExit (c : Chan) (s : State) : Result :=
  let ch := s.chan c
  let p := ch.pwr
  let off := p.fromOff
  let due := if off then decide (ch.train.phase = .bond) else p.dom.state.up || decide (p.dom.going = some .waking ∧ p.dom.state = .retention)
  if p.selfRefresh && !p.dom.entering && due then
    .next (s.modChan c (fun ch =>
      let ch := { ch with pwr := { ch.pwr with selfRefresh := false } }
      if off then ch else ch.accept))
  else .next s

/-! ## Entries and exits (R342, R347 to R351) -/

def execWakeSource (d : Domain) (s : State) : Result := if s.powered then .next (s.wake d) else .next s

/-- A target takes effect (R345, R348); 3 acts as 0. -/
def State.applyTarget (s : State) (d : Domain) : State :=
  let v := (s.dom d).target
  if v = 0 ∨ v = 3 then (if (s.dom d).state.up then s else s.wake d)
  else if s.waits d then (s.modDom d (fun p => { p with waiting := true })).tryEntry d
  else s

/-- A write of a target: the field holds it at once; one made during a transition takes effect at its end. -/
def State.writeTarget (s : State) (d : Domain) (v : Nat) : State :=
  let moving := s.inTransit d
  let s := s.modDom d (fun p => { p with target := BitVec.ofNat 2 v, held := moving })
  if moving then s else s.applyTarget d

/-- A transition is over: a target written meanwhile takes effect. -/
def State.settleTarget (s : State) (d : Domain) : State :=
  if (s.dom d).held && !s.inTransit d then (s.modDom d (fun p => { p with held := false })).applyTarget d else s

/-- What an entry loses at once: a channel its PLL and any request for it, OFF the link's state and the session key. -/
def State.enterLow (s : State) (d : Domain) (t : PState) : State :=
  match d with
  | .link => if t = .off then { s with link := { s.link with groups := [], pllLocked := false } } else s
  | .security => if t = .off then s.modSc (fun x => { x with session := none }) else s
  | .channel c => s.modPwr c (fun p => { p with pllOn := false, pllReq := false })
  | _ => s

/-- The clocks stop and the entry completes; the channel's arrays are in self-refresh by then. -/
def execPointOfNoReturn (d : Domain) (s : State) : Result :=
  let p := s.dom d
  let ready := match d with | .channel c => (s.chan c).pwr.selfRefresh | _ => true
  if p.entering && ready then
    let t := p.going.getD .retention
    .next (((s.modDom d (fun p => { p with state := t, going := none })).enterLow d t).settleTarget d)
  else .next s

/-- Slices of a bank that left OFF (06 R169). -/
def State.clearBank (s : State) (c b : Nat) : State :=
  (upFrom 0 16).foldl (fun s i => { s with slices := tdel s.slices (mkSlice c b i).toNat }) s

/-- The management domain restarts in the boot ROM without its slot (16 R415). -/
def State.mgmtFromOff (s : State) : State :=
  (s.modMg (fun m => { m with
    trace := [], traceHead := 0
    boot := { m.boot with
      phase := if m.boot.phase = .closed then .closed else .waitImage
      source := .none, lastResult := 0, slotValid := false, claimRefused := false, slot := [], level := 0, forcedMin := 0, busyPct := 0
      calm := 0, traceLost := 0, pollsShed := 0, polled := [], expiries := [], coreWait := false } })).alert 11 (plainRec 11 0 0)

/-- The engine has a key to certify sessions with. -/
def State.certifies (s : State) : Bool := decide (s.sc.lifecycleNow = 1 ∨ s.sc.lifecycleNow = 2) && s.fuses.secrets

/-- A session key is due. -/
def State.wantSession (s : State) : State := if s.certifies then s.modSc (fun x => { x with queue := x.queue ++ [.session] }) else s

/-- The domain reaches the state it was on its way up to; `off` tells that it left OFF. A channel that left OFF has lost its sampler taps,
its command buffer, code store and contexts, and requests its PLL itself (R342, R354, 02 R70). -/
def State.reachUp (s : State) (d : Domain) (off : Bool) : State :=
  match d with
  | .bank c b => if off then s.clearBank c b else s
  | .channel c =>
    if off then
      { s.modChan c (fun ch => { ch with
          pwr := { ch.pwr with fromOff := true, pllOn := false, pllReq := true }
          train := { ch.train with lostTaps := some s.free, phase := .none, patterning := false }
          cmdBuf := [], code := [], ctxs := [] }) with free := s.free + 1 }
    else s.modPwr c (fun p => { p with pllOn := false })
  | .link => s
  | .switch => s
  | .management => if off then s.mgmtFromOff else s
  | .security => if off then s.wantSession else s

/-- An exit is complete. A channel's waits for the switch, and after RETENTION for its banks (Table 7). -/
def execTransitionComplete (d : Domain) (s : State) : Result :=
  let p := s.dom d
  match p.going with
  | none => .next s
  | some t =>
    let bar := match d with
      | .channel c => decide (p.state = .retention) && !(s.chan c).pwr.accepting
      | _ => false
    let sw := match d with
      | .channel _ => decide (s.mg.switchDom.state ≠ PState.on)
      | _ => false
    if p.entering || bar then .next s
    else if sw then .next (s.wake1 .switch .on)
    else .next (((s.modDom d (fun p => { p with state := t, going := none })).reachUp d (decide (p.state = PState.off))).settleTarget d)

def domWin : Domain → RegWin
  | .bank c _ => .chan c
  | _ => .port

def execTargetWrite (d : Domain) (v : BitVec 2) (s : State) : Result := .next (s.hostReg (domWin d) .ok (fun s => s.writeTarget d v.toNat))

/-! ## The channel PLL (R353, R354) -/

/-- pll_req: in WAKING at once, earlier in the same wake held; otherwise nothing waits for it. -/
def State.pllReqWrite (s : State) (c : Nat) : State :=
  s.modPwr c (fun p => if p.dom.state = .waking ∨ p.dom.going = some .waking then { p with pllReq := true } else p)

def execPllReq (c : Chan) (s : State) : Result := .next (s.hostReg .port .ok (fun s => s.pllReqWrite c))

/-- While a strict context is held, a change of the point in force breaks its timing (R356, 11 R317). -/
def State.pointMoves (s : State) (c v : Nat) : State :=
  if (s.chan c).strictCtx && decide (v ≠ (s.chan c).pwr.opNow) then s.timing c 4 else s

/-- The channel runs on its PLL: ON, at the operating point its target names. -/
def State.channelOn (s : State) (c : Chan) : State :=
  let v := min 2 (s.chan c).pwr.opTarget
  ((s.pointMoves c v).modPwr c (fun p => { p with opNow := v, fromOff := false, dom := { p.dom with state := .on } })).settleTarget (.channel c)

/-- The PLL locks: the channel is ON, or, come from OFF, the TSV phase of its sweep begins. -/
def execPllLock (c : Chan) (s : State) : Result :=
  let p := (s.chan c).pwr
  if decide (p.dom.state = .waking) && p.pllReq then
    let s := s.modPwr c (fun p => { p with pllOn := true, pllReq := false })
    if p.fromOff then .next (s.modTrain c (fun t => { t with phase := .tsv })) else .next (s.channelOn c)
  else .next s

def execPllLockLoss (c : Chan) (s : State) : Result :=
  let p := (s.chan c).pwr
  if p.dom.state = .on then
    .next ((s.modPwr c (fun p => { p with pllOn := false, pllReq := false, fromOff := false, dom := { p.dom with state := .waking } })).timing c 5)
  else .next s

/-! ## The end of a sweep outside boot (02 R63, R64, R70) -/

/-- The sweep ends once all its phases have run: failed TSV lanes are steered, a channel come from OFF takes requests and is ON. What no spare
covers takes the channel offline, with a record for each failed slice. -/
def execSweepDone (c : Chan) (s : State) : Result :=
  let ch := s.chan c
  if ch.train.phase ≠ .done then .next s
  else
    let s := s.modTrain c (fun t => { t.steer with phase := .none, lostTaps := none })
    let s := if ch.pwr.fromOff then (s.modChan c Channel.accept).channelOn c else s
    let ch := s.chan c
    if ch.train.tsvOver || decide (ch.badSlices ≠ []) then .next ((s.goOffline c).repairSlices c) else .next s

/-! ## Operating points (R355, R356) -/

/-- The point in force moves toward the target, with its mark of broken timing. -/
def State.startPoint (s : State) (c v : Nat) : State :=
  (s.pointMoves c v).modPwr c (fun p => { p with opChanging := some v, opNext := none })

/-- A write of op_target; 3 acts as 2. -/
def State.opWrite (s : State) (c v : Nat) : State :=
  let s := s.modPwr c (fun p => { p with opTarget := v })
  let v := min v 2
  let p := (s.chan c).pwr
  if p.opChanging.isSome then s.modPwr c (fun p => { p with opNext := some v })
  else if p.dom.state = .on ∧ v ≠ p.opNow then s.startPoint c v
  else s

def execOpTargetWrite (c : Chan) (v : BitVec 2) (s : State) : Result := .next (s.hostReg .port .ok (fun s => s.opWrite c v.toNat))

def execOpPointChangeDone (c : Chan) (s : State) : Result :=
  let p := (s.chan c).pwr
  match p.opChanging with
  | none => .next s
  | some v =>
    let s := (s.pointMoves c v).modPwr c (fun p => { p with opNow := v, opChanging := none, opNext := none })
    match p.opNext with
    | some w => if w ≠ v then .next (s.startPoint c w) else .next s
    | none => .next s

/-! ## Refusal counters (R365) -/

def State.refusalClear (s : State) (d : Domain) : State := s.modDom d (fun p => { p with refused := 0, refuser := 0 })

def State.bankRefusalsClear (s : State) (c : Nat) : State :=
  s.modChan c (fun ch => { ch with banks := tmap ch.banks (fun _ k => { k with pwr := { k.pwr with refused := 0, refuser := 0 } }) })

/-- MG_PWR_CHREF and MG_PWR_PDREF clear. A bank's counter has no clear of its own. -/
def execPwrRefusalClear (d : Domain) (s : State) : Result :=
  match d with
  | .bank _ _ => .next s
  | _ => .next (s.hostReg .port .ok (fun s => s.refusalClear d))

def execPwrBankClearCounters (c : Chan) (s : State) : Result := .next (s.hostReg (.chan c) .ok (fun s => s.bankRefusalsClear c))

/-! ## Ledger registers and the limiter (R360, R361) -/

/-- Sum of the 512 base allowances. -/
def allowSum (m : Table Nat) : Nat := m.foldl (fun t e => t + e.2) ((512 - m.length) * 6250)

/-- A write of HB_LEDGER_ALLOW. -/
def State.allowWrite (s : State) (c : Chan) (v : Nat) : State :=
  let m := tput s.ledger.allow c.val v
  if 3200000 < allowSum m ∨ 20000 < v then s.modLedger (fun l => { l with allocRefused := true })
  else s.modLedger (fun l => { l with allow := m, allocRefused := false })

def execLedgerAllowWrite (c : Chan) (v : W32) (s : State) : Result :=
  .next (s.hostReg .port .ok (fun s => s.allowWrite c (bits v.toNat 15 0)))

/-- A window of the limiter: its duty while the draw exceeds the allowance is left open, below 16 (log 30). -/
def execLimiterWindow (c : Chan) (drawMw : Nat) (s : State) : Result :=
  let t := (s.chan c).thr
  let set (s : State) (d : Nat) : State := s.modChan c (fun ch => { ch with thr := { ch.thr with limDuty := d } })
  if drawMw ≤ s.effective c then .next (if t.limDuty = 16 then s else (set s 16).timing c 0)
  else
    let d := s.draw 1
    .next ((set d.2 ((d.1.headD 0).toNat % 16)).timing c 0)

end Sys2Proof.Machine
end

