-- ==== Sys2Proof/Machine/Strict.lean ====
section
/-! DEFINITION. STRICT, the schedule origin, EPOCH_TICK and TIMING_BROKEN (11 R309 to R317). -/

namespace Sys2Proof.Machine

/-- Amounts lent when STRICT is set are reclaimed (13 R364). -/
def State.reclaimAll (s : State) : State :=
  s.ledger.lent.foldl (fun s e => s.reclaim e.1 e.2) s

/-- A write of HB_STRICT once every context record is FREE. -/
def State.setStrict (s : State) (v : Bool) : State :=
  let s := s.modPort (fun p => { p with strict := v })
  if v then s.reclaimAll else s

/-- The status of a write of HB_STRICT (R309). -/
def State.strictStatus (s : State) : Status := if s.allFree then .ok else .leased

def execStrictWrite (v : Bool) (s : State) : Result := .next (s.hostReg .port s.strictStatus (fun s => s.setStrict v))

/-- The master period counter wraps: this reference cycle is the origin. -/
def execStrictOrigin (s : State) : Result :=
  if s.powered && decide (s.master = 599) then .next s.tick else .next s

/-- offset as it acts. -/
def PortSt.offset (p : PortSt) : Nat := min 599 p.epochOffset

/-- A channel holds a strict context. -/
def State.anyStrictCtx (s : State) : Bool := s.chans.any (fun e => e.2.strictCtx)

/-- The counter value a tick expects. -/
def PortSt.expected (p : PortSt) : Nat := (600 - p.offset) % 600

def State.epochSlip (s : State) : State :=
  let n := s.port.slips
  let s := (s.modPort (fun p => { p with slips := satInc n 0xFFFF, lastPhase := s.master })).noteSat n 0xFFFF 0
  if s.port.strict then (upFrom 0 512).foldl (fun s c => s.timing c 2) s else s

/-- A tick (R312): align, check, or nothing. -/
def execEpochTick (s : State) : Result :=
  let p := s.port
  if !s.powered then .next s
  else if p.epochMode = 1 then
    (if s.anyStrictCtx then .next s
    else
      let m := p.expected
      .next { s.modPort (fun p => { p with epochMode := 2, epochAligned := true }) with
        master := m, originRef := if m = 0 then s.refCount else s.originRef })
  else if p.epochMode = 2 then (if s.master = p.expected then .next s else .next s.epochSlip)
  else .next s

def State.epochClear (s : State) : State := s.modPort (fun p => { p with slips := 0, lastPhase := 0 })

/-- A write of HB_EPOCH (Table 3). -/
def State.epochWrite (s : State) (v : W32) : State :=
  let s := s.modPort (fun p => { p with epochMode := bits v.toNat 1 0, epochOffset := bits v.toNat 17 8 })
  if v.getLsbD 31 then s.epochClear else s

def PortSt.epochWord (p : PortSt) : Nat :=
  p.epochMode + fld (b2n p.epochAligned) 2 + fld (b2n (decide (p.epochMode = 1))) 3 + fld p.epochOffset 8

def execEpochClear (s : State) : Result := .next (s.hostReg .port .ok State.epochClear)

/-- W1C of CH_STRICT_STATUS; the tag returns to 0 with the last bit. -/
def State.strictClear (s : State) (c : Nat) (mask : BitVec 6) : State :=
  s.modChan c (fun ch =>
    let left := ch.strictCause &&& ~~~mask
    { ch with strictCause := left, strictTag := if left = 0 then 0 else ch.strictTag })

def execStrictStatusClear (c : Chan) (mask : BitVec 6) (s : State) : Result :=
  .next (s.hostReg (.chan c) .ok (fun s => s.strictClear c mask))

/-- HB_STRICT timing_broken. -/
def State.timingBroken (s : State) : Bool := s.chans.any (fun e => decide (e.2.strictCause ≠ 0))

end Sys2Proof.Machine
end

