-- ==== Sys2Proof/Machine/Security.lean ====
section
/-! DEFINITION. The security engine: tokens, lifecycle, fuses, session keys and attestation (15 R378 to R403), and the TAP instructions
that need no access right (15 R395, R398; 17 R437, R442). -/

namespace Sys2Proof.Machine

/-- Bytes `a` to `a + n - 1`, zero past the end. -/
def bytesAt (bs : List Byte) (a n : Nat) : List Byte := slice bs a n

/-! ## Fuses (R381) -/

/-- The outcome of a blow with its one retry, from the outcomes the outside supplies; past their end a blow succeeds. -/
def takeBlow : List Bool → Bool × List Bool
  | false :: true :: r => (true, r)
  | false :: false :: r => (false, r)
  | [false] => (true, [])
  | true :: r => (true, r)
  | [] => (true, [])

/-- Blow the bits of `want` that `has` lacks, from bit `i` upward, up to the first that fails. -/
def blowBits : Nat → Nat → Nat → Nat → List Bool → Nat × Bool × List Bool
  | 0, _, _, has, bl => (has, true, bl)
  | n + 1, i, want, has, bl =>
    if want.testBit i && !has.testBit i then
      (if (takeBlow bl).1 then blowBits n (i + 1) want (has + 2 ^ i) (takeBlow bl).2 else (has, false, (takeBlow bl).2))
    else blowBits n (i + 1) want has bl

/-- A state, the outcomes left, and whether every blow so far succeeded. -/
structure Fusing where
  s : State
  left : List Bool
  ok : Bool

def Fusing.andThen (r : Fusing) (f : State → List Bool → Fusing) : Fusing := if r.ok then f r.s r.left else r

def State.modFuses (s : State) (f : Fuses → Fuses) : State := { s with fuses := f s.fuses }
def State.modMram (s : State) (f : Mram → Mram) : State := { s with mram := f s.mram }

/-- Draw and write one slot of device_secret, then its valid bit (R383 steps 3 and 4). -/
def State.writeSlot (s : State) (bl : List Bool) (put : Fuses → Nat → Bool → Fuses) : Fusing :=
  let d := s.draw 32
  let r := blowBits 256 0 (leNat d.1) 0 bl
  if !r.2.1 then ⟨d.2.modFuses (fun f => put f r.1 false), r.2.2, false⟩
  else
    let v := takeBlow r.2.2
    ⟨d.2.modFuses (fun f => put f r.1 v.1), v.2, v.1⟩

/-- R383; after a blow that failed the module cannot be provisioned (log 39). -/
def State.writeSecret (s : State) (bl : List Bool) : Fusing :=
  if s.fuses.valid0 || s.fuses.valid1 then ⟨s, bl, true⟩
  else if s.fuses.secretFailed then ⟨s, bl, false⟩
  else
    let r : Fusing :=
      if s.fuses.secret0 = 0 then s.writeSlot bl (fun f k v => { f with secret0 := BitVec.ofNat 256 k, valid0 := v })
      else if s.fuses.secret1 = 0 then s.writeSlot bl (fun f k v => { f with secret1 := BitVec.ofNat 256 k, valid1 := v })
      else ⟨s, bl, false⟩
    if r.ok then r else { r with s := r.s.modFuses (fun f => { f with secretFailed := true }) }

def State.blowLifecycle (s : State) (want : Nat) (bl : List Bool) : Fusing :=
  let r := blowBits 4 0 want s.fuses.lifecycle.toNat bl
  ⟨s.modFuses (fun f => { f with lifecycle := BitVec.ofNat 4 r.1 }), r.2.2, r.2.1⟩

def State.blowDisable (s : State) (bl : List Bool) : Fusing :=
  if s.fuses.secretDisable then ⟨s, bl, true⟩
  else ⟨s.modFuses (fun f => { f with secretDisable := (takeBlow bl).1 }), (takeBlow bl).2, (takeBlow bl).1⟩

/-- Thermometer code of the number of lifecycle bits blown (Table 1). -/
def lifecycleCode (l : BitVec 4) : Nat := (upFrom 0 4).foldl (fun n i => n + b2n (l.getLsbD i)) 0

def State.rootSet (s : State) (r : Nat) : Bool := (s.fuses.rootHash.getD r none).isSome
def State.rootRevoked (s : State) (r : Nat) : Bool := s.fuses.rootRevoke.getLsbD r

/-- The device ID (R383). -/
def State.deviceId (s : State) : List Byte := shake256 (leBytes 16 s.fuses.serial.toNat)

/-! ## The engine's queue (R394) -/

/-- The engine works. -/
def State.secOn (s : State) : Bool := s.powered && decide (s.mg.secDom.state = .on)

def State.enqueue (s : State) (q : SecReq) : State := s.modSc (fun x => { x with queue := x.queue ++ [q] })
def State.popSec (s : State) : State := s.modSc (fun x => { x with queue := x.queue.drop 1 })

def SecReq.isToken : SecReq → Bool
  | .token _ _ => true
  | _ => false

def SecReq.isSession : SecReq → Bool
  | .session => true
  | _ => false

/-- A new challenge (R395). -/
def State.newChallenge (s : State) : State :=
  let d := s.draw 32
  d.2.modSc (fun x => { x with nonce := d.1 })

/-! ## Token checks (R395 to R397) -/

def tokenSize : Nat := 5960

def allZero (bs : List Byte) : Bool := bs.all (fun b => decide (b = 0))

def tokKind (bs : List Byte) : Nat := leAt bs 6 1
def tokArg (bs : List Byte) : Nat := leAt bs 7 1
def tokRoot (bs : List Byte) : Nat := leAt bs 76 1 % 4
def tokHasRoot (bs : List Byte) : Bool := bitAt (leAt bs 76 1) 2
def tokHasOwner (bs : List Byte) : Bool := bitAt (leAt bs 76 1) 3
def tokFlags (bs : List Byte) : Nat := leAt bs 77 1

/-- The range of arg for a kind. -/
def argOk (kind arg : Nat) : Bool :=
  match kind with
  | 1 => decide (1 ≤ arg ∧ arg ≤ 3)
  | 2 => decide (1 ≤ arg ∧ arg ≤ 4)
  | 3 => decide (arg ≤ 3)
  | 4 => decide (1 ≤ arg ∧ arg ≤ 64)
  | 5 => decide (arg = 0)
  | _ => false

/-- Format: the fields of Table 7; a signature not announced is zero. -/
def tokFormat (bs : List Byte) : Bool :=
  decide (leAt bs 0 4 = 0x4E4B5444 ∧ leAt bs 4 2 = 1) && argOk (tokKind bs) (tokArg bs)
    && (decide (tokKind bs = 1) || decide (leAt bs 72 4 = 0)) && decide (leAt bs 76 1 < 16)
    && decide (tokFlags bs ≤ match tokKind bs with | 1 => 1 | 5 => 2 | _ => 0) && decide (tokKind bs ≠ 5 ∨ tokFlags bs ≠ 1)
    && allZero (bytesAt bs 78 50) && allZero (bytesAt bs 264 56)
    && (tokHasRoot bs || allZero (bytesAt bs 320 2820)) && (tokHasOwner bs || allZero (bytesAt bs 3140 2820))

/-- Lifecycle state and kind (Tables 2 and 8, R396). -/
def State.tokAllowed (s : State) (kind arg : Nat) : Bool :=
  let lc := s.sc.lifecycleNow.toNat
  match kind with
  | 1 => decide (lc ≠ 4 ∧ (arg < 3 ∨ lc = 0 ∨ lc = 3))
  | 2 => [(0, 1), (1, 2), (2, 3), (3, 4), (1, 4), (2, 4)].contains (lc, arg)
  | 5 => decide (lc = 1 ∨ lc = 2) && s.fuses.ownerHash.isNone
  | _ => true

/-- Whether a token needs a root and an owner signature (Tables 2 and 8, R396). -/
def State.tokNeeds (s : State) (bs : List Byte) : Bool × Bool :=
  let lc := s.sc.lifecycleNow.toNat
  let own := s.fuses.ownerRequired
  let alone := tokHasOwner bs && !tokHasRoot bs
  match tokKind bs with
  | 1 =>
    if lc = 0 then (false, false)
    else if decide (tokArg bs = 1 ∧ lc ≠ 3) && alone then (false, true)
    else (true, own)
  | 2 => if decide (tokArg bs = 4 ∧ lc ≠ 3) && alone then (false, true) else (true, own)
  | 5 => (true, true)
  | _ => (true, false)

/-- Another root than `r` is programmed and not revoked. -/
def State.otherRoot (s : State) (r : Nat) : Bool := (upFrom 0 4).any (fun k => decide (k ≠ r) && s.rootSet k && !s.rootRevoked k)

def hashIs (h : Option (BitVec 256)) (bs : List Byte) : Bool := decide (h = some (BitVec.ofNat 256 (leNat (shake256 bs))))

/-- The root check: 0 passes. -/
def State.tokRootCheck (s : State) (bs : List Byte) : Nat :=
  let r := tokRoot bs
  if !tokHasRoot bs then (if (s.tokNeeds bs).1 then 5 else 0)
  else if !s.rootSet r then 5
  else if s.rootRevoked r then 6
  else if !hashIs (s.fuses.rootHash.getD r none) (bytesAt bs 128 68) then 5
  else if !Config.xmssVerify 20 (bytesAt bs 128 68) (bytesAt bs 0 320) (bytesAt bs 320 2820) then 5
  else if tokKind bs ≠ 3 then 0
  else if !s.otherRoot (tokArg bs) then 11
  else if r = tokArg bs then 5
  else 0

def State.tokOwnerOk (s : State) (bs : List Byte) : Bool :=
  if !tokHasOwner bs then !(s.tokNeeds bs).2
  else
    (decide (tokKind bs = 5) || hashIs s.fuses.ownerHash (bytesAt bs 196 68))
      && Config.xmssVerify 20 (bytesAt bs 196 68) (bytesAt bs 0 320) (bytesAt bs 3140 2820)

/-- The checks of R397 but the last, which belongs to the blows: 0 passes, otherwise the result of the first that fails. -/
def State.checkToken (s : State) (bs : List Byte) : Nat :=
  if !tokFormat bs then 2
  else if bytesAt bs 8 32 ≠ s.deviceId then 3
  else if bytesAt bs 40 32 ≠ s.sc.nonce then 4
  else if !s.tokAllowed (tokKind bs) (tokArg bs) then 8
  else if s.tokRootCheck bs ≠ 0 then s.tokRootCheck bs
  else if !s.tokOwnerOk bs then 7
  else if tokKind bs = 1 ∧ leAt bs 72 4 < s.mram.bootCount then 9
  else if tokKind bs = 4 ∧ tokArg bs ≤ s.fuses.secver then 12
  else 0

/-- The token at the head is answered: result, event 1 and the code when refused, a new challenge, the sideband's response. -/
def State.tokenDone (s : State) (r : Nat) : State :=
  let sb := match s.sc.queue with | .token _ true :: _ => true | _ => false
  let s := (s.popSec.modSc (fun x => { x with result := r, tokenOk := false, busy := x.queue.any SecReq.isToken })).newChallenge
  let s := if r = 1 then s else (s.modSc (fun x => { x with lastResult := BitVec.ofNat 8 r })).secEvent 1
  if sb then s.modBoot (fun b => { b with sbOut := if r = 1 then [0, 1] else [3, BitVec.ofNat 8 r] }) else s

/-! ## Reports (R392, R393) -/

def State.portModeWord (s : State) : Nat := b2n s.port.compute + fld (b2n s.port.refused) 2
def State.strictWord (s : State) : Nat := b2n s.port.strict + fld (b2n s.timingBroken) 1

/-- HB_XOR_MASK as its register reads: the value last written (02 R48). -/
def State.maskReg (s : State) (k : Nat) : Nat :=
  s.port.maskPend.foldl (fun v e => if e.2.1 = k then e.2.2.toNat else v) (s.mask k)

/-- config_measurement. -/
def State.configMeasure (s : State) : List Byte :=
  shake256 (leBytes 4 s.portModeWord ++ leBytes 4 s.strictWord ++ leBytes 4 s.port.epochWord
    ++ (upFrom 0 1024).flatMap (fun w => leBytes 4 (s.win w)) ++ (upFrom 0 16).flatMap (fun k => leBytes 4 (s.maskReg k)))

/-- Bytes 0 to 3,203 of a report. -/
def State.reportFields (s : State) (nonce : List Byte) (k : SessionKey) : List Byte :=
  let h := s.sc.fwHeader
  let flags := b2n (bitAt (leAt h 15 1) 0) + fld (b2n s.port.strict) 1 + fld (b2n s.fuses.grade) 2 + fld (b2n s.fuses.ownerRequired) 3
  leBytes 4 0x54535441 ++ leBytes 2 1 ++ leBytes 2 0 ++ bytesAt nonce 0 32 ++ s.deviceId ++ leBytes 4 s.mram.bootCount ++ bytesAt h 8 4
    ++ bytesAt h 12 2 ++ bytesAt h 14 1 ++ leBytes 1 flags ++ leBytes 1 s.sc.lifecycleNow.toNat ++ leBytes 1 s.sc.level.toNat
    ++ leBytes 1 s.sc.max.toNat ++ leBytes 1 s.fuses.secver ++ bytesAt s.sc.fwMeas 0 32 ++ s.configMeasure ++ bytesAt s.mg.darnDigest 0 32
    ++ leBytes 8 s.ns ++ List.replicate 64 0 ++ bytesAt k.cert 0 128 ++ bytesAt k.certSig 0 2820

/-- The identity key signs no more (R390). -/
def State.exhausted (s : State) : Bool := decide (2 ^ 20 ≤ s.mram.nextIndex)

/-- The report at the head ends without a report. -/
def State.reportFails (s : State) (sideband : Bool) (r : Nat) : State :=
  let s := s.popSec
  if sideband then s else s.modSc (fun x => { x with attBusy := false, attResult := r })

/-- Serve the queue up to the first request that takes time. -/
def State.serveSec : Nat → State → State
  | 0, s => s
  | n + 1, s =>
    match s.sc.queue with
    | [] => s
    | .token bs _ :: _ =>
      if s.sc.tokenOk then s
      else
        let r := s.checkToken bs
        if r = 0 then s.modSc (fun x => { x with tokenOk := true }) else State.serveSec n (s.tokenDone r)
    | .report sb nonce :: rest =>
      if !s.certifies then State.serveSec n (s.reportFails sb 2)
      else match s.sc.session with
        | some k => if s.sc.sample = [] then s.modSc (fun x => { x with sample := s.reportFields (if sb then nonce else x.attNonce) k }) else s
        | none =>
          if s.exhausted then State.serveSec n (s.reportFails sb 3)
          else s.modSc (fun x => { x with queue := .session :: .report sb nonce :: rest.filter (fun q => !q.isSession) })
    | .session :: _ => if s.certifies && !s.exhausted then s else State.serveSec n s.popSec
    | .firmware :: _ => s

/-- The engine goes on with its queue. -/
def State.secServe (s : State) : State := if s.secOn then s.serveSec (s.sc.queue.length + 1) else s

/-! ## Submission and requests -/

/-- SC_TOKEN_CTRL submit, or TOKEN_SUBMIT. -/
def State.submit (s : State) (sideband : Bool) : State :=
  ((s.enqueue (.token (rdN s.sc.tokenBuf 0 tokenSize) sideband)).modSc (fun x => { x with busy := true })).secServe

def execSubmit (s : State) : Result := .next (s.hostReg .port .ok (fun s => s.submit false))

def execChallenge (s : State) : Result := .next (s.hostReg .port .ok State.newChallenge)

/-- SC_ATTEST_CTRL go. -/
def State.attestGo (s : State) : State :=
  if s.sc.attBusy then s.modSc (fun x => { x with attRefused := true })
  else
    ((s.enqueue (.report false [])).modSc (fun x => { x with
      attBusy := true, attRefused := false, attResult := 0 })).secServe

def execAttestGo (s : State) : Result := .next (s.hostReg .port .ok State.attestGo)

/-- SC_DEBUG relock. -/
def State.relock (s : State) : State := (s.modSc (fun x => { x with level := 0 })).modMram (fun m => { m with installed := none })

def execRelock (s : State) : Result := .next (s.hostReg .port .ok State.relock)

/-! ## Accepted tokens -/

/-- The verified token at the head, when it is of this kind. -/
def State.accepted (s : State) (kind : Nat) : Option (List Byte) :=
  if s.secOn && s.sc.tokenOk then
    (match s.sc.queue with | .token bs _ :: _ => if tokKind bs = kind then some bs else none | _ => none)
  else none

/-- The operation that needed fuses ends: accepted with its event, or refused with event 7 and result 10. -/
def Fusing.finish (r : Fusing) (done : State → State) : State :=
  if r.ok then ((done r.s).tokenDone 1).secServe else ((r.s.secEvent 7).tokenDone 10).secServe

/-- A level reached: in PROVISIONED and FIELD, INVASIVE destroys the session key and a new one is due (Table 8). -/
def State.unlock (s : State) (level : Nat) : State :=
  let s := s.modSc (fun x => { x with level := BitVec.ofNat 2 (max x.level.toNat level), max := BitVec.ofNat 2 (max x.max.toNat level) })
  let s := s.secEvent 4
  if 2 ≤ level ∧ s.certifies = true then
    ((s.modSc (fun x => { x with session := none, queue := x.queue.filter (fun q => !q.isSession) })).secEvent 10).wantSession
  else s

def execDebug (s : State) : Result :=
  match s.accepted 1 with
  | none => .next s
  | some bs =>
    let s := if bitAt (tokFlags bs) 0 then s.modMram (fun m => { m with installed := some ⟨BitVec.ofNat 2 (tokArg bs), leAt bs 72 4⟩ }) else s
    .next ((s.unlock (tokArg bs)).tokenDone 1).secServe

/-- A fresh identity key; one generated before is discarded (R380, R387). -/
def State.genIdentity (s : State) : State :=
  let d := s.draw 68
  d.2.modMram (fun m => { m with idKey := some d.1, nextIndex := 1024 * s.fuses.idBlocks })

/-- Erase the identity key and the debug store. -/
def State.eraseMram (s : State) : State := s.modMram (fun m => { m with idKey := none, installed := none })

/-- Actions of a transition (Table 2). -/
def State.transition (s : State) (target : Nat) (bl : List Bool) : Fusing :=
  match target with
  | 1 => (s.writeSecret bl).andThen (fun s bl => s.genIdentity.blowLifecycle 1 bl)
  | 2 => s.blowLifecycle 3 bl
  | 3 => (s.eraseMram.blowDisable bl).andThen (fun s bl => s.blowLifecycle 7 bl)
  | _ =>
    if s.sc.lifecycleNow = 3 then s.blowLifecycle 15 bl
    else (s.eraseMram.blowDisable bl).andThen (fun s bl => s.blowLifecycle 15 bl)

def execLifecycle (blows : List Bool) (s : State) : Result :=
  match s.accepted 2 with
  | none => .next s
  | some bs =>
    .next ((s.transition (tokArg bs) blows).finish (fun s => (s.modMram (fun m => { m with installed := none })).secEvent 2))

def execRevoke (blows : List Bool) (s : State) : Result :=
  match s.accepted 3 with
  | none => .next s
  | some bs =>
    let r := blowBits 4 0 (2 ^ tokArg bs) s.fuses.rootRevoke.toNat blows
    .next ((Fusing.mk (s.modFuses (fun f => { f with rootRevoke := BitVec.ofNat 4 r.1 })) r.2.2 r.2.1).finish (fun s => s.secEvent 3))

/-- Number of bits set among the lowest 64. -/
def onesOf (n : Nat) : Nat := (upFrom 0 64).foldl (fun k i => k + b2n (n.testBit i)) 0

def execSecver (blows : List Bool) (s : State) : Result :=
  match s.accepted 4 with
  | none => .next s
  | some bs =>
    let r := blowBits 64 0 (2 ^ tokArg bs - 1) (2 ^ s.fuses.secver - 1) blows
    .next ((Fusing.mk (s.modFuses (fun f => { f with secver := onesOf r.1 })) r.2.2 r.2.1).finish id)

/-- owner_hash, then owner_required. A hash cut short stays as far as it was blown. -/
def execOwner (blows : List Bool) (s : State) : Result :=
  match s.accepted 5 with
  | none => .next s
  | some bs =>
    let r := blowBits 256 0 (leNat (shake256 (bytesAt bs 196 68))) (s.fuses.ownerHash.getD 0).toNat blows
    let s := s.modFuses (fun f => { f with ownerHash := if r.1 = 0 then none else some (BitVec.ofNat 256 r.1) })
    let q : Fusing := ⟨s, r.2.2, r.2.1⟩
    .next ((q.andThen (fun s bl =>
      if bitAt (tokFlags bs) 1 && !s.fuses.ownerRequired then ⟨s.modFuses (fun f => { f with ownerRequired := (takeBlow bl).1 }), (takeBlow bl).2, (takeBlow bl).1⟩
      else ⟨s, bl, true⟩)).finish id)

/-! ## Session keys (R388, R390, R391) -/

/-- A block of identity indices is reserved. -/
def State.reserveBlock (s : State) (bl : List Bool) : Fusing :=
  if (takeBlow bl).1 then ⟨(s.modFuses (fun f => { f with idBlocks := f.idBlocks + 1 })).secEvent 5, (takeBlow bl).2, true⟩
  else ⟨s.secEvent 7, (takeBlow bl).2, false⟩

/-- The next index moves on before the signature is released; at 2^20 the key is exhausted. -/
def State.useIndex (s : State) : State :=
  let s := s.modMram (fun m => { m with nextIndex := m.nextIndex + 1 })
  if s.exhausted then s.secEvent 9 else s

/-- A session key with its certificate. -/
def State.certify (s : State) : State :=
  let pk := s.draw 68
  let sig := pk.2.draw 2820
  let s := sig.2
  let gen := s.sc.sessionsMade + 1
  let cert := pk.1 ++ leBytes 4 s.mram.bootCount ++ leBytes 4 gen ++ s.deviceId ++ List.replicate 20 0
  s.modSc (fun x => { x with session := some ⟨pk.1, gen, 0, cert, sig.1⟩, sessionsMade := gen })

def execSessionKeyGenerated (blows : List Bool) (s : State) : Result :=
  let s := s.secServe
  match s.sc.queue with
  | .session :: _ =>
    if !s.secOn then .next s
    else
      let r : Fusing := if 1024 * s.fuses.idBlocks ≤ s.mram.nextIndex then s.reserveBlock blows else ⟨s, blows, true⟩
      if r.ok then .next r.s.useIndex.certify.popSec.secServe else .next r.s.popSec.secServe
  | _ => .next s

def execReportSigned (s : State) : Result :=
  let s := s.secServe
  match s.sc.queue, s.sc.session with
  | .report sb _ :: _, some k =>
    if !s.secOn || decide (s.sc.sample = []) then .next s
    else
      let d := s.draw 2692
      let buf := s.sc.sample ++ d.1
      let s := d.2.popSec.modSc (fun x =>
        let x := if sb then { x with sbBuf := buf } else { x with attBuf := buf, attBusy := false, attResult := 1 }
        { x with sample := [], session := if k.nextIndex + 1 = 65536 then none else some { k with nextIndex := k.nextIndex + 1 } })
      .next ((if k.nextIndex + 1 = 65536 then s.wantSession else s).secServe)
  | _, _ => .next s

/-! ## TAP instructions (R398, 17 R437, R442) -/

/-- The TAP is out of its reset state. -/
def State.tapRuns (s : State) : Bool := s.pins.vaon && s.pins.porstN && s.pins.trstN

/-- The bypass register: one bit, 0 at capture (log 34). -/
def State.bypass (s : State) (tdi : List Bool) : State :=
  s.modSc (fun x => { x with tdo := (false :: tdi).take tdi.length, bypassBit := tdi.getLastD x.bypassBit })

def execBypass (tdi : List Bool) (s : State) : Result := if s.tapRuns then .next (s.bypass tdi) else .next s

def State.idcode (s : State) : Nat := 1 + fld Config.jep106.toNat 1 + fld 0x9A10 12 + fld s.fuses.stepping.toNat 28

def execIdcode (s : State) : Result :=
  if s.tapRuns then .next (s.modSc (fun x => { x with tdo := (upFrom 0 32).map (fun i => s.idcode.testBit i) })) else .next s

/-- A boundary scan: what the pins give is free. -/
def State.boundary (s : State) (tdi : List Bool) : State :=
  if s.sc.level = 2 ∨ s.sc.level = 3 then
    { s with free := s.free + 1 }.modSc (fun x => { x with tdo := (upFrom 0 tdi.length).map (Config.scanBit s.free) })
  else s.bypass tdi

def execExtest (tdi : List Bool) (s : State) : Result := if s.tapRuns then .next (s.boundary tdi) else .next s
def execSamplePreload (tdi : List Bool) (s : State) : Result := if s.tapRuns then .next (s.boundary tdi) else .next s

/-- Bytes into SC_TOKEN_BUF, as far as it reaches. -/
def State.tokenLoad (s : State) (off : Nat) (bs : List Byte) : State :=
  s.modSc (fun x => { x with tokenBuf := wrL x.tokenBuf off (bs.take (8192 - off)) })

def execTapTokenLoad (off : Nat) (bytes : List Byte) (s : State) : Result :=
  if s.tapRuns && s.powered then
    .next ((s.tokenLoad off bytes).wake .security)
  else .next s

def execTrstNAssert (s : State) : Result :=
  if s.pins.vaon then
    .next { s.modSc (fun x => { x with tdo := [], tapStatus := .ok, bypassBit := false }) with pins := { s.pins with trstN := false } }
  else .next s

/-! ## SC_ registers (Table 9), by offset within 0x0050_0000 -/

/-- A word of a byte list. -/
def regWord (bs : List Byte) (a : Nat) : Nat := leAt bs a 4

/-- Registers as they read; none where no register stands. -/
def State.scRead (s : State) (off : Nat) : Option Nat :=
  let x := s.sc
  if off % 4 ≠ 0 then none
  else if off = 0x00 then some (x.lifecycleNow.toNat + fld (b2n s.fuses.secrets) 3)
  else if off = 0x04 then
    some ((upFrom 0 4).foldl (fun n r => n + fld (b2n (s.rootSet r)) r) 0 + fld s.fuses.rootRevoke.toNat 4
      + fld (b2n s.fuses.ownerHash.isSome) 8 + fld (b2n s.fuses.ownerRequired) 9 + fld s.fuses.secver 16)
  else if off = 0x10 then some ((if s.fuses.secrets then s.mram.nextIndex else 0) + fld s.fuses.idBlocks 21)
  else if off = 0x14 then some s.mram.bootCount
  else if off = 0x18 then some (x.level.toNat + fld x.max.toNat 2 + fld (b2n s.mram.installed.isSome) 4)
  else if off = 0x1C then some (x.lastEvent.toNat + fld x.lastResult.toNat 8 + fld x.events 16)
  else if 0x20 ≤ off ∧ off < 0x40 then some (regWord s.deviceId (off - 0x20))
  else if 0x40 ≤ off ∧ off < 0x60 then some (regWord x.nonce (off - 0x40))
  else if off = 0x60 then some (fld (b2n x.busy) 2 + fld x.result 8)
  else if off = 0x64 then some (fld (b2n x.attBusy) 1 + fld (b2n x.attRefused) 2 + fld x.attResult 3)
  else if 0x80 ≤ off ∧ off < 0xA0 then some (regWord x.attNonce (off - 0x80))
  else if 0xA0 ≤ off ∧ off < 0xC0 then some (regWord x.fwMeas (off - 0xA0))
  else if 0x100 ≤ off ∧ off < 0x144 then some (regWord x.idPk (off - 0x100))
  else if 0x2000 ≤ off ∧ off < 0x4000 then some 0
  else if 0x4000 ≤ off ∧ off < 0x6000 then some (regWord x.attBuf (off - 0x4000))
  else none

/-- Replace bytes of a list of `n`. -/
def putAt (n : Nat) (bs : List Byte) (a : Nat) (new : List Byte) : List Byte :=
  bytesAt bs 0 a ++ new ++ bytesAt bs (a + new.length) (n - (a + new.length))

/-- A write of one register; one drawn challenge precedes a submission of the same write. -/
def State.scWrite (s : State) (off : Nat) (v : W32) : State :=
  if off = 0x18 then (if v.getLsbD 5 then s.relock else s)
  else if off = 0x60 then
    let s := if v.getLsbD 1 then s.newChallenge else s
    if v.getLsbD 0 then s.submit false else s
  else if off = 0x64 then (if v.getLsbD 0 then s.attestGo else s)
  else if 0x80 ≤ off ∧ off < 0xA0 then s.modSc (fun x => { x with attNonce := putAt 32 x.attNonce (off - 0x80) (leBytes 4 v.toNat) })
  else if 0x2000 ≤ off ∧ off < 0x4000 then s.tokenLoad (off - 0x2000) (leBytes 4 v.toNat)
  else s

end Sys2Proof.Machine
end

