-- ==== Sys2Proof/Machine/Reset.lean ====
section
/-! DEFINITION. Resets and power loss: what each keeps (16 R404 to R407, 17 R428 to R437). -/

namespace Sys2Proof.Machine

/-! ## What the AON domain keeps -/

/-- MG_RESET_CAUSE and the straps. -/
def BootSt.aon (b : BootSt) : BootSt :=
  { BootSt.zero with
    por := b.por, warm := b.warm, recover := b.recover, watchdog := b.watchdog, afterTrip := b.afterTrip, zeroRepeated := b.zeroRepeated
    wdExpiries := b.wdExpiries, zeroPending := b.zeroPending, straps := b.straps }

/-- MG_THERM_TRIP and the trip latch. -/
def MgSt.aon (m : MgSt) : MgSt :=
  { MgSt.zero with tripCount := m.tripCount, tripSensor := m.tripSensor, tripLatch := m.tripLatch, boot := m.boot.aon }

/-- PORST_N: everything but fuses, MRAM, the AON domain, the arrays (zeroed at boot), and the pins. -/
def State.porReset (s : State) : State :=
  { State.reset with
    pending := s.pending, free := s.free, pins := s.pins, mem := s.mem, checkDiff := s.checkDiff, fuses := s.fuses, mram := s.mram
    mg := s.mg.aon }

/-- Rails off: array contents are lost (13 R357, log 31). -/
def State.powerOff (s : State) : State := { s.porReset with mem := [], checkDiff := [] }

/-- What WARMRST_N leaves of a channel: its maps, its rows, and its arrays in self-refresh once every refresh owed is done (R407). -/
def Channel.warm (ch : Channel) : Channel :=
  { Channel.zero with
    darn := ch.darn, spares := ch.spares, rowMap := ch.rowMap, spareRows := ch.spareRows, trainRows := ch.trainRows, offline := ch.offline
    banks := tmap ch.settleDebts.banks (fun _ k => { BankSt.zero with rowPtr := k.rowPtr, refreshed := k.refreshed })
    pwr := { Channel.zero.pwr with selfRefresh := true, accepting := false } }

/-- WARMRST_N: arrays, error log, management SRAM and slot are kept; slot_valid and source are recorded. -/
def State.warmReset (s : State) : State :=
  let m := s.mg
  { s.porReset with
    porBase := s.porBase + s.refCount
    chans := tmap s.chans (fun _ ch => ch.warm)
    mg := { m.aon with
      errLog := m.errLog, errHead := m.errHead, errLost := m.errLost, trace := m.trace, traceHead := m.traceHead
      boot := { m.boot.aon with slot := m.boot.slot, keptSlot := m.boot.slotValid, keptSource := m.boot.source, eid := m.boot.eid } } }

/-! ## Pins -/

def State.modPins (s : State) (f : Pins → Pins) : State := { s with pins := f s.pins }

/-- An assertion takes effect after 237 AON cycles. -/
def execPorstNAssert (aonCycles : Nat) (s : State) : Result :=
  if aonCycles < 237 ∨ s.pins.vaon = false ∨ s.pins.porstN = false then .next s
  else .next (s.porReset.modPins (fun p => { p with porstN := false, releaseHeld := false }))

/-- An assertion takes effect after 23 AON cycles, and not while PORST_N is low. -/
def execWarmrstNAssert (aonCycles : Nat) (s : State) : Result :=
  if aonCycles < 23 ∨ s.pins.vaon = false ∨ s.pins.porstN = false ∨ s.pins.warmrstN = false ∨ s.mg.tripLatch = true then .next s
  else .next (s.warmReset.modPins (fun p => { p with warmrstN := false }))

/-- REFCLK silent for 1 µs with PORST_N high acts as WARMRST_N, held until it has run again for 100 µs (17 R433). -/
def execRefclkLoss (s : State) : Result :=
  if s.pins.vaon = false ∨ s.pins.porstN = false ∨ s.pins.refclk = false then .next (s.modPins (fun p => { p with refclk := false }))
  else .next ((if s.pins.warmrstN && !s.mg.tripLatch then s.warmReset else s).modPins (fun p => { p with refclk := false, warmrstN := false }))

def execRefclkRunsAgain (us : Nat) (s : State) : Result :=
  if us < 100 then .next s else .next (s.modPins (fun p => { p with refclk := true }))

/-- VIN leaves its range: the module is off as though PORST_N had been asserted (16 R405, 17 R429). -/
def execModulePowerOff (s : State) : Result :=
  .next (s.powerOff.modPins (fun p => { p with vin := false, charged := false, porstN := false, releaseHeld := false }))

/-- The input stage has charged, VIN being in range; a release of PORST_N held for it takes effect with the boot that follows
(17 R435, log 32). -/
def execInputStageCharged (s : State) : Result :=
  if s.pins.vaon then .next (s.modPins (fun p => { p with vin := true, charged := true, releaseHeld := false })) else .next s

/-- VAON reaches its range: the AON domain starts with the reset values of MG_THERM_TRIP and MG_RESET_CAUSE (14 R376, 16 R417). -/
def execVaonApplied (s : State) : Result :=
  if s.pins.vaon then .next s
  else
    let s := s.porReset
    .next ({ s with mg := MgSt.zero }.modPins (fun p => { p with vaon := true, porstN := false }))

/-- VAON falls below its range: nothing is driven and the AON domain is off (17 R430). The arrays lose their contents only with VIN (13 R357). -/
def execVaonRemoved (s : State) : Result :=
  .next (s.porReset.modPins (fun p => { p with vaon := false, porstN := false, releaseHeld := false }))

end Sys2Proof.Machine
end

