-- ==== Sys2Proof/Machine/Thermal.lean ====
section
/-! DEFINITION. Sensors, warnings, refresh steps, throttling and the trip (14 R366 to R376, 02 R56). Temperatures are in quarters of a
degree. -/

namespace Sys2Proof.Machine

/-! ## Sensors (Tables 1 and 2) -/

/-- Dies with their own thresholds. -/
inductive Die where
  | logic | dram | base | port
deriving DecidableEq, Repr

def dieOf (i : Nat) : Die := if i < 2048 then .logic else if i < 2560 then .dram else if i < 2592 then .base else .port

/-- Throttle and shut-down thresholds. -/
def throttleAt : Die → Option Int
  | .logic => some 408 | .dram => some 400 | .base => some 408 | .port => none
def tripAt : Die → Int
  | .dram => 440 | _ => 460

/-- Warning threshold; MG_THERM_CFG lowers those of logic and DRAM, values outside acting as the nearer limit. -/
def MgSt.warnAt (m : MgSt) : Die → Int
  | .logic => 4 * (max 70 (min 95 m.warnLogic) : Nat)
  | .dram => 4 * (max 70 (min 90 m.warnDram) : Nat)
  | _ => 380

/-- Channels whose own sensors, or whose tier's DRAM sensors, include sensor `i`. -/
def sensorChans (i : Nat) : List Nat :=
  match dieOf i with
  | .logic => [i / 16 * 4 + i % 16 / 4]
  | .dram => upFrom ((i - 2048) / 4 * 4) 4
  | .base => (upFrom 0 16).map (fun t => (i - 2560) / 4 * 64 + t * 4 + (i - 2560) % 4)
  | .port => []

/-- The channel an alert of a sensor names; 0 for the port die's (R369). -/
def sensorChan (i : Nat) : Nat :=
  match dieOf i with
  | .dram => i - 2048
  | _ => (sensorChans i).headD 0

def State.sensor (s : State) (i : Nat) : Sensor := tget s.mg.sensors i .zero

/-- A reading clamped to its field. -/
def clampTemp (t : Int) : Int := max (-2048) (min 2047 t)

/-- One sensor read: its warning with hysteresis 4 K, its throttle flag, its alert. -/
def State.readSensor (s : State) (e : Nat × Int) : State :=
  let i := e.1
  if 2608 ≤ i then s
  else
    let t := clampTemp e.2
    let w := s.mg.warnAt (dieOf i)
    let old := (s.sensor i).warn
    let warn := decide (w < t) || (old && decide (w - 16 < t))
    let hotter := match throttleAt (dieOf i) with | some h => decide (h < t) | none => false
    let s := s.modMg (fun m => { m with sensors := tput m.sensors i ⟨t, true, warn, hotter⟩ })
    if warn && !old then s.alert 8 (plainRec 8 (sensorChan i) 0) else s

/-- The sensor with the highest reading, the lowest index of equals. -/
def hottestOf (l : List (Nat × Sensor)) : Nat :=
  (l.foldl (fun (b : Option (Nat × Int)) e => match b with
    | some (i, t) => if t < e.2.temp then some (e.1, e.2.temp) else some (i, t)
    | none => some (e.1, e.2.temp)) none).elim 0 (·.1)

/-! ## Refresh step (02 R56) -/

/-- Highest reading of the tier's DRAM sensors. -/
def State.tierTemp (s : State) (c : Nat) : Option Int :=
  ((upFrom (2048 + c / 4 * 4) 4).map s.sensor |>.filter (·.valid)).foldl (fun b x => some (max x.temp (b.getD x.temp))) none

/-- The step that follows step `k` at tier temperature `t`. -/
def nextStep (k : Nat) (t : Int) : Nat :=
  if 380 < t ∨ (k = 2 ∧ 372 < t) then 2 else if 340 < t ∨ (1 ≤ k ∧ 332 < t) then 1 else 0

/-! ## Throttling (R370 to R372) -/

/-- A channel's own sensors. -/
def ownSensors (c : Nat) : List Nat := upFrom (16 * (c / 4) + 4 * (c % 4)) 4 ++ [2048 + c, 2560 + 4 * (c / 64) + c % 4]

/-- The channel's excess. -/
def State.excess (s : State) (c : Nat) : Option Int :=
  (ownSensors c).foldl (fun b i =>
    let x := s.sensor i
    match throttleAt (dieOf i) with
    | some h => if x.valid then some (max (x.temp - h) (b.getD (x.temp - h))) else b
    | none => b) none

/-- Issue duty and clock cap for an excess while engaged (Table 3). -/
def throttleLevel (e : Int) : Nat × Nat :=
  if e ≤ 8 then (14, 0) else if e ≤ 16 then (12, 0) else if e ≤ 24 then (10, 1) else if e ≤ 32 then (8, 1) else (4, 2)

/-- A channel's throttling after new readings. -/
def Throttle.update (t : Throttle) (e : Int) : Throttle :=
  let engaged := decide (0 < e) || (t.engaged && decide (-16 < e))
  let l := if engaged then throttleLevel e else (16, 0)
  { t with engaged := engaged, duty := l.1, cap := l.2, excess := e }

def State.noteEngaged (s : State) (c : Nat) : State :=
  let n := s.mg.engagements
  ((s.modMg (fun m => { m with engagements := satInc n 0xFFFF })).alert 8 (plainRec 8 c 0)).noteSat n 0xFFFF c

/-- The refresh step and the throttle level of a channel. -/
def State.heatChan (s : State) (c : Nat) : State :=
  let s := match s.tierTemp c with
    | some t => s.modChan c (fun ch => { ch with mem := { ch.mem with pendStep := nextStep ch.mem.pendStep t } })
    | none => s
  match s.excess c with
  | none => s
  | some e =>
    let t := (s.chan c).thr
    let u := t.update e
    let s := s.modChan c (fun ch => { ch with thr := u })
    let s := if u.engaged && !t.engaged then s.noteEngaged c else s
    if u.duty ≠ t.duty ∨ u.cap ≠ t.cap then s.timing c 0 else s

/-- Each element once, in order. -/
def dedupe (l : List Nat) : List Nat := l.foldl (fun acc x => if acc.contains x then acc else acc ++ [x]) []

def execSensorRead (readings : List (Nat × Int)) (s : State) : Result :=
  if !s.powered then .next s
  else
    let s := readings.foldl State.readSensor s
    let s := s.modMg (fun m => { m with hottest := hottestOf (m.sensors.filter (·.2.valid)) })
    .next ((dedupe ((readings.filter (fun e => decide (e.1 < 2608))).flatMap (fun e => sensorChans e.1))).foldl State.heatChan s)

/-! ## Shut-down (R374) -/

def execThermalTrip (sensor : Fin 2608) (reading : Int) (s : State) : Result :=
  if s.pins.vaon && s.pins.vin && !s.mg.tripLatch && decide (tripAt (dieOf sensor) < reading) then
    .next (s.powerOff.modMg (fun m => { m with tripLatch := true, tripSensor := sensor, tripCount := satInc m.tripCount 0xFF }))
  else .next s

/-! ## Registers (R376) -/

def State.thermClear (s : State) : State := s.modMg (fun m => { m with engagements := 0 })

def execThermStatClear (s : State) : Result := .next (s.hostReg .port .ok State.thermClear)

/-- MG_TEMP. -/
def Sensor.word (x : Sensor) : Nat := wrapNat x.temp 12 + fld (b2n x.valid) 12 + fld (b2n x.warn) 13 + fld (b2n x.overThrottle) 14

/-- MG_THERM_CH. -/
def Throttle.word (t : Throttle) : Nat :=
  b2n t.engaged + fld (min t.duty t.limDuty) 1 + fld t.cap 6 + fld (wrapNat (max (-2048) (min 2047 t.excess)) 12) 8

end Sys2Proof.Machine
end

