-- ==== Sys2Proof/Machine/Boot.lean ====
section
/-! DEFINITION. Boot, firmware delivery, recovery, the management core's duties and the sideband (16 R404 to R424). -/

namespace Sys2Proof.Machine

/-! ## The darning merge (01 R19 to R23, 16 R421) -/

/-- The merge as it goes: the state, banks that lack a working slice, records in effect, records skipped. -/
structure MergeSt where
  s : State
  bad : List (Nat × Nat)
  gen : Nat
  skipped : Nat

/-- A logical bank moves to the lowest unassigned spare bank, which has no gap: a field repair. -/
def Channel.useSpareBank (ch : Channel) (b : Nat) : Channel :=
  match ch.spares with
  | [] => ch
  | p :: r => { ch with darn := tput ch.darn b ⟨p, 16, true, false⟩, spares := r }

/-- The gap of a bank is set: a field repair. -/
def Channel.setGap (ch : Channel) (b f : Nat) : Channel := { ch with darn := tput ch.darn b { ch.darnOf b with gap := f, fieldSlice := true } }

/-- The boot ROM copies a row, its check words with it, into the lowest unused spare row of its physical bank (02 R73). -/
def State.copyRow (s : State) (c b row : Nat) : State :=
  let p := ((s.chan c).darnOf b).physBank
  let a := c * 2 ^ 31 + b * 2 ^ 24 + row * 2 ^ 13
  s.modChan c (fun ch => { ch with
    spareRows := tput ch.spareRows (p * 32 + (ch.rowsOf p).length) ⟨rdN s.mem a 8192, (upFrom 0 128).map (fun i => s.checkWord (a / 64 + i))⟩ })

/-- The mapping is enabled: the spare's cells serve the row from now on. -/
def State.enableRow (s : State) (c b row : Nat) : State :=
  let p := ((s.chan c).darnOf b).physBank
  let k := p * 32 + ((s.chan c).rowsOf p).length
  let a := c * 2 ^ 31 + b * 2 ^ 24 + row * 2 ^ 13
  let x := tget (s.chan c).spareRows k ⟨[], []⟩
  let s := s.modChan c (fun ch => { ch with rowMap := tput ch.rowMap p (ch.rowsOf p ++ [row]), spareRows := tdel ch.spareRows k })
  let s := { s with mem := wrL s.mem a x.data }
  (upFrom 0 128).foldl (fun s i => s.setDiff (a / 64 + i) (x.checks.getD i 0 ^^^ crc32c (s.blockData (a / 64 + i)))) s

def MergeSt.skip (m : MergeSt) (bad : List (Nat × Nat)) : MergeSt := { m with skipped := satInc m.skipped 0xFFFF, bad := bad ++ m.bad }
def MergeSt.take (m : MergeSt) (c : Nat) (f : Channel → Channel) : MergeSt := { m with s := m.s.modChan c f, gen := m.gen + 1 }

/-- One repair record. -/
def MergeSt.record (m : MergeSt) (r : Repair) : MergeSt :=
  if !r.intact then m
  else
    let ch := m.s.chan r.channel
    let d := ch.darnOf r.bank
    match r.kind with
    | .row =>
      if (ch.rowsOf d.physBank).length < 32 then
        { m with s := (m.s.copyRow r.channel r.bank r.target).enableRow r.channel r.bank r.target, gen := m.gen + 1 }
      else m.skip []
    | .gap =>
      if d.gap = 16 ∧ r.target ≤ 16 then m.take r.channel (fun ch => ch.setGap r.bank r.target)
      else m.skip (if d.gap = r.target then [] else [(r.channel, r.bank)])
    | .bank =>
      if ch.spares = [] then m.skip [(r.channel, r.bank)]
      else { m.take r.channel (fun ch => ch.useSpareBank r.bank) with bad := m.bad.filter (fun e => e ≠ (r.channel, r.bank)) }

/-- A physical slice the boot's sweep failed, if it serves a logical bank by now: the gap takes it, or a spare bank the whole bank, a field
repair that is recorded as one (02 R63, R22, log 89). -/
def MergeSt.failed (m : MergeSt) (c p q : Nat) : MergeSt :=
  let ch := m.s.chan c
  match ch.bankOf p with
  | none => m
  | some b =>
    if (ch.darnOf b).gap = q then m
    else if (ch.darnOf b).gap = 16 then { m with s := (m.s.modChan c (fun ch => ch.setGap b q)).addRepair .gap c b q }
    else if ch.spares = [] then { m with bad := (c, b) :: m.bad }
    else { m with s := (m.s.modChan c (fun ch => ch.useSpareBank b)).addRepair .bank c b 0, bad := m.bad.filter (fun e => e ≠ (c, b)) }

/-- The failed slices of a channel, each met with the map as it stands by then; a bank that moved to a spare may fail again there, at most
twice. -/
def MergeSt.channel (m : MergeSt) (c : Nat) : MergeSt :=
  forN 3 (fun _ m => (m.s.chan c).train.failedBond.foldl (fun m l => m.failed c l.physBank l.physSlice) m) m

/-- A channel with its map as manufactured (01 R21). -/
def FuseMap.load (f : FuseMap) (ch : Channel) : Channel :=
  { ch with darn := f.darn, rowMap := f.rows, spares := f.spares, offline := false }

/-- The 32-bit CH_DARN value of bank `b`. -/
def Channel.darnWord (ch : Channel) (b : Nat) : Nat :=
  let d := ch.darnOf b
  d.physBank + fld d.gap 8 + fld (b2n d.fieldBank) 13 + fld (b2n d.fieldSlice) 14 + fld (ch.rowsOf d.physBank).length 16

/-- CH_DARN_STATUS. -/
def Channel.darnStatus (ch : Channel) : Nat :=
  b2n ch.offline + fld ch.spares.length 8 + fld ((upFrom 0 128).filter (fun b => decide ((ch.darnOf b).gap < 16))).length 16

/-- Bytes of a channel's 128 CH_DARN values. -/
def Channel.darnBytes (ch : Channel) : List Byte := (upFrom 0 128).flatMap (fun b => leBytes 4 (ch.darnWord b))

/-- The boot keeps the arrays: a warm one that repeats no zero-fill (R406, R409). -/
def BootSt.keeps (b : BootSt) : Bool := b.warm && !b.zeroRepeated

/-- A logical bank whose arrays a warm boot keeps has moved to a physical bank whose contents the spec does not give: free (log 89). -/
def State.scramble (s : State) (c b : Nat) : State :=
  let a := c * 2 ^ 31 + b * 2 ^ 24
  let n := s.free
  let s := { s with mem := wrL s.mem a ((upFrom 0 (2 ^ 24)).map (Config.freeByte n)), free := n + 2 }
  (upFrom 0 (2 ^ 18)).foldl (fun s i => s.setDiff (a / 64 + i) (BitVec.ofNat 32 (leNat ((upFrom (4 * i) 4).map (Config.freeByte (n + 1)))))) s

/-- Sweeps, merge and digest. Channels left without a full set go offline. The merge takes the repair records first, then what the boot's
sweeps failed (log 89). -/
def State.darn (s : State) (sweeps : List (Nat × List LaneTaps)) : State :=
  let old (c b : Nat) : Nat := ((s.chan c).darnOf b).physBank
  let s := (upFrom 0 512).foldl (fun (s : State) c => s.modChan c (fun ch =>
    let ch := (tget s.fuses.maps c .plain).load ch
    { ch with train := (TrainSt.sweep { ch.train with phase := .none, lostTaps := none } ((sweeps.filter (fun e => decide (e.1 = c))).flatMap (fun e => e.2))).steer })) s
  let m := s.mram.repairs.foldl MergeSt.record ⟨s, [], 0, 0⟩
  let m := (upFrom 0 512).foldl MergeSt.channel m
  let s := (upFrom 0 512).foldl (fun (s : State) c =>
    if (s.chan c).train.tsvOver || m.bad.any (fun e => e.1 = c) then s.goOffline c else s) m.s
  let s := (upFrom 0 512).foldl (fun (s : State) c => (upFrom 0 128).foldl (fun (s : State) b =>
    if !s.mg.boot.keeps || decide (old c b = ((s.chan c).darnOf b).physBank) then s else s.scramble c b) s) s
  (s.modMg (fun g => { g with
    darnGen := m.gen, darnDigest := shake256 ((upFrom 0 512).flatMap (fun c => (s.chan c).darnBytes)) })).modBoot
    (fun b => { b with skipped := m.skipped })

/-! ## The security engine at boot (15 R389, R391, R395, R401) -/

/-- The boot count. -/
def State.bootCounted (s : State) (ok : Bool) : State :=
  if ok && !s.fuses.secretDisable then s.modMram (fun m => { m with bootCount := (m.bootCount + 1) % 2 ^ 32 })
  else (s.modMram (fun m => { m with bootCount := 1, installed := none })).secEvent 6

/-- The identity index. -/
def State.indexChecked (s : State) (ok : Bool) (blows : List Bool) : State :=
  let l := 1024 * s.fuses.idBlocks
  if ok && s.fuses.secrets && decide (s.mram.nextIndex ≤ l ∧ l ≤ s.mram.nextIndex + 1024) then s
  else
    let s := (s.modMram (fun m => { m with nextIndex := l })).secEvent 6
    if s.exhausted then s.secEvent 9 else (s.reserveBlock blows).s

/-- The installed token. -/
def State.applyInstalled (s : State) (ok : Bool) : State :=
  match s.mram.installed with
  | none => s
  | some t =>
    if !ok || s.fuses.secretDisable then s.secEvent 6
    else if t.expiry < s.mram.bootCount then s.modMram (fun m => { m with installed := none })
    else s.unlock t.level.toNat

def State.bootSecurity (s : State) (env : BootEnv) : State :=
  let s := s.modSc (fun x => { x with lifecycleNow := BitVec.ofNat 4 (lifecycleCode s.fuses.lifecycle) })
  let s := s.bootCounted env.bootRecordOk
  let s := if s.certifies then (s.indexChecked env.idRecordOk env.blows).modSc (fun x => { x with idPk := s.mram.idKey.getD [] }) else s
  let s := s.newChallenge.wantSession
  s.applyInstalled env.tokenRecordOk

/-! ## BOOT (R408) -/

/-- The phase at the end of hardware initialisation (R408, R411, R416, 17 R431). -/
def State.bootPhase (s : State) (warm : Bool) : State :=
  if s.sc.lifecycleNow = 4 then s.modBoot (fun b => { b with phase := .closed })
  else if s.mg.boot.straps.getLsbD 3 then (s.modBoot (fun b => { b with phase := .hwInit })).alert 11 (plainRec 11 0 0)
  else if warm && s.mg.boot.keptSlot then (s.modBoot (fun b => { b with phase := .verify })).enqueue .firmware
  else s.modBoot (fun b => { b with phase := .waitImage })

/-- Stage 1, from a release that the trip check lets through: rails, clocks and the cause of the restart. -/
def State.bootClocks (s : State) (warm : Bool) : State :=
  let trip := s.mg.tripLatch
  let s := { s with refCount := 0, master := 0, originRef := 0 }
  let s := s.modMg (fun m => { m with tripLatch := false, linkDom := .zero, switchDom := .zero, mgmtDom := .zero, secDom := .zero })
  (s.modBoot (fun b => { b with
    stage := 1, por := !warm, warm := warm, recover := false, watchdog := false, afterTrip := !warm && trip, zeroRepeated := warm && b.zeroPending
    wdExpiries := if warm then b.wdExpiries else 0, straps := if warm then b.straps else s.pins.strapPins })).modPins
    (fun p => { p with porstN := true, warmrstN := true })

/-- Stage 4: the zero-fill is complete, every channel is ON and awake. -/
def State.bootEnd (s : State) : State :=
  let b := s.mg.boot
  let s := if b.keeps then s else { s with mem := [], checkDiff := [] }
  let s := (upFrom 0 512).foldl (fun (s : State) c => s.modChan c (fun ch => { ch with
    awake := true, pwr := { Channel.zero.pwr with pllOn := true } })) s
  ((s.modBoot (fun b => { b with stage := 4, zeroPending := false, channelsReady := true })).bootPhase b.warm).secServe

/-- The next stage of a boot under way. -/
def State.bootStage (s : State) (env : BootEnv) : State :=
  match s.mg.boot.stage with
  | 1 => (s.bootSecurity env).modBoot (fun b => { b with stage := 2 })
  | 2 => (s.darn env.sweeps).modBoot (fun b => { b with stage := 3 })
  | 3 => s.bootEnd
  | _ => s

/-- A boot goes on until it is complete, or to the stage at which a reset will interrupt it (R409). -/
def State.bootTo (s : State) (env : BootEnv) : State :=
  forN 3 (fun _ s => if s.mg.boot.stage < env.stages then s.bootStage env else s) s

/-- A release of PORST_N or WARMRST_N runs the boot, or one under way goes on. A release of PORST_N before the input stage has charged is
held (17 R435). At its release the AON clock is chosen (R405) and zero_pending set (R409); a tripped module stays off until the sensor has
cooled by 15 K, and no release of WARMRST_N clears the latch (14 R375). -/
def execBoot (env : BootEnv) (s : State) : Result :=
  let p := s.pins
  if !p.vaon || !p.vin || !p.refclk then .next s
  else if !p.porstN then
    if !p.charged then .next (s.modPins (fun p => { p with releaseHeld := true }))
    else
      let s := (s.modPins (fun p => { p with releaseHeld := false, aonPin := env.aonToggles })).modBoot (fun b => { b with zeroPending := true })
      if s.mg.tripLatch && decide (tripAt (dieOf s.mg.tripSensor) - 60 < env.tripReading) then .next (s.modPins (fun p => { p with porstN := true }))
      else .next ((s.bootClocks false).bootTo env)
  else if !p.warmrstN then
    if s.mg.tripLatch then .next (s.modPins (fun p => { p with warmrstN := true })) else .next ((s.bootClocks true).bootTo env)
  else .next (s.bootTo env)

/-! ## Firmware delivery (R411 to R413) -/

/-- Bytes of the load window. -/
def slotSize : Nat := 0x70000

/-- Phase WAIT_IMAGE with nothing loaded. -/
def State.waitImage (s : State) : State := s.modBoot (fun b => { b with phase := .waitImage, source := .none, slotValid := false, slot := [] })

/-- A claim accepted. -/
def State.claim (s : State) (src : LoadSource) : State :=
  s.modBoot (fun b => { b with
    phase := .loading, source := src, slotValid := false, slot := [], claimRefused := false, loadStart := s.refCount })

/-- MG_BOOT_CTRL start_link. -/
def State.startLink (s : State) : State :=
  if s.mg.boot.phase = .waitImage ∧ s.mg.boot.straps.getLsbD 2 = false then s.claim .link
  else s.modBoot (fun b => { b with claimRefused := true })

def execStartLink (s : State) : Result := .next (s.hostReg .port .ok State.startLink)

/-- A request from the management core to the security engine, which wakes it (13 Table 5). -/
def State.coreRequest (s : State) (q : SecReq) : State := ((s.enqueue q).wake .security).secServe

/-- MG_BOOT_CTRL go, FW_END. -/
def State.startVerify (s : State) : State :=
  if s.mg.boot.phase = .loading then (s.modBoot (fun b => { b with phase := .verify })).coreRequest .firmware else s

def execBootGo (s : State) : Result := .next (s.hostReg .port .ok State.startVerify)

/-- Bytes into the slot. -/
def State.slotWrite (s : State) (off : Nat) (bs : List Byte) : State :=
  s.modBoot (fun b => { b with slot := wrL b.slot off (bs.take (slotSize - off)), loadStart := s.refCount })

/-- MG_BOOT_CTRL abandon. -/
def State.abandon (s : State) : State := if s.mg.boot.phase = .loading then s.waitImage else s

def execAbandon (s : State) : Result := .next (s.hostReg .port .ok State.abandon)

/-- 10 s without a byte. -/
def execLoadTimeout (s : State) : Result :=
  if s.mg.boot.phase = .loading ∧ s.mg.boot.loadStart + usRef 10000000 ≤ s.refCount then .next s.waitImage else .next s

/-! ### The container (15 R384, R385) -/

def payloadSize (h : List Byte) : Nat := leAt h 16 4

/-- Fields of the header as Table 4 allows them. -/
def headerOk (h : List Byte) : Bool :=
  decide (leAt h 0 4 = 0x58505249 ∧ leAt h 4 2 = 1 ∧ leAt h 6 2 = 1 ∧ leAt h 12 2 ≤ 64 ∧ leAt h 14 1 ≤ 3 ∧ leAt h 15 1 ≤ 1)
    && decide (payloadSize h % 64 = 0 ∧ 4096 ≤ payloadSize h ∧ payloadSize h ≤ 393216)
    && allZero (bytesAt h 20 4) && allZero (bytesAt h 56 8) && allZero (bytesAt h 200 56)
    && (decide (leAt h 15 1 = 1) || allZero (bytesAt h 132 68))

/-- The owner check. -/
def State.containerOwner (s : State) (h sig : List Byte) : Bool :=
  let good := hashIs s.fuses.ownerHash (bytesAt h 132 68) && Config.xmssVerify 20 (bytesAt h 132 68) h sig
  let signed := decide (leAt h 15 1 = 1)
  if s.fuses.ownerRequired then signed && good else !signed || Config.xmssVerify 20 (bytesAt h 132 68) h sig

/-- The result code of Table 5: 1 accepted. -/
def State.checkContainer (s : State) (m : Memory) : Nat :=
  let h := rdN m 0 256
  let r := leAt h 14 1
  let ownerSig := rdN m 3076 2820
  if !headerOk h || !allZero (rdN m 5896 56) || (decide (leAt h 15 1 = 0) && !allZero ownerSig) || decide (s.sc.lifecycleNow = 4) then 2
  else if s.rootRevoked r || !s.rootSet r then 6
  else if !hashIs (s.fuses.rootHash.getD r none) (bytesAt h 64 68) || !Config.xmssVerify 20 (bytesAt h 64 68) h (rdN m 256 2820) then 5
  else if !s.containerOwner h ownerSig then 7
  else if leAt h 12 2 < s.fuses.secver then 12
  else if bytesAt h 24 32 ≠ shake256 (rdN m 5952 (payloadSize h)) then 2
  else 1

/-- The image runs. -/
def State.runImage (s : State) : State :=
  let h := rdN s.mg.boot.slot 0 256
  (s.modSc (fun x => { x with fwMeas := shake256 h, fwHeader := h })).modBoot (fun b => { b with
    phase := .running, slotValid := true, lastResult := 1, source := if b.source = .none then b.keptSource else b.source })

/-- The image is refused. -/
def State.refuseImage (s : State) (r : Nat) : State :=
  (((s.modSc (fun x => { x with lastResult := BitVec.ofNat 8 r })).secEvent 8).waitImage.modBoot (fun b => { b with lastResult := r })).alert 11
    (plainRec 11 0 0)

def execFirmwareVerified (s : State) : Result :=
  let s := s.secServe
  match s.sc.queue with
  | .firmware :: _ =>
    if !s.secOn then .next s
    else
      let r := s.checkContainer s.mg.boot.slot
      let s := s.popSec
      .next ((if r = 1 then s.runImage else s.refuseImage r).secServe)
  | _ => .next s

/-! ## Recovery (R414, R415, R417) -/

/-- The phase the boot ROM restarts in. -/
def BootSt.restart (b : BootSt) : BootPhase :=
  if b.phase = .closed then .closed else if b.straps.getLsbD 3 then .hwInit else .waitImage

/-- A management reset; `wd` tells that the watchdog made it. -/
def State.mgmtReset (s : State) (wd : Bool) : State :=
  (s.modSc (fun x => { x with queue := x.queue.filter (fun q => q ≠ .firmware) })).modBoot (fun b => { b with
    phase := b.restart, source := .none, keptSource := .none, lastResult := 0, slotValid := false, claimRefused := false
    level := 0, forcedMin := 0, busyPct := 0, calm := 0, traceLost := 0, pollsShed := 0, coreHalted := false, coreWait := false, coreBreaks := []
    por := false, warm := false, recover := !wd, watchdog := wd, afterTrip := false, zeroRepeated := false })

def State.recover (s : State) (key : Nat) : State := if key = 0x4C0A then s.mgmtReset false else s

def execRecover (key : W16) (s : State) : Result := .next (s.hostReg .port .ok (fun s => s.recover key.toNat))

/-- Expiries of the last 60 s, this one included. -/
def State.recentExpiries (s : State) : List Nat := s.refCount :: s.mg.boot.expiries.filter (fun t => decide (s.refCount < t + usRef 60000000))

/-- The watchdog expires: the slot is verified again unless it holds no image or this is the third expiry within 60 s. -/
def execMgmtWatchdogExpire (s : State) : Result :=
  if !s.powered then .next s
  else
    let had := s.mg.boot.slotValid
    let ex := s.recentExpiries
    let n := s.mg.boot.wdExpiries
    let s := ((s.mgmtReset true).modBoot (fun b => { b with expiries := ex, wdExpiries := satInc n 0xFF })).alert 11 (plainRec 11 0 0)
    if had && decide (ex.length < 3 ∧ s.mg.boot.phase = .waitImage) then
      .next ((s.modBoot (fun b => { b with phase := .verify })).coreRequest .firmware)
    else .next s

/-! ## Duties (R419, R421) -/

/-- A measurement of the busy fraction. -/
def BootSt.measure (b : BootSt) (u : Nat) : BootSt :=
  let calm := if u < 60 then b.calm + 1 else 0
  let level := if 90 < u then min 3 (b.level + 1) else if calm = 10 then b.level - 1 else b.level
  { b with busyPct := min u 255, calm := if calm = 10 then 0 else calm, level := max level b.forcedMin }

def execShedMeasure (busyPct : Nat) (s : State) : Result := if s.fwRuns then .next (s.modBoot (fun b => b.measure busyPct)) else .next s

/-- A write of MG_SHED. -/
def State.shedWrite (s : State) (v : W32) : State :=
  s.modBoot (fun b => { b with forcedMin := bits v.toNat 3 2, level := max b.level (bits v.toNat 3 2) })

def execRepairRecord (kind : RepairKind) (c : Chan) (b : BankIx) (target : W16) (s : State) : Result :=
  if s.fwRuns then .next (s.addRepair kind c b target.toNat) else .next s

/-! ## The sideband (R422, R423) -/

/-- The management domain answers on SMBus. -/
def State.sbReady (s : State) : Bool := s.powered && decide (s.mg.mgmtDom.state = .on)

def State.respond (s : State) (bs : List Byte) : State := s.modBoot (fun b => { b with sbOut := bs })

/-- An SMBus transaction: a bad PEC discards it, a domain not ON wakes (13 Table 5). -/
def State.sideband (s : State) (pec : Bool) (f : State → State) : State :=
  if !pec || !s.powered then s
  else
    let s := s.modBoot (fun b => { b with coreWait := false })
    if s.sbReady then f s else s.wake .management

/-- A vendor command that firmware serves. -/
def State.sbFirmware (s : State) (pec : Bool) (f : State → State) : State :=
  s.sideband pec (fun s => if s.fwRuns then f s else s.respond [4])

def phaseCode : BootPhase → Nat
  | .hwInit => 0 | .waitImage => 1 | .loading => 2 | .verify => 3 | .running => 4 | .closed => 5

def sourceCode : LoadSource → Nat
  | .none => 0 | .link => 1 | .smbus => 2

/-- MG_BOOT_STATUS. -/
def BootSt.statusWord (b : BootSt) : Nat :=
  phaseCode b.phase + fld (sourceCode b.source) 3 + fld b.lastResult 5 + fld (b2n b.channelsReady) 9 + fld (b2n b.slotValid) 10
    + fld (b2n b.claimRefused) 11 + fld b.straps.toNat 12

/-- MG_RESET_CAUSE. -/
def BootSt.causeWord (b : BootSt) : Nat :=
  b2n b.por + fld (b2n b.warm) 1 + fld (b2n b.recover) 2 + fld (b2n b.watchdog) 3 + fld (b2n b.afterTrip) 4 + fld (b2n b.zeroRepeated) 5
    + fld b.wdExpiries 16

def execGetBootStatus (pec : Bool) (s : State) : Result :=
  .next (s.sideband pec (fun s => s.respond (0 :: leBytes 4 s.mg.boot.statusWord ++ leBytes 4 s.mg.boot.causeWord)))

def State.fwBegin (s : State) : State :=
  match s.mg.boot.phase with
  | .waitImage => (s.claim .smbus).respond [0]
  | .loading => s.respond [1]
  | .closed => s.respond [3, 2]
  | _ => s.respond [4]

def execFwBegin (pec : Bool) (s : State) : Result := .next (s.sideband pec State.fwBegin)

def State.fwChunk (s : State) (off : Nat) (bs : List Byte) : State :=
  if ¬ (s.mg.boot.phase = .loading ∧ s.mg.boot.source = .smbus) then s.respond [4]
  else if 1024 < bs.length then s.respond [2]
  else (s.slotWrite off bs).respond [0]

def execFwChunk (pec : Bool) (off : W32) (bytes : List Byte) (s : State) : Result := .next (s.sideband pec (fun s => s.fwChunk off.toNat bytes))

def execFwEnd (pec : Bool) (s : State) : Result :=
  .next (s.sideband pec (fun s => if s.mg.boot.phase = .loading then s.startVerify.respond [0] else s.respond [4]))

def execGetChallenge (pec : Bool) (s : State) : Result := .next (s.sideband pec (fun s => s.respond (0 :: bytesAt s.sc.nonce 0 32)))

def execTokenLoad (pec : Bool) (off : W16) (bytes : List Byte) (s : State) : Result :=
  .next (s.sideband pec (fun s => if 1024 < bytes.length then s.respond [2] else (s.tokenLoad off.toNat bytes).respond [0]))

/-- The response follows the result (R397). -/
def execTokenSubmit (pec : Bool) (s : State) : Result := .next (s.sideband pec (fun s => ((s.respond []).wake .security).submit true))

/-- A sideband report is under way. -/
def State.sbReport (s : State) : Bool := s.sc.queue.any (fun q => match q with | .report sb _ => sb | _ => false)

def execAttest (pec : Bool) (nonce : List Byte) (s : State) : Result :=
  .next (s.sbFirmware pec (fun s =>
    if nonce.length ≠ 32 then s.respond [2]
    else if s.sbReport then s.respond [1]
    else if !s.certifies then s.respond [3, 2]
    else (s.respond [0]).coreRequest (.report true nonce)))

def execAttestRead (pec : Bool) (off : W16) (len : Nat) (s : State) : Result :=
  .next (s.sbFirmware pec (fun s =>
    if 1024 < len then s.respond [2] else if s.sbReport then s.respond [1] else s.respond (0 :: bytesAt s.sc.sbBuf off.toNat len)))

/-- An error-log record, zero where none stands. -/
def MgSt.errBytes (m : MgSt) (i : Nat) : List Byte := match tfind m.errLog i with | some e => leBytes 32 e.nat | none => List.replicate 32 0

def execErrlogRead (pec : Bool) (first : Byte) (count : Nat) (s : State) : Result :=
  .next (s.sbFirmware pec (fun s =>
    if count = 0 ∨ 16 < count ∨ 256 < first.toNat + count then s.respond [2]
    else s.respond (0 :: (upFrom first.toNat count).flatMap s.mg.errBytes)))

def execDarnRead (pec : Bool) (c : W16) (s : State) : Result :=
  .next (s.sbFirmware pec (fun s =>
    if 512 ≤ c.toNat then s.respond [2] else s.respond (0 :: (s.chan c.toNat).darnBytes ++ leBytes 4 (s.chan c.toNat).darnStatus)))

/-- A trace record as its 16 bytes (R419). -/
def TraceRec.bytes (t : TraceRec) : List Byte :=
  leBytes 4 t.tag.toNat ++ leBytes 2 (t.channel % 512) ++ leBytes 2 (t.record % 512) ++ [t.event, t.info, 0, 0] ++ leBytes 4 t.cycles.toNat

def MgSt.traceBytes (m : MgSt) (i : Nat) : List Byte := match tfind m.trace i with | some t => t.bytes | none => List.replicate 16 0

def execTraceRead (pec : Bool) (first : W16) (count : Nat) (s : State) : Result :=
  .next (s.sbFirmware pec (fun s =>
    if count = 0 ∨ 64 < count ∨ 4096 < first.toNat + count then s.respond [2]
    else s.respond (0 :: (upFrom first.toNat count).flatMap s.mg.traceBytes)))

/-! ### MCTP and PLDM messages; their layouts beyond the spec's words are log 35's -/

def execSetEndpointId (pec : Bool) (eid : Byte) (s : State) : Result :=
  .next (s.sideband pec (fun s =>
    if eid = 0 ∨ eid = 0xFF then s.respond [2] else (s.modBoot (fun b => { b with eid := eid })).respond [0, 0, eid]))

def execGetEndpointId (pec : Bool) (s : State) : Result := .next (s.sideband pec (fun s => s.respond [0, s.mg.boot.eid]))

/-- Versions are the standards' own: free bytes. -/
def execGetMctpVersionSupport (pec : Bool) (msgType : Byte) (s : State) : Result :=
  .next (s.sideband pec (fun s =>
    if [0xFF#8, 0x00#8, 0x01#8, 0x7E#8].contains msgType then (s.draw 4).2.respond (0 :: 1 :: (s.draw 4).1) else s.respond [0x80]))

def execGetMessageTypeSupport (pec : Bool) (s : State) : Result := .next (s.sideband pec (fun s => s.respond [0, 2, 0x01, 0x7E]))

def execGetVendorMessageSupport (pec : Bool) (s : State) : Result :=
  .next (s.sideband pec (fun s => s.respond (0 :: 0xFF :: 1 :: leBytes 4 Config.enterprise.toNat)))

/-- Sensors of a die class. -/
def dieSensors (d : Fin 4) : List Nat :=
  match d.val with
  | 0 => upFrom 0 2048
  | 1 => upFrom 2048 512
  | 2 => upFrom 2560 32
  | _ => upFrom 2592 16

/-- What a PLDM sensor reads now; the module's draw is free. -/
def State.pldmValue (s : State) (k : PldmSensor) : Int × State :=
  match k with
  | .hottest d => (((dieSensors d).map s.sensor).filter (·.valid) |>.foldl (fun b x => max b x.temp) (-2048), s)
  | .excess c => ((s.chan c).thr.excess, s)
  | .draw => ((leNat (s.draw 4).1 : Int), (s.draw 4).2)

/-- The value polled last. -/
def BootSt.lastPolled (b : BootSt) (k : PldmSensor) : Int := match b.polled.find? (fun e => e.1 = k) with | some e => e.2 | none => 0

/-- GetSensorReading: while polling is shed, the last value with state statusUnknown, and a poll counted as skipped. -/
def State.sensorReading (s : State) (k : PldmSensor) : State :=
  if 1 ≤ s.mg.boot.level then
    let n := s.mg.boot.pollsShed
    ((s.modBoot (fun b => { b with pollsShed := satInc n 0xFFFF })).respond (0 :: 3 :: leBytes 4 (wrapNat (s.mg.boot.lastPolled k) 32))).noteSat n 0xFFFF 0
  else
    let r := s.pldmValue k
    (r.2.modBoot (fun b => { b with polled := (k, r.1) :: b.polled.filter (fun e => e.1 ≠ k) })).respond (0 :: 0 :: leBytes 4 (wrapNat r.1 32))

def execGetSensorReading (pec : Bool) (sensor : PldmSensor) (s : State) : Result := .next (s.sbFirmware pec (fun s => s.sensorReading sensor))

/-- The module sends an event message for an alert bit that is set. -/
def execPlatformEventMessage (bit : Fin 13) (s : State) : Result :=
  if s.fwRuns && s.mg.alert.getLsbD bit.val then .next (s.respond [BitVec.ofNat 8 bit.val]) else .next s

end Sys2Proof.Machine
end

