-- ==== Sys2Proof/Machine/Regs.lean ====
section
/-! DEFINITION. The register map: every register as it reads and as a write changes it (04 R110 to R113, 18 R445 to R448). A register is
named by its window and the offset of its 32-bit word. -/

namespace Sys2Proof.Machine

/-! ## The address map (04 Tables 4 to 6) -/

/-- What a host address names. -/
inductive Target where
  | data (off : Nat)
  | chan (c off : Nat)
  | port (off : Nat)
  | sync (off : Nat)
  | hole
deriving DecidableEq, Repr

def target (a : Nat) : Target :=
  if a < 0x010000000000 then .data a
  else if a < 0x010200000000 then .chan ((a - 0x010000000000) / 0x1000000) (a % 0x1000000)
  else if 0x020000000000 ≤ a ∧ a < 0x020010000000 then .port (a - 0x020000000000)
  else if 0x021000000000 ≤ a ∧ a < 0x021001000000 then .sync (a - 0x021000000000)
  else .hole

/-- Regions of a channel window (Table 5). -/
def chanRegion (off : Nat) : Bool :=
  decide (off < 0x18000 ∨ (0x100000 ≤ off ∧ off < 0x140000) ∨ (0x800000 ≤ off ∧ off < 0xC00000) ∨ 0xE00000 ≤ off)

/-! ## HB_ registers -/

/-- The phase, in time units, of a flit whose first UI is at instant `t` (04 R123). -/
def State.phase (s : State) (t : Nat) : Nat := cycleDiff (t + Config.pinToBank) (s.originRef * 1344) 806400

/-- The lane-group pair of a channel is shared. -/
def State.pairShared (s : State) (c : Nat) : Bool := (s.group (groupOf c)).shared || (s.group (groupOf c)).carried

def State.tideWord (s : State) (c : Nat) : Nat :=
  b2n (s.hostAwake c) + fld (b2n (s.port.strict && !s.pairShared c)) 1 + fld (b2n (s.pairShared c)) 2 + fld (if s.pairShared c then 4 else 2) 8 + fld 32 16

/-- HB_TIDE_PHASE: a phase that is no whole number of picoseconds is rounded down. DESIGN CHOICE, log 3. -/
def State.tidePhaseWord (s : State) (c t : Nat) : Nat := s.phase t * 100 / 21 + fld (b2n (s.port.strict && (s.chan c).onPll)) 31


def State.hbRead (s : State) (t off : Nat) : Option Nat :=
  let p := s.port
  if off = 0x00 then some s.portModeWord
  else if off = 0x04 then some (fld (b2n p.armedAt.isSome) 16)
  else if off = 0x10 then some s.strictWord
  else if off = 0x14 then some p.epochWord
  else if off = 0x18 then some (p.slips + fld p.lastPhase 16)
  else if 0x1000 ≤ off ∧ off < 0x2000 then some (s.win ((off - 0x1000) / 4))
  else if 0x2000 ≤ off ∧ off < 0x2800 then some (tget p.violCount ((off - 0x2000) / 4) 0 + fld (tget p.violCause ((off - 0x2000) / 4) 0) 16)
  else if 0x3000 ≤ off ∧ off < 0x3800 then some (s.tideWord ((off - 0x3000) / 4))
  else if 0x4000 ≤ off ∧ off < 0x4800 then some (s.tidePhaseWord ((off - 0x4000) / 4) t)
  else if off = 0x200000 then some (p.swLength + fld (b2n (swValid p.swLength)) 31)
  else if 0x201000 ≤ off ∧ off < 0x221000 then some (tget p.swSlots ((off - 0x201000) / 4) 0).toNat
  else if 0x300000 ≤ off ∧ off < 0x300040 then some (s.maskReg ((off - 0x300000) / 4))
  else if 0x600000 ≤ off ∧ off < 0x600040 then some (s.classMw ((off - 0x600000) / 4))
  else if 0x601000 ≤ off ∧ off < 0x601800 then some (s.baseMw ((off - 0x601000) / 4))
  else if 0x602000 ≤ off ∧ off < 0x602800 then some (s.charged ((off - 0x602000) / 4) + fld (s.effective ((off - 0x602000) / 4)) 16)
  else if 0x603000 ≤ off ∧ off < 0x603800 then
    some (tget s.ledger.lent ((off - 0x603000) / 4) 0 + fld (tget s.ledger.borrowed ((off - 0x603000) / 4) 0) 16)
  else if off = 0x604000 then some (b2n s.ledger.lendEn)
  else if off = 0x604004 then some (s.ledger.pool + fld (b2n s.ledger.allocRefused) 31)
  else if off = 0x700000 then some (p.hostFaults + fld p.moduleFaults 16)
  else if off = 0x700004 then some 0
  else none

/-! ## LK_ registers (03 Tables 13 to 18) -/

def gstateCode : GState → Nat
  | .off => 0 | .train => 1 | .active => 2 | .standby => 3 | .down => 4

def Lane.word (l : Lane) : Nat := l.physLane + fld (b2n l.inverted) 3 + fld (b2n l.failed) 4 + fld l.skew 8 + fld l.corrBytes 16

def LaneGroup.read (g : LaneGroup) (off : Nat) : Option Nat :=
  if off = 0x00 then some (gstateCode g.state + fld (b2n g.shared) 3 + fld (b2n g.carried) 4 + fld g.laneFailed.toNat 8)
  else if off = 0x04 then some (fld (b2n g.remapEn) 1 + fld (b2n g.standbyEn) 2)
  else if off = 0x08 then some (g.corrected + fld g.lost 16)
  else if off = 0x0C then some (g.crcOnly + fld g.malformed 16 + fld g.retrains 24)
  else if 0x10 ≤ off ∧ off < 0x30 then some (tget g.lanes ((off - 0x10) / 4) .zero).word
  else none

def LinkSt.wakeWord (l : LinkSt) : Nat := b2n l.swellSeen + fld (b2n l.activitySeen) 1 + fld l.lastGroup 4

def State.lkRead (s : State) (off : Nat) : Option Nat :=
  if off < 0x400 then (s.group (off / 0x40)).read (off % 0x40) else if off = 0x800 then some s.link.wakeWord else none

/-! ## MG_ registers -/

def stateCode : PState → Nat
  | .on => 0 | .waking => 1 | .retention => 2 | .off => 3

/-- MG_PWR_CH. -/
def ChPower.word (p : ChPower) : Nat :=
  p.dom.target.toNat + fld (stateCode p.dom.state) 2 + fld p.opTarget 4 + fld p.opNow 6 + fld (b2n (p.inTransit || p.opChanging.isSome)) 9

/-- Refusal counters. -/
def PowerDom.refWord (p : PowerDom) : Nat := p.refused + fld p.refuser 16

/-- MG_PWR_PD. -/
def MgSt.pdWord (m : MgSt) : Nat :=
  m.linkDom.target.toNat + fld m.switchDom.target.toNat 2 + fld m.mgmtDom.target.toNat 4 + fld m.secDom.target.toNat 6
    + fld (stateCode m.linkDom.state) 16 + fld (stateCode m.switchDom.state) 18 + fld (stateCode m.mgmtDom.state) 20 + fld (stateCode m.secDom.state) 22

/-- The domain of MG_PWR_PDREF[k]. -/
def pdOf : Nat → Domain
  | 0 => .link | 1 => .switch | 2 => .management | _ => .security

def State.mgRead (s : State) (off : Nat) : Option Nat :=
  let m := s.mg
  let b := m.boot
  if off = 0x00 then some b.statusWord
  else if off = 0x04 then some 0
  else if off = 0x08 then some b.causeWord
  else if off = 0x10 then some (b.level + fld b.forcedMin 2 + fld b.busyPct 4)
  else if off = 0x14 then some (b.traceLost + fld b.pollsShed 16)
  else if off = 0x18 then some (s.mram.repairs.length + fld b.skipped 16)
  else if off = 0x20 then some (b2n s.fuses.grade + fld (b2n s.fuses.fp64) 1 + fld s.fuses.stepping.toNat 8 + fld 0x9A10 16)
  else if off = 0x1000 then some m.darnGen
  else if 0x1020 ≤ off ∧ off < 0x1040 then some (regWord m.darnDigest (off - 0x1020))
  else if off = 0x3000 then some m.alert.toNat
  else if off = 0x3004 then some m.alertMask.toNat
  else if off = 0x3008 then some m.corrThreshold
  else if off = 0x3010 then some (m.errHead + fld m.errLost 16)
  else if off = 0x3014 then some 0
  else if 0x4000 ≤ off ∧ off < 0x6000 then some (regWord (m.errBytes ((off - 0x4000) / 32)) (off % 32))
  else if 0x6000 ≤ off ∧ off < 0x6800 then some (s.chan ((off - 0x6000) / 4)).pwr.word
  else if 0x6800 ≤ off ∧ off < 0x7000 then some (s.chan ((off - 0x6800) / 4)).pwr.dom.refWord
  else if off = 0x7000 then some m.pdWord
  else if 0x7010 ≤ off ∧ off < 0x7020 then some (s.dom (pdOf ((off - 0x7010) / 4))).refWord
  else if 0x8000 ≤ off ∧ off < 0xA8C0 then some (s.sensor ((off - 0x8000) / 4)).word
  else if 0xB000 ≤ off ∧ off < 0xB800 then some (s.chan ((off - 0xB000) / 4)).thr.word
  else if off = 0xB800 then some (m.warnLogic + fld m.warnDram 8)
  else if off = 0xB804 then some (m.engagements + fld m.hottest 16)
  else if off = 0xB808 then some (m.tripCount + fld m.tripSensor 8)
  else if 0x10000 ≤ off ∧ off < 0x20000 then some (regWord (m.traceBytes ((off - 0x10000) / 16)) (off % 16))
  else none

/-- A word of the port die; `t` is the instant of the flit that carries the read. -/
def State.portRead (s : State) (t off : Nat) : Option Nat :=
  if off % 4 ≠ 0 then none
  else if off < 0x100000 then s.hbRead t off
  else if off < 0x200000 then s.lkRead (off - 0x100000)
  else if off < 0x400000 then s.hbRead t off
  else if off < 0x500000 then s.mgRead (off - 0x400000)
  else if off < 0x600000 then s.scRead (off - 0x500000)
  else s.hbRead t off

/-! ## Doorbell blocks (05 Table 2) -/

def ctxCode : CtxState → Nat
  | .free => 0 | .active => 1 | .halted => 2 | .aborting => 3 | .slack => 4 | .binding => 5

def Ctx.read (x : Ctx) (off : Nat) : Nat :=
  if off = 0x00 then x.prod
  else if off = 0x04 then x.ringBase + fld x.ringSlots 12
  else if off = 0x08 then x.cqBase + fld x.cqEntries 12
  else if off = 0x0C then x.cqHead
  else if off = 0x10 then ctxCode x.state + fld (b2n x.strict) 3 + fld (b2n x.balance) 4 + fld x.gen.toNat 8 + fld x.lastCause.toNat 16
  else if off = 0x14 then x.cons + fld x.cqTail 16
  else if off = 0x18 then x.announced + fld x.inflight.length 12
  else if off = 0x1C then x.overruns + fld x.torn 16
  else 0

/-! ## Slice registers (06 Tables 1 to 5) -/

def engCode (g : EngineSt) : Nat :=
  match g.state with
  | .idle => 0
  | .issuing => if g.queue = [] ∧ g.miss.isSome = true then 3 else 1
  | .draining => 4
  | .semWait => 2
  | .stopped => 5
  | .faulted => 6

def EngineSt.word (g : EngineSt) : Nat := g.pc.toNat + fld g.queue.length 18 + fld (engCode g) 23

/-- Engines that wait on semaphore `k`. -/
def SliceSt.waitMask (x : SliceSt) (k : Nat) : Nat :=
  (upFrom 0 4).foldl (fun n e => n + fld (b2n (match (tget x.engines e .zero).waitSem with | some w => decide (w.1.val = k) | none => false)) e) 0

def State.slRead (s : State) (sl : SliceId) (off : Nat) : Option Nat :=
  let x := s.slice sl
  if off < 0x100 then some (x.skeinW (off / 4)).toNat
  else if off = 0x100 then some sl.toNat
  else if off = 0x104 then some ((match x.layer with | some l => 1 + fld l.record.val 8 + fld l.gen.toNat 24 | none => 0)
    + fld (b2n ((s.chan (slChan sl)).leased (slBank sl))) 1)
  else if off = 0x108 then some x.summary.toNat
  else if off = 0x10C then some (b2n x.pinned + fld (b2n x.pinTrunc) 1 + fld x.pinnedLines 8)
  else if 0x110 ≤ off ∧ off < 0x120 then some (tget x.engines ((off - 0x110) / 4) .zero).word
  else if 0x120 ≤ off ∧ off < 0x160 then some (x.sem ((off - 0x120) / 4) + fld (x.waitMask ((off - 0x120) / 4)) 8)
  else if 0x180 ≤ off ∧ off < 0x1C0 then
    let j := (off - 0x180) / 8
    some (if off % 8 = 0 then tget x.perf j 0 % 2 ^ 32 else tget x.perf j 0 / 2 ^ 32 + fld (b2n (x.perfSat.getLsbD j)) 31)
  else if off = 0x1C0 then some (fld (b2n x.perfEnable) 1)
  else none

/-! ## CH_ registers -/

/-- CH_LEASE_STATE of register `i`. -/
def Channel.leaseWord (ch : Channel) (i : Nat) : Nat := (upFrom 0 32).foldl (fun n j => n + fld (b2n (ch.leased (32 * i + j))) j) 0

def Channel.chkRead (ch : Channel) (off : Nat) : Option Nat :=
  let k := ch.chk
  if off = 0x00 then some (k.retriedOk + fld k.readFail 16)
  else if off = 0x04 then some (k.scrubFail + fld k.transit 16)
  else if off = 0x08 then some (k.parity + fld k.keptFail 16)
  else if off = 0x0C then some (k.lastBlk + fld k.lastSrc 25)
  else if off = 0x10 then some 0
  else if off = 0x20 then some (b2n k.scrubEn + fld k.rowUs 16)
  else if off = 0x24 then some (k.row + fld k.passes 16)
  else none

/-- A channel register by its offset from 0x00E0_0000. -/
def State.chReg (s : State) (c off : Nat) : Option Nat :=
  let ch := s.chan c
  if off < 0x200 then some (ch.darnWord (off / 4))
  else if off = 0x200 then some ch.darnStatus
  else if off = 0x10000 then some (ch.mem.ageCap + fld ch.mem.panicLevel 8 + fld (b2n ch.mem.postponeEn) 14)
  else if off = 0x10004 then some (s.memStatus c)
  else if off = 0x10100 then some ch.train.ctrlWord
  else if off = 0x10104 then some ch.train.sel.toNat
  else if off = 0x10108 then some ch.train.resultWord
  else if 0x10200 ≤ off ∧ off < 0x10210 then some (tget ch.policy ((off - 0x10200) / 4) 0).toNat
  else if 0x10210 ≤ off ∧ off < 0x10220 then some (ch.leaseWord ((off - 0x10210) / 4))
  else if off = 0x20000 then some (ch.codeBusy + fld ch.codeLast 16)
  else if off = 0x30000 then some (ch.fabLength + fld (b2n (fabValid ch.fabLength)) 31)
  else if 0x30400 ≤ off ∧ off < 0x30800 then some (tget ch.fabSlots ((off - 0x30400) / 4) 0xFFFF).toNat
  else if 0x40000 ≤ off ∧ off < 0x48000 then (s.syncObj (.chan (chanOf c) (Fin.ofNat 128 ((off - 0x40000) / 256)))).read (off % 256)
  else if off = 0x48000 then some (ch.descheduleUs + fld ch.lendUs 16)
  else if off = 0x48004 then some (ch.msgStale + fld ch.msgFull 16)
  else if off = 0x48008 then some (ch.syncFaults + fld ch.descheds 16)
  else if off = 0x50000 then some (ch.strictCause.toNat + fld (b2n ch.strictCtx) 16)
  else if off = 0x50004 then some ch.strictTag.toNat
  else if 0x60000 ≤ off ∧ off < 0x60028 then ch.chkRead (off - 0x60000)
  else if 0x70000 ≤ off ∧ off < 0x70200 then
    let p := (ch.bank ((off - 0x70000) / 4)).pwr
    some (p.target.toNat + fld (stateCode p.state) 2)
  else if 0x70200 ≤ off ∧ off < 0x70400 then some (ch.bank ((off - 0x70200) / 4)).pwr.refWord
  else if off = 0x70400 then some 0
  else if 0x100000 ≤ off ∧ off < 0x140000 then
    let w := (tget ch.wlog ((off - 0x100000) / 8) .zero).word.toNat
    some (if off % 8 = 0 then w % 2 ^ 32 else w / 2 ^ 32)
  else none

/-- A word of a channel window. The command buffer and the code store read as their bytes. -/
def State.chanRead (s : State) (c off : Nat) : Option Nat :=
  if off % 4 ≠ 0 then none
  else if off < 0x10000 then some (leNat (rdN (s.chan c).cmdBuf off 4))
  else if off < 0x18000 then some ((s.ctx c ((off - 0x10000) / 64)).read (off % 64))
  else if 0x100000 ≤ off ∧ off < 0x140000 then some (leNat (rdN (s.chan c).code (off - 0x100000) 4))
  else if 0x800000 ≤ off ∧ off < 0xC00000 then s.slRead (BitVec.ofNat 20 (c * 2048 + (off - 0x800000) / 0x800)) (off % 0x800)
  else if 0xE00000 ≤ off then s.chReg c (off - 0xE00000)
  else none

/-- A word of the module-scope sync window. -/
def State.syncRead (s : State) (off : Nat) : Option Nat :=
  if 0x200000 ≤ off then none else (s.syncObj (.module (Fin.ofNat 8192 (off / 256)))).read (off % 256)

/-- The word a host address names, where a register or a buffer stands; data is not read here. -/
def State.wordOf (s : State) (t : Nat) : Target → Option Nat
  | .port off => s.portRead t off
  | .chan c off => s.chanRead c off
  | .sync off => s.syncRead off
  | _ => none

/-- The target `k` bytes on. -/
def Target.plus (x : Target) (k : Nat) : Target :=
  match x with
  | .data off => .data (off + k)
  | .chan c off => .chan c (off + k)
  | .port off => .port (off + k)
  | .sync off => .sync (off + k)
  | .hole => .hole

/-- The 64 bytes of a block, none where it holds no register (04 R112). -/
def State.blockRead (s : State) (t : Nat) (x : Target) : Option (List Byte) :=
  let ws := (upFrom 0 16).map (fun k => s.wordOf t (x.plus (4 * k)))
  if ws.all Option.isNone then none else some (ws.flatMap (fun w => leBytes 4 (w.getD 0)))

/-! ## Writes -/

/-- MG_PWR_CH. -/
def State.pwrChWrite (s : State) (c : Chan) (v : W32) : State :=
  let s := (s.writeTarget (.channel c) (bits v.toNat 1 0)).opWrite c (bits v.toNat 5 4)
  if v.getLsbD 8 then s.pllReqWrite c else s

/-- MG_PWR_PD. -/
def State.pdWrite (s : State) (v : W32) : State :=
  (upFrom 0 4).foldl (fun s k => s.writeTarget (pdOf k) (bits v.toNat (2 * k + 1) (2 * k))) s

/-- MG_BOOT_CTRL. -/
def State.bootCtrl (s : State) (v : W32) : State :=
  let s := if v.getLsbD 0 then s.startLink else s
  let s := if v.getLsbD 1 then s.startVerify else s
  let s := if v.getLsbD 2 then s.recover (bits v.toNat 31 16) else s
  if v.getLsbD 3 then s.abandon else s

/-- HB_VIOL clear. -/
def State.violClear (s : State) (c : Nat) : State :=
  s.modPort (fun p => { p with violCount := tput p.violCount c 0, violCause := tput p.violCause c 0 })

def State.mgWrite (s : State) (off : Nat) (v : W32) : State :=
  if off = 0x04 then s.bootCtrl v
  else if off = 0x10 then s.shedWrite v
  else if off = 0x3000 then s.modMg (fun m => { m with alert := m.alert &&& ~~~(v.setWidth 13) })
  else if off = 0x3004 then s.modMg (fun m => { m with alertMask := v.setWidth 13 })
  else if off = 0x3008 then s.modMg (fun m => { m with corrThreshold := bits v.toNat 15 0 })
  else if off = 0x3014 then (if v.getLsbD 0 then s.errClear else s)
  else if 0x6000 ≤ off ∧ off < 0x6800 then s.pwrChWrite (chanOf ((off - 0x6000) / 4)) v
  else if 0x6800 ≤ off ∧ off < 0x7000 then (if v.getLsbD 31 then s.refusalClear (.channel (chanOf ((off - 0x6800) / 4))) else s)
  else if off = 0x7000 then s.pdWrite v
  else if 0x7010 ≤ off ∧ off < 0x7020 then (if v.getLsbD 31 then s.refusalClear (pdOf ((off - 0x7010) / 4)) else s)
  else if off = 0xB800 then s.modMg (fun m => { m with warnLogic := bits v.toNat 7 0, warnDram := bits v.toNat 15 8 })
  else if off = 0xB804 then (if v.getLsbD 31 then s.thermClear else s)
  else s

/-- Partners (03 R99). -/
def partner (g : Nat) : Nat := (g + 8) % 16

/-- Logical groups whose flits a physical group carries. -/
def State.carries (s : State) (p : Nat) : List Nat :=
  (if (s.group p).carried then [] else [p]) ++ (if (s.group p).shared then [partner p] else [])

/-- ts_type of the sets a training phase sends (03 Table 9). -/
def TPhase.tsType : TPhase → Nat
  | .detect => 1 | .eq => 1 | .config => 2 | .align => 3

/-- The training set that lane group `g` sends on lane `l`, with its request to the partner transmitter (03 Table 8). -/
def LaneGroup.tsBytes (x : LaneGroup) (g req l : Nat) : List Byte :=
  let b := [0x3C#8, 0xC3#8, 0x3C#8, 0xC3#8] ++ [x.tphase.tsType, l, g, req, b2n (tget x.lanes l .zero).eqSent,
    if x.tphase = .config then x.offer else 0, x.tsCount.toNat].map (BitVec.ofNat 8) ++ List.replicate 25 0x4A#8
  b ++ [b.foldl (· ^^^ ·) 0]

/-- Lane bytes to flit bytes (03 R81). -/
def flitOf (lanes : List (List Byte)) : List Byte := (upFrom 0 296).map (fun i => (lanes.getD (i % 8) []).getD (i / 8) 0)

/-- The group sends one training set per lane. Its requests to the partner transmitter in EQ are free: the adaptation is the receiver's own
(log 72). -/
def State.sendSets (s : State) (g : Nat) : State :=
  let send (s : State) (req : Nat → Nat) : State := s.modGroup g (fun x => { x with
    upFlit := flitOf ((upFrom 0 8).map (fun l => x.tsBytes g (req l) l)), tsCount := x.tsCount + 1 })
  if (s.group g).tphase = .eq then send (s.draw 8).2 (fun l => ((s.draw 8).1.getD l 0).toNat % 5) else send s (fun _ => 0)

/-- Training starts (03 R98). -/
def LaneGroup.startTrain (g : LaneGroup) : LaneGroup :=
  { g with
    state := .train, tphase := .detect, remap := false, offer := 0, lostRun := 0, tsCount := 0
    lanes := tmap g.lanes (fun _ l => { l with run := 0, eqDone := false, eqSent := false }) }

/-- Pending responses and echoes are dropped (03 R94, R98). -/
def LaneGroup.dropPending (g : LaneGroup) : LaneGroup := { g with echoes := [], out := [], placed := [] }

/-- The group retrains and begins to send TS1; an entry from ACTIVE or STANDBY is counted (03 Table 16). -/
def State.retrain (s : State) (g : Nat) : State :=
  let x := s.group g
  let live := decide (x.state = .active ∨ x.state = .standby)
  let n := x.retrains
  let s := (s.carries g).foldl (fun s l => s.modGroup l LaneGroup.dropPending) s
  ((s.modGroup g (fun x => { x.startTrain with retrains := if live then satInc n 0xFF else n })).sendSets g).stir .link

def State.linkClear' (s : State) (g : Nat) : State :=
  s.modGroup g (fun x => { x with
    corrected := 0, lost := 0, crcOnly := 0, malformed := 0, retrains := 0, lanes := tmap x.lanes (fun _ l => { l with corrBytes := 0 }) })

/-- LK_GRP_CTRL. -/
def State.grpCtrl (s : State) (g : Nat) (v : W32) : State :=
  let s := s.modGroup g (fun x => { x with remapEn := v.getLsbD 1, standbyEn := v.getLsbD 2 })
  let s := if v.getLsbD 3 then s.linkClear' g else s
  if v.getLsbD 0 then s.retrain g else s

def State.lkWrite (s : State) (off : Nat) (v : W32) : State :=
  if off < 0x400 then (if off % 0x40 = 4 then s.grpCtrl (off / 0x40) v else s)
  else if off = 0x800 then { s with link := { s.link with
    swellSeen := s.link.swellSeen && !v.getLsbD 0, activitySeen := s.link.activitySeen && !v.getLsbD 1 } }
  else s

def State.hbWrite (s : State) (off : Nat) (v : W32) : State :=
  if off = 0x10 then s.setStrict (v.getLsbD 0)
  else if off = 0x14 then s.epochWrite v
  else if 0x1000 ≤ off ∧ off < 0x2000 then s.modPort (fun p => { p with wins := tput p.wins ((off - 0x1000) / 4) (v &&& 3) })
  else if 0x2000 ≤ off ∧ off < 0x2800 then (if v.getLsbD 31 then s.violClear ((off - 0x2000) / 4) else s)
  else if off = 0x200000 then s.modPort (fun p => { p with swLength := bits v.toNat 6 0 })
  else if 0x201000 ≤ off ∧ off < 0x221000 then s.modPort (fun p => { p with swSlots := tput p.swSlots ((off - 0x201000) / 4) (v &&& 0x3FF) })
  else if 0x300000 ≤ off ∧ off < 0x300040 then s.modPort (fun p => { p with masks := tput p.masks ((off - 0x300000) / 4) (v &&& maskMask) })
  else if 0x600000 ≤ off ∧ off < 0x600040 then
    s.modLedger (fun l => { l with classMw := tput l.classMw ((off - 0x600000) / 4) (bits v.toNat 15 0) })
  else if 0x601000 ≤ off ∧ off < 0x601800 then s.allowWrite (chanOf ((off - 0x601000) / 4)) (bits v.toNat 15 0)
  else if off = 0x604000 then s.modLedger (fun l => { l with lendEn := v.getLsbD 0 })
  else if off = 0x700004 then (if v.getLsbD 0 then s.hbSyncClear else s)
  else s
where
  /-- Writable bits of an XOR mask register (02 Table 3). -/
  maskMask : W32 := 0x0000FFFF

/-- A word of the port die written; HB_PORT_MODE and HB_PORT_KEY are written where time is known. -/
def State.portWrite (s : State) (off : Nat) (v : W32) : State :=
  if off < 0x100000 then s.hbWrite off v
  else if off < 0x200000 then s.lkWrite (off - 0x100000) v
  else if off < 0x400000 then s.hbWrite off v
  else if off < 0x500000 then s.mgWrite (off - 0x400000) v
  else if off < 0x600000 then s.scWrite (off - 0x500000) v
  else s.hbWrite off v

/-- A doorbell block. -/
def State.dbWrite (s : State) (c r off : Nat) (v : W32) : State :=
  if off = 0x00 then s.doorbell c r v
  else if off = 0x04 then s.dbRing c r v
  else if off = 0x08 then s.dbCq c r v
  else if off = 0x0C then s.cqHead c r v
  else s

/-- Performance counters cleared. -/
def SliceSt.perfClear (x : SliceSt) : SliceSt := { x with perf := [], perfSat := 0 }

/-- A slice register (06 R171). -/
def State.slWrite (s : State) (sl : SliceId) (off : Nat) (v : W32) : State :=
  if off < 0x100 then s.modSlice sl (fun x => x.setSkein (off / 4) v)
  else if off = 0x1C0 then s.modSlice sl (fun x => { (if v.getLsbD 0 then x.perfClear else x) with perfEnable := v.getLsbD 1 })
  else s

def State.chRegWrite (s : State) (c off : Nat) (v : W32) : State :=
  if off = 0x10000 then s.memCfg c v
  else if off = 0x10100 then s.trainCtrl c v
  else if off = 0x10104 then s.trainLane c v
  else if 0x10200 ≤ off ∧ off < 0x10210 then s.modChan c (fun ch => { ch with policy := tput ch.policy ((off - 0x10200) / 4) v })
  else if off = 0x20000 then (if v.getLsbD 31 then s.codeBusyClear c else s)
  else if off = 0x30000 then s.modChan c (fun ch => { ch with fabLength := bits v.toNat 8 0 })
  else if 0x30400 ≤ off ∧ off < 0x30800 then s.modChan c (fun ch => { ch with fabSlots := tput ch.fabSlots ((off - 0x30400) / 4) (v &&& 0xFFFF) })
  else if 0x40000 ≤ off ∧ off < 0x48000 then s.objWrite (.chan (chanOf c) (Fin.ofNat 128 ((off - 0x40000) / 256))) (off % 256) v
  else if off = 0x48000 then s.syncCfg c v
  else if off = 0x50000 then s.strictClear c (v.setWidth 6)
  else if off = 0x60010 then s.chkCtrl c v
  else if off = 0x60020 then s.scrubCfg c v
  else if 0x70000 ≤ off ∧ off < 0x70200 then s.writeTarget (.bank (chanOf c) (Fin.ofNat 128 ((off - 0x70000) / 4))) (bits v.toNat 1 0)
  else if off = 0x70400 then (if v.getLsbD 0 then s.bankRefusalsClear c else s)
  else s

/-- A register of a channel window. -/
def State.chanWrite (s : State) (c off : Nat) (v : W32) : State :=
  if 0x10000 ≤ off ∧ off < 0x18000 then s.dbWrite c ((off - 0x10000) / 64) (off % 64) v
  else if 0x800000 ≤ off ∧ off < 0xC00000 then s.slWrite (BitVec.ofNat 20 (c * 2048 + (off - 0x800000) / 0x800)) (off % 0x800) v
  else if 0xE00000 ≤ off then s.chRegWrite c (off - 0xE00000) v
  else s

/-- A register written, by what its address names. -/
def State.regWrite (s : State) (x : Target) (v : W32) : State :=
  match x with
  | .port off => s.portWrite off v
  | .chan c off => s.chanWrite c off v
  | .sync off => if off < 0x200000 then s.objWrite (.module (Fin.ofNat 8192 (off / 256))) (off % 256) v else s
  | _ => s

/-- A register's own refusal of a write: MODE outside PLAIN, LEASED while work in progress holds it (04 Table 8). -/
def State.regStatus (s : State) : Target → Status
  | .port off =>
    if s.port.compute ∧ ((0x1000 ≤ off ∧ off < 0x2000) ∨ (0x300000 ≤ off ∧ off < 0x300040)) then .mode
    else if off = 0x10 then s.strictStatus
    else if s.anyStrictCtx ∧ (off = 0x200000 ∨ (0x201000 ≤ off ∧ off < 0x221000)) then .leased
    else .ok
  | .chan c off =>
    if 0x800000 ≤ off ∧ off < 0xC00000 ∧ off % 0x800 < 0x100 then
      (if (s.chan c).leased ((off - 0x800000) / 0x8000) then .leased else .ok)
    else if (s.chan c).strictCtx ∧ (off = 0xE30000 ∨ (0xE30400 ≤ off ∧ off < 0xE30800)) then .leased
    else .ok
  | _ => .ok

end Sys2Proof.Machine
end

