-- ==== Sys2Proof/Machine/Port.lean ====
section
/-! DEFINITION. Host requests at the port switch, port modes, responses and echoes' contents (04 R107 to R141, 03 R85 to R89). A group
operand is the logical lane group; `t` is the instant of the first unit interval of the request's flit, in units of 1/210 ns. -/

namespace Sys2Proof.Machine

/-! ## Port mode and key (R108, R109) -/

/-- 10 µs. -/
def keyTime : Nat := 2100000

/-- The channel is idle. -/
def State.chanQuiet (s : State) (c : Nat) : Bool :=
  let ch := s.chan c
  ch.allFree && ch.ctxs.all (fun e => decide (e.2.announced = 0) && e.2.fetched.isNone) && !ch.anyLease && s.hostIdle c

/-- COMPUTE is never entered in DECOMMISSIONED or in manufacture test (15 R379, 17 R431). -/
def State.mayCompute (s : State) : Bool := decide (s.mg.boot.phase ≠ .closed) && !s.mg.boot.straps.getLsbD 3

/-- The port die accepts a write of HB_PORT_MODE. -/
def State.modeOk (s : State) (t : Nat) (tgt : Bool) (confirm : Nat) : Bool :=
  (match s.port.armedAt with | some a => decide (t ≤ a + keyTime) | none => false) && decide (confirm = 0x82E1)
    && (upFrom 0 512).all s.chanQuiet && (!tgt || s.mayCompute)

/-- A write of HB_PORT_MODE; the key is disarmed either way. -/
def State.modeWrite (s : State) (t : Nat) (tgt : Bool) (confirm : Nat) : State :=
  if s.modeOk t tgt confirm then (s.keyOff.modPort (fun p => { p with compute := tgt, refused := false })).status .ok
  else (s.keyOff.modPort (fun p => { p with refused := true })).status .mode

/-- A write of HB_PORT_KEY. -/
def State.keyWrite (s : State) (t arm : Nat) : State := s.modPort (fun p => { p with armedAt := if arm = 0x7D1E then some t else none })

def execPortKeyArm (t : Nat) (arm : W16) (s : State) : Result := .next (s.hostReg .port .ok (fun s => s.keyWrite t arm.toNat))

def execPortKeyExpire (t : Nat) (s : State) : Result :=
  match s.port.armedAt with
  | some a => if a + keyTime < t then .next s.keyOff else .next s
  | none => .next s

def execPortModeSwitch (t : Nat) (tgt : Bool) (confirm : W16) (s : State) : Result :=
  if s.reached then .next (s.modeWrite t tgt confirm.toNat) else .next s

/-! ## Address hash masks (02 R48) -/

/-- Delay from the pins to the port switch (03 Table 7): 16.643 ns. -/
def pinToSwitch : Nat := 3495

/-- The lane group is one of a shared pair. -/
def State.inShare (s : State) (g : Nat) : Bool := (s.group g).shared || (s.group g).carried

/-- Flit periods from a downstream flit to its echo (03 R90, R99). -/
def State.echoFlits (s : State) (g : Nat) : Nat := if s.inShare g then 192 else 96

/-- The masks in force for a request whose flit begins at `t`. -/
def State.masksAt (s : State) (t : Nat) : State :=
  let due (e : Nat × Nat × W32) : Bool := decide (e.1 < t + pinToSwitch)
  s.modPort (fun p => { p with
    masks := (p.maskPend.filter due).foldl (fun m e => tput m e.2.1 e.2.2) p.masks, maskPend := p.maskPend.filter (fun e => !due e) })

/-- A write of a mask waits for its echo on the lane group that carries it. -/
def State.maskWrite (s : State) (g t k : Nat) (v : W32) : State :=
  s.modPort (fun p => { p with maskPend := p.maskPend ++ [(t + s.echoFlits g * flitT, k, v &&& 0x0000FFFF)] })

/-- A register written by the host at instant `t` on lane group `g`. -/
def State.regWriteAt (s : State) (g t : Nat) (x : Target) (v : W32) : State :=
  match x with
  | .port 0x04 => s.keyWrite t (bits v.toNat 15 0)
  | .port off => if 0x300000 ≤ off ∧ off < 0x300040 then s.maskWrite g t ((off - 0x300000) / 4) v else s.regWrite x v
  | _ => s.regWrite x v

def plainOnly (s : State) : Status := if s.port.compute then .mode else .ok

def execHbWinWrite (w : Fin 1024) (v : W32) (s : State) : Result :=
  .next (s.hostReg .port (plainOnly s) (fun s => s.regWrite (.port (0x1000 + 4 * w.val)) v))

def execXorMaskWrite (t : Nat) (k : Fin 16) (v : W32) (s : State) (g : Group := 0) : Result :=
  .next (s.hostReg .port (plainOnly s) (fun s => s.maskWrite g t k.val v))

def execViolClear (c : Chan) (s : State) : Result := .next (s.hostReg .port .ok (fun s => s.violClear c))

/-! ## Echo records (03 R89, R90) -/

/-- The unit at which the next descriptor of the flit at `t` stands. -/
def State.unitAt (s : State) (g t : Nat) : Nat :=
  match (s.group g).echoes.find? (fun e => e.t = t) with | some e => e.fields.length | none => 0

/-- Echo fields added to the record of the flit at `t`. A command that names no flit's number takes the one its instant gives. -/
def echoAdd (es : List EchoRec) (t : Nat) (fs : List (BitVec 4)) : List EchoRec :=
  if es.any (fun e => e.t = t) then es.map (fun e => if e.t = t then { e with fields := (e.fields ++ fs).take 16 } else e)
  else es ++ [⟨t, BitVec.ofNat 8 (t / flitT), fs.take 16, 0⟩]

def State.addEcho (s : State) (g t : Nat) (fs : List (BitVec 4)) : State := s.modGroup g (fun x => { x with echoes := echoAdd x.echoes t fs })

/-- A final status as an echo field. -/
def echoField (st : Status) : BitVec 4 := BitVec.ofNat 4 (8 + statusCode st)

/-- A malformed descriptor: counted, and it and the rest of the flit echo VIOLATION (03 R86, R89). -/
def State.malform (s : State) (g t : Nat) : State :=
  let p := s.phys g
  let n := (s.group p).malformed
  let s := s.modGroup p (fun x => { x with malformed := satInc n 0xFF })
  s.addEcho g t (List.replicate 16 (echoField .violation))

/-! ## Statuses (R115) -/

/-- The channel a request addresses. -/
def State.reqChan (s : State) : Target → Option Nat
  | .data off => some (offChan (s.placed off))
  | .chan c _ => some c
  | _ => none

/-- The bank a data request addresses. -/
def State.reqBank (s : State) : Target → Option Nat
  | .data off => some (offBank (s.placed off))
  | _ => none

/-- The descriptor is on the lane group of its channel (03 R76). -/
def State.rightGroup (s : State) (g : Nat) (x : Target) : Bool := match s.reqChan x with | some c => decide (groupOf c = g) | none => true

/-- The range is not served in this mode (Table 1). -/
def State.modeBars (s : State) : Target → Bool
  | .chan _ _ => !s.port.compute
  | .sync _ => !s.port.compute
  | _ => false

/-- The firmware load window. -/
def inLoad (off : Nat) : Bool := decide (0x440000 ≤ off ∧ off < 0x4B0000)

/-- Unmapped, for a READ. -/
def State.readHole (s : State) (t : Nat) (x : Target) : Bool :=
  match x with
  | .data off => (s.chan (offChan (s.placed off))).offline
  | x => (s.blockRead t x).isNone

/-- The load window takes writes. -/
def State.loads (s : State) : Bool := decide (s.mg.boot.phase = .loading ∧ s.mg.boot.source = .link)

/-- Unmapped, for a WRITE. -/
def State.writeHole (s : State) (t : Nat) (x : Target) : Bool :=
  match x with
  | .port off => if inLoad off then !s.loads else (s.blockRead t x).isNone
  | x => s.readHole t x

/-- Unmapped, for a PFENCE (R137). -/
def fenceHole : Target → Bool
  | .chan _ off => !chanRegion off
  | .port off => decide (0x800000 ≤ off)
  | _ => true

/-- Requests outstanding to a bank (R121). -/
def State.bankReqs (s : State) (c b : Nat) : Nat :=
  let k := (s.chan c).bank b
  ((s.group (groupOf c)).out.filter (fun o => decide (o.chan = some c ∧ o.bank = some b))).length
    + ((k.failing.toList ++ k.queue).filter (·.isWrite)).length

/-- The blackout of a bank at a phase (R123). -/
def blackout (phase b : Nat) : Bool := decide ((phase + (3840 + 48) * 210 - 30 * 210 * b % 806400) % 806400 < 110 * 210)

/-- Spacing of a channel's flits, in flit periods. -/
def State.spacing (s : State) (c : Nat) : Nat := if s.pairShared c then 4 else 2

/-- The lowest-numbered tide-table rule that a request breaks, 0 none (Table 12). -/
def State.tideCause (s : State) (g t : Nat) (isRead : Bool) (partWrite : Bool) (x : Target) : Nat :=
  let groupFull := isRead && decide (192 ≤ ((s.group g).out.filter (fun o => decide (o.status ≠ some .violation))).length)
  match s.reqChan x with
  | none => if groupFull then 3 else 0
  | some c =>
    if (match tfind s.port.lastReq c with | some u => decide (t ≠ u ∧ t < u + s.spacing c * flitT) | none => false) then 1
    else if isRead && decide (32 ≤ s.chanReads c) then 2
    else if groupFull then 3
    else if (match s.reqBank x with | some b => decide (3 ≤ s.bankReqs c b) | none => false) then 4
    else if s.port.strict && !s.pairShared c && (match s.reqBank x with | some b => blackout (s.phase t) b | none => false) then 5
    else if !s.hostAwake c then 6
    else if partWrite then 7
    else 0

/-- A violation is counted against the channel addressed, if any (R125). -/
def State.noteTide (s : State) (x : Target) (cause : Nat) : State := match s.reqChan x with | some c => s.violation c cause | none => s

/-- A request that is not discarded as a violation counts for spacing (R120, R125), and is work for its channel's owner (13 R345). -/
def State.noteReq (s : State) (t : Nat) (x : Target) : State :=
  match s.reqChan x with
  | some c => (s.modPort (fun p => { p with lastReq := tput p.lastReq c t })).stir (.channel (chanOf c))
  | none => s

/-- The bank of a READ had its lease under CLOSED end in this very cycle (R130). -/
def State.closedJust (s : State) (x : Target) : Bool :=
  match x with
  | .data off => decide (((s.chan (offChan (s.placed off))).bank (offBank (s.placed off))).closedEnd = some s.cycles)
  | _ => false

/-- The bank is leased under CLOSED (R133). -/
def State.closedLease (s : State) (x : Target) : Bool :=
  match x with
  | .data off => decide (((s.chan (offChan (s.placed off))).bank (offBank (s.placed off))).lease = some true)
  | _ => false

/-! ## READ and PFENCE -/

/-- The fixed latency of strict mode applies to the group; on a shared one to no read, of whatever range (R127, 03 R100, log 90). -/
def State.fixedLatency (s : State) (g : Nat) : Bool := s.port.strict && !s.inShare g

/-- The bank a request addresses is at its retries (12 R327). -/
def State.atRetries (s : State) (x : Target) : Bool :=
  match s.reqChan x, s.reqBank x with
  | some c, some b => ((s.chan c).bank b).failing.isSome
  | _, _ => false

/-- The block a READ addresses is host-owned. -/
def State.ownedBy (s : State) : Target → Bool
  | .data off => s.hostOwned (s.placed off / 64)
  | _ => false

/-- Enter a READ or PFENCE among the group's outstanding requests, with the latency that governs it from now on (11 R309). -/
def State.outReq (s : State) (g t : Nat) (tag : W16) (x : Target) (st : Option Status) (data : List Byte) (check : W32) (covers : List Nat) : State :=
  let rank := ((s.group g).out.filter (fun o => o.t = t)).length
  (s.modGroup g (fun y => { y with out := y.out ++ [⟨s.port.nextId, t, tag, rank, s.reqChan x, s.reqBank x, st, data, check, covers, s.fixedLatency g, s.atRetries x, s.ownedBy x⟩] })).modPort
    (fun p => { p with nextId := p.nextId + 1 })

/-- An answer without data. -/
def State.outBad (s : State) (g t : Nat) (tag : W16) (x : Target) (st : Status) : State := s.outReq g t tag x (some st) zeroBeat zeroCheck []

/-- READs and PFENCEs already parsed in the flit at `t`. -/
def State.ranks (s : State) (g t : Nat) : Nat := ((s.group g).out.filter (fun o => o.t = t)).length

/-- A READ accepted: data waits at its bank, other ranges answer at once. -/
def State.readOk (s : State) (g t : Nat) (tag : W16) (x : Target) (parity : Bool) : State :=
  match x with
  | .data off =>
    let a := s.placed off
    let q : BankReq := ⟨s.port.nextId, t, a / 64, false, [], 0, 0, false, s.hostOwned (a / 64), s.port.strict⟩
    (s.outReq g t tag x none [] 0 []).modBank (offChan a) (offBank a) (fun k => { k with queue := k.queue ++ [q] })
  | .chan c off =>
    if parity && (decide (off < 0x10000) || (decide (0x100000 ≤ off) && decide (off < 0x140000))) then (s.parityErr c 0 2).outBad g t tag x .checkFail
    else
      let d := (s.blockRead t x).getD zeroBeat
      s.outReq g t tag x (some .ok) d (crc32c d) []
  | x =>
    let d := (s.blockRead t x).getD zeroBeat
    s.outReq g t tag x (some .ok) d (crc32c d) []

/-- The status of a READ, none OK. -/
def State.readStatus (s : State) (t : Nat) (x : Target) : Option Status :=
  if s.modeBars x then some .mode else if s.readHole t x then some .hole else none

/-- A READ descriptor at the port switch. -/
def State.hostRead (s : State) (g t : Nat) (tag : W16) (a : Nat) (parity : Bool) : State :=
  let s := s.masksAt t
  let x := target a
  if 16 ≤ s.unitAt g t then s
  else if 3 ≤ s.ranks g t ∨ s.rightGroup g x = false then s.malform g t
  else
    let s := s.addEcho g t [0]
    match s.readStatus t x with
    | some st => (s.outBad g t tag x st).noteReq t x
    | none =>
      let v := s.tideCause g t true false x
      if v ≠ 0 then (s.noteTide x v).outReq g t tag .hole (some .violation) zeroBeat zeroCheck []
      else if s.closedLease x || s.closedJust x then (s.outBad g t tag x .leased).noteReq t x
      else (s.readOk g t tag x parity).noteReq t x

def execRead (g : Group) (t : Nat) (tag : W16) (addr : BitVec 42) (parity : Bool) (s : State) : Result :=
  if s.linkUp g then .next (s.hostRead g t tag (addr.toNat * 64) parity) else .next s

/-- Writes a PFENCE covers. -/
def State.fenceCovers (s : State) (g : Nat) : Target → List Nat
  | .chan c _ => (s.chan c).pendingWrites
  | _ => s.chans.flatMap (fun e => if groupOf e.1 = g then e.2.pendingWrites else [])

/-- A PFENCE descriptor at the port switch (R137). -/
def State.hostFence (s : State) (g t : Nat) (tag : W16) (a : Nat) : State :=
  let s := s.masksAt t
  let x := target a
  if 16 ≤ s.unitAt g t then s
  else if 3 ≤ s.ranks g t ∨ s.rightGroup g x = false then s.malform g t
  else
    let s := s.addEcho g t [0]
    if s.modeBars x then (s.outBad g t tag x .mode).noteReq t x
    else if fenceHole x then (s.outBad g t tag x .hole).noteReq t x
    else
      let v := s.tideCause g t true false x
      if v ≠ 0 then (s.noteTide x v).outReq g t tag .hole (some .violation) zeroBeat zeroCheck []
      else
        let cs := s.fenceCovers g x
        (s.outReq g t tag x (if cs = [] then some .ok else none) zeroBeat zeroCheck cs).noteReq t x

def execPfence (g : Group) (t : Nat) (tag : W16) (addr : BitVec 42) (s : State) : Result :=
  if s.linkUp g then .next (s.hostFence g t tag (addr.toNat * 64)) else .next s

/-! ## WRITE -/

/-- All four byte enables of word `k`. -/
def wordOn (en : W64) (k : Nat) : Bool := (upFrom (4 * k) 4).all (fun i => en.getLsbD i)

/-- The words of the block written whole, with their targets and values. -/
def wordsOf (x : Target) (en : W64) (data : List Byte) : List (Target × W32) :=
  ((upFrom 0 16).filter (wordOn en)).map (fun k => (x.plus (4 * k), BitVec.ofNat 32 (leAt data (4 * k) 4)))

/-- Status of the registers written: MODE before LEASED. -/
def State.wordsStatus (s : State) (ws : List (Target × W32)) : Status :=
  if ws.any (fun w => s.regStatus w.1 = .mode) then .mode else if ws.any (fun w => s.regStatus w.1 = .leased) then .leased else .ok

/-- The code page a write into the load window of the code store names, while mapped (05 R163). -/
def State.mappedPage (s : State) (x : Target) : Option (Nat × Nat) :=
  match x with
  | .chan c off =>
    if 0x100000 ≤ off ∧ off < 0x140000 ∧ (s.chan c).mapped ((off - 0x100000) / 4096) = true then some (c, (off - 0x100000) / 4096) else none
  | _ => none

/-- Bytes enabled, written into a byte memory. -/
def mergeMem (m : Memory) (a : Nat) (en : W64) (data : List Byte) : Memory :=
  (upFrom 0 64).foldl (fun m i => if en.getLsbD i then wr m (a + i) (data.getD i 0) else m) m

/-- The word is a sync object's _STATE, whose error bit is W1C. -/
def isObjState : Target → Bool
  | .sync off => decide (off % 256 = 0x0C)
  | .chan _ off => decide (0xE40000 ≤ off ∧ off < 0xE48000 ∧ off % 256 = 0x0C)
  | _ => false

/-- The words of one WRITE act in one cycle: an event that another of them causes sets the bit that a W1C word clears (00 R11). -/
def w1cFirst (ws : List (Target × W32)) : List (Target × W32) := ws.filter (fun w => isObjState w.1) ++ ws.filter (fun w => !isObjState w.1)

/-- Registers of the module-scope window wait for earlier writes of the lane group (R141). -/
def State.syncWrites (s : State) (g : Nat) (ws : List (Target × W32)) : State :=
  let cs := s.groupPending g
  if cs = [] then (w1cFirst ws).foldl (fun s w => s.regWrite w.1 w.2) s
  else s.modPort (fun p => { p with deferred := p.deferred ++ (w1cFirst ws).map (fun w =>
    ⟨cs, (match w.1 with | .sync off => BitVec.ofNat 48 (0x021000000000 + off) | _ => 0), w.2⟩) })

/-- A WRITE accepted. -/
def State.writeOk (s : State) (g t : Nat) (x : Target) (en : W64) (data : List Byte) (check : W32) : State :=
  match x with
  | .data off =>
    let a := s.placed off
    let q : BankReq := ⟨s.port.nextId, t, a / 64, true, data, en, check, false, s.hostOwned (a / 64), s.port.strict⟩
    (s.modPort (fun p => { p with nextId := p.nextId + 1 })).modBank (offChan a) (offBank a) (fun k => { k with queue := k.queue ++ [q] })
  | .chan c off =>
    if off < 0x10000 then s.modChan c (fun ch => { ch with cmdBuf := mergeMem ch.cmdBuf off en data })
    else if 0x100000 ≤ off ∧ off < 0x140000 then s.modChan c (fun ch => { ch with code := mergeMem ch.code (off - 0x100000) en data })
    else (w1cFirst (wordsOf x en data)).foldl (fun s w => s.regWriteAt g t w.1 w.2) s
  | .port off =>
    if inLoad off then s.modBoot (fun b => { b with slot := mergeMem b.slot (off - 0x440000) en data, loadStart := s.refCount })
    else (wordsOf x en data).foldl (fun s w => s.regWriteAt g t w.1 w.2) s
  | .sync _ => s.syncWrites g (wordsOf x en data)
  | .hole => s

/-- A write to the block that holds HB_PORT_MODE, with that register written whole. -/
def modeTry (x : Target) (en : W64) (data : List Byte) : Option Nat := if x = .port 0 ∧ wordOn en 0 = true then some (leAt data 0 4) else none

/-- HB_PORT_MODE first, then the other registers of its block unless it is refused. -/
def State.modeBlock (s : State) (g t v : Nat) (en : W64) (data : List Byte) : State :=
  let s := s.modeWrite t (bitAt v 1) (bits v 31 16)
  if s.port.lastStatus = .ok then ((wordsOf (.port 0) en data).drop 1).foldl (fun s w => s.regWriteAt g t w.1 w.2) s else s

/-- The target block is data whose check bits the host owns, and the write leaves bytes out (R118). -/
def State.partOwned (s : State) (x : Target) (en : W64) : Bool :=
  match x with | .data off => s.hostOwned (s.placed off / 64) && decide (en ≠ BitVec.allOnes 64) | _ => false

/-- A WRITE's status and effect. -/
def State.hostWriteReq (s : State) (g t : Nat) (x : Target) (en : W64) (data : List Byte) (check : W32) : State :=
  let ws := wordsOf x en data
  match modeTry x en data with
  | some v => if s.wordsStatus ws = .ok then s.modeBlock g t v en data else s.keyOff.status (s.wordsStatus ws)
  | none =>
    let s := s.keyOff
    if s.modeBars x || decide (s.wordsStatus ws = .mode) then (s.status .mode).noteReq t x
    else if s.writeHole t x then (s.status .hole).noteReq t x
    else
      let v := s.tideCause g t false (s.partOwned x en) x
      if v ≠ 0 then (s.noteTide x v).status .violation
      else
        let s := s.noteReq t x
        match s.mappedPage x with
        | some (c, p) =>
          let n := (s.chan c).codeBusy
          (((s.modChan c (fun ch => { ch with codeBusy := satInc n 0xFFFF, codeLast := p })).noteSat n 0xFFFF c)).status .leased
        | none =>
          if s.closedLease x || decide (s.wordsStatus ws = .leased) then s.status .leased
          else (s.writeOk g t x en data check).status .ok

/-- A WRITE descriptor at the port switch, with its four data units. A malformed one disarms the port key too (R114).
DEDUCED, log 82. -/
def State.hostWriteDesc (s : State) (g t a : Nat) (en : W64) (data : List Byte) (check : W32) : State :=
  let s := s.masksAt t
  let x := target a
  if 16 ≤ s.unitAt g t then s
  else if 12 ≤ s.unitAt g t ∨ s.rightGroup g x = false then s.keyOff.malform g t
  else
    let s := s.hostWriteReq g t x en data check
    s.addEcho g t [echoField s.port.lastStatus, 0, 0, 0, 0]

def execWrite (g : Group) (t : Nat) (addr : BitVec 42) (byteEn : W64) (data : List Byte) (check : W32) (s : State) : Result :=
  if s.linkUp g then .next (s.hostWriteDesc g t (addr.toNat * 64) byteEn data check) else .next s

/-- An IDLE descriptor. -/
def execIdle (g : Group) (t : Nat) (s : State) : Result := if s.linkUp g then .next (s.addEcho g t [0]) else .next s

/-- A host WRITE of one register, by address, on lane group `g`; one of a channel window on the channel's own. -/
def execRegisterWrite (t : Nat) (addr : HostAddr) (v : W32) (s : State) (g : Group := 0) : Result :=
  let x := target (addr.toNat / 64 * 64)
  let g := match s.reqChan x with
    | some c => groupOf c
    | none => g.val
  if !s.linkUp g then .next s
  else
    let k := addr.toNat % 64 / 4
    let en : W64 := BitVec.ofNat 64 (fld 0xF (4 * k))
    let data := List.replicate (4 * k) 0 ++ leBytes 4 v.toNat ++ List.replicate (60 - 4 * k) 0
    match x with
    | .data _ => .next s
    | x => .next (s.hostWriteReq g t x en data 0)

/-! ## Responses (R126, R127) -/

/-- Flit periods within which a response begins. -/
def State.respWindow (s : State) (g : Nat) : Nat × Nat := if s.inShare g then (182, 514) else (91, 257)

/-- A response may take this position of the upstream flit at `t`, under the latency that governed its request. A READ that retries delay, its
own or those of requests ahead of it, is answered at its last moment. -/
def State.mayRespond (s : State) (g t pos : Nat) (o : OutReq) : Bool :=
  if o.strict then decide (t = o.t + 272 * flitT ∧ o.rank = pos) && (o.status.isSome || o.delayed)
  else
    let w := s.respWindow g
    decide (o.t + w.1 * flitT ≤ t ∧ t ≤ o.t + w.2 * flitT) && (o.status.isSome || (decide (o.t + w.2 * flitT < t + flitT) && o.delayed))

/-- What is placed for a request: its answer, or CHECK_FAIL when retries would be too late (12 R327). -/
def OutReq.place (o : OutReq) (t : Nat) (pos : Fin 3) : Placed :=
  match o.status with
  | some st => ⟨pos, o.tag, st, o.data, o.check, t, o.chan⟩
  | none => ⟨pos, o.tag, .checkFail, zeroBeat, zeroCheck, t, o.chan⟩

def execReadResponse (g : Group) (t : Nat) (pos : Fin 3) (s : State) : Result :=
  let x := s.group g
  if !s.linkUp g || x.placed.any (fun p => decide (p.t = t ∧ p.pos = pos)) then .next s
  else match x.out.find? (s.mayRespond g t pos.val) with
    | none => .next s
    | some o => .next (s.modGroup g (fun x => { x with out := x.out.filter (fun q => decide (q.id ≠ o.id)), placed := x.placed ++ [o.place t pos] }))

end Sys2Proof.Machine
end

