-- ==== Sys2Proof/Machine/Link.lean ====
section
/-! DEFINITION. The Preolmond link: flits in both directions, training, remap, standby and wake (03 R75 to R106). A group operand of
DOWNSTREAM_FLIT and of the training rows is a physical group, of ECHO and STANDBY_REQ a logical one. -/

namespace Sys2Proof.Machine

/-! ## Downstream flits -/

/-- Bytes of a logical lane as the group's fixed order and polarity give them (R78). -/
def LaneGroup.laneIn (x : LaneGroup) (lanes : List (List Byte)) (l : Nat) : List Byte :=
  let k := tget x.lanes l .zero
  (lanes.getD k.physLane []).map (fun b => if k.inverted then b ^^^ 0xAA#8 else b)

/-- The eight lanes through their generators (R84). -/
def scrambleAll (lanes : List (List Byte)) (gs : List (BitVec 31)) : List (List Byte × BitVec 31) :=
  (upFrom 0 8).map (fun l => scramble (lanes.getD l []) (gs.getD l 0))

/-- Flit bytes to lane bytes (R81). -/
def lanesOf (flit : List Byte) : List (List Byte) := (upFrom 0 8).map (fun l => (upFrom 0 37).map (fun k => flit.getD (8 * k + l) 0))

/-- Codeword 0 or 1 of a flit. -/
def codeword (flit : List Byte) (c : Nat) : List Byte := (upFrom 0 148).map (fun k => flit.getD (2 * k + c) 0)

/-- A received flit: its corrected bytes and the flit positions corrected, or lost, with both codewords decoded or not, and the positions
corrected in a codeword that decoded (R83). -/
inductive Received where
  | good (bytes : List Byte) (fixed : List Nat)
  | lost (crcOnly : Bool) (fixed : List Nat)
deriving DecidableEq, Repr

def receive (flit : List Byte) : Received :=
  let d0 := rsDecode (codeword flit 0)
  let d1 := rsDecode (codeword flit 1)
  let at0 (d : Option (List Byte × List Nat)) : List Nat := (d.map (·.2)).getD []
  let fixed := (at0 d0).map (2 * ·) ++ (at0 d1).map (fun k => 2 * k + 1)
  match d0, d1 with
  | some (w0, _), some (w1, _) =>
    let bytes := (upFrom 0 296).map (fun i => (if i % 2 = 0 then w0 else w1).getD (i / 2) 0)
    let kind := bits (leAt bytes 0 4) 13 12
    if (crc32 (bytes.take 276)).toNat ≠ leAt bytes 276 4 then .lost true fixed
    else if 2 ≤ kind then .lost false fixed
    else .good bytes fixed
  | _, _ => .lost false fixed

/-- The receiver's counters for corrected bytes (Tables 16 and 17, 12 Table 6). -/
def State.noteFixed (s : State) (p : Nat) (fixed : List Nat) : State :=
  if fixed = [] then s
  else
    let s := fixed.foldl (fun s i =>
      let n := (tget (s.group p).lanes (i % 8) .zero).corrBytes
      (s.modGroup p (fun x => { x with lanes := tmod x.lanes (i % 8) .zero (fun l => { l with corrBytes := satInc n 0xFFFF }) })).noteSat n 0xFFFF 0) s
    let n := (s.group p).corrected
    let s := (s.modGroup p (fun x => { x with corrected := satInc n 0xFFFF })).noteSat n 0xFFFF 0
    if n < 0xFFFF ∧ n + 1 = s.mg.corrThreshold then s.alert 5 (plainRec 5 0 p) else s

/-- The logical group of the next flit of a physical group: in shared mode they alternate, the carrying group first (R99). -/
def State.flitTurn (s : State) (p : Nat) : Nat := if (s.group p).shared && (s.group p).turn then partner p else p

/-- A flit of the physical group has come: the next is the other logical group's. -/
def State.flitPassed (s : State) (p : Nat) : State := s.modGroup p (fun x => { x with turn := !x.turn })

/-- An echo record for a whole flit, whose number the next one follows. -/
def State.putEcho (s : State) (g : Nat) (e : EchoRec) : State :=
  s.modGroup g (fun x => { x with echoes := x.echoes.filter (fun q => decide (q.t ≠ e.t)) ++ [e], seqDown := e.seq + 1 })

/-- A lost flit: counted, echoed CHECK_FAIL in all fields (R92) under the number it should have carried. Consecutive losses are those of the
physical group, a shared pair's taken together (R94, log 90). -/
def State.flitLost (s : State) (p t : Nat) (crcOnly : Bool) : State :=
  let n := (s.group p).lost
  let k := (s.group p).crcOnly
  let s := (s.modGroup p (fun x => { x with lost := satInc n 0xFFFF, lostRun := x.lostRun + 1 })).noteSat n 0xFFFF 0
  let s := if n < 0xFFFF then s.alert 4 (plainRec 4 0 p) else s
  let s := if crcOnly then (s.modGroup p (fun x => { x with crcOnly := satInc k 0xFFFF })).noteSat k 0xFFFF 0 else s
  let g := s.flitTurn p
  (s.putEcho g ⟨t, (s.group g).seqDown, List.replicate 16 (echoField .checkFail), 0⟩).flitPassed p

/-- Unit `u` of a flit. -/
def unitBytes (flit : List Byte) (u : Nat) : List Byte := bytesAt flit (4 + 17 * u) 17

/-- The descriptor at the parser's unit (Table 2, R86). -/
def State.parseUnit (s : State) (g t : Nat) (flit : List Byte) : State :=
  let u := s.unitAt g t
  if 16 ≤ u then s
  else
    let d := leNat (unitBytes flit u)
    let tag : W16 := BitVec.ofNat 16 (bits d 23 8)
    let a := bits d 65 24 * 64
    match bits d 3 0 with
    | 0 => s.addEcho g t [0]
    | 1 => s.hostRead g t tag a false
    | 2 =>
      let us := (upFrom (u + 1) 4).map (unitBytes flit)
      s.hostWriteDesc g t a (BitVec.ofNat 64 (bits d 129 66)) (us.flatMap (·.take 16)) (BitVec.ofNat 32 (leNat (us.map (fun b => b.getD 16 0))))
    | 3 => s.hostFence g t tag a
    | _ => s.malform g t

/-- Parse from unit 0: at most 16 descriptors. -/
def State.parseFlit (s : State) (g t : Nat) (flit : List Byte) : State := forN 16 (fun _ s => s.parseUnit g t flit) s

/-- A flit received whole (R83, R87). It belongs to the logical group whose turn it is (R99); its header's group field, and reserved header bits,
change nothing (log 90). -/
def State.flitIn (s : State) (p t : Nat) (flit : List Byte) : State :=
  match receive flit with
  | .lost crcOnly fixed => (s.noteFixed p fixed).flitLost p t crcOnly
  | .good bytes fixed =>
    let s := (s.noteFixed p fixed).modGroup p (fun x => { x with lostRun := 0 })
    let h := leAt bytes 0 4
    let g := s.flitTurn p
    let s := (s.putEcho g ⟨t, BitVec.ofNat 8 (bits h 7 0), [], bits h 13 12⟩).flitPassed p
    if bits h 13 12 = 1 then s else s.parseFlit g t bytes

/-- A physical group that receives flits. -/
def State.physUp (s : State) (p : Nat) : Bool := s.powered && decide (s.mg.switchDom.state = .on ∧ (s.group p).state = .active)

def execDownstreamFlit (g : Group) (t : Nat) (lanes : List (List Byte)) (s : State) : Result :=
  if s.physUp g then
    let x := s.group g
    let out := scrambleAll ((upFrom 0 8).map (x.laneIn lanes)) x.scrDown
    .next ((s.modGroup g (fun x => { x with scrDown := out.map (·.2) })).flitIn g t (flitOf (out.map (·.1))))
  else .next s

/-- The request alone, as its flit brings it (R87, R103). -/
def execStandbyReq (g : Group) (t : Nat) (s : State) : Result :=
  if s.linkUp g then .next (s.putEcho g ⟨t, BitVec.ofNat 8 (t / flitT), [], 1⟩) else .next s

/-! ## Upstream flits (R88, R90, R103) -/

/-- STANDBY is granted in the flit at `t`: permitted, and no read of the group's channels has its response still to come. -/
def State.mayStandby (s : State) (p t : Nat) : Bool :=
  (s.group p).standbyEn && (s.carries p).all (fun g =>
    (s.group g).out.all (fun o => o.chan.isNone) && (s.group g).placed.all (fun q => q.chan.isNone || decide (q.t ≤ t)))

/-- The group goes to electrical idle in STANDBY: no echo still due will be sent. -/
def State.enterStandby (s : State) (p : Nat) : State :=
  (s.carries p).foldl (fun s g => s.modGroup g (fun x => { x with echoes := [] })) (s.modGroup p (fun x => { x with state := .standby, upFlit := [] }))

/-- The echo unit (Table 5). -/
def echoUnit (fields : List (BitVec 4)) : List Byte := leBytes 17 ((upFrom 0 16).foldl (fun n u => n + fld (fields.getD u 0).toNat (4 * u)) 0)

/-- The response-header unit (Table 6). -/
def respUnit (ps : List Placed) : List Byte :=
  leBytes 17 (ps.foldl (fun n p => n + fld (p.tag.toNat + fld (statusCode p.status) 16 + fld 1 19) (40 * p.pos.val)) 0)

/-- The four data units of a position (R85). -/
def dataUnits (ps : List Placed) (k : Nat) : List Byte :=
  match ps.find? (fun p => p.pos.val = k) with
  | some p => (upFrom 0 4).flatMap (fun j => bytesAt p.data (16 * j) 16 ++ [BitVec.ofNat 8 (p.check.toNat / 2 ^ (8 * j))])
  | none => List.replicate 68 0

/-- A flit's bytes before scrambling: header, units, CRC, parity (Table 1). -/
def flitBytes (header : Nat) (units : List Byte) : List Byte :=
  let body := leBytes 4 header ++ units
  let body := body ++ leBytes 4 (crc32 body).toNat
  let par (c : Nat) : List Byte := rsParity ((upFrom 0 140).map (fun k => body.getD (2 * k + c) 0))
  let p0 := par 0
  let p1 := par 1
  body ++ (upFrom 0 8).flatMap (fun k => [p0.getD k 0, p1.getD k 0])

/-- The units of an upstream flit. -/
def upUnits (fields : List (BitVec 4)) (ps : List Placed) : List Byte :=
  echoUnit fields ++ respUnit ps ++ dataUnits ps 0 ++ dataUnits ps 1 ++ dataUnits ps 2 ++ List.replicate 34 0

/-- Header of an upstream flit (Table 4). -/
def upHeader (seq g kind echoSeq : Nat) (shared : Bool) : Nat := seq + fld g 8 + fld kind 12 + fld echoSeq 16 + fld (b2n shared) 24

/-- The flit leaves: scrambled, its number and its contents used up. -/
def State.sendUp (s : State) (g t : Nat) (flit : List Byte) : State :=
  let p := s.phys g
  let out := scrambleAll (lanesOf flit) (s.group p).scrUp
  let s := s.modGroup p (fun x => { x with scrUp := out.map (·.2), upFlit := flitOf (out.map (·.1)) })
  s.modGroup g (fun x => { x with seqUp := x.seqUp + 1, placed := x.placed.filter (fun q => decide (q.t ≠ t)) })

/-- The upstream flit at `t`. When no downstream flit is due its echo, echo_seq is free. -/
def State.echo (s : State) (g t : Nat) : State :=
  let p := s.phys g
  let x := s.group g
  let ps := x.placed.filter (fun q => decide (q.t = t))
  let sh := (s.group p).shared
  match x.echoes.find? (fun e => decide (e.t + s.echoFlits g * flitT = t)) with
  | none =>
    let d := s.draw 1
    d.2.sendUp g t (flitBytes (upHeader x.seqUp.toNat g 0 (d.1.headD 0).toNat sh) (upUnits [] ps))
  | some e =>
    let ack := s.mayStandby p t
    let kind := if e.kind = 1 then (if ack then 1 else 2) else 0
    let s := s.sendUp g t (flitBytes (upHeader x.seqUp.toNat g kind e.seq.toNat sh) (upUnits e.fields ps))
    let s := s.modGroup g (fun x => { x with echoes := x.echoes.filter (fun q => decide (q.t ≠ e.t)) })
    if kind = 1 then s.enterStandby p else s

def execEcho (g : Group) (t : Nat) (s : State) : Result := if s.linkUp g then .next (s.echo g t) else .next s

/-! ## Unaligned groups (R94) -/

def execGroupUnaligned (g : Group) (s : State) : Result :=
  let x := s.group g
  if decide (x.state = .active ∧ 16 ≤ x.lostRun) then .next ((s.retrain g).alert 6 (plainRec 6 0 g)) else .next s

/-! ## Training (R95 to R100) -/

/-- A training set with its marker and checksum. -/
def tsOk (b : List Byte) : Bool :=
  decide (b.length = 37 ∧ b.take 4 = [0x3C#8, 0xC3#8, 0x3C#8, 0xC3#8] ∧ (b.take 36).foldl (· ^^^ ·) 0 = b.getD 36 0)

def invert (b : List Byte) : List Byte := b.map (· ^^^ 0xAA#8)

/-- A valid training set as received, with its polarity. -/
def tsView (b : List Byte) : Option (Bool × List Byte) :=
  if tsOk b then some (false, b) else if tsOk (invert b) then some (true, invert b) else none

def tsByte (b : List Byte) (k : Nat) : Nat := (b.getD k 0).toNat

/-- A set on a physical lane during DETECT: valid TS1 of this lane or its reverse continue the run. -/
def Lane.detect (l : Lane) (p : Nat) (b : List Byte) : Lane :=
  match tsView b with
  | some (inv, b) =>
    let n := tsByte b 5
    if tsByte b 4 = 1 ∧ (n = p ∨ n + p = 7) then
      { l with physLane := n, inverted := inv, run := if l.run ≠ 0 ∧ l.physLane = n ∧ l.inverted = inv then l.run + 1 else 1 }
    else { l with run := 0 }
  | none => { l with run := 0 }

/-- Lane order found so far: reversed or not, by the first lane whose run is complete. -/
def LaneGroup.reversed (x : LaneGroup) : Bool :=
  match (upFrom 0 8).find? (fun p => decide (8 ≤ (tget x.lanes p .zero).run)) with
  | some p => decide ((tget x.lanes p .zero).physLane ≠ p)
  | none => false

/-- A lane of the condition of the present phase; in DETECT lanes stand by their physical number. -/
def LaneGroup.met (x : LaneGroup) (k : Nat) : Bool :=
  let l := tget x.lanes k .zero
  match x.tphase with
  | .detect => decide (8 ≤ l.run ∧ l.physLane = if x.reversed then 7 - k else k)
  | .eq => l.eqDone && l.eqSent
  | .config => decide (8 ≤ l.run ∧ l.skew ≤ 125)
  | .align => decide (16 ≤ l.run)

def LaneGroup.allMet (x : LaneGroup) : Bool := (upFrom 0 8).all x.met

/-- Change each of the eight lanes. -/
def LaneGroup.eachLane (x : LaneGroup) (f : Nat → Lane → Lane) : LaneGroup :=
  { x with lanes := (upFrom 0 8).foldl (fun m k => tput m k (f k (tget x.lanes k .zero))) x.lanes }

/-- Order and polarity are fixed by logical lane. -/
def LaneGroup.fixOrder (x : LaneGroup) : LaneGroup :=
  let rev := x.reversed
  x.eachLane (fun l k =>
    let p := if rev then 7 - l else l
    { k with physLane := p, inverted := (tget x.lanes p .zero).inverted, run := 0 })

/-- The valid set a logical lane receives, in its fixed order and polarity. -/
def LaneGroup.setOn (x : LaneGroup) (lanes : List (List Byte)) (l : Nat) : Option (List Byte) :=
  let b := x.laneIn lanes l
  if tsOk b then some b else none

/-- Remap may be agreed (R99). -/
def State.remapOk (s : State) (g : Nat) : Bool :=
  (s.group g).remapEn && (s.group (partner g)).remapEn && decide ((s.group (partner g)).state = .down)

/-- The host's remap value, of lane 0. -/
def LaneGroup.asks (x : LaneGroup) (lanes : List (List Byte)) : Option Nat := (x.setOn lanes 0).map (fun b => tsByte b 9)

/-- The module's remap value from now on: it accepts the host's offer, keeps its own while the host accepts it, and withdraws it from a host
that sends none (R99, log 91). -/
def LaneGroup.answer (x : LaneGroup) (ok : Bool) (host : Option Nat) : Nat :=
  match host with
  | none => x.offer
  | some 1 => if ok then 2 else 0
  | some 2 => if ok && decide (x.offer = 1) then 1 else 0
  | some _ => 0

/-- A set counts in CONFIG: TS2 of the group, with a remap value that matches the module's. -/
def configSet (g ours : Nat) (b : List Byte) : Bool :=
  decide (tsByte b 4 = 2 ∧ tsByte b 6 = g ∧ tsByte b 9 = (if ours = 0 then 0 else 3 - ours))

/-- One training set per lane, in the group's phase. -/
def LaneGroup.trainSet (x : LaneGroup) (g : Nat) (ok : Bool) (lanes : List (List Byte)) (skews : List Byte) : LaneGroup :=
  match x.tphase with
  | .detect => x.eachLane (fun p l => l.detect p (lanes.getD p []))
  | .eq => x.eachLane (fun k l =>
    { l with eqDone := l.eqDone || (match x.setOn lanes k with | some b => decide (tsByte b 4 = 1 ∧ tsByte b 8 = 1) | none => false) })
  | .config =>
    let ours := x.answer ok (x.asks lanes)
    let x' := x.eachLane (fun k l =>
      let hit := match x.setOn lanes k with | some b => configSet g ours b | none => false
      { l with run := if hit then (if decide (ours ≠ 0) = x.remap then l.run + 1 else 1) else 0, skew := (skews.getD l.physLane 0).toNat })
    { x' with remap := decide (ours ≠ 0), offer := ours }
  | .align => x.eachLane (fun k l =>
    { l with run := l.run + (match x.setOn lanes k with | some b => b2n (decide (tsByte b 4 = 3)) | none => 0) })

/-- The phase that follows; `ok` tells that remap may be offered. -/
def LaneGroup.nextPhase (x : LaneGroup) (ok : Bool) : LaneGroup :=
  match x.tphase with
  | .detect => { x.fixOrder with tphase := .eq }
  | .eq => { x.eachLane (fun _ l => { l with run := 0 }) with tphase := .config, offer := b2n ok }
  | .config => { x.eachLane (fun _ l => { l with run := 0 }) with tphase := .align }
  | .align => { x with state := .active }

/-- Generators and numbers at the first flit (R84, R97). -/
def LaneGroup.seed (x : LaneGroup) (g : Nat) : LaneGroup :=
  { x with state := .active, scrDown := (upFrom 0 8).map (scrSeed g), scrUp := (upFrom 0 8).map (scrSeed g), seqUp := 0, lostRun := 0, turn := false, seqDown := 0 }

/-- Sharing starts or ends with a training (R99 to R101). -/
def State.setShare (s : State) (g : Nat) (on : Bool) : State :=
  let was := (s.group g).shared
  let s := s.modGroup g (fun x => { x with shared := on })
  let s := if was || on then s.modGroup (partner g) (fun x => { x with carried := on, seqUp := 0, seqDown := 0 }) else s
  if on && !was then
    ((upFrom 0 512).filter (fun c => decide (groupOf c = g ∨ groupOf c = partner g))).foldl (fun s c => s.timing c 1) s
  else s

/-- The group enters ACTIVE. -/
def State.trainDone (s : State) (g : Nat) : State :=
  (s.modGroup g (fun x => { x.seed g with laneFailed := 0, lanes := tmap x.lanes (fun _ l => { l with failed := false }) })).setShare g (s.group g).remap

/-- Lanes whose receiver has finished its adaptation: eq_done goes out in this period's set. -/
def LaneGroup.adapt (x : LaneGroup) (done : Byte) : LaneGroup :=
  if x.tphase = .eq then x.eachLane (fun k l => { l with eqSent := l.eqSent || done.getLsbD k }) else x

/-- A flit period of training: the group sends one set per lane and receives one. `adapted` names the lanes whose receiver is done (log 72). -/
def execTrainingSetReceive (g : Group) (lanes : List (List Byte)) (skews : List Byte) (s : State) (adapted : Byte := 0xFF) : Result :=
  let x := s.group g
  if !s.powered then .next s
  else match x.state with
    | .train =>
      let s := (s.modGroup g (fun x => x.adapt adapted)).sendSets g
      let y := (s.group g).trainSet g (s.remapOk g) lanes skews
      if y.allMet then
        let s := s.modGroup g (fun _ => y.nextPhase (s.remapOk g))
        .next (if y.tphase = .align then s.trainDone g else s)
      else .next (s.modGroup g (fun _ => y))
    | .active => .next (if ts1 x lanes then s.retrain g else s)
    | .standby => .next (if ts1 x lanes then s.retrain g else s)
    | _ => .next s
where
  /-- A valid TS1 on some lane. -/
  ts1 (x : LaneGroup) (lanes : List (List Byte)) : Bool :=
    (upFrom 0 8).any (fun l => match x.setOn lanes l with | some b => decide (tsByte b 4 = 1) | none => false)

/-- Lanes that have not met the condition, by logical number where the order is known. -/
def LaneGroup.unmet (x : LaneGroup) : List Nat :=
  ((upFrom 0 8).filter (fun k => !x.met k)).map (fun k => if decide (x.tphase = .detect) && x.reversed then 7 - k else k)

def execTrainPhaseLimit (g : Group) (s : State) : Result :=
  let x := s.group g
  if x.state = .train then
    let bad := x.unmet
    let s := s.modGroup g (fun x => { x.eachLane (fun l k => { k with failed := bad.contains l }) with
      state := .down, upFlit := [], laneFailed := BitVec.ofNat 8 (bad.foldl (fun n l => n + 2 ^ l) 0) })
    .next ((s.setShare g false).alert 6 (plainRec 6 0 g))
  else .next s

/-! ## Standby and wake (R103, R104) -/

/-- TS3 on a group in STANDBY; a link domain in RETENTION wakes first. -/
def execStandbyResume (g : Group) (s : State) : Result :=
  if s.powered && decide ((s.group g).state = .standby) then
    if s.mg.linkDom.state = .on then
      let s := (s.modGroup g (fun x => { x with tphase := .align })).sendSets g
      .next (((s.carries g).foldl (fun s l => s.modGroup l (fun x => { x with seqUp := 0, seqDown := 0 })) (s.modGroup g (fun x => x.seed g))).stir .link)
    else .next (s.wake .link)
  else .next s

/-- A wake detection: recorded, and a wake source of the link domain unless it is on. -/
def State.linkWake (s : State) (g : Nat) (swell : Bool) : State :=
  let s := { s with link := { s.link with
    swellSeen := s.link.swellSeen || swell, activitySeen := s.link.activitySeen || !swell, lastGroup := g } }
  if s.mg.linkDom.state = .on ∧ s.mg.linkDom.going = none then s else s.wake .link

def execSwell (g : Group) (ui : Nat) (s : State) : Result := if s.powered && decide (48 ≤ ui) then .next (s.linkWake g true) else .next s

def execActivity (g : Group) (millivolts : Nat) (ns : Nat) (s : State) : Result :=
  if s.powered && decide (100 < millivolts ∧ 200 ≤ ns) then .next (s.linkWake g false) else .next s

/-- The PHY PLL locks: all 16 groups enter DETECT (Table 12). -/
def execLinkPllLock (s : State) : Result :=
  if s.powered && decide (s.mg.linkDom.state = .on) && !s.link.pllLocked then
    .next ((upFrom 0 16).foldl (fun s g => s.retrain g) { s with link := { s.link with pllLocked := true } })
  else .next s

/-! ## Registers (R98, R106) -/

def execRetrain (g : Group) (s : State) : Result := .next (s.hostReg .port .ok (fun s => s.retrain g))

def execLinkClearCounters (g : Group) (s : State) : Result := .next (s.hostReg .port .ok (fun s => s.linkClear' g))

end Sys2Proof.Machine
end

