-- ==== Sys2Proof/Machine/Debug.lean ====
section
/-! DEFINITION. Debug access through the TAP (15 R398 to R400, Table 8; 13 Table 5; 18 R448). -/

namespace Sys2Proof.Machine

/-! ## What an access reaches -/

/-- Registers of the management window that the AON domain holds: power control, reset cause, the trip record. -/
def mgAon (off : Nat) : Bool := decide (off = 0x400008 ∨ (0x406000 ≤ off ∧ off < 0x407020) ∨ off = 0x40B808)

/-- The power state of the domain that holds a register; AON is always ON. -/
def State.targetPower (s : State) : Target → PState
  | .port off =>
    if 0x100000 ≤ off ∧ off < 0x200000 then s.mg.linkDom.state
    else if mgAon off then .on
    else if 0x400000 ≤ off ∧ off < 0x500000 then s.mg.mgmtDom.state
    else if 0x500000 ≤ off ∧ off < 0x600000 then s.mg.secDom.state
    else s.mg.switchDom.state
  | .sync _ => s.mg.switchDom.state
  | .chan c off =>
    if 0x800000 ≤ off ∧ off < 0xC00000 then ((s.chan c).bank ((off - 0x800000) / 0x8000)).pwr.state else (s.chan c).pwr.dom.state
  | .data off => (s.chan (offChan (s.placed off))).pwr.dom.state
  | .hole => .on

/-- The keep set (13 R342): channel registers but for the doorbell and slice blocks, module sync objects, HB_ registers. -/
def keeps : Target → Bool
  | .port off => decide (off < 0x100000 ∨ (0x200000 ≤ off ∧ off < 0x400000) ∨ 0x600000 ≤ off)
  | .sync _ => true
  | .chan _ off => decide (0xE00000 ≤ off)
  | _ => false

/-- Registers that OBSERVE reads: every one but SL_SKEIN; the command buffer and the code store are none. -/
def observable : Target → Bool
  | .port _ => true
  | .sync _ => true
  | .chan _ off => decide (0x10000 ≤ off ∧ off < 0x18000) || (decide (0x800000 ≤ off ∧ off < 0xC00000) && decide (0x100 ≤ off % 0x800)) || decide (0xE00000 ≤ off)
  | _ => false

/-- A channel that holds a strict context (R400). -/
def State.strictTarget (s : State) : Target → Bool
  | .chan c _ => (s.chan c).strictCtx
  | .data off => (s.chan (offChan (s.placed off))).strictCtx
  | _ => false

/-- The data and status an access returns. -/
def State.tapOut (s : State) (width v : Nat) (st : TapStatus) : State :=
  s.modSc (fun x => { x with tdo := (upFrom 0 width).map v.testBit, tapStatus := st })

/-- What the matrix does not permit: zero data, DENIED. -/
def State.denied (s : State) : State := s.tapOut 32 0 .denied

/-! ## Reads of registers -/

/-- Present instant, as a register that depends on it reads. -/
def State.now (s : State) : Nat := s.refCount * 1344

def State.observe (s : State) (x : Target) : State :=
  match s.wordOf s.now x with
  | none => s.denied
  | some v =>
    if s.sc.level = 0 ∨ observable x = false then s.denied
    else if s.targetPower x = .off ∧ keeps x = false then s.tapOut 32 0 .off
    else s.tapOut 32 v .ok

/-- The register a host address names. -/
def regTarget (a : HostAddr) : Target := target (a.toNat / 4 * 4)

def execDbgObserve (addr : HostAddr) (s : State) : Result :=
  if s.tapRuns && s.powered then .next ((s.wake .security).observe (regTarget addr)) else .next s

/-! ## What INVASIVE adds -/

/-- An access that INVASIVE adds: DENIED below that level, in a strict channel and in OFF; in RETENTION a read is none of OBSERVE's and
DENIED, a write or halt NOT_ON; LEASED where a lease forbids it; else its effect. -/
def State.invasive (s : State) (strict : Bool) (p : PState) (read leased : Bool) (f : State → State) : State :=
  if s.sc.level.toNat < 2 ∨ strict = true ∨ p = .off then s.denied
  else if p = .retention then (if read then s.denied else s.tapOut 32 0 .notOn)
  else if leased then s.tapOut 32 0 .leased
  else f s

/-- A register write: the port mode does not bind a debugger, and HB_PORT_KEY counts from now. -/
def State.dbgWrite (s : State) (x : Target) (v : W32) : State :=
  (match x with
  | .port 0 => s.modeWrite s.now (v.getLsbD 1) (bits v.toNat 31 16)
  | .port 4 => s.keyWrite s.now (bits v.toNat 15 0)
  | x => s.regWrite x v).tapOut 32 0 .ok

/-- Registers INVASIVE writes: SL_SKEIN too, never the command buffer or the code store. -/
def writable (x : Target) : Bool := observable x || (match x with | .chan _ off => decide (0x800000 ≤ off ∧ off < 0xC00000) | _ => false)

/-- The bank of a slice register is leased, or the register's own rule holds it. -/
def State.dbgLeased (s : State) (x : Target) : Bool :=
  decide (s.regStatus x = .leased) || (match x with
    | .chan c off => decide (0x800000 ≤ off ∧ off < 0xC00000) && (s.chan c).leased ((off - 0x800000) / 0x8000)
    | _ => false)

/-- One byte of an array written: host-owned check bits stay, others follow the data, a failing block keeps failing. -/
def State.dbgArray (s : State) (a : Nat) (v : Byte) : State :=
  if s.hostOwned (a / 64) then
    let k := s.checkWord (a / 64)
    let s := { s with mem := wr s.mem a v }
    (s.setDiff (a / 64) (k ^^^ crc32c (s.blockData (a / 64)))).logWrite a .host
  else if s.failing (a / 64) then s.putKept a [v] .host 0
  else s.putBytes a [v] .host

/-- Power, strictness and lease of a slice's bank. -/
def State.onSlice (s : State) (sl : SliceId) (read write : Bool) (f : State → State) : State :=
  let ch := s.chan (slChan sl)
  s.invasive ch.strictCtx (ch.bank (slBank sl)).pwr.state read (write && ch.leased (slBank sl)) f

/-- A byte of the arrays by its placed-view offset: only the host port applies the interleaved view (02 R47). -/
def State.onData (s : State) (a : Nat) (write : Bool) (f : State → State) : State :=
  let ch := s.chan (offChan a)
  s.invasive ch.strictCtx ch.pwr.dom.state (!write) (write && ch.leased (offBank a)) f

def State.dbgHalt (s : State) (sl : SliceId) (on : Bool) : State :=
  (s.modSlice sl (fun x => { x with halted := on, stepping := false })).tapOut 32 0 .ok

/-- Halt, step and breakpoints of the management core. A step executes one instruction of firmware, of which the model holds no state. -/
def State.onCore (s : State) (f : BootSt → BootSt) : State :=
  s.invasive false s.mg.mgmtDom.state false false (fun s => (s.modBoot f).tapOut 32 0 .ok)

/-- Breakpoints with `p` set or cleared. -/
def setBreak (p : Nat) (on : Bool) (l : List Nat) : List Nat := l.filter (fun q => decide (q ≠ p)) ++ (if on then [p] else [])

def State.dbg (s : State) : DbgOp → State
  | .readReg a => s.observe (regTarget a)
  | .writeReg a v =>
    let x := regTarget a
    if (s.wordOf s.now x).isNone || !writable x then s.denied
    else s.invasive (s.strictTarget x) (s.targetPower x) false (s.dbgLeased x) (fun s => s.dbgWrite x v)
  | .readArray off => s.onData off.toNat false (fun s => s.tapOut 8 (rd s.mem off.toNat).toNat .ok)
  | .writeArray off v => s.onData off.toNat true (fun s => (s.dbgArray off.toNat v).tapOut 32 0 .ok)
  | .readScratch sl a => s.onSlice sl true false (fun s => s.tapOut 8 (rd (s.slice sl).scratch a.val).toNat .ok)
  | .writeScratch sl a v =>
    s.onSlice sl false true (fun s => (s.modSlice sl (fun x => { x with scratch := wr x.scratch a.val v })).tapOut 32 0 .ok)
  | .halt sl => s.onSlice sl false false (fun s => s.dbgHalt sl true)
  | .release sl => s.onSlice sl false false (fun s => s.dbgHalt sl false)
  | .breakpoint sl pc on => s.onSlice sl false false (fun s =>
    (s.modSlice sl (fun x => { x with breaks := setBreak pc.toNat on x.breaks })).tapOut 32 0 .ok)
  | .step sl => s.onSlice sl false false (fun s => (s.modSlice sl (fun x => { x with stepping := x.halted })).tapOut 32 0 .ok)
  | .haltCore => s.onCore (fun b => { b with coreHalted := true })
  | .releaseCore => s.onCore (fun b => { b with coreHalted := false })
  | .breakpointCore pc on => s.onCore (fun b => { b with coreBreaks := setBreak pc.toNat on b.coreBreaks })
  | .stepCore => s.onCore id

def execDbgAccess (a : DbgOp) (s : State) : Result := if s.tapRuns && s.powered then .next ((s.wake .security).dbg a) else .next s

/-! ## Scan chains -/

/-- A shift through the chain of a domain that is ON: the spec gives no chain's layout, so what comes out is free and the state that the
model holds stays. DESIGN CHOICE, log 77. -/
def State.scanShift (s : State) (tdi : List Bool) : State :=
  { s with free := s.free + 1 }.modSc (fun x => { x with tdo := (upFrom 0 tdi.length).map (Config.scanBit s.free), tapStatus := .ok })

/-- DBG_SCAN: a debug access wakes the security domain (13 Table 5); Table 8 opens the chains at SCAN, of domains that are ON. -/
def execDbgScan (d : Domain) (tdi : List Bool) (s : State) : Result :=
  if !(s.tapRuns && s.powered) then .next s
  else
    let s := s.wake .security
    if s.sc.level ≠ 3 then .next s.denied
    else if (s.dom d).state = .on then .next (s.scanShift tdi)
    else .next (s.tapOut 32 0 .notOn)

end Sys2Proof.Machine
end

