-- ==== Sys2Proof/Machine/Dispatch.lean ====
section
/-! DEFINITION. One arm per command of spec/opcode_table.json. -/

namespace Sys2Proof.Machine

def exec (i : Instr) (s : State) : Host.Outcome State Fault Refusal :=
  match i with
  | .downstreamFlit g t lanes => Sys2Proof.Machine.execDownstreamFlit g t lanes s
  | .idle g t => Sys2Proof.Machine.execIdle g t s
  | .read g t tag addr parity => Sys2Proof.Machine.execRead g t tag addr parity s
  | .write g t addr byteEn data check => Sys2Proof.Machine.execWrite g t addr byteEn data check s
  | .pfence g t tag addr => Sys2Proof.Machine.execPfence g t tag addr s
  | .readResponse g t pos => Sys2Proof.Machine.execReadResponse g t pos s
  | .echo g t => Sys2Proof.Machine.execEcho g t s
  | .standbyReq g t => Sys2Proof.Machine.execStandbyReq g t s
  | .groupUnaligned g => Sys2Proof.Machine.execGroupUnaligned g s
  | .trainingSetReceive g lanes skews adapted => Sys2Proof.Machine.execTrainingSetReceive g lanes skews s adapted
  | .trainPhaseLimit g => Sys2Proof.Machine.execTrainPhaseLimit g s
  | .standbyResume g => Sys2Proof.Machine.execStandbyResume g s
  | .swell g ui => Sys2Proof.Machine.execSwell g ui s
  | .activity g millivolts ns => Sys2Proof.Machine.execActivity g millivolts ns s
  | .linkPllLock => Sys2Proof.Machine.execLinkPllLock s
  | .retrain g => Sys2Proof.Machine.execRetrain g s
  | .linkClearCounters g => Sys2Proof.Machine.execLinkClearCounters g s
  | .portKeyArm t arm => Sys2Proof.Machine.execPortKeyArm t arm s
  | .portKeyExpire t => Sys2Proof.Machine.execPortKeyExpire t s
  | .portModeSwitch t target confirm => Sys2Proof.Machine.execPortModeSwitch t target confirm s
  | .hbWinWrite w v => Sys2Proof.Machine.execHbWinWrite w v s
  | .xorMaskWrite t k v g => Sys2Proof.Machine.execXorMaskWrite t k v s g
  | .violClear c => Sys2Proof.Machine.execViolClear c s
  | .registerWrite t addr v g => Sys2Proof.Machine.execRegisterWrite t addr v s g
  | .bankOperation c b col garbled => Sys2Proof.Machine.execBankOperation c b col garbled s
  | .readRetry c b who ok1 ok2 => Sys2Proof.Machine.execReadRetry c b who ok1 ok2 s
  | .refreshTick c b col => Sys2Proof.Machine.execRefreshTick c b s col
  | .forcedRefresh c b col => Sys2Proof.Machine.execForcedRefresh c b col s
  | .idleRefresh c b col => Sys2Proof.Machine.execIdleRefresh c b col s
  | .strictRefreshSlot c b col => Sys2Proof.Machine.execStrictRefreshSlot c b col s
  | .memClearCounters c => Sys2Proof.Machine.execMemClearCounters c s
  | .hardwareSweep c bad => Sys2Proof.Machine.execHardwareSweep c bad s
  | .sweepDone c => Sys2Proof.Machine.execSweepDone c s
  | .sweep c => Sys2Proof.Machine.execSweep c s
  | .nudgeUp c => Sys2Proof.Machine.execNudgeUp c s
  | .nudgeDown c => Sys2Proof.Machine.execNudgeDown c s
  | .patternGo c => Sys2Proof.Machine.execPatternGo c s
  | .patternRunDone c mismatches => Sys2Proof.Machine.execPatternRunDone c mismatches s
  | .doorbell c r v => Sys2Proof.Machine.execDoorbell c r v s
  | .dbRingWrite c r v => Sys2Proof.Machine.execDbRingWrite c r v s
  | .dbCqWrite c r v => Sys2Proof.Machine.execDbCqWrite c r v s
  | .cqHeadWrite c r v => Sys2Proof.Machine.execCqHeadWrite c r v s
  | .commandRead c r parity => Sys2Proof.Machine.execCommandRead c r s parity
  | .tornReread c r parity => Sys2Proof.Machine.execTornReread c r s parity
  | .tornCommand c r => Sys2Proof.Machine.execTornCommand c r s
  | .dispatch c r parity => Sys2Proof.Machine.execDispatch c r parity s
  | .castOn c r => Sys2Proof.Machine.execCastOn c r s
  | .layer c r pos => Sys2Proof.Machine.execLayer c r pos s
  | .patch c r pos => Sys2Proof.Machine.execPatch c r pos s
  | .copy c r pos => Sys2Proof.Machine.execCopy c r pos s
  | .stagedCopyWrite c r pos => Sys2Proof.Machine.execStagedCopyWrite c r pos s
  | .fill c r pos => Sys2Proof.Machine.execFill c r pos s
  | .gather c r pos => Sys2Proof.Machine.execGather c r pos s
  | .signal c r pos => Sys2Proof.Machine.execSignal c r pos s
  | .wait c r pos => Sys2Proof.Machine.execWait c r pos s
  | .fenceChannel c r pos => Sys2Proof.Machine.execFenceChannel c r pos s
  | .fenceModule c r pos => Sys2Proof.Machine.execFenceModule c r pos s
  | .digest c r pos => Sys2Proof.Machine.execDigest c r pos s
  | .abort c r => Sys2Proof.Machine.execAbort c r s
  | .bindOff c r => Sys2Proof.Machine.execBindOff c r s
  | .hintCodePrefetch c r pos => Sys2Proof.Machine.execHintCodePrefetch c r pos s
  | .hintRowOpen c r pos => Sys2Proof.Machine.execHintRowOpen c r pos s
  | .completion c r pos => Sys2Proof.Machine.execCompletion c r pos s
  | .stopEvent c r pos => Sys2Proof.Machine.execStopEvent c r pos s
  | .abortSlack c r => Sys2Proof.Machine.execAbortSlack c r s
  | .watchdogFire c r => Sys2Proof.Machine.execWatchdogFire c r s
  | .codeBusyClear c => Sys2Proof.Machine.execCodeBusyClear c s
  | .layerStart sl => Sys2Proof.Machine.execLayerStart sl s
  | .fetch sl e lens parity => Sys2Proof.Machine.execFetch sl e lens parity s
  | .icacheMissReturn sl e => Sys2Proof.Machine.execIcacheMissReturn sl e s
  | .sliceStop sl => Sys2Proof.Machine.execSliceStop sl s
  | .deschedule sl => Sys2Proof.Machine.execDeschedule sl s
  | .resume sl => Sys2Proof.Machine.execResume sl s
  | .endOp sl e => Sys2Proof.Machine.execEndOp sl e s
  | .nop sl e => Sys2Proof.Machine.execNop sl e s
  | .semSig sl e k n => Sys2Proof.Machine.execSemSig sl e k n s
  | .semWait sl e k n => Sys2Proof.Machine.execSemWait sl e k n s
  | .fenceEngine sl e => Sys2Proof.Machine.execFenceEngine sl e s
  | .fenceSlice sl e => Sys2Proof.Machine.execFenceSlice sl e s
  | .jmp sl e off => Sys2Proof.Machine.execJmp sl e off s
  | .brar sl e a off => Sys2Proof.Machine.execBrar sl e a off s
  | .cxLi sl d imm => Sys2Proof.Machine.execCxLi sl d imm s
  | .cxAdd sl d a b => Sys2Proof.Machine.execCxAdd sl d a b s
  | .cxSub sl d a b => Sys2Proof.Machine.execCxSub sl d a b s
  | .cxShl sl d a b => Sys2Proof.Machine.execCxShl sl d a b s
  | .cxShr sl d a b => Sys2Proof.Machine.execCxShr sl d a b s
  | .cxSar sl d a b => Sys2Proof.Machine.execCxSar sl d a b s
  | .cxCmp sl cond d a b => Sys2Proof.Machine.execCxCmp sl cond d a b s
  | .cxSel sl d cc a b => Sys2Proof.Machine.execCxSel sl d cc a b s
  | .cxLdp sl d word => Sys2Proof.Machine.execCxLdp sl d word s
  | .cxStp sl word a => Sys2Proof.Machine.execCxStp sl word a s
  | .cxId sl d => Sys2Proof.Machine.execCxId sl d s
  | .cxBr sl test target => Sys2Proof.Machine.execCxBr sl test target s
  | .cxSumpop sl d => Sys2Proof.Machine.execCxSumpop sl d s
  | .cxSumset sl bit a => Sys2Proof.Machine.execCxSumset sl bit a s
  | .bxLd sl m => Sys2Proof.Machine.execBxLd sl m s
  | .bxSt sl m parity => Sys2Proof.Machine.execBxSt sl m s parity
  | .bxCopy sl desc o parity => Sys2Proof.Machine.execBxCopy sl desc o s parity
  | .bxFill sl desc o parity => Sys2Proof.Machine.execBxFill sl desc o s parity
  | .bxGather sl desc parity => Sys2Proof.Machine.execBxGather sl desc s parity
  | .bxSend sl d entry src ack parity => Sys2Proof.Machine.execBxSend sl d entry src ack s parity
  | .bxSsig sl vsync amount => Sys2Proof.Machine.execBxSsig sl vsync amount s
  | .bxSsub sl vsync amount => Sys2Proof.Machine.execBxSsub sl vsync amount s
  | .bxSwatch sl vsync value => Sys2Proof.Machine.execBxSwatch sl vsync value s
  | .bxBar sl vsync => Sys2Proof.Machine.execBxBar sl vsync s
  | .bxRecv sl entry dst ack => Sys2Proof.Machine.execBxRecv sl entry dst ack s
  | .mxZero sl first count lp => Sys2Proof.Machine.execMxZero sl first count lp s
  | .mxMma sl m parity => Sys2Proof.Machine.execMxMma sl m parity s
  | .mxRound sl m parity => Sys2Proof.Machine.execMxRound sl m s parity
  | .mxPstore sl p x lp first count clear parity => Sys2Proof.Machine.execMxPstore sl p x lp first count clear s parity
  | .mxPload sl p x lp first count parity => Sys2Proof.Machine.execMxPload sl p x lp first count s parity
  | .vxRun sl m parity => Sys2Proof.Machine.execVxRun sl m parity s
  | .vxKset sl k imm fmt lp => Sys2Proof.Machine.execVxKset sl k imm fmt lp s
  | .vxKld sl k src fmt lp parity => Sys2Proof.Machine.execVxKld sl k src fmt lp s parity
  | .vxRclr sl mask lp => Sys2Proof.Machine.execVxRclr sl mask lp s
  | .vxRround sl r dst fmt sat adj index lp => Sys2Proof.Machine.execVxRround sl r dst fmt sat adj index lp s
  | .vxRpstore sl r p x lp => Sys2Proof.Machine.execVxRpstore sl r p x lp s
  | .vxRpload sl r p x count lp parity => Sys2Proof.Machine.execVxRpload sl r p x count lp s parity
  | .vxRpost sl sumR maxR lp => Sys2Proof.Machine.execVxRpost sl sumR maxR lp s
  | .vxTld sl tile a lp parity => Sys2Proof.Machine.execVxTld sl tile a lp s parity
  | .vxTst sl tile a lp parity => Sys2Proof.Machine.execVxTst sl tile a lp s parity
  | .vxTtr sl src dst esize lp parity => Sys2Proof.Machine.execVxTtr sl src dst esize lp s parity
  | .vxTred sl tile rows axis kind fin fout d lp parity => Sys2Proof.Machine.execVxTred sl tile rows axis kind fin fout d lp s parity
  | .vxQblk sl x y d blocks fx fe lp parity => Sys2Proof.Machine.execVxQblk sl x y d blocks fx fe lp s parity
  | .vxTsum sl x lp d a b parity => Sys2Proof.Machine.execVxTsum sl x lp d a b s parity
  | .vxTadd sl p d b lp parity => Sys2Proof.Machine.execVxTadd sl p d b lp s parity
  | .perfClear sl => Sys2Proof.Machine.execPerfClear sl s
  | .syncOperation o => Sys2Proof.Machine.execSyncOperation o s
  | .waitRetry c => Sys2Proof.Machine.execWaitRetry c s
  | .waiterRelease c => Sys2Proof.Machine.execWaiterRelease c s
  | .add o amount g => Sys2Proof.Machine.execAdd o amount s g
  | .sub o amount g => Sys2Proof.Machine.execSub o amount s g
  | .barCfgWrite o v g => Sys2Proof.Machine.execBarCfgWrite o v s g
  | .barStateClear o g => Sys2Proof.Machine.execBarStateClear o s g
  | .barrierArrival o => Sys2Proof.Machine.execBarrierArrival o s
  | .combinerForward c m => Sys2Proof.Machine.execCombinerForward c m s
  | .barrierRelease c => Sys2Proof.Machine.execBarrierRelease c s
  | .messageArrival sl => Sys2Proof.Machine.execMessageArrival sl s
  | .longWait c r => Sys2Proof.Machine.execLongWait c r s
  | .syncClearCounters c => Sys2Proof.Machine.execSyncClearCounters c s
  | .hbSyncClearCounters => Sys2Proof.Machine.execHbSyncClearCounters s
  | .strictWrite v => Sys2Proof.Machine.execStrictWrite v s
  | .strictOrigin => Sys2Proof.Machine.execStrictOrigin s
  | .epochTick => Sys2Proof.Machine.execEpochTick s
  | .epochClear => Sys2Proof.Machine.execEpochClear s
  | .strictStatusClear c mask => Sys2Proof.Machine.execStrictStatusClear c mask s
  | .provenanceDigest c r pos => Sys2Proof.Machine.execProvenanceDigest c r pos s
  | .leafHash c r pos => Sys2Proof.Machine.execLeafHash c r pos s
  | .payloadReceive c hop cargo ok => Sys2Proof.Machine.execPayloadReceive c hop cargo ok s
  | .transitResend c ok => Sys2Proof.Machine.execTransitResend c ok s
  | .settleNotice c => Sys2Proof.Machine.execSettleNotice c s
  | .scrubInterval c => Sys2Proof.Machine.execScrubInterval c s
  | .scrubRead c b blk ok0 ok1 ok2 => Sys2Proof.Machine.execScrubRead c b blk ok0 ok1 ok2 s
  | .clearCounters c => Sys2Proof.Machine.execClearCounters c s
  | .clearWlog c => Sys2Proof.Machine.execClearWlog c s
  | .errorLogRecord => Sys2Proof.Machine.execErrorLogRecord s
  | .errLogClear => Sys2Proof.Machine.execErrLogClear s
  | .ownerWait d => Sys2Proof.Machine.execOwnerWait d s
  | .selfRefreshEntry c => Sys2Proof.Machine.execSelfRefreshEntry c s
  | .pointOfNoReturn d => Sys2Proof.Machine.execPointOfNoReturn d s
  | .wakeSource d => Sys2Proof.Machine.execWakeSource d s
  | .transitionComplete d => Sys2Proof.Machine.execTransitionComplete d s
  | .selfRefreshExit c => Sys2Proof.Machine.execSelfRefreshExit c s
  | .targetWrite d v => Sys2Proof.Machine.execTargetWrite d v s
  | .pllReq c => Sys2Proof.Machine.execPllReq c s
  | .pllLock c => Sys2Proof.Machine.execPllLock c s
  | .pllLockLoss c => Sys2Proof.Machine.execPllLockLoss c s
  | .opTargetWrite c v => Sys2Proof.Machine.execOpTargetWrite c v s
  | .opPointChangeDone c => Sys2Proof.Machine.execOpPointChangeDone c s
  | .pwrRefusalClear d => Sys2Proof.Machine.execPwrRefusalClear d s
  | .pwrBankClearCounters c => Sys2Proof.Machine.execPwrBankClearCounters c s
  | .ledgerAllowWrite c v => Sys2Proof.Machine.execLedgerAllowWrite c v s
  | .limiterWindow c drawMw => Sys2Proof.Machine.execLimiterWindow c drawMw s
  | .sensorRead readings => Sys2Proof.Machine.execSensorRead readings s
  | .thermalTrip sensor reading => Sys2Proof.Machine.execThermalTrip sensor reading s
  | .thermStatClear => Sys2Proof.Machine.execThermStatClear s
  | .submit => Sys2Proof.Machine.execSubmit s
  | .debug => Sys2Proof.Machine.execDebug s
  | .lifecycle blows => Sys2Proof.Machine.execLifecycle blows s
  | .revoke blows => Sys2Proof.Machine.execRevoke blows s
  | .secver blows => Sys2Proof.Machine.execSecver blows s
  | .owner blows => Sys2Proof.Machine.execOwner blows s
  | .challenge => Sys2Proof.Machine.execChallenge s
  | .attestGo => Sys2Proof.Machine.execAttestGo s
  | .reportSigned => Sys2Proof.Machine.execReportSigned s
  | .sessionKeyGenerated blows => Sys2Proof.Machine.execSessionKeyGenerated blows s
  | .relock => Sys2Proof.Machine.execRelock s
  | .bypass tdi => Sys2Proof.Machine.execBypass tdi s
  | .idcode => Sys2Proof.Machine.execIdcode s
  | .extest tdi => Sys2Proof.Machine.execExtest tdi s
  | .samplePreload tdi => Sys2Proof.Machine.execSamplePreload tdi s
  | .tapTokenLoad off bytes => Sys2Proof.Machine.execTapTokenLoad off bytes s
  | .dbgObserve addr => Sys2Proof.Machine.execDbgObserve addr s
  | .dbgAccess a => Sys2Proof.Machine.execDbgAccess a s
  | .dbgScan d tdi => Sys2Proof.Machine.execDbgScan d tdi s
  | .porstNAssert aonCycles => Sys2Proof.Machine.execPorstNAssert aonCycles s
  | .warmrstNAssert aonCycles => Sys2Proof.Machine.execWarmrstNAssert aonCycles s
  | .boot env => Sys2Proof.Machine.execBoot env s
  | .refclkLoss => Sys2Proof.Machine.execRefclkLoss s
  | .modulePowerOff => Sys2Proof.Machine.execModulePowerOff s
  | .inputStageCharged => Sys2Proof.Machine.execInputStageCharged s
  | .startLink => Sys2Proof.Machine.execStartLink s
  | .bootGo => Sys2Proof.Machine.execBootGo s
  | .recover key => Sys2Proof.Machine.execRecover key s
  | .abandon => Sys2Proof.Machine.execAbandon s
  | .loadTimeout => Sys2Proof.Machine.execLoadTimeout s
  | .firmwareVerified => Sys2Proof.Machine.execFirmwareVerified s
  | .mgmtWatchdogExpire => Sys2Proof.Machine.execMgmtWatchdogExpire s
  | .shedMeasure busyPct => Sys2Proof.Machine.execShedMeasure busyPct s
  | .repairRecord kind c b target => Sys2Proof.Machine.execRepairRecord kind c b target s
  | .getBootStatus pec => Sys2Proof.Machine.execGetBootStatus pec s
  | .fwBegin pec => Sys2Proof.Machine.execFwBegin pec s
  | .fwChunk pec off bytes => Sys2Proof.Machine.execFwChunk pec off bytes s
  | .fwEnd pec => Sys2Proof.Machine.execFwEnd pec s
  | .getChallenge pec => Sys2Proof.Machine.execGetChallenge pec s
  | .tokenLoad pec off bytes => Sys2Proof.Machine.execTokenLoad pec off bytes s
  | .tokenSubmit pec => Sys2Proof.Machine.execTokenSubmit pec s
  | .attest pec nonce => Sys2Proof.Machine.execAttest pec nonce s
  | .attestRead pec off len => Sys2Proof.Machine.execAttestRead pec off len s
  | .errlogRead pec first count => Sys2Proof.Machine.execErrlogRead pec first count s
  | .darnRead pec c => Sys2Proof.Machine.execDarnRead pec c s
  | .traceRead pec first count => Sys2Proof.Machine.execTraceRead pec first count s
  | .setEndpointId pec eid => Sys2Proof.Machine.execSetEndpointId pec eid s
  | .getEndpointId pec => Sys2Proof.Machine.execGetEndpointId pec s
  | .getMctpVersionSupport pec msgType => Sys2Proof.Machine.execGetMctpVersionSupport pec msgType s
  | .getMessageTypeSupport pec => Sys2Proof.Machine.execGetMessageTypeSupport pec s
  | .getVendorMessageSupport pec => Sys2Proof.Machine.execGetVendorMessageSupport pec s
  | .getSensorReading pec sensor => Sys2Proof.Machine.execGetSensorReading pec sensor s
  | .platformEventMessage bit => Sys2Proof.Machine.execPlatformEventMessage bit s
  | .dramSelfRefreshTick c => Sys2Proof.Machine.execDramSelfRefreshTick c s
  | .refclkRunsAgain us => Sys2Proof.Machine.execRefclkRunsAgain us s
  | .vaonApplied => Sys2Proof.Machine.execVaonApplied s
  | .vaonRemoved => Sys2Proof.Machine.execVaonRemoved s
  | .trstNAssert => Sys2Proof.Machine.execTrstNAssert s

end Sys2Proof.Machine
end

