-- ==== Sys2Proof/Safety.lean ====
section
/-! DEFINITION. The terms in which claims speak of runs: what it is for a command to run, what it may leave changed, and what
a state must satisfy for an operation of a slice to issue. -/

namespace Sys2Proof.Machine

/-- The outcome is a next state, of which `p` holds: neither a fault nor a refusal. -/
abbrev ran (r : Result) (p : State → Prop) : Prop := ∃ t, r = .next t ∧ p t

/-- A command that runs and changes nothing. -/
abbrev unchanged (r : Result) (s : State) : Prop := r = .next s

/-! ## Frames -/

/-- Of the management domain, only alert bits and records due have changed, and what an alert wakes. -/
abbrev onlyAlerts (s t : State) : Prop :=
  t.mg = { s.mg with alert := t.mg.alert, events := t.mg.events, mgmtDom := t.mg.mgmtDom, boot := { s.mg.boot with coreWait := t.mg.boot.coreWait } }

/-- Nothing but slice `sl` has changed, and alerts. -/
abbrev onlySlice (s t : State) (sl : SliceId) : Prop :=
  t = { s with slices := t.slices, mg := t.mg } ∧ onlyAlerts s t ∧ ∀ k, k ≠ sl → t.slice k = s.slice k

/-- Nothing but channel `c` has changed, and alerts. -/
abbrev onlyChan (s t : State) (c : Nat) : Prop :=
  t = { s with chans := t.chans, mg := t.mg } ∧ onlyAlerts s t ∧ ∀ k, k ≠ c → t.chan k = s.chan k

/-! ## Issue of slice operations (06 R173, R188) -/

/-- An operation waits at the head of engine `e`'s queue and nothing holds it back. -/
abbrev issues (s : State) (sl : SliceId) (e : Engine) : Prop :=
  let x := s.slice sl
  let g := x.eng e
  x.layer.isSome = true ∧ g.active = true ∧ g.queue ≠ [] ∧ (g.state = .issuing ∨ g.state = .semWait) ∧ x.stopReq = false ∧ (x.heldByDebug = false ∨ x.stepping = true)
    ∧ (e = .bx → x.bxWait = .none) ∧ g.lo ≤ g.pc.toNat ∧ g.pc.toNat < g.hi
    ∧ (x.breaks.contains g.pc.toNat = false ∨ x.stepping = true ∨ x.layer.map (·.strict) = some true)

/-- Bytes of the operation at the head of the queue. -/
def headLen (s : State) (sl : SliceId) (e : Engine) : Nat := ((s.slice sl).eng e).queue.headD 0

/-- The other engines of the slice stand as before. -/
abbrev othersStand (s t : State) (sl : SliceId) (e : Engine) : Prop := ∀ k, k ≠ e → (t.slice sl).eng k = (s.slice sl).eng k

/-- The head operation of engine `e` has retired: the program counter is past it and it has left the queue. -/
abbrev advanced (s t : State) (sl : SliceId) (e : Engine) : Prop :=
  ((t.slice sl).eng e).pc = ((s.slice sl).eng e).pc + BitVec.ofNat 18 (headLen s sl e)
    ∧ ((t.slice sl).eng e).queue = ((s.slice sl).eng e).queue.drop 1 ∧ ((t.slice sl).eng e).state = .issuing ∧ othersStand s t sl e

/-- A message that BX of the slice has sent is on its way to its mailbox (06 R195). -/
abbrev sending (s : State) (sl : SliceId) : Prop := ∃ g ∈ s.msgQ, ∃ r n o t, g.src = .slice sl r n o t

/-- An address register as the operation at the head of engine `e`'s queue reads it: when it issued, if it has begun (06 R191). -/
def arAtIssue (s : State) (sl : SliceId) (e : Engine) (a : AReg) : W32 :=
  if a = 0 then 0 else tget (((s.slice sl).eng e).issued.getD (s.slice sl).ars) a.val 0

/-- An operation of CX that writes `v` to ar[d] retires: no other address register changes, ar0 reads as zero whatever is written
to it, and of the slice nothing else but its engine CX and performance counters. -/
abbrev setsAr (s : State) (sl : SliceId) (d : AReg) (v : W32) (r : Result) : Prop :=
  ran r fun t => onlySlice s t sl ∧ advanced s t sl .cx ∧ (∀ n, (t.slice sl).ar n = if n = d ∧ n ≠ 0 then v else (s.slice sl).ar n)
    ∧ t.slice sl = { s.slice sl with ars := (t.slice sl).ars, engines := (t.slice sl).engines, perf := (t.slice sl).perf,
                                     perfSat := (t.slice sl).perfSat, stepping := false }

/-- Of slice `sl` nothing but its engine `e`, its performance counters and what `f` changes stands otherwise than before: the operation at the head
of the queue of engine `e` has retired with effect `f`. -/
abbrev retires (s : State) (sl : SliceId) (e : Engine) (f : SliceSt → SliceSt) (r : Result) : Prop :=
  ran r fun t => onlySlice s t sl ∧ advanced s t sl e
    ∧ t.slice sl = { f (s.slice sl) with engines := (t.slice sl).engines, perf := (t.slice sl).perf, perfSat := (t.slice sl).perfSat, stepping := false }

/-- The operation at the head of engine `e`'s queue retires, and the engine goes to code-store address pc + `off`. -/
abbrev jumps (s : State) (sl : SliceId) (e : Engine) (off : Int) (r : Result) : Prop :=
  ran r fun t => onlySlice s t sl ∧ othersStand s t sl e
    ∧ ((t.slice sl).eng e).pc = ((s.slice sl).eng e).pc + BitVec.ofInt 18 off ∧ ((t.slice sl).eng e).queue = []
    ∧ t.slice sl = { s.slice sl with engines := (t.slice sl).engines, perf := (t.slice sl).perf, perfSat := (t.slice sl).perfSat, stepping := false }

/-- The engine waits at the operation at the head of its queue, for semaphore `k` and count `n`; nothing else of the machine has changed but
when the wait began. -/
abbrev waitsSem (s : State) (sl : SliceId) (e : Engine) (k : Fin 16) (n : Nat) (r : Result) : Prop :=
  ran r fun t => onlySlice s t sl ∧ othersStand s t sl e
    ∧ ((t.slice sl).eng e).state = .semWait ∧ ((t.slice sl).eng e).waitSem = some (k, n)
    ∧ ((t.slice sl).eng e).pc = ((s.slice sl).eng e).pc ∧ ((t.slice sl).eng e).queue = ((s.slice sl).eng e).queue
    ∧ t.slice sl = { s.slice sl with engines := (t.slice sl).engines, stepping := false, waitStart := (t.slice sl).waitStart, waitUs := (t.slice sl).waitUs }

/-- An engine before `e` in the order MX, VX, BX, CX waits for semaphore `k` with a count it holds (06 R192). -/
abbrev earlierReleased (s : State) (sl : SliceId) (e : Engine) (k : Nat) : Prop :=
  ∃ f m, engIx f < engIx e ∧ ((s.slice sl).eng f).state = .semWait ∧ (∃ j, ((s.slice sl).eng f).waitSem = some (j, m) ∧ j.val = k) ∧ m ≤ (s.slice sl).sem k

/-- Command `m` of a context is asked nothing and has met no fault. -/
abbrev sound (m : Cmd) : Prop := m.stopReq = false ∧ m.stopEvent = false ∧ m.fault = none

/-! ## Loops and operands in address mode (06 R183, R186, R187) -/

/-- Trip counts of the loop of the operation at the head of engine `e`'s queue, innermost first. -/
def trips (s : State) (sl : SliceId) (e : Engine) (lp : Loop) : List Nat :=
  if lp.counts = [] then [1] else lp.counts.map (fun c => match c with | .lit n => n | .reg a => (arAtIssue s sl e a).toNat)

/-- Iterations of that loop. -/
def tripsTotal (s : State) (sl : SliceId) (e : Engine) (lp : Loop) : Nat := (trips s sl e lp).foldl (· * ·) 1

/-- Base address of an operand. -/
def baseAt (s : State) (sl : SliceId) (e : Engine) (o : ScrOperand) : Nat := ((arAtIssue s sl e o.base.reg).toNat + o.base.imm.val) % 2 ^ 32

/-- Where an operand lies in iteration `i`. -/
def placeAt (s : State) (sl : SliceId) (e : Engine) (lp : Loop) (i : Nat) (o : ScrOperand) : Place :=
  ⟨o.tile, wrapNat (baseAt s sl e o + strideSum (idxVec (trips s sl e lp) i) o.strides) 32⟩

/-- The loop has counts an engine may run, has issued no iteration, and its operands are addresses. -/
abbrev loops (s : State) (sl : SliceId) (e : Engine) (lp : Loop) : Prop :=
  (∀ n ∈ trips s sl e lp, n ≤ 65536) ∧ tripsTotal s sl e lp ≤ 2 ^ 32 ∧ ((s.slice sl).eng e).loopPos = 0
    ∧ ∀ l, (s.slice sl).layer = some l → l.qmode e = false

/-- An operand whose base and strides are multiples of `n`. -/
abbrev alignedAt (s : State) (sl : SliceId) (e : Engine) (n : Nat) (o : ScrOperand) : Prop :=
  baseAt s sl e o % n = 0 ∧ ∀ d ∈ o.strides, d % (n : Int) = 0

/-- The operand holds `bytes` bytes in every iteration. -/
abbrev holdsAt (s : State) (sl : SliceId) (e : Engine) (lp : Loop) (bytes : Nat) (o : ScrOperand) : Prop :=
  ∀ i, i < tripsTotal s sl e lp → (placeAt s sl e lp i o).fits bytes = true

/-- The operation at the head of engine `e`'s queue runs its iterations in order, each with effect `f` at the places of its operands, and retires. -/
abbrev iterates (s : State) (sl : SliceId) (e : Engine) (lp : Loop) (ops : List ScrOperand) (f : SliceSt → List Place → SliceSt) (r : Result) : Prop :=
  retires s sl e (fun x => (upFrom 0 (tripsTotal s sl e lp)).foldl (fun x i => f x (ops.map (placeAt s sl e lp i))) x) r

/-- Two places hold different bytes. -/
abbrev apart (p : Place) (n : Nat) (q : Place) (k : Nat) : Prop := n = 0 ∨ k = 0 ∨ p.tile ≠ q.tile ∨ p.addr + n ≤ q.addr ∨ q.addr + k ≤ p.addr

/-- An operation of engine `e` faults: the engine stops, the slice is asked to, and the LAYER it runs, in flight and asked nothing, takes the fault. -/
abbrev faults (s : State) (sl : SliceId) (e : Engine) (cause detail : Nat) (r : Result) : Prop :=
  ∀ l m, (s.slice sl).layer = some l → s.cmd (slChan sl) l.record.val l.pos = some m → sound m →
    ran r fun t => ((t.slice sl).eng e).state = .faulted ∧ (t.slice sl).stopReq = true ∧ ((t.slice sl).eng e).pc = ((s.slice sl).eng e).pc
      ∧ (t.slice sl).scratch = (s.slice sl).scratch ∧ (t.slice sl).tiles = (s.slice sl).tiles ∧ (t.slice sl).accs = (s.slice sl).accs
      ∧ (t.slice sl).consts = (s.slice sl).consts ∧ (t.slice sl).reds = (s.slice sl).reds ∧ (t.slice sl).ars = (s.slice sl).ars ∧ t.mem = s.mem
      ∧ ∃ k, t.cmd (slChan sl) l.record.val l.pos = some k ∧ k.fault = some ⟨BitVec.ofNat 8 cause, sl, e, BitVec.ofNat 64 detail⟩ ∧ k.stopReq = true

/-! ## BX (06 R197; 10) -/

/-- Bytes a BX.LD or BX.ST moves in an iteration. -/
def moveBytes (m : BxMove) : Nat := [2, 4, 8, 16, 64].getD m.wcode.val 0

/-- The data offset of iteration `i`. -/
def dataAt (s : State) (sl : SliceId) (m : BxMove) (i : Nat) : Int :=
  ((arAtIssue s sl .bx m.dreg).toNat * 256 + m.doff.val : Nat) + strideSum (idxVec (trips s sl .bx m.lp) i) m.dstrides

/-- No payload of the slice's BX has been asked for again (12 R334). -/
abbrev bxClear (s : State) (sl : SliceId) : Prop := s.resending (· = .slice sl .bx) = false

/-- Of every channel only banks, the times of activations and what a shadow sampler counts have changed (02 R49, R65). -/
abbrev onlyRows (s t : State) : Prop :=
  ∀ k, t.chan k = { s.chan k with banks := (t.chan k).banks, acts := (t.chan k).acts, train := (t.chan k).train }

/-- Both operands of a move are aligned, hold its accesses, whose banks serve them, and, in a strict LAYER, have slots between the banks; `load` tells which way it goes. -/
abbrev movable (s : State) (sl : SliceId) (m : BxMove) (load : Bool) : Prop :=
  m.ok = true ∧ bxClear s sl ∧ s.banksServe ((upFrom 0 (tripsTotal s sl .bx m.lp)).map (fun i => ((dataAt s sl m i).toNat, moveBytes m))) = true
    ∧ loops s sl .bx m.lp ∧ alignedAt s sl .bx (moveBytes m) m.scr ∧ holdsAt s sl .bx m.lp (moveBytes m) m.scr
    ∧ ((arAtIssue s sl .bx m.dreg).toNat * 256 + m.doff.val) % moveBytes m = 0 ∧ (∀ d ∈ m.dstrides, d % (moveBytes m : Int) = 0)
    ∧ ∀ i, i < tripsTotal s sl .bx m.lp → 0 ≤ dataAt s sl m i ∧ dataAt s sl m i + moveBytes m ≤ 2 ^ 40
      ∧ (s.chan (offChan (dataAt s sl m i).toNat)).offline = false
      ∧ ∀ l, (s.slice sl).layer = some l → l.strict = true →
          let there := offChan (dataAt s sl m i).toNat * 128 + offBank (dataAt s sl m i).toNat
          let mine := slChan sl * 128 + slBank sl
          (if load then s.pairOk there mine else s.pairOk mine there) = true

/-- BX waits for `w` at the operation at the head of its queue. -/
abbrev bxHolds (s t : State) (sl : SliceId) (w : BxWait) : Prop :=
  (t.slice sl).bxWait = w ∧ ((t.slice sl).eng .bx).pc = ((s.slice sl).eng .bx).pc ∧ ((t.slice sl).eng .bx).queue = ((s.slice sl).eng .bx).queue
    ∧ othersStand s t sl .bx ∧ (t.slice sl).scratch = (s.slice sl).scratch ∧ t.mem = s.mem ∧ ∀ k, k ≠ sl → t.slice k = s.slice k

/-- BX of the slice waits no longer, and its operation has retired. -/
abbrev bxFreed (s t : State) (sl : SliceId) : Prop := (t.slice sl).bxWait = .none ∧ advanced s t sl .bx

/-- No block of data space is host-owned or fails verification. -/
abbrev allGood (s : State) : Prop := ∀ b, s.hostOwned b = false ∧ s.failing b = false

/-- Data memory after item `k` of a GATHER without reduction whose results go to data space (09 R261, R263). -/
def gatherItem (d : GatherD) (scratch mem : Memory) (k : Nat) : Memory :=
  let i := leNat (rdN (if d.idxScr then scratch else mem) (d.idxBase + 4 * k) 4)
  let out := d.outBase + k * d.outStride
  if i = 0xFFFFFFFF then (if d.writePad then wrL mem out (List.replicate d.rowBytes 0) else mem)
  else wrL mem out (rdN mem (d.rowAddr (min i (d.rows - 1))) d.rowBytes)

/-! ## Sync objects (10) -/

/-- What the party behind an operation learns of it: 0, or the cause of its fault. -/
abbrev answered (s t : State) (who : Party) (cause : Byte) : Prop :=
  match who with
  | .command c r _ pos _ => ∀ m, s.cmd c r pos = some m → sound m →
      (cause = 0 → t.cmd c r pos = some { m with phase := .finished }) ∧ (cause ≠ 0 → (t.cmd c r pos).bind (·.fault) = some ⟨cause, 0, .mx, 0⟩)
  | .slice sl r _ pos _ => t.relQ = s.relQ ++ [(chanOf (slChan sl), .result sl r pos cause)]
  | .host => t.relQ = s.relQ

/-- An object notes a fault, and otherwise stands. -/
abbrev noted (s t : State) (o : ObjRef) (cause : Byte) : Prop := t.syncObj o = { s.syncObj o with error := true, lastFault := cause }

/-! ## Host writes of registers (04 R107, R108) -/

/-- A host WRITE of a register of channel `c`'s window has reached it: the key is disarmed, the write echoed OK, and nothing outside channel `c`
changed but alerts. -/
abbrev wroteChan (s t : State) (c : Nat) : Prop :=
  t = { s with chans := t.chans, port := t.port, mg := t.mg } ∧ onlyAlerts s t ∧ t.port = { s.port with armedAt := none, lastStatus := .ok }
    ∧ ∀ k, k ≠ c → t.chan k = s.chan k

/-- Of channel `c` only bank `b` and what `t` tells apart in `ch` has changed. -/
abbrev onlyBank (s t : State) (c b : Nat) (ch : Channel) : Prop :=
  t = { s with chans := t.chans, mg := t.mg } ∧ onlyAlerts s t ∧ (∀ k, k ≠ c → t.chan k = s.chan k) ∧ (∀ k, k ≠ b → (t.chan c).bank k = (s.chan c).bank k)
    ∧ t.chan c = { ch with banks := (t.chan c).banks }

/-- Of every channel nothing but whether the condition of its owner's WAIT still holds has changed (13 R345). -/
abbrev onlyWaits (s t : State) : Prop :=
  ∀ k, t.chan k = { s.chan k with pwr := { (s.chan k).pwr with dom := { (s.chan k).pwr.dom with waiting := (t.chan k).pwr.dom.waiting } } }

/-- A host WRITE of a register of the port's own windows has reached it. -/
abbrev wrotePort (s t : State) : Prop := t.port.armedAt = none ∧ t.port.lastStatus = .ok ∧ t.chans = s.chans ∧ t.slices = s.slices ∧ t.mem = s.mem

/-- The entries of the outstanding requests of channel `c`'s lane group that wait for request `id` have their answer. -/
abbrev replied (s t : State) (c id : Nat) (st : Status) (data : List Byte) (check : W32) : Prop :=
  (t.group (groupOf c)).out = (s.group (groupOf c)).out.map (fun o => if o.id = id ∧ o.status = none then { o with status := some st, data := data, check := check } else o)

/-! ## The link and the port switch (03, 04) -/

/-- Group `g` has begun to train anew, and the logical groups it carries have lost what was pending (03 R98). -/
abbrev retrained (s t : State) (g : Nat) : Prop :=
  (t.group g).state = .train ∧ (t.group g).tphase = .detect ∧ (t.group g).remap = false ∧ (t.group g).lostRun = 0
    ∧ (t.group g).retrains = (if (s.group g).state = .active ∨ (s.group g).state = .standby then satInc (s.group g).retrains 0xFF else (s.group g).retrains)
    ∧ ∀ l ∈ s.carries g, (t.group l).echoes = [] ∧ (t.group l).out = [] ∧ (t.group l).placed = []

/-- Of the link only group `g` has changed, and nothing else of the machine but alerts. -/
abbrev onlyGroup (s t : State) (g : Nat) : Prop :=
  t = { s with link := t.link, mg := t.mg } ∧ onlyAlerts s t ∧ t.link = { s.link with groups := t.link.groups } ∧ ∀ k, k ≠ g → t.group k = s.group k

/-- A request of the flit at `t` can be parsed: its unit lies in the flit, its response has a position, its channel is on the group (03 R86, R88). -/
abbrev parses (s : State) (g t : Nat) (x : Target) (units : Nat) : Prop := s.unitAt g t + units ≤ 16 ∧ s.rightGroup g x = true

/-- The fields echoed for the flit at `t` have grown by `fs` (03 R89). -/
abbrev echoes (s t : State) (g time : Nat) (fs : List (BitVec 4)) : Prop := (t.group g).echoes = echoAdd (s.group g).echoes time fs

/-- A READ or PFENCE has joined the outstanding requests of its group, with its status if that is known (04 R121). -/
abbrev outstanding (s t : State) (g time : Nat) (tag : W16) (st : Option Status) : Prop :=
  ∃ o, (t.group g).out = (s.group g).out ++ [o] ∧ o.id = s.port.nextId ∧ o.t = time ∧ o.tag = tag ∧ o.status = st
    ∧ o.rank = ((s.group g).out.filter (fun o => o.t = time)).length ∧ t.port.nextId = s.port.nextId + 1

/-- How far position `a` lies beyond `b`, modulo `n` (05 R148). -/
def ahead (a b n : Nat) : Nat := (((a : Int) - b) % (n : Int)).toNat

/-- The other context records of channel `c` stand as before. -/
abbrev otherRecords (s t : State) (c r : Nat) : Prop := ∀ q, q ≠ r → t.ctx c q = s.ctx c q

/-- The bytes of a completion record (05 Table 8). -/
def completionBytes (tag status typ cause summary position count sl engine detail phase time : Nat) : List Byte :=
  leBytes 4 tag ++ leBytes 4 (status + 8 * phase + 16 * typ + 2 ^ 8 * cause + 2 ^ 16 * summary)
    ++ leBytes 8 (position + 2 ^ 16 * (count % 65536) + 2 ^ 32 * sl + 2 ^ 52 * engine) ++ leBytes 8 detail ++ leBytes 8 time

/-- Detail of a record without a fault: the generation for a CAST_ON (05 Table 8). -/
def genDetail (x : Ctx) (typ : Nat) : Nat := if typ = 1 then x.gen.toNat else 0

/-- Channel `c`'s command buffer has gained a completion record of context record `r` at its cq_tail, which has advanced (05 R148, R160). -/
abbrev recorded (s t : State) (c r : Nat) (tag status typ cause summary position count sl engine detail : Nat) : Prop :=
  let x := s.ctx c r
  (t.chan c).cmdBuf = wrL (s.chan c).cmdBuf ((x.cqBase + x.cqTail % x.cqEntries) % 2048 * 32)
      (completionBytes tag status typ cause summary position count sl engine detail (if x.cqTail < x.cqEntries then 1 else 0) s.cycles)
    ∧ (t.ctx c r).cqTail = (x.cqTail + 1) % (2 * x.cqEntries)

/-! ## Power and reset (13, 16, 17) -/

/-- The domains other than `d` stand as before. -/
abbrev otherDoms (s t : State) (d : Domain) : Prop := ∀ k, k ≠ d → t.dom k = s.dom k

/-- Registers and buffers of every domain but AON are as reset leaves them; what fuses, MRAM and the AON domain hold stays (16 R404, 17 R432). -/
abbrev forgotten (s t : State) : Prop :=
  t.chans = [] ∧ t.slices = [] ∧ t.link = .zero ∧ t.port = .zero ∧ t.ledger = .zero ∧ t.hsync = [] ∧ t.syncQ = [] ∧ t.msgQ = [] ∧ t.sc = .zero ∧ t.refCount = 0
    ∧ t.master = 0 ∧ t.fuses = s.fuses ∧ t.mram = s.mram ∧ t.pending = s.pending ∧ t.mg.errLog = [] ∧ t.mg.trace = [] ∧ t.mg.boot.slot = [] ∧ t.mg.alert = 0

/-- MG_RESET_CAUSE, MG_THERM_TRIP and the straps stand. -/
abbrev aonKept (s t : State) : Prop :=
  t.mg.boot.por = s.mg.boot.por ∧ t.mg.boot.warm = s.mg.boot.warm ∧ t.mg.boot.recover = s.mg.boot.recover ∧ t.mg.boot.watchdog = s.mg.boot.watchdog
    ∧ t.mg.boot.afterTrip = s.mg.boot.afterTrip ∧ t.mg.boot.wdExpiries = s.mg.boot.wdExpiries ∧ t.mg.boot.straps = s.mg.boot.straps
    ∧ t.mg.tripSensor = s.mg.tripSensor

/-! ## Commands of contexts (05) -/

/-- A command read whole stands before dispatch, nothing holds it there, and the banks of what its dispatch reads serve it (05 R152, R155; 02 R50). -/
abbrev mayDispatch (s : State) (c : Chan) (r : Rec) (f : Fetched) : Prop :=
  let ch := s.chan c
  let x := ch.ctx r
  x.fetched = some f ∧ f.torn = false ∧ f.pos = x.cons ∧ ch.runs = true ∧ x.dispatches = true ∧ x.inflight.length < 64 ∧ ch.hasEntry r = true
    ∧ x.inflight.any Cmd.barrier = false ∧ x.found.contains f.pos = false ∧ formatType f.raw ≠ some .abort ∧ x.awaitsSummary f.raw = false
    ∧ s.banksServe (s.readsAt c r f.raw) = true

/-- The state in which dispatch decides: the banks have served what it reads. -/
def atVerdict (s : State) (c : Chan) (r : Rec) (f : Fetched) : State := s.touch (s.readsAt c r f.raw) []

/-- Commands in flight once a long wait of their context has ended (13 R363). -/
def afterWait (x : Ctx) : List Cmd := if x.longWait then x.inflight.map (fun m => { m with lent := 0 }) else x.inflight

/-- Where a command that ends FAULT leaves its context (05 R142, R147). -/
def haltedBy (st : CtxState) : CtxState := if st = .active ∨ st = .slack then .halted else st

/-- Of channel `c` only record `r`'s command `pos` has changed, and alerts. -/
abbrev onlyCmd (s t : State) (c : Chan) (r : Rec) (pos : Nat) : Prop :=
  onlyChan s t c ∧ otherRecords s t c r ∧ t.chan c = { s.chan c with ctxs := (t.chan c).ctxs }
    ∧ t.ctx c r = { s.ctx c r with inflight := (t.ctx c r).inflight } ∧ ∀ q, q ≠ pos → t.cmd c r q = s.cmd c r q

/-! ## Work on slices (05 R158, 09) -/

/-- Memory after writes in order: address and bytes. -/
def applied (m : Memory) (ws : List (Nat × List Byte)) : Memory := ws.foldl (fun m e => wrL m e.1 e.2) m

/-- The block of every byte written may be written in part: it is module-owned and passes verification (04 R119, 12 R328). -/
abbrev writable_ (s : State) (ws : List (Nat × List Byte)) : Prop :=
  ∀ e ∈ ws, ∀ i, i < e.2.length → s.hostOwned ((e.1 + i) / 64) = false ∧ s.failing ((e.1 + i) / 64) = false

/-- The block of every byte read passes verification (12 R326). -/
abbrev readable (s : State) (a n : Nat) : Prop := ∀ i, i < n → s.failing ((a + i) / 64) = false

/-- No payload of the command, or of a slice that works for it, has been asked for again (12 R334). -/
abbrev settled (s : State) (c : Chan) (r : Rec) (pos : CmdNo) (sls : List SliceId) : Prop :=
  ∀ e ∈ s.chans, ∀ q ∈ e.2.chk.resend, q.2 ≠ .command c r pos ∧ ∀ sl ∈ sls, ∀ k, q.2 ≠ .slice sl k

/-- A command of the given type in flight whose slices, all still to do, have come to it and stand on banks that can begin. -/
abbrev atTurn (s : State) (c : Chan) (r : Rec) (pos : CmdNo) (m : Cmd) (ty : CmdType) : Prop :=
  s.cmd c r pos = some m ∧ m.typ = ty ∧ sound m ∧ m.hash = none ∧ m.running = [] ∧ m.stopped = [] ∧ m.todo.Nodup ∧ settled s c r pos m.todo
    ∧ ∀ sl ∈ m.todo, s.turn sl r pos = true

/-- Every slice's part of the command is done: the command has finished. -/
abbrev finishedAll (t : State) (c : Chan) (r : Rec) (pos : CmdNo) (m : Cmd) : Prop :=
  ∃ k, t.cmd c r pos = some k ∧ k.phase = .finished ∧ k.todo = [] ∧ k.finished = m.finished ++ m.todo.map (fun sl => (sl, 0))

/-- Points a copy's performer moves, as writes, read from the state: pad points in the pad value when write_pad asks for them (09 R252, R253). -/
def copied (s : State) (d : CopyD) (p : Perf) (first n : Nat) : List (Nat × List Byte) :=
  (upFrom first n).filterMap (fun k => match d.point p k with
    | (a, some b) => some (a, rdN (if d.src.scr then (s.slice p.sl).scratch else s.mem) b d.src.w)
    | (a, none) => if d.writePad then some (a, fillBytes d.padValue d.dst.w) else none)

/-- Accesses that these writes are. -/
def accessesOf (ws : List (Nat × List Byte)) : List (Nat × Nat) := ws.map (fun e => (e.1, e.2.length))

/-- Every source byte of those points in data space passes verification. -/
abbrev sourcesRead (s : State) (d : CopyD) (p : Perf) (first n : Nat) : Prop :=
  d.src.scr = false → ∀ k, first ≤ k → k < first + n → ∀ b, (d.point p k).2 = some b → readable s b d.src.w

end Sys2Proof.Machine
end

