-- ==== Sys2Proof/Certificates/Slice0/Obligations.lean ====
section
/-! DEFINITION. Statements for the provers, family by family. -/

open Sys2Proof Sys2Proof.Machine

/-! ## Slices: the control core, semaphores, jumps (06) -/

/-- 06 R188, Table 8: results of the operations of CX that write one address register.
06 R188, Table 8: CX.CMP writes 1 when the condition holds of the operands and 0 otherwise. -/
def Obligations.ControlCoreResults : Prop :=
  (∀ (s : State) (sl : SliceId) (d a b c : AReg) (i16 : W16) (i5 : BitVec 5) (i32 : W32) (w : Fin 64), issues s sl .cx →
    let x := s.slice sl
    let set := setsAr s sl d
    set i32 (exec (.cxLi sl d i32) s)
    ∧ set (x.ar a + x.ar b) (exec (.cxAdd sl d a (.reg b)) s) ∧ set (x.ar a + i16.signExtend 32) (exec (.cxAdd sl d a (.imm i16)) s)
    ∧ set (x.ar a - x.ar b) (exec (.cxSub sl d a (.reg b)) s) ∧ set (x.ar a - i16.signExtend 32) (exec (.cxSub sl d a (.imm i16)) s)
    ∧ set (x.ar a <<< ((x.ar b).toNat % 32)) (exec (.cxShl sl d a (.reg b)) s) ∧ set (x.ar a <<< i5.toNat) (exec (.cxShl sl d a (.imm i5)) s)
    ∧ set (x.ar a >>> ((x.ar b).toNat % 32)) (exec (.cxShr sl d a (.reg b)) s) ∧ set (x.ar a >>> i5.toNat) (exec (.cxShr sl d a (.imm i5)) s)
    ∧ set ((x.ar a).sshiftRight ((x.ar b).toNat % 32)) (exec (.cxSar sl d a (.reg b)) s) ∧ set ((x.ar a).sshiftRight i5.toNat) (exec (.cxSar sl d a (.imm i5)) s)
    ∧ set (if x.ar c ≠ 0 then x.ar a else x.ar b) (exec (.cxSel sl d c a b) s)
    ∧ set (x.skeinW w.val) (exec (.cxLdp sl d w) s)
    ∧ set (sl.setWidth 32) (exec (.cxId sl d) s))
  ∧ (∀ (s : State) (sl : SliceId) (d a b : AReg) (i : W16), issues s sl .cx →
    let x := s.slice sl
    let cmp (cond : CxCond) (p : W32 → W32 → Bool) : Prop :=
      setsAr s sl d (if p (x.ar a) (x.ar b) then 1 else 0) (exec (.cxCmp sl cond d a (.reg b)) s)
        ∧ setsAr s sl d (if p (x.ar a) (i.signExtend 32) then 1 else 0) (exec (.cxCmp sl cond d a (.imm i)) s)
    cmp .eq (fun u v => u.toNat == v.toNat) ∧ cmp .ne (fun u v => u.toNat != v.toNat)
    ∧ cmp .ltu (fun u v => u.toNat < v.toNat) ∧ cmp .geu (fun u v => v.toNat ≤ u.toNat)
    ∧ cmp .lts (fun u v => u.toInt < v.toInt) ∧ cmp .ges (fun u v => v.toInt ≤ u.toInt))

/-- 06 R175, R182, R188, R195: CX.STP writes a skein word, CX.SUMSET one summary bit, and NOP, FENCE.ENGINE and FENCE.SLICE change nothing
but their engine; a fence waits while a message that BX.SEND sent is on its way (each other operation performs its writes in its own step, log 1).
06 R188, R191: jumps and branches go to the operation's own address plus the offset, and the queue behind them is dropped; one not taken retires. -/
def Obligations.StateWritesAndJumps : Prop :=
  (∀ (s : State) (sl : SliceId) (w : Fin 64) (bit : Fin 16) (a : AReg),
    (issues s sl .cx → retires s sl .cx (fun x => { x with skein := tput x.skein w.val (x.ar a) }) (exec (.cxStp sl w a) s))
    ∧ (issues s sl .cx → ran (exec (.cxSumset sl bit a) s) fun t => onlySlice s t sl ∧ advanced s t sl .cx
        ∧ (∀ k : Fin 16, (t.slice sl).summary.getLsbD k.val = if k = bit then decide ((s.slice sl).ar a ≠ 0) else (s.slice sl).summary.getLsbD k.val)
        ∧ t.slice sl = { s.slice sl with summary := (t.slice sl).summary, engines := (t.slice sl).engines, perf := (t.slice sl).perf,
                                         perfSat := (t.slice sl).perfSat, stepping := false })
    ∧ ∀ e, issues s sl e → retires s sl e id (exec (.nop sl e) s)
      ∧ ((e = .bx → ¬ sending s sl) → retires s sl e id (exec (.fenceEngine sl e) s)) ∧ (¬ sending s sl → retires s sl e id (exec (.fenceSlice sl e) s))
      ∧ (sending s sl → unchanged (exec (.fenceSlice sl e) s) s ∧ (e = .bx → unchanged (exec (.fenceEngine sl e) s) s)))
  ∧ (∀ (s : State) (sl : SliceId) (e : Engine) (a : AReg) (off : Int), issues s sl e →
    (e ≠ .cx → jumps s sl e off (exec (.jmp sl e off) s)
      ∧ (arAtIssue s sl e a ≠ 0 → jumps s sl e off (exec (.brar sl e a off) s))
      ∧ (arAtIssue s sl e a = 0 → retires s sl e id (exec (.brar sl e a off) s)))
    ∧ (e = .cx → jumps s sl .cx off (exec (.cxBr sl .always off) s)
      ∧ (((s.slice sl).ar a).toNat = 0 → jumps s sl .cx off (exec (.cxBr sl (.zero a) off) s) ∧ retires s sl .cx id (exec (.cxBr sl (.nonzero a) off) s))
      ∧ (((s.slice sl).ar a).toNat ≠ 0 → jumps s sl .cx off (exec (.cxBr sl (.nonzero a) off) s) ∧ retires s sl .cx id (exec (.cxBr sl (.zero a) off) s))))

/-- 06 R192: SEM.SIG adds and waits while the sum would exceed 255; SEM.WAIT waits until the count is at least n and no engine earlier in the
order MX, VX, BX, CX is to be released first, then subtracts.
06 R189: CX.SUMPOP pops the oldest entry into ar[d] to ar[d + 4], lowers semaphore 15 and raises semaphore 14; with semaphore 15 at 0, or 14
at 255, it waits. -/
def Obligations.SemaphoresAndSummaries : Prop :=
  (∀ (s : State) (sl : SliceId) (e : Engine) (k : Fin 16) (n : Fin 256), issues s sl e → n ≠ 0 →
    let c := (s.slice sl).sem k.val
    (c + n.val ≤ 255 → retires s sl e (fun x => { x with sems := tput x.sems k.val (c + n.val) }) (exec (.semSig sl e k n) s))
    ∧ (255 < c + n.val → ran (exec (.semSig sl e k n) s) fun t => (t.slice sl).sem k.val = c ∧ ((t.slice sl).eng e).state = .semWait
        ∧ ((t.slice sl).eng e).queue = ((s.slice sl).eng e).queue ∧ onlySlice s t sl)
    ∧ (n.val ≤ c → ¬ earlierReleased s sl e k.val → retires s sl e (fun x => { x with sems := tput x.sems k.val (c - n.val) }) (exec (.semWait sl e k n) s))
    ∧ (c < n.val ∨ earlierReleased s sl e k.val → waitsSem s sl e k n.val (exec (.semWait sl e k n) s)))
  ∧ (∀ (s : State) (sl : SliceId) (d : AReg) (en : SumEntry) (rest : List SumEntry), issues s sl .cx → 1 ≤ d.val → d.val ≤ 27 →
    let x := s.slice sl
    (1 ≤ x.sem 15 → x.sem 14 < 255 → ¬ earlierReleased s sl .cx 15 → x.sumQ = en :: rest →
      ran (exec (.cxSumpop sl d) s) fun t => advanced s t sl .cx
        ∧ (t.slice sl).ar d = en.sum ∧ (t.slice sl).ar (Fin.ofNat 32 (d.val + 1)) = en.max ∧ (t.slice sl).ar (Fin.ofNat 32 (d.val + 2)) = en.nonzero
        ∧ (t.slice sl).ar (Fin.ofNat 32 (d.val + 3)) = en.nans ∧ (t.slice sl).ar (Fin.ofNat 32 (d.val + 4)) = en.flags
        ∧ (∀ n, n.val < d.val ∨ d.val + 4 < n.val → (t.slice sl).ar n = x.ar n)
        ∧ (t.slice sl).sumQ = rest ∧ (t.slice sl).sem 15 = x.sem 15 - 1 ∧ (t.slice sl).sem 14 = x.sem 14 + 1
        ∧ (∀ k, k ≠ 14 → k ≠ 15 → (t.slice sl).sem k = x.sem k)
        ∧ t.mem = s.mem ∧ t.chans = s.chans ∧ ∀ k, k ≠ sl → t.slice k = s.slice k)
    ∧ (x.sem 15 = 0 ∨ 255 ≤ x.sem 14 → ran (exec (.cxSumpop sl d) s) fun t => ((t.slice sl).eng .cx).state = .semWait ∧ (∀ n, (t.slice sl).ar n = x.ar n) ∧ (t.slice sl).sumQ = x.sumQ))

/-- 06 R175: END ends its engine's program, and the LAYER finishes on the slice once no other engine has one: the slice reports to its command,
with its summary bits, and is free of the LAYER; BX drains first while a message it sent is on its way. -/
def Obligations.EndOfCode : Prop :=
  ∀ (s : State) (sl : SliceId) (e : Engine) (l : LayerRun), issues s sl e → (s.slice sl).layer = some l →
    (e = .bx → sending s sl → ran (exec (.endOp sl e) s) fun t => onlySlice s t sl ∧ othersStand s t sl e ∧ ((t.slice sl).eng e).state = .draining
        ∧ ((t.slice sl).eng e).active = true ∧ ((t.slice sl).eng e).pc = ((s.slice sl).eng e).pc ∧ (t.slice sl).layer = some l)
    ∧ ((e = .bx → ¬ sending s sl) → (∃ k, k ≠ e ∧ ((s.slice sl).eng k).active = true) → ran (exec (.endOp sl e) s) fun t => onlySlice s t sl ∧ othersStand s t sl e
        ∧ ((t.slice sl).eng e).active = false ∧ ((t.slice sl).eng e).state = .idle ∧ (t.slice sl).layer = some l)
    ∧ ((e = .bx → ¬ sending s sl) → (∀ k, k ≠ e → ((s.slice sl).eng k).active = false) → ran (exec (.endOp sl e) s) fun t =>
        ((t.slice sl).eng e).active = false ∧ (t.slice sl).layer = none ∧ t.mem = s.mem ∧ (t.slice sl).scratch = (s.slice sl).scratch
        ∧ ∀ m, s.cmd (slChan sl) l.record.val l.pos = some m → ∃ m', t.cmd (slChan sl) l.record.val l.pos = some m'
            ∧ m'.running = m.running.filter (· ≠ sl) ∧ m'.finished = m.finished ++ [(sl, (s.slice sl).summary)]
            ∧ (m.todo = [] → m.running.filter (· ≠ sl) = [] → m.stopped = [] → m.fault = none → m'.phase = .finished))

/-- 06 R173, R178, R180: the fetch unit queues the operations of a held line for the engine whose turn it is; a line not held is missed, and in a
strict context one not pinned faults the engine. The line a miss asked for is held once the code store answers.
06 R172, R178, R179: a missed line is held once the code store answers it, unless its page is mapped no longer, and a performance clear sets the counters and their sat bits to 0. -/
def Obligations.FetchAndCache : Prop :=
  (∀ (s : State) (sl : SliceId) (e : Engine) (l : LayerRun) (lens : List Nat),
    let x := s.slice sl
    let g := x.eng e
    let inRange (ln : Nat) : Prop := g.fetchAt / 64 ≤ ln ∧ ln ≤ (g.fetchAt + lens.sum - 1) / 64
    x.layer = some l → x.stopReq = false → x.heldByDebug = false → x.fetchTurn = some (engIx e) → g.lo ≤ g.pc.toNat → g.pc.toNat < g.hi →
    lens ≠ [] → (∀ n ∈ lens, 1 ≤ n) → lens.sum ≤ 64 → g.queue.length + lens.length ≤ 16 →
      ((∀ ln, inRange ln → x.holds ln = true ∧ (l.strict = true → ∃ k ∈ x.icache, k.line = ln ∧ k.pinned = true)) →
        ran (exec (.fetch sl e lens none) s) fun t => ((t.slice sl).eng e) = { g with queue := g.queue ++ lens } ∧ othersStand s t sl e ∧ onlySlice s t sl)
      ∧ (l.strict = false → (∃ ln, inRange ln ∧ x.holds ln = false) →
        ran (exec (.fetch sl e lens none) s) fun t => (∃ ln, inRange ln ∧ x.holds ln = false ∧ ((t.slice sl).eng e).miss = some ln)
          ∧ ((t.slice sl).eng e).queue = g.queue ∧ onlySlice s t sl)
      ∧ (l.strict = true → (∃ ln, inRange ln ∧ ¬ ∃ k ∈ x.icache, k.line = ln ∧ k.pinned = true) →
        ran (exec (.fetch sl e lens none) s) fun t => ((t.slice sl).eng e).state = .faulted ∧ (t.slice sl).stopReq = true ∧ t.mem = s.mem))
  ∧ (∀ (s : State) (sl : SliceId) (e : Engine) (ln : Nat),
    (((s.slice sl).eng e).miss = some ln → ran (exec (.icacheMissReturn sl e) s) fun t =>
      ((s.chan (slChan sl)).mapped (ln / 64) = true → (t.slice sl).holds ln = true)
        ∧ ((s.chan (slChan sl)).mapped (ln / 64) = false → (t.slice sl).icache = (s.slice sl).icache) ∧ ((t.slice sl).eng e).miss = none ∧ ((t.slice sl).eng e).queue = ((s.slice sl).eng e).queue
        ∧ othersStand s t sl e ∧ onlySlice s t sl)
    ∧ ran (exec (.perfClear sl) s) fun t => (∀ j, tget (t.slice sl).perf j 0 = 0) ∧ (t.slice sl).perfSat = 0 ∧ onlySlice s t sl
        ∧ t.slice sl = { s.slice sl with perf := [], perfSat := 0 })

/-! ## Contexts and commands (05) -/

/-- 05 R146, R150: a write of CH_DB_PROD sets prod, is without effect when it names the current prod, or is discarded as an overrun.
05 R146, R152: CH_DB_RING and CH_DB_CQ store while the record is FREE and ignore writes otherwise; CH_DB_CQ_HEAD returns entries, and a write that
would return more than there are is discarded as an overrun. -/
def Obligations.DoorbellRegisters : Prop :=
  (∀ (s : State) (c : Chan) (r : Rec) (v : W32), s.winReached (.chan c) = true → s.winStatus (.chan c) = .ok →
    let x := s.ctx c r
    let p := v.toNat % 4096
    let n := 2 * x.ringSlots
    let bad := x.ringSlots < 2 ∨ 2048 < x.ringSlots ∨ n ≤ p ∨ x.ringSlots < ahead p x.cons n ∨ ahead p x.cons n < ahead x.prod x.cons n
    (p = x.prod → ran (exec (.doorbell c r v) s) fun t => wroteChan s t c ∧ t.chan c = s.chan c)
    ∧ (p ≠ x.prod → bad → ran (exec (.doorbell c r v) s) fun t => wroteChan s t c ∧ otherRecords s t c r
        ∧ t.ctx c r = { x with overruns := satInc x.overruns 0xFFFF, lastCause := 0x11 })
    ∧ (p ≠ x.prod → ¬ bad → ran (exec (.doorbell c r v) s) fun t => wroteChan s t c ∧ otherRecords s t c r
        ∧ t.ctx c r = { x with prod := p, covers := (t.ctx c r).covers, watchdogStart := (t.ctx c r).watchdogStart,
                               scan := (t.ctx c r).scan, found := (t.ctx c r).found, tornScan := (t.ctx c r).tornScan }))
  ∧ (∀ (s : State) (c : Chan) (r : Rec) (v : W32), s.winReached (.chan c) = true → s.winStatus (.chan c) = .ok →
    let x := s.ctx c r
    let h := v.toNat % 2048
    (x.state = .free → x.inflight = [] →
      (ran (exec (.dbRingWrite c r v) s) fun t => wroteChan s t c ∧ otherRecords s t c r ∧ (t.ctx c r).ringBase = v.toNat % 2048
        ∧ (t.ctx c r).ringSlots = v.toNat / 4096 % 4096 ∧ (t.ctx c r).prod = x.prod ∧ (t.ctx c r).cons = x.cons)
      ∧ ran (exec (.dbCqWrite c r v) s) fun t => wroteChan s t c ∧ otherRecords s t c r
        ∧ t.ctx c r = { x with cqBase := v.toNat % 2048, cqEntries := v.toNat / 4096 % 2048 })
    ∧ (x.state ≠ .free →
      (ran (exec (.dbRingWrite c r v) s) fun t => wroteChan s t c ∧ t.ctx c r = x) ∧ ran (exec (.dbCqWrite c r v) s) fun t => wroteChan s t c ∧ t.ctx c r = x)
    ∧ (2 ≤ x.cqEntries → x.cqEntries ≤ 1024 →
      (h < 2 * x.cqEntries → ahead x.cqTail h (2 * x.cqEntries) ≤ x.cqEntries →
        ran (exec (.cqHeadWrite c r v) s) fun t => wroteChan s t c ∧ otherRecords s t c r ∧ t.ctx c r = { x with cqHead := h })
      ∧ (h < 2 * x.cqEntries → x.cqEntries < ahead x.cqTail h (2 * x.cqEntries) →
        ran (exec (.cqHeadWrite c r v) s) fun t => wroteChan s t c ∧ (t.ctx c r).cqHead = x.cqHead
          ∧ (t.ctx c r).overruns = satInc x.overruns 0xFFFF ∧ (t.ctx c r).lastCause = 0x11))
    ∧ ran (exec (.codeBusyClear c) s) fun t => wroteChan s t c ∧ t.chan c = { s.chan c with codeBusy := 0, codeLast := 0 })

/-- 05 R148, R149, R151: the sequencer reads a command whose positions are announced, slot by slot around the ring, and finds it torn when its phase
bit is not the lap bit of its last position or its tag copy differs from its header tag.
05 R151, R161: a command still torn 2 µs after its first read, or torn at all while STRICT is set, ends FAULT with TORN_COMMAND: it is recorded with
the tag its header held, counted, passed over, and leaves its context HALTED; it writes no flag and does nothing else. -/
def Obligations.CommandReading : Prop :=
  (∀ (s : State) (c : Chan) (r : Rec),
    let ch := s.chan c
    let x := ch.ctx r
    let slot (p : Nat) : List Byte := rdN ch.cmdBuf ((x.ringBase + p % (2 * x.ringSlots) % x.ringSlots) % 2048 * 32) 32
    let z := max 2 (min 9 (leNat ((slot x.cons).take 8) / 16 % 16))
    let raw := (List.range z).flatMap (fun i => slot (x.cons + i))
    let phase := leNat (raw.drop (32 * z - 8))
    let torn := phase % 2 ≠ (if (x.cons + z - 1) % (2 * x.ringSlots) < x.ringSlots then 1 else 0) ∨ phase / 2 ^ 32 ≠ leNat ((raw.drop 4).take 4)
    ch.runs = true → x.dispatches = true → 2 ≤ x.ringSlots → x.ringSlots ≤ 2048 → x.cons < 2 * x.ringSlots → z ≤ ahead x.prod x.cons (2 * x.ringSlots) →
    (∀ i ∈ x.covers, i ∉ ch.pendingWrites) → x.ended.contains x.cons = false → x.tornScan = none →
      (x.fetched = none → ran (exec (.commandRead c r none) s) fun t => onlyChan s t c ∧ otherRecords s t c r ∧ (t.ctx c r).cons = x.cons
        ∧ (t.ctx c r).inflight = x.inflight ∧ ∃ f, (t.ctx c r).fetched = some f ∧ f.raw = raw ∧ f.pos = x.cons ∧ f.firstRead = s.refCount ∧ (f.torn = true ↔ torn))
      ∧ ∀ f, x.fetched = some f → f.torn = true → s.port.strict = false → s.refCount < f.firstRead + usRef 2 →
        ran (exec (.tornReread c r none) s) fun t => onlyChan s t c ∧ otherRecords s t c r ∧ (t.ctx c r).cons = x.cons
          ∧ ∃ g, (t.ctx c r).fetched = some g ∧ g.raw = raw ∧ g.pos = f.pos ∧ g.firstRead = f.firstRead ∧ (g.torn = true ↔ torn))
  ∧ (∀ (s : State) (c : Chan) (r : Rec) (f : Fetched),
    let x := s.ctx c r
    x.fetched = some f → f.torn = true → (s.port.strict = true ∨ f.firstRead + usRef 2 ≤ s.refCount) → x.dispatches = true → (s.chan c).runs = true →
    2 ≤ x.cqFree → (x.state ≠ .free ∨ (s.chan c).cqPlaced r = true) → 
      ran (exec (.tornCommand c r) s) fun t =>
        recorded s t c r (leAt f.raw 4 4) 4 (leAt f.raw 0 8 % 16) 0x10 0 f.pos 0 0 0 (genDetail x (leAt f.raw 0 8 % 16)) ∧ (t.ctx c r).torn = satInc x.torn 0xFFFF
        ∧ (t.ctx c r).state = haltedBy x.state ∧ (t.ctx c r).lastCause = 0x10 ∧ (t.ctx c r).cons = (x.cons + f.raw.length / 32) % (2 * x.ringSlots)
        ∧ (t.ctx c r).inflight = x.inflight ∧ t.mem = s.mem ∧ t.slices = s.slices ∧ otherRecords s t c r ∧ ∀ k, k ≠ c.val → t.chan k = s.chan k)

/-- 05 R155 to R157, R160, R161: what dispatch decides about a command. One admitted with budget to spare goes in flight, each selected slice given its
work; one refused under rules 1 to 10 is recorded FAULT and does nothing else; one whose predicate is false is recorded DONE_SKIPPED.
05 R143, R145, R158: CAST_ON makes the record ACTIVE with what its body fixes and a new generation. BIND_OFF, once it is the oldest in flight, releases
the slice set, the translations and the pages, and clears the slices no other context holds. -/
def Obligations.DispatchAndContexts : Prop :=
  (∀ (s : State) (c : Chan) (r : Rec) (f : Fetched), mayDispatch s c r f →
    let x := s.ctx c r
    let typ := leAt f.raw 0 8 % 16
    let passed (t : State) : Prop := (t.ctx c r).cons = (x.cons + f.raw.length / 32) % (2 * x.ringSlots) ∧ (t.ctx c r).fetched = none
    let u := atVerdict s c r f
    (∀ ty desc prov, u.verdict c r f.raw = .accept ty desc prov → s.charged c + s.classMw (powerClass f.raw) ≤ s.effective c →
      (∀ sl ∈ workSlices c ty f.raw, u.bankOn sl = true) →
      ran (exec (.dispatch c r none) s) fun t => passed t ∧ t.mem = s.mem ∧ otherRecords s t c r
        ∧ ∃ m, (t.ctx c r).inflight = afterWait x ++ [m] ∧ m.typ = ty ∧ m.tag = cmdTag f.raw ∧ m.raw = f.raw ∧ m.ring = f.pos ∧ sound m
          ∧ (t.ctx c r).state = (if ty = .bindOff then .binding else if ty = .castOn then x.state else .active)
          ∧ ((ty = .layer ∨ ty = .patch ∨ ty = .copy ∨ ty = .fill ∨ ty = .gather) → m.todo = selSlices c (cmdSel f.raw)
            ∧ ∀ sl ∈ m.todo, ⟨r, m.pos⟩ ∈ (t.slice sl).work)
          ∧ (x.longWait = false → t.charged c = s.charged c + s.classMw (powerClass f.raw)))
    ∧ (∀ k, u.verdict c r f.raw = .refuse k → 1 ≤ k → k ≤ 10 → (x.state ≠ .free ∨ (s.chan c).cqPlaced r = true) → 2 ≤ x.cqEntries →
      ran (exec (.dispatch c r none) s) fun t => passed t ∧ recorded s t c r (cmdTag f.raw).toNat 4 typ k 0 f.pos 0 0 0 (genDetail x typ)
        ∧ (t.ctx c r).state = haltedBy x.state ∧ (t.ctx c r).lastCause = BitVec.ofNat 8 k ∧ (t.ctx c r).inflight = x.inflight ∧ t.mem = s.mem ∧ t.slices = s.slices)
    ∧ (u.verdict c r f.raw = .skip → x.state ≠ .free → 2 ≤ x.cqEntries →
      ran (exec (.dispatch c r none) s) fun t => passed t ∧ recorded s t c r (cmdTag f.raw).toNat 1 typ 0 0 f.pos 0 0 0 (genDetail x typ)
        ∧ (t.ctx c r).state = (if x.state = .slack then .active else x.state) ∧ (t.ctx c r).inflight = x.inflight ∧ t.slices = s.slices))
  ∧ (∀ (s : State) (c : Chan) (r : Rec) (m : Cmd) (rest : List Cmd),
    let x := s.ctx c r
    (x.inflight = [m] → m.typ = .castOn → m.phase = .dispatched → ran (exec (.castOn c r) s) fun t =>
      onlyChan s t c ∧ otherRecords s t c r ∧ (t.ctx c r).state = .active ∧ (t.ctx c r).gen = x.gen + 1 ∧ (t.ctx c r).sliceSet = cmdSel m.raw
      ∧ (t.ctx c r).pageFirst = bodyF m.raw 37 32 ∧ (t.ctx c r).pageCount = bodyF m.raw 44 38 ∧ (t.ctx c r).chanFirst = bodyF m.raw 54 48
      ∧ (t.ctx c r).chanCount = bodyF m.raw 62 55 ∧ (t.ctx c r).modFirst = bodyF m.raw 76 64 ∧ (t.ctx c r).modCount = bodyF m.raw 85 77
      ∧ ((t.ctx c r).strict = true ↔ bodyF m.raw 86 86 = 1) ∧ ((t.ctx c r).balance = true ↔ bodyF m.raw 87 87 = 1)
      ∧ (t.ctx c r).overruns = 0 ∧ (t.ctx c r).torn = 0 ∧ (t.ctx c r).lastCause = 0 ∧ (t.cmd c r m.pos).map (·.phase) = some .finished)
    ∧ (x.inflight = m :: rest → m.typ = .bindOff → m.phase = .dispatched → ran (exec (.bindOff c r) s) fun t =>
      (t.ctx c r).sliceSet = 0 ∧ (t.ctx c r).pageCount = 0 ∧ (t.ctx c r).chanCount = 0 ∧ (t.ctx c r).modCount = 0 ∧ otherRecords s t c r
      ∧ t.mem = s.mem ∧ (t.cmd c r m.pos).map (·.phase) = some .finished ∧ (t.ctx c r).state = x.state
      ∧ ∀ sl ∈ selSlices c x.sliceSet, (∀ e ∈ (s.chan c).ctxs, e.1 ≠ r.val → e.2.isFree = false → inSel c e.2.sliceSet sl.toNat = false) →
          (t.slice sl).scratch = [] ∧ (t.slice sl).tiles = [] ∧ (t.slice sl).accs = [] ∧ (t.slice sl).skein = [] ∧ (t.slice sl).ars = []
            ∧ (t.slice sl).mail = [] ∧ (t.slice sl).summary = 0))

/-- 05 R145, R159 to R161: once everything a command made has been performed, its record is written at cq_tail and its flag, when it asks for one, after it;
a fault decides status FAULT and the flag's value tag XOR 0xFFFFFFFF; a BIND_OFF leaves the record FREE with its positions 0. -/
def Obligations.CompletionRecord : Prop :=
  ∀ (s : State) (c : Chan) (r : Rec) (pos : CmdNo) (m : Cmd),
    let x := s.ctx c r
    let flagOk := cflag m.raw = true ∧ s.dataThere (flagAddr m.raw) 4 = true ∧ flagAddr m.raw % 4 = 0 ∧ s.hostOwned (flagAddr m.raw / 64) = false
    x.cmd pos = some m → s.drained c r m.pos = true → (s.chan c).runs = true → m.hash = none → 2 ≤ x.cqEntries → (x.state = .active ∨ x.state = .halted ∨ x.state = .binding) →
      (sound m → m.phase = .finished → m.typ ≠ .bindOff → ran (exec (.completion c r pos) s) fun t =>
        recorded s t c r m.tag.toNat 0 (typeCode m.typ) 0 (if m.typ = .layer then (combined m.finished).toNat else 0) m.ring 0 0 0
          (if m.typ = .castOn then x.gen.toNat else 0) ∧ t.cmd c r pos = none ∧ (t.ctx c r).state = x.state ∧ otherRecords s t c r
        ∧ t.slices = s.slices ∧ (flagOk → t.mem = wrL s.mem (flagAddr m.raw) (leBytes 4 m.tag.toNat)) ∧ (¬ flagOk → t.mem = s.mem))
      ∧ (∀ fi, m.fault = some fi → m.todo = [] → m.running = [] → m.typ ≠ .castOn → m.typ ≠ .bindOff → fi.cause ≠ 0 →
        ran (exec (.completion c r pos) s) fun t =>
        recorded s t c r m.tag.toNat 4 (typeCode m.typ) fi.cause.toNat 0 m.ring 0 fi.slice.toNat (engIx fi.engine) fi.detail.toNat
        ∧ t.cmd c r pos = none ∧ (t.ctx c r).state = haltedBy x.state ∧ (t.ctx c r).lastCause = fi.cause
        ∧ (flagOk → t.mem = wrL s.mem (flagAddr m.raw) (leBytes 4 (m.tag ^^^ 0xFFFFFFFF#32).toNat)) ∧ (¬ flagOk → t.mem = s.mem))
      ∧ (sound m → m.phase = .finished → m.typ = .bindOff → x.inflight = [m] → ran (exec (.completion c r pos) s) fun t =>
        (t.ctx c r).state = .free ∧ (t.ctx c r).prod = 0 ∧ (t.ctx c r).cons = 0 ∧ (t.ctx c r).cqHead = 0 ∧ (t.ctx c r).cqTail = 0 ∧ (t.ctx c r).inflight = []
        ∧ (t.ctx c r).strict = false ∧ otherRecords s t c r)

/-- 05 R160, R190: the summary of a LAYER's record ORs bits 7 to 0 and ANDs bits 15 to 8 of its slices' summaries; no slice makes it 0. -/
def Obligations.CombinedSummary : Prop :=
  ∀ (a : SliceId × W16) (l : List (SliceId × W16)) (k : Nat),
    (k < 8 → ((combined (a :: l)).getLsbD k = true ↔ ∃ e ∈ a :: l, e.2.getLsbD k = true))
    ∧ (8 ≤ k → k < 16 → ((combined (a :: l)).getLsbD k = true ↔ ∀ e ∈ a :: l, e.2.getLsbD k = true))
    ∧ combined [] = 0

/-- 05 R164 to R166, 10 R299: an ABORT found ahead takes the context to ABORTING, drops the commands before it and asks every command in flight to stop, and
one that meets an abort joins it; a context whose work stands still for its watchdog's time is aborted in the same way, but drops nothing.
05 R164 to R166: a stop event enters once every selected slice has answered and one stopped; an aborting context with nothing left reaches SLACK with one
ABORT record, or HALTED with none after a watchdog abort that no ABORT joined. -/
def Obligations.Aborts : Prop :=
  (∀ (s : State) (c : Chan) (r : Rec) (p : Nat) (more : List Nat) (a : AbortSt),
    let u := s.scanHeaders c r
    let x := u.ctx c r
    let raw := ((u.chan c).cmdAt x p).1
    let y := s.ctx c r
    let asked (v t : State) : Prop := ∀ m ∈ (v.ctx c r).inflight, m.fault = none → ∃ k ∈ (t.ctx c r).inflight, k.pos = m.pos ∧ k.stopReq = true
    (x.found = p :: more → (x.state = .active ∨ x.state = .halted ∨ x.state = .slack) → ran (exec (.abort c r) s) fun t =>
      (t.ctx c r).state = .aborting ∧ (t.ctx c r).cons = (p + raw.length / 32) % (2 * x.ringSlots) ∧ (t.ctx c r).found = more ∧ asked u t ∧ t.mem = s.mem
      ∧ ∃ b, (t.ctx c r).abort = some b ∧ b.cause = 0x30 ∧ b.byHost = true ∧ b.firstTag = cmdTag raw ∧ b.lastTag = cmdTag raw ∧ b.lastPos = p ∧ b.number = 1)
    ∧ (x.found = p :: more → x.state = .aborting → x.abort = some a → ran (exec (.abort c r) s) fun t =>
      (t.ctx c r).state = .aborting ∧ (t.ctx c r).cons = (p + raw.length / 32) % (2 * x.ringSlots) ∧ t.mem = s.mem
      ∧ ∃ b, (t.ctx c r).abort = some b ∧ b.cause = a.cause ∧ b.byHost = true ∧ b.lastTag = cmdTag raw ∧ b.lastPos = p ∧ b.number = a.number + 1
        ∧ b.firstTag = (if a.number = 0 then cmdTag raw else a.firstTag))
    ∧ ((y.state = .active ∨ y.state = .halted) → (y.inflight ≠ [] ∨ y.announced ≠ 0) → y.watchdogStart + y.watchdogMs * 156250 ≤ s.refCount → (s.chan c).runs = true →
      ran (exec (.watchdogFire c r) s) fun t => (t.ctx c r).state = .aborting ∧ (t.ctx c r).cons = y.cons ∧ (t.ctx c r).prod = y.prod ∧ asked s t ∧ t.mem = s.mem
      ∧ ∃ b, (t.ctx c r).abort = some b ∧ b.cause = 0x31 ∧ b.byHost = false ∧ b.number = 0))
  ∧ (∀ (s : State) (c : Chan) (r : Rec) (pos : CmdNo) (m : Cmd) (a : AbortSt),
    let x := s.ctx c r
    (x.state = .aborting → s.cmd c r pos = some m → m.pos = pos → m.stopReq = true → m.stopEvent = false → m.fault = none → m.todo = [] → m.running = [] → m.stopped ≠ [] →
      ran (exec (.stopEvent c r pos) s) fun t => onlyCmd s t c r pos ∧ t.cmd c r pos = some { m with stopEvent := true })
    ∧ (x.state = .aborting → x.abort = some a → x.inflight = [] → s.ctxDrained c r = true → a.byHost = true → 2 ≤ x.cqEntries → (∀ raw ∈ a.raws, cflag raw = false) →
      ran (exec (.abortSlack c r) s) fun t => (t.ctx c r).state = .slack ∧ (t.ctx c r).abort = none ∧ otherRecords s t c r ∧ t.mem = s.mem
        ∧ recorded s t c r a.lastTag.toNat 0 11 0 0 a.lastPos a.discarded 0 0 (a.firstTag.toNat + 2 ^ 32 * (a.number % 65536)))
    ∧ (x.state = .aborting → x.abort = some a → x.inflight = [] → s.ctxDrained c r = true → a.byHost = false →
      ran (exec (.abortSlack c r) s) fun t => onlyChan s t c ∧ otherRecords s t c r ∧ t.ctx c r = { x with state := .halted, abort := none }))

/-! ## Work on slices (05 R154, R158; 06 R174 to R176; 09; 10 R297; 11 R318 to R321) -/

/-- 05 R154, 06 R174, R181, R185: LAYER takes its skein words from inline data or memory; a slice that comes to it starts with those words, its engines at the
starts the entry names, its semaphores and queues reset, and the lease of its bank begun under the policy sampled.
05 R158: SIGNAL, once it is the oldest in flight, and WAIT send their operation to the object their virtual ID names; a FENCE completes once it is the oldest,
a FENCE MODULE when the channel's requests beyond it have been performed too; a HINT completes and changes nothing else. -/
def Obligations.LayerStartsAndSequencerCommands : Prop :=
  (∀ (s : State) (c : Chan) (r : Rec) (pos : CmdNo) (m : Cmd) (bs : List Byte) (sl : SliceId) (w : WorkRef) (o : CodeObj),
    let n := bodyF m.raw 57 51
    let x := s.slice sl
    let ch := s.chan (slChan sl)
    let k := s.startSkein m sl
    let l : LayerRun := ⟨w.record, (ch.ctx w.record.val).gen, m.tag, m.pos, (ch.ctx w.record.val).strict, o.fp64, 0, k.headD 0 :: (k.drop 8).take 16⟩
    (s.cmd c r pos = some m → m.typ = .layer → m.phase = .dispatched → sound m → (bodyF m.raw 44 44 = 0 → bs = (inlineData m.raw).take (4 * n)) →
      (bodyF m.raw 44 44 ≠ 0 → s.banksServe [(bodyF m.raw 103 64, 4 * n)] = true ∧ s.seqRead (bodyF m.raw 103 64) (4 * n) = .ok bs) →
      m.todo = workSlices c .layer m.raw → m.running = [] → m.stopped = [] →
      ran (exec (.layer c r pos) s) fun t => otherRecords s t c r ∧ t.mem = s.mem ∧ t.slices = s.slices ∧ (bodyF m.raw 44 44 = 0 → onlyCmd s t c r pos)
        ∧ ∃ ws, t.cmd c r pos = some { m with phase := if m.todo = [] ∧ m.hashed = true then .finished else .executing, skein := ws }
        ∧ ws.length = n ∧ ∀ i, i < n → ws[i]? = some (BitVec.ofNat 32 (leNat ((bs.drop (4 * i)).take 4))))
    ∧ (x.nextWork = some w → s.readyLayer sl w = some m → s.turn sl w.record w.pos = true → ch.layerObj (ch.ctx w.record.val) m.raw = some o → l.queuesOk = true →
      (∃ e, e < 4 ∧ (o.program (bodyF m.raw 43 38) e).isSome = true) →
      ran (exec (.layerStart sl) s) fun t => (t.slice sl).layer = some l ∧ (t.slice sl).bxWait = .none ∧ (t.slice sl).summary = 0 ∧ (t.slice sl).sems = l.sems
        ∧ (∀ e lo hi p, o.program (bodyF m.raw 43 38) (engIx e) = some (lo, hi, p) →
            ((t.slice sl).eng e) = { EngineSt.zero with pc := BitVec.ofNat 18 p, state := .issuing, lo := lo, hi := hi, active := true })
        ∧ (∀ e, o.program (bodyF m.raw 43 38) (engIx e) = none → (t.slice sl).eng e = .zero)
        ∧ (∀ j, j < 64 → (t.slice sl).skeinW j = if bodyF m.raw 50 45 ≤ j ∧ j < bodyF m.raw 50 45 + m.skein.length then m.skein.getD (j - bodyF m.raw 50 45) 0 else x.skeinW j)
        ∧ ((t.chan (slChan sl)).bank (slBank sl)).lease = some ((ch.bank (slBank sl)).lease.getD (ch.closed (slBank sl))) ∧ t.mem = s.mem
        ∧ (t.slice sl).accs = x.accs ∧ (t.slice sl).scratch = x.scratch ∧ (t.slice sl).ars = x.ars))
  ∧ (∀ (s : State) (c : Chan) (r : Rec) (pos : CmdNo) (m : Cmd) (o : ObjRef),
    let x := s.ctx c r
    let body (hi lo : Nat) : Nat := bodyF m.raw hi lo
    let sent (t : State) (act : SyncAct) : Prop :=
      (∃ g, t.syncQ = s.syncQ ++ [g] ∧ g.obj = o ∧ g.act = act ∧ g.cycle = s.refCount ∧ g.who = .command c r x.gen m.pos m.tag)
        ∧ t.cmd c r pos = some { m with phase := .executing } ∧ t.mem = s.mem ∧ t.slices = s.slices ∧ t.hsync = s.hsync ∧ otherRecords s t c r
    let completes (res : Result) : Prop := ran res fun t => onlyCmd s t c r pos ∧ t.cmd c r pos = some { m with phase := .finished }
    x.cmd pos = some m → m.pos = pos.val → m.phase = .dispatched → m.stopReq = false → m.stopEvent = false →
      (m.typ = .signal → x.oldest m = true → x.vobj c (body 7 0) = some o → ran (exec (.signal c r pos) s) fun t => sent t (.signal (BitVec.ofNat 32 (body 63 32))))
      ∧ (m.typ = .wait → x.vobj c (body 7 0) = some o → ran (exec (.wait c r pos) s) fun t => sent t (.wait (BitVec.ofNat 32 (body 63 32)) (body 8 8 = 1)))
      ∧ (m.typ = .fence → body 1 0 = 2 → x.oldest m = true → completes (exec (.fenceChannel c r pos) s))
      ∧ (m.typ = .fence → body 1 0 = 3 → x.oldest m = true → s.linkClear c = true → completes (exec (.fenceModule c r pos) s))
      ∧ (m.typ = .fence → body 1 0 = 3 → s.linkClear c = false → unchanged (exec (.fenceModule c r pos) s) s)
      ∧ (m.typ = .hint → body 3 0 = 0 → completes (exec (.hintCodePrefetch c r pos) s))
      ∧ (m.typ = .hint → body 3 0 = 1 → completes (exec (.hintRowOpen c r pos) s)))

/-- 06 R176, 05 R164: a slice asked to stop ends its LAYER at the operation boundary and answers stopped, its memories as they stand, unless BX holds a sync result.
10 R297: a LAYER that waits long moves, whole, into the shadow frame so that another context's LAYER can start, and is counted; once its wait is over and the
slice is free it runs again as it stood. -/
def Obligations.StopsAndResumes : Prop :=
  (∀ (s : State) (sl : SliceId) (l : LayerRun) (m : Cmd), (s.slice sl).layer = some l → (s.slice sl).stopReq = true → s.cmd (slChan sl) l.record.val l.pos = some m →
    ((s.slice sl).bxWait = .result → unchanged (exec (.sliceStop sl) s) s)
    ∧ ((s.slice sl).bxWait ≠ .result → ran (exec (.sliceStop sl) s) fun t => (t.slice sl).layer = none ∧ (t.slice sl).stopReq = false ∧ t.mem = s.mem
        ∧ (∀ e, ((t.slice sl).eng e).active = false ∧ ((t.slice sl).eng e).queue = [])
        ∧ (t.slice sl).scratch = (s.slice sl).scratch ∧ (t.slice sl).accs = (s.slice sl).accs ∧ (t.slice sl).ars = (s.slice sl).ars ∧ (t.slice sl).skein = (s.slice sl).skein
        ∧ ∃ k, t.cmd (slChan sl) l.record.val l.pos = some k ∧ k.stopped = m.stopped ++ [sl] ∧ k.running = m.running.filter (· ≠ sl) ∧ k.todo = m.todo.filter (· ≠ sl)
            ∧ k.finished = m.finished))
  ∧ (∀ (s : State) (sl : SliceId) (l : LayerRun) (w : WorkRef) (m : Cmd) (f : Shadow),
    let x := s.slice sl
    (x.layer = some l → s.otherLayer sl l = some (w, m) → x.shadow = none → s.waitsLong sl = true → s.bankReady sl = true →
      ran (exec (.deschedule sl) s) fun t => (t.slice sl).shadow = some ⟨l, x.engines, x.sems, x.summary, x.sumQ, x.ars, x.qHead, x.qTail, x.bxWait, false⟩
        ∧ (t.chan (slChan sl)).descheds = satInc (s.chan (slChan sl)).descheds 0xFFFF
        ∧ t.mem = s.mem ∧ ∀ k, k ≠ sl → (t.slice k).layer = (s.slice k).layer ∧ (t.slice k).scratch = (s.slice k).scratch)
    ∧ (x.shadow = some f → f.satisfied = true → s.asked (slChan sl) f.layer.record.val f.layer.pos = false → x.layer = none →
      ran (exec (.resume sl) s) fun t => onlySlice s t sl ∧ t.slice sl = { x with
        shadow := none, layer := some f.layer, engines := f.engines, sems := f.sems, summary := f.summary, sumQ := f.sumQ, ars := f.ars, qHead := f.qHead, qTail := f.qTail,
        bxWait := f.bxWait, owner := some (f.layer.record, f.layer.gen), waitStart := s.refCount, waitUs := (s.chan (slChan sl)).descheduleUs }))

/-- 05 R154, 06 R182: PATCH rewrites skein words of its slices under its masks, adding the entry's step once per ordinal, entry after entry, and nothing else of a slice
but its list of work.
05 R154, 09 R258: FILL writes its value over every point of its destination, in data space each slice its share of the points, in scratchpad space each slice all of them. -/
def Obligations.PatchAndFill : Prop :=
  (∀ (s : State) (c : Chan) (r : Rec) (pos : CmdNo) (m : Cmd), atTurn s c r pos m .patch →
    let inl := inlineData m.raw
    let field (i k : Nat) : Nat := leNat ((inl.drop (16 * i + 4 * k)).take 4)
    let w (i k : Nat) : W32 := BitVec.ofNat 32 (field i k)
    let step (o : Nat) (f : Nat → W32) (i : Nat) : Nat → W32 := fun j =>
      if j = field i 2 % 64 then (f j &&& ~~~(w i 1)) ||| ((w i 0 + BitVec.ofNat 32 o * w i 3) &&& w i 1) else f j
    ran (exec (.patch c r pos) s) fun t => finishedAll t c r pos m ∧ t.mem = s.mem
      ∧ (∀ sl ∈ m.todo, ∀ j, j < 64 →
          (t.slice sl).skeinW j = (List.range (bodyF m.raw 35 32)).foldl (step ((selSlices c (cmdSel m.raw)).findIdx (· = sl))) (s.slice sl).skeinW j)
      ∧ (∀ sl ∈ m.todo, t.slice sl = { s.slice sl with skein := (t.slice sl).skein, work := (t.slice sl).work })
      ∧ ∀ sl, sl ∉ m.todo → t.slice sl = s.slice sl)
  ∧ (∀ (s : State) (c : Chan) (r : Rec) (pos : CmdNo) (m : Cmd) (v : Nat) (d : TRec), atTurn s c r pos m .fill → parseDesc .fill m.desc = some (.fill v d) →
    let all := selSlices c (cmdSel m.raw)
    let n := all.length
    let points (first k : Nat) : List (Nat × List Byte) := (upFrom first k).map (fun i => ((d.addr 0 (d.coords i)).toNat, fillBytes v d.w))
    let mine (sl : SliceId) : List (Nat × List Byte) :=
      let o := all.findIdx (· = sl)
      points (o * d.points / n) ((o + 1) * d.points / n - o * d.points / n)
    (d.scr = false → (∀ sl ∈ m.todo, writable_ s (mine sl) ∧ s.banksServe (accessesOf (mine sl)) = true) → (s.port.strict = true → m.todo.length ≤ 1) → ran (exec (.fill c r pos) s) fun t =>
      finishedAll t c r pos m ∧ t.mem = applied s.mem (m.todo.flatMap mine) ∧ ∀ sl, (t.slice sl).scratch = (s.slice sl).scratch)
    ∧ (d.scr = true → ran (exec (.fill c r pos) s) fun t => finishedAll t c r pos m ∧ t.mem = s.mem
        ∧ (∀ sl ∈ m.todo, (t.slice sl).scratch = applied (s.slice sl).scratch (points 0 d.points)) ∧ ∀ sl, sl ∉ m.todo → t.slice sl = s.slice sl))

/-- 09 R252 to R257: a COPY not staged writes the points it read, to data but for the bytes that a higher ordinal of it has written; a staged one holds them in
its staging area first, and writes them in its second phase. -/
def Obligations.CopyMoves : Prop :=
  ∀ (s : State) (c : Chan) (r : Rec) (pos : CmdNo) (m : Cmd) (d : CopyD) (sl : SliceId) (ws : List (Nat × List Byte)),
    let p : Perf := ⟨sl, (selSlices c (cmdSel m.raw)).findIdx (· = sl)⟩
    let part := d.share ((selSlices c (cmdSel m.raw)).findIdx (· = sl)) (selSlices c (cmdSel m.raw)).length
    let pts := copied s d p part.1 part.2
    let acc := d.accesses p part.1 part.2
    let higher (a : Nat) : Bool := m.finished.any (fun e =>
      let k := (selSlices c (cmdSel m.raw)).findIdx (· = e.1)
      decide (p.ord < k) && (let share := d.share k (selSlices c (cmdSel m.raw)).length
        (d.accesses ⟨e.1, k⟩ share.1 share.2).2.any (fun w => decide (w.1 ≤ a ∧ a < w.1 + w.2))))
    parseDesc .copy m.desc = some (.copy d) →
      (atTurn s c r pos m .copy → m.phase = .dispatched → m.todo = [sl] → sourcesRead s d p part.1 part.2 →
        s.banksServe (acc.1 ++ if d.staged then [] else acc.2) = true →
        (d.staged = false → d.dst.scr = false → m.finished = [] → writable_ s pts → ran (exec (.copy c r pos) s) fun t =>
          finishedAll t c r pos m ∧ t.mem = applied s.mem pts ∧ ∀ k, (t.slice k).scratch = (s.slice k).scratch)
        ∧ (d.staged = false → d.dst.scr = false → writable_ s pts → ran (exec (.copy c r pos) s) fun t =>
          finishedAll t c r pos m ∧ t.mem = applied s.mem ((pts.flatMap (fun e => (upFrom e.1 e.2.length).zip (e.2.map (fun b => [b])))).filter (fun q => !higher q.1)))
        ∧ (d.staged = false → d.dst.scr = true → ran (exec (.copy c r pos) s) fun t =>
          finishedAll t c r pos m ∧ t.mem = s.mem ∧ (t.slice sl).scratch = applied (s.slice sl).scratch pts ∧ ∀ k, k ≠ sl → t.slice k = s.slice k)
        ∧ (d.staged = true → ran (exec (.copy c r pos) s) fun t => t.mem = s.mem ∧ ∃ k, t.cmd c r pos = some k ∧ k.phase = .staged ∧ k.todo = [] ∧ k.running = [sl]
            ∧ k.staging = m.staging ++ [(sl, pts)]))
      ∧ (s.cmd c r pos = some m → m.typ = .copy → sound m → m.phase = .staged → m.todo = [] → m.running = [sl] → m.stopped = [] → m.staging = [(sl, ws)] →
          selSlices c (cmdSel m.raw) = [sl] →
        (d.dst.scr = false → writable_ s ws → s.banksServe (accessesOf ws) = true → ran (exec (.stagedCopyWrite c r pos) s) fun t => t.mem = applied s.mem ws
          ∧ (t.cmd c r pos).map (fun k => (k.phase, k.running, k.finished)) = some (.finished, [], m.finished ++ [(sl, 0)]))
        ∧ (d.dst.scr = true → ran (exec (.stagedCopyWrite c r pos) s) fun t => t.mem = s.mem ∧ (t.slice sl).scratch = applied (s.slice sl).scratch ws
          ∧ (t.cmd c r pos).map (fun k => (k.phase, k.running, k.finished)) = some (.finished, [], m.finished ++ [(sl, 0)])))

/-- 09 R260 to R267: an item of a balanced GATHER without reduction copies the row its index names, clamped to the last row, or zeros for a padding index when
write_pad is set, and is taken from the pool; an item of a SUM writes what its accumulators come to and leaves acc0 to acc31 zero. With the pool empty the slices finish.
11 R318 to R321: a leaf is the SHAKE256 of 0x00 and its bytes; the digest of a DIGEST command, and the provenance digest of any other, forms once every leaf is hashed. -/
def Obligations.GatherItemsAndDigests : Prop :=
  (∀ (s : State) (c : Chan) (r : Rec) (pos : CmdNo) (m : Cmd) (d : GatherD) (sl : SliceId) (ws : List (Nat × List Byte)),
    let p : Mover := ⟨⟨sl, (selSlices c (cmdSel m.raw)).findIdx (· = sl)⟩, .cmd m.tag c r (s.ctx c r).gen, m.tag⟩
    let i := leNat (rdN (if d.idxScr then (s.slice sl).scratch else s.mem) (d.idxBase + 4 * m.nextItem) 4)
    let row := d.rowAddr (min i (d.rows - 1))
    let acc := s.itemsAccesses p d m.nextItem 1
    atTurn s c r pos m .gather → m.todo = [sl] → parseDesc .gather m.desc = some (.gather d) → d.balance = true → d.outScr = false → (m.nextItem < d.items → s.banksServe (acc.1 ++ acc.2) = true) →
      (m.nextItem < d.items → d.reduce = .none → (d.idxScr = false → readable s (d.idxBase + 4 * m.nextItem) 4) → readable s row d.rowBytes →
        writable_ s [(d.outBase + m.nextItem * d.outStride, List.replicate d.rowBytes 0)] →
        ran (exec (.gather c r pos) s) fun t => (t.cmd c r pos).map (·.nextItem) = some (m.nextItem + 1) ∧ (t.cmd c r pos).map (·.todo) = some [sl]
          ∧ t.mem = (if i = 0xFFFFFFFF then (if d.writePad then wrL s.mem (d.outBase + m.nextItem * d.outStride) (List.replicate d.rowBytes 0) else s.mem)
                     else wrL s.mem (d.outBase + m.nextItem * d.outStride) (rdN s.mem row d.rowBytes)))
      ∧ (m.nextItem < d.items → d.reduce ≠ .none → s.itemWrites p d m.nextItem = .ok ws → writable_ s ws →
        ran (exec (.gather c r pos) s) fun t => (t.cmd c r pos).map (·.nextItem) = some (m.nextItem + 1) ∧ t.mem = applied s.mem ws
          ∧ ∀ k, k < 32 → (t.slice sl).acc k = .zero)
      ∧ (d.items ≤ m.nextItem → ran (exec (.gather c r pos) s) fun t => finishedAll t c r pos m ∧ t.mem = s.mem))
  ∧ (∀ (s : State) (c : Chan) (r : Rec) (pos : CmdNo) (m : Cmd) (h : HashJob) (d : TRec) (e i : Nat) (more : List (Nat × Nat)) (bs : List Byte),
    s.cmd c r pos = some m → sound m → m.hash = some h →
      (h.todo = (e, i) :: more → m.tensor e = some d → s.leafBytes d i = .ok bs → s.banksServe (d.leafReads i) = true →
        ran (exec (.leafHash c r pos) s) fun t => otherRecords s t c r ∧ t.mem = s.mem ∧ t.slices = s.slices ∧ t.cmd c r pos = some { m with hash := some { h with todo := more, got := h.got ++ [((e, i), shake256 (0x00 :: bs))] } })
      ∧ (m.typ = .digest → m.phase = .dispatched → h.todo = [] → m.tensor 0 = some d → ran (exec (.digest c r pos) s) fun t => onlyCmd s t c r pos
        ∧ t.cmd c r pos = some { m with phase := .finished, hash := some { h with formed := some (tensorDigest d h 0) } })
      ∧ (m.typ ≠ .digest → (m.typ = .layer → m.phase = .executing ∧ ∀ sl ∈ m.todo, s.turn sl r pos = true) → h.todo = [] → h.formed = none →
        ran (exec (.provenanceDigest c r pos) s) fun t => otherRecords s t c r ∧ t.mem = s.mem ∧ t.slices = s.slices ∧ (m.typ ≠ .layer → onlyCmd s t c r pos)
        ∧ (m.typ = .layer → ∀ sl ∈ m.todo, ((t.chan (slChan sl)).bank (slBank sl)).lease.isSome = true)
        ∧ ∃ k, t.cmd c r pos = some k ∧ k.hash = some { h with formed := some (shake256 (s.provString c r m h)) } ∧ k.raw = m.raw ∧ k.typ = m.typ ∧ k.fault = none))

/-! ## The matrix engine (07) -/

/-- 06 R187, 07 R202 to R207, R212 to R215: each iteration of MX.ZERO clears its accumulators, of MX.MMA adds to each accumulator of the block the products
of a row of A and a row of B under their scales, and of MX.ROUND writes each accumulator of the block converted, then clears the block when it asks for that.
07 R208 to R211: each iteration of MX.PSTORE writes the canonical records of its accumulators, with the full form of each that spills at the
next place of X, and clears them when it asks for that; of MX.PLOAD adds the records it reads. -/
def Obligations.MatrixOperations : Prop :=
  (∀ (s : State) (sl : SliceId) (first : Fin 32) (n : Nat) (lp : Loop) (m : MmaOp) (k : RoundOp),
    let dim := shapeDim m.shape
    let out := shapeDim k.shape
    issues s sl .mx →
      (loops s sl .mx lp → lp.ok 4 = true → 1 ≤ n → first.val + n ≤ 32 →
        iterates s sl .mx lp [] (fun x _ => x.clearAccs first.val n) (exec (.mxZero sl first n lp) s))
      ∧ (loops s sl .mx m.lp → m.ok = true → accBaseOk m.shape m.accBase = true → m.accBase + dim.1 * dim.2 ≤ 32 →
        alignedAt s sl .mx (mmaRowAlign m.fa m.sparse) m.a → m.ars.val % mmaRowAlign m.fa m.sparse = 0 →
        alignedAt s sl .mx (mmaRowAlign m.fb false) m.b → m.brs.val % mmaRowAlign m.fb false = 0 →
        holdsAt s sl .mx m.lp ((dim.1 - 1) * m.ars.val + mmaRowBytes m.fa m.sparse) m.a → holdsAt s sl .mx m.lp ((dim.2 - 1) * m.brs.val + mmaRowBytes m.fb false) m.b →
        ((m.sa = true ∨ m.sb = true) → alignedAt s sl .mx 16 m.s ∧ holdsAt s sl .mx m.lp 16 m.s) →
        iterates s sl .mx m.lp [m.a, m.b, m.s] (fun x pl =>
          let place (o r stride : Nat) : Place := { pl.getD o ⟨none, 0⟩ with addr := (pl.getD o ⟨none, 0⟩).addr + r * stride }
          let scale (on : Bool) (i : Nat) : Option Nat := if on then some ((x.rdAt (pl.getD 2 ⟨none, 0⟩) 16).getD i 0).toNat else none
          let rowA (r : Nat) : List (Nat × Val) := (if m.sparse then sparseRow else denseRow) x (place 0 r m.ars.val) m.fa (scale m.sa r)
          let rowB (c : Nat) : List (Nat × Val) := denseRow x (place 1 c m.brs.val) m.fb (scale m.sb (8 + c))
          (upFrom 0 (dim.1 * dim.2)).foldl (fun y j => y.setAcc (m.accBase + j) (addProducts (x.acc (m.accBase + j)) (rowA (j / dim.2)) (rowB (j % dim.2)))) x)
          (exec (.mxMma sl m none) s))
      ∧ (loops s sl .mx k.lp → k.ok = true → k.accBase + out.1 * out.2 ≤ 32 →
        alignedAt s sl .mx (min 16 (out.2 * fmtBytes k.fmt)) k.d → k.drs.val % min 16 (out.2 * fmtBytes k.fmt) = 0 →
        holdsAt s sl .mx k.lp ((out.1 - 1) * k.drs.val + out.2 * fmtBytes k.fmt) k.d →
        iterates s sl .mx k.lp [k.d] (fun x pl =>
          let p := pl.getD 0 ⟨none, 0⟩
          let y := (upFrom 0 (out.1 * out.2)).foldl (fun y j => y.putElem { p with addr := p.addr + j / out.2 * k.drs.val } k.fmt (j % out.2) 1
            (encodeVal k.fmt k.sat ((x.acc (k.accBase + j)).value k.adj))) x
          if k.clear then y.clearAccs k.accBase (out.1 * out.2) else y) (exec (.mxRound sl k none) s)))
  ∧ (∀ (s : State) (sl : SliceId) (p q : ScrOperand) (lp : Loop) (first : Fin 32) (n : Nat) (clear : Bool),
    issues s sl .mx → loops s sl .mx lp → lp.ok 4 = true → p.ok lp = true → q.ok lp = true → p.tile = none → q.tile = none → 1 ≤ n → first.val + n ≤ 32 →
      alignedAt s sl .mx 8 p → alignedAt s sl .mx 16 q → holdsAt s sl .mx lp (24 * n) p → holdsAt s sl .mx lp (80 * n) q →
      iterates s sl .mx lp [p, q] (fun x pl =>
        let y := storeRecords x (pl.getD 0 ⟨none, 0⟩) (pl.getD 1 ⟨none, 0⟩) ((upFrom first.val n).map x.acc) 0 0
        if clear then y.clearAccs first.val n else y) (exec (.mxPstore sl p q lp first n clear none) s)
      ∧ iterates s sl .mx lp [p, q] (fun x pl =>
        (loadRecords x (pl.getD 0 ⟨none, 0⟩) (pl.getD 1 ⟨none, 0⟩) n 0 0).zipIdx.foldl (fun y e =>
          y.setAcc (first.val + e.2) ((y.acc (first.val + e.2)).addRecord e.1.1 e.1.2)) x) (exec (.mxPload sl p q lp first n none) s))

/-- 07 R204: an MX.MMA of two INT8 operands adds to each accumulator of the block the exact integer sum of the 32 products of its rows. -/
def Obligations.IntegerProductsAreExact : Prop :=
  ∀ (s : State) (sl : SliceId) (m : MmaOp) (j : Fin 32),
    let x := s.slice sl
    let dim := shapeDim m.shape
    let el (o : ScrOperand) (row stride k : Nat) : Int := (rd x.scratch (baseAt s sl .mx o + row * stride + k)).toInt
    issues s sl .mx → loops s sl .mx m.lp → m.lp.counts = [] → m.ok = true → accBaseOk m.shape m.accBase = true → m.fa = .int8 → m.fb = .int8 → m.sparse = false →
      m.accBase + dim.1 * dim.2 ≤ 32 → alignedAt s sl .mx 16 m.a → alignedAt s sl .mx 16 m.b → m.ars.val % 16 = 0 → m.brs.val % 16 = 0 →
      baseAt s sl .mx m.a + (dim.1 - 1) * m.ars.val + 32 ≤ 0x8000 → baseAt s sl .mx m.b + (dim.2 - 1) * m.brs.val + 32 ≤ 0x8000 →
        ran (exec (.mxMma sl m none) s) fun t => onlySlice s t sl ∧ advanced s t sl .mx ∧ (t.slice sl).scratch = x.scratch
          ∧ (m.accBase ≤ j.val → j.val < m.accBase + dim.1 * dim.2 →
              let r := (j.val - m.accBase) / dim.2
              let c := (j.val - m.accBase) % dim.2
              (t.slice sl).acc j.val = { x.acc j.val with
                v := (x.acc j.val).v + BitVec.ofInt 640 (((upFrom 0 32).map (fun k => el m.a r m.ars.val k * el m.b c m.brs.val k)).sum * 2 ^ 300) })
          ∧ ((j.val < m.accBase ∨ m.accBase + dim.1 * dim.2 ≤ j.val) → (t.slice sl).acc j.val = x.acc j.val)

/-! ## The vector engine (08) -/

/-- 08 R220 to R232, Tables 2 to 4: an iteration of VX.RUN whose results lie apart from its operands gives every element's stages its elements of X and Y,
under the scales of its blocks, the constants and its index, takes the taps into the reducers in element order, and writes the results. -/
def Obligations.VectorRun : Prop :=
  ∀ (s : State) (sl : SliceId) (m : VxRun),
    let x := s.slice sl
    let n := match m.n with | .lit n => n | .reg a => (arAtIssue s sl .vx a).toNat
    let px := placeAt s sl .vx m.lp 0 m.x
    let py := placeAt s sl .vx m.lp 0 m.y
    let pd := placeAt s sl .vx m.lp 0 m.d
    let nx := if runUsesX m then extent m.fx n m.xs.val else 0
    let ny := if runUsesY m then (if m.xScaled then (n + 31) / 32 else extent m.fy n m.ys.val) else 0
    let nd := if m.out.isSome then extent m.fd n m.ds.val else 0
    let scale (e : Nat) : Val := decodeVal .e8m0 (leNat (x.rdAt { py with addr := py.addr + e / 32 } 1))
    let elX (e : Nat) : Val := if runUsesX m then
        (if m.xScaled then (decodeVal m.fx (x.getElem px m.fx e m.xs.val)).mul (scale e) else decodeVal m.fx (x.getElem px m.fx e m.xs.val)) else .fin false 0 0
    let elY (e : Nat) : Val := if runUsesY m then (if m.xScaled then scale e else decodeVal m.fy (x.getElem py m.fy e m.ys.val)) else .fin false 0 0
    let env (e : Nat) : ElemEnv := runStages m.stages ⟨elX e, elY e, [], x.consts, e⟩
    issues s sl .vx → loops s sl .vx m.lp → m.lp.counts = [] → m.ok = true → n ≤ 8192 → (m.xScaled = true → m.fx.fp46 = true ∨ m.fx.fp8 = true) →
      (runFp64 m = true → ∀ l, x.layer = some l → l.fp64 = true) →
      (runUsesX m = true → alignedAt s sl .vx (elemAlign m.fx) m.x ∧ ((fmtPacked m.fx = true ∨ m.xScaled = true) → baseAt s sl .vx m.x % 8 = 0)) →
      (runUsesY m = true → alignedAt s sl .vx (if m.xScaled then 1 else elemAlign m.fy) m.y ∧ (m.xScaled = false → fmtPacked m.fy = true → baseAt s sl .vx m.y % 8 = 0)) →
      (m.out.isSome = true → alignedAt s sl .vx (elemAlign m.fd) m.d ∧ (fmtPacked m.fd = true → baseAt s sl .vx m.d % 8 = 0)) →
      px.fits nx = true → py.fits ny = true → pd.fits nd = true → apart pd nd px nx → apart pd nd py ny →
        retires s sl .vx (fun x =>
          let y := (upFrom 0 n).foldl (fun y e => takeTaps m (env e) y) (beginReducers m x)
          match m.out with
          | none => y
          | some o => (upFrom 0 n).foldl (fun y e => y.putElem pd m.fd e m.ds.val (encodeVal m.fd false ((env e).src (.t o)))) y) (exec (.vxRun sl m none) s)

/-- 08 R229, R230, R233: VX.KSET and VX.KLD set a constant register in a format, VX.RCLR clears reducers, and VX.RROUND writes a reducer's result to a constant
register or to the scratchpad.
08 R234, R235, 06 R189: VX.RPSTORE writes the record of a SUM or SUMSQ reducer's accumulator, VX.RPLOAD adds records to it, and VX.RPOST posts a summary entry
for every token of semaphore 14, waits while there is none or semaphore 15 stands at 255, and does nothing where the entry does not enable the summary queue. -/
def Obligations.ReducersAndPosts : Prop :=
  (∀ (s : State) (sl : SliceId) (k : Fin 4) (imm : W32) (f : Fmt) (lp : Loop) (o : ScrOperand) (mask : BitVec 4) (r : Fin 4) (sat index : Bool) (adj : Int),
    let v (x : SliceSt) : TVal := rroundValue s.free (tget x.reds r.val .zero) f sat adj index
    let w := fmtBytes (v (s.slice sl)).fmt
    issues s sl .vx → loops s sl .vx lp → lp.ok 4 = true →
      (f ≠ .fp64 → iterates s sl .vx lp [] (fun x _ => { x with consts := tput x.consts k.val ⟨f, BitVec.ofNat 64 (imm.toNat % 2 ^ fmtBits f)⟩ })
        (exec (.vxKset sl k imm f lp) s))
      ∧ (o.ok lp = true → alignedAt s sl .vx (fmtBytes f) o → holdsAt s sl .vx lp (fmtBytes f) o →
        iterates s sl .vx lp [o] (fun x pl => { x with consts := tput x.consts k.val ⟨f, BitVec.ofNat 64 (leNat (x.rdAt (pl.getD 0 ⟨none, 0⟩) (fmtBytes f)) % 2 ^ fmtBits f)⟩ })
          (exec (.vxKld sl k o f lp none) s))
      ∧ iterates s sl .vx lp [] (fun x _ => { x with
          reds := (upFrom 0 4).foldl (fun m i => if mask.getLsbD i then tmod m i .zero Reducer.clear else m) x.reds }) (exec (.vxRclr sl mask lp) s)
      ∧ (-64 ≤ adj → adj ≤ 63 →
        iterates { s with free := s.free + 1 } sl .vx lp [] (fun x _ => { x with consts := tput x.consts k.val (v x) }) (exec (.vxRround sl r (.k k) f sat adj index lp) s)
        ∧ (o.ok lp = true → alignedAt s sl .vx (fmtBytes f) o → holdsAt s sl .vx lp w o →
          iterates { s with free := s.free + 1 } sl .vx lp [o] (fun x pl => x.wrAt (pl.getD 0 ⟨none, 0⟩) (leBytes w (v x).bits.toNat))
            (exec (.vxRround sl r (.mem o) f sat adj index lp) s))))
  ∧ (∀ (s : State) (sl : SliceId) (r a b : Fin 4) (p q : ScrOperand) (n : Nat) (lp : Loop) (l : LayerRun),
    let x := s.slice sl
    let red := tget x.reds r.val .zero
    let total := tripsTotal s sl .vx lp
    let entry := summaryEntry (tget x.reds a.val .zero) (tget x.reds b.val .zero)
    issues s sl .vx → loops s sl .vx lp → lp.ok 4 = true → x.layer = some l →
      ((red.kind = .sum ∨ red.kind = .sumsq) → p.ok lp = true → q.ok lp = true → alignedAt s sl .vx 8 p → alignedAt s sl .vx 16 q →
        holdsAt s sl .vx lp 24 p → holdsAt s sl .vx lp 80 q →
        iterates s sl .vx lp [p, q] (fun y pl => storeRecords y (pl.getD 0 ⟨none, 0⟩) (pl.getD 1 ⟨none, 0⟩) [red.acc] 0 0) (exec (.vxRpstore sl r p q lp) s))
      ∧ ((red.kind = .sum ∨ red.kind = .sumsq) → p.ok lp = true → q.ok lp = true → alignedAt s sl .vx 8 p → alignedAt s sl .vx 16 q →
        holdsAt s sl .vx lp (24 * n) p → holdsAt s sl .vx lp (80 * n) q →
        iterates s sl .vx lp [p, q] (fun y pl => { y with reds := tmod y.reds r.val .zero (fun d => { d with
            acc := (loadRecords y (pl.getD 0 ⟨none, 0⟩) (pl.getD 1 ⟨none, 0⟩) n 0 0).foldl (fun c t => c.addRecord t.1 t.2) d.acc }) }) (exec (.vxRpload sl r p q n lp none) s))
      ∧ (bitAt (l.word 0) 3 = false → retires s sl .vx id (exec (.vxRpost sl a b lp) s))
      ∧ (bitAt (l.word 0) 3 = true → (x.eng .mx).state ≠ .semWait → 1 ≤ total → total ≤ x.sem 14 → x.sem 15 + total ≤ 255 →
        ran (exec (.vxRpost sl a b lp) s) fun t => onlySlice s t sl ∧ advanced s t sl .vx ∧ (t.slice sl).sumQ = x.sumQ ++ List.replicate total entry
          ∧ (t.slice sl).sem 14 = x.sem 14 - total ∧ (t.slice sl).sem 15 = x.sem 15 + total ∧ (∀ k, k < 14 → (t.slice sl).sem k = x.sem k)
          ∧ t.slice sl = { x with sumQ := (t.slice sl).sumQ, sems := (t.slice sl).sems, engines := (t.slice sl).engines, perf := (t.slice sl).perf,
                                  perfSat := (t.slice sl).perfSat, stepping := false })
      ∧ (bitAt (l.word 0) 3 = true → 1 ≤ total → x.sem 14 = 0 → x.sem 15 < 255 → waitsSem s sl .vx 14 1 (exec (.vxRpost sl a b lp) s))
      ∧ (bitAt (l.word 0) 3 = true → 1 ≤ total → 255 ≤ x.sem 15 → waitsSem s sl .vx 15 256 (exec (.vxRpost sl a b lp) s)))

/-- 08 R237, R238: VX.TLD and VX.TST move a tile of 1,024 bytes, VX.TTR transposes one of 16 rows into another, and VX.TRED writes the reduction of each row or column. -/
def Obligations.TileOperations : Prop :=
  ∀ (s : State) (sl : SliceId) (u w : Fin 4) (o : ScrOperand) (lp : Loop) (n rows : Nat) (axis : Bool) (kind : RKind) (fin fout : Fmt),
    let cols := tileCols fin
    let results := if axis then rows else cols
    issues s sl .vx → loops s sl .vx lp → lp.ok 4 = true →
      (o.ok lp = true → alignedAt s sl .vx 64 o → holdsAt s sl .vx lp 1024 o →
        iterates s sl .vx lp [o] (fun x pl => x.wrAt ⟨some u, 0⟩ (x.rdAt (pl.getD 0 ⟨none, 0⟩) 1024)) (exec (.vxTld sl u o lp none) s)
        ∧ iterates s sl .vx lp [o] (fun x pl => x.wrAt (pl.getD 0 ⟨none, 0⟩) (x.rdAt ⟨some u, 0⟩ 1024)) (exec (.vxTst sl u o lp none) s))
      ∧ (u ≠ w → (n = 1 ∨ n = 2 ∨ n = 4 ∨ n = 8) →
        iterates s sl .vx lp [] (fun x _ => x.wrAt ⟨some w, 0⟩
          ((upFrom 0 1024).map (fun b => rd x.tiles (1024 * u.val + ((b / n % 16) * (64 / n) + b / (16 * n)) * n + b % n)))) (exec (.vxTtr sl u w n lp none) s))
      ∧ (o.ok lp = true → tredOk rows kind fin = true → (fin = .fp64 → ∀ l, (s.slice sl).layer = some l → l.fp64 = true) →
        alignedAt s sl .vx (fmtBytes fout) o → holdsAt s sl .vx lp (results * fmtBytes fout) o →
        iterates { s with free := s.free + 128 } sl .vx lp [o] (fun x pl =>
          let p := pl.getD 0 ⟨none, 0⟩
          let el (r c : Nat) : Nat := x.getElem ⟨some u, 64 * r⟩ fin c 1
          (upFrom 0 results).foldl (fun y i => y.wrAt { p with addr := p.addr + i * fmtBytes fout } (leBytes (fmtBytes fout)
            (rroundValue (s.free + i) (reduceList kind fin (if axis then (upFrom 0 cols).map (el i) else (upFrom 0 rows).map (fun r => el r i))) fout false 0 false).bits.toNat)) x)
          (exec (.vxTred sl u rows axis kind fin fout o lp none) s))

/-- 08 R239, R241 to R243: VX.QBLK writes the scale byte and the elements of each block of 32; VX.TSUM writes the tree record of the highest node its elements
are the range of; VX.TADD writes the parent of two records, and faults where there is none. -/
def Obligations.BlockScalingAndTree : Prop :=
  ∀ (s : State) (sl : SliceId) (ox oy od : ScrOperand) (blocks h j : Nat) (fx fe : Fmt) (lp : Loop) (a b : AReg) (l : LayerRun),
    let x := s.slice sl
    let total := tripsTotal s sl .vx lp
    let place (o : ScrOperand) : Place := placeAt s sl .vx lp 0 o
    let n := (arAtIssue s sl .vx b).toNat
    let second (p : Place) : Place := { p with addr := p.addr + 16 }
    issues s sl .vx → loops s sl .vx lp → lp.ok 4 = true → x.layer = some l → ox.ok lp = true →
      (oy.ok lp = true → od.ok lp = true → qblkOk fx fe blocks = true → alignedAt s sl .vx (fmtBytes fx) ox → baseAt s sl .vx od % 8 = 0 →
        holdsAt s sl .vx lp (extent fx (32 * blocks) 1) ox → holdsAt s sl .vx lp blocks oy → holdsAt s sl .vx lp (extent fe (32 * blocks) 1) od →
        iterates s sl .vx lp [ox, oy, od] (fun x pl =>
          let px := pl.getD 0 ⟨none, 0⟩
          let py := pl.getD 1 ⟨none, 0⟩
          let pd := pl.getD 2 ⟨none, 0⟩
          (upFrom 0 blocks).foldl (fun y k =>
            let b := quantize fe ((upFrom 0 32).map (fun i => decodeVal fx (y.getElem px fx (32 * k + i) 1)))
            (upFrom 0 32).foldl (fun z i => z.putElem pd fe (32 * k + i) 1 (b.2.getD i 0)) (y.wrAt { py with addr := py.addr + k } [BitVec.ofNat 8 b.1])) x)
          (exec (.vxQblk sl ox oy od blocks fx fe lp none) s))
      ∧ (l.fp64 = true → (x.eng .vx).vals = [] → nodeOf n (arAtIssue s sl .vx a).toNat total (treeHeight n) = some (h, j) → alignedAt s sl .vx 8 ox → baseAt s sl .vx od % 8 = 0 →
        holdsAt s sl .vx lp 8 ox → (⟨od.tile, baseAt s sl .vx od⟩ : Place).fits 16 = true →
        retires s sl .vx (fun y => y.wrAt ⟨od.tile, baseAt s sl .vx od⟩ (treeRecord (canonF64 (treeValue h
          ((upFrom 0 total).map (fun i => BitVec.ofNat 64 (leNat (x.rdAt (placeAt s sl .vx lp i ox) 8)))))) h j)) (exec (.vxTsum sl ox lp od a b none) s))
      ∧ (l.fp64 = true → lp.counts = [] → od.ok lp = true → alignedAt s sl .vx 8 ox → alignedAt s sl .vx 8 od → holdsAt s sl .vx lp 32 ox → holdsAt s sl .vx lp 16 od →
        (∀ r, treeParent n (x.rdAt (place ox) 16) (x.rdAt (second (place ox)) 16) = some r →
          retires s sl .vx (fun y => y.wrAt (place od) r) (exec (.vxTadd sl ox od b lp none) s))
        ∧ (treeParent n (x.rdAt (place ox) 16) (x.rdAt (second (place ox)) 16) = none →
          faults s sl .vx 0x24 (scrDetail (place ox).addr) (exec (.vxTadd sl ox od b lp none) s)))

/-- 06 R184: in queue mode an operation waits for an entry on its queue's semaphore, takes it, reads or writes at the queue's pointer, and returns it to the
other semaphore with the pointer one entry on, waiting first while that semaphore stands at 255; a queue the LAYER does not enable, or whose extent passes the
scratchpad, faults EXEC_RANGE. -/
def Obligations.QueueMode : Prop :=
  ∀ (s : State) (sl : SliceId) (k u : Fin 4) (f : Fmt) (o : ScrOperand) (lp : Loop) (l : LayerRun) (c : QCfg),
    let x := s.slice sl
    let q := o.queue.val
    let head := tget x.qHead q 0
    let tail := tget x.qTail q 0
    issues s sl .vx → lp.counts = [] → (x.eng .vx).loopPos = 0 → x.layer = some l → l.qmode .vx = true → o.tile = none → o.ok lp = true → (x.eng .mx).state ≠ .semWait →
      ((∀ d ∈ o.strides, d % (fmtBytes f : Int) = 0) → head % fmtBytes f = 0 →
        (l.queue q = none → faults s sl .vx 0x24 (scrDetail 0) (exec (.vxKld sl k o f lp none) s))
        ∧ (l.queue q = some c → 0x8000 < c.base + c.cap → faults s sl .vx 0x24 (scrDetail 0x8000) (exec (.vxKld sl k o f lp none) s))
        ∧ (l.queue q = some c → c.base + c.cap ≤ 0x8000 → x.sem c.full = 0 → waitsSem s sl .vx (Fin.ofNat 16 c.full) 1 (exec (.vxKld sl k o f lp none) s))
        ∧ (l.queue q = some c → c.base + c.cap ≤ 0x8000 → c.full ≠ c.free → 1 ≤ x.sem c.full → 255 ≤ x.sem c.free →
          waitsSem s sl .vx (Fin.ofNat 16 c.free) 256 (exec (.vxKld sl k o f lp none) s))
        ∧ (l.queue q = some c → c.base + c.cap ≤ 0x8000 → c.full ≠ c.free → 1 ≤ x.sem c.full → x.sem c.free < 255 → head + fmtBytes f ≤ 0x8000 →
          ran (exec (.vxKld sl k o f lp none) s) fun t => onlySlice s t sl ∧ advanced s t sl .vx
            ∧ (t.slice sl).consts = tput x.consts k.val ⟨f, BitVec.ofNat 64 (leNat (rdN x.scratch head (fmtBytes f)) % 2 ^ fmtBits f)⟩
            ∧ (t.slice sl).sem c.full = x.sem c.full - 1 ∧ (t.slice sl).sem c.free = x.sem c.free + 1
            ∧ (t.slice sl).qHead = tput x.qHead q (c.next head) ∧ (t.slice sl).qTail = x.qTail ∧ (t.slice sl).scratch = x.scratch))
      ∧ ((∀ d ∈ o.strides, d % 64 = 0) → tail % 64 = 0 → l.queue q = some c → c.base + c.cap ≤ 0x8000 → c.full ≠ c.free →
        (x.sem c.free = 0 → waitsSem s sl .vx (Fin.ofNat 16 c.free) 1 (exec (.vxTst sl u o lp none) s))
        ∧ (1 ≤ x.sem c.free → x.sem c.full < 255 → tail + 1024 ≤ 0x8000 →
          ran (exec (.vxTst sl u o lp none) s) fun t => onlySlice s t sl ∧ advanced s t sl .vx
            ∧ (t.slice sl).scratch = wrL x.scratch tail (rdN x.tiles (1024 * u.val) 1024)
            ∧ (t.slice sl).sem c.free = x.sem c.free - 1 ∧ (t.slice sl).sem c.full = x.sem c.full + 1
            ∧ (t.slice sl).qTail = tput x.qTail q (c.next tail) ∧ (t.slice sl).qHead = x.qHead ∧ (t.slice sl).tiles = x.tiles))

/-- 06 R177, 07 R214, 08 R222: an operation that breaks an alignment, reaches past its storage or reads a bad parity stops its engine with the cause and detail the
rules name, changes nothing else of the slice, and faults its LAYER. -/
def Obligations.SliceFaults : Prop :=
  ∀ (s : State) (sl : SliceId) (u : Fin 4) (o : ScrOperand) (lp : Loop) (m : MmaOp) (k : Storage) (e : Engine) (first : Fin 32) (n : Nat),
    (issues s sl .vx → loops s sl .vx lp → lp.ok 4 = true → o.ok lp = true →
      (baseAt s sl .vx o % 64 ≠ 0 → faults s sl .vx 0x22 (scrDetail (baseAt s sl .vx o)) (exec (.vxTld sl u o lp none) s))
      ∧ (lp.counts = [] → alignedAt s sl .vx 64 o → (placeAt s sl .vx lp 0 o).fits 1024 = false →
        faults s sl .vx 0x24 (scrDetail (baseAt s sl .vx o)) (exec (.vxTld sl u o lp none) s)))
    ∧ (issues s sl .mx → m.ok = true → accBaseOk m.shape m.accBase = true → faults s sl .mx 0x20 (parityDetail k) (exec (.mxMma sl m (some k)) s))
    ∧ (issues s sl .mx → lp.ok 4 = true → 1 ≤ n → 32 < first.val + n → faults s sl .mx 0x24 0 (exec (.mxZero sl first n lp) s))
    ∧ ((s.slice sl).layer.isSome = true → (s.slice sl).canIssue e = true → (((s.slice sl).eng e).pc.toNat < ((s.slice sl).eng e).lo ∨ ((s.slice sl).eng e).hi ≤ ((s.slice sl).eng e).pc.toNat) →
      faults s sl e 0x24 (codeDetail ((s.slice sl).eng e).pc.toNat) (exec (.nop sl e) s))

/-! ## BX (06 R197, 09 R268 to R270, 10) -/

/-- 06 R197: BX.LD and BX.ST move W bytes in each iteration between data space and the scratchpad, each operand at its own base and strides.
09 R268 to R270: BX.COPY, BX.FILL and BX.GATHER move what their descriptor in the scratchpad says, with the slice as the one performer; a balanced gather takes
one item of the LAYER's pool each time and retires when it is empty; a descriptor a command would be refused for faults. -/
def Obligations.SliceDataMoves : Prop :=
  (∀ (s : State) (sl : SliceId) (m : BxMove),
    let w := moveBytes m
    let at_ (i : Nat) : Nat := (dataAt s sl m i).toNat
    let all := upFrom 0 (tripsTotal s sl .bx m.lp)
    let stores := all.map (fun i => (at_ i, (s.slice sl).rdAt (placeAt s sl .bx m.lp i m.scr) w))
    issues s sl .bx →
      (movable s sl m true → (∀ i ∈ all, readable s (at_ i) w) → ran (exec (.bxLd sl m) s) fun t => advanced s t sl .bx ∧ onlyRows s t
        ∧ t = { s with chans := t.chans, slices := t.slices, mg := t.mg, free := t.free } ∧ onlyAlerts s t ∧ (∀ k, k ≠ sl → t.slice k = s.slice k)
        ∧ t.slice sl = { all.foldl (fun x i => x.wrAt (placeAt s sl .bx m.lp i m.scr) (rdN s.mem (at_ i) w)) (s.slice sl) with
                         engines := (t.slice sl).engines, perf := (t.slice sl).perf, perfSat := (t.slice sl).perfSat, stepping := false })
      ∧ (movable s sl m false → writable_ s stores → ran (exec (.bxSt sl m none) s) fun t => advanced s t sl .bx ∧ t.mem = applied s.mem stores
        ∧ t = { s with mem := t.mem, checkDiff := t.checkDiff, chans := t.chans, slices := t.slices, mg := t.mg, free := t.free } ∧ (∀ k, k ≠ sl → t.slice k = s.slice k)
        ∧ t.slice sl = { s.slice sl with engines := (t.slice sl).engines, perf := (t.slice sl).perf, perfSat := (t.slice sl).perfSat, stepping := false }))
  ∧ (∀ (s : State) (sl : SliceId) (desc : ScrAddr) (o : AReg) (l : LayerRun) (bs : List Byte) (cd : CopyD) (v : Nat) (td : TRec) (gd : GatherD) (n : Nat) (m : Cmd),
    let x := s.slice sl
    let ord := (arAtIssue s sl .bx o).toNat
    let pts := copied s cd ⟨sl, ord⟩ 0 cd.dst.points
    let fills := (upFrom 0 td.points).map (fun i => ((td.addr 0 (td.coords i)).toNat, fillBytes v td.w))
    let acc := cd.accesses ⟨sl, ord⟩ 0 cd.dst.points
    let items (first k : Nat) : List (Nat × Nat) := let a := s.itemsAccesses (l.mover sl 0) gd first k; a.1 ++ a.2
    issues s sl .bx → bxClear s sl → x.layer = some l →
      (s.bxDesc sl x l .copy 184 desc ord = .ok (bs, .copy cd) → sourcesRead s cd ⟨sl, ord⟩ 0 cd.dst.points → s.banksServe (acc.1 ++ acc.2) = true →
        (cd.dst.scr = false → writable_ s pts → ran (exec (.bxCopy sl desc o none) s) fun t => advanced s t sl .bx ∧ t.mem = applied s.mem pts
          ∧ (cd.staged = false → (t.slice sl).scratch = x.scratch))
        ∧ (cd.dst.scr = true → cd.staged = false → ran (exec (.bxCopy sl desc o none) s) fun t => advanced s t sl .bx ∧ t.mem = s.mem ∧ (t.slice sl).scratch = applied x.scratch pts))
      ∧ (s.bxDesc sl x l .fill 72 desc ord = .ok (bs, .fill v td) →
        (td.scr = false → writable_ s fills → s.banksServe (accessesOf fills) = true → ran (exec (.bxFill sl desc o none) s) fun t => advanced s t sl .bx ∧ t.mem = applied s.mem fills ∧ (t.slice sl).scratch = x.scratch)
        ∧ (td.scr = true → ran (exec (.bxFill sl desc o none) s) fun t => advanced s t sl .bx ∧ t.mem = s.mem ∧ (t.slice sl).scratch = applied x.scratch fills))
      ∧ (s.bxDesc sl x l .gather 80 desc 0 = .ok (bs, .gather gd) → gd.outScr = false → gd.reduce = .none → allGood s →
        (gd.balance = false → (x.eng .bx).loopPos = 0 → s.banksServe (items 0 gd.items) = true → ran (exec (.bxGather sl desc none) s) fun t => advanced s t sl .bx ∧ t.mem = (upFrom 0 gd.items).foldl (gatherItem gd x.scratch) s.mem)
        ∧ (gd.balance = true → s.cmd (slChan sl) l.record.val l.pos = some m → l.pools ≤ m.pools.length → m.pool l.pools bs = some n →
          (n < gd.items → s.banksServe (items n 1) = true → ran (exec (.bxGather sl desc none) s) fun t => t.mem = gatherItem gd x.scratch s.mem n ∧ ((t.slice sl).eng .bx).queue = (x.eng .bx).queue
            ∧ (t.cmd (slChan sl) l.record.val l.pos).bind (·.pool l.pools bs) = some (n + 1))
          ∧ (gd.items ≤ n → ran (exec (.bxGather sl desc none) s) fun t => advanced s t sl .bx ∧ t.mem = s.mem)))
      ∧ (x.baseOf .bx desc % 8 ≠ 0 → faults s sl .bx 0x22 (scrDetail (x.baseOf .bx desc)) (exec (.bxFill sl desc o none) s)))

/-- 10 R279, R288 to R290, R294: BX.SSIG and BX.SSUB send their operation and hold BX for its result; BX.SWATCH joins the entry of its object and value, takes a free
one, or is held; BX.BAR arrives at its channel's combiner, toward a channel-scope object at once.
10 R301, R302, R305: BX.SEND sends 64 bytes of the scratchpad to an entry of a slice of its own context; BX.RECV waits for its entry to fill, then takes the
bytes, empties the entry and signals the acknowledgement object the message names (log 22). -/
def Obligations.SliceSynchronisation : Prop :=
  (∀ (s : State) (sl : SliceId) (v : Fin 256) (n : RegImm32) (l : LayerRun) (o : ObjRef) (e : Nat × WatchEntry) (k : Nat),
    let c := slChan sl
    let ch := s.chan c
    let amount := match n with | .reg a => arAtIssue s sl .bx a | .imm i => i
    let who : Party := .slice sl l.record l.gen l.pos l.tag
    let sent (t : State) (act : SyncAct) : Prop := t.syncQ = s.syncQ ++ [⟨o, act, who, s.refCount, syncRank who act⟩]
    let arriver : Arriver := ⟨sl, l.record, l.gen, l.pos, l.tag⟩
    issues s sl .bx → bxClear s sl → (s.slice sl).layer = some l → (s.ctx c l.record.val).vobj (chanOf c) v.val = some o →
      (n ≠ .imm 0 → amount ≠ 0 → s.sliceClear sl = true → ran (exec (.bxSsig sl v n) s) fun t => bxHolds s t sl .result ∧ sent t (.signal amount))
      ∧ (n ≠ .imm 0 → amount ≠ 0 → s.sliceClear sl = false → ran (exec (.bxSsig sl v n) s) fun t => bxHolds s t sl .none ∧ t.syncQ = s.syncQ)
      ∧ (n ≠ .imm 0 → amount ≠ 0 → ran (exec (.bxSsub sl v n) s) fun t => bxHolds s t sl .result ∧ sent t (.subtract amount))
      ∧ (ran (exec (.bxSwatch sl v n) s) fun t => bxHolds s t sl (.watch o amount)
        ∧ (ch.watches.find? (fun e => decide (e.2.obj = o ∧ e.2.value = amount)) = some e →
            (t.chan c).watches = tput ch.watches e.1 { e.2 with slices := e.2.slices ++ [sl] } ∧ t.syncQ = s.syncQ)
        ∧ (ch.watches.find? (fun e => decide (e.2.obj = o ∧ e.2.value = amount)) = none → (upFrom 0 32).find? (fun k => (tfind ch.watches k).isNone) = some k →
            (t.chan c).watches = tput ch.watches k ⟨o, amount, [sl]⟩ ∧ ∃ g, t.syncQ = s.syncQ ++ [g] ∧ g.obj = o ∧ g.act = .watch k amount)
        ∧ (ch.watches.find? (fun e => decide (e.2.obj = o ∧ e.2.value = amount)) = none → (upFrom 0 32).find? (fun k => (tfind ch.watches k).isNone) = none →
            (t.chan c).watches = ch.watches ∧ (t.chan c).held = ch.held ++ [.watch sl l.record o amount] ∧ t.syncQ = s.syncQ))
      ∧ (s.sliceClear sl = true → ran (exec (.bxBar sl v) s) fun t => bxHolds s t sl (.bar o)
        ∧ ((ch.combiners.any (fun k => k.obj = o) = true ∨ ch.combiners.length < 16) →
            (∃ k ∈ (t.chan c).combiners, k.obj = o ∧ (sl, l.record, none) ∈ k.waiting ∧ ∀ m, o = .module m → arriver ∈ k.gathered)
            ∧ (∀ m, o = .module m → t.arrQ = s.arrQ) ∧ ∀ d b, o = .chan d b → t.arrQ = s.arrQ ++ [⟨o, chanOf c, [arriver], s.refCount, syncRank who (.signal 1)⟩])
        ∧ (ch.combiners.any (fun k => k.obj = o) = false → 16 ≤ ch.combiners.length → (t.chan c).held = ch.held ++ [.bar arriver o] ∧ t.arrQ = s.arrQ))
      ∧ (s.sliceClear sl = false → ran (exec (.bxBar sl v) s) fun t => bxHolds s t sl .none ∧ t.arrQ = s.arrQ ∧ t.chans = s.chans))
  ∧ (∀ (s : State) (sl dst : SliceId) (d : AReg) (entry : Fin 16) (a : ScrAddr) (ack : Fin 256) (l : LayerRun) (o : ObjRef) (m : Mail),
    let x := s.slice sl
    let at_ := ((arAtIssue s sl .bx a.reg).toNat + a.imm.val) % 2 ^ 32
    let who : Party := .slice sl l.record l.gen l.pos l.tag
    let freed : State := s.putSlice sl { x with bxWait := .none }
    x.layer = some l → bxClear s sl → (s.ctx (slChan sl) l.record.val).vobj (chanOf (slChan sl)) ack.val = some o → at_ % 64 = 0 → at_ + 64 ≤ 0x8000 →
      (issues s sl .bx → (arAtIssue s sl .bx d).toNat = dst.toNat → inSel (slChan sl) (s.ctx (slChan sl) l.record.val).sliceSet dst.toNat = true →
        ran (exec (.bxSend sl d entry a ack none) s) fun t => t.msgQ = s.msgQ ++ [⟨dst, entry, ⟨rdN x.scratch at_ 64, l.record, l.gen, o, l.tag⟩, who⟩]
          ∧ t = { s with chans := t.chans, slices := t.slices, mg := t.mg, msgQ := t.msgQ } ∧ onlyAlerts s t ∧ advanced s t sl .bx ∧ (∀ k, k ≠ sl → t.slice k = s.slice k)
          ∧ t.slice sl = { x with engines := (t.slice sl).engines, perf := (t.slice sl).perf, perfSat := (t.slice sl).perfSat, stepping := false }
          ∧ (∀ c, t.chan c = { s.chan c with banks := (t.chan c).banks }) ∧ ∀ c b, (t.chan c).bank b = { (s.chan c).bank b with pwr := { ((s.chan c).bank b).pwr with waiting := ((t.chan c).bank b).pwr.waiting } })
      ∧ (issues s sl .bx → tfind x.mail entry.val = some m →
        retires (s.send m.ack (.ack 0) who) sl .bx (fun x => { x with scratch := wrL x.scratch at_ m.data, mail := tdel x.mail entry.val }) (exec (.bxRecv sl entry a ack) s))
      ∧ (issues s sl .bx → tfind x.mail entry.val = none → ran (exec (.bxRecv sl entry a ack) s) fun t => bxHolds s t sl (.recv entry) ∧ t.syncQ = s.syncQ)
      ∧ (x.bxWait = .recv entry → issues freed sl .bx → exec (.bxRecv sl entry a ack) s = exec (.bxRecv sl entry a ack) freed))

/-! ## Sync objects (10) -/

/-- 10 R282, R284 to R287: an operation that comes to its object changes the count, faults on overflow, underflow or a barrier and changes nothing, or waits: released at once,
in the lowest free slot, or held by its channel. A signal releases a waiter whose value it reaches, a consuming one taking its value.
10 R282, R286, R296, R306: the host's writes of an object's ADD, SUB, BAR_CFG and BAR_STATE registers. -/
def Obligations.SyncOperations : Prop :=
  (∀ (s : State) (o : ObjRef) (g : SyncMsg) (n v : W32) (c : Chan) (r : Rec) (gen f : Byte) (pos age j : Nat) (tag : W32) (consume : Bool),
    let x := s.syncObj o
    let res := exec (.syncOperation o) s
    let taken (t : State) : Prop := t.syncQ = dropFirst g s.syncQ ∧ t.mem = s.mem ∧ (∀ sl, (t.slice sl).scratch = (s.slice sl).scratch) ∧ ∀ k, k ≠ o → t.syncObj k = s.syncObj k
    (nextMsg o s.syncQ = none → unchanged res s)
    ∧ (nextMsg o s.syncQ = some g → s.opFirst g = false → unchanged res s)
    ∧ (nextMsg o s.syncQ = some g → g.obj = o → s.opFirst g = true →
      (g.act = .signal n → x.barrierEn = false → x.count.toNat + n.toNat < 2 ^ 32 → x.waiters = [] →
        ran res fun t => taken t ∧ answered s t g.who 0 ∧ t.syncObj o = { x with count := x.count + n, last := lastOf g.who })
      ∧ (g.act = .signal n → x.barrierEn = true → ran res fun t => taken t ∧ answered s t g.who 0x42 ∧ noted s t o 0x42)
      ∧ (g.act = .signal n → x.barrierEn = false → 2 ^ 32 ≤ x.count.toNat + n.toNat → ran res fun t => taken t ∧ answered s t g.who 0x40 ∧ noted s t o 0x40)
      ∧ (g.act = .signal n → g.who = .host → x.barrierEn = false → x.count.toNat + n.toNat < 2 ^ 32 → x.waiters = [(j, ⟨.command c r pos, consume, v, age⟩)] →
        ran res fun t => taken t
          ∧ (v.toNat ≤ x.count.toNat + n.toNat → (t.syncObj o).waiters = [] ∧ (t.syncObj o).count = x.count + n - (if consume then v else 0)
              ∧ t.relQ = s.relQ ++ [(c, .waiter (.command c r pos))])
          ∧ (x.count.toNat + n.toNat < v.toNat → (t.syncObj o).waiters = x.waiters ∧ (t.syncObj o).count = x.count + n ∧ t.relQ = s.relQ))
      ∧ (g.act = .subtract n → x.barrierEn = false → n.toNat ≤ x.count.toNat →
        ran res fun t => taken t ∧ answered s t g.who 0 ∧ t.syncObj o = { x with count := x.count - n, last := lastOf g.who })
      ∧ (g.act = .subtract n → x.barrierEn = false → x.count.toNat < n.toNat → ran res fun t => taken t ∧ answered s t g.who 0x41 ∧ noted s t o 0x41)
      ∧ (g.act = .ack f → x.barrierEn = false → x.count.toNat + 1 < 2 ^ 32 → x.waiters = [] → ran res fun t => taken t ∧ t.relQ = s.relQ
        ∧ t.syncObj o = { x with count := x.count + 1, last := lastOf g.who, error := x.error || decide (f ≠ 0), lastFault := if f = 0 then x.lastFault else f })
      ∧ (g.act = .wait v consume → g.who = .command c r gen pos tag → (consume = true → x.barrierEn = false) →
        ran res fun t => taken t
          ∧ (v.toNat ≤ x.count.toNat → t.relQ = s.relQ ++ [(c, .waiter (.command c r pos))] ∧ (t.syncObj o).count = x.count - (if consume then v else 0))
          ∧ (x.count.toNat < v.toNat → (upFrom 0 16).find? (fun k => (tfind x.waiters k).isNone) = some j → t.relQ = s.relQ
              ∧ t.syncObj o = { x with waiters := tput x.waiters j ⟨.command c r pos, consume, v, x.nextAge⟩, nextAge := x.nextAge + 1 })
          ∧ (x.count.toNat < v.toNat → (upFrom 0 16).find? (fun k => (tfind x.waiters k).isNone) = none → t.syncObj o = x ∧ t.relQ = s.relQ
              ∧ (t.chan c).held = (s.chan c).held ++ [.wait g]))))
  ∧ (∀ (s : State) (lane : Group) (o : ObjRef) (n : W32), s.winReached (objWin o) = true → s.winStatus (objWin o) = .ok → s.groupPending lane = [] →
    nextMsg o s.syncQ = none → nextArr o s.arrQ = none →
    let x := s.syncObj o
    let wrote (t : State) : Prop := t.port.armedAt = none ∧ t.port.lastStatus = .ok ∧ t.mem = s.mem ∧ t.slices = s.slices ∧ ∀ k, k ≠ o → t.syncObj k = s.syncObj k
    (n ≠ 0 → x.barrierEn = false → x.count.toNat + n.toNat < 2 ^ 32 → x.waiters = [] →
        ran (exec (.add o n lane) s) fun t => wrote t ∧ t.syncObj o = { x with count := x.count + n, last := lastOf .host })
    ∧ (n ≠ 0 → x.barrierEn = false → 2 ^ 32 ≤ x.count.toNat + n.toNat → ran (exec (.add o n lane) s) fun t => wrote t ∧ noted s t o 0x40)
    ∧ (n ≠ 0 → x.barrierEn = false → n.toNat ≤ x.count.toNat → ran (exec (.sub o n lane) s) fun t => wrote t ∧ t.syncObj o = { x with count := x.count - n, last := lastOf .host })
    ∧ (n ≠ 0 → x.barrierEn = false → x.count.toNat < n.toNat → ran (exec (.sub o n lane) s) fun t => wrote t ∧ noted s t o 0x41)
    ∧ (x.waiters = [] → x.arrived = 0 → ran (exec (.barCfgWrite o n lane) s) fun t => wrote t
        ∧ t.syncObj o = { x with participants := n.toNat % 2 ^ 21, barrierEn := n.getLsbD 31, forwarded := [] })
    ∧ ((x.waiters ≠ [] ∨ x.arrived ≠ 0) → ran (exec (.barCfgWrite o n lane) s) fun t => wrote t ∧ noted s t o 0x42)
    ∧ (x.waiters = [] → ran (exec (.barStateClear o lane) s) fun t => wrote t ∧ t.syncObj o = { x with arrived := 0, forwarded := [] })
    ∧ (x.waiters ≠ [] → ran (exec (.barStateClear o lane) s) fun t => wrote t ∧ noted s t o 0x42))
  ∧ (∀ (s : State) (lane : Group) (m : Fin 8192) (n : W32), s.reached = true → s.port.compute = true → s.groupPending lane ≠ [] →
    let later (off : Nat) (v : W32) (i : Instr) : Prop := ran (exec i s) fun t => t = { s with port := t.port } ∧ t.port.armedAt = none ∧ t.port.lastStatus = .ok
      ∧ t.port.deferred = s.port.deferred ++ [⟨s.groupPending lane, objAddr m off, v⟩]
    later 0x00 n (.add (.module m) n lane) ∧ later 0x04 n (.sub (.module m) n lane) ∧ later 0x1C n (.barCfgWrite (.module m) n lane)
    ∧ later 0x20 0x80000000 (.barStateClear (.module m) lane))

/-- 10 R284, R285, R289, 06 R192: a release frees the command, the watching slices or the BX it goes to; a held wait is offered again, and held again where it still finds no slot.
10 R298, R301 to R304, 13 R362: a message fills its entry for the owner it was sent to, and is dropped with its acknowledgement object signalled where the owner changed or the entry
is full; a context all of whose commands have waited lend_us lends their charges. -/
def Obligations.ReleasesMailAndRetries : Prop :=
  (∀ (s : State) (c : Chan) (r : Rec) (pos e : Nat) (rel : Release) (w : WatchEntry) (sl : SliceId) (l : LayerRun) (m : Cmd) (g : SyncMsg) (v tag : W32) (consume : Bool) (gen : Byte),
    let x := s.syncObj g.obj
    let taken (t : State) : Prop := t.relQ = dropFirst (c, rel) s.relQ ∧ t.mem = s.mem
    (nextRel c (fun r => !r.isBarrier) s.relQ = some rel → (s.chan c).runs = true →
      (rel = .waiter (.command c r pos) → s.cmd c r pos = some m → ran (exec (.waiterRelease c) s) fun t => taken t ∧ t.slices = s.slices
        ∧ (t.cmd c r pos).map (·.phase) = some .finished)
      ∧ (rel = .waiter (.watch c e) → tfind (s.chan c).watches e = some w → sl ∈ w.slices → (s.slice sl).layer = some l → (s.slice sl).bxWait = .watch w.obj w.value →
          ((s.slice sl).eng .bx).active = true → ran (exec (.waiterRelease c) s) fun t => taken t ∧ bxFreed s t sl ∧ (t.chan c).watches = tdel (s.chan c).watches e)
      ∧ (rel = .result sl r pos 0 → (s.slice sl).bxWait = .result → ((s.slice sl).eng .bx).active = true →
          ran (exec (.waiterRelease c) s) fun t => taken t ∧ bxFreed s t sl ∧ ∀ k, k ≠ sl → t.slice k = s.slice k)
      ∧ (rel = .result sl r pos 0x41 → (s.slice sl).layer = some l → l.record = r → l.pos = pos → s.cmd (slChan sl) r pos = some m → sound m →
          ran (exec (.waiterRelease c) s) fun t => taken t ∧ (t.slice sl).bxWait = .none ∧ ((t.slice sl).eng .bx).state = .faulted
            ∧ (t.cmd (slChan sl) r pos).bind (·.fault) = some ⟨0x41, sl, .bx, 0⟩))
    ∧ (nextRel c (fun r => !r.isBarrier) s.relQ = none → unchanged (exec (.waiterRelease c) s) s)
    ∧ (nextRel c (fun r => !r.isBarrier) s.relQ = some rel → (s.chan c).runs = false → exec (.waiterRelease c) s = .next (s.wake (.channel c)))
    ∧ ((s.chan c).held = [.wait g] → g.act = .wait v consume → g.who = .command c r gen pos tag → (consume = true → x.barrierEn = false) →
      ran (exec (.waitRetry c) s) fun t => t.mem = s.mem ∧ t.slices = s.slices
        ∧ (v.toNat ≤ x.count.toNat → (t.chan c).held = [] ∧ t.relQ = s.relQ ++ [(c, .waiter (.command c r pos))] ∧ (t.syncObj g.obj).count = x.count - (if consume then v else 0))
        ∧ (x.count.toNat < v.toNat → (upFrom 0 16).all (fun k => (tfind x.waiters k).isSome) = true → (t.chan c).held = [.wait g] ∧ t.syncObj g.obj = x ∧ t.relQ = s.relQ)))
  ∧ (∀ (s : State) (sl : SliceId) (g : Msg) (c : Chan) (r : Rec),
    let x := s.slice sl
    let y := s.ctx c r
    let ch := s.chan (slChan sl)
    let acked (t : State) (cause : Byte) : Prop := ∃ q, t.syncQ = s.syncQ ++ [q] ∧ q.obj = g.mail.ack ∧ q.act = .ack cause ∧ t.slices = s.slices
    let total := (y.inflight.map (·.charge)).foldl (· + ·) 0
    (s.msgQ.find? (fun m => m.dst = sl) = some g → s.bankOn sl = true →
      (x.owner = some (g.mail.record, g.mail.gen) → tfind x.mail g.entry.val = none → ran (exec (.messageArrival sl) s) fun t => t.msgQ = dropFirst g s.msgQ
        ∧ t.slice sl = { x with mail := tput x.mail g.entry.val g.mail } ∧ t.syncQ = s.syncQ)
      ∧ (x.owner ≠ some (g.mail.record, g.mail.gen) → ran (exec (.messageArrival sl) s) fun t => t.msgQ = dropFirst g s.msgQ ∧ acked t 0x43
        ∧ (t.chan (slChan sl)).msgStale = satInc ch.msgStale 0xFFFF)
      ∧ (x.owner = some (g.mail.record, g.mail.gen) → (tfind x.mail g.entry.val).isSome = true → ran (exec (.messageArrival sl) s) fun t => t.msgQ = dropFirst g s.msgQ ∧ acked t 0x44
        ∧ (t.chan (slChan sl)).msgFull = satInc ch.msgFull 0xFFFF))
    ∧ (s.msgQ.find? (fun m => m.dst = sl) = none → unchanged (exec (.messageArrival sl) s) s)
    ∧ (s.msgQ.find? (fun m => m.dst = sl) = some g → s.bankOn sl = false → exec (.messageArrival sl) s = .next (s.wakeBank sl))
    ∧ (y.longWait = false → y.waitUs ≠ 0 → y.inflight ≠ [] → y.inflight.all (s.cmdLongWaits r) = true → y.waitStart + usRef y.waitUs ≤ s.refCount →
      ran (exec (.longWait c r) s) fun t => (t.ctx c r).longWait = true ∧ otherRecords s t c r ∧ t.slices = s.slices
        ∧ (s.ledger.lendEn = true → s.port.strict = false → t.ledger.pool = s.ledger.pool + total ∧ tget t.ledger.lent c 0 = tget s.ledger.lent c 0 + total
            ∧ t.charged c = s.charged c - total ∧ ∀ m ∈ (t.ctx c r).inflight, m.lent = m.charge)
        ∧ ((s.ledger.lendEn = false ∨ s.port.strict = true) → t.ledger = s.ledger))
    ∧ ((y.longWait = true ∨ s.refCount < y.waitStart + usRef y.waitUs) → unchanged (exec (.longWait c r) s) s))

/-- 10 R293 to R296: a combiner forwards the arrivals of its sequencer cycle together; an arrival counts, and the last of an episode flips the sense, raises the count and releases
every channel that forwarded; slices whose recorded sense differs from the one released go on. -/
def Obligations.Barriers : Prop :=
  ∀ (s : State) (o : ObjRef) (w : Arrival) (a : Arriver) (c : Chan) (k : Fin 8192) (b : Combiner) (sense : Bool) (r : Rec) (sl : SliceId) (l : LayerRun),
    let x := s.syncObj o
    let d := w.channel
    let channels := if x.forwarded.contains d.val then x.forwarded else x.forwarded ++ [d.val]
    (nextArr o s.arrQ = some w → w.obj = o → s.arrFirst w = true → w.who = [a] →
      (x.barrierEn = true → x.arrived + 1 < max 1 x.participants → ran (exec (.barrierArrival o) s) fun t => t.arrQ = dropFirst w s.arrQ ∧ t.relQ = s.relQ
        ∧ (t.syncObj o).arrived = x.arrived + 1 ∧ (t.syncObj o).forwarded = channels ∧ (t.syncObj o).sense = x.sense ∧ (t.syncObj o).count = x.count ∧ t.slices = s.slices)
      ∧ (x.barrierEn = true → max 1 x.participants ≤ x.arrived + 1 → x.waiters = [] → ran (exec (.barrierArrival o) s) fun t => t.arrQ = dropFirst w s.arrQ
        ∧ t.syncObj o = { x with arrived := 0, sense := !x.sense, count := x.count + 1, last := lastOf a.party, forwarded := [] }
        ∧ t.relQ = s.relQ ++ channels.map (fun c => (chanOf c, Release.barrier o (!x.sense))) ∧ t.slices = s.slices)
      ∧ (x.barrierEn = false → ran (exec (.barrierArrival o) s) fun t => t.arrQ = dropFirst w s.arrQ ∧ noted s t o 0x42
        ∧ t.relQ = s.relQ ++ [(chanOf (slChan a.sl), .result a.sl a.record a.pos 0x42)]))
    ∧ ((s.chan c).combiners.find? (fun q => q.obj = .module k) = some b → b.gathered ≠ [] → ran (exec (.combinerForward c k) s) fun t =>
        (∃ q, t.arrQ = s.arrQ ++ [q] ∧ q.obj = .module k ∧ q.channel = c ∧ q.who = b.gathered ∧ q.cycle = s.refCount) ∧ (∀ q ∈ (t.chan c).combiners, q.obj = .module k → q.gathered = []) ∧ t.slices = s.slices ∧ t.hsync = s.hsync)
    ∧ (nextRel c Release.isBarrier s.relQ = some (.barrier o sense) → (s.chan c).runs = true → (s.chan c).combiners.find? (fun q => q.obj = o) = some b → (sl, r, some (!sense)) ∈ b.waiting →
        (s.slice sl).layer = some l → l.record = r → (s.slice sl).bxWait = .bar o → ((s.slice sl).eng .bx).active = true →
        ran (exec (.barrierRelease c) s) fun t => t.relQ = dropFirst (c, .barrier o sense) s.relQ ∧ bxFreed s t sl ∧ t.mem = s.mem
          ∧ ∀ q ∈ (t.chan c).combiners, q.obj = o → ∀ e ∈ q.waiting, e.2.2 ≠ some (!sense))

/-! ## STRICT and the epoch (11) -/

/-- 11 R309, R311, R312, R317: HB_STRICT changes once every context record is FREE; the master counter wraps into the origin; a tick aligns the counter to the offset, or
counts a slip; the cause bits of a channel are cleared by mask, and the tag with the last of them. -/
def Obligations.StrictAndEpoch : Prop :=
  ∀ (s : State) (v : Bool) (c : Chan) (mask : BitVec 6),
    let p := s.port
    let off := min 599 p.epochOffset
    let due := (600 - off) % 600
    (s.reached = true → s.allFree = true → ran (exec (.strictWrite v) s) fun t => wrotePort s t ∧ t.port.strict = v ∧ (v = false → t.ledger = s.ledger))
    ∧ (s.reached = true → s.allFree = false → ran (exec (.strictWrite v) s) fun t => t.port = { p with armedAt := none, lastStatus := .leased } ∧ t.chans = s.chans)
    ∧ (s.powered = true → s.master = 599 → ran (exec .strictOrigin s) fun t =>
        t = { s with refCount := s.refCount + 1, master := 0, originRef := s.refCount + 1 })
    ∧ (s.master ≠ 599 → unchanged (exec .strictOrigin s) s)
    ∧ (s.powered = true → p.epochMode = 1 → s.anyStrictCtx = false → ran (exec .epochTick s) fun t => t.master = due ∧ t.port = { p with epochMode := 2, epochAligned := true }
        ∧ (due = 0 → t.originRef = s.refCount) ∧ (due ≠ 0 → t.originRef = s.originRef) ∧ t.chans = s.chans)
    ∧ (s.powered = true → p.epochMode = 1 → s.anyStrictCtx = true → unchanged (exec .epochTick s) s)
    ∧ (s.powered = true → p.epochMode = 2 → s.master = due → unchanged (exec .epochTick s) s)
    ∧ (s.powered = true → p.epochMode = 2 → s.master ≠ due → ran (exec .epochTick s) fun t => t.master = s.master ∧ t.port = { p with slips := satInc p.slips 0xFFFF, lastPhase := s.master }
        ∧ (p.strict = true → ∀ c : Chan, (t.chan c).strictCause = (s.chan c).strictCause ||| 0b000100#6
            ∧ (t.chan c).strictTag = if (s.chan c).strictCause = 0 then (s.chan c).oldestTag else (s.chan c).strictTag) ∧ (p.strict = false → t.chans = s.chans))
    ∧ (p.epochMode = 0 → unchanged (exec .epochTick s) s)
    ∧ (s.reached = true → ran (exec .epochClear s) fun t => wrotePort s t ∧ t.port = { p with armedAt := none, lastStatus := .ok, slips := 0, lastPhase := 0 })
    ∧ (s.winReached (.chan c) = true → s.winStatus (.chan c) = .ok → ran (exec (.strictStatusClear c mask) s) fun t => wroteChan s t c
        ∧ t.chan c = { s.chan c with strictCause := (s.chan c).strictCause &&& ~~~mask, strictTag := if (s.chan c).strictCause &&& ~~~mask = 0 then 0 else (s.chan c).strictTag })

/-! ## Integrity (12) -/

/-- 12 R325, R326, R328: a retry that passes is counted and goes on; a read that fails both is answered CHECK_FAIL, or faults the operation or command that reads with the block's
writer and region, and is counted with its block.
12 R330, R333, R334: a payload that fails is sent once more; one that fails twice is not delivered: the command or operation faults, the host's read is answered CHECK_FAIL, its
write is lost. A settle notice settles the writer-log entries that name its command. -/
def Obligations.ReadRetriesAndSettling : Prop :=
  (∀ (s : State) (c : Chan) (b : BankIx) (q : BankReq) (sl : SliceId) (e : Engine) (blk : BitVec 34) (r : Rec) (pos : CmdNo) (m : Cmd) (o1 o2 : Bool),
    let ch := s.chan c
    let pass := o1 = true ∨ o2 = true
    let held := offChan (blk.toNat * 64) = c.val ∧ offBank (blk.toNat * 64) = b.val ∧ s.hostOwned blk.toNat = false
    let noted (t : State) : Prop := (t.chan c).chk.readFail = satInc ch.chk.readFail 0xFFFF ∧ (t.chan c).chk.lastBlk = blk.toNat % 2 ^ 25 ∧ (t.chan c).chk.lastSrc = 1 ∧ t.mg.alert.getLsbD 0 = true
    ((ch.bank b).failing = some q → q.isWrite = false → pass → s.failing q.blk = false → ran (exec (.readRetry c b .host o1 o2) s) fun t => ((t.chan c).bank b).failing = none
      ∧ replied s t c q.id .ok (s.blockData q.blk) (s.checkWord q.blk) ∧ (t.chan c).chk.retriedOk = satInc ch.chk.retriedOk 0xFFFF ∧ t.mem = s.mem)
    ∧ ((ch.bank b).failing = some q → q.isWrite = false → ¬ pass ∨ s.failing q.blk = true → offChan (q.blk * 64) = c.val →
      ran (exec (.readRetry c b .host o1 o2) s) fun t => ((t.chan c).bank b).failing = none ∧ replied s t c q.id .checkFail (List.replicate 64 0) (crc32c (List.replicate 64 0))
        ∧ (t.chan c).chk.readFail = satInc ch.chk.readFail 0xFFFF ∧ (t.chan c).chk.lastSrc = 2 ∧ t.mg.alert.getLsbD 0 = true ∧ t.mem = s.mem)
    ∧ ((ch.bank b).failing = none → unchanged (exec (.readRetry c b .host o1 o2) s) s)
    ∧ (held → s.scrubs c = true → pass → s.failing blk.toNat = false → ran (exec (.readRetry c b (.scrubber blk) o1 o2) s) fun t => (t.chan c).chk.retriedOk = satInc ch.chk.retriedOk 0xFFFF ∧ t.slices = s.slices)
    ∧ (held → s.failing blk.toNat = true → faults s sl e 0x20 (s.arrayDetail (blk.toNat * 64)) (exec (.readRetry c b (.slice sl e blk) o1 o2) s)
        ∧ ((s.slice sl).layer.isSome = true → ran (exec (.readRetry c b (.slice sl e blk) o1 o2) s) noted)
        ∧ (s.cmd c r pos = some m → sound m →
            (ran (exec (.readRetry c b (.sequencer r pos blk) o1 o2) s) fun t => noted t ∧ (t.cmd c r pos).bind (·.fault) = some ⟨0x20, 0, .bx, BitVec.ofNat 64 (s.arrayDetail (blk.toNat * 64))⟩)
            ∧ ran (exec (.readRetry c b (.digest r pos blk) o1 o2) s) fun t => noted t ∧ (t.cmd c r pos).bind (·.fault) = some ⟨0x20, 0, .bx, BitVec.ofNat 64 (s.arrayDetail (blk.toNat * 64))⟩)
        ∧ (s.scrubs c = true → ran (exec (.readRetry c b (.scrubber blk) o1 o2) s) fun t => (t.chan c).chk.scrubFail = satInc ch.chk.scrubFail 0xFFFF ∧ (t.chan c).chk.lastSrc = 3 ∧ t.mg.alert.getLsbD 1 = true))
    ∧ (held → s.scrubs c = false → unchanged (exec (.readRetry c b (.scrubber blk) o1 o2) s) s)
    ∧ (held → o1 = false → pass → s.failing blk.toNat = false → s.scrubs c = true → ran (exec (.readRetry c b (.scrubber blk) o1 o2) s) fun t =>
      ((t.chan c).bank b).openRow = some (offRow (blk.toNat * 64)) ∧ ((t.chan c).bank b).wrAt = none
        ∧ ∀ a, ((t.chan c).bank b).actAt = some a → max s.col (ch.bank b).closeAt + 14 ≤ a))
  ∧ (∀ (s : State) (c : Chan) (hop : Hop) (g : Cargo) (sl : SliceId) (e : Engine) (grp : Group) (tag : W16) (n : Chan × Chan × Rec × Byte × W32) (k : Nat) (more : List (Hop × Cargo)) (d : Chan) (r : Rec) (pos : CmdNo) (m : Cmd) (blk : BitVec 34),
    let ch := s.chan c
    let detail := c.val + hopCode hop * 2 ^ 9 + 0xFFFFFFFF * 2 ^ 32
    let failed (t : State) : Prop := (t.chan c).chk.resend = more ∧ (t.chan c).chk.transit = satInc ch.chk.transit 0xFFFF ∧ t.mg.alert.getLsbD 2 = true
    unchanged (exec (.payloadReceive c hop g true) s) s
    ∧ (s.carried g = false → unchanged (exec (.payloadReceive c hop g false) s) s)
    ∧ (s.carried g = true → ran (exec (.payloadReceive c hop g false) s) fun t => onlyChan s t c ∧ (t.chan c).chk = { ch.chk with resend := ch.chk.resend ++ [(hop, g)] }
        ∧ (s.port.strict = true → (t.chan c).strictCause = ch.strictCause ||| 0b001000#6) ∧ (s.port.strict = false → t.chan c = { ch with chk := (t.chan c).chk }))
    ∧ (ch.chk.resend = [] → unchanged (exec (.transitResend c true) s) s)
    ∧ (ch.chk.resend = (hop, g) :: more → ran (exec (.transitResend c true) s) fun t => onlyChan s t c ∧ t.chan c = { ch with chk := { ch.chk with resend := more } })
    ∧ (ch.chk.resend = (hop, .slice sl e) :: more → s.carried (.slice sl e) = true → faults s sl e 0x20 detail (exec (.transitResend c false) s)
        ∧ ran (exec (.transitResend c false) s) failed)
    ∧ (ch.chk.resend = (hop, .command d r pos) :: more → s.carried (.command d r pos) = true → s.cmd d r pos = some m → sound m → ran (exec (.transitResend c false) s) fun t => failed t
        ∧ (t.cmd d r pos).bind (·.fault) = some ⟨0x20, m.transferSlice, .bx, BitVec.ofNat 64 detail⟩)
    ∧ (ch.chk.resend = (hop, .hostWrite blk) :: more → s.carried (.hostWrite blk) = true → ran (exec (.transitResend c false) s) fun t => failed t ∧ t.mem = s.mem
        ∧ ((t.chan (offChan (blk.toNat * 64))).bank (offBank (blk.toNat * 64))).queue = loseFirst blk.toNat ((s.chan (offChan (blk.toNat * 64))).bank (offBank (blk.toNat * 64))).queue)
    ∧ (ch.chk.resend = (hop, .hostRead grp tag) :: more → s.carried (.hostRead grp tag) = true → ran (exec (.transitResend c false) s) fun t => failed t ∧ (t.group grp).out = (s.group grp).out.map (fun o =>
        if o.tag = tag ∧ o.chan = some c.val then { o with status := some .checkFail, data := List.replicate 64 0, check := crc32c (List.replicate 64 0) } else o))
    ∧ (s.settleQ.find? (fun q => q.2.1 = c) = some n → ran (exec (.settleNotice c) s) fun t => t.settleQ = dropFirst n s.settleQ
        ∧ (∀ w, tfind ch.wlog k = some w → tfind (t.chan c).wlog k = some (if w.names n.2.2.2.2 n.1 n.2.2.1 n.2.2.2.1 then { w with pend := false } else w))
        ∧ (tfind ch.wlog k = none → tfind (t.chan c).wlog k = none) ∧ t.mem = s.mem))

/-- 12 R336 to R339: the scrubber reads each block of its row in every bank, counts what it finds, and moves to the next row at the end of an interval; firmware writes the record
of the oldest event due, or counts it lost. -/
def Obligations.ScrubberAndErrorLog : Prop :=
  ∀ (s : State) (c : Chan) (b : BankIx) (k : Fin 128) (o0 o1 o2 : Bool) (e : ErrRec) (rest : List ErrRec),
    let ch := s.chan c
    let x := ch.chk
    let blk := (c.val * 2 ^ 31 + b.val * 2 ^ 24 + x.row * 2 ^ 13) / 64 + k.val
    let due := x.scrubStart + usRef (max 1 x.rowUs) ≤ s.refCount
    let reads := s.scrubs c = true ∧ (ch.bank b).queue = [] ∧ (ch.bank b).failing = none ∧ x.done.contains (b.val, k.val) = false
    (reads → (s.hostOwned blk = true ∨ (o0 = true ∧ s.failing blk = false)) → ran (exec (.scrubRead c b k o0 o1 o2) s) fun t => onlyChan s t c
        ∧ t.chan c = { ch with chk := { x with done := x.done ++ [(b.val, k.val)] } })
    ∧ (reads → s.hostOwned blk = false → o0 = false → s.failing blk = false → (o1 = true ∨ o2 = true) → ran (exec (.scrubRead c b k o0 o1 o2) s) fun t => onlyChan s t c
        ∧ t.chan c = { ch with chk := { x with done := x.done ++ [(b.val, k.val)], retriedOk := satInc x.retriedOk 0xFFFF } })
    ∧ (reads → s.failing blk = true → ran (exec (.scrubRead c b k o0 o1 o2) s) fun t => onlyChan s t c ∧ t.mg.alert.getLsbD 1 = true
        ∧ t.chan c = { ch with chk := { x with done := x.done ++ [(b.val, k.val)], scrubFail := satInc x.scrubFail 0xFFFF, lastBlk := blk % 2 ^ 25, lastSrc := 3 } })
    ∧ (s.scrubs c = true → due → 128 * 128 ≤ x.done.length → x.row < 2047 → ran (exec (.scrubInterval c) s) fun t => onlyChan s t c
        ∧ t.chan c = { ch with chk := { x with row := x.row + 1, done := [], scrubStart := s.refCount } })
    ∧ (s.scrubs c = true → due → 128 * 128 ≤ x.done.length → x.row = 2047 → ran (exec (.scrubInterval c) s) fun t => onlyChan s t c
        ∧ t.chan c = { ch with chk := { x with row := 0, done := [], passes := satInc x.passes 0xFFFF, scrubStart := s.refCount } })
    ∧ (s.scrubs c = true → due → x.done.length < 128 * 128 → ran (exec (.scrubInterval c) s) fun t => onlyChan s t c ∧ t.chan c = { ch with chk := { x with scrubStart := s.refCount } })
    ∧ (¬ due → unchanged (exec (.scrubInterval c) s) s)
    ∧ (s.scrubs c = false → unchanged (exec (.scrubInterval c) s) s ∧ unchanged (exec (.scrubRead c b k o0 o1 o2) s) s)
    ∧ (s.mg.events = [] → unchanged (exec .errorLogRecord s) s)
    ∧ (s.mg.events = e :: rest → s.fwRuns = true → s.mg.boot.level < 2 → ran (exec .errorLogRecord s) fun t =>
        t = { s with mg := { s.mg with events := rest, errLog := tput s.mg.errLog s.mg.errHead e, errHead := (s.mg.errHead + 1) % 256 } })
    ∧ (s.mg.events = e :: rest → (s.fwRuns = false ∨ 2 ≤ s.mg.boot.level) → ran (exec .errorLogRecord s) fun t =>
        t.mg.errLost = satInc s.mg.errLost 0xFFFF ∧ t.mg.alert.getLsbD 10 = true ∧ t.mg.errLog = s.mg.errLog ∧ t.chans = s.chans)

/-! ## Banks and refresh (02, 04) -/

/-- 02 R55 to R60, R69: a tick raises a bank's debt to at most 8; a forced or an idle refresh refreshes the row at the pointer and lowers it; in STRICT the slot refreshes; in
self-refresh the die advances every bank's pointer on its own. -/
def Obligations.Refresh : Prop :=
  ∀ (s : State) (c : Chan) (b : BankIx) (col : Nat),
    let ch := s.chan c
    let k := ch.bank b
    let start := if k.openRow.isSome then col + 14 else max col k.readyAt
    let walked (j : Nat) : BankSt := { ch.bank j with rowPtr := ((ch.bank j).rowPtr + 1) % 2048, refreshed := ch.physRow j (ch.bank j).rowPtr }
    let one : BankSt := { walked b with openRow := none, wrAt := none, debt := k.debt - 1, readyAt := start + 48 }
    let acts (at_ : Nat) : List Nat := at_ :: ch.acts.filter (fun a => decide (col < a + 16))
    (s.port.strict = false → ch.arraysOn = true → tickDue ch.mem.refStep b col = true → k.tickAt ≤ col → ran (exec (.refreshTick c b col) s) fun t => (t.chan c).bank b = { k with debt := min 8 (k.debt + 1), tickAt := col + 1 }
        ∧ onlyBank s t c b { ch with mem := { ch.mem with refStep := ch.mem.pendStep, maxDebt := max ch.mem.maxDebt (min 8 (k.debt + 1)) } })
    ∧ ((s.port.strict = true ∨ ch.arraysOn = false ∨ tickDue ch.mem.refStep b col = false ∨ col < k.tickAt) → unchanged (exec (.refreshTick c b col) s) s)
    ∧ (∀ step n, step < 3 → tickDue step b ((n * fourIntervals step) / 4 + b.val * fourIntervals step / 512) = true)
    ∧ (s.port.strict = false → (8 ≤ k.debt ∨ (ch.mem.postponeEn = false ∧ 0 < k.debt)) → ch.canRefresh b col = true → ran (exec (.forcedRefresh c b col) s) fun t =>
        (t.chan c).bank b = one ∧ onlyBank s t c b { ch with acts := acts start, mem := { ch.mem with forced := satInc ch.mem.forced 0xFFFF } })
    ∧ (s.port.strict = false → ch.mem.postponeEn = true → k.queue = [] → 0 < k.debt → ch.canRefresh b col = true → ran (exec (.idleRefresh c b col) s) fun t =>
        (t.chan c).bank b = one ∧ onlyBank s t c b { ch with acts := acts start })
    ∧ (k.debt = 0 → unchanged (exec (.forcedRefresh c b col) s) s ∧ unchanged (exec (.idleRefresh c b col) s) s)
    ∧ (s.port.strict = true → ch.arraysOn = true → s.strictCol col = 30 * b.val → k.tickAt ≤ col → ran (exec (.strictRefreshSlot c b col) s) fun t =>
        (t.chan c).bank b = { walked b with openRow := none, wrAt := none, readyAt := ch.slotAt b col + 48, tickAt := col + 1 } ∧ onlyBank s t c b { ch with acts := acts (ch.slotAt b col) })
    ∧ (k.closeAt ≤ col → k.readyAt ≤ col + 14 → ch.actOk (col + 14) = true → ch.slotAt b col = col + 14)
    ∧ (s.strictCol col ≠ 30 * b.val → unchanged (exec (.strictRefreshSlot c b col) s) s)
    ∧ (s.port.strict = false → unchanged (exec (.strictRefreshSlot c b col) s) s)
    ∧ (ch.pwr.selfRefresh = true → s.pins.vin = true → ran (exec (.dramSelfRefreshTick c) s) fun t => onlyChan s t c
        ∧ (∀ j, j < 128 → (t.chan c).bank j = walked j) ∧ t.chan c = { ch with banks := (t.chan c).banks })

/-- 02 R41, R49 to R53, 04 R117, R118, R131, R134, 06 R196, 12 R325: the unit precharges, activates and then accesses for the request it serves next: in STRICT, in panic or past the age cap the oldest; else
the oldest to the open row. A read answers with its block and check, a write merges its bytes; a block that fails goes to the retries. In STRICT and under OPEN the access takes a reserved slot, 7 modulo 8. -/
def Obligations.BankService : Prop :=
  ∀ (s : State) (c : Chan) (b : BankIx) (col : Nat) (q : BankReq) (garbled : Bool),
    let ch := s.chan c
    let k := ch.bank b
    let res := exec (.bankOperation c b col garbled) s
    let reserved := q.strict = true ∨ k.lease = some false
    let same := k.openRow = some q.row ∧ k.actAt.getD 0 + 14 ≤ col ∧ (reserved → col % 8 = 7) ∧ (q.isWrite = true → s.slotClear b col 12 = true)
    let good := q.owned = true ∨ s.diff q.blk = 0
    (ch.serves = true → k.failing = none → s.pick c b col = some q → (s.port.strict = true ∨ ch.mustRefresh b = false) →
      (same → q.isWrite = false → garbled = false → good → ran res fun t => replied s t c q.id .ok (s.blockData q.blk) (s.checkWord q.blk)
        ∧ ((t.chan c).bank b).queue = dropFirst q k.queue ∧ t.mem = s.mem ∧ t.slices = s.slices)
      ∧ (same → q.isWrite = true → q.byteEn = BitVec.allOnes 64 → ran res fun t => t.mem = wrL s.mem (q.blk * 64) (mergeBytes q.byteEn q.data 0 (s.blockData q.blk))
        ∧ ((t.chan c).bank b).queue = dropFirst q k.queue ∧ ((t.chan c).bank b).wrAt = some col ∧ (risingFrom 0 s.checkDiff = true → q.owned = false → q.lost = false → t.diff q.blk = 0)
        ∧ (risingFrom 0 s.checkDiff = true → Memory.wf s.mem = true → q.owned = true → t.checkWord q.blk = q.check))
      ∧ (same → q.isWrite = true → q.byteEn ≠ BitVec.allOnes 64 → garbled = false → good → ran res fun t =>
        t.mem = wrL s.mem (q.blk * 64) (mergeBytes q.byteEn q.data 0 (s.blockData q.blk)) ∧ ((t.chan c).bank b).queue = dropFirst q k.queue)
      ∧ (same → (q.isWrite = false ∨ q.byteEn ≠ BitVec.allOnes 64) → q.owned = false → (garbled = true ∨ s.diff q.blk ≠ 0) → ran res fun t =>
        ((t.chan c).bank b).failing = some q ∧ ((t.chan c).bank b).queue = dropFirst q k.queue ∧ t.mem = s.mem ∧ t.link = s.link)
      ∧ (same → q.isWrite = false → q.owned = true → garbled = true → ran res fun t => ∃ data, replied s t c q.id .ok data (s.checkWord q.blk) ∧ ((t.chan c).bank b).queue = dropFirst q k.queue ∧ t.mem = s.mem)
      ∧ (k.openRow = some q.row → reserved → col % 8 ≠ 7 → unchanged res s)
      ∧ (k.openRow.isSome = true → k.openRow ≠ some q.row → k.mayClose col = true → ran res fun t =>
        (t.chan c).bank b = { k with openRow := none, readyAt := col + 14, wrAt := none } ∧ onlyBank s t c b ch)
      ∧ (k.openRow = none → k.readyAt ≤ col → ch.actOk col = true → s.slotClear b col 32 = true → ran res fun t =>
        (t.chan c).bank b = { k with openRow := some q.row, actAt := some col, wrAt := none } ∧ onlyBank s t c b { ch with acts := col :: ch.acts.filter (fun a => decide (col < a + 16)) }))
    ∧ (k.queue = [q] → s.pick c b col = some q)
    ∧ (∀ r, k.queue = q :: r → (q.strict = true ∨ s.panic c = true ∨ ch.mem.cap < q.age col) → s.pick c b col = some q)
    ∧ (∀ a r, k.queue = a ++ q :: r → s.panic c = false → (∀ h, k.queue.head? = some h → h.age col ≤ ch.mem.cap) → (∀ x ∈ a, x.strict = false ∧ k.openRow ≠ some x.row) →
      q.strict = false → k.openRow = some q.row → s.pick c b col = some q)
    ∧ (k.queue = [] → ch.mustRefresh b = false → unchanged res s)

/-- 02 R61 to R67, Tables 9 to 11: a sweep is accepted while no bank is leased and nothing runs, places every lane in the middle of its widest eye, and steers failed TSV lanes; a nudge moves the
selected sampler by one tap unless frozen or at its end; a pattern run adds its mismatches. -/
def Obligations.LaneTraining : Prop :=
  ∀ (s : State) (c : Chan) (bad : List LaneTaps) (l : LaneTaps) (n : Nat),
    let ch := s.chan c
    let x := ch.train
    let sel := selLane x.sel
    let v := x.lane sel
    let trained (t : State) (y : TrainSt) : Prop := t.chan c = { ch with train := y }
    let swept (t : State) (k : LaneSel) (y : LaneTrain) : Prop := (t.chan c).train.lane k = { y with mismatch := (x.lane k).mismatch }
    let clean (k : LaneSel) : LaneTrain := ⟨laneTaps k / 2, laneTaps k, false, 0⟩
    let named : Prop := l ∈ bad ∧ (∀ k ∈ bad, k.lane = l.lane → k = l) ∧ laneOk l.lane = true
    let barred : Prop := s.port.strict = true ∨ ch.selLeased = true
    (s.winReached (.chan c) = true → s.winStatus (.chan c) = .ok →
      (ch.anyLease = false → x.busy = false → ran (exec (.sweep c) s) fun t => wroteChan s t c ∧ trained t { x with phase := .tsv, refused := false })
      ∧ ((ch.anyLease = true ∨ x.busy = true) → ran (exec (.sweep c) s) fun t => wroteChan s t c ∧ trained t { x with refused := true })
      ∧ (laneOk sel = true → x.freeze = false → x.lostTaps = none → v.mainTap + 1 < laneTaps sel → ran (exec (.nudgeUp c) s) fun t => wroteChan s t c
          ∧ (t.chan c).train.lane sel = { v with mainTap := v.mainTap + 1 } ∧ (t.chan c).train.refused = false ∧ ∀ k, k ≠ sel → (t.chan c).train.lane k = x.lane k)
      ∧ (laneOk sel = true → x.freeze = false → x.lostTaps = none → 0 < v.mainTap → ran (exec (.nudgeDown c) s) fun t => wroteChan s t c
          ∧ (t.chan c).train.lane sel = { v with mainTap := v.mainTap - 1 } ∧ (t.chan c).train.refused = false ∧ ∀ k, k ≠ sel → (t.chan c).train.lane k = x.lane k)
      ∧ ((x.freeze = true ∨ laneTaps sel ≤ v.mainTap + 1) → ran (exec (.nudgeUp c) s) fun t => wroteChan s t c ∧ trained t { x with refused := true })
      ∧ ((x.freeze = true ∨ v.mainTap = 0) → ran (exec (.nudgeDown c) s) fun t => wroteChan s t c ∧ trained t { x with refused := true })
      ∧ (¬ barred → x.busy = false → ran (exec (.patternGo c) s) fun t => wroteChan { s with free := s.free + 1 } t c ∧ (t.chan c).train.patterning = true
          ∧ (t.chan c).train.lane sel = { v with mismatch := 0 }
          ∧ (∀ b, tfind (t.chan c).trainRows b = if b = sel.physBank ∧ patternOf x.pattern ≠ 0 then some ⟨patternOf x.pattern, s.free⟩ else tfind ch.trainRows b))
      ∧ ((barred ∨ x.busy = true) → ran (exec (.patternGo c) s) fun t => wroteChan s t c ∧ trained t { x with refused := true }))
    ∧ (x.phase = .tsv → ch.pwr.fromOff = false → ran (exec (.hardwareSweep c bad) s) fun t => onlyChan s t c ∧ (t.chan c).train.phase = .done ∧ (named → swept t l.lane (trainLane1 l))
        ∧ ∀ k, laneOk k = true → (∀ e ∈ bad, e.lane ≠ k) → swept t k (clean k))
    ∧ (x.phase = .tsv → ch.pwr.fromOff = true → ran (exec (.hardwareSweep c bad) s) fun t => onlyChan s t c ∧ (t.chan c).train.phase = .bond
        ∧ (named → laneTsv l.lane = true → swept t l.lane (trainLane1 l)) ∧ ∀ k, laneTsv k = false → (t.chan c).train.lane k = x.lane k)
    ∧ (x.phase = .bond → ch.pwr.selfRefresh = false → ran (exec (.hardwareSweep c bad) s) fun t => onlyChan s t c ∧ (t.chan c).train.phase = .done
        ∧ (named → laneTsv l.lane = false → swept t l.lane (trainLane1 l)) ∧ ∀ k, laneOk k = true → laneTsv k = false → (∀ e ∈ bad, e.lane ≠ k) → swept t k (clean k))
    ∧ (l.badTaps = [] → trainLane1 l = clean l.lane)
    ∧ ((x.phase = .none ∨ x.phase = .done ∨ (x.phase = .bond ∧ ch.pwr.selfRefresh = true)) → unchanged (exec (.hardwareSweep c bad) s) s)
    ∧ (x.phase ≠ .done → unchanged (exec (.sweepDone c) s) s)
    ∧ (x.phase = .done → ch.pwr.fromOff = false → x.failedBond = [] → (x.failedTsv 2).length ≤ 2 → (x.failedTsv 3).length ≤ 2 → ran (exec (.sweepDone c) s) fun t => onlyChan s t c
        ∧ trained t { x.steer with phase := .none, lostTaps := none } ∧ x.steer.tsvOver = false ∧ x.steer.steered = x.failedTsv 2 ++ x.failedTsv 3)
    ∧ (x.phase = .done → ch.pwr.fromOff = true → ran (exec (.sweepDone c) s) fun t => (t.chan c).pwr.dom.state = .on ∧ (t.chan c).pwr.accepting = true ∧ (t.chan c).train.phase = .none)
    ∧ (x.phase = .done → 2 < (x.failedTsv 2).length → ran (exec (.sweepDone c) s) fun t => (t.chan c).offline = true ∧ t.mg.alert.getLsbD 7 = true)
    ∧ (x.patterning = true → ¬ barred → ch.selPending = false → ran (exec (.patternRunDone c n) s) fun t => onlyChan s t c ∧ (t.chan c).train.patterning = false
        ∧ (t.chan c).train.lane sel = { v with mismatch := min (v.mismatch + n) 0xFFFF })
    ∧ ((x.patterning = false ∨ barred ∨ ch.selPending = true) → unchanged (exec (.patternRunDone c n) s) s)

/-! ## The port switch (02 R48, 04) -/

/-- 04 R108, R109, R115, R116, 02 R48: the key arms and expires; a port mode changes with the key armed, its confirmation and every channel idle, and is refused otherwise; windows and masks are
written in PLAIN only, a mask when its echo begins; a write of a register changes it, a write of a hole or of a range the mode bars nothing. -/
def Obligations.PortRegisters : Prop :=
  ∀ (s : State) (lane : Group) (t a : Nat) (arm confirm : W16) (compute : Bool) (w : Fin 1024) (k : Fin 16) (v : W32) (c : Chan) (off : Fin 0x40000),
    let p := s.port
    let answered (st : Status) : PortSt := { p with armedAt := none, lastStatus := st }
    s.reached = true →
      (ran (exec (.portKeyArm t arm) s) fun u => u = { s with port := { p with armedAt := if arm = 0x7D1E then some t else none, lastStatus := .ok } })
      ∧ (p.armedAt = some a → a + 2100000 < t → ran (exec (.portKeyExpire t) s) fun u => u = { s with port := { p with armedAt := none } })
      ∧ (p.armedAt = some a → t ≤ a + 2100000 → unchanged (exec (.portKeyExpire t) s) s)
      ∧ (p.armedAt = some a → t ≤ a + 2100000 → confirm = 0x82E1 → (∀ c : Chan, s.chanQuiet c = true) → (compute = true → s.mayCompute = true) →
        ran (exec (.portModeSwitch t compute confirm) s) fun u => u = { s with port := { answered .ok with compute := compute, refused := false } })
      ∧ ((p.armedAt = none ∨ confirm ≠ 0x82E1 ∨ (∃ c : Chan, s.chanQuiet c = false) ∨ (compute = true ∧ s.mayCompute = false)) →
        ran (exec (.portModeSwitch t compute confirm) s) fun u => u = { s with port := { answered .mode with refused := true } })
      ∧ (p.compute = false → ran (exec (.hbWinWrite w v) s) fun u => u = { s with port := { answered .ok with wins := tput p.wins w.val (v &&& 3) } })
      ∧ (p.compute = true → ran (exec (.hbWinWrite w v) s) fun u => u = { s with port := answered .mode })
      ∧ (p.compute = false → ran (exec (.xorMaskWrite t k v lane) s) fun u => u = { s with port := { answered .ok with maskPend := p.maskPend ++ [(t + (if s.inShare lane then 192 else 96) * 555, k.val, v &&& 0xFFFF)] } })
      ∧ (p.compute = true → ran (exec (.xorMaskWrite t k v lane) s) fun u => u = { s with port := answered .mode })
      ∧ (ran (exec (.violClear c) s) fun u => u = { s with port := { answered .ok with violCount := tput p.violCount c.val 0, violCause := tput p.violCause c.val 0 } })
      ∧ (s.linkUp lane = true → ran (exec (.registerWrite t 0x020000403004 v lane) s) fun u => u = { s with port := answered .ok, mg := { s.mg with alertMask := v.setWidth 13 } })
      ∧ (s.linkUp lane = true → ran (exec (.registerWrite t 0x020000403000 v lane) s) fun u => u = { s with port := answered .ok, mg := { s.mg with alert := s.mg.alert &&& ~~~(v.setWidth 13) } })
      ∧ (s.linkUp lane = true → ran (exec (.registerWrite t 0x020000007000 v lane) s) fun u => u = { s with port := answered .hole })
      ∧ (p.compute = false → s.linkUp 0 = true → ran (exec (.registerWrite t (BitVec.ofNat 48 (0x010000E00000 + off.val)) v lane) s) fun u =>
          (∃ r, u = { s with chans := u.chans, port := { answered .mode with lastReq := r } }) ∧ onlyWaits s u)

/-- 03 R86, R89, 04 R114 to R118, R121, R125, R133, R137: what the port switch does with the descriptors of a flit: an accepted READ or WRITE of data waits at its bank; a READ of a leased or
offline bank, and one that breaks the tide table, is answered without its data; a PFENCE waits for the writes before it; a malformed one spoils the rest of its flit. -/
def Obligations.HostRequests : Prop :=
  ∀ (s : State) (g : Group) (t : Nat) (tag : W16) (addr : BitVec 42) (en : W64) (data : List Byte) (check : W32) (off cause : Nat),
    let u := s.masksAt t
    let x := target (addr.toNat * 64)
    let a := u.placed off
    let bank (v : State) : BankSt := (v.chan (offChan a)).bank (offBank a)
    let rd := exec (.read g t tag addr false) s
    let wrote := exec (.write g t addr en data check) s
    let pf := exec (.pfence g t tag addr) s
    s.linkUp g = true →
      (ran (exec (.idle g t) s) fun v => onlyGroup s v g ∧ echoes s v g t [0])
      ∧ (x = .data off → parses u g t x 1 → u.ranks g t < 3 → (u.chan (offChan a)).offline = false → u.tideCause g t true false x = 0 →
        ((bank u).lease ≠ some true → (bank u).closedEnd ≠ some s.cycles → ran rd fun v => echoes u v g t [0] ∧ outstanding u v g t tag none ∧ v.mem = s.mem
            ∧ ∃ q, (bank v).queue = (bank u).queue ++ [q] ∧ q.id = u.port.nextId ∧ q.t = t ∧ q.blk = a / 64 ∧ q.isWrite = false ∧ q.owned = s.hostOwned (a / 64) ∧ q.strict = s.port.strict)
        ∧ (((bank u).lease = some true ∨ (bank u).closedEnd = some s.cycles) → ran rd fun v => echoes u v g t [0] ∧ outstanding u v g t tag (some .leased) ∧ onlyWaits u v))
      ∧ (x = .data off → parses u g t x 1 → u.ranks g t < 3 → (u.chan (offChan a)).offline = true → ran rd fun v => echoes u v g t [0] ∧ outstanding u v g t tag (some .hole) ∧ onlyWaits u v)
      ∧ (parses u g t x 1 → u.ranks g t < 3 → u.readStatus t x = none → u.tideCause g t true false x = cause → cause ≠ 0 → ran rd fun v =>
          echoes u v g t [0] ∧ outstanding u v g t tag (some .violation) ∧ v.chans = u.chans
            ∧ ∀ c, u.reqChan x = some c → tget v.port.violCount c 0 = satInc (tget u.port.violCount c 0) 0xFFFF ∧ tget v.port.violCause c 0 = cause)
      ∧ (u.unitAt g t < 16 → (3 ≤ u.ranks g t ∨ u.rightGroup g x = false) → ran rd fun v => echoes u v g t (List.replicate 16 0b1100#4)
          ∧ (v.group (u.phys g)).malformed = satInc (u.group (u.phys g)).malformed 0xFF ∧ v.chans = u.chans)
      ∧ (x = .data off → parses u g t x 5 → (u.chan (offChan a)).offline = false → (bank u).lease ≠ some true → u.tideCause g t false (u.partOwned x en) x = 0 →
        ran wrote fun v => echoes u v g t [0b1000, 0, 0, 0, 0] ∧ v.port.armedAt = none ∧ v.port.lastStatus = .ok ∧ v.mem = s.mem
          ∧ ∃ q, (bank v).queue = (bank u).queue ++ [q] ∧ q.blk = a / 64 ∧ q.isWrite = true ∧ q.data = data ∧ q.byteEn = en ∧ q.check = check ∧ q.lost = false
              ∧ q.owned = s.hostOwned (a / 64) ∧ q.strict = s.port.strict)
      ∧ (x = .data off → parses u g t x 5 → (u.chan (offChan a)).offline = false → (bank u).lease = some true → u.tideCause g t false (u.partOwned x en) x = 0 →
        ran wrote fun v => echoes u v g t [0b1010, 0, 0, 0, 0] ∧ v.port.lastStatus = .leased ∧ onlyWaits u v)
      ∧ (u.unitAt g t < 16 → (12 ≤ u.unitAt g t ∨ u.rightGroup g x = false) → ran wrote fun v => echoes u v g t (List.replicate 16 0b1100#4) ∧ v.chans = u.chans ∧ v.port.armedAt = none)
      ∧ (parses u g t x 1 → u.ranks g t < 3 → u.modeBars x = false → fenceHole x = false → u.tideCause g t true false x = 0 →
        ran pf fun v => echoes u v g t [0] ∧ outstanding u v g t tag (if u.fenceCovers g x = [] then some .ok else none) ∧ onlyWaits u v)

/-- 03 R88 to R90, R103, 04 R126, R127, 12 R327: a response that is due takes its position of the upstream flit; the flit carries the fields echoed for the downstream flit due and, where
that asked for standby, whether it is granted. -/
def Obligations.ResponsesAndEchoes : Prop :=
  ∀ (s : State) (g : Group) (t : Nat) (pos : Fin 3) (o : OutReq) (e : EchoRec),
    let x := s.group g
    let p := s.phys g
    let kind := if e.kind = 1 then (if s.mayStandby p t then 1 else 2) else 0
    let placed := x.placed.filter (fun q => decide (q.t = t))
    let flit (k : Nat) (q : Byte) := flitBytes (upHeader x.seqUp.toNat g k q.toNat (s.group p).shared) (upUnits e.fields placed)
    s.linkUp g = true →
      (x.placed.any (fun q => decide (q.t = t ∧ q.pos = pos)) = false → x.out.find? (s.mayRespond g t pos.val) = some o → ran (exec (.readResponse g t pos) s) fun v => onlyGroup s v g
        ∧ v.group g = { x with out := x.out.filter (fun q => decide (q.id ≠ o.id)), placed := x.placed ++ [o.place t pos] })
      ∧ (x.out.find? (s.mayRespond g t pos.val) = none → unchanged (exec (.readResponse g t pos) s) s)
      ∧ (x.echoes.find? (fun e => decide (e.t + s.echoFlits g * 555 = t)) = some e → ran (exec (.echo g t) s) fun v =>
        (v.group p).scrUp = (scrambleAll (lanesOf (flit kind e.seq)) (s.group p).scrUp).map (·.2) ∧ (v.group g).seqUp = x.seqUp + 1
        ∧ (v.group g).placed = x.placed.filter (fun q => decide (q.t ≠ t)) ∧ v.chans = s.chans ∧ v.port = s.port
        ∧ (kind ≠ 1 → (v.group p).upFlit = flitOf ((scrambleAll (lanesOf (flit kind e.seq)) (s.group p).scrUp).map (·.1)) ∧ (v.group p).state = (s.group p).state
          ∧ (v.group g).echoes = x.echoes.filter (fun q => decide (q.t ≠ e.t)))
        ∧ (kind = 1 → (v.group p).state = .standby ∧ (v.group p).upFlit = [] ∧ ∀ l ∈ s.carries p, (v.group l).echoes = []))
      ∧ (x.echoes.find? (fun e => decide (e.t + s.echoFlits g * 555 = t)) = none → ran (exec (.echo g t) s) fun v => ∃ free,
        (v.group p).upFlit = flitOf ((scrambleAll (lanesOf (flitBytes (upHeader x.seqUp.toNat g 0 free (s.group p).shared) (upUnits [] placed))) (s.group p).scrUp).map (·.1))
        ∧ (v.group g).seqUp = x.seqUp + 1 ∧ (v.group g).placed = x.placed.filter (fun q => decide (q.t ≠ t)) ∧ (v.group g).echoes = x.echoes ∧ v.chans = s.chans ∧ v.port = s.port)
      ∧ (ran (exec (.standbyReq g t) s) fun v => onlyGroup s v g
        ∧ v.group g = { x with echoes := x.echoes.filter (fun q => decide (q.t ≠ t)) ++ [⟨t, BitVec.ofNat 8 (t / 555), [], 1⟩], seqDown := BitVec.ofNat 8 (t / 555) + 1 })

/-! ## The link (03) -/

/-- 03 R83, R84, R87, R92: a flit is taken through its lane order and generators and decoded; one received whole opens its echo record; a lost one is counted, alerted, and echoed CHECK_FAIL in
every field; codewords repaired are counted. -/
def Obligations.DownstreamFlits : Prop :=
  ∀ (s : State) (g : Group) (t : Nat) (lanes : List (List Byte)) (bytes : List Byte) (crcOnly : Bool),
    let x := s.group g
    let out := scrambleAll ((upFrom 0 8).map (x.laneIn lanes)) x.scrDown
    let flit := flitOf (out.map (·.1))
    let res := exec (.downstreamFlit g t lanes) s
    s.physUp g = true →
      (receive flit = .good bytes [] → leAt bytes 0 4 / 2 ^ 12 % 4 = 1 → ran res fun v => v.chans = s.chans ∧ v.port = s.port ∧ (v.group g).scrDown = out.map (·.2) ∧ (v.group g).lostRun = 0
        ∧ (x.shared = false → (v.group g).echoes = x.echoes.filter (fun q => decide (q.t ≠ t)) ++ [⟨t, bytes.headD 0, [], 1⟩]))
      ∧ (receive flit = .good bytes [] → x.shared = false → leAt bytes 0 4 / 2 ^ 12 % 4 = 0 → (∀ u, u < 16 → leNat (unitBytes bytes u) % 16 = 0) → ran res fun v => v.chans = s.chans ∧ v.port = s.port
        ∧ (v.group g).scrDown = out.map (·.2) ∧ (v.group g).lostRun = 0 ∧ (v.group g).echoes = x.echoes.filter (fun q => decide (q.t ≠ t)) ++ [⟨t, bytes.headD 0, List.replicate 16 0, 0⟩])
      ∧ (receive flit = .lost crcOnly [] → x.shared = false → ran res fun v => v.chans = s.chans ∧ v.port = s.port ∧ (v.group g).scrDown = out.map (·.2)
        ∧ (v.group g).lost = satInc x.lost 0xFFFF ∧ (v.group g).lostRun = x.lostRun + 1 ∧ (x.lost < 0xFFFF → v.mg.alert.getLsbD 4 = true)
        ∧ (v.group g).crcOnly = (if crcOnly then satInc x.crcOnly 0xFFFF else x.crcOnly)
        ∧ (v.group g).echoes = x.echoes.filter (fun q => decide (q.t ≠ t)) ++ [⟨t, x.seqDown, List.replicate 16 0b1001#4, 0⟩])

/-- 03 R94 to R101, R103, R104, Tables 9, 10, 12: a group trains phase by phase as its lanes meet each condition, and is ACTIVE with its generators seeded after the last; a phase that reaches its limit
takes it DOWN; valid TS1 or sixteen lost flits make it train again; wake detections are recorded and wake the link domain. -/
def Obligations.LinkTraining : Prop :=
  ∀ (s : State) (g : Group) (lanes : List (List Byte)) (skews : List Byte) (done : Byte) (n mv : Nat),
    let x := s.group g
    let u := (s.modGroup g (·.adapt done)).sendSets g
    let y := (u.group g).trainSet g (s.remapOk g) lanes skews
    let res := exec (.trainingSetReceive g lanes skews done) s
    (s.powered = true → x.state = .train →
      (onlyGroup { s with free := u.free } u g ∧ ∃ req : Nat → Nat, (∀ l, req l < 5) ∧ (x.tphase ≠ .eq → ∀ l, req l = 0)
        ∧ (u.group g).upFlit = flitOf ((upFrom 0 8).map (fun l => (x.adapt done).tsBytes g (req l) l)))
      ∧ (y.allMet = false → ran res fun v => onlyGroup u v g ∧ v.group g = y)
      ∧ (y.allMet = true → x.tphase = .detect → ran res fun v => onlyGroup u v g ∧ (v.group g).tphase = .eq ∧ (v.group g).state = .train)
      ∧ (y.allMet = true → x.tphase = .eq → ran res fun v => onlyGroup u v g ∧ (v.group g).offer = (if s.remapOk g = true then 1 else 0) ∧ (v.group g).tphase = .config ∧ (v.group g).state = .train)
      ∧ (y.allMet = true → x.tphase = .config → ran res fun v => onlyGroup u v g ∧ (v.group g).tphase = .align ∧ (v.group g).state = .train)
      ∧ (y.allMet = true → x.tphase = .align → x.remap = false → x.shared = false → ran res fun v => onlyGroup u v g ∧ (v.group g).state = .active ∧ (v.group g).seqUp = 0
          ∧ (v.group g).scrDown = (upFrom 0 8).map (scrSeed g) ∧ (v.group g).scrUp = (upFrom 0 8).map (scrSeed g) ∧ (v.group g).laneFailed = 0 ∧ (v.group g).lostRun = 0 ∧ (v.group g).shared = false))
    ∧ (s.powered = true → (x.state = .active ∨ x.state = .standby) → (∃ l b, l < 8 ∧ x.setOn lanes l = some b ∧ tsByte b 4 = 1) → ran res fun v => retrained s v g)
    ∧ ((x.state = .off ∨ x.state = .down) → unchanged res s)
    ∧ (x.state = .train → ran (exec (.trainPhaseLimit g) s) fun v => (v.group g).state = .down ∧ v.mg.alert.getLsbD 6 = true ∧ (v.group g).shared = false
        ∧ ∀ l, l < 8 → ((v.group g).laneFailed.getLsbD l = true ↔ l ∈ x.unmet))
    ∧ (x.state ≠ .train → unchanged (exec (.trainPhaseLimit g) s) s)
    ∧ (x.state = .active → 16 ≤ x.lostRun → ran (exec (.groupUnaligned g) s) fun v => retrained s v g ∧ v.mg.alert.getLsbD 6 = true)
    ∧ (x.lostRun < 16 → unchanged (exec (.groupUnaligned g) s) s)
    ∧ (s.powered = true → x.state = .standby → s.mg.linkDom.state = .on → x.shared = false → x.carried = false → ran (exec (.standbyResume g) s) fun v =>
        v = { s with link := v.link, mg := { s.mg with linkDom := { s.mg.linkDom with waiting := false } } } ∧ (∀ k, k ≠ g.val → v.group k = s.group k) ∧ (v.group g).state = .active
        ∧ (v.group g).seqUp = 0 ∧ (v.group g).scrDown = (upFrom 0 8).map (scrSeed g))
    ∧ (s.powered = true → x.state = .standby → s.mg.linkDom.state ≠ .on → exec (.standbyResume g) s = .next (s.wake .link))
    ∧ (x.state ≠ .standby → unchanged (exec (.standbyResume g) s) s)
    ∧ (s.powered = true → 48 ≤ n → s.mg.linkDom.state = .on → s.mg.linkDom.going = none → ran (exec (.swell g n) s) fun v => v = { s with link := { s.link with swellSeen := true, lastGroup := g.val } })
    ∧ (n < 48 → unchanged (exec (.swell g n) s) s)
    ∧ (s.powered = true → 100 < mv → 200 ≤ n → s.mg.linkDom.state = .on → s.mg.linkDom.going = none →
        ran (exec (.activity g mv n) s) fun v => v = { s with link := { s.link with activitySeen := true, lastGroup := g.val } })
    ∧ ((mv ≤ 100 ∨ n < 200) → unchanged (exec (.activity g mv n) s) s)
    ∧ (s.powered = true → s.mg.linkDom.state = .on → s.link.pllLocked = false → ran (exec .linkPllLock s) fun v => v.link.pllLocked = true ∧ ∀ k : Group, (v.group k).state = .train ∧ (v.group k).tphase = .detect)
    ∧ (s.reached = true → ran (exec (.retrain g) s) fun v => retrained s v g ∧ wrotePort s v)

/-! ## Power, clocks and the ledger (13) -/

/-- 13 R342 to R350, Tables 1 to 3: a domain that waits starts its entry unless a refuser holds it, which is counted; the entry completes at the point of no return, a wake source before it aborts
it with code 7 and after it starts the exit; a target written during a transition waits for its end. -/
def Obligations.PowerTransitions : Prop :=
  ∀ (s : State) (d : Domain) (b : BankIx) (c : Chan) (v : BitVec 2) (e : PState),
    let p := s.dom d
    let core := coreOwned d = true
    let w := if coreOwned d then s.modBoot (fun b => { b with coreWait := true }) else s
    let low : PState := if p.target = 1 then .retention else .off
    let up : PState := match d with | .channel _ => .waking | _ => .on
    let went := (p.target = 1 ∨ p.target = 2) ∧ s.inTransit d = false ∧ p.state.up = true ∧ w.waits d = true ∧ (core ∨ p.waiting = false)
    let was := !coreOwned d || p.waiting
    let alone (t : State) (k : Domain) : Prop := t.mem = s.mem ∧ t.slices = s.slices ∧ ((s.dom k).refused + 1 ≠ 0xFFFF → otherDoms s t k)
    let ch := s.chan c
    (s.powered = true → went → s.refuser d p.target.toNat = 0 → ran (exec (.ownerWait d) s) fun t => alone t d ∧ t.dom d = { p with going := some low, waiting := was } ∧ (core → t.mg.boot.coreWait = true))
    ∧ (s.powered = true → went → s.refuser d p.target.toNat ≠ 0 → ran (exec (.ownerWait d) s) fun t => alone t d
        ∧ t.dom d = { p with refused := satInc p.refused 0xFFFF, refuser := s.refuser d p.target.toNat, waiting := was } ∧ (p.refused + 1 = 0xFFFF → t.mg.alert.getLsbD 9 = true))
    ∧ (s.powered = true → ¬ core → (s.waits d = false ∨ s.inTransit d = true) → ran (exec (.ownerWait d) s) fun t => alone t d ∧ t.dom d = { p with waiting := false })
    ∧ (s.powered = true → ¬ core → s.waits d = true → s.inTransit d = false → (p.target = 0 ∨ p.target = 3 ∨ p.waiting = true) → unchanged (exec (.ownerWait d) s) s)
    ∧ (s.powered = true → core → (p.target = 0 ∨ p.target = 3 ∨ s.inTransit d = true ∨ p.state.up = false) → unchanged (exec (.ownerWait d) s) w)
    ∧ (p.going = some e → (e = .retention ∨ e = .off) → p.held = false → (∀ k, d = .channel k → (s.chan k).pwr.selfRefresh = true) →
        ran (exec (.pointOfNoReturn d) s) fun t => otherDoms s t d ∧ t.dom d = { p with state := e, going := none } ∧ t.mem = s.mem ∧ t.slices = s.slices
          ∧ (∀ k, d = .channel k → (t.chan k).pwr.pllOn = false ∧ (t.chan k).pwr.pllReq = false)
          ∧ (d = .link → e = .off → t.link.groups = [] ∧ t.link.pllLocked = false) ∧ (d = .security → e = .off → t.sc.session = none))
    ∧ ((p.going = none ∨ p.going = some .on ∨ p.going = some .waking ∨ ∃ k, d = .channel k ∧ (s.chan k).pwr.selfRefresh = false) → unchanged (exec (.pointOfNoReturn d) s) s)
    ∧ (s.powered = true → p.state.up = true → p.going = some e → (e = .retention ∨ e = .off) → ran (exec (.wakeSource d) s) fun t => alone t d
        ∧ t.dom d = { p with going := none, refused := satInc p.refused 0xFFFF, refuser := 7, waiting := false, held := false })
    ∧ (s.powered = true → p.going = none → (p.state = .retention ∨ p.state = .off) → ran (exec (.wakeSource d) s) fun t => t.dom d = { p with going := some up, waiting := false }
        ∧ t.mem = s.mem ∧ t.slices = s.slices ∧ ((∃ k, d = .channel k) ∨ d = .link → t.dom .switch = s.mg.switchDom.wake .on))
    ∧ (s.winReached (domWin d) = true → s.winStatus (domWin d) = .ok →
        (s.inTransit d = true → ran (exec (.targetWrite d v) s) fun t => alone t d ∧ t.dom d = { p with target := v, held := true })
        ∧ (s.inTransit d = false → p.state.up = true → (v = 0 ∨ v = 3) → ran (exec (.targetWrite d v) s) fun t => alone t d ∧ t.dom d = { p with target := v, held := false })
        ∧ (s.inTransit d = false → p.state.up = false → (v = 0 ∨ v = 3) → ran (exec (.targetWrite d v) s) fun t => t.dom d = { p with target := v, held := false, going := some up, waiting := false })
        ∧ (s.inTransit d = false → p.state.up = true → (v = 1 ∨ v = 2) → s.waits d = true → s.refuser d v.toNat = 0 → ran (exec (.targetWrite d v) s) fun t => alone t d
          ∧ t.dom d = { p with target := v, held := false, waiting := true, going := some (if v = 1 then .retention else .off) }))
    ∧ ((s.dom (.bank c b)).going = some .on → (s.dom (.bank c b)).held = false → ran (exec (.transitionComplete (.bank c b)) s) fun t =>
        otherDoms s t (.bank c b) ∧ t.dom (.bank c b) = { s.dom (.bank c b) with state := .on, going := none } ∧ t.mem = s.mem
          ∧ ((s.dom (.bank c b)).state = .retention → t.slices = s.slices) ∧ ((s.dom (.bank c b)).state = .off → ∀ i, i < 16 → t.slice (mkSlice c b i) = .zero))
    ∧ (ch.pwr.dom.going = some .waking → ch.pwr.dom.held = false → s.mg.switchDom.state = .on → (ch.pwr.dom.state = .off ∨ (ch.pwr.dom.state = .retention ∧ ch.pwr.accepting = true)) →
        ran (exec (.transitionComplete (.channel c)) s) fun t =>
        otherDoms s t (.channel c) ∧ t.dom (.channel c) = { ch.pwr.dom with state := .waking, going := none } ∧ (t.chan c).pwr.pllOn = false ∧ (t.chan c).code = (if ch.pwr.dom.state = .off then [] else ch.code)
          ∧ (ch.pwr.dom.state = .off → (t.chan c).cmdBuf = [] ∧ (t.chan c).ctxs = [] ∧ (t.chan c).pwr.fromOff = true ∧ (t.chan c).pwr.pllReq = true)
          ∧ (ch.pwr.dom.state = .retention → (t.chan c).cmdBuf = ch.cmdBuf ∧ (t.chan c).ctxs = ch.ctxs))
    ∧ (ch.pwr.dom.going = some .waking → ch.pwr.dom.state = .retention → ch.pwr.accepting = false → unchanged (exec (.transitionComplete (.channel c)) s) s)
    ∧ (ch.pwr.dom.going = some .waking → ch.pwr.dom.state = .off → s.mg.switchDom.state ≠ .on → exec (.transitionComplete (.channel c)) s = .next (s.wake1 .switch .on))

/-- 02 R68 to R70, 13 R343, R353 to R356, R360, R361: self-refresh, the channel's PLL, its operating point, an allowance of the ledger, and the limiter's duty. -/
def Obligations.ChannelClocks : Prop :=
  ∀ (s : State) (c : Chan) (v : W32) (o : BitVec 2) (n : Nat) (k : Nat),
    let ch := s.chan c
    let p := ch.pwr
    let point := min o.toNat 2
    let allow := tput s.ledger.allow c.val (v.toNat % 65536)
    let moved (pt : Nat) : BitVec 6 := if s.port.strict = true ∧ ch.strictCtx = true ∧ pt ≠ p.opNow then ch.strictCause ||| 0b010000#6 else ch.strictCause
    (ch.pwr.dom.entering = true → p.selfRefresh = false → ran (exec (.selfRefreshEntry c) s) fun t => onlyChan s t c ∧ (t.chan c).pwr = { p with selfRefresh := true, accepting := false }
        ∧ ∀ b, b < 128 → let k := ch.bank b
          (t.chan c).bank b = { k with openRow := none, wrAt := none, actAt := none, debt := 0, rowPtr := if k.debt = 0 then k.rowPtr else (k.rowPtr + k.debt) % 2048, refreshed := ((t.chan c).bank b).refreshed })
    ∧ (p.dom.entering = false → unchanged (exec (.selfRefreshEntry c) s) s)
    ∧ (p.selfRefresh = true → p.dom.entering = false → p.fromOff = false → (p.dom.state.up = true ∨ (p.dom.state = .retention ∧ p.dom.going = some .waking)) →
      ran (exec (.selfRefreshExit c) s) fun t => onlyChan s t c ∧ (t.chan c).pwr = { p with selfRefresh := false, accepting := true }
        ∧ ∀ b, b < 128 → let k := ch.bank b
          (t.chan c).bank b = { k with openRow := none, wrAt := none, actAt := none, rowPtr := (k.rowPtr + 1) % 2048, refreshed := ch.physRow b k.rowPtr, debt := 0 })
    ∧ (p.selfRefresh = true → p.dom.entering = false → p.fromOff = true → ch.train.phase = .bond → ran (exec (.selfRefreshExit c) s) fun t => onlyChan s t c ∧ t.chan c = { ch with pwr := { p with selfRefresh := false } })
    ∧ (p.fromOff = true → ch.train.phase ≠ .bond → unchanged (exec (.selfRefreshExit c) s) s)
    ∧ (p.selfRefresh = false → unchanged (exec (.selfRefreshExit c) s) s)
    ∧ (s.reached = true → (p.dom.state = .waking ∨ p.dom.going = some .waking) → ran (exec (.pllReq c) s) fun t => wroteChan s t c ∧ t.chan c = { ch with pwr := { p with pllReq := true } })
    ∧ (p.dom.state = .waking → p.pllReq = true → p.fromOff = false → p.dom.held = false → ran (exec (.pllLock c) s) fun t => onlyChan s t c
        ∧ t.chan c = { ch with pwr := { p with pllOn := true, pllReq := false, opNow := min 2 p.opTarget, dom := { p.dom with state := .on } }, strictCause := (t.chan c).strictCause, strictTag := (t.chan c).strictTag }
        ∧ (t.chan c).strictCause = moved (min 2 p.opTarget))
    ∧ (p.dom.state = .waking → p.pllReq = true → p.fromOff = true → ran (exec (.pllLock c) s) fun t => onlyChan s t c
        ∧ t.chan c = { ch with pwr := { p with pllOn := true, pllReq := false }, train := { ch.train with phase := .tsv } })
    ∧ ((p.dom.state ≠ .waking ∨ p.pllReq = false) → unchanged (exec (.pllLock c) s) s)
    ∧ (p.dom.state = .on → ran (exec (.pllLockLoss c) s) fun t => onlyChan s t c
        ∧ (t.chan c).pwr = { p with pllOn := false, pllReq := false, fromOff := false, dom := { p.dom with state := .waking } }
        ∧ (s.port.strict = true → (t.chan c).strictCause = ch.strictCause ||| 0b100000#6))
    ∧ (p.dom.state ≠ .on → unchanged (exec (.pllLockLoss c) s) s)
    ∧ (s.reached = true → p.opChanging = none → p.dom.state = .on → point ≠ p.opNow → ran (exec (.opTargetWrite c o) s) fun t => wroteChan s t c
        ∧ (t.chan c).pwr = { p with opTarget := o.toNat, opChanging := some point, opNext := none } ∧ (t.chan c).strictCause = moved point)
    ∧ (s.reached = true → p.opChanging = none → point = p.opNow → ran (exec (.opTargetWrite c o) s) fun t => wroteChan s t c ∧ (t.chan c).pwr = { p with opTarget := o.toNat })
    ∧ (s.reached = true → p.opChanging ≠ none → ran (exec (.opTargetWrite c o) s) fun t => wroteChan s t c ∧ (t.chan c).pwr = { p with opTarget := o.toNat, opNext := some point })
    ∧ (p.opChanging = some k → (p.opNext = none ∨ p.opNext = some k) → ran (exec (.opPointChangeDone c) s) fun t => onlyChan s t c
        ∧ (t.chan c).pwr = { p with opNow := k, opChanging := none, opNext := none } ∧ (t.chan c).strictCause = moved k)
    ∧ (p.opChanging = none → unchanged (exec (.opPointChangeDone c) s) s)
    ∧ (s.reached = true → allowSum allow ≤ 3200000 → v.toNat % 65536 ≤ 20000 → ran (exec (.ledgerAllowWrite c v) s) fun t => wrotePort s t
        ∧ t.ledger = { s.ledger with allow := allow, allocRefused := false })
    ∧ (s.reached = true → (3200000 < allowSum allow ∨ 20000 < v.toNat % 65536) → ran (exec (.ledgerAllowWrite c v) s) fun t => wrotePort s t ∧ t.ledger = { s.ledger with allocRefused := true })
    ∧ (n ≤ s.effective c → ch.thr.limDuty = 16 → unchanged (exec (.limiterWindow c n) s) s)
    ∧ (n ≤ s.effective c → ran (exec (.limiterWindow c n) s) fun t => (t.chan c).thr = { ch.thr with limDuty := 16 })
    ∧ (s.effective c < n → ran (exec (.limiterWindow c n) s) fun t => (t.chan c).thr.limDuty < 16 ∧ (t.chan c).thr = { ch.thr with limDuty := (t.chan c).thr.limDuty })

/-! ## Temperature (14) -/

/-- 14 R366 to R372, 02 R56, Tables 1 to 3: a reading is clamped and kept, warns above its die's threshold until it has fallen 4 K below, and sets the throttling of its channel by the excess, and
the refresh step of its tier where it is a DRAM sensor. -/
def Obligations.SensorReadings : Prop :=
  ∀ (s : State) (i : Nat) (x e : Int) (c : Chan) (u : Throttle),
    let y := max (-2048) (min 2047 x)
    let w := s.mg.warnAt (dieOf i)
    let warn := decide (w < y ∨ ((s.sensor i).warn = true ∧ w - 16 < y))
    let res := exec (.sensorRead [(i, x)]) s
    (s.powered = true → i < 2608 → ran res fun t => (t.sensor i).temp = y ∧ (t.sensor i).valid = true ∧ (t.sensor i).warn = warn ∧ (∀ j, j ≠ i → t.sensor j = s.sensor j)
        ∧ (warn = true → (s.sensor i).warn = false → t.mg.alert.getLsbD 8 = true) ∧ t.mem = s.mem ∧ t.slices = s.slices)
    ∧ (s.powered = true → i < 2048 → c.val = i / 16 * 4 + i % 16 / 4 → ran res fun t => ∃ e, t.excess c = some e ∧ (t.chan c).thr = (s.chan c).thr.update e)
    ∧ (s.powered = true → 2048 ≤ i → i < 2560 → c.val / 4 = (i - 2048) / 4 → ran res fun t => ∃ e, t.tierTemp c = some e ∧ (t.chan c).mem.pendStep = nextStep (s.chan c).mem.pendStep e)
    ∧ ((u.update e).engaged = true ↔ 0 < e ∨ (u.engaged = true ∧ -16 < e))
    ∧ ((u.update e).engaged = false → (u.update e).duty = 16 ∧ (u.update e).cap = 0)
    ∧ ((u.update e).engaged = true → (u.update e).duty = (if e ≤ 8 then 14 else if e ≤ 16 then 12 else if e ≤ 24 then 10 else if e ≤ 32 then 8 else 4)
        ∧ (u.update e).cap = (if e ≤ 16 then 0 else if e ≤ 32 then 1 else 2))

/-- Every control that clears counters clears them and nothing else: 02 Table 5, 03 Table 14, 05 R163, 10 R308, 11 Table 3, 12 Tables 3 and 8, 13 R365, 14 R376. -/
def Obligations.CounterClears : Prop :=
  ∀ (s : State) (c : Chan) (g : Group) (d : Domain),
    let ch := s.chan c
    s.reached = true →
      (ran (exec (.linkClearCounters g) s) fun t => wrotePort s t ∧ (∀ k, k ≠ g.val → t.group k = s.group k) ∧ t.group g = { s.group g with
          corrected := 0, lost := 0, crcOnly := 0, malformed := 0, retrains := 0, lanes := (t.group g).lanes }
        ∧ ∀ l, (tget (t.group g).lanes l .zero) = { tget (s.group g).lanes l .zero with corrBytes := 0 })
      ∧ (ran (exec .hbSyncClearCounters s) fun t => wrotePort s t ∧ t = { s with port := { s.port with armedAt := none, lastStatus := .ok, hostFaults := 0, moduleFaults := 0 } })
      ∧ (ran (exec .errLogClear s) fun t => wrotePort s t ∧ t.mg = { s.mg with errLog := [], errHead := 0, errLost := 0 })
      ∧ (ran (exec .thermStatClear s) fun t => wrotePort s t ∧ t.mg = { s.mg with engagements := 0 })
      ∧ ((∀ k b, d ≠ .bank k b) → ran (exec (.pwrRefusalClear d) s) fun t => otherDoms s t d ∧ t.dom d = { s.dom d with refused := 0, refuser := 0 } ∧ t.port.lastStatus = .ok)
      ∧ (s.winReached (.chan c) = true → s.winStatus (.chan c) = .ok →
        (ran (exec (.memClearCounters c) s) fun t => wroteChan s t c ∧ t.chan c = { ch with mem := { ch.mem with maxDebt := 0, forced := 0 } })
        ∧ (ran (exec (.syncClearCounters c) s) fun t => wroteChan s t c ∧ t.chan c = { ch with msgStale := 0, msgFull := 0, syncFaults := 0, descheds := 0 })
        ∧ (ran (exec (.clearCounters c) s) fun t => wroteChan s t c ∧ t.chan c = { ch with chk := { ch.chk with
            retriedOk := 0, readFail := 0, scrubFail := 0, transit := 0, parity := 0, keptFail := 0, lastBlk := 0, lastSrc := 0 } })
        ∧ (ch.allFree = true → ran (exec (.clearWlog c) s) fun t => wroteChan s t c ∧ t.chan c = { ch with wlog := [] })
        ∧ (ch.allFree = false → ran (exec (.clearWlog c) s) fun t => wroteChan s t c ∧ t.chan c = ch)
        ∧ ran (exec (.pwrBankClearCounters c) s) fun t => wroteChan s t c ∧ t.chan c = { ch with banks := (t.chan c).banks }
          ∧ ∀ b, (t.chan c).bank b = { ch.bank b with pwr := { (ch.bank b).pwr with refused := 0, refuser := 0 } })

/-! ## Resets and supplies (16, 17) -/

/-- 14 R374, 16 R404 to R407, 17 R428 to R437: PORST_N resets every domain but AON and keeps the arrays; WARMRST_N keeps besides the error log, the trace, the slot and the darning map; a power loss or a
trip drops the arrays, the loss of VAON alone does not; assertions shorter than their filters do nothing. -/
def Obligations.ResetsAndSupplies : Prop :=
  ∀ (s : State) (n : Nat) (sensor : Fin 2608) (x : Int) (k : Nat) (ch : Channel),
    let pins := s.pins
    (237 ≤ n → pins.vaon = true → pins.porstN = true → ran (exec (.porstNAssert n) s) fun t => forgotten s t ∧ aonKept s t ∧ t.mem = s.mem ∧ t.checkDiff = s.checkDiff
        ∧ t.pins = { pins with porstN := false, releaseHeld := false } ∧ t.mg.tripLatch = s.mg.tripLatch)
    ∧ ((n < 237 ∨ pins.vaon = false ∨ pins.porstN = false) → unchanged (exec (.porstNAssert n) s) s)
    ∧ (23 ≤ n → pins.vaon = true → pins.porstN = true → pins.warmrstN = true → s.mg.tripLatch = false → ran (exec (.warmrstNAssert n) s) fun t => aonKept s t ∧ t.mem = s.mem ∧ t.checkDiff = s.checkDiff
        ∧ t.slices = [] ∧ t.link = .zero ∧ t.port = .zero ∧ t.sc = .zero ∧ t.fuses = s.fuses ∧ t.mram = s.mram ∧ t.mg.errLog = s.mg.errLog ∧ t.mg.trace = s.mg.trace
        ∧ t.mg.boot.slot = s.mg.boot.slot ∧ t.mg.boot.keptSlot = s.mg.boot.slotValid ∧ t.mg.boot.phase = .hwInit ∧ t.pins = { pins with warmrstN := false }
        ∧ (tfind s.chans k = some ch → (t.chan k).darn = ch.darn ∧ (t.chan k).spares = ch.spares ∧ (t.chan k).rowMap = ch.rowMap ∧ (t.chan k).offline = ch.offline
            ∧ (t.chan k).ctxs = [] ∧ (t.chan k).cmdBuf = [] ∧ (t.chan k).pwr.selfRefresh = true
            ∧ ∀ b, b < 128 → (t.chan k).bank b = { BankSt.zero with
                rowPtr := if (ch.bank b).debt = 0 then (ch.bank b).rowPtr else ((ch.bank b).rowPtr + (ch.bank b).debt) % 2048, refreshed := ((t.chan k).bank b).refreshed }))
    ∧ ((n < 23 ∨ pins.porstN = false ∨ pins.warmrstN = false) → unchanged (exec (.warmrstNAssert n) s) s)
    ∧ (pins.vaon = true → pins.porstN = true → pins.refclk = true → pins.warmrstN = true → s.mg.tripLatch = false → ran (exec .refclkLoss s) fun t => aonKept s t ∧ t.mem = s.mem
        ∧ t.slices = [] ∧ t.mg.errLog = s.mg.errLog ∧ t.pins = { pins with refclk := false, warmrstN := false })
    ∧ (100 ≤ n → ran (exec (.refclkRunsAgain n) s) fun t => t = { s with pins := { pins with refclk := true } })
    ∧ (n < 100 → unchanged (exec (.refclkRunsAgain n) s) s)
    ∧ (ran (exec .modulePowerOff s) fun t => forgotten s t ∧ aonKept s t ∧ t.mem = [] ∧ t.checkDiff = [] ∧ t.pins = { pins with vin := false, charged := false, porstN := false, releaseHeld := false })
    ∧ (pins.vaon = true → ran (exec .inputStageCharged s) fun t => t = { s with pins := { pins with vin := true, charged := true, releaseHeld := false } })
    ∧ (pins.vaon = false → unchanged (exec .inputStageCharged s) s)
    ∧ (pins.vaon = false → ran (exec .vaonApplied s) fun t => forgotten s t ∧ t.mg = .zero ∧ t.mem = s.mem ∧ t.pins = { pins with vaon := true, porstN := false })
    ∧ (pins.vaon = true → unchanged (exec .vaonApplied s) s)
    ∧ (ran (exec .vaonRemoved s) fun t => forgotten s t ∧ t.mem = s.mem ∧ t.checkDiff = s.checkDiff ∧ t.pins = { pins with vaon := false, porstN := false, releaseHeld := false })
    ∧ (pins.vaon = true → pins.vin = true → s.mg.tripLatch = false → tripAt (dieOf sensor) < x → ran (exec (.thermalTrip sensor x) s) fun t => forgotten s t ∧ t.mem = [] ∧ t.mg.tripLatch = true
        ∧ t.mg.tripSensor = sensor.val ∧ t.mg.tripCount = satInc s.mg.tripCount 0xFF ∧ t.thermtripN = false)
    ∧ ((s.mg.tripLatch = true ∨ x ≤ tripAt (dieOf sensor)) → unchanged (exec (.thermalTrip sensor x) s) s)

/-! ## The security engine (15) -/

/-- 15 R394 to R397: a submission passes its checks in the order of R397 and waits for its effect, or is refused with the first check that fails; a challenge, a relock and a token that is not accepted. -/
def Obligations.TokenSubmission : Prop :=
  ∀ (s : State) (blows : List Bool) (bs : List Byte),
    let x := s.sc
    let tok := rdN x.tokenBuf 0 5960
    let r := s.checkToken tok
    (s.reached = true → s.secOn = true → x.queue = [] → x.tokenOk = false →
      (r = 0 → ran (exec .submit s) fun t => wrotePort s t ∧ t.sc = { x with queue := [.token tok false], busy := true, tokenOk := true } ∧ t.fuses = s.fuses ∧ t.mram = s.mram)
      ∧ (r ≠ 0 → ran (exec .submit s) fun t => wrotePort s t ∧ t.fuses = s.fuses ∧ t.mram = s.mram ∧ t.mg.alert.getLsbD 12 = true
          ∧ t.sc = { x with busy := false, result := r, lastResult := BitVec.ofNat 8 r, lastEvent := 1, events := satInc x.events 0xFFFF, nonce := (s.draw 32).1 }))
    ∧ (s.reached = true → s.secOn = false → ran (exec .submit s) fun t => wrotePort s t ∧ t.sc = { x with queue := x.queue ++ [.token tok false], busy := true })
    ∧ (s.reached = true → ran (exec .challenge s) fun t => wrotePort s t ∧ t.sc = { x with nonce := (s.draw 32).1 } ∧ t.fuses = s.fuses ∧ t.mram = s.mram)
    ∧ (s.reached = true → ran (exec .relock s) fun t => wrotePort s t ∧ t.sc = { x with level := 0 } ∧ t.mram = { s.mram with installed := none } ∧ t.fuses = s.fuses)
    ∧ (s.accepted 1 = none → unchanged (exec .debug s) s) ∧ (s.accepted 2 = none → unchanged (exec (.lifecycle blows) s) s)
    ∧ (s.accepted 3 = none → unchanged (exec (.revoke blows) s) s) ∧ (s.accepted 4 = none → unchanged (exec (.secver blows) s) s)
    ∧ (s.accepted 5 = none → unchanged (exec (.owner blows) s) s)
    ∧ (leAt bs 0 4 ≠ 0x4E4B5444 → s.checkToken bs = 2)
    ∧ (tokFormat bs = true → bytesAt bs 8 32 ≠ s.deviceId → s.checkToken bs = 3)
    ∧ (tokFormat bs = true → bytesAt bs 8 32 = s.deviceId → bytesAt bs 40 32 ≠ x.nonce → s.checkToken bs = 4)
    ∧ (tokFormat bs = true → bytesAt bs 8 32 = s.deviceId → bytesAt bs 40 32 = x.nonce → x.lifecycleNow = 4 → tokKind bs = 1 → s.checkToken bs = 8)
    ∧ (tokFormat bs = true → bytesAt bs 8 32 = s.deviceId → bytesAt bs 40 32 = x.nonce → tokKind bs = 4 → tokHasRoot bs = false → s.checkToken bs = 5)
    ∧ (s.checkToken bs = 0 → tokKind bs = 1 → s.mram.bootCount ≤ leAt bs 72 4 ∧ x.lifecycleNow ≠ 4)
    ∧ (s.checkToken bs = 0 → tokKind bs = 4 → s.fuses.secver < tokArg bs)
    ∧ (s.checkToken bs = 0 → tokKind bs = 3 → s.otherRoot (tokArg bs) = true ∧ tokRoot bs ≠ tokArg bs)

/-- 15 R380 to R383, R396, R397, Tables 1, 2, 8: effects of an accepted token on debug level, lifecycle, revoked roots, security version and owner, each with the token answered and a new challenge; a blow that
fails twice ends the operation with event 7 and result 10. -/
def Obligations.AcceptedTokens : Prop :=
  ∀ (s : State) (bs : List Byte),
    let x := s.sc
    let a := tokArg bs
    let done (t : State) (r : Nat) : Prop := t.sc.queue = [] ∧ t.sc.result = r ∧ t.sc.tokenOk = false ∧ t.sc.busy = false ∧ t.mem = s.mem ∧ t.chans = s.chans ∧ t.slices = s.slices ∧ t.mg.alert.getLsbD 12 = true
    s.secOn = true → x.tokenOk = true → x.queue = [.token bs false] →
      (tokKind bs = 1 → 1 ≤ a → a ≤ 3 → (a < 2 ∨ s.certifies = false) → ran (exec .debug s) fun t => done t 1 ∧ t.fuses = s.fuses ∧ t.sc.level.toNat = max x.level.toNat a
        ∧ t.sc.max.toNat = max x.max.toNat a ∧ t.sc.lastEvent = 4 ∧ t.sc.session = x.session
        ∧ t.mram = (if bitAt (tokFlags bs) 0 then { s.mram with installed := some ⟨BitVec.ofNat 2 a, leAt bs 72 4⟩ } else s.mram))
      ∧ (tokKind bs = 1 → 2 ≤ a → a ≤ 3 → s.certifies = true → s.exhausted = false → ran (exec .debug s) fun t => t.sc.session = none ∧ t.sc.queue = [.session] ∧ t.sc.result = 1
        ∧ t.sc.lastEvent = 10 ∧ t.sc.level.toNat = max x.level.toNat a ∧ t.fuses = s.fuses)
      ∧ (tokKind bs = 2 → a = 1 → (s.fuses.valid0 || s.fuses.valid1) = true → ran (exec (.lifecycle []) s) fun t => done t 1 ∧ t.fuses = { s.fuses with lifecycle := s.fuses.lifecycle ||| 1 }
        ∧ t.mram = { s.mram with idKey := some (s.draw 68).1, nextIndex := 1024 * s.fuses.idBlocks, installed := none } ∧ t.sc.lastEvent = 2)
      ∧ (tokKind bs = 2 → a = 2 → ran (exec (.lifecycle []) s) fun t => done t 1 ∧ t.fuses = { s.fuses with lifecycle := s.fuses.lifecycle ||| 3 } ∧ t.mram = { s.mram with installed := none } ∧ t.sc.lastEvent = 2
        ∧ t.sc.lifecycleNow = x.lifecycleNow)
      ∧ (tokKind bs = 2 → a = 3 → ran (exec (.lifecycle []) s) fun t => done t 1 ∧ t.fuses = { s.fuses with lifecycle := s.fuses.lifecycle ||| 7, secretDisable := true }
        ∧ t.mram = { s.mram with idKey := none, installed := none } ∧ t.sc.lastEvent = 2)
      ∧ (tokKind bs = 2 → a = 4 → x.lifecycleNow ≠ 3 → ran (exec (.lifecycle []) s) fun t => done t 1 ∧ t.fuses = { s.fuses with lifecycle := s.fuses.lifecycle ||| 15, secretDisable := true }
        ∧ t.mram = { s.mram with idKey := none, installed := none } ∧ t.sc.lastEvent = 2)
      ∧ (tokKind bs = 2 → a = 2 → s.fuses.lifecycle = 1 → ran (exec (.lifecycle [false, false]) s) fun t => done t 10 ∧ t.fuses = s.fuses ∧ t.mram = s.mram ∧ t.sc.lastEvent = 1 ∧ t.sc.lastResult = 10)
      ∧ (tokKind bs = 3 → a ≤ 3 → ran (exec (.revoke []) s) fun t => done t 1 ∧ t.fuses = { s.fuses with rootRevoke := s.fuses.rootRevoke ||| BitVec.ofNat 4 (2 ^ a) } ∧ t.mram = s.mram ∧ t.sc.lastEvent = 3)
      ∧ (tokKind bs = 4 → s.fuses.secver ≤ a → a ≤ 64 → s.mg.alert.getLsbD 12 = true → ran (exec (.secver []) s) fun t => done t 1 ∧ t.fuses = { s.fuses with secver := a } ∧ t.mram = s.mram)
      ∧ (tokKind bs = 5 → leNat (shake256 (bytesAt bs 196 68)) ≠ 0 → s.fuses.ownerHash = none → s.mg.alert.getLsbD 12 = true → ran (exec (.owner []) s) fun t => done t 1 ∧ t.mram = s.mram
        ∧ t.fuses = { s.fuses with ownerHash := some (BitVec.ofNat 256 (leNat (shake256 (bytesAt bs 196 68)))), ownerRequired := bitAt (tokFlags bs) 1 || s.fuses.ownerRequired })

/-- 15 R388 to R394: a request for a report is refused while one is under way or outside PROVISIONED and FIELD; a report is sampled when it reaches the head of the queue and signed with the session key, which is
destroyed after 65,536 signatures; a session key takes one identity index, within a block reserved in fuses. -/
def Obligations.Attestation : Prop :=
  ∀ (s : State) (k : SessionKey) (asked : List Byte) (blows : List Bool),
    let x := s.sc
    let nonce := bytesAt x.attNonce 0 32
    let next := s.mram.nextIndex
    let room := 1024 * s.fuses.idBlocks
    (s.reached = true → x.attBusy = true → ran (exec .attestGo s) fun t => wrotePort s t ∧ t.sc = { x with attRefused := true })
    ∧ (s.reached = true → x.attBusy = false → s.secOn = true → x.queue = [] → s.certifies = false → ran (exec .attestGo s) fun t => wrotePort s t ∧ t.sc = { x with attRefused := false, attResult := 2 })
    ∧ (s.reached = true → x.attBusy = false → s.secOn = true → x.queue = [] → s.certifies = true → x.session = some k → x.sample = [] → ran (exec .attestGo s) fun t => wrotePort s t
        ∧ t.sc = { x with attBusy := true, attRefused := false, attResult := 0, queue := [.report false []], sample := t.sc.sample } ∧ t.sc.sample.take 40 = leBytes 4 0x54535441 ++ leBytes 2 1 ++ leBytes 2 0 ++ nonce)
    ∧ (s.reached = true → x.attBusy = false → s.secOn = true → x.queue = [] → s.certifies = true → x.session = none → s.exhausted = true → ran (exec .attestGo s) fun t => wrotePort s t ∧ t.sc = { x with attRefused := false, attResult := 3 })
    ∧ (s.secOn = true → s.certifies = true → (x.queue = [.report false asked] ∨ x.queue = [.report true asked]) → x.session = some k → x.sample ≠ [] →
        (k.nextIndex + 1 < 65536 → x.queue = [.report false asked] → ran (exec .reportSigned s) fun t => t.sc = { x with queue := [], attBuf := x.sample ++ (s.draw 2692).1, attBusy := false, attResult := 1, sample := [], session := some { k with nextIndex := k.nextIndex + 1 } } ∧ t.mram = s.mram ∧ t.fuses = s.fuses)
        ∧ (k.nextIndex + 1 < 65536 → x.queue = [.report true asked] → ran (exec .reportSigned s) fun t => t.sc = { x with queue := [], sbBuf := x.sample ++ (s.draw 2692).1, sample := [], session := some { k with nextIndex := k.nextIndex + 1 } } ∧ t.mram = s.mram ∧ t.fuses = s.fuses)
        ∧ (k.nextIndex + 1 = 65536 → s.exhausted = false → ran (exec .reportSigned s) fun t => t.sc.session = none ∧ t.sc.queue = [.session] ∧ t.sc.sample = [] ∧ t.fuses = s.fuses))
    ∧ (x.queue = [] → unchanged (exec .reportSigned s) s ∧ unchanged (exec (.sessionKeyGenerated blows) s) s)
    ∧ (s.secOn = true → s.certifies = true → s.exhausted = false → x.queue = [.session] →
        (next < room → next + 1 < 2 ^ 20 → ran (exec (.sessionKeyGenerated blows) s) fun t => t.fuses = s.fuses ∧ t.mram = { s.mram with nextIndex := next + 1 } ∧ t.sc.queue = []
            ∧ t.sc.sessionsMade = x.sessionsMade + 1 ∧ ∃ q, t.sc.session = some q ∧ q.nextIndex = 0 ∧ q.generation = x.sessionsMade + 1)
        ∧ (room ≤ next → next + 1 < 2 ^ 20 → ran (exec (.sessionKeyGenerated []) s) fun t => t.fuses = { s.fuses with idBlocks := s.fuses.idBlocks + 1 } ∧ t.mram = { s.mram with nextIndex := next + 1 } ∧ t.sc.lastEvent = 5
            ∧ t.sc.queue = [] ∧ ∃ q, t.sc.session = some q ∧ q.nextIndex = 0)
        ∧ (room ≤ next → ran (exec (.sessionKeyGenerated [false, false]) s) fun t => t.fuses = s.fuses ∧ t.mram = s.mram ∧ t.sc.lastEvent = 7 ∧ t.sc.session = x.session ∧ t.sc.queue = []))

/-! ## Boot and the management core (16) -/

/-- 14 R375, 16 R407 to R411, R416, 17 R431, R435: a reset is released into the boot only with the supplies up and the module cooled; the boot restarts the clocks, clears the arrays after PORST_N and keeps them after
WARMRST_N, counts itself in MRAM, and ends in the phase that lifecycle, straps and a kept image give. -/
def Obligations.BootSequence : Prop :=
  ∀ (s : State) (env : BootEnv) (c : Chan),
    let p := s.pins
    let b := s.mg.boot
    let supplied := p.vaon = true ∧ p.vin = true ∧ p.refclk = true
    let hot := s.mg.tripLatch = true ∧ tripAt (dieOf s.mg.tripSensor) - 60 < env.tripReading
    let lc := lifecycleCode s.fuses.lifecycle
    let straps (warm : Bool) := if warm then b.straps else p.strapPins
    let started (t : State) (warm : Bool) : Prop := t.refCount = 0 ∧ t.master = 0 ∧ t.mg.tripLatch = false ∧ t.pins.porstN = true ∧ t.pins.warmrstN = true ∧ t.mg.boot.por = !warm ∧ t.mg.boot.warm = warm
      ∧ t.mg.boot.recover = false ∧ t.mg.boot.watchdog = false ∧ t.mg.boot.afterTrip = (!warm && s.mg.tripLatch) ∧ t.mg.boot.straps = straps warm ∧ t.mg.boot.channelsReady = true
      ∧ t.mg.linkDom = .zero ∧ t.mg.switchDom = .zero ∧ t.mg.mgmtDom = .zero ∧ t.mg.secDom = .zero ∧ (t.chan c).awake = true ∧ (t.chan c).pwr = { Channel.zero.pwr with pllOn := true }
      ∧ t.sc.lifecycleNow = BitVec.ofNat 4 lc ∧ t.fuses = { s.fuses with idBlocks := t.fuses.idBlocks } ∧ t.slices = s.slices
      ∧ (env.bootRecordOk = true → s.fuses.secretDisable = false → t.mram.bootCount = (s.mram.bootCount + 1) % 2 ^ 32)
      ∧ ((env.bootRecordOk = false ∨ s.fuses.secretDisable = true) → t.mram.bootCount = 1)
    ((¬ supplied ∨ (p.porstN = true ∧ p.warmrstN = true ∧ (b.stage = 0 ∨ 4 ≤ b.stage))) → unchanged (exec (.boot env) s) s)
    ∧ (supplied → p.porstN = false → p.charged = false → ran (exec (.boot env) s) fun t => t = { s with pins := { p with releaseHeld := true } })
    ∧ (supplied → p.porstN = false → p.charged = true → hot → ran (exec (.boot env) s) fun t =>
        t = { s with pins := { p with porstN := true, releaseHeld := false, aonPin := env.aonToggles }, mg := { s.mg with boot := { b with zeroPending := true } } })
    ∧ (supplied → p.porstN = false → p.charged = true → ¬ hot → s.sc.queue = [] → 4 ≤ env.stages → ran (exec (.boot env) s) fun t => started t false ∧ t.mem = [] ∧ t.checkDiff = [] ∧ t.mg.boot.wdExpiries = 0
        ∧ t.mg.boot.phase = (if lc = 4 then .closed else if p.strapPins.getLsbD 3 then .hwInit else .waitImage))
    ∧ (supplied → p.porstN = false → p.charged = true → ¬ hot → env.stages = 1 → ran (exec (.boot env) s) fun t => t.mg.boot.stage = 1 ∧ t.mg.boot.zeroPending = true ∧ t.mg.boot.channelsReady = b.channelsReady
        ∧ t.mem = s.mem ∧ t.pins.porstN = true)
    ∧ (supplied → p.porstN = true → p.warmrstN = true → b.stage = 3 → 4 ≤ env.stages → ran (exec (.boot env) s) fun t => t.mg.boot.stage = 4 ∧ t.mg.boot.zeroPending = false ∧ t.mg.boot.channelsReady = true)
    ∧ (supplied → p.porstN = true → p.warmrstN = false → s.mg.tripLatch = true → ran (exec (.boot env) s) fun t => t = { s with pins := { p with warmrstN := true } })
    ∧ (supplied → p.porstN = true → p.warmrstN = false → s.mg.tripLatch = false → s.sc.queue = [] → 4 ≤ env.stages → ran (exec (.boot env) s) fun t => started t true
        ∧ (b.zeroPending = true → t.mem = [] ∧ t.checkDiff = [])
        ∧ (b.zeroPending = false → s.mram.repairs = [] → env.sweeps = [] →
            (∀ c b, ((s.chan c).darnOf b).physBank = (tget (tget s.fuses.maps c .plain).darn b ⟨b, 16, false, false⟩).physBank) → t.mem = s.mem ∧ t.checkDiff = s.checkDiff)
        ∧ t.mg.boot.wdExpiries = b.wdExpiries
        ∧ t.mg.boot.phase = (if lc = 4 then .closed else if b.straps.getLsbD 3 then .hwInit else if b.keptSlot then .verify else .waitImage))

/-- 15 R384, R385, 16 R411 to R418: claims, the end of a load, its timeout, the verification of an image and its two outcomes, recovery and the watchdog. -/
def Obligations.FirmwareDelivery : Prop :=
  ∀ (s : State) (key : W16) (m : Memory),
    let b := s.mg.boot
    let h := rdN b.slot 0 256
    let r := s.checkContainer b.slot
    let freshSlot : BootSt := { b with phase := .waitImage, source := .none, slotValid := false, slot := [] }
    let restarted (wd : Bool) (t : State) : Prop := t.mg.boot.phase = (if b.phase = .closed then .closed else if b.straps.getLsbD 3 then .hwInit else .waitImage) ∧ t.mg.boot.source = .none ∧ t.mg.boot.lastResult = 0
      ∧ t.mg.boot.slotValid = false ∧ t.mg.boot.level = 0 ∧ t.mg.boot.coreHalted = false ∧ t.mg.boot.recover = !wd ∧ t.mg.boot.watchdog = wd ∧ t.mg.boot.por = false ∧ t.mg.boot.warm = false
      ∧ t.mg.boot.slot = b.slot ∧ t.mg.boot.straps = b.straps ∧ t.mem = s.mem ∧ t.slices = s.slices ∧ t.chans = s.chans
    (s.reached = true →
      (b.phase = .waitImage → b.straps.getLsbD 2 = false → ran (exec .startLink s) fun t => wrotePort s t
        ∧ t.mg = { s.mg with boot := { b with phase := .loading, source := .link, slotValid := false, slot := [], claimRefused := false, loadStart := s.refCount } })
      ∧ ((b.phase ≠ .waitImage ∨ b.straps.getLsbD 2 = true) → ran (exec .startLink s) fun t => wrotePort s t ∧ t.mg = { s.mg with boot := { b with claimRefused := true } })
      ∧ (b.phase = .loading → s.sc.queue = [] → ran (exec .bootGo s) fun t => wrotePort s t ∧ t.mg.boot.phase = .verify ∧ t.mg.boot.slot = b.slot ∧ t.sc.queue = [.firmware])
      ∧ (b.phase ≠ .loading → ran (exec .bootGo s) fun t => wrotePort s t ∧ t.mg = s.mg ∧ t.sc = s.sc)
      ∧ (b.phase = .loading → ran (exec .abandon s) fun t => wrotePort s t ∧ t.mg = { s.mg with boot := freshSlot })
      ∧ (b.phase ≠ .loading → ran (exec .abandon s) fun t => wrotePort s t ∧ t.mg = s.mg)
      ∧ (key = 0x4C0A → ran (exec (.recover key) s) fun t => wrotePort s t ∧ restarted false t ∧ t.mg.boot.wdExpiries = b.wdExpiries)
      ∧ (key ≠ 0x4C0A → ran (exec (.recover key) s) fun t => wrotePort s t ∧ t.mg = s.mg ∧ t.sc = s.sc))
    ∧ (b.phase = .loading → b.loadStart + usRef 10000000 ≤ s.refCount → ran (exec .loadTimeout s) fun t => t = { s with mg := { s.mg with boot := freshSlot } })
    ∧ ((b.phase ≠ .loading ∨ s.refCount < b.loadStart + usRef 10000000) → unchanged (exec .loadTimeout s) s)
    ∧ (s.secOn = true → s.sc.queue = [.firmware] →
        (r = 1 → ran (exec .firmwareVerified s) fun t => t.mg = { s.mg with boot := t.mg.boot } ∧ t.mg.boot.phase = .running ∧ t.mg.boot.slotValid = true ∧ t.mg.boot.lastResult = 1 ∧ t.mg.boot.slot = b.slot
          ∧ t.sc = { s.sc with queue := [], fwMeas := shake256 h, fwHeader := h })
        ∧ (r ≠ 1 → ran (exec .firmwareVerified s) fun t => t.mg.boot = { freshSlot with lastResult := r, coreWait := false } ∧ t.mg.alert.getLsbD 11 = true ∧ t.mg.alert.getLsbD 12 = true
          ∧ t.sc = { s.sc with queue := [], lastEvent := 8, lastResult := BitVec.ofNat 8 r, events := satInc s.sc.events 0xFFFF }))
    ∧ (s.sc.queue = [] → unchanged (exec .firmwareVerified s) s)
    ∧ (s.checkContainer m = 1 → leAt (rdN m 0 256) 0 4 = 0x58505249 ∧ s.fuses.secver ≤ leAt (rdN m 0 256) 12 2 ∧ s.rootSet (leAt (rdN m 0 256) 14 1) = true ∧ s.rootRevoked (leAt (rdN m 0 256) 14 1) = false
        ∧ bytesAt (rdN m 0 256) 24 32 = shake256 (rdN m 5952 (payloadSize (rdN m 0 256))))
    ∧ (s.powered = true → b.slotValid = false → ran (exec .mgmtWatchdogExpire s) fun t => restarted true t ∧ t.mg.alert.getLsbD 11 = true ∧ t.mg.boot.wdExpiries = satInc b.wdExpiries 0xFF)
    ∧ (s.powered = true → b.slotValid = true → 3 ≤ s.recentExpiries.length → ran (exec .mgmtWatchdogExpire s) fun t => restarted true t ∧ t.mg.alert.getLsbD 11 = true ∧ t.mg.boot.wdExpiries = satInc b.wdExpiries 0xFF)
    ∧ (s.powered = true → b.slotValid = true → s.recentExpiries.length < 3 → b.phase ≠ .closed → b.straps.getLsbD 3 = false → ran (exec .mgmtWatchdogExpire s) fun t => t.mg.boot.phase = .verify ∧ t.mg.boot.slot = b.slot
        ∧ SecReq.firmware ∈ t.sc.queue ∧ t.mg.alert.getLsbD 11 = true)
    ∧ (s.powered = false → unchanged (exec .mgmtWatchdogExpire s) s)

/-- 16 R419, R421: what running firmware does with a measured load, a repair it decides on and an alert bit that is set; nothing while it does not run. -/
def Obligations.ManagementDuties : Prop :=
  ∀ (s : State) (u : Nat) (kind : RepairKind) (c : Chan) (bank : BankIx) (target : W16) (bit : Fin 13),
    let b := s.mg.boot
    let full := kind = .row ∧ 32 ≤ s.rowsUsed c bank
    (s.fwRuns = true → ran (exec (.shedMeasure u) s) fun t => t = { s with mg := { s.mg with boot := t.mg.boot } } ∧ t.mg.boot.busyPct = min u 255
      ∧ (90 < u → t.mg.boot.level = max (min 3 (b.level + 1)) b.forcedMin ∧ t.mg.boot.calm = 0)
      ∧ (60 ≤ u → u ≤ 90 → t.mg.boot.level = max b.level b.forcedMin ∧ t.mg.boot.calm = 0)
      ∧ (u < 60 → b.calm + 1 < 10 → t.mg.boot.level = max b.level b.forcedMin ∧ t.mg.boot.calm = b.calm + 1)
      ∧ (u < 60 → b.calm + 1 = 10 → t.mg.boot.level = max (b.level - 1) b.forcedMin ∧ t.mg.boot.calm = 0))
    ∧ (s.fwRuns = true → s.mram.repairs.length < 4096 → ran (exec (.repairRecord kind c bank target) s) fun t =>
        t = { s with mram := { s.mram with repairs := s.mram.repairs ++
          [⟨if full then .bank else kind, c.val, bank.val, if full then 0 else target.toNat, s.mram.repairs.length + 1, true⟩] } })
    ∧ (s.fwRuns = true → 4096 ≤ s.mram.repairs.length → ran (exec (.repairRecord kind c bank target) s) fun t => t = { s with mg := t.mg } ∧ t.mg.alert.getLsbD 11 = true ∧ onlyAlerts s t)
    ∧ (s.fwRuns = true → s.mg.alert.getLsbD bit.val = true → ran (exec (.platformEventMessage bit) s) fun t => t = { s with mg := { s.mg with boot := { b with sbOut := [BitVec.ofNat 8 bit.val] } } })
    ∧ (s.fwRuns = false → unchanged (exec (.shedMeasure u) s) s ∧ unchanged (exec (.repairRecord kind c bank target) s) s)
    ∧ ((s.fwRuns = false ∨ s.mg.alert.getLsbD bit.val = false) → unchanged (exec (.platformEventMessage bit) s) s)

/-- 16 R422, R423, Tables 6 and 7: a transaction with a bad PEC is discarded; the boot ROM's commands answer in every phase, firmware's with 4 (wrong state) while none runs, and each with its data or its refusal. -/
def Obligations.Sideband : Prop :=
  ∀ (s : State) (off32 : W32) (off : W16) (bytes nonce : List Byte) (len count : Nat) (first : Byte) (c tfirst : W16) (eid ty : Byte) (k : PldmSensor),
    let b := { s.mg.boot with coreWait := false }
    let gives (bs : List Byte) (r : Result) : Prop := ran r fun t => t = { s with mg := { s.mg with boot := { b with sbOut := bs } } }
    let fw : List (Bool → Instr) := [fun p => .attest p nonce, fun p => .attestRead p off len, fun p => .errlogRead p first count, fun p => .darnRead p c, fun p => .traceRead p tfirst count, fun p => .getSensorReading p k]
    let rom : List (Bool → Instr) := [fun p => .getBootStatus p, fun p => .fwBegin p, fun p => .fwChunk p off32 bytes, fun p => .fwEnd p, fun p => .getChallenge p, fun p => .tokenLoad p off bytes, fun p => .tokenSubmit p,
      fun p => .setEndpointId p eid, fun p => .getEndpointId p, fun p => .getMctpVersionSupport p ty, fun p => .getMessageTypeSupport p, fun p => .getVendorMessageSupport p]
    (∀ f ∈ fw ++ rom, unchanged (exec (f false) s) s ∧ (s.powered = true → s.mg.mgmtDom.state ≠ .on → ran (exec (f true) s) fun t => t = { s with mg := { s.mg with boot := b } }.wake .management))
    ∧ (s.sbReady = true → s.fwRuns = false → ∀ f ∈ fw, gives [4] (exec (f true) s))
    ∧ (s.sbReady = true →
      gives (0 :: leBytes 4 b.statusWord ++ leBytes 4 b.causeWord) (exec (.getBootStatus true) s)
      ∧ (b.phase = .waitImage → ran (exec (.fwBegin true) s) fun t => t = { s with mg := { s.mg with boot := { b with phase := .loading, source := .smbus, slotValid := false, slot := [], claimRefused := false, loadStart := s.refCount, sbOut := [0] } } })
      ∧ (b.phase = .loading → gives [1] (exec (.fwBegin true) s)) ∧ (b.phase = .closed → gives [3, 2] (exec (.fwBegin true) s))
      ∧ ((b.phase = .hwInit ∨ b.phase = .verify ∨ b.phase = .running) → gives [4] (exec (.fwBegin true) s))
      ∧ ((b.phase ≠ .loading ∨ b.source ≠ .smbus) → gives [4] (exec (.fwChunk true off32 bytes) s))
      ∧ (b.phase = .loading → b.source = .smbus → 1024 < bytes.length → gives [2] (exec (.fwChunk true off32 bytes) s))
      ∧ (b.phase = .loading → b.source = .smbus → bytes.length ≤ 1024 → ran (exec (.fwChunk true off32 bytes) s) fun t => t = { s with mg := { s.mg with boot := { b with slot := wrL b.slot off32.toNat (bytes.take (0x70000 - off32.toNat)), loadStart := s.refCount, sbOut := [0] } } })
      ∧ (b.phase ≠ .loading → gives [4] (exec (.fwEnd true) s))
      ∧ (b.phase = .loading → s.sc.queue = [] → ran (exec (.fwEnd true) s) fun t => t.mg.boot = { b with phase := .verify, sbOut := [0] } ∧ t.sc.queue = [.firmware])
      ∧ gives (0 :: bytesAt s.sc.nonce 0 32) (exec (.getChallenge true) s)
      ∧ (1024 < bytes.length → gives [2] (exec (.tokenLoad true off bytes) s))
      ∧ (bytes.length ≤ 1024 → ran (exec (.tokenLoad true off bytes) s) fun t => t.mg = { s.mg with boot := { b with sbOut := [0] } } ∧ t.sc = { s.sc with tokenBuf := wrL s.sc.tokenBuf off.toNat (bytes.take (8192 - off.toNat)) })
      ∧ (s.secOn = false → ran (exec (.tokenSubmit true) s) fun t => t.mg.boot = { b with sbOut := [] }
          ∧ t.sc = { s.sc with queue := s.sc.queue ++ [.token (rdN s.sc.tokenBuf 0 5960) true], busy := true })
      ∧ (s.secOn = true → s.sc.queue = [] → s.sc.tokenOk = false → s.checkToken (rdN s.sc.tokenBuf 0 5960) = 0 → ran (exec (.tokenSubmit true) s) fun t => t.mg.boot = { b with sbOut := [] }
          ∧ t.sc = { s.sc with queue := [.token (rdN s.sc.tokenBuf 0 5960) true], busy := true, tokenOk := true })
      ∧ (s.secOn = true → s.sc.queue = [] → s.sc.tokenOk = false → s.checkToken (rdN s.sc.tokenBuf 0 5960) ≠ 0 → ran (exec (.tokenSubmit true) s) fun t => t.sc.queue = [] ∧ t.sc.result = s.checkToken (rdN s.sc.tokenBuf 0 5960)
          ∧ t.mg.boot = { b with sbOut := [3, BitVec.ofNat 8 (s.checkToken (rdN s.sc.tokenBuf 0 5960))] } ∧ t.fuses = s.fuses ∧ t.mram = s.mram)
      ∧ ((eid = 0 ∨ eid = 0xFF) → gives [2] (exec (.setEndpointId true eid) s))
      ∧ (eid ≠ 0 → eid ≠ 0xFF → ran (exec (.setEndpointId true eid) s) fun t => t = { s with mg := { s.mg with boot := { b with eid := eid, sbOut := [0, 0, eid] } } })
      ∧ gives [0, b.eid] (exec (.getEndpointId true) s)
      ∧ (ran (exec (.getMctpVersionSupport true ty) s) fun t => t.mg = { s.mg with boot := { b with sbOut := t.mg.boot.sbOut } } ∧ t.sc = s.sc ∧ t.mem = s.mem ∧ t.chans = s.chans)
      ∧ gives [0, 2, 0x01, 0x7E] (exec (.getMessageTypeSupport true) s)
      ∧ gives (0 :: 0xFF :: 1 :: leBytes 4 Config.enterprise.toNat) (exec (.getVendorMessageSupport true) s))
    ∧ (s.fwRuns = true →
      (nonce.length ≠ 32 → gives [2] (exec (.attest true nonce) s))
      ∧ (nonce.length = 32 → s.sbReport = true → gives [1] (exec (.attest true nonce) s))
      ∧ (nonce.length = 32 → s.sbReport = false → s.certifies = false → gives [3, 2] (exec (.attest true nonce) s))
      ∧ (ran (exec (.attest true nonce) s) fun t => t.mem = s.mem ∧ t.chans = s.chans ∧ t.fuses = s.fuses ∧ t.mram = s.mram ∧ t.sc.level = s.sc.level)
      ∧ (nonce.length = 32 → s.certifies = true → s.secOn = false → s.sbReport = false → ran (exec (.attest true nonce) s) fun t => t.mg.boot = { b with sbOut := [0] } ∧ t.sc = { s.sc with queue := s.sc.queue ++ [.report true nonce] })
      ∧ (1024 < len → gives [2] (exec (.attestRead true off len) s)) ∧ (len ≤ 1024 → s.sbReport = true → gives [1] (exec (.attestRead true off len) s))
      ∧ (len ≤ 1024 → s.sbReport = false → gives (0 :: bytesAt s.sc.sbBuf off.toNat len) (exec (.attestRead true off len) s))
      ∧ ((count = 0 ∨ 16 < count ∨ 256 < first.toNat + count) → gives [2] (exec (.errlogRead true first count) s))
      ∧ (count ≠ 0 → count ≤ 16 → first.toNat + count ≤ 256 → gives (0 :: (upFrom first.toNat count).flatMap s.mg.errBytes) (exec (.errlogRead true first count) s))
      ∧ (512 ≤ c.toNat → gives [2] (exec (.darnRead true c) s))
      ∧ (c.toNat < 512 → gives (0 :: (s.chan c.toNat).darnBytes ++ leBytes 4 (s.chan c.toNat).darnStatus) (exec (.darnRead true c) s))
      ∧ ((count = 0 ∨ 64 < count ∨ 4096 < tfirst.toNat + count) → gives [2] (exec (.traceRead true tfirst count) s))
      ∧ (count ≠ 0 → count ≤ 64 → tfirst.toNat + count ≤ 4096 → gives (0 :: (upFrom tfirst.toNat count).flatMap s.mg.traceBytes) (exec (.traceRead true tfirst count) s))
      ∧ (b.level = 0 → ran (exec (.getSensorReading true k) s) fun t => t.mg = { s.mg with boot := { b with polled := t.mg.boot.polled, sbOut := 0 :: 0 :: leBytes 4 (wrapNat (t.mg.boot.lastPolled k) 32) } } ∧ t.mem = s.mem)
      ∧ (1 ≤ b.level → b.pollsShed + 1 < 0xFFFF → ran (exec (.getSensorReading true k) s) fun t => t = { s with mg := { s.mg with boot := { b with pollsShed := b.pollsShed + 1, sbOut := 0 :: 3 :: leBytes 4 (wrapNat (b.lastPolled k) 32) } } }))

/-! ## The TAP (15 R398 to R400; 17 R437, R442; 18 R448) -/

/-- 15 R398 to R400, Table 8, 17 R437, R442: what the TAP's instructions shift, and what the debug level, a strict channel, a power state and a lease leave of a debugger's access; what a shift through an
open scan chain gives is free (log 77: the spec gives no chain's layout). -/
def Obligations.DebugAccess : Prop :=
  ∀ (s : State) (tdi : List Bool) (off : Nat) (bytes : List Byte) (addr : HostAddr) (op : DbgOp) (d : Domain) (sl : SliceId) (a : Fin 32768) (v : Byte) (pc : BitVec 18) (mpc : W32) (on : Bool) (v32 : Nat) (data : DataOff),
    let x := s.sc
    let w := s.wake .security
    let shifted (n r : Nat) (st : TapStatus) : State := { w with sc := { x with tdo := (upFrom 0 n).map r.testBit, tapStatus := st } }
    let passed : State := { s with sc := { x with tdo := (false :: tdi).take tdi.length, bypassBit := tdi.getLastD x.bypassBit } }
    let bank := (s.chan (slChan sl)).bank (slBank sl)
    let opened := 2 ≤ x.level.toNat ∧ (s.chan (slChan sl)).strictCtx = false
    let onBank (f : SliceSt → SliceSt) (r : Result) : Prop := ran r fun t => (t.slice sl) = f (s.slice sl) ∧ (∀ k, k ≠ sl → t.slice k = s.slice k) ∧ t.sc = (shifted 32 0 .ok).sc ∧ t.mem = s.mem ∧ t.chans = s.chans
    let all : List Instr := [.bypass tdi, .idcode, .extest tdi, .samplePreload tdi, .tapTokenLoad off bytes, .dbgObserve addr, .dbgAccess op, .dbgScan d tdi]
    (s.tapRuns = false → ∀ i ∈ all, unchanged (exec i s) s)
    ∧ (s.pins.vaon = true → ran (exec .trstNAssert s) fun t => t = { s with sc := { x with tdo := [], tapStatus := .ok, bypassBit := false }, pins := { s.pins with trstN := false } })
    ∧ (s.pins.vaon = false → unchanged (exec .trstNAssert s) s)
    ∧ (s.tapRuns = true →
      (ran (exec (.bypass tdi) s) fun t => t = passed)
      ∧ (ran (exec .idcode s) fun t => t = { s with sc := { x with tdo := t.sc.tdo } } ∧ t.sc.tdo.length = 32 ∧ t.sc.tdo.head? = some true
          ∧ (∀ i, i < 16 → t.sc.tdo[12 + i]? = some ((0x9A10).testBit i)) ∧ (∀ i, i < 4 → t.sc.tdo[28 + i]? = some (s.fuses.stepping.toNat.testBit i)))
      ∧ ((x.level = 0 ∨ x.level = 1) → (ran (exec (.extest tdi) s) fun t => t = passed) ∧ ran (exec (.samplePreload tdi) s) fun t => t = passed)
      ∧ ((x.level = 2 ∨ x.level = 3) → (ran (exec (.extest tdi) s) fun t => t = { s with sc := { x with tdo := t.sc.tdo }, free := s.free + 1 } ∧ t.sc.tdo.length = tdi.length)
          ∧ ran (exec (.samplePreload tdi) s) fun t => t = { s with sc := { x with tdo := t.sc.tdo }, free := s.free + 1 } ∧ t.sc.tdo.length = tdi.length))
    ∧ (s.tapRuns = true → s.powered = true →
      (ran (exec (.tapTokenLoad off bytes) s) fun t => t = { s with sc := { x with tokenBuf := wrL x.tokenBuf off (bytes.take (8192 - off)) } }.wake .security)
      ∧ (x.level = 0 → (ran (exec (.dbgObserve addr) s) fun t => t = shifted 32 0 .denied) ∧ ran (exec (.dbgAccess op) s) fun t => t = shifted 32 0 .denied)
      ∧ (x.level.toNat < 2 → (∀ r, op ≠ .readReg r) → ran (exec (.dbgAccess op) s) fun t => t = shifted 32 0 .denied)
      ∧ (w.wordOf w.now (regTarget addr) = none → ran (exec (.dbgObserve addr) s) fun t => t = shifted 32 0 .denied)
      ∧ (x.level ≠ 0 → w.wordOf w.now (regTarget addr) = some v32 → observable (regTarget addr) = true → s.targetPower (regTarget addr) ≠ .off → (ran (exec (.dbgObserve addr) s) fun t => t = shifted 32 v32 .ok)
          ∧ ran (exec (.dbgAccess (.readReg addr)) s) fun t => t = shifted 32 v32 .ok)
      ∧ ((s.chan (slChan sl)).strictCtx = true → ∀ o ∈ [DbgOp.readScratch sl a, .writeScratch sl a v, .halt sl, .release sl, .step sl], ran (exec (.dbgAccess o) s) fun t => t = shifted 32 0 .denied)
      ∧ (opened → bank.pwr.state = .off → ∀ o ∈ [DbgOp.readScratch sl a, .writeScratch sl a v, .halt sl, .release sl, .step sl], ran (exec (.dbgAccess o) s) fun t => t = shifted 32 0 .denied)
      ∧ (opened → bank.pwr.state = .retention → (ran (exec (.dbgAccess (.readScratch sl a)) s) fun t => t = shifted 32 0 .denied)
          ∧ ∀ o ∈ [DbgOp.writeScratch sl a v, .halt sl, .release sl, .step sl, .breakpoint sl pc on], ran (exec (.dbgAccess o) s) fun t => t = shifted 32 0 .notOn)
      ∧ (opened → bank.pwr.state = .on →
        (ran (exec (.dbgAccess (.readScratch sl a)) s) fun t => t = shifted 8 (rd (s.slice sl).scratch a.val).toNat .ok)
        ∧ ((s.chan (slChan sl)).leased (slBank sl) = true → ran (exec (.dbgAccess (.writeScratch sl a v)) s) fun t => t = shifted 32 0 .leased)
        ∧ ((s.chan (slChan sl)).leased (slBank sl) = false → onBank (fun y => { y with scratch := wr y.scratch a.val v }) (exec (.dbgAccess (.writeScratch sl a v)) s))
        ∧ onBank (fun y => { y with halted := true, stepping := false }) (exec (.dbgAccess (.halt sl)) s)
        ∧ onBank (fun y => { y with halted := false, stepping := false }) (exec (.dbgAccess (.release sl)) s)
        ∧ onBank (fun y => { y with stepping := y.halted }) (exec (.dbgAccess (.step sl)) s)
        ∧ ran (exec (.dbgAccess (.breakpoint sl pc true)) s) fun t => pc.toNat ∈ (t.slice sl).breaks ∧ t.mem = s.mem ∧ ∀ k, k ≠ sl → t.slice k = s.slice k)
      ∧ (2 ≤ x.level.toNat → (s.chan (offChan data.toNat)).strictCtx = false → (s.chan (offChan data.toNat)).pwr.dom.state = .on → ran (exec (.dbgAccess (.readArray data)) s) fun t =>
          t = shifted 8 (rd s.mem data.toNat).toNat .ok)
      ∧ (2 ≤ x.level.toNat → s.mg.mgmtDom.state = .on →
        let core (o : DbgOp) (b : BootSt) : Prop := ran (exec (.dbgAccess o) s) fun t => t = { shifted 32 0 .ok with mg := { w.mg with boot := b } }
        core .haltCore { w.mg.boot with coreHalted := true } ∧ core .releaseCore { w.mg.boot with coreHalted := false } ∧ core .stepCore w.mg.boot
        ∧ core (.breakpointCore mpc on) { w.mg.boot with coreBreaks := setBreak mpc.toNat on w.mg.boot.coreBreaks })
      ∧ (x.level ≠ 3 → ran (exec (.dbgScan d tdi) s) fun t => t = shifted 32 0 .denied)
      ∧ (x.level = 3 → (s.dom d).state ≠ .on → ran (exec (.dbgScan d tdi) s) fun t => t = shifted 32 0 .notOn)
      ∧ (x.level = 3 → (s.dom d).state = .on → ran (exec (.dbgScan d tdi) s) fun t => t = { w with free := s.free + 1, sc := { x with tdo := t.sc.tdo, tapStatus := .ok } } ∧ t.sc.tdo.length = tdi.length))

/-! ## The machine as a whole -/

/-- Log 2: a step runs the command at the front of the queue on the state with the queue's rest, and on an empty queue lets one cycle of the reference clock pass. -/
def Obligations.StepRunsTheFrontCommand : Prop :=
  ∀ (s : State) (c : Instr) (rest : List Instr),
    step { s with pending := c :: rest } = exec c { s with pending := rest } ∧ (s.pending = [] → step s = .next s.tick)

/-- 06 R187 to R192, 07 R208, R212, 08 R223, 10 R302: operands that no encoding of the operation holds are refused by name. -/
def Obligations.NoEncodingStops : Prop :=
  ∀ (s : State) (sl : SliceId) (e : Engine) (k : Fin 16) (a d : AReg) (vs : Fin 256) (off : Int) (m : BxMove) (op : MmaOp) (r : RoundOp) (run : VxRun) (par : Option Storage),
    let refuses (i : Instr) (name : String) : Prop := exec i s = .refused (.noEncoding name)
    refuses (.semSig sl e k 0) "SEM_SIG" ∧ refuses (.semWait sl e k 0) "SEM_WAIT" ∧ refuses (.jmp sl .cx off) "JMP" ∧ refuses (.brar sl .cx a off) "BRAR"
    ∧ ((d.val = 0 ∨ 27 < d.val) → refuses (.cxSumpop sl d) "CX_SUMPOP")
    ∧ (m.ok = false → refuses (.bxLd sl m) "BX_LD" ∧ refuses (.bxSt sl m par) "BX_ST")
    ∧ (op.ok = false → refuses (.mxMma sl op par) "MX_MMA") ∧ (r.ok = false → refuses (.mxRound sl r par) "MX_ROUND")
    ∧ (run.ok = false → refuses (.vxRun sl run par) "VX_RUN") ∧ refuses (.bxSsig sl vs (.imm 0)) "BX_SSIG" ∧ refuses (.bxSsub sl vs (.imm 0)) "BX_SSUB"

/-- What reset leaves, before the boot: 02 Tables 4 and 5, 03 Table 14, 04 R108, R115, 05 R137, R146, 10 R274, 12 Tables 3, 6 and 8, 13 R342, Table 13, 14 Tables 1 and 6, 15 Tables 1 and 9, 16 Tables 1 and 2; values the
spec gives no reset for are the model's choice (logs 4 to 7).
The model's memory (log 7): contents of data space are kept in one canonical form, at reset. -/
def Obligations.ResetState : Prop :=
  (let s := State.reset
  (∀ w, w < 1024 → s.win w = 1) ∧ (∀ k, k < 16 → s.mask k = maskReset k) ∧ s.port.compute = false ∧ s.port.strict = false ∧ s.port.armedAt = none ∧ s.port.lastStatus = .ok ∧ s.port.wins = []
    ∧ (∀ c r, s.ctx c r = .zero) ∧ (∀ c r, (s.ctx c r).state = .free) ∧ (∀ sl e, ((s.slice sl).eng e).active = false) ∧ (∀ sl, (s.slice sl).layer = none) ∧ (∀ o, (s.syncObj o).error = false)
    ∧ s.mem = [] ∧ s.pending = [] ∧ s.mg.boot.phase = .hwInit ∧ s.mg.alert = 0 ∧ s.sc.level = 0 ∧ s.sc.queue = [] ∧ s.fuses.lifecycle = 0 ∧ s.pins.porstN = false ∧ s.mg.tripLatch = false
    ∧ (∀ g, (s.group g).state = .off) ∧ s.powered = false ∧ s.reached = false)
  ∧ (Memory.wf State.reset.mem = true ∧ ∀ a, rd State.reset.mem a = 0)

/-- Every step keeps data space in its canonical form: addresses strictly rising and no byte listed that reads as an unlisted one does (log 7). -/
def Obligations.MemoryStaysCanonical : Prop :=
  ∀ s t : State, Memory.wf s.mem = true → step s = .next t → Memory.wf t.mem = true

/-- 15 R381: a fuse once blown stays blown: the commands that blow fuses, whatever their blows come to, clear none of them. -/
def Obligations.FusesOnlyGrow : Prop :=
  ∀ (s : State) (blows : List Bool) (env : BootEnv),
    ∀ c ∈ [Instr.lifecycle blows, .revoke blows, .secver blows, .owner blows, .sessionKeyGenerated blows, .boot env],
      ran (exec c s) fun t => (∀ i, s.fuses.lifecycle.getLsbD i = true → t.fuses.lifecycle.getLsbD i = true) ∧ (∀ i, s.fuses.rootRevoke.getLsbD i = true → t.fuses.rootRevoke.getLsbD i = true)
        ∧ (s.fuses.secretDisable = true → t.fuses.secretDisable = true) ∧ (s.fuses.ownerRequired = true → t.fuses.ownerRequired = true)
        ∧ (∀ h, s.fuses.ownerHash = some h → h ≠ 0 → ∃ h', t.fuses.ownerHash = some h' ∧ ∀ i, h.getLsbD i = true → h'.getLsbD i = true)
        ∧ (s.fuses.secver ≤ 64 → s.fuses.secver ≤ t.fuses.secver) ∧ s.fuses.idBlocks ≤ t.fuses.idBlocks
        ∧ (s.fuses.valid0 = true → t.fuses.valid0 = true ∧ t.fuses.secret0 = s.fuses.secret0) ∧ (s.fuses.valid1 = true → t.fuses.valid1 = true ∧ t.fuses.secret1 = s.fuses.secret1)
        ∧ t.fuses.serial = s.fuses.serial ∧ t.fuses.rootHash = s.fuses.rootHash ∧ t.fuses.grade = s.fuses.grade ∧ t.fuses.fp64 = s.fuses.fp64

/-- 02 R44, R45: the interleaved view takes its fields from the address, inverts a channel or bank bit when its mask selects an odd number of ones, passes row and byte through, and is one to one; a host address goes
through it in the windows that ask for it. -/
def Obligations.InterleavedView : Prop :=
  ∀ (s : State) (a b : Nat), a < 2 ^ 40 → b < 2 ^ 40 →
    let p := s.unhash a
    let selects (k j : Nat) : Bool := if 29 ≤ j then (s.mask k).testBit (j - 29) else decide (17 ≤ j ∧ j ≤ 21) && (s.mask k).testBit (j - 17 + 11)
    let odd (k : Nat) : Bool := decide (((upFrom 0 40).filter (fun j => a.testBit j && selects k j)).length % 2 = 1)
    p < 2 ^ 40
    ∧ (∀ i, i < 8 → p.testBit i = a.testBit i)
    ∧ (∀ i, i < 5 → p.testBit (8 + i) = a.testBit (17 + i))
    ∧ (∀ i, i < 11 → p.testBit (13 + i) = a.testBit (29 + i))
    ∧ (∀ i, i < 9 → offChan p < 512 ∧ (offChan p).testBit i = (a.testBit (8 + i) ^^ odd i))
    ∧ (∀ i, i < 7 → (offBank p).testBit i = (a.testBit (22 + i) ^^ odd (9 + i)))
    ∧ (s.unhash a = s.unhash b → a = b)
    ∧ s.placed a = (if (s.win (a / 2 ^ 30)).testBit 0 then p else a)

/-- 03 R81: flit byte i travels on lane i mod 8 in position i / 8 of the lane's 37 bytes and belongs to codeword i mod 2; even lanes carry codeword 0, odd lanes codeword 1. -/
def Obligations.FlitLayout : Prop :=
  ∀ (flit : List Byte), flit.length = 296 →
    (lanesOf flit).length = 8 ∧ (∀ l ∈ lanesOf flit, l.length = 37)
    ∧ (∀ i, i < 296 → ((lanesOf flit).getD (i % 8) []).getD (i / 8) 0 = flit.getD i 0)
    ∧ flitOf (lanesOf flit) = flit
    ∧ (∀ i, i < 296 → (codeword flit (i % 2)).getD (i / 2) 0 = flit.getD i 0)
    ∧ (∀ l k, l < 8 → k < 37 → ((lanesOf flit).getD l []).getD k 0 = (codeword flit (l % 2)).getD (4 * k + l / 2) 0)
end

