-- ==== Sys2Proof/Laws/State.lean ====
section
/-! SUPPORT. What each update of a part of the state leaves of every other part: one rewrite rule per field and update. -/

namespace Sys2Proof.Machine

/-! ### State.modChan -/

@[simp] theorem State.modChan_pending (s : State) (c : Nat) (f : Channel → Channel) : (s.modChan c f).pending = s.pending := rfl
@[simp] theorem State.modChan_refCount (s : State) (c : Nat) (f : Channel → Channel) : (s.modChan c f).refCount = s.refCount := rfl
@[simp] theorem State.modChan_master (s : State) (c : Nat) (f : Channel → Channel) : (s.modChan c f).master = s.master := rfl
@[simp] theorem State.modChan_originRef (s : State) (c : Nat) (f : Channel → Channel) : (s.modChan c f).originRef = s.originRef := rfl
@[simp] theorem State.modChan_porBase (s : State) (c : Nat) (f : Channel → Channel) : (s.modChan c f).porBase = s.porBase := rfl
@[simp] theorem State.modChan_pins (s : State) (c : Nat) (f : Channel → Channel) : (s.modChan c f).pins = s.pins := rfl
@[simp] theorem State.modChan_link (s : State) (c : Nat) (f : Channel → Channel) : (s.modChan c f).link = s.link := rfl
@[simp] theorem State.modChan_port (s : State) (c : Nat) (f : Channel → Channel) : (s.modChan c f).port = s.port := rfl
@[simp] theorem State.modChan_ledger (s : State) (c : Nat) (f : Channel → Channel) : (s.modChan c f).ledger = s.ledger := rfl
@[simp] theorem State.modChan_slices (s : State) (c : Nat) (f : Channel → Channel) : (s.modChan c f).slices = s.slices := rfl
@[simp] theorem State.modChan_hsync (s : State) (c : Nat) (f : Channel → Channel) : (s.modChan c f).hsync = s.hsync := rfl
@[simp] theorem State.modChan_syncQ (s : State) (c : Nat) (f : Channel → Channel) : (s.modChan c f).syncQ = s.syncQ := rfl
@[simp] theorem State.modChan_arrQ (s : State) (c : Nat) (f : Channel → Channel) : (s.modChan c f).arrQ = s.arrQ := rfl
@[simp] theorem State.modChan_relQ (s : State) (c : Nat) (f : Channel → Channel) : (s.modChan c f).relQ = s.relQ := rfl
@[simp] theorem State.modChan_msgQ (s : State) (c : Nat) (f : Channel → Channel) : (s.modChan c f).msgQ = s.msgQ := rfl
@[simp] theorem State.modChan_settleQ (s : State) (c : Nat) (f : Channel → Channel) : (s.modChan c f).settleQ = s.settleQ := rfl
@[simp] theorem State.modChan_mem (s : State) (c : Nat) (f : Channel → Channel) : (s.modChan c f).mem = s.mem := rfl
@[simp] theorem State.modChan_checkDiff (s : State) (c : Nat) (f : Channel → Channel) : (s.modChan c f).checkDiff = s.checkDiff := rfl
@[simp] theorem State.modChan_mg (s : State) (c : Nat) (f : Channel → Channel) : (s.modChan c f).mg = s.mg := rfl
@[simp] theorem State.modChan_sc (s : State) (c : Nat) (f : Channel → Channel) : (s.modChan c f).sc = s.sc := rfl
@[simp] theorem State.modChan_fuses (s : State) (c : Nat) (f : Channel → Channel) : (s.modChan c f).fuses = s.fuses := rfl
@[simp] theorem State.modChan_mram (s : State) (c : Nat) (f : Channel → Channel) : (s.modChan c f).mram = s.mram := rfl
@[simp] theorem State.modChan_free (s : State) (c : Nat) (f : Channel → Channel) : (s.modChan c f).free = s.free := rfl

/-! ### State.setChan -/

@[simp] theorem State.setChan_pending (s : State) (c : Nat) (ch : Channel) : (s.setChan c ch).pending = s.pending := rfl
@[simp] theorem State.setChan_refCount (s : State) (c : Nat) (ch : Channel) : (s.setChan c ch).refCount = s.refCount := rfl
@[simp] theorem State.setChan_master (s : State) (c : Nat) (ch : Channel) : (s.setChan c ch).master = s.master := rfl
@[simp] theorem State.setChan_originRef (s : State) (c : Nat) (ch : Channel) : (s.setChan c ch).originRef = s.originRef := rfl
@[simp] theorem State.setChan_porBase (s : State) (c : Nat) (ch : Channel) : (s.setChan c ch).porBase = s.porBase := rfl
@[simp] theorem State.setChan_pins (s : State) (c : Nat) (ch : Channel) : (s.setChan c ch).pins = s.pins := rfl
@[simp] theorem State.setChan_link (s : State) (c : Nat) (ch : Channel) : (s.setChan c ch).link = s.link := rfl
@[simp] theorem State.setChan_port (s : State) (c : Nat) (ch : Channel) : (s.setChan c ch).port = s.port := rfl
@[simp] theorem State.setChan_ledger (s : State) (c : Nat) (ch : Channel) : (s.setChan c ch).ledger = s.ledger := rfl
@[simp] theorem State.setChan_slices (s : State) (c : Nat) (ch : Channel) : (s.setChan c ch).slices = s.slices := rfl
@[simp] theorem State.setChan_hsync (s : State) (c : Nat) (ch : Channel) : (s.setChan c ch).hsync = s.hsync := rfl
@[simp] theorem State.setChan_syncQ (s : State) (c : Nat) (ch : Channel) : (s.setChan c ch).syncQ = s.syncQ := rfl
@[simp] theorem State.setChan_arrQ (s : State) (c : Nat) (ch : Channel) : (s.setChan c ch).arrQ = s.arrQ := rfl
@[simp] theorem State.setChan_relQ (s : State) (c : Nat) (ch : Channel) : (s.setChan c ch).relQ = s.relQ := rfl
@[simp] theorem State.setChan_msgQ (s : State) (c : Nat) (ch : Channel) : (s.setChan c ch).msgQ = s.msgQ := rfl
@[simp] theorem State.setChan_settleQ (s : State) (c : Nat) (ch : Channel) : (s.setChan c ch).settleQ = s.settleQ := rfl
@[simp] theorem State.setChan_mem (s : State) (c : Nat) (ch : Channel) : (s.setChan c ch).mem = s.mem := rfl
@[simp] theorem State.setChan_checkDiff (s : State) (c : Nat) (ch : Channel) : (s.setChan c ch).checkDiff = s.checkDiff := rfl
@[simp] theorem State.setChan_mg (s : State) (c : Nat) (ch : Channel) : (s.setChan c ch).mg = s.mg := rfl
@[simp] theorem State.setChan_sc (s : State) (c : Nat) (ch : Channel) : (s.setChan c ch).sc = s.sc := rfl
@[simp] theorem State.setChan_fuses (s : State) (c : Nat) (ch : Channel) : (s.setChan c ch).fuses = s.fuses := rfl
@[simp] theorem State.setChan_mram (s : State) (c : Nat) (ch : Channel) : (s.setChan c ch).mram = s.mram := rfl
@[simp] theorem State.setChan_free (s : State) (c : Nat) (ch : Channel) : (s.setChan c ch).free = s.free := rfl

/-! ### State.modSlice -/

@[simp] theorem State.modSlice_pending (s : State) (sl : SliceId) (f : SliceSt → SliceSt) : (s.modSlice sl f).pending = s.pending := rfl
@[simp] theorem State.modSlice_refCount (s : State) (sl : SliceId) (f : SliceSt → SliceSt) : (s.modSlice sl f).refCount = s.refCount := rfl
@[simp] theorem State.modSlice_master (s : State) (sl : SliceId) (f : SliceSt → SliceSt) : (s.modSlice sl f).master = s.master := rfl
@[simp] theorem State.modSlice_originRef (s : State) (sl : SliceId) (f : SliceSt → SliceSt) : (s.modSlice sl f).originRef = s.originRef := rfl
@[simp] theorem State.modSlice_porBase (s : State) (sl : SliceId) (f : SliceSt → SliceSt) : (s.modSlice sl f).porBase = s.porBase := rfl
@[simp] theorem State.modSlice_pins (s : State) (sl : SliceId) (f : SliceSt → SliceSt) : (s.modSlice sl f).pins = s.pins := rfl
@[simp] theorem State.modSlice_link (s : State) (sl : SliceId) (f : SliceSt → SliceSt) : (s.modSlice sl f).link = s.link := rfl
@[simp] theorem State.modSlice_port (s : State) (sl : SliceId) (f : SliceSt → SliceSt) : (s.modSlice sl f).port = s.port := rfl
@[simp] theorem State.modSlice_ledger (s : State) (sl : SliceId) (f : SliceSt → SliceSt) : (s.modSlice sl f).ledger = s.ledger := rfl
@[simp] theorem State.modSlice_chans (s : State) (sl : SliceId) (f : SliceSt → SliceSt) : (s.modSlice sl f).chans = s.chans := rfl
@[simp] theorem State.modSlice_hsync (s : State) (sl : SliceId) (f : SliceSt → SliceSt) : (s.modSlice sl f).hsync = s.hsync := rfl
@[simp] theorem State.modSlice_syncQ (s : State) (sl : SliceId) (f : SliceSt → SliceSt) : (s.modSlice sl f).syncQ = s.syncQ := rfl
@[simp] theorem State.modSlice_arrQ (s : State) (sl : SliceId) (f : SliceSt → SliceSt) : (s.modSlice sl f).arrQ = s.arrQ := rfl
@[simp] theorem State.modSlice_relQ (s : State) (sl : SliceId) (f : SliceSt → SliceSt) : (s.modSlice sl f).relQ = s.relQ := rfl
@[simp] theorem State.modSlice_msgQ (s : State) (sl : SliceId) (f : SliceSt → SliceSt) : (s.modSlice sl f).msgQ = s.msgQ := rfl
@[simp] theorem State.modSlice_settleQ (s : State) (sl : SliceId) (f : SliceSt → SliceSt) : (s.modSlice sl f).settleQ = s.settleQ := rfl
@[simp] theorem State.modSlice_mem (s : State) (sl : SliceId) (f : SliceSt → SliceSt) : (s.modSlice sl f).mem = s.mem := rfl
@[simp] theorem State.modSlice_checkDiff (s : State) (sl : SliceId) (f : SliceSt → SliceSt) : (s.modSlice sl f).checkDiff = s.checkDiff := rfl
@[simp] theorem State.modSlice_mg (s : State) (sl : SliceId) (f : SliceSt → SliceSt) : (s.modSlice sl f).mg = s.mg := rfl
@[simp] theorem State.modSlice_sc (s : State) (sl : SliceId) (f : SliceSt → SliceSt) : (s.modSlice sl f).sc = s.sc := rfl
@[simp] theorem State.modSlice_fuses (s : State) (sl : SliceId) (f : SliceSt → SliceSt) : (s.modSlice sl f).fuses = s.fuses := rfl
@[simp] theorem State.modSlice_mram (s : State) (sl : SliceId) (f : SliceSt → SliceSt) : (s.modSlice sl f).mram = s.mram := rfl
@[simp] theorem State.modSlice_free (s : State) (sl : SliceId) (f : SliceSt → SliceSt) : (s.modSlice sl f).free = s.free := rfl

/-! ### State.modGroup -/

@[simp] theorem State.modGroup_pending (s : State) (g : Nat) (f : LaneGroup → LaneGroup) : (s.modGroup g f).pending = s.pending := rfl
@[simp] theorem State.modGroup_refCount (s : State) (g : Nat) (f : LaneGroup → LaneGroup) : (s.modGroup g f).refCount = s.refCount := rfl
@[simp] theorem State.modGroup_master (s : State) (g : Nat) (f : LaneGroup → LaneGroup) : (s.modGroup g f).master = s.master := rfl
@[simp] theorem State.modGroup_originRef (s : State) (g : Nat) (f : LaneGroup → LaneGroup) : (s.modGroup g f).originRef = s.originRef := rfl
@[simp] theorem State.modGroup_porBase (s : State) (g : Nat) (f : LaneGroup → LaneGroup) : (s.modGroup g f).porBase = s.porBase := rfl
@[simp] theorem State.modGroup_pins (s : State) (g : Nat) (f : LaneGroup → LaneGroup) : (s.modGroup g f).pins = s.pins := rfl
@[simp] theorem State.modGroup_port (s : State) (g : Nat) (f : LaneGroup → LaneGroup) : (s.modGroup g f).port = s.port := rfl
@[simp] theorem State.modGroup_ledger (s : State) (g : Nat) (f : LaneGroup → LaneGroup) : (s.modGroup g f).ledger = s.ledger := rfl
@[simp] theorem State.modGroup_chans (s : State) (g : Nat) (f : LaneGroup → LaneGroup) : (s.modGroup g f).chans = s.chans := rfl
@[simp] theorem State.modGroup_slices (s : State) (g : Nat) (f : LaneGroup → LaneGroup) : (s.modGroup g f).slices = s.slices := rfl
@[simp] theorem State.modGroup_hsync (s : State) (g : Nat) (f : LaneGroup → LaneGroup) : (s.modGroup g f).hsync = s.hsync := rfl
@[simp] theorem State.modGroup_syncQ (s : State) (g : Nat) (f : LaneGroup → LaneGroup) : (s.modGroup g f).syncQ = s.syncQ := rfl
@[simp] theorem State.modGroup_arrQ (s : State) (g : Nat) (f : LaneGroup → LaneGroup) : (s.modGroup g f).arrQ = s.arrQ := rfl
@[simp] theorem State.modGroup_relQ (s : State) (g : Nat) (f : LaneGroup → LaneGroup) : (s.modGroup g f).relQ = s.relQ := rfl
@[simp] theorem State.modGroup_msgQ (s : State) (g : Nat) (f : LaneGroup → LaneGroup) : (s.modGroup g f).msgQ = s.msgQ := rfl
@[simp] theorem State.modGroup_settleQ (s : State) (g : Nat) (f : LaneGroup → LaneGroup) : (s.modGroup g f).settleQ = s.settleQ := rfl
@[simp] theorem State.modGroup_mem (s : State) (g : Nat) (f : LaneGroup → LaneGroup) : (s.modGroup g f).mem = s.mem := rfl
@[simp] theorem State.modGroup_checkDiff (s : State) (g : Nat) (f : LaneGroup → LaneGroup) : (s.modGroup g f).checkDiff = s.checkDiff := rfl
@[simp] theorem State.modGroup_mg (s : State) (g : Nat) (f : LaneGroup → LaneGroup) : (s.modGroup g f).mg = s.mg := rfl
@[simp] theorem State.modGroup_sc (s : State) (g : Nat) (f : LaneGroup → LaneGroup) : (s.modGroup g f).sc = s.sc := rfl
@[simp] theorem State.modGroup_fuses (s : State) (g : Nat) (f : LaneGroup → LaneGroup) : (s.modGroup g f).fuses = s.fuses := rfl
@[simp] theorem State.modGroup_mram (s : State) (g : Nat) (f : LaneGroup → LaneGroup) : (s.modGroup g f).mram = s.mram := rfl
@[simp] theorem State.modGroup_free (s : State) (g : Nat) (f : LaneGroup → LaneGroup) : (s.modGroup g f).free = s.free := rfl

/-! ### State.modPort -/

@[simp] theorem State.modPort_pending (s : State) (f : PortSt → PortSt) : (s.modPort f).pending = s.pending := rfl
@[simp] theorem State.modPort_refCount (s : State) (f : PortSt → PortSt) : (s.modPort f).refCount = s.refCount := rfl
@[simp] theorem State.modPort_master (s : State) (f : PortSt → PortSt) : (s.modPort f).master = s.master := rfl
@[simp] theorem State.modPort_originRef (s : State) (f : PortSt → PortSt) : (s.modPort f).originRef = s.originRef := rfl
@[simp] theorem State.modPort_porBase (s : State) (f : PortSt → PortSt) : (s.modPort f).porBase = s.porBase := rfl
@[simp] theorem State.modPort_pins (s : State) (f : PortSt → PortSt) : (s.modPort f).pins = s.pins := rfl
@[simp] theorem State.modPort_link (s : State) (f : PortSt → PortSt) : (s.modPort f).link = s.link := rfl
@[simp] theorem State.modPort_ledger (s : State) (f : PortSt → PortSt) : (s.modPort f).ledger = s.ledger := rfl
@[simp] theorem State.modPort_chans (s : State) (f : PortSt → PortSt) : (s.modPort f).chans = s.chans := rfl
@[simp] theorem State.modPort_slices (s : State) (f : PortSt → PortSt) : (s.modPort f).slices = s.slices := rfl
@[simp] theorem State.modPort_hsync (s : State) (f : PortSt → PortSt) : (s.modPort f).hsync = s.hsync := rfl
@[simp] theorem State.modPort_syncQ (s : State) (f : PortSt → PortSt) : (s.modPort f).syncQ = s.syncQ := rfl
@[simp] theorem State.modPort_arrQ (s : State) (f : PortSt → PortSt) : (s.modPort f).arrQ = s.arrQ := rfl
@[simp] theorem State.modPort_relQ (s : State) (f : PortSt → PortSt) : (s.modPort f).relQ = s.relQ := rfl
@[simp] theorem State.modPort_msgQ (s : State) (f : PortSt → PortSt) : (s.modPort f).msgQ = s.msgQ := rfl
@[simp] theorem State.modPort_settleQ (s : State) (f : PortSt → PortSt) : (s.modPort f).settleQ = s.settleQ := rfl
@[simp] theorem State.modPort_mem (s : State) (f : PortSt → PortSt) : (s.modPort f).mem = s.mem := rfl
@[simp] theorem State.modPort_checkDiff (s : State) (f : PortSt → PortSt) : (s.modPort f).checkDiff = s.checkDiff := rfl
@[simp] theorem State.modPort_mg (s : State) (f : PortSt → PortSt) : (s.modPort f).mg = s.mg := rfl
@[simp] theorem State.modPort_sc (s : State) (f : PortSt → PortSt) : (s.modPort f).sc = s.sc := rfl
@[simp] theorem State.modPort_fuses (s : State) (f : PortSt → PortSt) : (s.modPort f).fuses = s.fuses := rfl
@[simp] theorem State.modPort_mram (s : State) (f : PortSt → PortSt) : (s.modPort f).mram = s.mram := rfl
@[simp] theorem State.modPort_free (s : State) (f : PortSt → PortSt) : (s.modPort f).free = s.free := rfl
@[simp] theorem State.modPort_port (s : State) (f : PortSt → PortSt) : (s.modPort f).port = f s.port := rfl

/-! ### State.modMg -/

@[simp] theorem State.modMg_pending (s : State) (f : MgSt → MgSt) : (s.modMg f).pending = s.pending := rfl
@[simp] theorem State.modMg_refCount (s : State) (f : MgSt → MgSt) : (s.modMg f).refCount = s.refCount := rfl
@[simp] theorem State.modMg_master (s : State) (f : MgSt → MgSt) : (s.modMg f).master = s.master := rfl
@[simp] theorem State.modMg_originRef (s : State) (f : MgSt → MgSt) : (s.modMg f).originRef = s.originRef := rfl
@[simp] theorem State.modMg_porBase (s : State) (f : MgSt → MgSt) : (s.modMg f).porBase = s.porBase := rfl
@[simp] theorem State.modMg_pins (s : State) (f : MgSt → MgSt) : (s.modMg f).pins = s.pins := rfl
@[simp] theorem State.modMg_link (s : State) (f : MgSt → MgSt) : (s.modMg f).link = s.link := rfl
@[simp] theorem State.modMg_port (s : State) (f : MgSt → MgSt) : (s.modMg f).port = s.port := rfl
@[simp] theorem State.modMg_ledger (s : State) (f : MgSt → MgSt) : (s.modMg f).ledger = s.ledger := rfl
@[simp] theorem State.modMg_chans (s : State) (f : MgSt → MgSt) : (s.modMg f).chans = s.chans := rfl
@[simp] theorem State.modMg_slices (s : State) (f : MgSt → MgSt) : (s.modMg f).slices = s.slices := rfl
@[simp] theorem State.modMg_hsync (s : State) (f : MgSt → MgSt) : (s.modMg f).hsync = s.hsync := rfl
@[simp] theorem State.modMg_syncQ (s : State) (f : MgSt → MgSt) : (s.modMg f).syncQ = s.syncQ := rfl
@[simp] theorem State.modMg_arrQ (s : State) (f : MgSt → MgSt) : (s.modMg f).arrQ = s.arrQ := rfl
@[simp] theorem State.modMg_relQ (s : State) (f : MgSt → MgSt) : (s.modMg f).relQ = s.relQ := rfl
@[simp] theorem State.modMg_msgQ (s : State) (f : MgSt → MgSt) : (s.modMg f).msgQ = s.msgQ := rfl
@[simp] theorem State.modMg_settleQ (s : State) (f : MgSt → MgSt) : (s.modMg f).settleQ = s.settleQ := rfl
@[simp] theorem State.modMg_mem (s : State) (f : MgSt → MgSt) : (s.modMg f).mem = s.mem := rfl
@[simp] theorem State.modMg_checkDiff (s : State) (f : MgSt → MgSt) : (s.modMg f).checkDiff = s.checkDiff := rfl
@[simp] theorem State.modMg_sc (s : State) (f : MgSt → MgSt) : (s.modMg f).sc = s.sc := rfl
@[simp] theorem State.modMg_fuses (s : State) (f : MgSt → MgSt) : (s.modMg f).fuses = s.fuses := rfl
@[simp] theorem State.modMg_mram (s : State) (f : MgSt → MgSt) : (s.modMg f).mram = s.mram := rfl
@[simp] theorem State.modMg_free (s : State) (f : MgSt → MgSt) : (s.modMg f).free = s.free := rfl
@[simp] theorem State.modMg_mg (s : State) (f : MgSt → MgSt) : (s.modMg f).mg = f s.mg := rfl

/-! ### State.modSc -/

@[simp] theorem State.modSc_pending (s : State) (f : SecSt → SecSt) : (s.modSc f).pending = s.pending := rfl
@[simp] theorem State.modSc_refCount (s : State) (f : SecSt → SecSt) : (s.modSc f).refCount = s.refCount := rfl
@[simp] theorem State.modSc_master (s : State) (f : SecSt → SecSt) : (s.modSc f).master = s.master := rfl
@[simp] theorem State.modSc_originRef (s : State) (f : SecSt → SecSt) : (s.modSc f).originRef = s.originRef := rfl
@[simp] theorem State.modSc_porBase (s : State) (f : SecSt → SecSt) : (s.modSc f).porBase = s.porBase := rfl
@[simp] theorem State.modSc_pins (s : State) (f : SecSt → SecSt) : (s.modSc f).pins = s.pins := rfl
@[simp] theorem State.modSc_link (s : State) (f : SecSt → SecSt) : (s.modSc f).link = s.link := rfl
@[simp] theorem State.modSc_port (s : State) (f : SecSt → SecSt) : (s.modSc f).port = s.port := rfl
@[simp] theorem State.modSc_ledger (s : State) (f : SecSt → SecSt) : (s.modSc f).ledger = s.ledger := rfl
@[simp] theorem State.modSc_chans (s : State) (f : SecSt → SecSt) : (s.modSc f).chans = s.chans := rfl
@[simp] theorem State.modSc_slices (s : State) (f : SecSt → SecSt) : (s.modSc f).slices = s.slices := rfl
@[simp] theorem State.modSc_hsync (s : State) (f : SecSt → SecSt) : (s.modSc f).hsync = s.hsync := rfl
@[simp] theorem State.modSc_syncQ (s : State) (f : SecSt → SecSt) : (s.modSc f).syncQ = s.syncQ := rfl
@[simp] theorem State.modSc_arrQ (s : State) (f : SecSt → SecSt) : (s.modSc f).arrQ = s.arrQ := rfl
@[simp] theorem State.modSc_relQ (s : State) (f : SecSt → SecSt) : (s.modSc f).relQ = s.relQ := rfl
@[simp] theorem State.modSc_msgQ (s : State) (f : SecSt → SecSt) : (s.modSc f).msgQ = s.msgQ := rfl
@[simp] theorem State.modSc_settleQ (s : State) (f : SecSt → SecSt) : (s.modSc f).settleQ = s.settleQ := rfl
@[simp] theorem State.modSc_mem (s : State) (f : SecSt → SecSt) : (s.modSc f).mem = s.mem := rfl
@[simp] theorem State.modSc_checkDiff (s : State) (f : SecSt → SecSt) : (s.modSc f).checkDiff = s.checkDiff := rfl
@[simp] theorem State.modSc_mg (s : State) (f : SecSt → SecSt) : (s.modSc f).mg = s.mg := rfl
@[simp] theorem State.modSc_fuses (s : State) (f : SecSt → SecSt) : (s.modSc f).fuses = s.fuses := rfl
@[simp] theorem State.modSc_mram (s : State) (f : SecSt → SecSt) : (s.modSc f).mram = s.mram := rfl
@[simp] theorem State.modSc_free (s : State) (f : SecSt → SecSt) : (s.modSc f).free = s.free := rfl
@[simp] theorem State.modSc_sc (s : State) (f : SecSt → SecSt) : (s.modSc f).sc = f s.sc := rfl

/-! ### State.modLedger -/

@[simp] theorem State.modLedger_pending (s : State) (f : LedgerSt → LedgerSt) : (s.modLedger f).pending = s.pending := rfl
@[simp] theorem State.modLedger_refCount (s : State) (f : LedgerSt → LedgerSt) : (s.modLedger f).refCount = s.refCount := rfl
@[simp] theorem State.modLedger_master (s : State) (f : LedgerSt → LedgerSt) : (s.modLedger f).master = s.master := rfl
@[simp] theorem State.modLedger_originRef (s : State) (f : LedgerSt → LedgerSt) : (s.modLedger f).originRef = s.originRef := rfl
@[simp] theorem State.modLedger_porBase (s : State) (f : LedgerSt → LedgerSt) : (s.modLedger f).porBase = s.porBase := rfl
@[simp] theorem State.modLedger_pins (s : State) (f : LedgerSt → LedgerSt) : (s.modLedger f).pins = s.pins := rfl
@[simp] theorem State.modLedger_link (s : State) (f : LedgerSt → LedgerSt) : (s.modLedger f).link = s.link := rfl
@[simp] theorem State.modLedger_port (s : State) (f : LedgerSt → LedgerSt) : (s.modLedger f).port = s.port := rfl
@[simp] theorem State.modLedger_chans (s : State) (f : LedgerSt → LedgerSt) : (s.modLedger f).chans = s.chans := rfl
@[simp] theorem State.modLedger_slices (s : State) (f : LedgerSt → LedgerSt) : (s.modLedger f).slices = s.slices := rfl
@[simp] theorem State.modLedger_hsync (s : State) (f : LedgerSt → LedgerSt) : (s.modLedger f).hsync = s.hsync := rfl
@[simp] theorem State.modLedger_syncQ (s : State) (f : LedgerSt → LedgerSt) : (s.modLedger f).syncQ = s.syncQ := rfl
@[simp] theorem State.modLedger_arrQ (s : State) (f : LedgerSt → LedgerSt) : (s.modLedger f).arrQ = s.arrQ := rfl
@[simp] theorem State.modLedger_relQ (s : State) (f : LedgerSt → LedgerSt) : (s.modLedger f).relQ = s.relQ := rfl
@[simp] theorem State.modLedger_msgQ (s : State) (f : LedgerSt → LedgerSt) : (s.modLedger f).msgQ = s.msgQ := rfl
@[simp] theorem State.modLedger_settleQ (s : State) (f : LedgerSt → LedgerSt) : (s.modLedger f).settleQ = s.settleQ := rfl
@[simp] theorem State.modLedger_mem (s : State) (f : LedgerSt → LedgerSt) : (s.modLedger f).mem = s.mem := rfl
@[simp] theorem State.modLedger_checkDiff (s : State) (f : LedgerSt → LedgerSt) : (s.modLedger f).checkDiff = s.checkDiff := rfl
@[simp] theorem State.modLedger_mg (s : State) (f : LedgerSt → LedgerSt) : (s.modLedger f).mg = s.mg := rfl
@[simp] theorem State.modLedger_sc (s : State) (f : LedgerSt → LedgerSt) : (s.modLedger f).sc = s.sc := rfl
@[simp] theorem State.modLedger_fuses (s : State) (f : LedgerSt → LedgerSt) : (s.modLedger f).fuses = s.fuses := rfl
@[simp] theorem State.modLedger_mram (s : State) (f : LedgerSt → LedgerSt) : (s.modLedger f).mram = s.mram := rfl
@[simp] theorem State.modLedger_free (s : State) (f : LedgerSt → LedgerSt) : (s.modLedger f).free = s.free := rfl
@[simp] theorem State.modLedger_ledger (s : State) (f : LedgerSt → LedgerSt) : (s.modLedger f).ledger = f s.ledger := rfl

/-! ### State.modPins -/

@[simp] theorem State.modPins_pending (s : State) (f : Pins → Pins) : (s.modPins f).pending = s.pending := rfl
@[simp] theorem State.modPins_refCount (s : State) (f : Pins → Pins) : (s.modPins f).refCount = s.refCount := rfl
@[simp] theorem State.modPins_master (s : State) (f : Pins → Pins) : (s.modPins f).master = s.master := rfl
@[simp] theorem State.modPins_originRef (s : State) (f : Pins → Pins) : (s.modPins f).originRef = s.originRef := rfl
@[simp] theorem State.modPins_porBase (s : State) (f : Pins → Pins) : (s.modPins f).porBase = s.porBase := rfl
@[simp] theorem State.modPins_link (s : State) (f : Pins → Pins) : (s.modPins f).link = s.link := rfl
@[simp] theorem State.modPins_port (s : State) (f : Pins → Pins) : (s.modPins f).port = s.port := rfl
@[simp] theorem State.modPins_ledger (s : State) (f : Pins → Pins) : (s.modPins f).ledger = s.ledger := rfl
@[simp] theorem State.modPins_chans (s : State) (f : Pins → Pins) : (s.modPins f).chans = s.chans := rfl
@[simp] theorem State.modPins_slices (s : State) (f : Pins → Pins) : (s.modPins f).slices = s.slices := rfl
@[simp] theorem State.modPins_hsync (s : State) (f : Pins → Pins) : (s.modPins f).hsync = s.hsync := rfl
@[simp] theorem State.modPins_syncQ (s : State) (f : Pins → Pins) : (s.modPins f).syncQ = s.syncQ := rfl
@[simp] theorem State.modPins_arrQ (s : State) (f : Pins → Pins) : (s.modPins f).arrQ = s.arrQ := rfl
@[simp] theorem State.modPins_relQ (s : State) (f : Pins → Pins) : (s.modPins f).relQ = s.relQ := rfl
@[simp] theorem State.modPins_msgQ (s : State) (f : Pins → Pins) : (s.modPins f).msgQ = s.msgQ := rfl
@[simp] theorem State.modPins_settleQ (s : State) (f : Pins → Pins) : (s.modPins f).settleQ = s.settleQ := rfl
@[simp] theorem State.modPins_mem (s : State) (f : Pins → Pins) : (s.modPins f).mem = s.mem := rfl
@[simp] theorem State.modPins_checkDiff (s : State) (f : Pins → Pins) : (s.modPins f).checkDiff = s.checkDiff := rfl
@[simp] theorem State.modPins_mg (s : State) (f : Pins → Pins) : (s.modPins f).mg = s.mg := rfl
@[simp] theorem State.modPins_sc (s : State) (f : Pins → Pins) : (s.modPins f).sc = s.sc := rfl
@[simp] theorem State.modPins_fuses (s : State) (f : Pins → Pins) : (s.modPins f).fuses = s.fuses := rfl
@[simp] theorem State.modPins_mram (s : State) (f : Pins → Pins) : (s.modPins f).mram = s.mram := rfl
@[simp] theorem State.modPins_free (s : State) (f : Pins → Pins) : (s.modPins f).free = s.free := rfl
@[simp] theorem State.modPins_pins (s : State) (f : Pins → Pins) : (s.modPins f).pins = f s.pins := rfl

/-! ### State.modFuses -/

@[simp] theorem State.modFuses_pending (s : State) (f : Fuses → Fuses) : (s.modFuses f).pending = s.pending := rfl
@[simp] theorem State.modFuses_refCount (s : State) (f : Fuses → Fuses) : (s.modFuses f).refCount = s.refCount := rfl
@[simp] theorem State.modFuses_master (s : State) (f : Fuses → Fuses) : (s.modFuses f).master = s.master := rfl
@[simp] theorem State.modFuses_originRef (s : State) (f : Fuses → Fuses) : (s.modFuses f).originRef = s.originRef := rfl
@[simp] theorem State.modFuses_porBase (s : State) (f : Fuses → Fuses) : (s.modFuses f).porBase = s.porBase := rfl
@[simp] theorem State.modFuses_pins (s : State) (f : Fuses → Fuses) : (s.modFuses f).pins = s.pins := rfl
@[simp] theorem State.modFuses_link (s : State) (f : Fuses → Fuses) : (s.modFuses f).link = s.link := rfl
@[simp] theorem State.modFuses_port (s : State) (f : Fuses → Fuses) : (s.modFuses f).port = s.port := rfl
@[simp] theorem State.modFuses_ledger (s : State) (f : Fuses → Fuses) : (s.modFuses f).ledger = s.ledger := rfl
@[simp] theorem State.modFuses_chans (s : State) (f : Fuses → Fuses) : (s.modFuses f).chans = s.chans := rfl
@[simp] theorem State.modFuses_slices (s : State) (f : Fuses → Fuses) : (s.modFuses f).slices = s.slices := rfl
@[simp] theorem State.modFuses_hsync (s : State) (f : Fuses → Fuses) : (s.modFuses f).hsync = s.hsync := rfl
@[simp] theorem State.modFuses_syncQ (s : State) (f : Fuses → Fuses) : (s.modFuses f).syncQ = s.syncQ := rfl
@[simp] theorem State.modFuses_arrQ (s : State) (f : Fuses → Fuses) : (s.modFuses f).arrQ = s.arrQ := rfl
@[simp] theorem State.modFuses_relQ (s : State) (f : Fuses → Fuses) : (s.modFuses f).relQ = s.relQ := rfl
@[simp] theorem State.modFuses_msgQ (s : State) (f : Fuses → Fuses) : (s.modFuses f).msgQ = s.msgQ := rfl
@[simp] theorem State.modFuses_settleQ (s : State) (f : Fuses → Fuses) : (s.modFuses f).settleQ = s.settleQ := rfl
@[simp] theorem State.modFuses_mem (s : State) (f : Fuses → Fuses) : (s.modFuses f).mem = s.mem := rfl
@[simp] theorem State.modFuses_checkDiff (s : State) (f : Fuses → Fuses) : (s.modFuses f).checkDiff = s.checkDiff := rfl
@[simp] theorem State.modFuses_mg (s : State) (f : Fuses → Fuses) : (s.modFuses f).mg = s.mg := rfl
@[simp] theorem State.modFuses_sc (s : State) (f : Fuses → Fuses) : (s.modFuses f).sc = s.sc := rfl
@[simp] theorem State.modFuses_mram (s : State) (f : Fuses → Fuses) : (s.modFuses f).mram = s.mram := rfl
@[simp] theorem State.modFuses_free (s : State) (f : Fuses → Fuses) : (s.modFuses f).free = s.free := rfl
@[simp] theorem State.modFuses_fuses (s : State) (f : Fuses → Fuses) : (s.modFuses f).fuses = f s.fuses := rfl

/-! ### State.modMram -/

@[simp] theorem State.modMram_pending (s : State) (f : Mram → Mram) : (s.modMram f).pending = s.pending := rfl
@[simp] theorem State.modMram_refCount (s : State) (f : Mram → Mram) : (s.modMram f).refCount = s.refCount := rfl
@[simp] theorem State.modMram_master (s : State) (f : Mram → Mram) : (s.modMram f).master = s.master := rfl
@[simp] theorem State.modMram_originRef (s : State) (f : Mram → Mram) : (s.modMram f).originRef = s.originRef := rfl
@[simp] theorem State.modMram_porBase (s : State) (f : Mram → Mram) : (s.modMram f).porBase = s.porBase := rfl
@[simp] theorem State.modMram_pins (s : State) (f : Mram → Mram) : (s.modMram f).pins = s.pins := rfl
@[simp] theorem State.modMram_link (s : State) (f : Mram → Mram) : (s.modMram f).link = s.link := rfl
@[simp] theorem State.modMram_port (s : State) (f : Mram → Mram) : (s.modMram f).port = s.port := rfl
@[simp] theorem State.modMram_ledger (s : State) (f : Mram → Mram) : (s.modMram f).ledger = s.ledger := rfl
@[simp] theorem State.modMram_chans (s : State) (f : Mram → Mram) : (s.modMram f).chans = s.chans := rfl
@[simp] theorem State.modMram_slices (s : State) (f : Mram → Mram) : (s.modMram f).slices = s.slices := rfl
@[simp] theorem State.modMram_hsync (s : State) (f : Mram → Mram) : (s.modMram f).hsync = s.hsync := rfl
@[simp] theorem State.modMram_syncQ (s : State) (f : Mram → Mram) : (s.modMram f).syncQ = s.syncQ := rfl
@[simp] theorem State.modMram_arrQ (s : State) (f : Mram → Mram) : (s.modMram f).arrQ = s.arrQ := rfl
@[simp] theorem State.modMram_relQ (s : State) (f : Mram → Mram) : (s.modMram f).relQ = s.relQ := rfl
@[simp] theorem State.modMram_msgQ (s : State) (f : Mram → Mram) : (s.modMram f).msgQ = s.msgQ := rfl
@[simp] theorem State.modMram_settleQ (s : State) (f : Mram → Mram) : (s.modMram f).settleQ = s.settleQ := rfl
@[simp] theorem State.modMram_mem (s : State) (f : Mram → Mram) : (s.modMram f).mem = s.mem := rfl
@[simp] theorem State.modMram_checkDiff (s : State) (f : Mram → Mram) : (s.modMram f).checkDiff = s.checkDiff := rfl
@[simp] theorem State.modMram_mg (s : State) (f : Mram → Mram) : (s.modMram f).mg = s.mg := rfl
@[simp] theorem State.modMram_sc (s : State) (f : Mram → Mram) : (s.modMram f).sc = s.sc := rfl
@[simp] theorem State.modMram_fuses (s : State) (f : Mram → Mram) : (s.modMram f).fuses = s.fuses := rfl
@[simp] theorem State.modMram_free (s : State) (f : Mram → Mram) : (s.modMram f).free = s.free := rfl
@[simp] theorem State.modMram_mram (s : State) (f : Mram → Mram) : (s.modMram f).mram = f s.mram := rfl

/-! ### State.modBoot -/

@[simp] theorem State.modBoot_pending (s : State) (f : BootSt → BootSt) : (s.modBoot f).pending = s.pending := rfl
@[simp] theorem State.modBoot_refCount (s : State) (f : BootSt → BootSt) : (s.modBoot f).refCount = s.refCount := rfl
@[simp] theorem State.modBoot_master (s : State) (f : BootSt → BootSt) : (s.modBoot f).master = s.master := rfl
@[simp] theorem State.modBoot_originRef (s : State) (f : BootSt → BootSt) : (s.modBoot f).originRef = s.originRef := rfl
@[simp] theorem State.modBoot_porBase (s : State) (f : BootSt → BootSt) : (s.modBoot f).porBase = s.porBase := rfl
@[simp] theorem State.modBoot_pins (s : State) (f : BootSt → BootSt) : (s.modBoot f).pins = s.pins := rfl
@[simp] theorem State.modBoot_link (s : State) (f : BootSt → BootSt) : (s.modBoot f).link = s.link := rfl
@[simp] theorem State.modBoot_port (s : State) (f : BootSt → BootSt) : (s.modBoot f).port = s.port := rfl
@[simp] theorem State.modBoot_ledger (s : State) (f : BootSt → BootSt) : (s.modBoot f).ledger = s.ledger := rfl
@[simp] theorem State.modBoot_chans (s : State) (f : BootSt → BootSt) : (s.modBoot f).chans = s.chans := rfl
@[simp] theorem State.modBoot_slices (s : State) (f : BootSt → BootSt) : (s.modBoot f).slices = s.slices := rfl
@[simp] theorem State.modBoot_hsync (s : State) (f : BootSt → BootSt) : (s.modBoot f).hsync = s.hsync := rfl
@[simp] theorem State.modBoot_syncQ (s : State) (f : BootSt → BootSt) : (s.modBoot f).syncQ = s.syncQ := rfl
@[simp] theorem State.modBoot_arrQ (s : State) (f : BootSt → BootSt) : (s.modBoot f).arrQ = s.arrQ := rfl
@[simp] theorem State.modBoot_relQ (s : State) (f : BootSt → BootSt) : (s.modBoot f).relQ = s.relQ := rfl
@[simp] theorem State.modBoot_msgQ (s : State) (f : BootSt → BootSt) : (s.modBoot f).msgQ = s.msgQ := rfl
@[simp] theorem State.modBoot_settleQ (s : State) (f : BootSt → BootSt) : (s.modBoot f).settleQ = s.settleQ := rfl
@[simp] theorem State.modBoot_mem (s : State) (f : BootSt → BootSt) : (s.modBoot f).mem = s.mem := rfl
@[simp] theorem State.modBoot_checkDiff (s : State) (f : BootSt → BootSt) : (s.modBoot f).checkDiff = s.checkDiff := rfl
@[simp] theorem State.modBoot_sc (s : State) (f : BootSt → BootSt) : (s.modBoot f).sc = s.sc := rfl
@[simp] theorem State.modBoot_fuses (s : State) (f : BootSt → BootSt) : (s.modBoot f).fuses = s.fuses := rfl
@[simp] theorem State.modBoot_mram (s : State) (f : BootSt → BootSt) : (s.modBoot f).mram = s.mram := rfl
@[simp] theorem State.modBoot_free (s : State) (f : BootSt → BootSt) : (s.modBoot f).free = s.free := rfl
@[simp] theorem State.modBoot_mg_boot (s : State) (f : BootSt → BootSt) : (s.modBoot f).mg.boot = f s.mg.boot := rfl
@[simp] theorem State.modBoot_mg_alert (s : State) (f : BootSt → BootSt) : (s.modBoot f).mg.alert = s.mg.alert := rfl
@[simp] theorem State.modBoot_mg_alertMask (s : State) (f : BootSt → BootSt) : (s.modBoot f).mg.alertMask = s.mg.alertMask := rfl
@[simp] theorem State.modBoot_mg_corrThreshold (s : State) (f : BootSt → BootSt) : (s.modBoot f).mg.corrThreshold = s.mg.corrThreshold := rfl
@[simp] theorem State.modBoot_mg_errLog (s : State) (f : BootSt → BootSt) : (s.modBoot f).mg.errLog = s.mg.errLog := rfl
@[simp] theorem State.modBoot_mg_errHead (s : State) (f : BootSt → BootSt) : (s.modBoot f).mg.errHead = s.mg.errHead := rfl
@[simp] theorem State.modBoot_mg_errLost (s : State) (f : BootSt → BootSt) : (s.modBoot f).mg.errLost = s.mg.errLost := rfl
@[simp] theorem State.modBoot_mg_events (s : State) (f : BootSt → BootSt) : (s.modBoot f).mg.events = s.mg.events := rfl
@[simp] theorem State.modBoot_mg_trace (s : State) (f : BootSt → BootSt) : (s.modBoot f).mg.trace = s.mg.trace := rfl
@[simp] theorem State.modBoot_mg_traceHead (s : State) (f : BootSt → BootSt) : (s.modBoot f).mg.traceHead = s.mg.traceHead := rfl
@[simp] theorem State.modBoot_mg_sensors (s : State) (f : BootSt → BootSt) : (s.modBoot f).mg.sensors = s.mg.sensors := rfl
@[simp] theorem State.modBoot_mg_warnLogic (s : State) (f : BootSt → BootSt) : (s.modBoot f).mg.warnLogic = s.mg.warnLogic := rfl
@[simp] theorem State.modBoot_mg_warnDram (s : State) (f : BootSt → BootSt) : (s.modBoot f).mg.warnDram = s.mg.warnDram := rfl
@[simp] theorem State.modBoot_mg_engagements (s : State) (f : BootSt → BootSt) : (s.modBoot f).mg.engagements = s.mg.engagements := rfl
@[simp] theorem State.modBoot_mg_hottest (s : State) (f : BootSt → BootSt) : (s.modBoot f).mg.hottest = s.mg.hottest := rfl
@[simp] theorem State.modBoot_mg_tripCount (s : State) (f : BootSt → BootSt) : (s.modBoot f).mg.tripCount = s.mg.tripCount := rfl
@[simp] theorem State.modBoot_mg_tripSensor (s : State) (f : BootSt → BootSt) : (s.modBoot f).mg.tripSensor = s.mg.tripSensor := rfl
@[simp] theorem State.modBoot_mg_tripLatch (s : State) (f : BootSt → BootSt) : (s.modBoot f).mg.tripLatch = s.mg.tripLatch := rfl
@[simp] theorem State.modBoot_mg_darnGen (s : State) (f : BootSt → BootSt) : (s.modBoot f).mg.darnGen = s.mg.darnGen := rfl
@[simp] theorem State.modBoot_mg_darnDigest (s : State) (f : BootSt → BootSt) : (s.modBoot f).mg.darnDigest = s.mg.darnDigest := rfl
@[simp] theorem State.modBoot_mg_linkDom (s : State) (f : BootSt → BootSt) : (s.modBoot f).mg.linkDom = s.mg.linkDom := rfl
@[simp] theorem State.modBoot_mg_switchDom (s : State) (f : BootSt → BootSt) : (s.modBoot f).mg.switchDom = s.mg.switchDom := rfl
@[simp] theorem State.modBoot_mg_mgmtDom (s : State) (f : BootSt → BootSt) : (s.modBoot f).mg.mgmtDom = s.mg.mgmtDom := rfl
@[simp] theorem State.modBoot_mg_secDom (s : State) (f : BootSt → BootSt) : (s.modBoot f).mg.secDom = s.mg.secDom := rfl

/-! ### State.modBank -/

@[simp] theorem State.modBank_pending (s : State) (c b : Nat) (f : BankSt → BankSt) : (s.modBank c b f).pending = s.pending := rfl
@[simp] theorem State.modBank_refCount (s : State) (c b : Nat) (f : BankSt → BankSt) : (s.modBank c b f).refCount = s.refCount := rfl
@[simp] theorem State.modBank_master (s : State) (c b : Nat) (f : BankSt → BankSt) : (s.modBank c b f).master = s.master := rfl
@[simp] theorem State.modBank_originRef (s : State) (c b : Nat) (f : BankSt → BankSt) : (s.modBank c b f).originRef = s.originRef := rfl
@[simp] theorem State.modBank_porBase (s : State) (c b : Nat) (f : BankSt → BankSt) : (s.modBank c b f).porBase = s.porBase := rfl
@[simp] theorem State.modBank_pins (s : State) (c b : Nat) (f : BankSt → BankSt) : (s.modBank c b f).pins = s.pins := rfl
@[simp] theorem State.modBank_link (s : State) (c b : Nat) (f : BankSt → BankSt) : (s.modBank c b f).link = s.link := rfl
@[simp] theorem State.modBank_port (s : State) (c b : Nat) (f : BankSt → BankSt) : (s.modBank c b f).port = s.port := rfl
@[simp] theorem State.modBank_ledger (s : State) (c b : Nat) (f : BankSt → BankSt) : (s.modBank c b f).ledger = s.ledger := rfl
@[simp] theorem State.modBank_slices (s : State) (c b : Nat) (f : BankSt → BankSt) : (s.modBank c b f).slices = s.slices := rfl
@[simp] theorem State.modBank_hsync (s : State) (c b : Nat) (f : BankSt → BankSt) : (s.modBank c b f).hsync = s.hsync := rfl
@[simp] theorem State.modBank_syncQ (s : State) (c b : Nat) (f : BankSt → BankSt) : (s.modBank c b f).syncQ = s.syncQ := rfl
@[simp] theorem State.modBank_arrQ (s : State) (c b : Nat) (f : BankSt → BankSt) : (s.modBank c b f).arrQ = s.arrQ := rfl
@[simp] theorem State.modBank_relQ (s : State) (c b : Nat) (f : BankSt → BankSt) : (s.modBank c b f).relQ = s.relQ := rfl
@[simp] theorem State.modBank_msgQ (s : State) (c b : Nat) (f : BankSt → BankSt) : (s.modBank c b f).msgQ = s.msgQ := rfl
@[simp] theorem State.modBank_settleQ (s : State) (c b : Nat) (f : BankSt → BankSt) : (s.modBank c b f).settleQ = s.settleQ := rfl
@[simp] theorem State.modBank_mem (s : State) (c b : Nat) (f : BankSt → BankSt) : (s.modBank c b f).mem = s.mem := rfl
@[simp] theorem State.modBank_checkDiff (s : State) (c b : Nat) (f : BankSt → BankSt) : (s.modBank c b f).checkDiff = s.checkDiff := rfl
@[simp] theorem State.modBank_mg (s : State) (c b : Nat) (f : BankSt → BankSt) : (s.modBank c b f).mg = s.mg := rfl
@[simp] theorem State.modBank_sc (s : State) (c b : Nat) (f : BankSt → BankSt) : (s.modBank c b f).sc = s.sc := rfl
@[simp] theorem State.modBank_fuses (s : State) (c b : Nat) (f : BankSt → BankSt) : (s.modBank c b f).fuses = s.fuses := rfl
@[simp] theorem State.modBank_mram (s : State) (c b : Nat) (f : BankSt → BankSt) : (s.modBank c b f).mram = s.mram := rfl
@[simp] theorem State.modBank_free (s : State) (c b : Nat) (f : BankSt → BankSt) : (s.modBank c b f).free = s.free := rfl

/-! ### State.modCtx -/

@[simp] theorem State.modCtx_pending (s : State) (c r : Nat) (f : Ctx → Ctx) : (s.modCtx c r f).pending = s.pending := rfl
@[simp] theorem State.modCtx_refCount (s : State) (c r : Nat) (f : Ctx → Ctx) : (s.modCtx c r f).refCount = s.refCount := rfl
@[simp] theorem State.modCtx_master (s : State) (c r : Nat) (f : Ctx → Ctx) : (s.modCtx c r f).master = s.master := rfl
@[simp] theorem State.modCtx_originRef (s : State) (c r : Nat) (f : Ctx → Ctx) : (s.modCtx c r f).originRef = s.originRef := rfl
@[simp] theorem State.modCtx_porBase (s : State) (c r : Nat) (f : Ctx → Ctx) : (s.modCtx c r f).porBase = s.porBase := rfl
@[simp] theorem State.modCtx_pins (s : State) (c r : Nat) (f : Ctx → Ctx) : (s.modCtx c r f).pins = s.pins := rfl
@[simp] theorem State.modCtx_link (s : State) (c r : Nat) (f : Ctx → Ctx) : (s.modCtx c r f).link = s.link := rfl
@[simp] theorem State.modCtx_port (s : State) (c r : Nat) (f : Ctx → Ctx) : (s.modCtx c r f).port = s.port := rfl
@[simp] theorem State.modCtx_ledger (s : State) (c r : Nat) (f : Ctx → Ctx) : (s.modCtx c r f).ledger = s.ledger := rfl
@[simp] theorem State.modCtx_slices (s : State) (c r : Nat) (f : Ctx → Ctx) : (s.modCtx c r f).slices = s.slices := rfl
@[simp] theorem State.modCtx_hsync (s : State) (c r : Nat) (f : Ctx → Ctx) : (s.modCtx c r f).hsync = s.hsync := rfl
@[simp] theorem State.modCtx_syncQ (s : State) (c r : Nat) (f : Ctx → Ctx) : (s.modCtx c r f).syncQ = s.syncQ := rfl
@[simp] theorem State.modCtx_arrQ (s : State) (c r : Nat) (f : Ctx → Ctx) : (s.modCtx c r f).arrQ = s.arrQ := rfl
@[simp] theorem State.modCtx_relQ (s : State) (c r : Nat) (f : Ctx → Ctx) : (s.modCtx c r f).relQ = s.relQ := rfl
@[simp] theorem State.modCtx_msgQ (s : State) (c r : Nat) (f : Ctx → Ctx) : (s.modCtx c r f).msgQ = s.msgQ := rfl
@[simp] theorem State.modCtx_settleQ (s : State) (c r : Nat) (f : Ctx → Ctx) : (s.modCtx c r f).settleQ = s.settleQ := rfl
@[simp] theorem State.modCtx_mem (s : State) (c r : Nat) (f : Ctx → Ctx) : (s.modCtx c r f).mem = s.mem := rfl
@[simp] theorem State.modCtx_checkDiff (s : State) (c r : Nat) (f : Ctx → Ctx) : (s.modCtx c r f).checkDiff = s.checkDiff := rfl
@[simp] theorem State.modCtx_mg (s : State) (c r : Nat) (f : Ctx → Ctx) : (s.modCtx c r f).mg = s.mg := rfl
@[simp] theorem State.modCtx_sc (s : State) (c r : Nat) (f : Ctx → Ctx) : (s.modCtx c r f).sc = s.sc := rfl
@[simp] theorem State.modCtx_fuses (s : State) (c r : Nat) (f : Ctx → Ctx) : (s.modCtx c r f).fuses = s.fuses := rfl
@[simp] theorem State.modCtx_mram (s : State) (c r : Nat) (f : Ctx → Ctx) : (s.modCtx c r f).mram = s.mram := rfl
@[simp] theorem State.modCtx_free (s : State) (c r : Nat) (f : Ctx → Ctx) : (s.modCtx c r f).free = s.free := rfl

/-! ### State.modCmd -/

@[simp] theorem State.modCmd_pending (s : State) (c r pos : Nat) (f : Cmd → Cmd) : (s.modCmd c r pos f).pending = s.pending := rfl
@[simp] theorem State.modCmd_refCount (s : State) (c r pos : Nat) (f : Cmd → Cmd) : (s.modCmd c r pos f).refCount = s.refCount := rfl
@[simp] theorem State.modCmd_master (s : State) (c r pos : Nat) (f : Cmd → Cmd) : (s.modCmd c r pos f).master = s.master := rfl
@[simp] theorem State.modCmd_originRef (s : State) (c r pos : Nat) (f : Cmd → Cmd) : (s.modCmd c r pos f).originRef = s.originRef := rfl
@[simp] theorem State.modCmd_porBase (s : State) (c r pos : Nat) (f : Cmd → Cmd) : (s.modCmd c r pos f).porBase = s.porBase := rfl
@[simp] theorem State.modCmd_pins (s : State) (c r pos : Nat) (f : Cmd → Cmd) : (s.modCmd c r pos f).pins = s.pins := rfl
@[simp] theorem State.modCmd_link (s : State) (c r pos : Nat) (f : Cmd → Cmd) : (s.modCmd c r pos f).link = s.link := rfl
@[simp] theorem State.modCmd_port (s : State) (c r pos : Nat) (f : Cmd → Cmd) : (s.modCmd c r pos f).port = s.port := rfl
@[simp] theorem State.modCmd_ledger (s : State) (c r pos : Nat) (f : Cmd → Cmd) : (s.modCmd c r pos f).ledger = s.ledger := rfl
@[simp] theorem State.modCmd_slices (s : State) (c r pos : Nat) (f : Cmd → Cmd) : (s.modCmd c r pos f).slices = s.slices := rfl
@[simp] theorem State.modCmd_hsync (s : State) (c r pos : Nat) (f : Cmd → Cmd) : (s.modCmd c r pos f).hsync = s.hsync := rfl
@[simp] theorem State.modCmd_syncQ (s : State) (c r pos : Nat) (f : Cmd → Cmd) : (s.modCmd c r pos f).syncQ = s.syncQ := rfl
@[simp] theorem State.modCmd_arrQ (s : State) (c r pos : Nat) (f : Cmd → Cmd) : (s.modCmd c r pos f).arrQ = s.arrQ := rfl
@[simp] theorem State.modCmd_relQ (s : State) (c r pos : Nat) (f : Cmd → Cmd) : (s.modCmd c r pos f).relQ = s.relQ := rfl
@[simp] theorem State.modCmd_msgQ (s : State) (c r pos : Nat) (f : Cmd → Cmd) : (s.modCmd c r pos f).msgQ = s.msgQ := rfl
@[simp] theorem State.modCmd_settleQ (s : State) (c r pos : Nat) (f : Cmd → Cmd) : (s.modCmd c r pos f).settleQ = s.settleQ := rfl
@[simp] theorem State.modCmd_mem (s : State) (c r pos : Nat) (f : Cmd → Cmd) : (s.modCmd c r pos f).mem = s.mem := rfl
@[simp] theorem State.modCmd_checkDiff (s : State) (c r pos : Nat) (f : Cmd → Cmd) : (s.modCmd c r pos f).checkDiff = s.checkDiff := rfl
@[simp] theorem State.modCmd_mg (s : State) (c r pos : Nat) (f : Cmd → Cmd) : (s.modCmd c r pos f).mg = s.mg := rfl
@[simp] theorem State.modCmd_sc (s : State) (c r pos : Nat) (f : Cmd → Cmd) : (s.modCmd c r pos f).sc = s.sc := rfl
@[simp] theorem State.modCmd_fuses (s : State) (c r pos : Nat) (f : Cmd → Cmd) : (s.modCmd c r pos f).fuses = s.fuses := rfl
@[simp] theorem State.modCmd_mram (s : State) (c r pos : Nat) (f : Cmd → Cmd) : (s.modCmd c r pos f).mram = s.mram := rfl
@[simp] theorem State.modCmd_free (s : State) (c r pos : Nat) (f : Cmd → Cmd) : (s.modCmd c r pos f).free = s.free := rfl

/-! ### State.modChk -/

@[simp] theorem State.modChk_pending (s : State) (c : Nat) (f : CheckSt → CheckSt) : (s.modChk c f).pending = s.pending := rfl
@[simp] theorem State.modChk_refCount (s : State) (c : Nat) (f : CheckSt → CheckSt) : (s.modChk c f).refCount = s.refCount := rfl
@[simp] theorem State.modChk_master (s : State) (c : Nat) (f : CheckSt → CheckSt) : (s.modChk c f).master = s.master := rfl
@[simp] theorem State.modChk_originRef (s : State) (c : Nat) (f : CheckSt → CheckSt) : (s.modChk c f).originRef = s.originRef := rfl
@[simp] theorem State.modChk_porBase (s : State) (c : Nat) (f : CheckSt → CheckSt) : (s.modChk c f).porBase = s.porBase := rfl
@[simp] theorem State.modChk_pins (s : State) (c : Nat) (f : CheckSt → CheckSt) : (s.modChk c f).pins = s.pins := rfl
@[simp] theorem State.modChk_link (s : State) (c : Nat) (f : CheckSt → CheckSt) : (s.modChk c f).link = s.link := rfl
@[simp] theorem State.modChk_port (s : State) (c : Nat) (f : CheckSt → CheckSt) : (s.modChk c f).port = s.port := rfl
@[simp] theorem State.modChk_ledger (s : State) (c : Nat) (f : CheckSt → CheckSt) : (s.modChk c f).ledger = s.ledger := rfl
@[simp] theorem State.modChk_slices (s : State) (c : Nat) (f : CheckSt → CheckSt) : (s.modChk c f).slices = s.slices := rfl
@[simp] theorem State.modChk_hsync (s : State) (c : Nat) (f : CheckSt → CheckSt) : (s.modChk c f).hsync = s.hsync := rfl
@[simp] theorem State.modChk_syncQ (s : State) (c : Nat) (f : CheckSt → CheckSt) : (s.modChk c f).syncQ = s.syncQ := rfl
@[simp] theorem State.modChk_arrQ (s : State) (c : Nat) (f : CheckSt → CheckSt) : (s.modChk c f).arrQ = s.arrQ := rfl
@[simp] theorem State.modChk_relQ (s : State) (c : Nat) (f : CheckSt → CheckSt) : (s.modChk c f).relQ = s.relQ := rfl
@[simp] theorem State.modChk_msgQ (s : State) (c : Nat) (f : CheckSt → CheckSt) : (s.modChk c f).msgQ = s.msgQ := rfl
@[simp] theorem State.modChk_settleQ (s : State) (c : Nat) (f : CheckSt → CheckSt) : (s.modChk c f).settleQ = s.settleQ := rfl
@[simp] theorem State.modChk_mem (s : State) (c : Nat) (f : CheckSt → CheckSt) : (s.modChk c f).mem = s.mem := rfl
@[simp] theorem State.modChk_checkDiff (s : State) (c : Nat) (f : CheckSt → CheckSt) : (s.modChk c f).checkDiff = s.checkDiff := rfl
@[simp] theorem State.modChk_mg (s : State) (c : Nat) (f : CheckSt → CheckSt) : (s.modChk c f).mg = s.mg := rfl
@[simp] theorem State.modChk_sc (s : State) (c : Nat) (f : CheckSt → CheckSt) : (s.modChk c f).sc = s.sc := rfl
@[simp] theorem State.modChk_fuses (s : State) (c : Nat) (f : CheckSt → CheckSt) : (s.modChk c f).fuses = s.fuses := rfl
@[simp] theorem State.modChk_mram (s : State) (c : Nat) (f : CheckSt → CheckSt) : (s.modChk c f).mram = s.mram := rfl
@[simp] theorem State.modChk_free (s : State) (c : Nat) (f : CheckSt → CheckSt) : (s.modChk c f).free = s.free := rfl

/-! ### State.modTrain -/

@[simp] theorem State.modTrain_pending (s : State) (c : Nat) (f : TrainSt → TrainSt) : (s.modTrain c f).pending = s.pending := rfl
@[simp] theorem State.modTrain_refCount (s : State) (c : Nat) (f : TrainSt → TrainSt) : (s.modTrain c f).refCount = s.refCount := rfl
@[simp] theorem State.modTrain_master (s : State) (c : Nat) (f : TrainSt → TrainSt) : (s.modTrain c f).master = s.master := rfl
@[simp] theorem State.modTrain_originRef (s : State) (c : Nat) (f : TrainSt → TrainSt) : (s.modTrain c f).originRef = s.originRef := rfl
@[simp] theorem State.modTrain_porBase (s : State) (c : Nat) (f : TrainSt → TrainSt) : (s.modTrain c f).porBase = s.porBase := rfl
@[simp] theorem State.modTrain_pins (s : State) (c : Nat) (f : TrainSt → TrainSt) : (s.modTrain c f).pins = s.pins := rfl
@[simp] theorem State.modTrain_link (s : State) (c : Nat) (f : TrainSt → TrainSt) : (s.modTrain c f).link = s.link := rfl
@[simp] theorem State.modTrain_port (s : State) (c : Nat) (f : TrainSt → TrainSt) : (s.modTrain c f).port = s.port := rfl
@[simp] theorem State.modTrain_ledger (s : State) (c : Nat) (f : TrainSt → TrainSt) : (s.modTrain c f).ledger = s.ledger := rfl
@[simp] theorem State.modTrain_slices (s : State) (c : Nat) (f : TrainSt → TrainSt) : (s.modTrain c f).slices = s.slices := rfl
@[simp] theorem State.modTrain_hsync (s : State) (c : Nat) (f : TrainSt → TrainSt) : (s.modTrain c f).hsync = s.hsync := rfl
@[simp] theorem State.modTrain_syncQ (s : State) (c : Nat) (f : TrainSt → TrainSt) : (s.modTrain c f).syncQ = s.syncQ := rfl
@[simp] theorem State.modTrain_arrQ (s : State) (c : Nat) (f : TrainSt → TrainSt) : (s.modTrain c f).arrQ = s.arrQ := rfl
@[simp] theorem State.modTrain_relQ (s : State) (c : Nat) (f : TrainSt → TrainSt) : (s.modTrain c f).relQ = s.relQ := rfl
@[simp] theorem State.modTrain_msgQ (s : State) (c : Nat) (f : TrainSt → TrainSt) : (s.modTrain c f).msgQ = s.msgQ := rfl
@[simp] theorem State.modTrain_settleQ (s : State) (c : Nat) (f : TrainSt → TrainSt) : (s.modTrain c f).settleQ = s.settleQ := rfl
@[simp] theorem State.modTrain_mem (s : State) (c : Nat) (f : TrainSt → TrainSt) : (s.modTrain c f).mem = s.mem := rfl
@[simp] theorem State.modTrain_checkDiff (s : State) (c : Nat) (f : TrainSt → TrainSt) : (s.modTrain c f).checkDiff = s.checkDiff := rfl
@[simp] theorem State.modTrain_mg (s : State) (c : Nat) (f : TrainSt → TrainSt) : (s.modTrain c f).mg = s.mg := rfl
@[simp] theorem State.modTrain_sc (s : State) (c : Nat) (f : TrainSt → TrainSt) : (s.modTrain c f).sc = s.sc := rfl
@[simp] theorem State.modTrain_fuses (s : State) (c : Nat) (f : TrainSt → TrainSt) : (s.modTrain c f).fuses = s.fuses := rfl
@[simp] theorem State.modTrain_mram (s : State) (c : Nat) (f : TrainSt → TrainSt) : (s.modTrain c f).mram = s.mram := rfl
@[simp] theorem State.modTrain_free (s : State) (c : Nat) (f : TrainSt → TrainSt) : (s.modTrain c f).free = s.free := rfl

/-! ### State.modPwr -/

@[simp] theorem State.modPwr_pending (s : State) (c : Nat) (f : ChPower → ChPower) : (s.modPwr c f).pending = s.pending := rfl
@[simp] theorem State.modPwr_refCount (s : State) (c : Nat) (f : ChPower → ChPower) : (s.modPwr c f).refCount = s.refCount := rfl
@[simp] theorem State.modPwr_master (s : State) (c : Nat) (f : ChPower → ChPower) : (s.modPwr c f).master = s.master := rfl
@[simp] theorem State.modPwr_originRef (s : State) (c : Nat) (f : ChPower → ChPower) : (s.modPwr c f).originRef = s.originRef := rfl
@[simp] theorem State.modPwr_porBase (s : State) (c : Nat) (f : ChPower → ChPower) : (s.modPwr c f).porBase = s.porBase := rfl
@[simp] theorem State.modPwr_pins (s : State) (c : Nat) (f : ChPower → ChPower) : (s.modPwr c f).pins = s.pins := rfl
@[simp] theorem State.modPwr_link (s : State) (c : Nat) (f : ChPower → ChPower) : (s.modPwr c f).link = s.link := rfl
@[simp] theorem State.modPwr_port (s : State) (c : Nat) (f : ChPower → ChPower) : (s.modPwr c f).port = s.port := rfl
@[simp] theorem State.modPwr_ledger (s : State) (c : Nat) (f : ChPower → ChPower) : (s.modPwr c f).ledger = s.ledger := rfl
@[simp] theorem State.modPwr_slices (s : State) (c : Nat) (f : ChPower → ChPower) : (s.modPwr c f).slices = s.slices := rfl
@[simp] theorem State.modPwr_hsync (s : State) (c : Nat) (f : ChPower → ChPower) : (s.modPwr c f).hsync = s.hsync := rfl
@[simp] theorem State.modPwr_syncQ (s : State) (c : Nat) (f : ChPower → ChPower) : (s.modPwr c f).syncQ = s.syncQ := rfl
@[simp] theorem State.modPwr_arrQ (s : State) (c : Nat) (f : ChPower → ChPower) : (s.modPwr c f).arrQ = s.arrQ := rfl
@[simp] theorem State.modPwr_relQ (s : State) (c : Nat) (f : ChPower → ChPower) : (s.modPwr c f).relQ = s.relQ := rfl
@[simp] theorem State.modPwr_msgQ (s : State) (c : Nat) (f : ChPower → ChPower) : (s.modPwr c f).msgQ = s.msgQ := rfl
@[simp] theorem State.modPwr_settleQ (s : State) (c : Nat) (f : ChPower → ChPower) : (s.modPwr c f).settleQ = s.settleQ := rfl
@[simp] theorem State.modPwr_mem (s : State) (c : Nat) (f : ChPower → ChPower) : (s.modPwr c f).mem = s.mem := rfl
@[simp] theorem State.modPwr_checkDiff (s : State) (c : Nat) (f : ChPower → ChPower) : (s.modPwr c f).checkDiff = s.checkDiff := rfl
@[simp] theorem State.modPwr_mg (s : State) (c : Nat) (f : ChPower → ChPower) : (s.modPwr c f).mg = s.mg := rfl
@[simp] theorem State.modPwr_sc (s : State) (c : Nat) (f : ChPower → ChPower) : (s.modPwr c f).sc = s.sc := rfl
@[simp] theorem State.modPwr_fuses (s : State) (c : Nat) (f : ChPower → ChPower) : (s.modPwr c f).fuses = s.fuses := rfl
@[simp] theorem State.modPwr_mram (s : State) (c : Nat) (f : ChPower → ChPower) : (s.modPwr c f).mram = s.mram := rfl
@[simp] theorem State.modPwr_free (s : State) (c : Nat) (f : ChPower → ChPower) : (s.modPwr c f).free = s.free := rfl

/-! ### State.logWrite -/

@[simp] theorem State.logWrite_pending (s : State) (a : Nat) (w : Writer) : (s.logWrite a w).pending = s.pending := rfl
@[simp] theorem State.logWrite_refCount (s : State) (a : Nat) (w : Writer) : (s.logWrite a w).refCount = s.refCount := rfl
@[simp] theorem State.logWrite_master (s : State) (a : Nat) (w : Writer) : (s.logWrite a w).master = s.master := rfl
@[simp] theorem State.logWrite_originRef (s : State) (a : Nat) (w : Writer) : (s.logWrite a w).originRef = s.originRef := rfl
@[simp] theorem State.logWrite_porBase (s : State) (a : Nat) (w : Writer) : (s.logWrite a w).porBase = s.porBase := rfl
@[simp] theorem State.logWrite_pins (s : State) (a : Nat) (w : Writer) : (s.logWrite a w).pins = s.pins := rfl
@[simp] theorem State.logWrite_link (s : State) (a : Nat) (w : Writer) : (s.logWrite a w).link = s.link := rfl
@[simp] theorem State.logWrite_port (s : State) (a : Nat) (w : Writer) : (s.logWrite a w).port = s.port := rfl
@[simp] theorem State.logWrite_ledger (s : State) (a : Nat) (w : Writer) : (s.logWrite a w).ledger = s.ledger := rfl
@[simp] theorem State.logWrite_slices (s : State) (a : Nat) (w : Writer) : (s.logWrite a w).slices = s.slices := rfl
@[simp] theorem State.logWrite_hsync (s : State) (a : Nat) (w : Writer) : (s.logWrite a w).hsync = s.hsync := rfl
@[simp] theorem State.logWrite_syncQ (s : State) (a : Nat) (w : Writer) : (s.logWrite a w).syncQ = s.syncQ := rfl
@[simp] theorem State.logWrite_arrQ (s : State) (a : Nat) (w : Writer) : (s.logWrite a w).arrQ = s.arrQ := rfl
@[simp] theorem State.logWrite_relQ (s : State) (a : Nat) (w : Writer) : (s.logWrite a w).relQ = s.relQ := rfl
@[simp] theorem State.logWrite_msgQ (s : State) (a : Nat) (w : Writer) : (s.logWrite a w).msgQ = s.msgQ := rfl
@[simp] theorem State.logWrite_settleQ (s : State) (a : Nat) (w : Writer) : (s.logWrite a w).settleQ = s.settleQ := rfl
@[simp] theorem State.logWrite_mem (s : State) (a : Nat) (w : Writer) : (s.logWrite a w).mem = s.mem := rfl
@[simp] theorem State.logWrite_checkDiff (s : State) (a : Nat) (w : Writer) : (s.logWrite a w).checkDiff = s.checkDiff := rfl
@[simp] theorem State.logWrite_mg (s : State) (a : Nat) (w : Writer) : (s.logWrite a w).mg = s.mg := rfl
@[simp] theorem State.logWrite_sc (s : State) (a : Nat) (w : Writer) : (s.logWrite a w).sc = s.sc := rfl
@[simp] theorem State.logWrite_fuses (s : State) (a : Nat) (w : Writer) : (s.logWrite a w).fuses = s.fuses := rfl
@[simp] theorem State.logWrite_mram (s : State) (a : Nat) (w : Writer) : (s.logWrite a w).mram = s.mram := rfl
@[simp] theorem State.logWrite_free (s : State) (a : Nat) (w : Writer) : (s.logWrite a w).free = s.free := rfl

/-! ### State.setDiff -/

@[simp] theorem State.setDiff_pending (s : State) (blk : Nat) (d : W32) : (s.setDiff blk d).pending = s.pending := rfl
@[simp] theorem State.setDiff_refCount (s : State) (blk : Nat) (d : W32) : (s.setDiff blk d).refCount = s.refCount := rfl
@[simp] theorem State.setDiff_master (s : State) (blk : Nat) (d : W32) : (s.setDiff blk d).master = s.master := rfl
@[simp] theorem State.setDiff_originRef (s : State) (blk : Nat) (d : W32) : (s.setDiff blk d).originRef = s.originRef := rfl
@[simp] theorem State.setDiff_porBase (s : State) (blk : Nat) (d : W32) : (s.setDiff blk d).porBase = s.porBase := rfl
@[simp] theorem State.setDiff_pins (s : State) (blk : Nat) (d : W32) : (s.setDiff blk d).pins = s.pins := rfl
@[simp] theorem State.setDiff_link (s : State) (blk : Nat) (d : W32) : (s.setDiff blk d).link = s.link := rfl
@[simp] theorem State.setDiff_port (s : State) (blk : Nat) (d : W32) : (s.setDiff blk d).port = s.port := rfl
@[simp] theorem State.setDiff_ledger (s : State) (blk : Nat) (d : W32) : (s.setDiff blk d).ledger = s.ledger := rfl
@[simp] theorem State.setDiff_chans (s : State) (blk : Nat) (d : W32) : (s.setDiff blk d).chans = s.chans := rfl
@[simp] theorem State.setDiff_slices (s : State) (blk : Nat) (d : W32) : (s.setDiff blk d).slices = s.slices := rfl
@[simp] theorem State.setDiff_hsync (s : State) (blk : Nat) (d : W32) : (s.setDiff blk d).hsync = s.hsync := rfl
@[simp] theorem State.setDiff_syncQ (s : State) (blk : Nat) (d : W32) : (s.setDiff blk d).syncQ = s.syncQ := rfl
@[simp] theorem State.setDiff_arrQ (s : State) (blk : Nat) (d : W32) : (s.setDiff blk d).arrQ = s.arrQ := rfl
@[simp] theorem State.setDiff_relQ (s : State) (blk : Nat) (d : W32) : (s.setDiff blk d).relQ = s.relQ := rfl
@[simp] theorem State.setDiff_msgQ (s : State) (blk : Nat) (d : W32) : (s.setDiff blk d).msgQ = s.msgQ := rfl
@[simp] theorem State.setDiff_settleQ (s : State) (blk : Nat) (d : W32) : (s.setDiff blk d).settleQ = s.settleQ := rfl
@[simp] theorem State.setDiff_mem (s : State) (blk : Nat) (d : W32) : (s.setDiff blk d).mem = s.mem := rfl
@[simp] theorem State.setDiff_mg (s : State) (blk : Nat) (d : W32) : (s.setDiff blk d).mg = s.mg := rfl
@[simp] theorem State.setDiff_sc (s : State) (blk : Nat) (d : W32) : (s.setDiff blk d).sc = s.sc := rfl
@[simp] theorem State.setDiff_fuses (s : State) (blk : Nat) (d : W32) : (s.setDiff blk d).fuses = s.fuses := rfl
@[simp] theorem State.setDiff_mram (s : State) (blk : Nat) (d : W32) : (s.setDiff blk d).mram = s.mram := rfl
@[simp] theorem State.setDiff_free (s : State) (blk : Nat) (d : W32) : (s.setDiff blk d).free = s.free := rfl

/-! ### State.alert -/

@[simp] theorem State.alert_pending (s : State) (bit : Nat) (e : ErrRec) : (s.alert bit e).pending = s.pending := rfl
@[simp] theorem State.alert_refCount (s : State) (bit : Nat) (e : ErrRec) : (s.alert bit e).refCount = s.refCount := rfl
@[simp] theorem State.alert_master (s : State) (bit : Nat) (e : ErrRec) : (s.alert bit e).master = s.master := rfl
@[simp] theorem State.alert_originRef (s : State) (bit : Nat) (e : ErrRec) : (s.alert bit e).originRef = s.originRef := rfl
@[simp] theorem State.alert_porBase (s : State) (bit : Nat) (e : ErrRec) : (s.alert bit e).porBase = s.porBase := rfl
@[simp] theorem State.alert_pins (s : State) (bit : Nat) (e : ErrRec) : (s.alert bit e).pins = s.pins := rfl
@[simp] theorem State.alert_link (s : State) (bit : Nat) (e : ErrRec) : (s.alert bit e).link = s.link := rfl
@[simp] theorem State.alert_port (s : State) (bit : Nat) (e : ErrRec) : (s.alert bit e).port = s.port := rfl
@[simp] theorem State.alert_ledger (s : State) (bit : Nat) (e : ErrRec) : (s.alert bit e).ledger = s.ledger := rfl
@[simp] theorem State.alert_chans (s : State) (bit : Nat) (e : ErrRec) : (s.alert bit e).chans = s.chans := rfl
@[simp] theorem State.alert_slices (s : State) (bit : Nat) (e : ErrRec) : (s.alert bit e).slices = s.slices := rfl
@[simp] theorem State.alert_hsync (s : State) (bit : Nat) (e : ErrRec) : (s.alert bit e).hsync = s.hsync := rfl
@[simp] theorem State.alert_syncQ (s : State) (bit : Nat) (e : ErrRec) : (s.alert bit e).syncQ = s.syncQ := rfl
@[simp] theorem State.alert_arrQ (s : State) (bit : Nat) (e : ErrRec) : (s.alert bit e).arrQ = s.arrQ := rfl
@[simp] theorem State.alert_relQ (s : State) (bit : Nat) (e : ErrRec) : (s.alert bit e).relQ = s.relQ := rfl
@[simp] theorem State.alert_msgQ (s : State) (bit : Nat) (e : ErrRec) : (s.alert bit e).msgQ = s.msgQ := rfl
@[simp] theorem State.alert_settleQ (s : State) (bit : Nat) (e : ErrRec) : (s.alert bit e).settleQ = s.settleQ := rfl
@[simp] theorem State.alert_mem (s : State) (bit : Nat) (e : ErrRec) : (s.alert bit e).mem = s.mem := rfl
@[simp] theorem State.alert_checkDiff (s : State) (bit : Nat) (e : ErrRec) : (s.alert bit e).checkDiff = s.checkDiff := rfl
@[simp] theorem State.alert_sc (s : State) (bit : Nat) (e : ErrRec) : (s.alert bit e).sc = s.sc := rfl
@[simp] theorem State.alert_fuses (s : State) (bit : Nat) (e : ErrRec) : (s.alert bit e).fuses = s.fuses := rfl
@[simp] theorem State.alert_mram (s : State) (bit : Nat) (e : ErrRec) : (s.alert bit e).mram = s.mram := rfl
@[simp] theorem State.alert_free (s : State) (bit : Nat) (e : ErrRec) : (s.alert bit e).free = s.free := rfl
@[simp] theorem State.alert_mg_alertMask (s : State) (bit : Nat) (e : ErrRec) : (s.alert bit e).mg.alertMask = s.mg.alertMask := rfl
@[simp] theorem State.alert_mg_corrThreshold (s : State) (bit : Nat) (e : ErrRec) : (s.alert bit e).mg.corrThreshold = s.mg.corrThreshold := rfl
@[simp] theorem State.alert_mg_errLog (s : State) (bit : Nat) (e : ErrRec) : (s.alert bit e).mg.errLog = s.mg.errLog := rfl
@[simp] theorem State.alert_mg_errHead (s : State) (bit : Nat) (e : ErrRec) : (s.alert bit e).mg.errHead = s.mg.errHead := rfl
@[simp] theorem State.alert_mg_errLost (s : State) (bit : Nat) (e : ErrRec) : (s.alert bit e).mg.errLost = s.mg.errLost := rfl
@[simp] theorem State.alert_mg_trace (s : State) (bit : Nat) (e : ErrRec) : (s.alert bit e).mg.trace = s.mg.trace := rfl
@[simp] theorem State.alert_mg_traceHead (s : State) (bit : Nat) (e : ErrRec) : (s.alert bit e).mg.traceHead = s.mg.traceHead := rfl
@[simp] theorem State.alert_mg_sensors (s : State) (bit : Nat) (e : ErrRec) : (s.alert bit e).mg.sensors = s.mg.sensors := rfl
@[simp] theorem State.alert_mg_warnLogic (s : State) (bit : Nat) (e : ErrRec) : (s.alert bit e).mg.warnLogic = s.mg.warnLogic := rfl
@[simp] theorem State.alert_mg_warnDram (s : State) (bit : Nat) (e : ErrRec) : (s.alert bit e).mg.warnDram = s.mg.warnDram := rfl
@[simp] theorem State.alert_mg_engagements (s : State) (bit : Nat) (e : ErrRec) : (s.alert bit e).mg.engagements = s.mg.engagements := rfl
@[simp] theorem State.alert_mg_hottest (s : State) (bit : Nat) (e : ErrRec) : (s.alert bit e).mg.hottest = s.mg.hottest := rfl
@[simp] theorem State.alert_mg_tripCount (s : State) (bit : Nat) (e : ErrRec) : (s.alert bit e).mg.tripCount = s.mg.tripCount := rfl
@[simp] theorem State.alert_mg_tripSensor (s : State) (bit : Nat) (e : ErrRec) : (s.alert bit e).mg.tripSensor = s.mg.tripSensor := rfl
@[simp] theorem State.alert_mg_tripLatch (s : State) (bit : Nat) (e : ErrRec) : (s.alert bit e).mg.tripLatch = s.mg.tripLatch := rfl
@[simp] theorem State.alert_mg_darnGen (s : State) (bit : Nat) (e : ErrRec) : (s.alert bit e).mg.darnGen = s.mg.darnGen := rfl
@[simp] theorem State.alert_mg_darnDigest (s : State) (bit : Nat) (e : ErrRec) : (s.alert bit e).mg.darnDigest = s.mg.darnDigest := rfl
@[simp] theorem State.alert_mg_linkDom (s : State) (bit : Nat) (e : ErrRec) : (s.alert bit e).mg.linkDom = s.mg.linkDom := rfl
@[simp] theorem State.alert_mg_switchDom (s : State) (bit : Nat) (e : ErrRec) : (s.alert bit e).mg.switchDom = s.mg.switchDom := rfl
@[simp] theorem State.alert_mg_secDom (s : State) (bit : Nat) (e : ErrRec) : (s.alert bit e).mg.secDom = s.mg.secDom := rfl
@[simp] theorem State.alert_mg_alert (s : State) (bit : Nat) (e : ErrRec) : (s.alert bit e).mg.alert = s.mg.alert ||| BitVec.ofNat 13 (2 ^ bit) ||| s.mg.mgmtDom.wakeSat := rfl
@[simp] theorem State.alert_mg_mgmtDom (s : State) (bit : Nat) (e : ErrRec) : (s.alert bit e).mg.mgmtDom = s.mg.mgmtDom.wake .on := rfl
@[simp] theorem State.alert_mg_boot (s : State) (bit : Nat) (e : ErrRec) : (s.alert bit e).mg.boot = { s.mg.boot with coreWait := false } := rfl

/-! ### State.keyOff -/

@[simp] theorem State.keyOff_pending (s : State)  : (s.keyOff).pending = s.pending := rfl
@[simp] theorem State.keyOff_refCount (s : State)  : (s.keyOff).refCount = s.refCount := rfl
@[simp] theorem State.keyOff_master (s : State)  : (s.keyOff).master = s.master := rfl
@[simp] theorem State.keyOff_originRef (s : State)  : (s.keyOff).originRef = s.originRef := rfl
@[simp] theorem State.keyOff_porBase (s : State)  : (s.keyOff).porBase = s.porBase := rfl
@[simp] theorem State.keyOff_pins (s : State)  : (s.keyOff).pins = s.pins := rfl
@[simp] theorem State.keyOff_link (s : State)  : (s.keyOff).link = s.link := rfl
@[simp] theorem State.keyOff_ledger (s : State)  : (s.keyOff).ledger = s.ledger := rfl
@[simp] theorem State.keyOff_chans (s : State)  : (s.keyOff).chans = s.chans := rfl
@[simp] theorem State.keyOff_slices (s : State)  : (s.keyOff).slices = s.slices := rfl
@[simp] theorem State.keyOff_hsync (s : State)  : (s.keyOff).hsync = s.hsync := rfl
@[simp] theorem State.keyOff_syncQ (s : State)  : (s.keyOff).syncQ = s.syncQ := rfl
@[simp] theorem State.keyOff_arrQ (s : State)  : (s.keyOff).arrQ = s.arrQ := rfl
@[simp] theorem State.keyOff_relQ (s : State)  : (s.keyOff).relQ = s.relQ := rfl
@[simp] theorem State.keyOff_msgQ (s : State)  : (s.keyOff).msgQ = s.msgQ := rfl
@[simp] theorem State.keyOff_settleQ (s : State)  : (s.keyOff).settleQ = s.settleQ := rfl
@[simp] theorem State.keyOff_mem (s : State)  : (s.keyOff).mem = s.mem := rfl
@[simp] theorem State.keyOff_checkDiff (s : State)  : (s.keyOff).checkDiff = s.checkDiff := rfl
@[simp] theorem State.keyOff_mg (s : State)  : (s.keyOff).mg = s.mg := rfl
@[simp] theorem State.keyOff_sc (s : State)  : (s.keyOff).sc = s.sc := rfl
@[simp] theorem State.keyOff_fuses (s : State)  : (s.keyOff).fuses = s.fuses := rfl
@[simp] theorem State.keyOff_mram (s : State)  : (s.keyOff).mram = s.mram := rfl
@[simp] theorem State.keyOff_free (s : State)  : (s.keyOff).free = s.free := rfl

/-! ### State.status -/

@[simp] theorem State.status_pending (s : State) (st : Status) : (s.status st).pending = s.pending := rfl
@[simp] theorem State.status_refCount (s : State) (st : Status) : (s.status st).refCount = s.refCount := rfl
@[simp] theorem State.status_master (s : State) (st : Status) : (s.status st).master = s.master := rfl
@[simp] theorem State.status_originRef (s : State) (st : Status) : (s.status st).originRef = s.originRef := rfl
@[simp] theorem State.status_porBase (s : State) (st : Status) : (s.status st).porBase = s.porBase := rfl
@[simp] theorem State.status_pins (s : State) (st : Status) : (s.status st).pins = s.pins := rfl
@[simp] theorem State.status_link (s : State) (st : Status) : (s.status st).link = s.link := rfl
@[simp] theorem State.status_ledger (s : State) (st : Status) : (s.status st).ledger = s.ledger := rfl
@[simp] theorem State.status_chans (s : State) (st : Status) : (s.status st).chans = s.chans := rfl
@[simp] theorem State.status_slices (s : State) (st : Status) : (s.status st).slices = s.slices := rfl
@[simp] theorem State.status_hsync (s : State) (st : Status) : (s.status st).hsync = s.hsync := rfl
@[simp] theorem State.status_syncQ (s : State) (st : Status) : (s.status st).syncQ = s.syncQ := rfl
@[simp] theorem State.status_arrQ (s : State) (st : Status) : (s.status st).arrQ = s.arrQ := rfl
@[simp] theorem State.status_relQ (s : State) (st : Status) : (s.status st).relQ = s.relQ := rfl
@[simp] theorem State.status_msgQ (s : State) (st : Status) : (s.status st).msgQ = s.msgQ := rfl
@[simp] theorem State.status_settleQ (s : State) (st : Status) : (s.status st).settleQ = s.settleQ := rfl
@[simp] theorem State.status_mem (s : State) (st : Status) : (s.status st).mem = s.mem := rfl
@[simp] theorem State.status_checkDiff (s : State) (st : Status) : (s.status st).checkDiff = s.checkDiff := rfl
@[simp] theorem State.status_mg (s : State) (st : Status) : (s.status st).mg = s.mg := rfl
@[simp] theorem State.status_sc (s : State) (st : Status) : (s.status st).sc = s.sc := rfl
@[simp] theorem State.status_fuses (s : State) (st : Status) : (s.status st).fuses = s.fuses := rfl
@[simp] theorem State.status_mram (s : State) (st : Status) : (s.status st).mram = s.mram := rfl
@[simp] theorem State.status_free (s : State) (st : Status) : (s.status st).free = s.free := rfl

/-! ### State.enqueue -/

@[simp] theorem State.enqueue_pending (s : State) (q : SecReq) : (s.enqueue q).pending = s.pending := rfl
@[simp] theorem State.enqueue_refCount (s : State) (q : SecReq) : (s.enqueue q).refCount = s.refCount := rfl
@[simp] theorem State.enqueue_master (s : State) (q : SecReq) : (s.enqueue q).master = s.master := rfl
@[simp] theorem State.enqueue_originRef (s : State) (q : SecReq) : (s.enqueue q).originRef = s.originRef := rfl
@[simp] theorem State.enqueue_porBase (s : State) (q : SecReq) : (s.enqueue q).porBase = s.porBase := rfl
@[simp] theorem State.enqueue_pins (s : State) (q : SecReq) : (s.enqueue q).pins = s.pins := rfl
@[simp] theorem State.enqueue_link (s : State) (q : SecReq) : (s.enqueue q).link = s.link := rfl
@[simp] theorem State.enqueue_port (s : State) (q : SecReq) : (s.enqueue q).port = s.port := rfl
@[simp] theorem State.enqueue_ledger (s : State) (q : SecReq) : (s.enqueue q).ledger = s.ledger := rfl
@[simp] theorem State.enqueue_chans (s : State) (q : SecReq) : (s.enqueue q).chans = s.chans := rfl
@[simp] theorem State.enqueue_slices (s : State) (q : SecReq) : (s.enqueue q).slices = s.slices := rfl
@[simp] theorem State.enqueue_hsync (s : State) (q : SecReq) : (s.enqueue q).hsync = s.hsync := rfl
@[simp] theorem State.enqueue_syncQ (s : State) (q : SecReq) : (s.enqueue q).syncQ = s.syncQ := rfl
@[simp] theorem State.enqueue_arrQ (s : State) (q : SecReq) : (s.enqueue q).arrQ = s.arrQ := rfl
@[simp] theorem State.enqueue_relQ (s : State) (q : SecReq) : (s.enqueue q).relQ = s.relQ := rfl
@[simp] theorem State.enqueue_msgQ (s : State) (q : SecReq) : (s.enqueue q).msgQ = s.msgQ := rfl
@[simp] theorem State.enqueue_settleQ (s : State) (q : SecReq) : (s.enqueue q).settleQ = s.settleQ := rfl
@[simp] theorem State.enqueue_mem (s : State) (q : SecReq) : (s.enqueue q).mem = s.mem := rfl
@[simp] theorem State.enqueue_checkDiff (s : State) (q : SecReq) : (s.enqueue q).checkDiff = s.checkDiff := rfl
@[simp] theorem State.enqueue_mg (s : State) (q : SecReq) : (s.enqueue q).mg = s.mg := rfl
@[simp] theorem State.enqueue_fuses (s : State) (q : SecReq) : (s.enqueue q).fuses = s.fuses := rfl
@[simp] theorem State.enqueue_mram (s : State) (q : SecReq) : (s.enqueue q).mram = s.mram := rfl
@[simp] theorem State.enqueue_free (s : State) (q : SecReq) : (s.enqueue q).free = s.free := rfl

/-! ### State.popSec -/

@[simp] theorem State.popSec_pending (s : State)  : (s.popSec).pending = s.pending := rfl
@[simp] theorem State.popSec_refCount (s : State)  : (s.popSec).refCount = s.refCount := rfl
@[simp] theorem State.popSec_master (s : State)  : (s.popSec).master = s.master := rfl
@[simp] theorem State.popSec_originRef (s : State)  : (s.popSec).originRef = s.originRef := rfl
@[simp] theorem State.popSec_porBase (s : State)  : (s.popSec).porBase = s.porBase := rfl
@[simp] theorem State.popSec_pins (s : State)  : (s.popSec).pins = s.pins := rfl
@[simp] theorem State.popSec_link (s : State)  : (s.popSec).link = s.link := rfl
@[simp] theorem State.popSec_port (s : State)  : (s.popSec).port = s.port := rfl
@[simp] theorem State.popSec_ledger (s : State)  : (s.popSec).ledger = s.ledger := rfl
@[simp] theorem State.popSec_chans (s : State)  : (s.popSec).chans = s.chans := rfl
@[simp] theorem State.popSec_slices (s : State)  : (s.popSec).slices = s.slices := rfl
@[simp] theorem State.popSec_hsync (s : State)  : (s.popSec).hsync = s.hsync := rfl
@[simp] theorem State.popSec_syncQ (s : State)  : (s.popSec).syncQ = s.syncQ := rfl
@[simp] theorem State.popSec_arrQ (s : State)  : (s.popSec).arrQ = s.arrQ := rfl
@[simp] theorem State.popSec_relQ (s : State)  : (s.popSec).relQ = s.relQ := rfl
@[simp] theorem State.popSec_msgQ (s : State)  : (s.popSec).msgQ = s.msgQ := rfl
@[simp] theorem State.popSec_settleQ (s : State)  : (s.popSec).settleQ = s.settleQ := rfl
@[simp] theorem State.popSec_mem (s : State)  : (s.popSec).mem = s.mem := rfl
@[simp] theorem State.popSec_checkDiff (s : State)  : (s.popSec).checkDiff = s.checkDiff := rfl
@[simp] theorem State.popSec_mg (s : State)  : (s.popSec).mg = s.mg := rfl
@[simp] theorem State.popSec_fuses (s : State)  : (s.popSec).fuses = s.fuses := rfl
@[simp] theorem State.popSec_mram (s : State)  : (s.popSec).mram = s.mram := rfl
@[simp] theorem State.popSec_free (s : State)  : (s.popSec).free = s.free := rfl

/-! ### Reads of parts -/

@[simp] theorem State.modChan_read_slice (s : State) (c : Nat) (f : Channel → Channel) (k : SliceId) : (s.modChan c f).slice k = s.slice k := rfl
@[simp] theorem State.modChan_read_group (s : State) (c : Nat) (f : Channel → Channel) (k : Nat) : (s.modChan c f).group k = s.group k := rfl
@[simp] theorem State.modSlice_read_chan (s : State) (sl : SliceId) (f : SliceSt → SliceSt) (k : Nat) : (s.modSlice sl f).chan k = s.chan k := rfl
@[simp] theorem State.modSlice_read_group (s : State) (sl : SliceId) (f : SliceSt → SliceSt) (k : Nat) : (s.modSlice sl f).group k = s.group k := rfl
@[simp] theorem State.modSlice_read_ctx (s : State) (sl : SliceId) (f : SliceSt → SliceSt) (k q : Nat) : (s.modSlice sl f).ctx k q = s.ctx k q := rfl
@[simp] theorem State.modSlice_read_cmd (s : State) (sl : SliceId) (f : SliceSt → SliceSt) (k q p : Nat) : (s.modSlice sl f).cmd k q p = s.cmd k q p := rfl
@[simp] theorem State.modGroup_read_chan (s : State) (g : Nat) (f : LaneGroup → LaneGroup) (k : Nat) : (s.modGroup g f).chan k = s.chan k := rfl
@[simp] theorem State.modGroup_read_slice (s : State) (g : Nat) (f : LaneGroup → LaneGroup) (k : SliceId) : (s.modGroup g f).slice k = s.slice k := rfl
@[simp] theorem State.modGroup_read_ctx (s : State) (g : Nat) (f : LaneGroup → LaneGroup) (k q : Nat) : (s.modGroup g f).ctx k q = s.ctx k q := rfl
@[simp] theorem State.modGroup_read_cmd (s : State) (g : Nat) (f : LaneGroup → LaneGroup) (k q p : Nat) : (s.modGroup g f).cmd k q p = s.cmd k q p := rfl
@[simp] theorem State.modPort_read_chan (s : State) (f : PortSt → PortSt) (k : Nat) : (s.modPort f).chan k = s.chan k := rfl
@[simp] theorem State.modPort_read_slice (s : State) (f : PortSt → PortSt) (k : SliceId) : (s.modPort f).slice k = s.slice k := rfl
@[simp] theorem State.modPort_read_group (s : State) (f : PortSt → PortSt) (k : Nat) : (s.modPort f).group k = s.group k := rfl
@[simp] theorem State.modPort_read_ctx (s : State) (f : PortSt → PortSt) (k q : Nat) : (s.modPort f).ctx k q = s.ctx k q := rfl
@[simp] theorem State.modPort_read_cmd (s : State) (f : PortSt → PortSt) (k q p : Nat) : (s.modPort f).cmd k q p = s.cmd k q p := rfl
@[simp] theorem State.modMg_read_chan (s : State) (f : MgSt → MgSt) (k : Nat) : (s.modMg f).chan k = s.chan k := rfl
@[simp] theorem State.modMg_read_slice (s : State) (f : MgSt → MgSt) (k : SliceId) : (s.modMg f).slice k = s.slice k := rfl
@[simp] theorem State.modMg_read_group (s : State) (f : MgSt → MgSt) (k : Nat) : (s.modMg f).group k = s.group k := rfl
@[simp] theorem State.modMg_read_ctx (s : State) (f : MgSt → MgSt) (k q : Nat) : (s.modMg f).ctx k q = s.ctx k q := rfl
@[simp] theorem State.modMg_read_cmd (s : State) (f : MgSt → MgSt) (k q p : Nat) : (s.modMg f).cmd k q p = s.cmd k q p := rfl
@[simp] theorem State.modBoot_read_chan (s : State) (f : BootSt → BootSt) (k : Nat) : (s.modBoot f).chan k = s.chan k := rfl
@[simp] theorem State.modBoot_read_slice (s : State) (f : BootSt → BootSt) (k : SliceId) : (s.modBoot f).slice k = s.slice k := rfl
@[simp] theorem State.modBoot_read_group (s : State) (f : BootSt → BootSt) (k : Nat) : (s.modBoot f).group k = s.group k := rfl
@[simp] theorem State.modBoot_read_ctx (s : State) (f : BootSt → BootSt) (k q : Nat) : (s.modBoot f).ctx k q = s.ctx k q := rfl
@[simp] theorem State.modBoot_read_cmd (s : State) (f : BootSt → BootSt) (k q p : Nat) : (s.modBoot f).cmd k q p = s.cmd k q p := rfl
@[simp] theorem State.modSc_read_chan (s : State) (f : SecSt → SecSt) (k : Nat) : (s.modSc f).chan k = s.chan k := rfl
@[simp] theorem State.modSc_read_slice (s : State) (f : SecSt → SecSt) (k : SliceId) : (s.modSc f).slice k = s.slice k := rfl
@[simp] theorem State.modSc_read_group (s : State) (f : SecSt → SecSt) (k : Nat) : (s.modSc f).group k = s.group k := rfl
@[simp] theorem State.modSc_read_ctx (s : State) (f : SecSt → SecSt) (k q : Nat) : (s.modSc f).ctx k q = s.ctx k q := rfl
@[simp] theorem State.modSc_read_cmd (s : State) (f : SecSt → SecSt) (k q p : Nat) : (s.modSc f).cmd k q p = s.cmd k q p := rfl
@[simp] theorem State.modLedger_read_chan (s : State) (f : LedgerSt → LedgerSt) (k : Nat) : (s.modLedger f).chan k = s.chan k := rfl
@[simp] theorem State.modLedger_read_slice (s : State) (f : LedgerSt → LedgerSt) (k : SliceId) : (s.modLedger f).slice k = s.slice k := rfl
@[simp] theorem State.modLedger_read_group (s : State) (f : LedgerSt → LedgerSt) (k : Nat) : (s.modLedger f).group k = s.group k := rfl
@[simp] theorem State.modLedger_read_ctx (s : State) (f : LedgerSt → LedgerSt) (k q : Nat) : (s.modLedger f).ctx k q = s.ctx k q := rfl
@[simp] theorem State.modLedger_read_cmd (s : State) (f : LedgerSt → LedgerSt) (k q p : Nat) : (s.modLedger f).cmd k q p = s.cmd k q p := rfl
@[simp] theorem State.alert_read_chan (s : State) (bit : Nat) (e : ErrRec) (k : Nat) : (s.alert bit e).chan k = s.chan k := rfl
@[simp] theorem State.alert_read_slice (s : State) (bit : Nat) (e : ErrRec) (k : SliceId) : (s.alert bit e).slice k = s.slice k := rfl
@[simp] theorem State.alert_read_group (s : State) (bit : Nat) (e : ErrRec) (k : Nat) : (s.alert bit e).group k = s.group k := rfl
@[simp] theorem State.alert_read_ctx (s : State) (bit : Nat) (e : ErrRec) (k q : Nat) : (s.alert bit e).ctx k q = s.ctx k q := rfl
@[simp] theorem State.alert_read_cmd (s : State) (bit : Nat) (e : ErrRec) (k q p : Nat) : (s.alert bit e).cmd k q p = s.cmd k q p := rfl
@[simp] theorem State.modCtx_read_slice (s : State) (c r : Nat) (f : Ctx → Ctx) (k : SliceId) : (s.modCtx c r f).slice k = s.slice k := rfl
@[simp] theorem State.modCtx_read_group (s : State) (c r : Nat) (f : Ctx → Ctx) (k : Nat) : (s.modCtx c r f).group k = s.group k := rfl
@[simp] theorem State.modCmd_read_slice (s : State) (c r pos : Nat) (f : Cmd → Cmd) (k : SliceId) : (s.modCmd c r pos f).slice k = s.slice k := rfl
@[simp] theorem State.modCmd_read_group (s : State) (c r pos : Nat) (f : Cmd → Cmd) (k : Nat) : (s.modCmd c r pos f).group k = s.group k := rfl
@[simp] theorem State.modPins_read_chan (s : State) (f : Pins → Pins) (k : Nat) : (s.modPins f).chan k = s.chan k := rfl
@[simp] theorem State.modPins_read_slice (s : State) (f : Pins → Pins) (k : SliceId) : (s.modPins f).slice k = s.slice k := rfl
@[simp] theorem State.modPins_read_group (s : State) (f : Pins → Pins) (k : Nat) : (s.modPins f).group k = s.group k := rfl
@[simp] theorem State.modPins_read_ctx (s : State) (f : Pins → Pins) (k q : Nat) : (s.modPins f).ctx k q = s.ctx k q := rfl
@[simp] theorem State.modPins_read_cmd (s : State) (f : Pins → Pins) (k q p : Nat) : (s.modPins f).cmd k q p = s.cmd k q p := rfl
@[simp] theorem State.modFuses_read_chan (s : State) (f : Fuses → Fuses) (k : Nat) : (s.modFuses f).chan k = s.chan k := rfl
@[simp] theorem State.modFuses_read_slice (s : State) (f : Fuses → Fuses) (k : SliceId) : (s.modFuses f).slice k = s.slice k := rfl
@[simp] theorem State.modFuses_read_group (s : State) (f : Fuses → Fuses) (k : Nat) : (s.modFuses f).group k = s.group k := rfl
@[simp] theorem State.modFuses_read_ctx (s : State) (f : Fuses → Fuses) (k q : Nat) : (s.modFuses f).ctx k q = s.ctx k q := rfl
@[simp] theorem State.modFuses_read_cmd (s : State) (f : Fuses → Fuses) (k q p : Nat) : (s.modFuses f).cmd k q p = s.cmd k q p := rfl
@[simp] theorem State.modMram_read_chan (s : State) (f : Mram → Mram) (k : Nat) : (s.modMram f).chan k = s.chan k := rfl
@[simp] theorem State.modMram_read_slice (s : State) (f : Mram → Mram) (k : SliceId) : (s.modMram f).slice k = s.slice k := rfl
@[simp] theorem State.modMram_read_group (s : State) (f : Mram → Mram) (k : Nat) : (s.modMram f).group k = s.group k := rfl
@[simp] theorem State.modMram_read_ctx (s : State) (f : Mram → Mram) (k q : Nat) : (s.modMram f).ctx k q = s.ctx k q := rfl
@[simp] theorem State.modMram_read_cmd (s : State) (f : Mram → Mram) (k q p : Nat) : (s.modMram f).cmd k q p = s.cmd k q p := rfl
@[simp] theorem State.keyOff_read_chan (s : State)  (k : Nat) : (s.keyOff).chan k = s.chan k := rfl
@[simp] theorem State.keyOff_read_slice (s : State)  (k : SliceId) : (s.keyOff).slice k = s.slice k := rfl
@[simp] theorem State.keyOff_read_group (s : State)  (k : Nat) : (s.keyOff).group k = s.group k := rfl
@[simp] theorem State.keyOff_read_ctx (s : State)  (k q : Nat) : (s.keyOff).ctx k q = s.ctx k q := rfl
@[simp] theorem State.keyOff_read_cmd (s : State)  (k q p : Nat) : (s.keyOff).cmd k q p = s.cmd k q p := rfl
@[simp] theorem State.status_read_chan (s : State) (st : Status) (k : Nat) : (s.status st).chan k = s.chan k := rfl
@[simp] theorem State.status_read_slice (s : State) (st : Status) (k : SliceId) : (s.status st).slice k = s.slice k := rfl
@[simp] theorem State.status_read_group (s : State) (st : Status) (k : Nat) : (s.status st).group k = s.group k := rfl
@[simp] theorem State.status_read_ctx (s : State) (st : Status) (k q : Nat) : (s.status st).ctx k q = s.ctx k q := rfl
@[simp] theorem State.status_read_cmd (s : State) (st : Status) (k q p : Nat) : (s.status st).cmd k q p = s.cmd k q p := rfl

/-! ### SliceSt.modEng -/

@[simp] theorem SliceSt.modEng_scratch (x : SliceSt) (e : Engine) (f : EngineSt → EngineSt) : (x.modEng e f).scratch = x.scratch := rfl
@[simp] theorem SliceSt.modEng_tiles (x : SliceSt) (e : Engine) (f : EngineSt → EngineSt) : (x.modEng e f).tiles = x.tiles := rfl
@[simp] theorem SliceSt.modEng_accs (x : SliceSt) (e : Engine) (f : EngineSt → EngineSt) : (x.modEng e f).accs = x.accs := rfl
@[simp] theorem SliceSt.modEng_skein (x : SliceSt) (e : Engine) (f : EngineSt → EngineSt) : (x.modEng e f).skein = x.skein := rfl
@[simp] theorem SliceSt.modEng_sems (x : SliceSt) (e : Engine) (f : EngineSt → EngineSt) : (x.modEng e f).sems = x.sems := rfl
@[simp] theorem SliceSt.modEng_ars (x : SliceSt) (e : Engine) (f : EngineSt → EngineSt) : (x.modEng e f).ars = x.ars := rfl
@[simp] theorem SliceSt.modEng_summary (x : SliceSt) (e : Engine) (f : EngineSt → EngineSt) : (x.modEng e f).summary = x.summary := rfl
@[simp] theorem SliceSt.modEng_sumQ (x : SliceSt) (e : Engine) (f : EngineSt → EngineSt) : (x.modEng e f).sumQ = x.sumQ := rfl
@[simp] theorem SliceSt.modEng_qHead (x : SliceSt) (e : Engine) (f : EngineSt → EngineSt) : (x.modEng e f).qHead = x.qHead := rfl
@[simp] theorem SliceSt.modEng_qTail (x : SliceSt) (e : Engine) (f : EngineSt → EngineSt) : (x.modEng e f).qTail = x.qTail := rfl
@[simp] theorem SliceSt.modEng_consts (x : SliceSt) (e : Engine) (f : EngineSt → EngineSt) : (x.modEng e f).consts = x.consts := rfl
@[simp] theorem SliceSt.modEng_reds (x : SliceSt) (e : Engine) (f : EngineSt → EngineSt) : (x.modEng e f).reds = x.reds := rfl
@[simp] theorem SliceSt.modEng_mail (x : SliceSt) (e : Engine) (f : EngineSt → EngineSt) : (x.modEng e f).mail = x.mail := rfl
@[simp] theorem SliceSt.modEng_owner (x : SliceSt) (e : Engine) (f : EngineSt → EngineSt) : (x.modEng e f).owner = x.owner := rfl
@[simp] theorem SliceSt.modEng_shadow (x : SliceSt) (e : Engine) (f : EngineSt → EngineSt) : (x.modEng e f).shadow = x.shadow := rfl
@[simp] theorem SliceSt.modEng_bxWait (x : SliceSt) (e : Engine) (f : EngineSt → EngineSt) : (x.modEng e f).bxWait = x.bxWait := rfl
@[simp] theorem SliceSt.modEng_waitStart (x : SliceSt) (e : Engine) (f : EngineSt → EngineSt) : (x.modEng e f).waitStart = x.waitStart := rfl
@[simp] theorem SliceSt.modEng_waitUs (x : SliceSt) (e : Engine) (f : EngineSt → EngineSt) : (x.modEng e f).waitUs = x.waitUs := rfl
@[simp] theorem SliceSt.modEng_layer (x : SliceSt) (e : Engine) (f : EngineSt → EngineSt) : (x.modEng e f).layer = x.layer := rfl
@[simp] theorem SliceSt.modEng_work (x : SliceSt) (e : Engine) (f : EngineSt → EngineSt) : (x.modEng e f).work = x.work := rfl
@[simp] theorem SliceSt.modEng_stopReq (x : SliceSt) (e : Engine) (f : EngineSt → EngineSt) : (x.modEng e f).stopReq = x.stopReq := rfl
@[simp] theorem SliceSt.modEng_fetchNext (x : SliceSt) (e : Engine) (f : EngineSt → EngineSt) : (x.modEng e f).fetchNext = x.fetchNext := rfl
@[simp] theorem SliceSt.modEng_icache (x : SliceSt) (e : Engine) (f : EngineSt → EngineSt) : (x.modEng e f).icache = x.icache := rfl
@[simp] theorem SliceSt.modEng_pinned (x : SliceSt) (e : Engine) (f : EngineSt → EngineSt) : (x.modEng e f).pinned = x.pinned := rfl
@[simp] theorem SliceSt.modEng_pinTrunc (x : SliceSt) (e : Engine) (f : EngineSt → EngineSt) : (x.modEng e f).pinTrunc = x.pinTrunc := rfl
@[simp] theorem SliceSt.modEng_pinnedLines (x : SliceSt) (e : Engine) (f : EngineSt → EngineSt) : (x.modEng e f).pinnedLines = x.pinnedLines := rfl
@[simp] theorem SliceSt.modEng_perf (x : SliceSt) (e : Engine) (f : EngineSt → EngineSt) : (x.modEng e f).perf = x.perf := rfl
@[simp] theorem SliceSt.modEng_perfSat (x : SliceSt) (e : Engine) (f : EngineSt → EngineSt) : (x.modEng e f).perfSat = x.perfSat := rfl
@[simp] theorem SliceSt.modEng_perfEnable (x : SliceSt) (e : Engine) (f : EngineSt → EngineSt) : (x.modEng e f).perfEnable = x.perfEnable := rfl
@[simp] theorem SliceSt.modEng_halted (x : SliceSt) (e : Engine) (f : EngineSt → EngineSt) : (x.modEng e f).halted = x.halted := rfl
@[simp] theorem SliceSt.modEng_stepping (x : SliceSt) (e : Engine) (f : EngineSt → EngineSt) : (x.modEng e f).stepping = x.stepping := rfl
@[simp] theorem SliceSt.modEng_breaks (x : SliceSt) (e : Engine) (f : EngineSt → EngineSt) : (x.modEng e f).breaks = x.breaks := rfl

/-! ### SliceSt.setSkein -/

@[simp] theorem SliceSt.setSkein_scratch (x : SliceSt) (k : Nat) (v : W32) : (x.setSkein k v).scratch = x.scratch := rfl
@[simp] theorem SliceSt.setSkein_tiles (x : SliceSt) (k : Nat) (v : W32) : (x.setSkein k v).tiles = x.tiles := rfl
@[simp] theorem SliceSt.setSkein_accs (x : SliceSt) (k : Nat) (v : W32) : (x.setSkein k v).accs = x.accs := rfl
@[simp] theorem SliceSt.setSkein_sems (x : SliceSt) (k : Nat) (v : W32) : (x.setSkein k v).sems = x.sems := rfl
@[simp] theorem SliceSt.setSkein_ars (x : SliceSt) (k : Nat) (v : W32) : (x.setSkein k v).ars = x.ars := rfl
@[simp] theorem SliceSt.setSkein_summary (x : SliceSt) (k : Nat) (v : W32) : (x.setSkein k v).summary = x.summary := rfl
@[simp] theorem SliceSt.setSkein_sumQ (x : SliceSt) (k : Nat) (v : W32) : (x.setSkein k v).sumQ = x.sumQ := rfl
@[simp] theorem SliceSt.setSkein_qHead (x : SliceSt) (k : Nat) (v : W32) : (x.setSkein k v).qHead = x.qHead := rfl
@[simp] theorem SliceSt.setSkein_qTail (x : SliceSt) (k : Nat) (v : W32) : (x.setSkein k v).qTail = x.qTail := rfl
@[simp] theorem SliceSt.setSkein_consts (x : SliceSt) (k : Nat) (v : W32) : (x.setSkein k v).consts = x.consts := rfl
@[simp] theorem SliceSt.setSkein_reds (x : SliceSt) (k : Nat) (v : W32) : (x.setSkein k v).reds = x.reds := rfl
@[simp] theorem SliceSt.setSkein_mail (x : SliceSt) (k : Nat) (v : W32) : (x.setSkein k v).mail = x.mail := rfl
@[simp] theorem SliceSt.setSkein_owner (x : SliceSt) (k : Nat) (v : W32) : (x.setSkein k v).owner = x.owner := rfl
@[simp] theorem SliceSt.setSkein_shadow (x : SliceSt) (k : Nat) (v : W32) : (x.setSkein k v).shadow = x.shadow := rfl
@[simp] theorem SliceSt.setSkein_engines (x : SliceSt) (k : Nat) (v : W32) : (x.setSkein k v).engines = x.engines := rfl
@[simp] theorem SliceSt.setSkein_bxWait (x : SliceSt) (k : Nat) (v : W32) : (x.setSkein k v).bxWait = x.bxWait := rfl
@[simp] theorem SliceSt.setSkein_waitStart (x : SliceSt) (k : Nat) (v : W32) : (x.setSkein k v).waitStart = x.waitStart := rfl
@[simp] theorem SliceSt.setSkein_waitUs (x : SliceSt) (k : Nat) (v : W32) : (x.setSkein k v).waitUs = x.waitUs := rfl
@[simp] theorem SliceSt.setSkein_layer (x : SliceSt) (k : Nat) (v : W32) : (x.setSkein k v).layer = x.layer := rfl
@[simp] theorem SliceSt.setSkein_work (x : SliceSt) (k : Nat) (v : W32) : (x.setSkein k v).work = x.work := rfl
@[simp] theorem SliceSt.setSkein_stopReq (x : SliceSt) (k : Nat) (v : W32) : (x.setSkein k v).stopReq = x.stopReq := rfl
@[simp] theorem SliceSt.setSkein_fetchNext (x : SliceSt) (k : Nat) (v : W32) : (x.setSkein k v).fetchNext = x.fetchNext := rfl
@[simp] theorem SliceSt.setSkein_icache (x : SliceSt) (k : Nat) (v : W32) : (x.setSkein k v).icache = x.icache := rfl
@[simp] theorem SliceSt.setSkein_pinned (x : SliceSt) (k : Nat) (v : W32) : (x.setSkein k v).pinned = x.pinned := rfl
@[simp] theorem SliceSt.setSkein_pinTrunc (x : SliceSt) (k : Nat) (v : W32) : (x.setSkein k v).pinTrunc = x.pinTrunc := rfl
@[simp] theorem SliceSt.setSkein_pinnedLines (x : SliceSt) (k : Nat) (v : W32) : (x.setSkein k v).pinnedLines = x.pinnedLines := rfl
@[simp] theorem SliceSt.setSkein_perf (x : SliceSt) (k : Nat) (v : W32) : (x.setSkein k v).perf = x.perf := rfl
@[simp] theorem SliceSt.setSkein_perfSat (x : SliceSt) (k : Nat) (v : W32) : (x.setSkein k v).perfSat = x.perfSat := rfl
@[simp] theorem SliceSt.setSkein_perfEnable (x : SliceSt) (k : Nat) (v : W32) : (x.setSkein k v).perfEnable = x.perfEnable := rfl
@[simp] theorem SliceSt.setSkein_halted (x : SliceSt) (k : Nat) (v : W32) : (x.setSkein k v).halted = x.halted := rfl
@[simp] theorem SliceSt.setSkein_stepping (x : SliceSt) (k : Nat) (v : W32) : (x.setSkein k v).stepping = x.stepping := rfl
@[simp] theorem SliceSt.setSkein_breaks (x : SliceSt) (k : Nat) (v : W32) : (x.setSkein k v).breaks = x.breaks := rfl

/-! ### SliceSt.setSem -/

@[simp] theorem SliceSt.setSem_scratch (x : SliceSt) (k n : Nat) : (x.setSem k n).scratch = x.scratch := rfl
@[simp] theorem SliceSt.setSem_tiles (x : SliceSt) (k n : Nat) : (x.setSem k n).tiles = x.tiles := rfl
@[simp] theorem SliceSt.setSem_accs (x : SliceSt) (k n : Nat) : (x.setSem k n).accs = x.accs := rfl
@[simp] theorem SliceSt.setSem_skein (x : SliceSt) (k n : Nat) : (x.setSem k n).skein = x.skein := rfl
@[simp] theorem SliceSt.setSem_ars (x : SliceSt) (k n : Nat) : (x.setSem k n).ars = x.ars := rfl
@[simp] theorem SliceSt.setSem_summary (x : SliceSt) (k n : Nat) : (x.setSem k n).summary = x.summary := rfl
@[simp] theorem SliceSt.setSem_sumQ (x : SliceSt) (k n : Nat) : (x.setSem k n).sumQ = x.sumQ := rfl
@[simp] theorem SliceSt.setSem_qHead (x : SliceSt) (k n : Nat) : (x.setSem k n).qHead = x.qHead := rfl
@[simp] theorem SliceSt.setSem_qTail (x : SliceSt) (k n : Nat) : (x.setSem k n).qTail = x.qTail := rfl
@[simp] theorem SliceSt.setSem_consts (x : SliceSt) (k n : Nat) : (x.setSem k n).consts = x.consts := rfl
@[simp] theorem SliceSt.setSem_reds (x : SliceSt) (k n : Nat) : (x.setSem k n).reds = x.reds := rfl
@[simp] theorem SliceSt.setSem_mail (x : SliceSt) (k n : Nat) : (x.setSem k n).mail = x.mail := rfl
@[simp] theorem SliceSt.setSem_owner (x : SliceSt) (k n : Nat) : (x.setSem k n).owner = x.owner := rfl
@[simp] theorem SliceSt.setSem_shadow (x : SliceSt) (k n : Nat) : (x.setSem k n).shadow = x.shadow := rfl
@[simp] theorem SliceSt.setSem_engines (x : SliceSt) (k n : Nat) : (x.setSem k n).engines = x.engines := rfl
@[simp] theorem SliceSt.setSem_bxWait (x : SliceSt) (k n : Nat) : (x.setSem k n).bxWait = x.bxWait := rfl
@[simp] theorem SliceSt.setSem_waitStart (x : SliceSt) (k n : Nat) : (x.setSem k n).waitStart = x.waitStart := rfl
@[simp] theorem SliceSt.setSem_waitUs (x : SliceSt) (k n : Nat) : (x.setSem k n).waitUs = x.waitUs := rfl
@[simp] theorem SliceSt.setSem_layer (x : SliceSt) (k n : Nat) : (x.setSem k n).layer = x.layer := rfl
@[simp] theorem SliceSt.setSem_work (x : SliceSt) (k n : Nat) : (x.setSem k n).work = x.work := rfl
@[simp] theorem SliceSt.setSem_stopReq (x : SliceSt) (k n : Nat) : (x.setSem k n).stopReq = x.stopReq := rfl
@[simp] theorem SliceSt.setSem_fetchNext (x : SliceSt) (k n : Nat) : (x.setSem k n).fetchNext = x.fetchNext := rfl
@[simp] theorem SliceSt.setSem_icache (x : SliceSt) (k n : Nat) : (x.setSem k n).icache = x.icache := rfl
@[simp] theorem SliceSt.setSem_pinned (x : SliceSt) (k n : Nat) : (x.setSem k n).pinned = x.pinned := rfl
@[simp] theorem SliceSt.setSem_pinTrunc (x : SliceSt) (k n : Nat) : (x.setSem k n).pinTrunc = x.pinTrunc := rfl
@[simp] theorem SliceSt.setSem_pinnedLines (x : SliceSt) (k n : Nat) : (x.setSem k n).pinnedLines = x.pinnedLines := rfl
@[simp] theorem SliceSt.setSem_perf (x : SliceSt) (k n : Nat) : (x.setSem k n).perf = x.perf := rfl
@[simp] theorem SliceSt.setSem_perfSat (x : SliceSt) (k n : Nat) : (x.setSem k n).perfSat = x.perfSat := rfl
@[simp] theorem SliceSt.setSem_perfEnable (x : SliceSt) (k n : Nat) : (x.setSem k n).perfEnable = x.perfEnable := rfl
@[simp] theorem SliceSt.setSem_halted (x : SliceSt) (k n : Nat) : (x.setSem k n).halted = x.halted := rfl
@[simp] theorem SliceSt.setSem_stepping (x : SliceSt) (k n : Nat) : (x.setSem k n).stepping = x.stepping := rfl
@[simp] theorem SliceSt.setSem_breaks (x : SliceSt) (k n : Nat) : (x.setSem k n).breaks = x.breaks := rfl

/-! ### SliceSt.setAcc -/

@[simp] theorem SliceSt.setAcc_scratch (x : SliceSt) (k : Nat) (a : Acc) : (x.setAcc k a).scratch = x.scratch := rfl
@[simp] theorem SliceSt.setAcc_tiles (x : SliceSt) (k : Nat) (a : Acc) : (x.setAcc k a).tiles = x.tiles := rfl
@[simp] theorem SliceSt.setAcc_skein (x : SliceSt) (k : Nat) (a : Acc) : (x.setAcc k a).skein = x.skein := rfl
@[simp] theorem SliceSt.setAcc_sems (x : SliceSt) (k : Nat) (a : Acc) : (x.setAcc k a).sems = x.sems := rfl
@[simp] theorem SliceSt.setAcc_ars (x : SliceSt) (k : Nat) (a : Acc) : (x.setAcc k a).ars = x.ars := rfl
@[simp] theorem SliceSt.setAcc_summary (x : SliceSt) (k : Nat) (a : Acc) : (x.setAcc k a).summary = x.summary := rfl
@[simp] theorem SliceSt.setAcc_sumQ (x : SliceSt) (k : Nat) (a : Acc) : (x.setAcc k a).sumQ = x.sumQ := rfl
@[simp] theorem SliceSt.setAcc_qHead (x : SliceSt) (k : Nat) (a : Acc) : (x.setAcc k a).qHead = x.qHead := rfl
@[simp] theorem SliceSt.setAcc_qTail (x : SliceSt) (k : Nat) (a : Acc) : (x.setAcc k a).qTail = x.qTail := rfl
@[simp] theorem SliceSt.setAcc_consts (x : SliceSt) (k : Nat) (a : Acc) : (x.setAcc k a).consts = x.consts := rfl
@[simp] theorem SliceSt.setAcc_reds (x : SliceSt) (k : Nat) (a : Acc) : (x.setAcc k a).reds = x.reds := rfl
@[simp] theorem SliceSt.setAcc_mail (x : SliceSt) (k : Nat) (a : Acc) : (x.setAcc k a).mail = x.mail := rfl
@[simp] theorem SliceSt.setAcc_owner (x : SliceSt) (k : Nat) (a : Acc) : (x.setAcc k a).owner = x.owner := rfl
@[simp] theorem SliceSt.setAcc_shadow (x : SliceSt) (k : Nat) (a : Acc) : (x.setAcc k a).shadow = x.shadow := rfl
@[simp] theorem SliceSt.setAcc_engines (x : SliceSt) (k : Nat) (a : Acc) : (x.setAcc k a).engines = x.engines := rfl
@[simp] theorem SliceSt.setAcc_bxWait (x : SliceSt) (k : Nat) (a : Acc) : (x.setAcc k a).bxWait = x.bxWait := rfl
@[simp] theorem SliceSt.setAcc_waitStart (x : SliceSt) (k : Nat) (a : Acc) : (x.setAcc k a).waitStart = x.waitStart := rfl
@[simp] theorem SliceSt.setAcc_waitUs (x : SliceSt) (k : Nat) (a : Acc) : (x.setAcc k a).waitUs = x.waitUs := rfl
@[simp] theorem SliceSt.setAcc_layer (x : SliceSt) (k : Nat) (a : Acc) : (x.setAcc k a).layer = x.layer := rfl
@[simp] theorem SliceSt.setAcc_work (x : SliceSt) (k : Nat) (a : Acc) : (x.setAcc k a).work = x.work := rfl
@[simp] theorem SliceSt.setAcc_stopReq (x : SliceSt) (k : Nat) (a : Acc) : (x.setAcc k a).stopReq = x.stopReq := rfl
@[simp] theorem SliceSt.setAcc_fetchNext (x : SliceSt) (k : Nat) (a : Acc) : (x.setAcc k a).fetchNext = x.fetchNext := rfl
@[simp] theorem SliceSt.setAcc_icache (x : SliceSt) (k : Nat) (a : Acc) : (x.setAcc k a).icache = x.icache := rfl
@[simp] theorem SliceSt.setAcc_pinned (x : SliceSt) (k : Nat) (a : Acc) : (x.setAcc k a).pinned = x.pinned := rfl
@[simp] theorem SliceSt.setAcc_pinTrunc (x : SliceSt) (k : Nat) (a : Acc) : (x.setAcc k a).pinTrunc = x.pinTrunc := rfl
@[simp] theorem SliceSt.setAcc_pinnedLines (x : SliceSt) (k : Nat) (a : Acc) : (x.setAcc k a).pinnedLines = x.pinnedLines := rfl
@[simp] theorem SliceSt.setAcc_perf (x : SliceSt) (k : Nat) (a : Acc) : (x.setAcc k a).perf = x.perf := rfl
@[simp] theorem SliceSt.setAcc_perfSat (x : SliceSt) (k : Nat) (a : Acc) : (x.setAcc k a).perfSat = x.perfSat := rfl
@[simp] theorem SliceSt.setAcc_perfEnable (x : SliceSt) (k : Nat) (a : Acc) : (x.setAcc k a).perfEnable = x.perfEnable := rfl
@[simp] theorem SliceSt.setAcc_halted (x : SliceSt) (k : Nat) (a : Acc) : (x.setAcc k a).halted = x.halted := rfl
@[simp] theorem SliceSt.setAcc_stepping (x : SliceSt) (k : Nat) (a : Acc) : (x.setAcc k a).stepping = x.stepping := rfl
@[simp] theorem SliceSt.setAcc_breaks (x : SliceSt) (k : Nat) (a : Acc) : (x.setAcc k a).breaks = x.breaks := rfl

/-! ### SliceSt.perfClear -/

@[simp] theorem SliceSt.perfClear_scratch (x : SliceSt)  : (x.perfClear).scratch = x.scratch := rfl
@[simp] theorem SliceSt.perfClear_tiles (x : SliceSt)  : (x.perfClear).tiles = x.tiles := rfl
@[simp] theorem SliceSt.perfClear_accs (x : SliceSt)  : (x.perfClear).accs = x.accs := rfl
@[simp] theorem SliceSt.perfClear_skein (x : SliceSt)  : (x.perfClear).skein = x.skein := rfl
@[simp] theorem SliceSt.perfClear_sems (x : SliceSt)  : (x.perfClear).sems = x.sems := rfl
@[simp] theorem SliceSt.perfClear_ars (x : SliceSt)  : (x.perfClear).ars = x.ars := rfl
@[simp] theorem SliceSt.perfClear_summary (x : SliceSt)  : (x.perfClear).summary = x.summary := rfl
@[simp] theorem SliceSt.perfClear_sumQ (x : SliceSt)  : (x.perfClear).sumQ = x.sumQ := rfl
@[simp] theorem SliceSt.perfClear_qHead (x : SliceSt)  : (x.perfClear).qHead = x.qHead := rfl
@[simp] theorem SliceSt.perfClear_qTail (x : SliceSt)  : (x.perfClear).qTail = x.qTail := rfl
@[simp] theorem SliceSt.perfClear_consts (x : SliceSt)  : (x.perfClear).consts = x.consts := rfl
@[simp] theorem SliceSt.perfClear_reds (x : SliceSt)  : (x.perfClear).reds = x.reds := rfl
@[simp] theorem SliceSt.perfClear_mail (x : SliceSt)  : (x.perfClear).mail = x.mail := rfl
@[simp] theorem SliceSt.perfClear_owner (x : SliceSt)  : (x.perfClear).owner = x.owner := rfl
@[simp] theorem SliceSt.perfClear_shadow (x : SliceSt)  : (x.perfClear).shadow = x.shadow := rfl
@[simp] theorem SliceSt.perfClear_engines (x : SliceSt)  : (x.perfClear).engines = x.engines := rfl
@[simp] theorem SliceSt.perfClear_bxWait (x : SliceSt)  : (x.perfClear).bxWait = x.bxWait := rfl
@[simp] theorem SliceSt.perfClear_waitStart (x : SliceSt)  : (x.perfClear).waitStart = x.waitStart := rfl
@[simp] theorem SliceSt.perfClear_waitUs (x : SliceSt)  : (x.perfClear).waitUs = x.waitUs := rfl
@[simp] theorem SliceSt.perfClear_layer (x : SliceSt)  : (x.perfClear).layer = x.layer := rfl
@[simp] theorem SliceSt.perfClear_work (x : SliceSt)  : (x.perfClear).work = x.work := rfl
@[simp] theorem SliceSt.perfClear_stopReq (x : SliceSt)  : (x.perfClear).stopReq = x.stopReq := rfl
@[simp] theorem SliceSt.perfClear_fetchNext (x : SliceSt)  : (x.perfClear).fetchNext = x.fetchNext := rfl
@[simp] theorem SliceSt.perfClear_icache (x : SliceSt)  : (x.perfClear).icache = x.icache := rfl
@[simp] theorem SliceSt.perfClear_pinned (x : SliceSt)  : (x.perfClear).pinned = x.pinned := rfl
@[simp] theorem SliceSt.perfClear_pinTrunc (x : SliceSt)  : (x.perfClear).pinTrunc = x.pinTrunc := rfl
@[simp] theorem SliceSt.perfClear_pinnedLines (x : SliceSt)  : (x.perfClear).pinnedLines = x.pinnedLines := rfl
@[simp] theorem SliceSt.perfClear_perfEnable (x : SliceSt)  : (x.perfClear).perfEnable = x.perfEnable := rfl
@[simp] theorem SliceSt.perfClear_halted (x : SliceSt)  : (x.perfClear).halted = x.halted := rfl
@[simp] theorem SliceSt.perfClear_stepping (x : SliceSt)  : (x.perfClear).stepping = x.stepping := rfl
@[simp] theorem SliceSt.perfClear_breaks (x : SliceSt)  : (x.perfClear).breaks = x.breaks := rfl

/-! ### SliceSt.setAr -/

@[simp] theorem SliceSt.setAr_scratch (x : SliceSt) (n : AReg) (v : W32) : (x.setAr n v).scratch = x.scratch := by unfold SliceSt.setAr; split <;> rfl
@[simp] theorem SliceSt.setAr_tiles (x : SliceSt) (n : AReg) (v : W32) : (x.setAr n v).tiles = x.tiles := by unfold SliceSt.setAr; split <;> rfl
@[simp] theorem SliceSt.setAr_accs (x : SliceSt) (n : AReg) (v : W32) : (x.setAr n v).accs = x.accs := by unfold SliceSt.setAr; split <;> rfl
@[simp] theorem SliceSt.setAr_skein (x : SliceSt) (n : AReg) (v : W32) : (x.setAr n v).skein = x.skein := by unfold SliceSt.setAr; split <;> rfl
@[simp] theorem SliceSt.setAr_sems (x : SliceSt) (n : AReg) (v : W32) : (x.setAr n v).sems = x.sems := by unfold SliceSt.setAr; split <;> rfl
@[simp] theorem SliceSt.setAr_summary (x : SliceSt) (n : AReg) (v : W32) : (x.setAr n v).summary = x.summary := by unfold SliceSt.setAr; split <;> rfl
@[simp] theorem SliceSt.setAr_sumQ (x : SliceSt) (n : AReg) (v : W32) : (x.setAr n v).sumQ = x.sumQ := by unfold SliceSt.setAr; split <;> rfl
@[simp] theorem SliceSt.setAr_qHead (x : SliceSt) (n : AReg) (v : W32) : (x.setAr n v).qHead = x.qHead := by unfold SliceSt.setAr; split <;> rfl
@[simp] theorem SliceSt.setAr_qTail (x : SliceSt) (n : AReg) (v : W32) : (x.setAr n v).qTail = x.qTail := by unfold SliceSt.setAr; split <;> rfl
@[simp] theorem SliceSt.setAr_consts (x : SliceSt) (n : AReg) (v : W32) : (x.setAr n v).consts = x.consts := by unfold SliceSt.setAr; split <;> rfl
@[simp] theorem SliceSt.setAr_reds (x : SliceSt) (n : AReg) (v : W32) : (x.setAr n v).reds = x.reds := by unfold SliceSt.setAr; split <;> rfl
@[simp] theorem SliceSt.setAr_mail (x : SliceSt) (n : AReg) (v : W32) : (x.setAr n v).mail = x.mail := by unfold SliceSt.setAr; split <;> rfl
@[simp] theorem SliceSt.setAr_owner (x : SliceSt) (n : AReg) (v : W32) : (x.setAr n v).owner = x.owner := by unfold SliceSt.setAr; split <;> rfl
@[simp] theorem SliceSt.setAr_shadow (x : SliceSt) (n : AReg) (v : W32) : (x.setAr n v).shadow = x.shadow := by unfold SliceSt.setAr; split <;> rfl
@[simp] theorem SliceSt.setAr_engines (x : SliceSt) (n : AReg) (v : W32) : (x.setAr n v).engines = x.engines := by unfold SliceSt.setAr; split <;> rfl
@[simp] theorem SliceSt.setAr_bxWait (x : SliceSt) (n : AReg) (v : W32) : (x.setAr n v).bxWait = x.bxWait := by unfold SliceSt.setAr; split <;> rfl
@[simp] theorem SliceSt.setAr_waitStart (x : SliceSt) (n : AReg) (v : W32) : (x.setAr n v).waitStart = x.waitStart := by unfold SliceSt.setAr; split <;> rfl
@[simp] theorem SliceSt.setAr_waitUs (x : SliceSt) (n : AReg) (v : W32) : (x.setAr n v).waitUs = x.waitUs := by unfold SliceSt.setAr; split <;> rfl
@[simp] theorem SliceSt.setAr_layer (x : SliceSt) (n : AReg) (v : W32) : (x.setAr n v).layer = x.layer := by unfold SliceSt.setAr; split <;> rfl
@[simp] theorem SliceSt.setAr_work (x : SliceSt) (n : AReg) (v : W32) : (x.setAr n v).work = x.work := by unfold SliceSt.setAr; split <;> rfl
@[simp] theorem SliceSt.setAr_stopReq (x : SliceSt) (n : AReg) (v : W32) : (x.setAr n v).stopReq = x.stopReq := by unfold SliceSt.setAr; split <;> rfl
@[simp] theorem SliceSt.setAr_fetchNext (x : SliceSt) (n : AReg) (v : W32) : (x.setAr n v).fetchNext = x.fetchNext := by unfold SliceSt.setAr; split <;> rfl
@[simp] theorem SliceSt.setAr_icache (x : SliceSt) (n : AReg) (v : W32) : (x.setAr n v).icache = x.icache := by unfold SliceSt.setAr; split <;> rfl
@[simp] theorem SliceSt.setAr_pinned (x : SliceSt) (n : AReg) (v : W32) : (x.setAr n v).pinned = x.pinned := by unfold SliceSt.setAr; split <;> rfl
@[simp] theorem SliceSt.setAr_pinTrunc (x : SliceSt) (n : AReg) (v : W32) : (x.setAr n v).pinTrunc = x.pinTrunc := by unfold SliceSt.setAr; split <;> rfl
@[simp] theorem SliceSt.setAr_pinnedLines (x : SliceSt) (n : AReg) (v : W32) : (x.setAr n v).pinnedLines = x.pinnedLines := by unfold SliceSt.setAr; split <;> rfl
@[simp] theorem SliceSt.setAr_perf (x : SliceSt) (n : AReg) (v : W32) : (x.setAr n v).perf = x.perf := by unfold SliceSt.setAr; split <;> rfl
@[simp] theorem SliceSt.setAr_perfSat (x : SliceSt) (n : AReg) (v : W32) : (x.setAr n v).perfSat = x.perfSat := by unfold SliceSt.setAr; split <;> rfl
@[simp] theorem SliceSt.setAr_perfEnable (x : SliceSt) (n : AReg) (v : W32) : (x.setAr n v).perfEnable = x.perfEnable := by unfold SliceSt.setAr; split <;> rfl
@[simp] theorem SliceSt.setAr_halted (x : SliceSt) (n : AReg) (v : W32) : (x.setAr n v).halted = x.halted := by unfold SliceSt.setAr; split <;> rfl
@[simp] theorem SliceSt.setAr_stepping (x : SliceSt) (n : AReg) (v : W32) : (x.setAr n v).stepping = x.stepping := by unfold SliceSt.setAr; split <;> rfl
@[simp] theorem SliceSt.setAr_breaks (x : SliceSt) (n : AReg) (v : W32) : (x.setAr n v).breaks = x.breaks := by unfold SliceSt.setAr; split <;> rfl

/-! ### Channel.modBank -/

@[simp] theorem Channel.modBank_darn (ch : Channel) (b : Nat) (f : BankSt → BankSt) : (ch.modBank b f).darn = ch.darn := rfl
@[simp] theorem Channel.modBank_spares (ch : Channel) (b : Nat) (f : BankSt → BankSt) : (ch.modBank b f).spares = ch.spares := rfl
@[simp] theorem Channel.modBank_rowMap (ch : Channel) (b : Nat) (f : BankSt → BankSt) : (ch.modBank b f).rowMap = ch.rowMap := rfl
@[simp] theorem Channel.modBank_spareRows (ch : Channel) (b : Nat) (f : BankSt → BankSt) : (ch.modBank b f).spareRows = ch.spareRows := rfl
@[simp] theorem Channel.modBank_trainRows (ch : Channel) (b : Nat) (f : BankSt → BankSt) : (ch.modBank b f).trainRows = ch.trainRows := rfl
@[simp] theorem Channel.modBank_offline (ch : Channel) (b : Nat) (f : BankSt → BankSt) : (ch.modBank b f).offline = ch.offline := rfl
@[simp] theorem Channel.modBank_mem (ch : Channel) (b : Nat) (f : BankSt → BankSt) : (ch.modBank b f).mem = ch.mem := rfl
@[simp] theorem Channel.modBank_acts (ch : Channel) (b : Nat) (f : BankSt → BankSt) : (ch.modBank b f).acts = ch.acts := rfl
@[simp] theorem Channel.modBank_train (ch : Channel) (b : Nat) (f : BankSt → BankSt) : (ch.modBank b f).train = ch.train := rfl
@[simp] theorem Channel.modBank_policy (ch : Channel) (b : Nat) (f : BankSt → BankSt) : (ch.modBank b f).policy = ch.policy := rfl
@[simp] theorem Channel.modBank_cmdBuf (ch : Channel) (b : Nat) (f : BankSt → BankSt) : (ch.modBank b f).cmdBuf = ch.cmdBuf := rfl
@[simp] theorem Channel.modBank_code (ch : Channel) (b : Nat) (f : BankSt → BankSt) : (ch.modBank b f).code = ch.code := rfl
@[simp] theorem Channel.modBank_codeBusy (ch : Channel) (b : Nat) (f : BankSt → BankSt) : (ch.modBank b f).codeBusy = ch.codeBusy := rfl
@[simp] theorem Channel.modBank_codeLast (ch : Channel) (b : Nat) (f : BankSt → BankSt) : (ch.modBank b f).codeLast = ch.codeLast := rfl
@[simp] theorem Channel.modBank_fabLength (ch : Channel) (b : Nat) (f : BankSt → BankSt) : (ch.modBank b f).fabLength = ch.fabLength := rfl
@[simp] theorem Channel.modBank_fabSlots (ch : Channel) (b : Nat) (f : BankSt → BankSt) : (ch.modBank b f).fabSlots = ch.fabSlots := rfl
@[simp] theorem Channel.modBank_sync (ch : Channel) (b : Nat) (f : BankSt → BankSt) : (ch.modBank b f).sync = ch.sync := rfl
@[simp] theorem Channel.modBank_descheduleUs (ch : Channel) (b : Nat) (f : BankSt → BankSt) : (ch.modBank b f).descheduleUs = ch.descheduleUs := rfl
@[simp] theorem Channel.modBank_lendUs (ch : Channel) (b : Nat) (f : BankSt → BankSt) : (ch.modBank b f).lendUs = ch.lendUs := rfl
@[simp] theorem Channel.modBank_msgStale (ch : Channel) (b : Nat) (f : BankSt → BankSt) : (ch.modBank b f).msgStale = ch.msgStale := rfl
@[simp] theorem Channel.modBank_msgFull (ch : Channel) (b : Nat) (f : BankSt → BankSt) : (ch.modBank b f).msgFull = ch.msgFull := rfl
@[simp] theorem Channel.modBank_syncFaults (ch : Channel) (b : Nat) (f : BankSt → BankSt) : (ch.modBank b f).syncFaults = ch.syncFaults := rfl
@[simp] theorem Channel.modBank_descheds (ch : Channel) (b : Nat) (f : BankSt → BankSt) : (ch.modBank b f).descheds = ch.descheds := rfl
@[simp] theorem Channel.modBank_watches (ch : Channel) (b : Nat) (f : BankSt → BankSt) : (ch.modBank b f).watches = ch.watches := rfl
@[simp] theorem Channel.modBank_combiners (ch : Channel) (b : Nat) (f : BankSt → BankSt) : (ch.modBank b f).combiners = ch.combiners := rfl
@[simp] theorem Channel.modBank_held (ch : Channel) (b : Nat) (f : BankSt → BankSt) : (ch.modBank b f).held = ch.held := rfl
@[simp] theorem Channel.modBank_strictCause (ch : Channel) (b : Nat) (f : BankSt → BankSt) : (ch.modBank b f).strictCause = ch.strictCause := rfl
@[simp] theorem Channel.modBank_strictTag (ch : Channel) (b : Nat) (f : BankSt → BankSt) : (ch.modBank b f).strictTag = ch.strictTag := rfl
@[simp] theorem Channel.modBank_chk (ch : Channel) (b : Nat) (f : BankSt → BankSt) : (ch.modBank b f).chk = ch.chk := rfl
@[simp] theorem Channel.modBank_wlog (ch : Channel) (b : Nat) (f : BankSt → BankSt) : (ch.modBank b f).wlog = ch.wlog := rfl
@[simp] theorem Channel.modBank_pwr (ch : Channel) (b : Nat) (f : BankSt → BankSt) : (ch.modBank b f).pwr = ch.pwr := rfl
@[simp] theorem Channel.modBank_thr (ch : Channel) (b : Nat) (f : BankSt → BankSt) : (ch.modBank b f).thr = ch.thr := rfl
@[simp] theorem Channel.modBank_ctxs (ch : Channel) (b : Nat) (f : BankSt → BankSt) : (ch.modBank b f).ctxs = ch.ctxs := rfl
@[simp] theorem Channel.modBank_awake (ch : Channel) (b : Nat) (f : BankSt → BankSt) : (ch.modBank b f).awake = ch.awake := rfl

/-! ### Channel.modCtx -/

@[simp] theorem Channel.modCtx_darn (ch : Channel) (r : Nat) (f : Ctx → Ctx) : (ch.modCtx r f).darn = ch.darn := rfl
@[simp] theorem Channel.modCtx_spares (ch : Channel) (r : Nat) (f : Ctx → Ctx) : (ch.modCtx r f).spares = ch.spares := rfl
@[simp] theorem Channel.modCtx_rowMap (ch : Channel) (r : Nat) (f : Ctx → Ctx) : (ch.modCtx r f).rowMap = ch.rowMap := rfl
@[simp] theorem Channel.modCtx_spareRows (ch : Channel) (r : Nat) (f : Ctx → Ctx) : (ch.modCtx r f).spareRows = ch.spareRows := rfl
@[simp] theorem Channel.modCtx_trainRows (ch : Channel) (r : Nat) (f : Ctx → Ctx) : (ch.modCtx r f).trainRows = ch.trainRows := rfl
@[simp] theorem Channel.modCtx_offline (ch : Channel) (r : Nat) (f : Ctx → Ctx) : (ch.modCtx r f).offline = ch.offline := rfl
@[simp] theorem Channel.modCtx_mem (ch : Channel) (r : Nat) (f : Ctx → Ctx) : (ch.modCtx r f).mem = ch.mem := rfl
@[simp] theorem Channel.modCtx_acts (ch : Channel) (r : Nat) (f : Ctx → Ctx) : (ch.modCtx r f).acts = ch.acts := rfl
@[simp] theorem Channel.modCtx_train (ch : Channel) (r : Nat) (f : Ctx → Ctx) : (ch.modCtx r f).train = ch.train := rfl
@[simp] theorem Channel.modCtx_policy (ch : Channel) (r : Nat) (f : Ctx → Ctx) : (ch.modCtx r f).policy = ch.policy := rfl
@[simp] theorem Channel.modCtx_banks (ch : Channel) (r : Nat) (f : Ctx → Ctx) : (ch.modCtx r f).banks = ch.banks := rfl
@[simp] theorem Channel.modCtx_cmdBuf (ch : Channel) (r : Nat) (f : Ctx → Ctx) : (ch.modCtx r f).cmdBuf = ch.cmdBuf := rfl
@[simp] theorem Channel.modCtx_code (ch : Channel) (r : Nat) (f : Ctx → Ctx) : (ch.modCtx r f).code = ch.code := rfl
@[simp] theorem Channel.modCtx_codeBusy (ch : Channel) (r : Nat) (f : Ctx → Ctx) : (ch.modCtx r f).codeBusy = ch.codeBusy := rfl
@[simp] theorem Channel.modCtx_codeLast (ch : Channel) (r : Nat) (f : Ctx → Ctx) : (ch.modCtx r f).codeLast = ch.codeLast := rfl
@[simp] theorem Channel.modCtx_fabLength (ch : Channel) (r : Nat) (f : Ctx → Ctx) : (ch.modCtx r f).fabLength = ch.fabLength := rfl
@[simp] theorem Channel.modCtx_fabSlots (ch : Channel) (r : Nat) (f : Ctx → Ctx) : (ch.modCtx r f).fabSlots = ch.fabSlots := rfl
@[simp] theorem Channel.modCtx_sync (ch : Channel) (r : Nat) (f : Ctx → Ctx) : (ch.modCtx r f).sync = ch.sync := rfl
@[simp] theorem Channel.modCtx_descheduleUs (ch : Channel) (r : Nat) (f : Ctx → Ctx) : (ch.modCtx r f).descheduleUs = ch.descheduleUs := rfl
@[simp] theorem Channel.modCtx_lendUs (ch : Channel) (r : Nat) (f : Ctx → Ctx) : (ch.modCtx r f).lendUs = ch.lendUs := rfl
@[simp] theorem Channel.modCtx_msgStale (ch : Channel) (r : Nat) (f : Ctx → Ctx) : (ch.modCtx r f).msgStale = ch.msgStale := rfl
@[simp] theorem Channel.modCtx_msgFull (ch : Channel) (r : Nat) (f : Ctx → Ctx) : (ch.modCtx r f).msgFull = ch.msgFull := rfl
@[simp] theorem Channel.modCtx_syncFaults (ch : Channel) (r : Nat) (f : Ctx → Ctx) : (ch.modCtx r f).syncFaults = ch.syncFaults := rfl
@[simp] theorem Channel.modCtx_descheds (ch : Channel) (r : Nat) (f : Ctx → Ctx) : (ch.modCtx r f).descheds = ch.descheds := rfl
@[simp] theorem Channel.modCtx_watches (ch : Channel) (r : Nat) (f : Ctx → Ctx) : (ch.modCtx r f).watches = ch.watches := rfl
@[simp] theorem Channel.modCtx_combiners (ch : Channel) (r : Nat) (f : Ctx → Ctx) : (ch.modCtx r f).combiners = ch.combiners := rfl
@[simp] theorem Channel.modCtx_held (ch : Channel) (r : Nat) (f : Ctx → Ctx) : (ch.modCtx r f).held = ch.held := rfl
@[simp] theorem Channel.modCtx_strictCause (ch : Channel) (r : Nat) (f : Ctx → Ctx) : (ch.modCtx r f).strictCause = ch.strictCause := rfl
@[simp] theorem Channel.modCtx_strictTag (ch : Channel) (r : Nat) (f : Ctx → Ctx) : (ch.modCtx r f).strictTag = ch.strictTag := rfl
@[simp] theorem Channel.modCtx_chk (ch : Channel) (r : Nat) (f : Ctx → Ctx) : (ch.modCtx r f).chk = ch.chk := rfl
@[simp] theorem Channel.modCtx_wlog (ch : Channel) (r : Nat) (f : Ctx → Ctx) : (ch.modCtx r f).wlog = ch.wlog := rfl
@[simp] theorem Channel.modCtx_pwr (ch : Channel) (r : Nat) (f : Ctx → Ctx) : (ch.modCtx r f).pwr = ch.pwr := rfl
@[simp] theorem Channel.modCtx_thr (ch : Channel) (r : Nat) (f : Ctx → Ctx) : (ch.modCtx r f).thr = ch.thr := rfl
@[simp] theorem Channel.modCtx_awake (ch : Channel) (r : Nat) (f : Ctx → Ctx) : (ch.modCtx r f).awake = ch.awake := rfl

end Sys2Proof.Machine
end

