-- ==== Sys2Proof/Laws/Tables.lean ====
section
/-! SUPPORT. Sparse tables and byte memories: what is read after a write, and that writes keep the canonical form. -/

namespace Sys2Proof.Machine

/-! ## Tables -/

variable {α : Type}

@[simp] theorem tfind_nil (k : Nat) : tfind ([] : Table α) k = none := rfl

theorem tfind_tput_same (m : Table α) (k : Nat) (v : α) : tfind (tput m k v) k = some v := by
  induction m with
  | nil => simp [tput, tfind]
  | cons e m ih =>
    obtain ⟨i, w⟩ := e
    unfold tput
    split
    · simp [tfind]
    · split
      · simp [tfind]
      · simp [tfind, *]

theorem tfind_tput_other (m : Table α) (k j : Nat) (v : α) (h : j ≠ k) : tfind (tput m k v) j = tfind m j := by
  induction m with
  | nil =>
    simp only [tput, tfind]
    split <;> simp_all
  | cons e m ih =>
    obtain ⟨i, w⟩ := e
    unfold tput
    split
    · next hk =>
      simp only [tfind]
      split
      · next hj => rw [if_pos (by omega)]
      · next hj => simp
    · split
      · next hk he =>
        subst he
        simp only [tfind, if_neg h]
      · simp only [tfind, ih]

theorem tget_tput_same (m : Table α) (k : Nat) (v d : α) : tget (tput m k v) k d = v := by simp [tget, tfind_tput_same]

theorem tget_tput_other (m : Table α) (k j : Nat) (v d : α) (h : j ≠ k) : tget (tput m k v) j d = tget m j d := by
  simp [tget, tfind_tput_other m k j v h]

/-- What a table holds after one entry is set. -/
theorem tget_tput (m : Table α) (k j : Nat) (v d : α) : tget (tput m k v) j d = if j = k then v else tget m j d := by
  split
  · next h => rw [h, tget_tput_same]
  · next h => exact tget_tput_other m k j v d h

/-- What a table holds after one entry is changed. -/
theorem tget_tmod (m : Table α) (k j : Nat) (d : α) (f : α → α) : tget (tmod m k d f) j d = if j = k then f (tget m k d) else tget m j d := by
  rw [tmod, tget_tput]

theorem tfind_tmod (m : Table α) (k j : Nat) (d : α) (f : α → α) : tfind (tmod m k d f) j = if j = k then some (f (tget m k d)) else tfind m j := by
  rw [tmod]
  split
  · next h => rw [h, tfind_tput_same]
  · next h => exact tfind_tput_other m k j _ h

theorem tfind_tmap (m : Table α) (f : Nat → α → α) (k : Nat) : tfind (tmap m f) k = (tfind m k).map (f k) := by
  induction m with
  | nil => rfl
  | cons e m ih =>
    obtain ⟨i, w⟩ := e
    show tfind ((i, f i w) :: tmap m f) k = _
    simp only [tfind]
    split
    · rfl
    · split
      · next h => simp [h]
      · exact ih

/-! ## Rising tables -/

theorem rising_mono (m : Table α) (lo lo' : Nat) (h : lo' ≤ lo) (hm : risingFrom lo m = true) : risingFrom lo' m = true := by
  cases m with
  | nil => rfl
  | cons e m =>
    obtain ⟨i, w⟩ := e
    simp only [risingFrom, Bool.and_eq_true, decide_eq_true_eq] at hm ⊢
    exact ⟨by omega, hm.2⟩

theorem tfind_below (m : Table α) (lo k : Nat) (h : risingFrom lo m = true) (hk : k < lo) : tfind m k = none := by
  cases m with
  | nil => rfl
  | cons e m =>
    obtain ⟨i, w⟩ := e
    simp only [risingFrom, Bool.and_eq_true, decide_eq_true_eq] at h
    simp only [tfind]
    rw [if_pos (by omega)]

theorem rising_tput (m : Table α) (lo k : Nat) (v : α) (h : risingFrom lo m = true) (hk : lo ≤ k) : risingFrom lo (tput m k v) = true := by
  induction m generalizing lo with
  | nil => simp [tput, risingFrom, hk]
  | cons e m ih =>
    obtain ⟨i, w⟩ := e
    simp only [risingFrom, Bool.and_eq_true, decide_eq_true_eq] at h
    unfold tput
    split
    · next hi =>
      simp only [risingFrom, Bool.and_eq_true, decide_eq_true_eq]
      exact ⟨hk, by omega, h.2⟩
    · split
      · next he =>
        subst he
        simp only [risingFrom, Bool.and_eq_true, decide_eq_true_eq]
        exact ⟨hk, h.2⟩
      · simp only [risingFrom, Bool.and_eq_true, decide_eq_true_eq]
        exact ⟨h.1, ih (i + 1) h.2 (by omega)⟩

theorem rising_tmod (m : Table α) (lo k : Nat) (d : α) (f : α → α) (h : risingFrom lo m = true) (hk : lo ≤ k) :
    risingFrom lo (tmod m k d f) = true := rising_tput m lo k _ h hk

theorem rising_tdel (m : Table α) (lo k : Nat) (h : risingFrom lo m = true) : risingFrom lo (tdel m k) = true := by
  induction m generalizing lo with
  | nil => rfl
  | cons e m ih =>
    obtain ⟨i, w⟩ := e
    have h' := h
    simp only [risingFrom, Bool.and_eq_true, decide_eq_true_eq] at h
    unfold tdel
    split
    · exact h'
    · split
      · exact rising_mono m (i + 1) lo (by omega) h.2
      · simp only [risingFrom, Bool.and_eq_true, decide_eq_true_eq]
        exact ⟨h.1, ih (i + 1) h.2⟩

theorem rising_tmap (m : Table α) (lo : Nat) (f : Nat → α → α) (h : risingFrom lo m = true) : risingFrom lo (tmap m f) = true := by
  induction m generalizing lo with
  | nil => rfl
  | cons e m ih =>
    obtain ⟨i, w⟩ := e
    simp only [risingFrom, Bool.and_eq_true, decide_eq_true_eq] at h
    show risingFrom lo ((i, f i w) :: tmap m f) = true
    simp only [risingFrom, Bool.and_eq_true, decide_eq_true_eq]
    exact ⟨h.1, ih (i + 1) h.2⟩

theorem tfind_tdel_same (m : Table α) (lo k : Nat) (h : risingFrom lo m = true) : tfind (tdel m k) k = none := by
  induction m generalizing lo with
  | nil => rfl
  | cons e m ih =>
    obtain ⟨i, w⟩ := e
    simp only [risingFrom, Bool.and_eq_true, decide_eq_true_eq] at h
    unfold tdel
    split
    · simp only [tfind]; rw [if_pos (by assumption)]
    · split
      · next he => exact tfind_below m (i + 1) k h.2 (by omega)
      · next h1 h2 => simp only [tfind, if_neg h1, if_neg h2]; exact ih (i + 1) h.2

theorem tfind_tdel_other (m : Table α) (lo k j : Nat) (h : risingFrom lo m = true) (hj : j ≠ k) : tfind (tdel m k) j = tfind m j := by
  induction m generalizing lo with
  | nil => rfl
  | cons e m ih =>
    obtain ⟨i, w⟩ := e
    simp only [risingFrom, Bool.and_eq_true, decide_eq_true_eq] at h
    unfold tdel
    split
    · rfl
    · split
      · next he =>
        subst he
        simp only [tfind]
        split
        · next hl => exact tfind_below m (k + 1) j h.2 (by omega)
        · rfl
      · simp only [tfind, ih (i + 1) h.2]

/-! ## Byte memories -/

theorem wf_rising {m : Memory} (h : Memory.wf m = true) : risingFrom 0 m = true := by
  simp only [Memory.wf, Bool.and_eq_true] at h
  exact h.1

theorem mem_tput (m : Table α) (k : Nat) (v : α) (e : Nat × α) (h : e ∈ tput m k v) : e = (k, v) ∨ e ∈ m := by
  induction m with
  | nil => exact Or.inl (List.mem_singleton.mp h)
  | cons c m ih =>
    obtain ⟨i, w⟩ := c
    unfold tput at h
    split at h
    · rcases List.mem_cons.mp h with h | h
      · exact Or.inl h
      · exact Or.inr h
    · split at h
      · rcases List.mem_cons.mp h with h | h
        · exact Or.inl h
        · exact Or.inr (List.mem_cons_of_mem _ h)
      · rcases List.mem_cons.mp h with h | h
        · exact Or.inr (h ▸ List.mem_cons_self ..)
        · exact (ih h).imp_right (List.mem_cons_of_mem _)

theorem mem_tdel (m : Table α) (k : Nat) (e : Nat × α) (h : e ∈ tdel m k) : e ∈ m := by
  induction m with
  | nil => exact h
  | cons c m ih =>
    obtain ⟨i, w⟩ := c
    unfold tdel at h
    split at h
    · exact h
    · split at h
      · exact List.mem_cons_of_mem _ h
      · rcases List.mem_cons.mp h with h | h
        · exact h ▸ List.mem_cons_self ..
        · exact List.mem_cons_of_mem _ (ih h)

theorem all_tput (m : Memory) (k : Nat) (v : Byte) (h : m.all (fun e => decide (e.2 ≠ 0)) = true) (hv : v ≠ 0) :
    (tput m k v).all (fun e => decide (e.2 ≠ 0)) = true := by
  rw [List.all_eq_true] at h ⊢
  intro e he
  rcases mem_tput m k v e he with rfl | he
  · exact decide_eq_true hv
  · exact h e he

theorem all_tdel (m : Memory) (k : Nat) (h : m.all (fun e => decide (e.2 ≠ 0)) = true) : (tdel m k).all (fun e => decide (e.2 ≠ 0)) = true := by
  rw [List.all_eq_true] at h ⊢
  exact fun e he => h e (mem_tdel m k e he)

/-- Writing one byte keeps the canonical form. -/
theorem wf_wr (m : Memory) (a : Nat) (b : Byte) (h : Memory.wf m = true) : Memory.wf (wr m a b) = true := by
  simp only [Memory.wf, Bool.and_eq_true] at h ⊢
  unfold wr
  split
  · exact ⟨rising_tdel m 0 a h.1, all_tdel m a h.2⟩
  · next hb => exact ⟨rising_tput m 0 a b h.1 (Nat.zero_le a), all_tput m a b h.2 hb⟩

/-- Writing bytes keeps the canonical form. -/
theorem wf_wrL (bs : List Byte) (m : Memory) (a : Nat) (h : Memory.wf m = true) : Memory.wf (wrL m a bs) = true := by
  induction bs generalizing m a with
  | nil => exact h
  | cons b bs ih => exact ih (wr m a b) (a + 1) (wf_wr m a b h)

theorem wf_nil : Memory.wf [] = true := rfl

/-- A byte read after a byte written. -/
theorem rd_wr (m : Memory) (a j : Nat) (b : Byte) (h : risingFrom 0 m = true) : rd (wr m a b) j = if j = a then b else rd m j := by
  unfold wr rd
  by_cases hj : j = a
  · subst hj
    split
    · next hb => simp [tget, tfind_tdel_same m 0 j h, hb]
    · simp [tget_tput_same]
  · rw [if_neg hj]
    split
    · simp [tget, tfind_tdel_other m 0 a j h hj]
    · exact tget_tput_other m a j b 0 hj

theorem rising_wr (m : Memory) (a : Nat) (b : Byte) (h : risingFrom 0 m = true) : risingFrom 0 (wr m a b) = true := by
  unfold wr
  split
  · exact rising_tdel m 0 a h
  · exact rising_tput m 0 a b h (Nat.zero_le a)

theorem rising_wrL (bs : List Byte) (m : Memory) (a : Nat) (h : risingFrom 0 m = true) : risingFrom 0 (wrL m a bs) = true := by
  induction bs generalizing m a with
  | nil => exact h
  | cons b bs ih => exact ih (wr m a b) (a + 1) (rising_wr m a b h)

/-- A byte read after bytes written: the byte written there, or what stood there. -/
theorem rd_wrL (bs : List Byte) (m : Memory) (a j : Nat) (h : risingFrom 0 m = true) :
    rd (wrL m a bs) j = if a ≤ j ∧ j < a + bs.length then bs.getD (j - a) 0 else rd m j := by
  induction bs generalizing m a with
  | nil => simp [wrL]
  | cons b bs ih =>
    rw [wrL, ih (wr m a b) (a + 1) (rising_wr m a b h), rd_wr m a j b h]
    by_cases h1 : a + 1 ≤ j ∧ j < a + 1 + bs.length
    · rw [if_pos h1, if_pos (by simp only [List.length_cons]; omega), show j - a = (j - (a + 1)) + 1 by omega, List.getD_cons_succ]
    · rw [if_neg h1]
      by_cases h2 : j = a
      · subst h2
        simp
      · rw [if_neg h2, if_neg (by simp only [List.length_cons]; omega)]

/-- Bytes outside those written stand. -/
theorem rd_wrL_outside (bs : List Byte) (m : Memory) (a j : Nat) (h : risingFrom 0 m = true) (hj : j < a ∨ a + bs.length ≤ j) :
    rd (wrL m a bs) j = rd m j := by
  rw [rd_wrL bs m a j h, if_neg (by omega)]

/-! ## Lists of numbers and bytes -/

@[simp] theorem upFrom_length (a n : Nat) : (upFrom a n).length = n := by
  induction n generalizing a with
  | zero => rfl
  | succ n ih => simp [upFrom, ih]

theorem mem_upFrom (a n k : Nat) : k ∈ upFrom a n ↔ a ≤ k ∧ k < a + n := by
  induction n generalizing a with
  | zero => simp [upFrom]
  | succ n ih => simp only [upFrom, List.mem_cons, ih]; omega

theorem upFrom_getElem? (a n i : Nat) (h : i < n) : (upFrom a n)[i]? = some (a + i) := by
  induction n generalizing a i with
  | zero => omega
  | succ n ih =>
    cases i with
    | zero => simp [upFrom]
    | succ i =>
      simp only [upFrom, List.getElem?_cons_succ]
      rw [ih (a + 1) i (by omega)]
      congr 1
      omega

@[simp] theorem rdN_length (m : Memory) (a n : Nat) : (rdN m a n).length = n := by
  induction n generalizing a with
  | zero => rfl
  | succ n ih => simp [rdN, ih]

@[simp] theorem leBytes_length (n v : Nat) : (leBytes n v).length = n := by
  induction n generalizing v with
  | zero => rfl
  | succ n ih => simp [leBytes, ih]

@[simp] theorem slice_length (bs : List Byte) (a n : Nat) : (slice bs a n).length = n := by
  simp only [slice, List.length_append, List.length_take, List.length_drop, List.length_replicate]
  omega

/-- A number's bytes spell it. -/
theorem leNat_leBytes (n v : Nat) : leNat (leBytes n v) = v % 256 ^ n := by
  induction n generalizing v with
  | zero => simp [leBytes, leNat, Nat.mod_one]
  | succ n ih =>
    rw [leBytes, leNat, ih, BitVec.toNat_ofNat, show 256 ^ (n + 1) = 256 * 256 ^ n by rw [Nat.pow_succ, Nat.mul_comm], Nat.mod_mul]

theorem leNat_lt (bs : List Byte) : leNat bs < 256 ^ bs.length := by
  induction bs with
  | nil => simp [leNat]
  | cons b bs ih =>
    have hb := b.isLt
    rw [leNat, List.length_cons, Nat.pow_succ]
    omega

theorem rdN_getElem? (m : Memory) (a n i : Nat) (h : i < n) : (rdN m a n)[i]? = some (rd m (a + i)) := by
  induction n generalizing a i with
  | zero => omega
  | succ n ih =>
    cases i with
    | zero => simp [rdN]
    | succ i =>
      simp only [rdN, List.getElem?_cons_succ]
      rw [ih (a + 1) i (by omega)]
      congr 2
      omega

/-- Bytes read back as they were written. -/
theorem rdN_wrL_same (m : Memory) (a : Nat) (bs : List Byte) (h : risingFrom 0 m = true) : rdN (wrL m a bs) a bs.length = bs := by
  apply List.ext_getElem?
  intro i
  by_cases hi : i < bs.length
  · rw [rdN_getElem? _ _ _ _ hi, rd_wrL bs m a (a + i) h, if_pos (by omega), Nat.add_sub_cancel_left, List.getD_eq_getElem?_getD,
      List.getElem?_eq_getElem hi]
    rfl
  · rw [List.getElem?_eq_none (by simp; omega), List.getElem?_eq_none (by omega)]

end Sys2Proof.Machine
end

