-- ==== Sys2Proof/Laws/Ops.lean ====
section
/-! SUPPORT. The shared operations: for each, what it answers under which conditions, said once. -/

namespace Sys2Proof.Machine

/-! ## Parts of the state after their own update -/

theorem chan_modChan (s : State) (c k : Nat) (f : Channel → Channel) : (s.modChan c f).chan k = if k = c then f (s.chan c) else s.chan k :=
  tget_tmod s.chans c k .zero f

@[simp] theorem chan_modChan_same (s : State) (c : Nat) (f : Channel → Channel) : (s.modChan c f).chan c = f (s.chan c) := by
  rw [chan_modChan, if_pos rfl]

theorem chan_modChan_other (s : State) (c k : Nat) (f : Channel → Channel) (h : k ≠ c) : (s.modChan c f).chan k = s.chan k := by
  rw [chan_modChan, if_neg h]

theorem slice_modSlice (s : State) (sl k : SliceId) (f : SliceSt → SliceSt) : (s.modSlice sl f).slice k = if k = sl then f (s.slice sl) else s.slice k := by
  unfold State.slice State.modSlice
  rw [tget_tmod]
  by_cases h : k = sl
  · simp [h]
  · rw [if_neg h, if_neg (fun e => h (BitVec.eq_of_toNat_eq e))]

@[simp] theorem slice_modSlice_same (s : State) (sl : SliceId) (f : SliceSt → SliceSt) : (s.modSlice sl f).slice sl = f (s.slice sl) := by
  rw [slice_modSlice, if_pos rfl]

theorem slice_modSlice_other (s : State) (sl k : SliceId) (f : SliceSt → SliceSt) (h : k ≠ sl) : (s.modSlice sl f).slice k = s.slice k := by
  rw [slice_modSlice, if_neg h]

theorem slice_putSlice (s : State) (sl k : SliceId) (x : SliceSt) : (s.putSlice sl x).slice k = if k = sl then x else s.slice k := by
  unfold State.slice State.putSlice
  rw [tget_tput]
  by_cases h : k = sl
  · simp [h]
  · rw [if_neg h, if_neg (fun e => h (BitVec.eq_of_toNat_eq e))]

theorem group_modGroup (s : State) (g k : Nat) (f : LaneGroup → LaneGroup) : (s.modGroup g f).group k = if k = g then f (s.group g) else s.group k :=
  tget_tmod s.link.groups g k .zero f

theorem bank_modBank (ch : Channel) (b k : Nat) (f : BankSt → BankSt) : (ch.modBank b f).bank k = if k = b then f (ch.bank b) else ch.bank k :=
  tget_tmod ch.banks b k .zero f

theorem ctx_modCtx (ch : Channel) (r k : Nat) (f : Ctx → Ctx) : (ch.modCtx r f).ctx k = if k = r then f (ch.ctx r) else ch.ctx k :=
  tget_tmod ch.ctxs r k .zero f

theorem engIx_injective (e f : Engine) (h : engIx e = engIx f) : e = f := by cases e <;> cases f <;> simp_all [engIx]

theorem eng_modEng (x : SliceSt) (e k : Engine) (f : EngineSt → EngineSt) : (x.modEng e f).eng k = if k = e then f (x.eng e) else x.eng k := by
  unfold SliceSt.eng SliceSt.modEng
  rw [tget_tmod]
  by_cases h : k = e
  · simp [h]
  · rw [if_neg h, if_neg (fun q => h (engIx_injective k e q))]

@[simp] theorem eng_modEng_same (x : SliceSt) (e : Engine) (f : EngineSt → EngineSt) : (x.modEng e f).eng e = f (x.eng e) := by
  rw [eng_modEng, if_pos rfl]

theorem eng_modEng_other (x : SliceSt) (e k : Engine) (f : EngineSt → EngineSt) (h : k ≠ e) : (x.modEng e f).eng k = x.eng k := by
  rw [eng_modEng, if_neg h]

/-- An address register after a write; ar0 reads as zero and takes none (06 R188). -/
theorem ar_setAr (x : SliceSt) (d n : AReg) (v : W32) : (x.setAr d v).ar n = if n = d ∧ n ≠ 0 then v else x.ar n := by
  unfold SliceSt.setAr SliceSt.ar
  by_cases hd : d = 0
  · subst hd
    by_cases hn : n = 0 <;> simp [hn]
  · by_cases hn : n = 0
    · simp [hn]
    · simp only [if_neg hd, if_neg hn, tget_tput]
      by_cases h : n = d
      · simp [h, hd]
      · simp [h, hn, Fin.val_inj]

theorem sem_setSem (x : SliceSt) (k n j : Nat) : (x.setSem k n).sem j = if j = k then n else x.sem j := tget_tput x.sems k j n 0

theorem skeinW_setSkein (x : SliceSt) (k j : Nat) (v : W32) : (x.setSkein k v).skeinW j = if j = k then v else x.skeinW j := tget_tput x.skein k j v 0

theorem acc_setAcc (x : SliceSt) (k j : Nat) (a : Acc) : (x.setAcc k a).acc j = if j = k then a else x.acc j := tget_tput x.accs k j a .zero

/-! ## Alerts and counters -/

/-- A counter's note of saturation is an alert of bit 9 or nothing. -/
theorem noteSat_cases (s : State) (old limit c : Nat) : s.noteSat old limit c = s ∨ s.noteSat old limit c = s.alert 9 (plainRec 9 c 0) := by
  unfold State.noteSat
  split
  · exact Or.inr rfl
  · exact Or.inl rfl

theorem noteSat_below (s : State) (old limit c : Nat) (h : old + 1 ≠ limit) : s.noteSat old limit c = s := if_neg h

/-- An alert changes the alert bits, the records due and the management domain, which it wakes, and nothing else. -/
theorem alert_onlyAlerts (s : State) (bit : Nat) (e : ErrRec) :
    s.alert bit e = { s with mg := { s.mg with alert := (s.alert bit e).mg.alert, events := (s.alert bit e).mg.events, mgmtDom := s.mg.mgmtDom.wake .on, boot := { s.mg.boot with coreWait := false } } } := rfl

/-- A note of saturation touches the management domain alone. -/
theorem noteSat_onlyAlerts (s : State) (old limit c : Nat) : s.noteSat old limit c = { s with mg := (s.noteSat old limit c).mg } := by
  unfold State.noteSat
  split <;> rfl

/-- A security event sets SC_EVENT, counts, and raises alerts (15 R403). -/
theorem secEvent_sc (s : State) (code : Nat) :
    (s.secEvent code).sc = { s.sc with lastEvent := BitVec.ofNat 8 code, events := satInc s.sc.events 0xFFFF } := by
  unfold State.secEvent State.noteSat
  split <;> rfl

theorem secEvent_only (s : State) (code : Nat) :
    s.secEvent code = { s with sc := (s.secEvent code).sc, mg := (s.secEvent code).mg } := by
  unfold State.secEvent State.noteSat
  split <;> rfl

/-- A trace record changes the management domain's trace, its loss counter and alerts. -/
theorem traceEv_only (s : State) (tag : W32) (c r event info : Nat) : s.traceEv tag c r event info = { s with mg := (s.traceEv tag c r event info).mg } := by
  unfold State.traceEv State.noteSat
  split
  · rfl
  · split
    · split <;> rfl
    · rfl

/-- TIMING_BROKEN touches the channel alone. -/
theorem timing_only (s : State) (c i : Nat) : s.timing c i = { s with chans := (s.timing c i).chans } := by
  unfold State.timing
  split <;> rfl

theorem satInc_le (n limit : Nat) : satInc n limit ≤ limit := by
  unfold satInc
  split <;> omega

theorem satInc_ge (n limit : Nat) (h : n ≤ limit) : n ≤ satInc n limit := by
  unfold satInc
  split <;> omega

/-! ## Host writes of registers (04 R107, R108) -/

/-- A write that no lane group can carry changes nothing. -/
theorem hostReg_unreached (s : State) (w : RegWin) (own : Status) (f : State → State) (h : s.winReached w = false) : s.hostReg w own f = s := by
  simp [State.hostReg, h]

/-- A write that the port mode and the channel accept, and that answers OK, has its effect. -/
theorem hostReg_ok (s : State) (w : RegWin) (f : State → State) (h : s.winReached w = true) (hw : s.keyOff.winStatus w = .ok) :
    s.hostReg w .ok f = (f s.keyOff).status .ok := by
  simp [State.hostReg, h, hw]

theorem hostReg_port (s : State) (f : State → State) (h : s.reached = true) : s.hostReg .port .ok f = (f s.keyOff).status .ok :=
  hostReg_ok s .port f h rfl

/-- A write whose own status is not OK leaves the status and nothing else. -/
theorem hostReg_own (s : State) (w : RegWin) (own : Status) (f : State → State) (h : s.winReached w = true) (hw : s.keyOff.winStatus w = .ok)
    (ho : own ≠ .ok) : s.hostReg w own f = s.keyOff.status own := by
  simp only [State.hostReg, h, hw]
  cases own <;> simp_all

/-- A write its window bars leaves its status, and a violation counted where the channel was not awake. -/
theorem hostReg_barred (s : State) (w : RegWin) (own : Status) (f : State → State) (h : s.winReached w = true) (hw : s.keyOff.winStatus w ≠ .ok) :
    s.hostReg w own f = (s.keyOff.winRefused w).status (s.keyOff.winStatus w) := by
  simp only [State.hostReg, h]
  split
  · next hx => simp at hx
  · rfl

/-! ## Issue of slice operations (06 R173) -/

/-- The slice an operation that issues works on: its address registers held as read, no single step left. -/
def issued (s : State) (sl : SliceId) (e : Engine) : SliceSt :=
  { (s.slice sl).modEng e (fun g => { g with issued := some (g.issued.getD (s.slice sl).ars) }) with stepping := false }

/-- An operation at the head of its queue that nothing holds back issues. -/
theorem issueAt_go (s : State) (sl : SliceId) (e : Engine) (l : LayerRun) (h : issues s sl e) (hl : (s.slice sl).layer = some l) :
    s.issueAt sl e = .go (issued s sl e) l := by
  obtain ⟨_, ha, hq, hst, hs, hh, hb, hlo, hhi, hbr⟩ := h
  have hc : (s.slice sl).canIssue e = true := by
    simp only [SliceSt.canIssue, ha, hs, Bool.true_and, Bool.and_eq_true, Bool.or_eq_true, decide_eq_true_eq, Bool.not_eq_true', Bool.not_false]
    refine ⟨⟨⟨⟨hq, hst⟩, trivial⟩, ?_⟩, ?_⟩
    · exact hh
    · by_cases he : e = .bx
      · exact Or.inr (hb he)
      · exact Or.inl he
  simp only [State.issueAt, hl, hc, Bool.not_true, Bool.false_eq_true, if_false]
  rw [if_neg (by omega), if_neg]
  · rfl
  · intro hx
    simp only [Bool.and_eq_true, Bool.not_eq_true'] at hx
    obtain ⟨⟨h1, h2⟩, h3⟩ := hx
    rcases hbr with h | h | h
    · rw [h] at h1; cases h1
    · rw [h] at h2; cases h2
    · rw [hl] at h; simp [h3] at h

/-- An operation that completes: its slice's new state with the engine past it, and the issue slots counted. -/
theorem runOp_done (s : State) (sl : SliceId) (e : Engine) (l : LayerRun) (f : SliceSt → LayerRun → OpOut) (y : SliceSt) (n : Nat)
    (h : issues s sl e) (hl : (s.slice sl).layer = some l) (hf : f (issued s sl e) l = .done y n) :
    s.runOp sl e f = (s.putSlice sl (y.retire e)).issued sl e n := by
  simp [State.runOp, State.runOpBy, issueAt_go s sl e l h hl, hf]

/-- Iterations of the head operation that issued between two states of a slice. -/
def passed (x y : SliceSt) (e : Engine) : Nat := (y.eng e).loopPos - (x.eng e).loopPos

/-- An operation that waits for a semaphore: the iterations issued before are counted (06 R172). -/
theorem runOp_wait (s : State) (sl : SliceId) (e : Engine) (l : LayerRun) (f : SliceSt → LayerRun → OpOut) (y : SliceSt) (k : Fin 16) (n : Nat)
    (h : issues s sl e) (hl : (s.slice sl).layer = some l) (hf : f (issued s sl e) l = .wait y k n) :
    s.runOp sl e f = (s.await sl y e k n).issued sl e (passed (issued s sl e) y e) := by
  simp [State.runOp, State.runOpBy, passed, issueAt_go s sl e l h hl, hf]

/-- An operation that faults, other than by a parity error. -/
theorem runOp_fault (s : State) (sl : SliceId) (e : Engine) (l : LayerRun) (f : SliceSt → LayerRun → OpOut) (y : SliceSt) (c d : Nat)
    (h : issues s sl e) (hl : (s.slice sl).layer = some l) (hf : f (issued s sl e) l = .fault y c d) (hc : c ≠ causeDataCheck) :
    s.runOp sl e f = ((s.putSlice sl y).issued sl e (passed (issued s sl e) y e)).sliceFault sl e c d := by
  simp [State.runOp, State.runOpBy, passed, issueAt_go s sl e l h hl, hf, hc]

/-- An operation that meets bad parity in its slice's storage: counted for the channel, then its fault (12 R335). -/
theorem runOp_parity (s : State) (sl : SliceId) (e : Engine) (l : LayerRun) (f : SliceSt → LayerRun → OpOut) (y : SliceSt) (d : Nat)
    (h : issues s sl e) (hl : (s.slice sl).layer = some l) (hf : f (issued s sl e) l = .fault y causeDataCheck d) :
    s.runOp sl e f
      = (((s.putSlice sl y).issued sl e (passed (issued s sl e) y e)).parityErr (slChan sl) l.tag 1).sliceFault sl e causeDataCheck d := by
  simp [State.runOp, State.runOpBy, passed, issueAt_go s sl e l h hl, hf]

/-- A performance counter's increment touches its slice and alerts. -/
theorem perfAdd_only (s : State) (sl : SliceId) (j n : Nat) : s.perfAdd sl j n = { s with slices := (s.perfAdd sl j n).slices, mg := (s.perfAdd sl j n).mg } := by
  unfold State.perfAdd
  simp only
  split
  · split
    · rfl
    · split <;> rfl
  · rfl

theorem issuedCount_only (s : State) (sl : SliceId) (e : Engine) (n : Nat) : s.issued sl e n = { s with slices := (s.issued sl e n).slices, mg := (s.issued sl e n).mg } := by
  cases e
  · exact perfAdd_only s sl 0 n
  · exact perfAdd_only s sl 1 n
  · rfl
  · exact perfAdd_only s sl 3 n

end Sys2Proof.Machine
end

