-- ==== Sys2Proof/Laws/PerInstr.lean ====
section
/-! SUPPORT. Statements made of every command as syntax, one lemma per constructor: a well-formed command's loop nest is encodable. -/

namespace Sys2Proof.Laws

/-- The loop nest of a looped slice operation, and the most levels its encoding has (06 R186, R197). -/
def Loops.nest : Instr → Option (Loop × Nat)
  | .bxLd _ m => some (m.lp, 6)
  | .bxSt _ m _ => some (m.lp, 6)
  | .mxZero _ _ _ lp => some (lp, 4)
  | .mxMma _ m _ => some (m.lp, 4)
  | .mxRound _ m _ => some (m.lp, 4)
  | .mxPstore _ _ _ lp _ _ _ _ => some (lp, 4)
  | .mxPload _ _ _ lp _ _ _ => some (lp, 4)
  | .vxRun _ m _ => some (m.lp, 4)
  | .vxKset _ _ _ _ lp => some (lp, 4)
  | .vxKld _ _ _ _ lp _ => some (lp, 4)
  | .vxRclr _ _ lp => some (lp, 4)
  | .vxRround _ _ _ _ _ _ _ lp => some (lp, 4)
  | .vxRpstore _ _ _ _ lp => some (lp, 4)
  | .vxRpload _ _ _ _ _ lp _ => some (lp, 4)
  | .vxRpost _ _ _ lp => some (lp, 4)
  | .vxTld _ _ _ lp _ => some (lp, 4)
  | .vxTst _ _ _ lp _ => some (lp, 4)
  | .vxTtr _ _ _ _ lp _ => some (lp, 4)
  | .vxTred _ _ _ _ _ _ _ _ lp _ => some (lp, 4)
  | .vxQblk _ _ _ _ _ _ _ lp _ => some (lp, 4)
  | .vxTsum _ _ lp _ _ _ _ => some (lp, 4)
  | .vxTadd _ _ _ _ lp _ => some (lp, 4)
  | _ => none

/-- The nest of a well-formed command has levels its encoding holds, each with an encodable count. -/
def Loops.Statement (i : Instr) : Prop := i.wf = true → ∀ lp n, Loops.nest i = some (lp, n) → lp.counts.length ≤ n ∧ lp.counts.all Count.ok = true

theorem Loops.of_ok (lp : Loop) (n : Nat) (h : lp.ok n = true) : lp.counts.length ≤ n ∧ lp.counts.all Count.ok = true := by
  simp only [Loop.ok, Bool.and_eq_true, decide_eq_true_eq] at h
  exact h

theorem Loops.downstreamFlit (g : Group) (t : Nat) (lanes : List (List Byte)) : Loops.Statement (.downstreamFlit g t lanes) := fun _ _ _ h => nomatch h

theorem Loops.idle (g : Group) (t : Nat) : Loops.Statement (.idle g t) := fun _ _ _ h => nomatch h

theorem Loops.read (g : Group) (t : Nat) (tag : W16) (addr : BitVec 42) (parity : Bool) : Loops.Statement (.read g t tag addr parity) := fun _ _ _ h => nomatch h

theorem Loops.write (g : Group) (t : Nat) (addr : BitVec 42) (byteEn : W64) (data : List Byte) (check : W32) : Loops.Statement (.write g t addr byteEn data check) := fun _ _ _ h => nomatch h

theorem Loops.pfence (g : Group) (t : Nat) (tag : W16) (addr : BitVec 42) : Loops.Statement (.pfence g t tag addr) := fun _ _ _ h => nomatch h

theorem Loops.readResponse (g : Group) (t : Nat) (pos : Fin 3) : Loops.Statement (.readResponse g t pos) := fun _ _ _ h => nomatch h

theorem Loops.echo (g : Group) (t : Nat) : Loops.Statement (.echo g t) := fun _ _ _ h => nomatch h

theorem Loops.standbyReq (g : Group) (t : Nat) : Loops.Statement (.standbyReq g t) := fun _ _ _ h => nomatch h

theorem Loops.groupUnaligned (g : Group) : Loops.Statement (.groupUnaligned g) := fun _ _ _ h => nomatch h

theorem Loops.trainingSetReceive (g : Group) (lanes : List (List Byte)) (skews : List Byte) (adapted : Byte) : Loops.Statement (.trainingSetReceive g lanes skews adapted) := fun _ _ _ h => nomatch h

theorem Loops.trainPhaseLimit (g : Group) : Loops.Statement (.trainPhaseLimit g) := fun _ _ _ h => nomatch h

theorem Loops.standbyResume (g : Group) : Loops.Statement (.standbyResume g) := fun _ _ _ h => nomatch h

theorem Loops.swell (g : Group) (ui : Nat) : Loops.Statement (.swell g ui) := fun _ _ _ h => nomatch h

theorem Loops.activity (g : Group) (millivolts : Nat) (ns : Nat) : Loops.Statement (.activity g millivolts ns) := fun _ _ _ h => nomatch h

theorem Loops.linkPllLock : Loops.Statement (.linkPllLock) := fun _ _ _ h => nomatch h

theorem Loops.retrain (g : Group) : Loops.Statement (.retrain g) := fun _ _ _ h => nomatch h

theorem Loops.linkClearCounters (g : Group) : Loops.Statement (.linkClearCounters g) := fun _ _ _ h => nomatch h

theorem Loops.portKeyArm (t : Nat) (arm : W16) : Loops.Statement (.portKeyArm t arm) := fun _ _ _ h => nomatch h

theorem Loops.portKeyExpire (t : Nat) : Loops.Statement (.portKeyExpire t) := fun _ _ _ h => nomatch h

theorem Loops.portModeSwitch (t : Nat) (target : Bool) (confirm : W16) : Loops.Statement (.portModeSwitch t target confirm) := fun _ _ _ h => nomatch h

theorem Loops.hbWinWrite (w : Fin 1024) (v : W32) : Loops.Statement (.hbWinWrite w v) := fun _ _ _ h => nomatch h

theorem Loops.xorMaskWrite (t : Nat) (k : Fin 16) (v : W32) (g : Group) : Loops.Statement (.xorMaskWrite t k v g) := fun _ _ _ h => nomatch h

theorem Loops.violClear (c : Chan) : Loops.Statement (.violClear c) := fun _ _ _ h => nomatch h

theorem Loops.registerWrite (t : Nat) (addr : HostAddr) (v : W32) (g : Group) : Loops.Statement (.registerWrite t addr v g) := fun _ _ _ h => nomatch h

theorem Loops.bankOperation (c : Chan) (b : BankIx) (col : Nat) (garbled : Bool) : Loops.Statement (.bankOperation c b col garbled) := fun _ _ _ h => nomatch h

theorem Loops.readRetry (c : Chan) (b : BankIx) (who : Reader) (ok1 : Bool) (ok2 : Bool) : Loops.Statement (.readRetry c b who ok1 ok2) := fun _ _ _ h => nomatch h

theorem Loops.refreshTick (c : Chan) (b : BankIx) (col : Nat) : Loops.Statement (.refreshTick c b col) := fun _ _ _ h => nomatch h

theorem Loops.forcedRefresh (c : Chan) (b : BankIx) (col : Nat) : Loops.Statement (.forcedRefresh c b col) := fun _ _ _ h => nomatch h

theorem Loops.idleRefresh (c : Chan) (b : BankIx) (col : Nat) : Loops.Statement (.idleRefresh c b col) := fun _ _ _ h => nomatch h

theorem Loops.strictRefreshSlot (c : Chan) (b : BankIx) (col : Nat) : Loops.Statement (.strictRefreshSlot c b col) := fun _ _ _ h => nomatch h

theorem Loops.memClearCounters (c : Chan) : Loops.Statement (.memClearCounters c) := fun _ _ _ h => nomatch h

theorem Loops.hardwareSweep (c : Chan) (bad : List LaneTaps) : Loops.Statement (.hardwareSweep c bad) := fun _ _ _ h => nomatch h

theorem Loops.sweepDone (c : Chan) : Loops.Statement (.sweepDone c) := fun _ _ _ h => nomatch h

theorem Loops.sweep (c : Chan) : Loops.Statement (.sweep c) := fun _ _ _ h => nomatch h

theorem Loops.nudgeUp (c : Chan) : Loops.Statement (.nudgeUp c) := fun _ _ _ h => nomatch h

theorem Loops.nudgeDown (c : Chan) : Loops.Statement (.nudgeDown c) := fun _ _ _ h => nomatch h

theorem Loops.patternGo (c : Chan) : Loops.Statement (.patternGo c) := fun _ _ _ h => nomatch h

theorem Loops.patternRunDone (c : Chan) (mismatches : Nat) : Loops.Statement (.patternRunDone c mismatches) := fun _ _ _ h => nomatch h

theorem Loops.doorbell (c : Chan) (r : Rec) (v : W32) : Loops.Statement (.doorbell c r v) := fun _ _ _ h => nomatch h

theorem Loops.dbRingWrite (c : Chan) (r : Rec) (v : W32) : Loops.Statement (.dbRingWrite c r v) := fun _ _ _ h => nomatch h

theorem Loops.dbCqWrite (c : Chan) (r : Rec) (v : W32) : Loops.Statement (.dbCqWrite c r v) := fun _ _ _ h => nomatch h

theorem Loops.cqHeadWrite (c : Chan) (r : Rec) (v : W32) : Loops.Statement (.cqHeadWrite c r v) := fun _ _ _ h => nomatch h

theorem Loops.commandRead (c : Chan) (r : Rec) (parity : Option Storage) : Loops.Statement (.commandRead c r parity) := fun _ _ _ h => nomatch h

theorem Loops.tornReread (c : Chan) (r : Rec) (parity : Option Storage) : Loops.Statement (.tornReread c r parity) := fun _ _ _ h => nomatch h

theorem Loops.tornCommand (c : Chan) (r : Rec) : Loops.Statement (.tornCommand c r) := fun _ _ _ h => nomatch h

theorem Loops.dispatch (c : Chan) (r : Rec) (parity : Option Storage) : Loops.Statement (.dispatch c r parity) := fun _ _ _ h => nomatch h

theorem Loops.castOn (c : Chan) (r : Rec) : Loops.Statement (.castOn c r) := fun _ _ _ h => nomatch h

theorem Loops.layer (c : Chan) (r : Rec) (pos : CmdNo) : Loops.Statement (.layer c r pos) := fun _ _ _ h => nomatch h

theorem Loops.patch (c : Chan) (r : Rec) (pos : CmdNo) : Loops.Statement (.patch c r pos) := fun _ _ _ h => nomatch h

theorem Loops.copy (c : Chan) (r : Rec) (pos : CmdNo) : Loops.Statement (.copy c r pos) := fun _ _ _ h => nomatch h

theorem Loops.stagedCopyWrite (c : Chan) (r : Rec) (pos : CmdNo) : Loops.Statement (.stagedCopyWrite c r pos) := fun _ _ _ h => nomatch h

theorem Loops.fill (c : Chan) (r : Rec) (pos : CmdNo) : Loops.Statement (.fill c r pos) := fun _ _ _ h => nomatch h

theorem Loops.gather (c : Chan) (r : Rec) (pos : CmdNo) : Loops.Statement (.gather c r pos) := fun _ _ _ h => nomatch h

theorem Loops.signal (c : Chan) (r : Rec) (pos : CmdNo) : Loops.Statement (.signal c r pos) := fun _ _ _ h => nomatch h

theorem Loops.wait (c : Chan) (r : Rec) (pos : CmdNo) : Loops.Statement (.wait c r pos) := fun _ _ _ h => nomatch h

theorem Loops.fenceChannel (c : Chan) (r : Rec) (pos : CmdNo) : Loops.Statement (.fenceChannel c r pos) := fun _ _ _ h => nomatch h

theorem Loops.fenceModule (c : Chan) (r : Rec) (pos : CmdNo) : Loops.Statement (.fenceModule c r pos) := fun _ _ _ h => nomatch h

theorem Loops.digest (c : Chan) (r : Rec) (pos : CmdNo) : Loops.Statement (.digest c r pos) := fun _ _ _ h => nomatch h

theorem Loops.abort (c : Chan) (r : Rec) : Loops.Statement (.abort c r) := fun _ _ _ h => nomatch h

theorem Loops.bindOff (c : Chan) (r : Rec) : Loops.Statement (.bindOff c r) := fun _ _ _ h => nomatch h

theorem Loops.hintCodePrefetch (c : Chan) (r : Rec) (pos : CmdNo) : Loops.Statement (.hintCodePrefetch c r pos) := fun _ _ _ h => nomatch h

theorem Loops.hintRowOpen (c : Chan) (r : Rec) (pos : CmdNo) : Loops.Statement (.hintRowOpen c r pos) := fun _ _ _ h => nomatch h

theorem Loops.completion (c : Chan) (r : Rec) (pos : CmdNo) : Loops.Statement (.completion c r pos) := fun _ _ _ h => nomatch h

theorem Loops.stopEvent (c : Chan) (r : Rec) (pos : CmdNo) : Loops.Statement (.stopEvent c r pos) := fun _ _ _ h => nomatch h

theorem Loops.abortSlack (c : Chan) (r : Rec) : Loops.Statement (.abortSlack c r) := fun _ _ _ h => nomatch h

theorem Loops.watchdogFire (c : Chan) (r : Rec) : Loops.Statement (.watchdogFire c r) := fun _ _ _ h => nomatch h

theorem Loops.codeBusyClear (c : Chan) : Loops.Statement (.codeBusyClear c) := fun _ _ _ h => nomatch h

theorem Loops.layerStart (sl : SliceId) : Loops.Statement (.layerStart sl) := fun _ _ _ h => nomatch h

theorem Loops.fetch (sl : SliceId) (e : Engine) (lens : List Nat) (parity : Option Storage) : Loops.Statement (.fetch sl e lens parity) := fun _ _ _ h => nomatch h

theorem Loops.icacheMissReturn (sl : SliceId) (e : Engine) : Loops.Statement (.icacheMissReturn sl e) := fun _ _ _ h => nomatch h

theorem Loops.sliceStop (sl : SliceId) : Loops.Statement (.sliceStop sl) := fun _ _ _ h => nomatch h

theorem Loops.deschedule (sl : SliceId) : Loops.Statement (.deschedule sl) := fun _ _ _ h => nomatch h

theorem Loops.resume (sl : SliceId) : Loops.Statement (.resume sl) := fun _ _ _ h => nomatch h

theorem Loops.endOp (sl : SliceId) (e : Engine) : Loops.Statement (.endOp sl e) := fun _ _ _ h => nomatch h

theorem Loops.nop (sl : SliceId) (e : Engine) : Loops.Statement (.nop sl e) := fun _ _ _ h => nomatch h

theorem Loops.semSig (sl : SliceId) (e : Engine) (k : Fin 16) (n : Fin 256) : Loops.Statement (.semSig sl e k n) := fun _ _ _ h => nomatch h

theorem Loops.semWait (sl : SliceId) (e : Engine) (k : Fin 16) (n : Fin 256) : Loops.Statement (.semWait sl e k n) := fun _ _ _ h => nomatch h

theorem Loops.fenceEngine (sl : SliceId) (e : Engine) : Loops.Statement (.fenceEngine sl e) := fun _ _ _ h => nomatch h

theorem Loops.fenceSlice (sl : SliceId) (e : Engine) : Loops.Statement (.fenceSlice sl e) := fun _ _ _ h => nomatch h

theorem Loops.jmp (sl : SliceId) (e : Engine) (off : Int) : Loops.Statement (.jmp sl e off) := fun _ _ _ h => nomatch h

theorem Loops.brar (sl : SliceId) (e : Engine) (a : AReg) (off : Int) : Loops.Statement (.brar sl e a off) := fun _ _ _ h => nomatch h

theorem Loops.cxLi (sl : SliceId) (d : AReg) (imm : W32) : Loops.Statement (.cxLi sl d imm) := fun _ _ _ h => nomatch h

theorem Loops.cxAdd (sl : SliceId) (d : AReg) (a : AReg) (b : RegImm16) : Loops.Statement (.cxAdd sl d a b) := fun _ _ _ h => nomatch h

theorem Loops.cxSub (sl : SliceId) (d : AReg) (a : AReg) (b : RegImm16) : Loops.Statement (.cxSub sl d a b) := fun _ _ _ h => nomatch h

theorem Loops.cxShl (sl : SliceId) (d : AReg) (a : AReg) (b : RegImm5) : Loops.Statement (.cxShl sl d a b) := fun _ _ _ h => nomatch h

theorem Loops.cxShr (sl : SliceId) (d : AReg) (a : AReg) (b : RegImm5) : Loops.Statement (.cxShr sl d a b) := fun _ _ _ h => nomatch h

theorem Loops.cxSar (sl : SliceId) (d : AReg) (a : AReg) (b : RegImm5) : Loops.Statement (.cxSar sl d a b) := fun _ _ _ h => nomatch h

theorem Loops.cxCmp (sl : SliceId) (cond : CxCond) (d : AReg) (a : AReg) (b : RegImm16) : Loops.Statement (.cxCmp sl cond d a b) := fun _ _ _ h => nomatch h

theorem Loops.cxSel (sl : SliceId) (d : AReg) (cc : AReg) (a : AReg) (b : AReg) : Loops.Statement (.cxSel sl d cc a b) := fun _ _ _ h => nomatch h

theorem Loops.cxLdp (sl : SliceId) (d : AReg) (word : Fin 64) : Loops.Statement (.cxLdp sl d word) := fun _ _ _ h => nomatch h

theorem Loops.cxStp (sl : SliceId) (word : Fin 64) (a : AReg) : Loops.Statement (.cxStp sl word a) := fun _ _ _ h => nomatch h

theorem Loops.cxId (sl : SliceId) (d : AReg) : Loops.Statement (.cxId sl d) := fun _ _ _ h => nomatch h

theorem Loops.cxBr (sl : SliceId) (test : BrTest) (target : Int) : Loops.Statement (.cxBr sl test target) := fun _ _ _ h => nomatch h

theorem Loops.cxSumpop (sl : SliceId) (d : AReg) : Loops.Statement (.cxSumpop sl d) := fun _ _ _ h => nomatch h

theorem Loops.cxSumset (sl : SliceId) (bit : Fin 16) (a : AReg) : Loops.Statement (.cxSumset sl bit a) := fun _ _ _ h => nomatch h

theorem Loops.bxLd (sl : SliceId) (m : BxMove) : Loops.Statement (.bxLd sl m) := by
  rintro h _ _ ⟨⟩
  simp only [Instr.wf, BxMove.ok, Bool.and_eq_true] at h
  exact Loops.of_ok _ _ (by tauto)

theorem Loops.bxSt (sl : SliceId) (m : BxMove) (parity : Option Storage) : Loops.Statement (.bxSt sl m parity) := by
  rintro h _ _ ⟨⟩
  simp only [Instr.wf, BxMove.ok, Bool.and_eq_true] at h
  exact Loops.of_ok _ _ (by tauto)

theorem Loops.bxCopy (sl : SliceId) (desc : ScrAddr) (o : AReg) (parity : Option Storage) : Loops.Statement (.bxCopy sl desc o parity) := fun _ _ _ h => nomatch h

theorem Loops.bxFill (sl : SliceId) (desc : ScrAddr) (o : AReg) (parity : Option Storage) : Loops.Statement (.bxFill sl desc o parity) := fun _ _ _ h => nomatch h

theorem Loops.bxGather (sl : SliceId) (desc : ScrAddr) (parity : Option Storage) : Loops.Statement (.bxGather sl desc parity) := fun _ _ _ h => nomatch h

theorem Loops.bxSend (sl : SliceId) (d : AReg) (entry : Fin 16) (src : ScrAddr) (ack : Fin 256) (parity : Option Storage) : Loops.Statement (.bxSend sl d entry src ack parity) := fun _ _ _ h => nomatch h

theorem Loops.bxSsig (sl : SliceId) (vsync : Fin 256) (amount : RegImm32) : Loops.Statement (.bxSsig sl vsync amount) := fun _ _ _ h => nomatch h

theorem Loops.bxSsub (sl : SliceId) (vsync : Fin 256) (amount : RegImm32) : Loops.Statement (.bxSsub sl vsync amount) := fun _ _ _ h => nomatch h

theorem Loops.bxSwatch (sl : SliceId) (vsync : Fin 256) (value : RegImm32) : Loops.Statement (.bxSwatch sl vsync value) := fun _ _ _ h => nomatch h

theorem Loops.bxBar (sl : SliceId) (vsync : Fin 256) : Loops.Statement (.bxBar sl vsync) := fun _ _ _ h => nomatch h

theorem Loops.bxRecv (sl : SliceId) (entry : Fin 16) (dst : ScrAddr) (ack : Fin 256) : Loops.Statement (.bxRecv sl entry dst ack) := fun _ _ _ h => nomatch h

theorem Loops.mxZero (sl : SliceId) (first : Fin 32) (count : Nat) (lp : Loop) : Loops.Statement (.mxZero sl first count lp) := by
  rintro h _ _ ⟨⟩
  simp only [Instr.wf, Bool.and_eq_true] at h
  exact Loops.of_ok _ _ (by tauto)

theorem Loops.mxMma (sl : SliceId) (m : MmaOp) (parity : Option Storage) : Loops.Statement (.mxMma sl m parity) := by
  rintro h _ _ ⟨⟩
  simp only [Instr.wf, MmaOp.ok, Bool.and_eq_true] at h
  exact Loops.of_ok _ _ (by tauto)

theorem Loops.mxRound (sl : SliceId) (m : RoundOp) (parity : Option Storage) : Loops.Statement (.mxRound sl m parity) := by
  rintro h _ _ ⟨⟩
  simp only [Instr.wf, RoundOp.ok, Bool.and_eq_true] at h
  exact Loops.of_ok _ _ (by tauto)

theorem Loops.mxPstore (sl : SliceId) (p : ScrOperand) (x : ScrOperand) (lp : Loop) (first : Fin 32) (count : Nat) (clear : Bool) (parity : Option Storage) : Loops.Statement (.mxPstore sl p x lp first count clear parity) := by
  rintro h _ _ ⟨⟩
  simp only [Instr.wf, Bool.and_eq_true] at h
  exact Loops.of_ok _ _ (by tauto)

theorem Loops.mxPload (sl : SliceId) (p : ScrOperand) (x : ScrOperand) (lp : Loop) (first : Fin 32) (count : Nat) (parity : Option Storage) : Loops.Statement (.mxPload sl p x lp first count parity) := by
  rintro h _ _ ⟨⟩
  simp only [Instr.wf, Bool.and_eq_true] at h
  exact Loops.of_ok _ _ (by tauto)

theorem Loops.vxRun (sl : SliceId) (m : VxRun) (parity : Option Storage) : Loops.Statement (.vxRun sl m parity) := by
  rintro h _ _ ⟨⟩
  simp only [Instr.wf, VxRun.ok, Bool.and_eq_true] at h
  exact Loops.of_ok _ _ (by tauto)

theorem Loops.vxKset (sl : SliceId) (k : Fin 4) (imm : W32) (fmt : Fmt) (lp : Loop) : Loops.Statement (.vxKset sl k imm fmt lp) := by
  rintro h _ _ ⟨⟩
  simp only [Instr.wf, Bool.and_eq_true] at h
  exact Loops.of_ok _ _ (by tauto)

theorem Loops.vxKld (sl : SliceId) (k : Fin 4) (src : ScrOperand) (fmt : Fmt) (lp : Loop) (parity : Option Storage) : Loops.Statement (.vxKld sl k src fmt lp parity) := by
  rintro h _ _ ⟨⟩
  simp only [Instr.wf, Bool.and_eq_true] at h
  exact Loops.of_ok _ _ (by tauto)

theorem Loops.vxRclr (sl : SliceId) (mask : BitVec 4) (lp : Loop) : Loops.Statement (.vxRclr sl mask lp) := by
  rintro h _ _ ⟨⟩
  simp only [Instr.wf] at h
  exact Loops.of_ok _ _ (by tauto)

theorem Loops.vxRround (sl : SliceId) (r : Fin 4) (dst : RoundDst) (fmt : Fmt) (sat : Bool) (adj : Int) (index : Bool) (lp : Loop) : Loops.Statement (.vxRround sl r dst fmt sat adj index lp) := by
  rintro h _ _ ⟨⟩
  simp only [Instr.wf, Bool.and_eq_true] at h
  exact Loops.of_ok _ _ (by tauto)

theorem Loops.vxRpstore (sl : SliceId) (r : Fin 4) (p : ScrOperand) (x : ScrOperand) (lp : Loop) : Loops.Statement (.vxRpstore sl r p x lp) := by
  rintro h _ _ ⟨⟩
  simp only [Instr.wf, Bool.and_eq_true] at h
  exact Loops.of_ok _ _ (by tauto)

theorem Loops.vxRpload (sl : SliceId) (r : Fin 4) (p : ScrOperand) (x : ScrOperand) (count : Nat) (lp : Loop) (parity : Option Storage) : Loops.Statement (.vxRpload sl r p x count lp parity) := by
  rintro h _ _ ⟨⟩
  simp only [Instr.wf, Bool.and_eq_true] at h
  exact Loops.of_ok _ _ (by tauto)

theorem Loops.vxRpost (sl : SliceId) (sumR : Fin 4) (maxR : Fin 4) (lp : Loop) : Loops.Statement (.vxRpost sl sumR maxR lp) := by
  rintro h _ _ ⟨⟩
  simp only [Instr.wf] at h
  exact Loops.of_ok _ _ (by tauto)

theorem Loops.vxTld (sl : SliceId) (tile : Fin 4) (a : ScrOperand) (lp : Loop) (parity : Option Storage) : Loops.Statement (.vxTld sl tile a lp parity) := by
  rintro h _ _ ⟨⟩
  simp only [Instr.wf, Bool.and_eq_true] at h
  exact Loops.of_ok _ _ (by tauto)

theorem Loops.vxTst (sl : SliceId) (tile : Fin 4) (a : ScrOperand) (lp : Loop) (parity : Option Storage) : Loops.Statement (.vxTst sl tile a lp parity) := by
  rintro h _ _ ⟨⟩
  simp only [Instr.wf, Bool.and_eq_true] at h
  exact Loops.of_ok _ _ (by tauto)

theorem Loops.vxTtr (sl : SliceId) (src : Fin 4) (dst : Fin 4) (esize : Nat) (lp : Loop) (parity : Option Storage) : Loops.Statement (.vxTtr sl src dst esize lp parity) := by
  rintro h _ _ ⟨⟩
  simp only [Instr.wf, Bool.and_eq_true] at h
  exact Loops.of_ok _ _ (by tauto)

theorem Loops.vxTred (sl : SliceId) (tile : Fin 4) (rows : Nat) (axis : Bool) (kind : RKind) (fin : Fmt) (fout : Fmt) (d : ScrOperand) (lp : Loop) (parity : Option Storage) : Loops.Statement (.vxTred sl tile rows axis kind fin fout d lp parity) := by
  rintro h _ _ ⟨⟩
  simp only [Instr.wf, Bool.and_eq_true] at h
  exact Loops.of_ok _ _ (by tauto)

theorem Loops.vxQblk (sl : SliceId) (x : ScrOperand) (y : ScrOperand) (d : ScrOperand) (blocks : Nat) (fx : Fmt) (fe : Fmt) (lp : Loop) (parity : Option Storage) : Loops.Statement (.vxQblk sl x y d blocks fx fe lp parity) := by
  rintro h _ _ ⟨⟩
  simp only [Instr.wf, Bool.and_eq_true] at h
  exact Loops.of_ok _ _ (by tauto)

theorem Loops.vxTsum (sl : SliceId) (x : ScrOperand) (lp : Loop) (d : ScrOperand) (a : AReg) (b : AReg) (parity : Option Storage) : Loops.Statement (.vxTsum sl x lp d a b parity) := by
  rintro h _ _ ⟨⟩
  simp only [Instr.wf, Bool.and_eq_true] at h
  exact Loops.of_ok _ _ (by tauto)

theorem Loops.vxTadd (sl : SliceId) (p : ScrOperand) (d : ScrOperand) (b : AReg) (lp : Loop) (parity : Option Storage) : Loops.Statement (.vxTadd sl p d b lp parity) := by
  rintro h _ _ ⟨⟩
  simp only [Instr.wf, Bool.and_eq_true] at h
  exact Loops.of_ok _ _ (by tauto)

theorem Loops.perfClear (sl : SliceId) : Loops.Statement (.perfClear sl) := fun _ _ _ h => nomatch h

theorem Loops.syncOperation (o : ObjRef) : Loops.Statement (.syncOperation o) := fun _ _ _ h => nomatch h

theorem Loops.waitRetry (c : Chan) : Loops.Statement (.waitRetry c) := fun _ _ _ h => nomatch h

theorem Loops.waiterRelease (c : Chan) : Loops.Statement (.waiterRelease c) := fun _ _ _ h => nomatch h

theorem Loops.add (o : ObjRef) (amount : W32) (g : Group) : Loops.Statement (.add o amount g) := fun _ _ _ h => nomatch h

theorem Loops.sub (o : ObjRef) (amount : W32) (g : Group) : Loops.Statement (.sub o amount g) := fun _ _ _ h => nomatch h

theorem Loops.barCfgWrite (o : ObjRef) (v : W32) (g : Group) : Loops.Statement (.barCfgWrite o v g) := fun _ _ _ h => nomatch h

theorem Loops.barStateClear (o : ObjRef) (g : Group) : Loops.Statement (.barStateClear o g) := fun _ _ _ h => nomatch h

theorem Loops.barrierArrival (o : ObjRef) : Loops.Statement (.barrierArrival o) := fun _ _ _ h => nomatch h

theorem Loops.combinerForward (c : Chan) (m : Fin 8192) : Loops.Statement (.combinerForward c m) := fun _ _ _ h => nomatch h

theorem Loops.barrierRelease (c : Chan) : Loops.Statement (.barrierRelease c) := fun _ _ _ h => nomatch h

theorem Loops.messageArrival (sl : SliceId) : Loops.Statement (.messageArrival sl) := fun _ _ _ h => nomatch h

theorem Loops.longWait (c : Chan) (r : Rec) : Loops.Statement (.longWait c r) := fun _ _ _ h => nomatch h

theorem Loops.syncClearCounters (c : Chan) : Loops.Statement (.syncClearCounters c) := fun _ _ _ h => nomatch h

theorem Loops.hbSyncClearCounters : Loops.Statement (.hbSyncClearCounters) := fun _ _ _ h => nomatch h

theorem Loops.strictWrite (v : Bool) : Loops.Statement (.strictWrite v) := fun _ _ _ h => nomatch h

theorem Loops.strictOrigin : Loops.Statement (.strictOrigin) := fun _ _ _ h => nomatch h

theorem Loops.epochTick : Loops.Statement (.epochTick) := fun _ _ _ h => nomatch h

theorem Loops.epochClear : Loops.Statement (.epochClear) := fun _ _ _ h => nomatch h

theorem Loops.strictStatusClear (c : Chan) (mask : BitVec 6) : Loops.Statement (.strictStatusClear c mask) := fun _ _ _ h => nomatch h

theorem Loops.provenanceDigest (c : Chan) (r : Rec) (pos : CmdNo) : Loops.Statement (.provenanceDigest c r pos) := fun _ _ _ h => nomatch h

theorem Loops.leafHash (c : Chan) (r : Rec) (pos : CmdNo) : Loops.Statement (.leafHash c r pos) := fun _ _ _ h => nomatch h

theorem Loops.payloadReceive (c : Chan) (hop : Hop) (cargo : Cargo) (ok : Bool) : Loops.Statement (.payloadReceive c hop cargo ok) := fun _ _ _ h => nomatch h

theorem Loops.transitResend (c : Chan) (ok : Bool) : Loops.Statement (.transitResend c ok) := fun _ _ _ h => nomatch h

theorem Loops.settleNotice (c : Chan) : Loops.Statement (.settleNotice c) := fun _ _ _ h => nomatch h

theorem Loops.scrubInterval (c : Chan) : Loops.Statement (.scrubInterval c) := fun _ _ _ h => nomatch h

theorem Loops.scrubRead (c : Chan) (b : BankIx) (blk : Fin 128) (ok0 : Bool) (ok1 : Bool) (ok2 : Bool) : Loops.Statement (.scrubRead c b blk ok0 ok1 ok2) := fun _ _ _ h => nomatch h

theorem Loops.clearCounters (c : Chan) : Loops.Statement (.clearCounters c) := fun _ _ _ h => nomatch h

theorem Loops.clearWlog (c : Chan) : Loops.Statement (.clearWlog c) := fun _ _ _ h => nomatch h

theorem Loops.errorLogRecord : Loops.Statement (.errorLogRecord) := fun _ _ _ h => nomatch h

theorem Loops.errLogClear : Loops.Statement (.errLogClear) := fun _ _ _ h => nomatch h

theorem Loops.ownerWait (d : Domain) : Loops.Statement (.ownerWait d) := fun _ _ _ h => nomatch h

theorem Loops.selfRefreshEntry (c : Chan) : Loops.Statement (.selfRefreshEntry c) := fun _ _ _ h => nomatch h

theorem Loops.pointOfNoReturn (d : Domain) : Loops.Statement (.pointOfNoReturn d) := fun _ _ _ h => nomatch h

theorem Loops.wakeSource (d : Domain) : Loops.Statement (.wakeSource d) := fun _ _ _ h => nomatch h

theorem Loops.transitionComplete (d : Domain) : Loops.Statement (.transitionComplete d) := fun _ _ _ h => nomatch h

theorem Loops.selfRefreshExit (c : Chan) : Loops.Statement (.selfRefreshExit c) := fun _ _ _ h => nomatch h

theorem Loops.targetWrite (d : Domain) (v : BitVec 2) : Loops.Statement (.targetWrite d v) := fun _ _ _ h => nomatch h

theorem Loops.pllReq (c : Chan) : Loops.Statement (.pllReq c) := fun _ _ _ h => nomatch h

theorem Loops.pllLock (c : Chan) : Loops.Statement (.pllLock c) := fun _ _ _ h => nomatch h

theorem Loops.pllLockLoss (c : Chan) : Loops.Statement (.pllLockLoss c) := fun _ _ _ h => nomatch h

theorem Loops.opTargetWrite (c : Chan) (v : BitVec 2) : Loops.Statement (.opTargetWrite c v) := fun _ _ _ h => nomatch h

theorem Loops.opPointChangeDone (c : Chan) : Loops.Statement (.opPointChangeDone c) := fun _ _ _ h => nomatch h

theorem Loops.pwrRefusalClear (d : Domain) : Loops.Statement (.pwrRefusalClear d) := fun _ _ _ h => nomatch h

theorem Loops.pwrBankClearCounters (c : Chan) : Loops.Statement (.pwrBankClearCounters c) := fun _ _ _ h => nomatch h

theorem Loops.ledgerAllowWrite (c : Chan) (v : W32) : Loops.Statement (.ledgerAllowWrite c v) := fun _ _ _ h => nomatch h

theorem Loops.limiterWindow (c : Chan) (drawMw : Nat) : Loops.Statement (.limiterWindow c drawMw) := fun _ _ _ h => nomatch h

theorem Loops.sensorRead (readings : List (Nat × Int)) : Loops.Statement (.sensorRead readings) := fun _ _ _ h => nomatch h

theorem Loops.thermalTrip (sensor : Fin 2608) (reading : Int) : Loops.Statement (.thermalTrip sensor reading) := fun _ _ _ h => nomatch h

theorem Loops.thermStatClear : Loops.Statement (.thermStatClear) := fun _ _ _ h => nomatch h

theorem Loops.submit : Loops.Statement (.submit) := fun _ _ _ h => nomatch h

theorem Loops.debug : Loops.Statement (.debug) := fun _ _ _ h => nomatch h

theorem Loops.lifecycle (blows : List Bool) : Loops.Statement (.lifecycle blows) := fun _ _ _ h => nomatch h

theorem Loops.revoke (blows : List Bool) : Loops.Statement (.revoke blows) := fun _ _ _ h => nomatch h

theorem Loops.secver (blows : List Bool) : Loops.Statement (.secver blows) := fun _ _ _ h => nomatch h

theorem Loops.owner (blows : List Bool) : Loops.Statement (.owner blows) := fun _ _ _ h => nomatch h

theorem Loops.challenge : Loops.Statement (.challenge) := fun _ _ _ h => nomatch h

theorem Loops.attestGo : Loops.Statement (.attestGo) := fun _ _ _ h => nomatch h

theorem Loops.reportSigned : Loops.Statement (.reportSigned) := fun _ _ _ h => nomatch h

theorem Loops.sessionKeyGenerated (blows : List Bool) : Loops.Statement (.sessionKeyGenerated blows) := fun _ _ _ h => nomatch h

theorem Loops.relock : Loops.Statement (.relock) := fun _ _ _ h => nomatch h

theorem Loops.bypass (tdi : List Bool) : Loops.Statement (.bypass tdi) := fun _ _ _ h => nomatch h

theorem Loops.idcode : Loops.Statement (.idcode) := fun _ _ _ h => nomatch h

theorem Loops.extest (tdi : List Bool) : Loops.Statement (.extest tdi) := fun _ _ _ h => nomatch h

theorem Loops.samplePreload (tdi : List Bool) : Loops.Statement (.samplePreload tdi) := fun _ _ _ h => nomatch h

theorem Loops.tapTokenLoad (off : Nat) (bytes : List Byte) : Loops.Statement (.tapTokenLoad off bytes) := fun _ _ _ h => nomatch h

theorem Loops.dbgObserve (addr : HostAddr) : Loops.Statement (.dbgObserve addr) := fun _ _ _ h => nomatch h

theorem Loops.dbgAccess (a : DbgOp) : Loops.Statement (.dbgAccess a) := fun _ _ _ h => nomatch h

theorem Loops.dbgScan (d : Domain) (tdi : List Bool) : Loops.Statement (.dbgScan d tdi) := fun _ _ _ h => nomatch h

theorem Loops.porstNAssert (aonCycles : Nat) : Loops.Statement (.porstNAssert aonCycles) := fun _ _ _ h => nomatch h

theorem Loops.warmrstNAssert (aonCycles : Nat) : Loops.Statement (.warmrstNAssert aonCycles) := fun _ _ _ h => nomatch h

theorem Loops.boot (env : BootEnv) : Loops.Statement (.boot env) := fun _ _ _ h => nomatch h

theorem Loops.refclkLoss : Loops.Statement (.refclkLoss) := fun _ _ _ h => nomatch h

theorem Loops.modulePowerOff : Loops.Statement (.modulePowerOff) := fun _ _ _ h => nomatch h

theorem Loops.inputStageCharged : Loops.Statement (.inputStageCharged) := fun _ _ _ h => nomatch h

theorem Loops.startLink : Loops.Statement (.startLink) := fun _ _ _ h => nomatch h

theorem Loops.bootGo : Loops.Statement (.bootGo) := fun _ _ _ h => nomatch h

theorem Loops.recover (key : W16) : Loops.Statement (.recover key) := fun _ _ _ h => nomatch h

theorem Loops.abandon : Loops.Statement (.abandon) := fun _ _ _ h => nomatch h

theorem Loops.loadTimeout : Loops.Statement (.loadTimeout) := fun _ _ _ h => nomatch h

theorem Loops.firmwareVerified : Loops.Statement (.firmwareVerified) := fun _ _ _ h => nomatch h

theorem Loops.mgmtWatchdogExpire : Loops.Statement (.mgmtWatchdogExpire) := fun _ _ _ h => nomatch h

theorem Loops.shedMeasure (busyPct : Nat) : Loops.Statement (.shedMeasure busyPct) := fun _ _ _ h => nomatch h

theorem Loops.repairRecord (kind : RepairKind) (c : Chan) (b : BankIx) (target : W16) : Loops.Statement (.repairRecord kind c b target) := fun _ _ _ h => nomatch h

theorem Loops.getBootStatus (pec : Bool) : Loops.Statement (.getBootStatus pec) := fun _ _ _ h => nomatch h

theorem Loops.fwBegin (pec : Bool) : Loops.Statement (.fwBegin pec) := fun _ _ _ h => nomatch h

theorem Loops.fwChunk (pec : Bool) (off : W32) (bytes : List Byte) : Loops.Statement (.fwChunk pec off bytes) := fun _ _ _ h => nomatch h

theorem Loops.fwEnd (pec : Bool) : Loops.Statement (.fwEnd pec) := fun _ _ _ h => nomatch h

theorem Loops.getChallenge (pec : Bool) : Loops.Statement (.getChallenge pec) := fun _ _ _ h => nomatch h

theorem Loops.tokenLoad (pec : Bool) (off : W16) (bytes : List Byte) : Loops.Statement (.tokenLoad pec off bytes) := fun _ _ _ h => nomatch h

theorem Loops.tokenSubmit (pec : Bool) : Loops.Statement (.tokenSubmit pec) := fun _ _ _ h => nomatch h

theorem Loops.attest (pec : Bool) (nonce : List Byte) : Loops.Statement (.attest pec nonce) := fun _ _ _ h => nomatch h

theorem Loops.attestRead (pec : Bool) (off : W16) (len : Nat) : Loops.Statement (.attestRead pec off len) := fun _ _ _ h => nomatch h

theorem Loops.errlogRead (pec : Bool) (first : Byte) (count : Nat) : Loops.Statement (.errlogRead pec first count) := fun _ _ _ h => nomatch h

theorem Loops.darnRead (pec : Bool) (c : W16) : Loops.Statement (.darnRead pec c) := fun _ _ _ h => nomatch h

theorem Loops.traceRead (pec : Bool) (first : W16) (count : Nat) : Loops.Statement (.traceRead pec first count) := fun _ _ _ h => nomatch h

theorem Loops.setEndpointId (pec : Bool) (eid : Byte) : Loops.Statement (.setEndpointId pec eid) := fun _ _ _ h => nomatch h

theorem Loops.getEndpointId (pec : Bool) : Loops.Statement (.getEndpointId pec) := fun _ _ _ h => nomatch h

theorem Loops.getMctpVersionSupport (pec : Bool) (msgType : Byte) : Loops.Statement (.getMctpVersionSupport pec msgType) := fun _ _ _ h => nomatch h

theorem Loops.getMessageTypeSupport (pec : Bool) : Loops.Statement (.getMessageTypeSupport pec) := fun _ _ _ h => nomatch h

theorem Loops.getVendorMessageSupport (pec : Bool) : Loops.Statement (.getVendorMessageSupport pec) := fun _ _ _ h => nomatch h

theorem Loops.getSensorReading (pec : Bool) (sensor : PldmSensor) : Loops.Statement (.getSensorReading pec sensor) := fun _ _ _ h => nomatch h

theorem Loops.platformEventMessage (bit : Fin 13) : Loops.Statement (.platformEventMessage bit) := fun _ _ _ h => nomatch h

theorem Loops.dramSelfRefreshTick (c : Chan) : Loops.Statement (.dramSelfRefreshTick c) := fun _ _ _ h => nomatch h

theorem Loops.refclkRunsAgain (us : Nat) : Loops.Statement (.refclkRunsAgain us) := fun _ _ _ h => nomatch h

theorem Loops.vaonApplied : Loops.Statement (.vaonApplied) := fun _ _ _ h => nomatch h

theorem Loops.vaonRemoved : Loops.Statement (.vaonRemoved) := fun _ _ _ h => nomatch h

theorem Loops.trstNAssert : Loops.Statement (.trstNAssert) := fun _ _ _ h => nomatch h

end Sys2Proof.Laws
end

