-- ==== Sys2Proof/Tests/Slice0.lean ====
section
/-! SUPPORT. Small checks: ill-formed operands refused, one or two steps per family on small states, and states that meet the hypotheses of the
statements. Expected values come from the rules each name or comment cites. -/

namespace Sys2Proof.Tests

set_option Elab.async false

open Sys2Proof Sys2Proof.Machine

/-! ## Well-formedness: each check refuses an ill-formed term -/

def one : Loop := ⟨[.lit 1]⟩
def at0 (k : Fin 32768) : ScrOperand := { base := ⟨0, k⟩, queue := 0, qlevel := 0, strides := [], tile := none }
def mv : BxMove := { dreg := 1, doff := 0, dstrides := [], scr := at0 0, wcode := 4, lp := one }
def mma : MmaOp := { a := at0 0, b := at0 256, s := at0 512, lp := one, fa := .fp32, fb := .fp32, sa := false, sb := false, shape := .s4x4, accBase := 0, ars := 64, brs := 64, sparse := false }
def rnd : RoundOp := { d := at0 1024, lp := one, shape := .s4x4, accBase := 0, fmt := .fp32, sat := false, adj := 0, drs := 16, clear := false }
def noRed : RedSet := ⟨.none, .x, false⟩
def run : VxRun := { n := .lit 1, x := at0 0, y := at0 64, d := at0 128, lp := one, fx := .fp32, fy := .fp32, fd := .fp32, xs := 1, ys := 1, ds := 1, xScaled := false, stages := [⟨.add, .fp32, .x, .y, .zero, 0⟩], out := some 0, red := [noRed, noRed, noRed, noRed] }

theorem wf_accepts : (Instr.bxLd 0 mv).wf = true ∧ (Instr.mxMma 0 mma none).wf = true ∧ (Instr.mxRound 0 rnd none).wf = true ∧ (Instr.vxRun 0 run none).wf = true := by decide

/-- 03 R81, R95, 04 R118: payloads of another length than their carrier's. -/
theorem wf_refuses_payloads : (Instr.downstreamFlit 0 0 []).wf = false ∧ (Instr.trainingSetReceive 0 [] [] 0).wf = false ∧ (Instr.write 0 0 0 0 [] 0).wf = false := by decide

/-- 06 R186, R197: seven levels, a stride out of range, a tile buffer on BX, a level the nest does not have. -/
theorem wf_refuses_moves : (Instr.bxLd 0 { mv with lp := ⟨List.replicate 7 (.lit 1)⟩ }).wf = false ∧ (Instr.bxLd 0 { mv with dstrides := [2147483648] }).wf = false
    ∧ (Instr.bxSt 0 { mv with scr := { at0 0 with tile := some 0 } } none).wf = false ∧ (Instr.bxSt 0 { mv with scr := { at0 0 with qlevel := 1 } } none).wf = false
    ∧ (Instr.bxSt 0 { mv with lp := ⟨[.lit 0]⟩ } none).wf = false := by decide

/-- 07 R212, Tables 3 to 5. -/
theorem wf_refuses_matrix : (Instr.mxMma 0 { mma with fa := .fp16 } none).wf = false ∧ (Instr.mxMma 0 { mma with sa := true } none).wf = false ∧ (Instr.mxMma 0 { mma with sparse := true } none).wf = false
    ∧ (Instr.mxRound 0 { rnd with fmt := .fp64 } none).wf = false ∧ (Instr.mxRound 0 { rnd with adj := 64 } none).wf = false ∧ (Instr.mxZero 0 0 0 one).wf = false
    ∧ (Instr.mxPstore 0 (at0 0) (at0 0) one 0 0 false none).wf = false ∧ (Instr.mxPload 0 { at0 0 with tile := some 1 } (at0 0) one 0 1 none).wf = false := by decide

/-- 08 Tables 1 to 4, R223, R231, R238. -/
theorem wf_refuses_vector : (Instr.vxRun 0 { run with stages := [] } none).wf = false ∧ (Instr.vxRun 0 { run with stages := [⟨.and, .fp32, .x, .y, .zero, 0⟩] } none).wf = false
    ∧ (Instr.vxRun 0 { run with stages := [⟨.add, .fp32, .x, .t 3, .zero, 0⟩] } none).wf = false ∧ (Instr.vxRun 0 { run with out := some 5 } none).wf = false
    ∧ (Instr.vxRun 0 { run with n := .lit 8193 } none).wf = false ∧ (Instr.vxRun 0 { run with stages := [⟨.add, .fp32, .x, .y, .zero, 0⟩, ⟨.add, .fp64, .x, .y, .zero, 1⟩] } none).wf = false
    ∧ (Instr.vxRun 0 { run with red := [⟨.sum, .t 4, false⟩, noRed, noRed, noRed] } none).wf = false ∧ (Instr.vxKset 0 0 0 .fp64 one).wf = false
    ∧ (Instr.vxTtr 0 0 0 1 one none).wf = false ∧ (Instr.vxTtr 0 0 1 3 one none).wf = false ∧ (Instr.vxTred 0 0 17 false .sum .fp32 .fp32 (at0 0) one none).wf = false
    ∧ (Instr.vxQblk 0 (at0 0) (at0 0) (at0 0) 0 .fp32 .e4m3 one none).wf = false := by decide

/-- 06 R188, R189, R191, R192, 10 R302. -/
theorem wf_refuses_control : (Instr.semSig 0 .mx 0 0).wf = false ∧ (Instr.semWait 0 .mx 0 0).wf = false ∧ (Instr.jmp 0 .cx 4).wf = false ∧ (Instr.brar 0 .cx 1 4).wf = false
    ∧ (Instr.bxSsig 0 0 (.imm 0)).wf = false ∧ (Instr.bxSsub 0 0 (.imm 0)).wf = false ∧ (Instr.cxSumpop 0 28).wf = false ∧ (Instr.cxSumpop 0 0).wf = false ∧ (Instr.fetch 0 .mx [0] none).wf = false := by decide

/-! ## States -/

def next (r : Result) : State := match r with | .next t => t | _ => State.reset

/-- Channel 0 awake and ON, lane group 0 ACTIVE, port mode COMPUTE. -/
def ch0 : Channel := { Channel.zero with awake := true, pwr := { Channel.zero.pwr with pllOn := true } }
def up : State := { State.reset with
  pins := { Pins.initial with porstN := true }, link := { LinkSt.zero with groups := [(0, { LaneGroup.zero with state := .active })] }
  port := { PortSt.zero with compute := true }, chans := [(0, ch0)] }
def plain : State := { up with port := PortSt.zero }

/-- The LAYER of context record 0 that runs on slice 0, and its command. -/
def layer0 : LayerRun := ⟨0, 0, 5, 0, false, false, 0, []⟩
def cmd0 (ty : CmdType) : Cmd := { pos := 0, ring := 0, typ := ty, tag := 5, raw := [], desc := [], prov := [], skein := [], phase := .executing, todo := [], running := [0], finished := [], stopped := [], staging := [], charge := 0, lent := 0, hash := none, fault := none, stopReq := false, released := false, stopEvent := false, banks := [], nextItem := 0, pools := [] }
def ctx0 : Ctx := { Ctx.zero with state := .active, gen := 1, ringSlots := 4, cqEntries := 4, inflight := [cmd0 .layer] }

/-- Slice 0 with an operation of 4 bytes at the head of engine `e`'s queue. -/
def ready : EngineSt := { EngineSt.zero with state := .issuing, active := true, queue := [4, 4], hi := 64 }
def sl0 (e : Engine) (f : SliceSt → SliceSt) : State := { up with
  chans := [(0, { ch0 with ctxs := [(0, ctx0)] })]
  slices := [(0, f { SliceSt.zero with layer := some layer0, engines := [(engIx e, ready)] })] }

theorem witness_issues : ∀ e ∈ [Engine.mx, .vx, .bx, .cx], issues (sl0 e id) 0 e := by decide

/-! ## CX (06 Table 8) -/

def ring0_ : Ctx := { Ctx.zero with state := .active }
def regs (x : SliceSt) : SliceSt := { x with ars := [(1, 5), (2, 7), (3, 0x80000010)] }
def cx : State := sl0 .cx regs
def ar (i : Instr) (n : AReg) : W32 := ((next (exec i cx)).slice 0).ar n

theorem test_cx_arith : ar (.cxAdd 0 4 1 (.reg 2)) 4 = 12 ∧ ar (.cxAdd 0 1 1 (.imm 0xFFFF)) 1 = 4 ∧ ar (.cxSub 0 1 1 (.reg 2)) 1 = 0xFFFFFFFE ∧ ar (.cxLi 0 0 9) 0 = 0 := by decide
theorem test_cx_shifts : ar (.cxShl 0 4 1 (.imm 31)) 4 = 0x80000000 ∧ ar (.cxShr 0 4 3 (.imm 4)) 4 = 0x08000001 ∧ ar (.cxSar 0 4 3 (.imm 4)) 4 = 0xF8000001 := by decide
theorem test_cx_compare : ar (.cxCmp 0 .lts 4 3 (.reg 1)) 4 = 1 ∧ ar (.cxCmp 0 .ltu 4 3 (.reg 1)) 4 = 0 ∧ ar (.cxSel 0 4 0 1 2) 4 = 7 ∧ ar (.cxSel 0 4 1 1 2) 4 = 5 := by decide
theorem test_cx_skein : ((next (exec (.cxStp 0 63 2) cx)).slice 0).skeinW 63 = 7 ∧ ar (.cxLdp 0 4 63) 4 = 0 := by decide
theorem test_cx_summary : ((next (exec (.cxSumset 0 15 1) cx)).slice 0).summary = 0x8000 := by decide
theorem test_cx_branch : (((next (exec (.cxBr 0 (.zero 0) 12) cx)).slice 0).eng .cx).pc = 12 ∧ (((next (exec (.cxBr 0 (.nonzero 0) 12) cx)).slice 0).eng .cx).pc = 4 := by decide
theorem test_jump : (((next (exec (.jmp 0 .mx 20) (sl0 .mx regs))).slice 0).eng .mx).pc = 20 ∧ (((next (exec (.brar 0 .vx 0 20) (sl0 .vx regs))).slice 0).eng .vx).pc = 4
    ∧ (((next (exec (.jmp 0 .mx (-4)) (sl0 .mx regs))).slice 0).eng .mx).queue = [] := by decide
theorem test_nop : (((next (exec (.nop 0 .mx) (sl0 .mx id))).slice 0).eng .mx).queue = [4] := by decide

/-- 06 R192: at 255 a signal waits; a wait takes what it asks for. -/
theorem test_semaphores : ((next (exec (.semSig 0 .mx 3 255) (sl0 .mx id))).slice 0).sem 3 = 255
    ∧ (((next (exec (.semSig 0 .mx 3 1) (sl0 .mx (fun x => { x with sems := [(3, 255)] })))).slice 0).eng .mx).state = .semWait
    ∧ ((next (exec (.semWait 0 .mx 3 2) (sl0 .mx (fun x => { x with sems := [(3, 5)] })))).slice 0).sem 3 = 3
    ∧ (((next (exec (.semWait 0 .mx 3 6) (sl0 .mx (fun x => { x with sems := [(3, 5)] })))).slice 0).eng .mx).waitSem = some (3, 6) := by decide

/-- 06 R189. -/
theorem test_sumpop : ar (.cxSumpop 0 1) 1 = 5 ∧
    (let t := (next (exec (.cxSumpop 0 27) (sl0 .cx (fun x => { x with sems := [(15, 1)], sumQ := [⟨1, 2, 3, 4, 6⟩] })))).slice 0
     t.ar 27 = 1 ∧ t.ar 31 = 6 ∧ t.sumQ = [] ∧ t.sem 15 = 0 ∧ t.sem 14 = 1) := by decide

/-- 06 R175: the last END frees the slice and reports it. -/
theorem test_end : ((next (exec (.endOp 0 .mx) (sl0 .mx id))).slice 0).layer = none
    ∧ ((next (exec (.endOp 0 .mx) (sl0 .mx (fun x => { x with summary := 7 })))).cmd 0 0 0).map (·.finished) = some [(0, 7)] := by decide

/-- 06 R173, R178: a line not held is missed. -/
theorem test_fetch : (((next (exec (.fetch 0 .mx [8] none) (sl0 .mx id))).slice 0).eng .mx).miss = some 0
    ∧ (((next (exec (.fetch 0 .mx [8] none) (sl0 .mx (fun x => { x with icache := [⟨0, false⟩] })))).slice 0).eng .mx).queue = [4, 4, 8] := by decide

/-! ## MX and VX -/

/-- 07 R204: 2 x 3 into accumulator 0 and out again. -/
theorem test_mma : (let s := sl0 .mx (fun x => { x with scratch := wrL (wrL [] 0 (leBytes 4 0x40000000)) 256 (leBytes 4 0x40400000) })
    let t := next (exec (.mxMma 0 mma none) s)
    rdN ((next (exec (.mxRound 0 rnd none) t)).slice 0).scratch 1024 4 = leBytes 4 0x40C00000) := by decide +kernel

/-- 08 R220: one element, X + Y. -/
theorem test_vxRun : (let s := sl0 .vx (fun x => { x with scratch := wrL (wrL [] 0 (leBytes 4 0x3F800000)) 64 (leBytes 4 0x40000000) })
    rdN ((next (exec (.vxRun 0 run none) s)).slice 0).scratch 128 4 = leBytes 4 0x40400000) := by decide +kernel

/-! ## Witnesses: slices -/

/-- The least and the greatest count a signal adds, a wait that meets its count exactly, and one short by 1. -/
theorem witness_semaphores : issues (sl0 .mx id) 0 .mx ∧ ((sl0 .mx id).slice 0).sem 3 + 255 ≤ 255
    ∧ (let s := sl0 .mx (fun x => { x with sems := [(3, 255), (4, 2)] })
       issues s 0 .mx ∧ 255 < (s.slice 0).sem 3 + 1 ∧ 2 ≤ (s.slice 0).sem 4 ∧ (s.slice 0).sem 4 < 3) := by decide

theorem witness_no_earlier (s : State) (sl : SliceId) (k : Nat) : ¬ earlierReleased s sl .mx k := by
  rintro ⟨f, m, h, _⟩
  cases f <;> simp [engIx] at h

theorem witness_no_earlier_cx : ¬ earlierReleased (sl0 .cx id) 0 .cx 15 := by
  rintro ⟨f, m, _, h, _⟩
  cases f <;> revert h <;> decide

theorem witness_earlier : earlierReleased (sl0 .vx (fun x => { x with sems := [(3, 4)], engines := tput x.engines 0 { ready with state := .semWait, waitSem := some (3, 4) } })) 0 .vx 3 :=
  ⟨.mx, 4, by decide, by decide, ⟨3, by decide, by decide⟩, by decide⟩

theorem witness_sumpop : (let s := sl0 .cx (fun x => { x with sems := [(15, 1)], sumQ := [⟨1, 2, 3, 4, 6⟩] })
    issues s 0 .cx ∧ 1 ≤ (s.slice 0).sem 15 ∧ (s.slice 0).sem 14 < 255 ∧ (s.slice 0).sumQ = [⟨1, 2, 3, 4, 6⟩]) ∧ 255 ≤ ((sl0 .cx (fun x => { x with sems := [(14, 255)] })).slice 0).sem 14 ∧ issues (sl0 .cx id) 0 .cx ∧ ((sl0 .cx id).slice 0).sem 15 = 0 := by decide

theorem witness_jump_tests : arAtIssue (sl0 .mx regs) 0 .mx 1 ≠ 0 ∧ arAtIssue (sl0 .mx regs) 0 .mx 0 = 0 ∧ (cx.slice 0).ar 0 = 0 ∧ (cx.slice 0).ar 1 ≠ 0 := by decide

theorem witness_end_others : (let s := sl0 .mx (fun x => { x with engines := tput x.engines 3 ready })
    issues s 0 .mx ∧ (s.slice 0).layer = some layer0 ∧ ((s.slice 0).eng .cx).active = true) := by decide

theorem witness_end_alone : ∀ k, k ≠ Engine.mx → (((sl0 .mx id).slice 0).eng k).active = false := by
  intro k h
  cases k
  · exact absurd rfl h
  · decide
  · decide
  · decide

/-- A line held, in a LAYER that is not strict. -/
theorem witness_fetch_held : (let x := (sl0 .mx (fun x => { x with icache := [⟨0, true⟩] })).slice 0
    x.fetchTurn = some (engIx .mx) ∧ x.heldByDebug = false ∧ x.stopReq = false ∧ (x.eng .mx).lo ≤ (x.eng .mx).pc.toNat ∧ (x.eng .mx).pc.toNat < (x.eng .mx).hi
      ∧ (x.eng .mx).queue.length + 1 ≤ 16 ∧ x.holds 0 = true ∧ ((x.eng .mx).fetchAt + [8].sum - 1) / 64 = 0) := by decide

/-- A line missed, not strict and strict. -/
theorem witness_fetch_missed : ((sl0 .mx id).slice 0).holds 0 = false ∧ layer0.strict = false
    ∧ ((sl0 .mx (fun x => { x with layer := some { layer0 with strict := true } })).slice 0).icache = [] := by decide

theorem witness_miss_page : (cx.chan (slChan 0)).mapped (7 / 64) = false ∧ ({ Channel.zero with ctxs := [(0, { ring0_ with pageFirst := 0, pageCount := 1 })] } : Channel).mapped (7 / 64) = true := by decide
theorem witness_miss_return : (((sl0 .mx (fun x => { x with engines := [(0, { ready with miss := some 7 })] })).slice 0).eng .mx).miss = some 7 := by decide

/-! ## Contexts and commands (05) -/

def word (n v : Nat) : List Byte := leBytes n v
/-- A command of two slots of type `ty` with the given body, tag 0x77, as announced on lap 0. -/
def raw2 (ty body : Nat) : List Byte := word 4 (ty + 0x20) ++ word 4 0x77 ++ word 24 0 ++ word 24 body ++ word 8 (1 + 2 ^ 32 * 0x77)

/-- Context record 0 of channel 0 with a ring of 4 slots and a completion ring of 4 entries behind it. -/
def ring0 : Ctx := { Ctx.zero with state := .active, gen := 1, ringSlots := 4, cqBase := 4, cqEntries := 4 }
def withCtx (x : Ctx) : State := { up with chans := [(0, { ch0 with ctxs := [(0, x)] })] }
def withBuf (x : Ctx) (bs : List Byte) : State := { up with chans := [(0, { ch0 with ctxs := [(0, x)], cmdBuf := wrL [] 0 bs })] }

/-- 05 R150: a producer within the ring, one that passes it, one that moves back. -/
theorem test_doorbell : ((next (exec (.doorbell 0 0 4) (withCtx ring0))).ctx 0 0).prod = 4
    ∧ ((next (exec (.doorbell 0 0 5) (withCtx ring0))).ctx 0 0).overruns = 1 ∧ ((next (exec (.doorbell 0 0 5) (withCtx ring0))).ctx 0 0).lastCause = 0x11
    ∧ ((next (exec (.doorbell 0 0 1) (withCtx { ring0 with prod := 2 }))).ctx 0 0).overruns = 1 := by decide +kernel

theorem test_ring_registers : (let t := next (exec (.dbRingWrite 0 0 0x00004003) (withCtx { ring0 with state := .free })); (t.ctx 0 0).ringBase = 3 ∧ (t.ctx 0 0).ringSlots = 4)
    ∧ (let t := next (exec (.dbRingWrite 0 0 0x00008003) (withCtx ring0)); (t.ctx 0 0).ringSlots = 4)
    ∧ ((next (exec (.cqHeadWrite 0 0 1) (withCtx { ring0 with cqTail := 2 }))).ctx 0 0).cqHead = 1 := by decide +kernel

theorem witness_doorbell : up.reached = true ∧ up.winStatus (.chan 0) = .ok ∧ (let x := ring0; (4 ≠ x.prod ∧ 4 < 2 * x.ringSlots ∧ ahead 4 x.cons 8 ≤ 4 ∧ ahead x.prod x.cons 8 ≤ ahead 4 x.cons 8) ∧ x.ringSlots < ahead 5 x.cons 8 ∧ 0 = x.prod)
    ∧ ring0.state ≠ .free ∧ 2 ≤ ring0.cqEntries ∧ ring0.cqEntries ≤ 1024 ∧ ahead 4 0 8 ≤ ring0.cqEntries ∧ ring0.cqEntries < ahead 0 3 8 := by decide +kernel

/-- 05 R149, R151: a FENCE read whole, and one whose phase word is not yet written. -/
theorem test_command_read : (let t := next (exec (.commandRead 0 0 none) (withBuf { ring0 with prod := 2 } (raw2 9 2))); (t.ctx 0 0).fetched = some ⟨0, raw2 9 2, false, 0⟩)
    ∧ (let t := next (exec (.commandRead 0 0 none) (withBuf { ring0 with prod := 2 } ((raw2 9 2).take 56))); ((t.ctx 0 0).fetched.map (·.torn)) = some true) := by decide +kernel

def fetched9 : Fetched := ⟨0, raw2 9 2, false, 0⟩
def torn9 : Fetched := ⟨0, raw2 9 2, true, 0⟩
def late (s : State) : State := { s with refCount := usRef 2 }

theorem witness_command_read : (let s := withBuf { ring0 with prod := 2 } (raw2 9 2)
    (s.chan 0).runs = true ∧ (s.ctx 0 0).dispatches = true ∧ (s.ctx 0 0).fetched = none ∧ 2 ≤ ahead (s.ctx 0 0).prod (s.ctx 0 0).cons 8 ∧ (s.ctx 0 0).covers = []) := by decide +kernel
/-- At 2 µs exactly the command is torn for good; before, it is read again. -/
theorem witness_torn : (let s := late (withBuf { ring0 with prod := 2, fetched := some torn9 } [])
    torn9.firstRead + usRef 2 ≤ s.refCount ∧ (s.ctx 0 0).dispatches = true ∧ (s.chan 0).runs = true ∧ 2 ≤ (s.ctx 0 0).cqFree ∧ (s.ctx 0 0).state ≠ .free)
    ∧ (withBuf { ring0 with prod := 2, fetched := some torn9 } []).refCount < torn9.firstRead + usRef 2 := by decide +kernel
theorem test_torn : (let t := next (exec (.tornCommand 0 0) (late (withBuf { ring0 with prod := 2, fetched := some torn9 } [])))
    (t.ctx 0 0).state = .halted ∧ (t.ctx 0 0).cons = 2 ∧ (t.ctx 0 0).torn = 1 ∧ rdN (t.chan 0).cmdBuf (4 * 32 + 4) 2 = [0x9C#8, 0x10#8]) := by decide +kernel

/-- 05 R155: a FENCE is admitted; a command of type 0 is malformed; a LAYER in a FREE record is refused under rule 2. -/
theorem test_dispatch : (let t := next (exec (.dispatch 0 0 none) (withCtx { ring0 with prod := 2, fetched := some fetched9 })); (t.ctx 0 0).cons = 2 ∧ (t.ctx 0 0).inflight.map (·.typ) = [.fence])
    ∧ (withCtx ring0).verdict 0 0 (raw2 0 0) = .refuse 1 ∧ (withCtx { ring0 with state := .free }).verdict 0 0 (raw2 9 2) = .refuse 2 := by decide +kernel
/-- A FENCE whose predicate asks for bit 0 of the summary of the command before it, of which there is none. -/
def skipped9 : List Byte := word 4 (9 + 0x20) ++ word 4 0x77 ++ word 8 2 ++ word 16 0 ++ word 24 2 ++ word 8 (1 + 2 ^ 32 * 0x77)
theorem witness_dispatch : (let s := withCtx { ring0 with prod := 2, fetched := some fetched9 }
    mayDispatch s 0 0 fetched9 ∧ (atVerdict s 0 0 fetched9).verdict 0 0 fetched9.raw = .accept .fence [] [] ∧ workSlices 0 .fence fetched9.raw = [] ∧ s.charged 0 + s.classMw (powerClass fetched9.raw) ≤ s.effective 0)
    ∧ (let f : Fetched := ⟨0, raw2 0 0, false, 0⟩
       let s := withCtx { ring0 with prod := 2, fetched := some f }
       mayDispatch s 0 0 f ∧ (atVerdict s 0 0 f).verdict 0 0 f.raw = .refuse 1 ∧ (s.ctx 0 0).state ≠ .free ∧ 2 ≤ (s.ctx 0 0).cqEntries)
    ∧ (let f : Fetched := ⟨0, skipped9, false, 0⟩
       let s := withCtx { ring0 with prod := 2, fetched := some f }
       mayDispatch s 0 0 f ∧ (atVerdict s 0 0 f).verdict 0 0 f.raw = .skip) := by decide +kernel

/-- A FENCE that is skipped: PRED on summary bit 0 of a register that reads 0. -/
def inFlight (ty : CmdType) (raw : List Byte) (ph : Phase) : Cmd := { cmd0 ty with tag := 0x77, raw := raw, phase := ph, running := [] }
def flying (ty : CmdType) (raw : List Byte) (ph : Phase) : State := withCtx { ring0 with inflight := [inFlight ty raw ph] }

theorem test_fence : ((next (exec (.fenceChannel 0 0 0) (flying .fence (raw2 9 2) .dispatched))).cmd 0 0 0).map (·.phase) = some .finished
    ∧ ((next (exec (.hintRowOpen 0 0 0) (flying .hint (raw2 13 1) .dispatched))).cmd 0 0 0).map (·.phase) = some .finished
    ∧ ((next (exec (.hintCodePrefetch 0 0 0) (flying .hint (raw2 13 0) .dispatched))).cmd 0 0 0).map (·.phase) = some .finished := by decide +kernel
theorem witness_sequencer_commands : (let s := flying .fence (raw2 9 3) .dispatched
    s.cmd 0 0 0 = some (inFlight .fence (raw2 9 3) .dispatched) ∧ (s.ctx 0 0).oldest (inFlight .fence (raw2 9 3) .dispatched) = true ∧ s.linkClear 0 = true)
    ∧ ((withCtx { ring0 with chanCount := 1 }).ctx 0 0).vobj 0 0 = some (.chan 0 0) := by decide +kernel

theorem test_castOn_bindOff : (let t := next (exec (.castOn 0 0) (withCtx { ring0 with state := .free, inflight := [inFlight .castOn (raw2 1 1) .dispatched] })); (t.ctx 0 0).state = .active ∧ (t.ctx 0 0).gen = 2 ∧ (t.ctx 0 0).sliceSet = 1)
    ∧ (let t := next (exec (.bindOff 0 0) (withCtx { ring0 with state := .binding, sliceSet := 0x00010080, inflight := [inFlight .bindOff (raw2 12 0) .dispatched] })); (t.ctx 0 0).sliceSet = 0) := by decide +kernel
theorem witness_contexts : ((withCtx { ring0 with state := .free, inflight := [inFlight .castOn (raw2 1 1) .dispatched] }).ctx 0 0).inflight = [inFlight .castOn (raw2 1 1) .dispatched] := by decide +kernel

/-- 05 R160: a record of a finished FENCE at cq_tail. -/
theorem test_completion : (let t := next (exec (.completion 0 0 0) (flying .fence (raw2 9 2) .finished)); (t.ctx 0 0).inflight = [] ∧ (t.ctx 0 0).cqTail = 1 ∧ rdN (t.chan 0).cmdBuf 128 5 = [0x77#8, 0, 0, 0, 0x98#8]) := by decide +kernel
def faulted : Cmd := { inFlight .fence (raw2 9 2) .executing with fault := some ⟨0x21, 0, .bx, 0⟩ }
theorem witness_completion : (let s := flying .fence (raw2 9 2) .finished
    s.drained 0 0 0 = true ∧ (s.chan 0).runs = true ∧ 2 ≤ (s.ctx 0 0).cqEntries ∧ (s.ctx 0 0).state = .active ∧ sound (inFlight .fence (raw2 9 2) .finished))
    ∧ (let s := withCtx { ring0 with inflight := [faulted] }; s.drained 0 0 0 = true ∧ s.cmd 0 0 0 = some faulted ∧ faulted.fault = some ⟨0x21, 0, .bx, 0⟩)
    ∧ (let m := inFlight .bindOff (raw2 12 0) .finished; let s := withCtx { ring0 with state := .binding, inflight := [m] }; s.drained 0 0 0 = true ∧ (s.ctx 0 0).inflight = [m] ∧ sound m) := by decide +kernel

/-- 05 R164: an ABORT found ahead, a watchdog whose time is up. -/
def abortRing : State := withBuf { ring0 with prod := 2 } (raw2 11 0)
theorem witness_abort : (let u := abortRing.scanHeaders 0 0; (u.ctx 0 0).found = [0] ∧ (u.ctx 0 0).state = .active)
    ∧ (let s := { withCtx { ring0 with prod := 2, watchdogMs := 1 } with refCount := 156250 }
       (s.ctx 0 0).state = .active ∧ (s.ctx 0 0).announced ≠ 0 ∧ (s.ctx 0 0).watchdogStart + (s.ctx 0 0).watchdogMs * 156250 ≤ s.refCount) := by decide +kernel
theorem test_abort : ((next (exec (.abort 0 0) abortRing)).ctx 0 0).state = .aborting ∧ ((next (exec (.abort 0 0) abortRing)).ctx 0 0).cons = 2
    ∧ ((next (exec (.watchdogFire 0 0) { withCtx { ring0 with prod := 2, watchdogMs := 1 } with refCount := 156250 })).ctx 0 0).state = .aborting := by decide +kernel
def ab0 (host : Bool) : AbortSt := ⟨0x30, host, 3, 0x77, 0x78, 2, 1, []⟩
def asked : Cmd := { inFlight .layer (raw2 2 0) .executing with stopReq := true, stopped := [0] }
theorem witness_abort_ends : (let s := withCtx { ring0 with state := .aborting, abort := some (ab0 true) }; (s.ctx 0 0).inflight = [] ∧ s.ctxDrained 0 0 = true ∧ (s.ctx 0 0).abort = some (ab0 true))
    ∧ (let s := withCtx { ring0 with state := .aborting, inflight := [asked] }; s.cmd 0 0 0 = some asked ∧ asked.stopped ≠ [] ∧ asked.todo = [] ∧ asked.running = []) := by decide +kernel
theorem test_abort_ends : ((next (exec (.abortSlack 0 0) (withCtx { ring0 with state := .aborting, abort := some (ab0 true) }))).ctx 0 0).state = .slack
    ∧ ((next (exec (.abortSlack 0 0) (withCtx { ring0 with state := .aborting, abort := some (ab0 false) }))).ctx 0 0).state = .halted
    ∧ ((next (exec (.stopEvent 0 0 0) (withCtx { ring0 with state := .aborting, inflight := [asked] }))).cmd 0 0 0).map (·.stopEvent) = some true
    ∧ (next (exec (.codeBusyClear 0) up)).reached = true := by decide +kernel

/-! ## Work on slices -/

/-- A command of slice 0 of channel 0 at its turn. -/
def onSlice0 (ty : CmdType) (raw desc : List Byte) (ph : Phase) (f : Cmd → Cmd) : State := { up with
  chans := [(0, { ch0 with ctxs := [(0, { ring0 with sliceSet := 0x00010080, inflight := [f { cmd0 ty with raw := raw, desc := desc, phase := ph, todo := [0], running := [] }] })] })]
  slices := [(0, { SliceSt.zero with work := [⟨0, 0⟩] })] }
/-- Bank 0, one bank, slice 0. -/
def sel0 : Nat := 0x00010080
/-- A tensor record at `base` of `n` points of 4 bytes, in the scratchpad or in data space. -/
def trec (base n : Nat) (scr : Bool) : List Byte := word 8 (base + (if scr then 2 ^ 40 else 0) + 2 ^ 41 + 2 ^ 44) ++ word 8 (n + 4 * 2 ^ 24) ++ word 40 0
def fillDesc (scr : Bool) : List Byte := word 8 0 ++ word 8 0x11223344 ++ trec 64 2 scr
def copyDesc (srcScr dstScr staged : Bool) : List Byte :=
  word 8 (if staged then 1 + 2 ^ 24 else 0) ++ word 8 0 ++ word 8 0 ++ trec 0 2 srcScr ++ word 8 0 ++ word 40 0 ++ trec 128 2 dstScr
def gatherDesc (bal : Bool) : List Byte :=
  word 8 (if bal then 4 else 0) ++ word 8 (0 + 4 * 2 ^ 40) ++ word 8 4 ++ word 8 0 ++ word 8 (1 + 7 * 2 ^ 14 + 7 * 2 ^ 18 + 2 ^ 24) ++ word 8 1024 ++ word 8 (2 + 2 ^ 24 + 2 ^ 40) ++ word 8 2048 ++ word 8 4 ++ word 8 0

theorem test_fill : (let t := next (exec (.fill 0 0 0) (onSlice0 .fill (raw2 5 sel0) (fillDesc true) .dispatched id)); rdN (t.slice 0).scratch 64 8 = leBytes 4 0x11223344 ++ leBytes 4 0x11223344)
    ∧ (let t := next (exec (.fill 0 0 0) (onSlice0 .fill (raw2 5 sel0) (fillDesc false) .dispatched id)); rdN t.mem 64 8 = leBytes 4 0x11223344 ++ leBytes 4 0x11223344) := by decide +kernel
theorem test_copy : (let s := onSlice0 .copy (raw2 4 sel0) (copyDesc true false false) .dispatched id
    let t := next (exec (.copy 0 0 0) (s.modSlice 0 (fun x => { x with scratch := wrL [] 0 (leBytes 8 0x1122334455667788) }))); rdN t.mem 128 8 = leBytes 8 0x1122334455667788) := by decide +kernel
/-- 09 R257: slice 1 of the command has written bytes 128 to 135 already, so slice 0's points, of the lower ordinal, take no effect there. -/
def afterHigher : State := (onSlice0 .copy (raw2 4 0x00030080) (copyDesc true false false) .dispatched (fun m => { m with finished := [(1, 0)] })).modSlice 0
  (fun x => { x with scratch := wrL [] 0 (leBytes 8 0x1122334455667788) })
theorem test_copy_higher_ordinal_wins : (let t := next (exec (.copy 0 0 0) afterHigher); t.mem = afterHigher.mem ∧ (t.cmd 0 0 0).map (·.finished) = some [(1, 0), (0, 0)]) := by decide +kernel
/-- PATCH of one entry: word 3 under mask 0xFF, base 5, no step. -/
def rawPatch : List Byte := word 4 (3 + 0x30) ++ word 4 0x77 ++ word 24 0 ++ word 24 (sel0 + 2 ^ 32) ++ word 4 5 ++ word 4 0xFF ++ word 4 3 ++ word 4 0 ++ word 16 0 ++ word 8 (1 + 2 ^ 32 * 0x77)
theorem test_patch : ((next (exec (.patch 0 0 0) (onSlice0 .patch rawPatch [] .dispatched id))).slice 0).skeinW 3 = 5 := by decide +kernel

def fillCmd (scr : Bool) : Cmd := { cmd0 .fill with raw := raw2 5 sel0, desc := fillDesc scr, phase := .dispatched, todo := [0], running := [] }
def fillState : State := onSlice0 .fill (raw2 5 sel0) (fillDesc false) .dispatched id
theorem fill_cmd : fillState.cmd 0 0 0 = some (fillCmd false) := by decide +kernel
theorem fill_turn : fillState.turn 0 0 0 = true := by decide +kernel
theorem settled_if (s : State) (r : Rec) (pos : CmdNo) (sls : List SliceId) (h : s.chans.all (fun e => e.2.chk.resend = []) = true) : settled s 0 r pos sls := by
  intro e he q hq
  have := List.all_eq_true.mp h e he
  simp only [decide_eq_true_eq] at this
  rw [this] at hq
  cases hq
theorem witness_at_turn : atTurn fillState 0 0 0 (fillCmd false) .fill ∧ (fillCmd false).todo = [0] := by
  refine ⟨⟨fill_cmd, rfl, by decide, rfl, rfl, rfl, by decide, settled_if _ _ _ _ (by decide), ?_⟩, rfl⟩
  intro sl h
  cases List.mem_singleton.mp h
  exact fill_turn
def patchCmd : Cmd := { cmd0 .patch with raw := rawPatch, phase := .dispatched, todo := [0], running := [] }
def patchState : State := onSlice0 .patch rawPatch [] .dispatched id
theorem patch_cmd : patchState.cmd 0 0 0 = some patchCmd := by decide +kernel
theorem patch_turn : patchState.turn 0 0 0 = true := by decide +kernel
theorem patch_slot : bodyF patchCmd.raw 35 32 = 1 := by decide +kernel
theorem witness_patch_turn : atTurn patchState 0 0 0 patchCmd .patch ∧ bodyF patchCmd.raw 35 32 = 1 := by
  refine ⟨⟨patch_cmd, rfl, by decide, rfl, rfl, rfl, by decide, settled_if _ _ _ _ (by decide), ?_⟩, patch_slot⟩
  intro sl h
  cases List.mem_singleton.mp h
  exact patch_turn
theorem witness_fill : (∃ v d, parseDesc .fill (fillDesc true) = some (.fill v d) ∧ d.scr = true) ∧ ∃ v d, parseDesc .fill (fillDesc false) = some (.fill v d) ∧ d.scr = false :=
  ⟨⟨_, _, rfl, rfl⟩, _, _, rfl, rfl⟩
/-- The flags the copy's descriptor gives: staged, source and destination in the scratchpad. -/
def copyFlags (bs : List Byte) : Option (Bool × Bool × Bool) := match parseDesc .copy bs with | some (.copy d) => some (d.staged, d.src.scr, d.dst.scr) | _ => none
theorem witness_copy : copyFlags (copyDesc true false false) = some (false, true, false) ∧ copyFlags (copyDesc false true false) = some (false, false, true)
    ∧ copyFlags (copyDesc true true true) = some (true, true, true) := by decide +kernel
theorem witness_staged : (let m : Cmd := { cmd0 .copy with raw := raw2 4 sel0, desc := copyDesc true true true, phase := .staged, todo := [], running := [0], staging := [(0, [(128, [1#8])])] }
    (onSlice0 .copy (raw2 4 sel0) (copyDesc true true true) .staged (fun m => { m with todo := [], running := [0], staging := [(0, [(128, [1#8])])] })).cmd 0 0 0 = some m
    ∧ sound m ∧ m.staging = [(0, [(128, [1#8])])] ∧ selSlices 0 (cmdSel m.raw) = [0]) := by decide +kernel
theorem witness_gather : (∃ d, parseDesc .gather (gatherDesc true) = some (.gather d) ∧ d.balance = true ∧ d.outScr = false ∧ d.reduce = .none ∧ 1 < d.items ∧ d.items ≤ 2)
    ∧ (let s := onSlice0 .gather (raw2 6 sel0) (gatherDesc true) .dispatched id; ∃ m, s.cmd 0 0 0 = some m ∧ m.typ = .gather ∧ m.todo = [0] ∧ m.nextItem = 0) :=
  ⟨⟨_, rfl, rfl, rfl, rfl, by decide, by decide⟩, ⟨_, rfl, rfl, rfl, rfl⟩⟩

/-- No block of this data space is host-owned or fails its check, so every read and write of it is admitted. -/
theorem witness_all_good : allGood up := by
  intro b
  refine ⟨?_, ?_⟩
  · simp [State.hostOwned, State.win, up, State.reset, PortSt.zero, tget, bitAt]
    decide
  · simp [State.failing, State.diff, up, State.reset, tget]

/-- A LAYER at its dispatch, with no words inline, and a suspended one whose wait is over. -/
theorem witness_layer : (let s := onSlice0 .layer (raw2 2 sel0) [] .dispatched id; ∃ m, s.cmd 0 0 0 = some m ∧ m.typ = .layer ∧ m.phase = .dispatched ∧ sound m ∧ bodyF m.raw 44 44 = 0 ∧ bodyF m.raw 57 51 = 0) :=
  ⟨_, rfl, rfl, rfl, by decide, by decide +kernel, by decide +kernel⟩
theorem test_layer : ((next (exec (.layer 0 0 0) (onSlice0 .layer (raw2 2 sel0) [] .dispatched id))).cmd 0 0 0).map (·.phase) = some .executing := by decide +kernel
def shadow0 : Shadow := ⟨layer0, [(0, ready)], [], 0, [], [], [], [], .none, true⟩
theorem witness_resume : (let s := { up with chans := [(0, { ch0 with ctxs := [(0, ctx0)] })], slices := [(0, { SliceSt.zero with shadow := some shadow0 })] }
    (s.slice 0).shadow = some shadow0 ∧ shadow0.satisfied = true ∧ s.asked 0 0 0 = false ∧ (s.slice 0).layer = none) := by decide +kernel
theorem witness_stop : (let s := sl0 .mx (fun x => { x with stopReq := true }); (s.slice 0).layer = some layer0 ∧ s.cmd 0 0 0 = some (cmd0 .layer) ∧ (s.slice 0).bxWait ≠ .result)
    ∧ ((sl0 .mx (fun x => { x with stopReq := true, bxWait := .result })).slice 0).bxWait = .result := by decide +kernel
theorem test_stop_and_resume : ((next (exec (.sliceStop 0) (sl0 .mx (fun x => { x with stopReq := true })))).slice 0).layer = none
    ∧ ((next (exec (.resume 0) { up with chans := [(0, { ch0 with ctxs := [(0, ctx0)] })], slices := [(0, { SliceSt.zero with shadow := some shadow0 })] })).slice 0).layer = some layer0 := by decide +kernel
/-- A long wait at exactly its time, with another context's LAYER ready. -/
def cmdB : Cmd := { cmd0 .layer with todo := [0], running := [] }
def longState : State := { up with
  refCount := usRef 50, chans := [(0, { ch0 with ctxs := [(0, ctx0), (1, { ctx0 with inflight := [cmdB] })] })]
  slices := [(0, { SliceSt.zero with layer := some layer0, work := [⟨0, 0⟩, ⟨1, 0⟩], engines := [(2, { ready with state := .semWait })], waitUs := 50, bxWait := .bar (.chan 0 0) })] }
theorem witness_deschedule : (let x := longState.slice 0
    longState.otherLayer 0 layer0 = some (⟨1, 0⟩, cmdB) ∧ x.shadow = none ∧ longState.waitsLong 0 = true ∧ longState.bankReady 0 = true) := by decide +kernel
theorem test_deschedule : ((next (exec (.deschedule 0) longState)).slice 0).shadow.isSome = true ∧ ((next (exec (.deschedule 0) longState)).chan 0).descheds = 1 := by decide +kernel

/-! ## Engines: loops, alignment, faults -/

/-- A nest of one level and one iteration, operands aligned and within the scratchpad. -/
theorem witness_loops (e : Engine) : loops (sl0 e id) 0 e one := by
  refine ⟨by cases e <;> decide, by cases e <;> decide, by cases e <;> decide, ?_⟩
  intro l h
  have : l = layer0 := by cases e <;> (injection h with h; exact h.symm)
  subst this
  cases e <;> decide
theorem witness_matrix : mma.ok = true ∧ rnd.ok = true ∧ rnd.accBase + 16 ≤ 32 ∧ accBaseOk .s4x4 0 = true ∧ accBaseOk .s4x4 16 = true ∧ mma.accBase + 16 ≤ 32 ∧ alignedAt (sl0 .mx id) 0 .mx 16 mma.a ∧ (0 : Fin 32).val + 32 ≤ 32
    ∧ (∀ i, i < 1 → (placeAt (sl0 .mx id) 0 .mx one i mma.a).fits 256 = true) ∧ alignedAt (sl0 .mx id) 0 .mx 16 rnd.d := by decide
theorem witness_vector : run.ok = true ∧ alignedAt (sl0 .vx id) 0 .vx 4 run.x ∧ (placeAt (sl0 .vx id) 0 .vx one 0 run.d).fits 4 = true ∧ issues (sl0 .vx id) 0 .vx := by decide
/-- A misaligned base, and one row past the end of the scratchpad. -/
theorem test_slice_faults : (((next (exec (.vxRun 0 { run with x := at0 2 } none) (sl0 .vx id))).slice 0).eng .vx).state = .faulted
    ∧ ((next (exec (.vxRun 0 { run with d := at0 32767 } none) (sl0 .vx id))).cmd 0 0 0).bind (fun m => m.fault.map (·.cause)) = some 0x22 := by decide +kernel
theorem witness_faults : (let s := sl0 .vx id; (s.slice 0).layer = some layer0 ∧ s.cmd 0 0 0 = some (cmd0 .layer) ∧ sound (cmd0 .layer) ∧ alignedAt s 0 .vx 4 (at0 2) = (2 % 4 = 0 ∧ ∀ d ∈ ([] : List Int), d % 4 = 0)) :=
  ⟨rfl, rfl, by decide, rfl⟩

/-- Steps of the other vector operations: a constant set, a tile loaded, a record stored and read back empty. -/
theorem test_vector_state : (tget ((next (exec (.vxKset 0 2 0x3F800000 .fp32 one) (sl0 .vx id))).slice 0).consts 2 ⟨.fp16, 0⟩).bits = 0x3F800000
    ∧ ((next (exec (.vxRclr 0 0xF one) (sl0 .vx id))).slice 0).layer = some layer0 := by decide +kernel

/-- 06 R197: 64 bytes from data space to the scratchpad. -/
theorem test_load : (let s := { sl0 .bx (fun x => { x with ars := [(1, 1)] }) with mem := wrL [] 256 (leBytes 8 0x0102030405060708) }
    rdN ((next (exec (.bxLd 0 mv) s)).slice 0).scratch 0 8 = leBytes 8 0x0102030405060708) := by decide +kernel
theorem test_store : (let s := sl0 .bx (fun x => { x with ars := [(1, 1)], scratch := [(0, 9)] }); rd (next (exec (.bxSt 0 mv none) s)).mem 256 = 9) := by decide +kernel
theorem witness_movable : movable (sl0 .bx (fun x => { x with ars := [(1, 1)] })) 0 mv true := by
  refine ⟨by decide, by decide, by decide, ⟨by decide, by decide, by decide, ?_⟩, by decide, by decide, by decide, by decide, ?_⟩
  · intro l h
    injection h with h
    subst h
    rfl
  · intro i hi
    have : i = 0 := by
      have : tripsTotal (sl0 .bx (fun x => { x with ars := [(1, 1)] })) 0 .bx mv.lp = 1 := by decide
      omega
    subst this
    refine ⟨by decide, by decide, by decide, ?_⟩
    intro l h hs
    injection h with h
    subst h
    exact absurd hs (by decide)

/-! ## Sync objects (10) -/

def synced (x : SyncObj) (q : List SyncMsg) : State := { up with chans := [(0, { ch0 with sync := [(0, x)] })], syncQ := q }
def obj0 : ObjRef := .chan 0 0
def sig (n : W32) : SyncMsg := ⟨obj0, .signal n, .host, 0, 0⟩
theorem test_signal : ((next (exec (.syncOperation obj0) (synced { SyncObj.zero with count := 0xFFFFFFFE } [sig 1]))).syncObj obj0).count = 0xFFFFFFFF
    ∧ ((next (exec (.syncOperation obj0) (synced { SyncObj.zero with count := 0xFFFFFFFF } [sig 1]))).syncObj obj0).lastFault = 0x40
    ∧ ((next (exec (.syncOperation obj0) (synced SyncObj.zero [⟨obj0, .subtract 1, .host, 0, 0⟩]))).syncObj obj0).lastFault = 0x41 := by decide +kernel
theorem test_wait : (let w : SyncMsg := ⟨obj0, .wait 2 true, .command 0 0 1 0 0, 0, 0⟩
    (next (exec (.syncOperation obj0) (synced { SyncObj.zero with count := 2 } [w]))).relQ = [(0, .waiter (.command 0 0 0))]
    ∧ ((next (exec (.syncOperation obj0) (synced { SyncObj.zero with count := 2 } [w]))).syncObj obj0).count = 0
    ∧ (tfind ((next (exec (.syncOperation obj0) (synced SyncObj.zero [w]))).syncObj obj0).waiters 0).isSome = true) := by decide +kernel
theorem witness_sync : nextMsg obj0 (synced SyncObj.zero [sig 1]).syncQ = some (sig 1) ∧ nextMsg obj0 (synced SyncObj.zero []).syncQ = none
    ∧ (sig 1).obj = obj0 ∧ (SyncObj.zero).barrierEn = false ∧ SyncObj.zero.waiters = [] ∧ (0xFFFFFFFE#32).toNat + 1 < 2 ^ 32 ∧ 2 ^ 32 ≤ (0xFFFFFFFF#32).toNat + 1
    ∧ (up.winStatus (objWin obj0) = .ok) ∧ up.winReached (objWin obj0) = true ∧ up.groupPending 0 = [] ∧ nextArr obj0 up.arrQ = none
    ∧ (synced SyncObj.zero [sig 1]).opFirst (sig 1) = true
    ∧ ({ synced SyncObj.zero [sig 1] with arrQ := [⟨obj0, 0, [⟨0, 0, 1, 0, 5⟩], 0, 0⟩] }).opFirst (sig 1) = false
    ∧ (let s : State := { up with chans := [(0, { ch0 with banks := [(0, { BankSt.zero with queue := [⟨3, 0, 0, true, [], 0, 0, false, false, false⟩] })] })] }
       s.groupPending 0 ≠ [] ∧ s.port.compute = true ∧ s.reached = true) := by decide +kernel
theorem test_host_sync : ((next (exec (.add obj0 3 0) (synced SyncObj.zero []))).syncObj obj0).count = 3 ∧ ((next (exec (.sub obj0 3 0) (synced SyncObj.zero []))).syncObj obj0).lastFault = 0x41
    ∧ ((next (exec (.barCfgWrite obj0 0x80000002 0) (synced SyncObj.zero []))).syncObj obj0).participants = 2
    ∧ ((next (exec (.barStateClear obj0 0) (synced { SyncObj.zero with arrived := 1 } []))).syncObj obj0).arrived = 0 := by decide +kernel

/-- 10 R288, R289, R294: an SSIG, an SWATCH and a BAR of slice 0 on the first object of its context. -/
def bxState (f : SliceSt → SliceSt) : State := { sl0 .bx f with chans := [(0, { ch0 with ctxs := [(0, { ctx0 with chanCount := 1, sliceSet := 0x00030100 })] })] }
theorem test_bx_sync : (next (exec (.bxSsig 0 0 (.imm 3)) (bxState id))).syncQ.map (·.act) = [.signal 3] ∧ ((next (exec (.bxSwatch 0 0 (.imm 3)) (bxState id))).chan 0).watches.map (·.2.value) = [3]
    ∧ (next (exec (.bxBar 0 0) (bxState id))).arrQ.length = 1 ∧ ((next (exec (.bxSsub 0 0 (.imm 1)) (bxState id))).slice 0).bxWait = .result := by decide +kernel
theorem witness_bx_sync : issues (bxState id) 0 .bx ∧ ((bxState id).ctx 0 0).vobj 0 0 = some (.chan 0 0) ∧ (bxState id).sliceClear 0 = true ∧ ((bxState id).chan 0).watches = []
    ∧ ((bxState id).chan 0).combiners.length < 16 := by decide +kernel
def mail0 : Mail := ⟨List.replicate 64 1, 0, 0, .chan 0 0, 5⟩
theorem test_bx_mail : (next (exec (.bxSend 0 1 2 ⟨0, 64⟩ 0 none) (bxState (fun x => { x with ars := [(1, 1)] })))).msgQ.map (·.dst) = [1]
    ∧ rd ((next (exec (.bxRecv 0 2 ⟨0, 64⟩ 0) (bxState (fun x => { x with mail := [(2, mail0)] })))).slice 0).scratch 127 = 1
    ∧ ((next (exec (.bxRecv 0 2 ⟨0, 64⟩ 0) (bxState id))).slice 0).bxWait = .recv 2 := by decide +kernel
theorem witness_bx_mail : (let s := bxState (fun x => { x with ars := [(1, 1)], mail := [(2, mail0)] })
    issues s 0 .bx ∧ (arAtIssue s 0 .bx 1).toNat = (1#20 : SliceId).toNat ∧ inSel 0 (s.ctx 0 0).sliceSet 1 = true ∧ tfind (s.slice 0).mail 2 = some mail0 ∧ tfind (s.slice 0).mail 3 = none) := by decide +kernel

/-! ## Releases, messages, long waits and barriers (10) -/

def relState (rel : Release) (f : SliceSt → SliceSt) : State := { sl0 .bx f with relQ := [(0, rel)] }
def watching : State := { relState (.waiter (.watch 0 0)) (fun x => { x with bxWait := .watch obj0 2 }) with
  chans := [(0, { ch0 with ctxs := [(0, ctx0)], watches := [(0, ⟨obj0, 2, [0]⟩)] })] }
theorem witness_releases : (let s := { flying .wait (raw2 8 2) .executing with relQ := [(0, .waiter (.command 0 0 0))] }
      nextRel 0 (fun r => !r.isBarrier) s.relQ = some (.waiter (.command 0 0 0)) ∧ (s.cmd 0 0 0).isSome = true)
    ∧ (nextRel 0 (fun r => !r.isBarrier) watching.relQ = some (.waiter (.watch 0 0)) ∧ tfind (watching.chan 0).watches 0 = some ⟨obj0, 2, [0]⟩ ∧ (watching.slice 0).layer = some layer0
      ∧ (watching.slice 0).bxWait = .watch obj0 2 ∧ ((watching.slice 0).eng .bx).active = true)
    ∧ (let s := relState (.result 0 0 0 0) (fun x => { x with bxWait := .result }); nextRel 0 (fun r => !r.isBarrier) s.relQ = some (.result 0 0 0 0) ∧ (s.slice 0).bxWait = .result
      ∧ ((s.slice 0).eng .bx).active = true)
    ∧ (let s := relState (.result 0 0 0 0x41) id; nextRel 0 (fun r => !r.isBarrier) s.relQ = some (.result 0 0 0 0x41) ∧ (s.slice 0).layer = some layer0 ∧ s.cmd 0 0 0 = some (cmd0 .layer)
      ∧ sound (cmd0 .layer)) ∧ nextRel 0 (fun r => !r.isBarrier) up.relQ = none
    ∧ (watching.chan 0).runs = true ∧ (let s := { watching with chans := [(0, { ch0 with pwr := { ch0.pwr with dom := { ch0.pwr.dom with state := .retention } } })] }
      nextRel 0 (fun r => !r.isBarrier) s.relQ = some (.waiter (.watch 0 0)) ∧ (s.chan 0).runs = false) := by decide +kernel
theorem test_waiter_release : ((next (exec (.waiterRelease 0) watching)).slice 0).bxWait = .none
    ∧ ((next (exec (.waiterRelease 0) (relState (.result 0 0 0 0x41) id))).cmd 0 0 0).bind (fun m => m.fault.map (·.cause)) = some 0x41 := by decide +kernel

def heldWait (n : W32) : SyncMsg := ⟨obj0, .wait n true, .command 0 0 1 0 5, 0, 0⟩
def fullObj : SyncObj := { SyncObj.zero with waiters := (upFrom 0 16).map (fun k => (k, ⟨.combiner 0, false, 9, k⟩)) }
def holding (n : W32) (x : SyncObj) : State := { up with chans := [(0, { ch0 with held := [.wait (heldWait n)], sync := [(0, x)] })] }
theorem witness_held : ((holding 0 SyncObj.zero).chan 0).held = [.wait (heldWait 0)] ∧ (0#32).toNat ≤ ((holding 0 SyncObj.zero).syncObj obj0).count.toNat
    ∧ ((holding 1 fullObj).syncObj obj0).count.toNat < (1#32).toNat ∧ (upFrom 0 16).all (fun k => (tfind ((holding 1 fullObj).syncObj obj0).waiters k).isSome) = true := by decide +kernel
theorem test_wait_retry : ((next (exec (.waitRetry 0) (holding 0 SyncObj.zero))).chan 0).held = [] ∧ ((next (exec (.waitRetry 0) (holding 1 fullObj))).chan 0).held = [.wait (heldWait 1)] := by decide +kernel

def msg0 : Msg := ⟨0, 2, mail0, .slice 1 0 1 0 5⟩
def arriving (f : SliceSt → SliceSt) : State := { sl0 .bx f with msgQ := [msg0] }
theorem witness_messages : (let s := arriving (fun x => { x with owner := some (0, 0) }); s.msgQ.find? (fun m => m.dst = 0) = some msg0 ∧ (s.slice 0).owner = some (mail0.record, mail0.gen)
      ∧ tfind (s.slice 0).mail 2 = none)
    ∧ (let s := arriving (fun x => { x with owner := some (0, 1) }); (s.slice 0).owner ≠ some (mail0.record, mail0.gen))
    ∧ (let s := arriving (fun x => { x with owner := some (0, 0), mail := [(2, mail0)] }); (s.slice 0).owner = some (mail0.record, mail0.gen) ∧ (tfind (s.slice 0).mail 2).isSome = true)
    ∧ up.msgQ.find? (fun m => m.dst = 0) = none ∧ (arriving id).bankOn 0 = true
    ∧ (let s := { arriving id with chans := [(0, { ch0 with banks := [(0, { BankSt.zero with pwr := { PowerDom.zero with state := .retention } })] })] }
       s.msgQ.find? (fun m => m.dst = 0) = some msg0 ∧ s.bankOn 0 = false) := by decide +kernel
/-- A message on its way holds back the fence and the END of BX behind it. -/
def sendingState : State := { sl0 .bx id with msgQ := [{ msg0 with src := .slice 0 0 1 0 5 }] }
theorem witness_sending : sending sendingState 0 ∧ issues sendingState 0 .bx ∧ (sendingState.slice 0).layer = some layer0 ∧ ¬ sending (sl0 .bx id) 0 := by
  refine ⟨⟨_, List.mem_singleton.mpr rfl, 0, 1, 0, 5, rfl⟩, by decide, by decide, ?_⟩
  rintro ⟨g, h, _⟩
  cases h
theorem test_sending : next (exec (.fenceSlice 0 .bx) sendingState) = sendingState ∧ (((next (exec (.endOp 0 .bx) sendingState)).slice 0).eng .bx).state = .draining := by decide
theorem test_message_arrival : ((next (exec (.messageArrival 0) (arriving (fun x => { x with owner := some (0, 0) })))).slice 0).mail = [(2, mail0)]
    ∧ (next (exec (.messageArrival 0) (arriving (fun x => { x with owner := some (0, 1) })))).syncQ.map (·.act) = [.ack 0x43]
    ∧ (next (exec (.messageArrival 0) (arriving (fun x => { x with owner := some (0, 0), mail := [(2, mail0)] })))).syncQ.map (·.act) = [.ack 0x44] := by decide +kernel

/-- 10 R298: a WAIT in flight for lend_us, with a charge of 7 mW. -/
def lending (en : Bool) : State := { withCtx { ring0 with inflight := [{ inFlight .wait (raw2 8 2) .executing with charge := 7 }], waitStart := 0, waitUs := 1000 } with
  refCount := usRef 1000, ledger := { LedgerSt.zero with lendEn := en } }
theorem witness_long_wait : (let y := (lending true).ctx 0 0
    y.longWait = false ∧ y.waitUs ≠ 0 ∧ y.inflight ≠ [] ∧ y.inflight.all ((lending true).cmdLongWaits 0) = true ∧ y.waitStart + usRef y.waitUs ≤ (lending true).refCount)
    ∧ (lending true).ledger.lendEn = true ∧ (lending true).port.strict = false ∧ (lending false).ledger.lendEn = false
    ∧ ({ lending true with refCount := 0 }).refCount < ((lending true).ctx 0 0).waitStart + usRef ((lending true).ctx 0 0).waitUs := by decide +kernel
theorem test_long_wait : (next (exec (.longWait 0 0) (lending true))).ledger.pool = 7 ∧ (next (exec (.longWait 0 0) (lending false))).ledger.pool = 0 := by decide +kernel

def arriver0 : Arriver := ⟨0, 0, 1, 0, 5⟩
def arr0 : Arrival := ⟨obj0, 0, [arriver0], 0, 0⟩
def barrier (x : SyncObj) : State := { sl0 .bx (fun x => { x with bxWait := .bar obj0 }) with arrQ := [arr0], chans := [(0, { ch0 with ctxs := [(0, ctx0)], sync := [(0, x)] })] }
def bar2 : SyncObj := { SyncObj.zero with barrierEn := true, participants := 2 }
def gathering : State := { up with chans := [(0, { ch0 with combiners := [⟨.module 0, [arriver0], [(0, 0, none)]⟩] })] }
def released : State := { sl0 .bx (fun x => { x with bxWait := .bar obj0 }) with
  relQ := [(0, .barrier obj0 true)], chans := [(0, { ch0 with ctxs := [(0, ctx0)], combiners := [⟨obj0, [], [(0, 0, some false)]⟩] })] }
theorem witness_barriers : nextArr obj0 (barrier bar2).arrQ = some arr0 ∧ (barrier bar2).arrFirst arr0 = true ∧ (released.chan 0).runs = true ∧ bar2.barrierEn = true ∧ bar2.arrived + 1 < max 1 bar2.participants
    ∧ (let x := { bar2 with arrived := 1 }; x.barrierEn = true ∧ max 1 x.participants ≤ x.arrived + 1 ∧ x.waiters = []) ∧ SyncObj.zero.barrierEn = false
    ∧ (gathering.chan 0).combiners.find? (fun q => q.obj = .module 0) = some ⟨.module 0, [arriver0], [(0, 0, none)]⟩
    ∧ nextRel 0 Release.isBarrier released.relQ = some (.barrier obj0 true) ∧ (released.chan 0).combiners.find? (fun q => q.obj = obj0) = some ⟨obj0, [], [(0, 0, some false)]⟩
    ∧ (released.slice 0).layer = some layer0 ∧ (released.slice 0).bxWait = .bar obj0 ∧ ((released.slice 0).eng .bx).active = true := by decide +kernel
theorem test_barriers : ((next (exec (.barrierArrival obj0) (barrier bar2))).syncObj obj0).arrived = 1 ∧ ((next (exec (.barrierArrival obj0) (barrier { bar2 with arrived := 1 }))).syncObj obj0).count = 1
    ∧ (next (exec (.combinerForward 0 0) gathering)).arrQ.map (fun w => (w.obj, w.channel, w.who)) = [(.module 0, 0, [arriver0])] ∧ ((next (exec (.barrierRelease 0) released)).slice 0).bxWait = .none := by decide +kernel

/-! ## STRICT, integrity, banks (02, 11, 12) -/

def epoch (m : Nat) (f : PortSt → PortSt) : State := { up with port := f { up.port with epochMode := m } }
theorem witness_strict : up.reached = true ∧ up.allFree = true ∧ (withCtx ring0).allFree = false ∧ up.powered = true ∧ ({ up with master := 599 }).master = 599 ∧ up.master ≠ 599
    ∧ (epoch 1 id).port.epochMode = 1 ∧ (epoch 1 id).anyStrictCtx = false ∧ (withCtx { ring0 with strict := true }).anyStrictCtx = true
    ∧ (let s := epoch 2 id; (600 - min 599 s.port.epochOffset) % 600 = 0 ∧ s.master = 0) ∧ (let s := epoch 2 (fun p => { p with epochOffset := 599 }); (600 - min 599 s.port.epochOffset) % 600 = 1 ∧ s.master ≠ 1)
    ∧ up.port.epochMode = 0 ∧ up.winStatus (.chan 0) = .ok ∧ up.winReached (.chan 0) = true := by decide +kernel
theorem test_strict : (next (exec (.strictWrite true) up)).port.strict = true ∧ (next (exec (.strictWrite true) (withCtx ring0))).port.lastStatus = .leased
    ∧ (next (exec .strictOrigin { up with master := 599 })).originRef = 1 ∧ (next (exec .epochTick (epoch 1 (fun p => { p with epochOffset := 599 })))).master = 1
    ∧ (next (exec .epochTick (epoch 2 (fun p => { p with epochOffset := 599 })))).port.slips = 1 ∧ (next (exec .epochClear (epoch 2 (fun p => { p with slips := 3 })))).port.slips = 0
    ∧ ((next (exec (.strictStatusClear 0 1) { up with chans := [(0, { ch0 with strictCause := 3 })] })).chan 0).strictCause = 2 := by decide +kernel

def strictly (s : State) : State := { s with port := { s.port with strict := true } }
def badBlk (s : State) : State := { s with checkDiff := [(0, 1)] }
def q0 (w : Bool) (be : W64) : BankReq := ⟨0, 0, 0, w, List.replicate 64 7, be, 0, false, false, false⟩
def strictQ (w : Bool) (be : W64) : BankReq := { q0 w be with strict := true }
/-- An older request, to row 1. -/
def q1 : BankReq := { q0 false 0 with blk := 128 }
def banked (k : BankSt) : State := { up with chans := [(0, { ch0 with ctxs := [(0, ctx0)], banks := [(0, k)] })] }
theorem witness_read_retry : (let s := banked { BankSt.zero with failing := some (q0 false 0) }; ((s.chan 0).bank 0).failing = some (q0 false 0) ∧ s.failing 0 = false ∧ (badBlk s).failing 0 = true)
    ∧ (banked BankSt.zero).reached = true ∧ offChan ((0 : BitVec 34).toNat * 64) = 0 ∧ offBank ((0 : BitVec 34).toNat * 64) = 0 ∧ up.hostOwned (0 : BitVec 34).toNat = false
    ∧ (let s := badBlk (sl0 .bx id); s.failing (0 : BitVec 34).toNat = true ∧ (s.slice 0).layer = some layer0 ∧ s.cmd 0 0 0 = some (cmd0 .layer) ∧ s.scrubs 0 = true) ∧ (banked BankSt.zero).scrubs 0 = true ∧ (strictly (banked BankSt.zero)).scrubs 0 = false := by decide +kernel
theorem test_read_retry : (let s := banked { BankSt.zero with failing := some (q0 false 0) }
    (((next (exec (.readRetry 0 0 .host false true) s)).chan 0).chk.retriedOk = 1) ∧ ((next (exec (.readRetry 0 0 .host false false) s)).chan 0).chk.readFail = 1)
    ∧ ((next (exec (.readRetry 0 0 (.slice 0 .bx 0) false false) (badBlk (sl0 .bx id)))).cmd 0 0 0).bind (fun m => m.fault.map (·.cause)) = some 0x20
    ∧ ((next (exec (.readRetry 0 0 (.scrubber 0) false false) (badBlk up))).chan 0).chk.scrubFail = 1 := by decide +kernel
def resending (g : Cargo) : State := { sl0 .bx id with
  chans := [(0, { ch0 with ctxs := [(0, ctx0)], chk := { ch0.chk with resend := [(.fabric, g)] }, banks := [(0, { BankSt.zero with queue := [q0 true 1] })] })]
  link := { up.link with groups := [(0, { LaneGroup.zero with state := .active, out := [⟨0, 0, 7, 0, some 0, some 0, none, [], 0, [], false, false, false⟩] })] }, settleQ := [(1, 0, 2, 3, 0x77)] }
theorem witness_transit : (let s := resending (.slice 0 .bx); (up.chan 0).chk.resend = [] ∧ (s.chan 0).chk.resend = [(.fabric, .slice 0 .bx)] ∧ s.carried (.slice 0 .bx) = true ∧ s.carried (.command 0 0 0) = true
      ∧ s.carried (.hostRead 0 7) = true ∧ s.carried (.hostWrite 0) = true ∧ s.cmd 0 0 0 = some (cmd0 .layer) ∧ s.settleQ.find? (fun q => q.2.1 = 0) = some (1, 0, 2, 3, 0x77))
    ∧ up.carried (.slice 0 .bx) = false ∧ ((resending (.command 0 0 0)).chan 0).chk.resend = [(.fabric, .command 0 0 0)] := by decide +kernel
theorem test_transit : ((next (exec (.payloadReceive 0 .fabric (.slice 0 .bx) false) (sl0 .bx id))).chan 0).chk.resend = [(.fabric, .slice 0 .bx)]
    ∧ ((next (exec (.transitResend 0 false) (resending (.slice 0 .bx)))).cmd 0 0 0).bind (fun m => m.fault.map (·.cause)) = some 0x20
    ∧ ((next (exec (.transitResend 0 true) (resending (.slice 0 .bx)))).chan 0).chk.resend = [] ∧ (next (exec (.settleNotice 0) (resending (.hostRead 0 7)))).settleQ = []
    ∧ (((next (exec (.transitResend 0 false) (resending (.hostWrite 0)))).chan 0).bank 0).queue.map (·.lost) = [true] := by decide +kernel

def err0 : ErrRec := ⟨1, 0, 0, 0, 0, 0, 0, 0⟩
def logging (p : BootPhase) : State := { up with mg := { up.mg with events := [err0], boot := { up.mg.boot with phase := p } } }
/-- At the end of an interval of 1,000 µs. -/
def scrub (f : CheckSt → CheckSt) : State := { up with refCount := usRef 1000, chans := [(0, { ch0 with chk := f ch0.chk })] }
def allDone : List (Nat × Nat) := (upFrom 0 128).flatMap (fun b => (upFrom 0 128).map (fun k => (b, k)))
theorem witness_scrub : up.scrubs 0 = true ∧ ((up.chan 0).bank 127).queue = [] ∧ ((up.chan 0).bank 127).failing = none ∧ (up.chan 0).chk.done.contains (127, 127) = false ∧ up.failing (127 * 2 ^ 18 + 127) = false
    ∧ (badBlk up).failing 0 = true ∧ (scrub (fun x => { x with scrubEn := false })).scrubs 0 = false ∧ up.mg.events = [] ∧ (logging .running).mg.events = [err0]
    ∧ (logging .running).fwRuns = true ∧ (logging .running).mg.boot.level < 2 ∧ (logging .verify).fwRuns = false := by decide +kernel
theorem witness_scrub_row (r : Nat) : (let s := scrub (fun x => { x with row := r, done := allDone }); s.scrubs 0 = true ∧ 128 * 128 ≤ (s.chan 0).chk.done.length ∧ (s.chan 0).chk.row = r ∧ (s.chan 0).chk.scrubStart + usRef (max 1 (s.chan 0).chk.rowUs) ≤ s.refCount) :=
  ⟨rfl, by change 128 * 128 ≤ allDone.length; decide +kernel, rfl, by change 0 + usRef (max 1 1000) ≤ usRef 1000; decide⟩
theorem test_scrub : ((next (exec (.scrubRead 0 127 127 true true true) up)).chan 0).chk.done = [(127, 127)] ∧ ((next (exec (.scrubRead 0 0 0 true true true) (badBlk up))).chan 0).chk.scrubFail = 1
    ∧ (next (exec .errorLogRecord (logging .running))).mg.errHead = 1 ∧ (next (exec .errorLogRecord (logging .verify))).mg.errLost = 1 := by decide +kernel
theorem test_scrub_interval : ((next (exec (.scrubInterval 0) (scrub (fun x => { x with row := 2047, done := allDone })))).chan 0).chk.passes = 1 := by decide +kernel

def refreshing : State := { up with chans := [(0, { ch0 with pwr := { ch0.pwr with selfRefresh := true } })], pins := { up.pins with vin := true } }
theorem witness_refresh : up.port.strict = false ∧ (up.chan 0).arraysOn = true ∧ (strictly up).port.strict = true
    ∧ tickDue 0 0 0 = true ∧ tickDue 0 0 15625 = true ∧ tickDue 0 0 1 = false ∧ tickDue 2 127 3875 = true ∧ ((up.chan 0).bank 0).tickAt ≤ 0 ∧ 0 < (({ BankSt.zero with tickAt := 1 } : BankSt)).tickAt
    ∧ (strictly up).strictCol 0 = 30 * 0 ∧ (strictly up).strictCol 7650 = 30 * 127 ∧ (strictly up).strictCol 1 ≠ 30 * 0
    ∧ (let k := (up.chan 0).bank 0; k.closeAt ≤ 14 ∧ k.readyAt ≤ 14 + 14 ∧ (up.chan 0).actOk (14 + 14) = true)
    ∧ (let s := banked { BankSt.zero with debt := 8 }; 8 ≤ ((s.chan 0).bank 0).debt ∧ (s.chan 0).canRefresh 0 0 = true)
    ∧ (let s := banked { BankSt.zero with debt := 1 }; 0 < ((s.chan 0).bank 0).debt ∧ (s.chan 0).mem.postponeEn = true ∧ ((s.chan 0).bank 0).queue = [] ∧ (s.chan 0).canRefresh 0 0 = true)
    ∧ ((up.chan 0).bank 0).debt = 0 ∧ (refreshing.chan 0).pwr.selfRefresh = true ∧ refreshing.pins.vin = true := by decide +kernel
theorem test_refresh : (((next (exec (.refreshTick 0 0 0) (banked { BankSt.zero with debt := 8 }))).chan 0).bank 0).debt = 8 ∧ (((next (exec (.forcedRefresh 0 0 0) (banked { BankSt.zero with debt := 8 }))).chan 0).bank 0).rowPtr = 1
    ∧ (((next (exec (.idleRefresh 0 0 0) (banked { BankSt.zero with debt := 1 }))).chan 0).bank 0).readyAt = 48 ∧ (((next (exec (.strictRefreshSlot 0 0 0) (strictly up))).chan 0).bank 0).readyAt = 62
    ∧ (((next (exec (.dramSelfRefreshTick 0) refreshing)).chan 0).bank 127).rowPtr = 1 := by decide +kernel

/-- A request to row 0 of bank 0 of channel 0; the row open since column cycle 0, closed, or another row open. -/
def serving (o : Option Nat) (q : BankReq) : State := banked { BankSt.zero with openRow := o, actAt := o.map (fun _ => 0), queue := [q] }
theorem witness_bank_service : (let s := serving (some 0) (q0 false 0); (s.chan 0).serves = true ∧ s.slotClear 0 14 12 = true ∧ (q0 false 0).owned = false ∧ s.diff 0 = 0 ∧ ((s.chan 0).bank 0).failing = none ∧ s.pick 0 0 14 = some (q0 false 0) ∧ (s.chan 0).mustRefresh 0 = false
      ∧ ((s.chan 0).bank 0).openRow = some (q0 false 0).row ∧ ((s.chan 0).bank 0).actAt.getD 0 + 14 ≤ 14 ∧ s.failing 0 = false ∧ (badBlk s).failing 0 = true ∧ s.hostOwned 0 = false)
    ∧ (let s := serving (some 0) (q0 true (BitVec.allOnes 64)); s.pick 0 0 14 = some (q0 true (BitVec.allOnes 64))) ∧ (q0 true 1).byteEn ≠ BitVec.allOnes 64
    ∧ (let s := serving (some 5) (q0 false 0); ((s.chan 0).bank 0).openRow ≠ some (q0 false 0).row ∧ ((s.chan 0).bank 0).mayClose 100 = true)
    ∧ (let s := serving none (q0 false 0); ((s.chan 0).bank 0).openRow = none ∧ ((s.chan 0).bank 0).readyAt ≤ 0 ∧ (s.chan 0).actOk 0 = true ∧ s.slotClear 0 0 32 = true)
    ∧ (let q := strictQ false 0; let s := strictly (serving (some 0) q); s.port.strict = true ∧ q.strict = true ∧ s.pick 0 0 95 = some q ∧ s.pick 0 0 96 = some q ∧ 95 % 8 = 7 ∧ s.slotClear 0 95 12 = true
      ∧ ((s.chan 0).bank 0).openRow = some q.row)
    ∧ (let s := banked { BankSt.zero with openRow := some 0, queue := [q1, q0 false 0] }; s.panic 0 = false ∧ q1.strict = false ∧ ((s.chan 0).bank 0).openRow ≠ some q1.row
      ∧ ((s.chan 0).bank 0).openRow = some (q0 false 0).row)
    ∧ (strictly up).port.strict = true ∧ ((up.chan 0).bank 0).queue = [] ∧ (up.chan 0).mustRefresh 0 = false := by decide +kernel
/-- Early enough, no request is past the age cap, whatever time the pins take. -/
theorem witness_age : q1.age 1 ≤ ((banked { BankSt.zero with openRow := some 0, queue := [q1, q0 false 0] }).chan 0).mem.cap := le_trans (Nat.sub_le _ _) (by decide)
/-- 04 R134, 06 R196: in STRICT the access waits for column cycle 7 modulo 8. -/
theorem test_reserved_slot : (let s := strictly (serving (some 0) (strictQ true 1)); rd (next (exec (.bankOperation 0 0 95 false) s)).mem 0 = 7 ∧ next (exec (.bankOperation 0 0 96 false) s) = s) := by decide +kernel
theorem test_bank_service : rd (next (exec (.bankOperation 0 0 14 false) (serving (some 0) (q0 true 1)))).mem 0 = 7 ∧ rd (next (exec (.bankOperation 0 0 14 false) (serving (some 0) (q0 true 1)))).mem 1 = 0
    ∧ (((next (exec (.bankOperation 0 0 100 false) (serving (some 5) (q0 false 0)))).chan 0).bank 0).openRow = none
    ∧ (((next (exec (.bankOperation 0 0 14 true) (serving (some 0) (q0 false 0)))).chan 0).bank 0).failing = some (q0 false 0) := by decide +kernel

def lane0 : LaneSel := selLane 0
/-- A TSV lane of kind 2. -/
def tsvLane (i : Nat) : LaneSel := selLane (BitVec.ofNat 32 (2 + 2 ^ 15 * i))
def trainCh (f : TrainSt → TrainSt) : State := { up with chans := [(0, { ch0 with train := f ch0.train })] }
def eye (n : Nat) : TrainSt → TrainSt := fun x => { x with lanes := [(lane0, { LaneTrain.zero with mainTap := n })] }
theorem witness_training : ((up.chan 0).anyLease = false ∧ (up.chan 0).train.busy = false ∧ laneOk (selLane (up.chan 0).train.sel) = true ∧ (up.chan 0).train.freeze = false)
    ∧ ((trainCh (eye 0)).chan 0).train.lane lane0 = { LaneTrain.zero with mainTap := 0 } ∧ 0 + 1 < laneTaps lane0
    ∧ (let n := laneTaps lane0 - 1; (((trainCh (eye n)).chan 0).train.lane lane0).mainTap = n ∧ 0 < n ∧ laneTaps lane0 ≤ n + 1)
    ∧ ((trainCh (fun x => { x with phase := .tsv })).chan 0).train.busy = true ∧ (up.chan 0).train.lostTaps = none ∧ (up.chan 0).pwr.fromOff = false ∧ (up.chan 0).selPending = false
    ∧ (let s := trainCh (fun x => { x with phase := .done }); (s.chan 0).train.phase = .done ∧ (s.chan 0).pwr.fromOff = false ∧ ((s.chan 0).train.failedTsv 3).length ≤ 2)
    ∧ (let s := { up with chans := [(0, { ch0 with pwr := { ch0.pwr with fromOff := true, dom := { ch0.pwr.dom with state := .waking } }, train := { ch0.train with phase := .bond } })] }
       (s.chan 0).train.phase = .bond ∧ (s.chan 0).pwr.selfRefresh = false ∧ (s.chan 0).pwr.fromOff = true)
    ∧ 2 < (((trainCh (fun x => { x with phase := .done, lanes := (upFrom 0 3).map (fun i => (tsvLane i, { LaneTrain.zero with failed := true })) })).chan 0).train.failedTsv 2).length ∧ ((trainCh (fun x => { x with patterning := true })).chan 0).train.patterning = true
    ∧ (up.chan 0).selLeased = false ∧ (up.chan 0).pwr.dom.state = .on ∧ (up.chan 0).train.failedBond = [] ∧ ((up.chan 0).train.failedTsv 2).length ≤ 2 := by decide +kernel
theorem test_training : ((next (exec (.sweep 0) up)).chan 0).train.phase = .tsv ∧ (((next (exec (.nudgeUp 0) (trainCh (eye 0)))).chan 0).train.lane lane0).mainTap = 1
    ∧ ((next (exec (.nudgeDown 0) (trainCh (eye 0)))).chan 0).train.refused = true ∧ ((next (exec (.patternGo 0) up)).chan 0).train.patterning = true
    ∧ (((next (exec (.hardwareSweep 0 []) (trainCh (fun x => { x with phase := .tsv })))).chan 0).train.lane lane0).eyeWidth = laneTaps lane0
    ∧ (((next (exec (.patternRunDone 0 3) (trainCh (fun x => { x with patterning := true })))).chan 0).train.lane lane0).mismatch = 3 := by decide +kernel

/-! ## The port, its requests and its answers (03, 04) -/

def keyed : State := { plain with port := { PortSt.zero with armedAt := some 0 } }
theorem witness_port : keyed.reached = true ∧ keyed.port.armedAt = some 0 ∧ 0 + 2100000 < 2100001 ∧ 2100000 ≤ 0 + 2100000 ∧ (upFrom 0 512).all keyed.chanQuiet = true ∧ keyed.mayCompute = true
    ∧ keyed.port.compute = false ∧ up.port.compute = true ∧ plain.port.armedAt = none ∧ (withCtx ring0).chanQuiet 0 = false
    ∧ ({ keyed with mg := { keyed.mg with boot := { keyed.mg.boot with straps := 8 } } }).mayCompute = false := by decide +kernel
theorem witness_quiet : ∀ c : Chan, keyed.chanQuiet c = true := by
  intro c
  have h : (List.finRange 512).all (fun c : Chan => keyed.chanQuiet c) = true := by decide +kernel
  exact List.all_eq_true.mp h c (List.mem_finRange c)
theorem test_port : (next (exec (.portModeSwitch 2100000 true 0x82E1) keyed)).port.compute = true ∧ (next (exec (.portModeSwitch 2100001 true 0x82E1) keyed)).port.refused = true
    ∧ (next (exec (.portKeyArm 7 0x7D1E) plain)).port.armedAt = some 7 ∧ (next (exec (.portKeyExpire 2100001) keyed)).port.armedAt = none ∧ (next (exec (.hbWinWrite 3 7) plain)).port.wins = [(3, 3)]
    ∧ (next (exec (.hbWinWrite 3 7) up)).port.lastStatus = .mode ∧ (next (exec (.xorMaskWrite 0 1 0x12345 0) plain)).port.maskPend = [(53280, 1, 0x2345)] := by decide +kernel
theorem test_register_write : (next (exec (.registerWrite 0 0x020000403004 0x5 0) up)).mg.alertMask = 5 ∧ (next (exec (.registerWrite 0 0x020000007000 1 0) up)).port.lastStatus = .hole
    ∧ (next (exec (.registerWrite 0 0x010000E00000 1 0) plain)).port.lastStatus = .mode := by decide +kernel

def leasedHost : State := { plain with chans := [(0, { ch0 with banks := [(0, { BankSt.zero with lease := some true })] })] }
def lateReq : State := { plain with port := { plain.port with lastReq := [(0, 0)] } }
theorem witness_host_requests : plain.linkUp 0 = true ∧ target ((0 : BitVec 42).toNat * 64) = .data 0 ∧ parses plain 0 0 (.data 0) 1 ∧ plain.ranks 0 0 < 3 ∧ (plain.chan 0).offline = false
    ∧ (plain.masksAt 0).placed 0 = 0 ∧ plain.tideCause 0 0 true false (.data 0) = 0 ∧ ((plain.chan 0).bank 0).lease ≠ some true ∧ ((leasedHost.chan 0).bank 0).lease = some true
    ∧ leasedHost.tideCause 0 0 true false (.data 0) = 0 ∧ parses plain 0 0 (.data 0) 5 ∧ plain.partOwned (.data 0) (BitVec.ofNat 64 1) = false ∧ plain.unitAt 0 0 < 16
    ∧ plain.rightGroup 1 (.data 0) = false ∧ target ((0x0800000000 : BitVec 42).toNat * 64) = .port 0 ∧ parses plain 0 0 (.port 0) 1 ∧ plain.modeBars (.port 0) = false ∧ fenceHole (.port 0) = false ∧ plain.tideCause 0 0 true false (.port 0) = 0 ∧ plain.fenceCovers 0 (.port 0) = [] := by decide +kernel
theorem witness_offline : (let s := { plain with chans := [(0, { ch0 with offline := true })] }; (s.chan 0).offline = true ∧ s.linkUp 0 = true ∧ parses s 0 0 (.data 0) 1 ∧ s.ranks 0 0 < 3)
    ∧ (let s := (plain.noteReq 0 (.data 0)); s.readStatus 1 (.data 0) = none ∧ parses s 0 1 (.data 0) 1 ∧ s.ranks 0 1 < 3 ∧ s.tideCause 0 1 true false (.data 0) = 1) := by decide +kernel
theorem test_host_requests : (((next (exec (.read 0 0 9 0 false) plain)).chan 0).bank 0).queue.map (·.isWrite) = [false] ∧ ((next (exec (.read 0 0 9 0 false) leasedHost)).group 0).out.map (·.status) = [some .leased]
    ∧ (((next (exec (.write 0 0 0 1 (List.replicate 64 7) 0) plain)).chan 0).bank 0).queue.map (·.isWrite) = [true] ∧ ((next (exec (.write 0 0 0 1 (List.replicate 64 7) 0) plain)).group 0).echoes.map (·.fields) = [[0b1000, 0, 0, 0, 0]]
    ∧ ((next (exec (.read 1 0 9 0 false) { plain with link := { LinkSt.zero with groups := [(1, { LaneGroup.zero with state := .active })] } })).group 1).malformed = 1
    ∧ ((next (exec (.pfence 0 0 3 0x0800000000) plain)).group 0).out.map (·.status) = [some .ok] ∧ ((next (exec (.idle 0 0) plain)).group 0).echoes.map (·.fields) = [[0]] := by decide +kernel

def out0 : OutReq := ⟨0, 0, 9, 0, some 0, some 0, some .ok, List.replicate 64 1, 0, [], false, false, false⟩
def linked (f : LaneGroup → LaneGroup) : State := { plain with link := { LinkSt.zero with groups := [(0, f { LaneGroup.zero with state := .active })] } }
/-- The first flit at which the response may leave. -/
def due0 : Nat := (plain.respWindow 0).1 * 555
def echoing (kind : Nat) : State := linked (fun x => { x with echoes := [⟨0, 0, [0b1000], kind⟩], scrUp := (upFrom 0 8).map (scrSeed 0) })
theorem witness_responses : (let s := linked (fun x => { x with out := [out0] }); s.linkUp 0 = true ∧ (s.group 0).placed.any (fun q => decide (q.t = due0 ∧ q.pos = 0)) = false
      ∧ (s.group 0).out.find? (s.mayRespond 0 due0 0) = some out0 ∧ (s.group 0).out.find? (s.mayRespond 0 (due0 - 555) 0) = none)
    ∧ (let s := echoing 1; (s.group 0).echoes.find? (fun e => decide (e.t + s.echoFlits 0 * 555 = s.echoFlits 0 * 555)) = some ⟨0, 0, [0b1000], 1⟩) := by decide +kernel
theorem test_responses : ((next (exec (.readResponse 0 due0 2) (linked (fun x => { x with out := [out0] })))).group 0).placed.map (·.tag) = [9]
    ∧ ((next (exec (.standbyReq 0 0) plain)).group 0).echoes.map (·.kind) = [1] := by decide +kernel
theorem test_echo : (let t := next (exec (.echo 0 (plain.echoFlits 0 * 555)) (echoing 0)); (t.group 0).seqUp = 1 ∧ (t.group 0).echoes = [] ∧ (t.group 0).upFlit.length = 296) := by decide +kernel

/-! ## The link (03) -/

/-- A fold that looks at each state before it goes on, so that a long one is evaluated in order. -/
def stepwise {α β : Type} (m : β → Nat) (f : β → α → β) : β → List α → β
  | s, [] => s
  | s, b :: bs => if m s = m s then stepwise m f (f s b) bs else s
theorem foldl_stepwise {α β : Type} (m : β → Nat) (f : β → α → β) (s : β) (bs : List α) : bs.foldl f s = stepwise m f s bs := by
  induction bs generalizing s with
  | nil => rfl
  | cons b bs ih => rw [List.foldl_cons, ih, stepwise, if_pos rfl]
theorem crc32_stepwise (bs : List Byte) : crc32 bs = ~~~ stepwise BitVec.toNat (crcByte 0xEDB88320#32) 0xFFFFFFFF#32 bs := by rw [crc32, foldl_stepwise BitVec.toNat]
theorem polyEval_stepwise (q : List Byte) (x : Byte) : polyEval q x = stepwise BitVec.toNat (fun acc c => gfMul acc x ^^^ c) 0 q := by rw [polyEval, foldl_stepwise BitVec.toNat]

/-- A flit of number 5 with no descriptor, and the same that asks for standby: header, empty units, CRC, parity (03 R81, R82, R83). -/
def flit5 : List Byte := [5, 0, 0, 0] ++ List.replicate 272 0 ++ [54, 88, 241, 198, 115, 158, 47, 179, 68, 56, 118, 253, 5, 234, 107, 4, 77, 77, 143, 213]
def standby5 : List Byte := [5, 16, 0, 0] ++ List.replicate 272 0 ++ [195, 66, 157, 75, 225, 209, 147, 134, 141, 49, 128, 53, 175, 30, 193, 119, 71, 71, 13, 100]
theorem flit5_even : (rsSyndromes (codeword flit5 0)).all (fun x => decide (x = 0)) = true := by simp only [rsSyndromes, polyEval_stepwise]; decide +kernel
theorem flit5_odd : (rsSyndromes (codeword flit5 1)).all (fun x => decide (x = 0)) = true := by simp only [rsSyndromes, polyEval_stepwise]; decide +kernel
theorem standby5_even : (rsSyndromes (codeword standby5 0)).all (fun x => decide (x = 0)) = true := by simp only [rsSyndromes, polyEval_stepwise]; decide +kernel
theorem standby5_odd : (rsSyndromes (codeword standby5 1)).all (fun x => decide (x = 0)) = true := by simp only [rsSyndromes, polyEval_stepwise]; decide +kernel
theorem flit5_crc : (crc32 (flit5.take 276)).toNat = leAt flit5 276 4 := by simp only [crc32_stepwise]; decide +kernel
theorem standby5_crc : (crc32 (standby5.take 276)).toNat = leAt standby5 276 4 := by simp only [crc32_stepwise]; decide +kernel
theorem zero_crc : (crc32 ((List.replicate 296 (0 : Byte)).take 276)).toNat ≠ leAt (List.replicate 296 0) 276 4 := by simp only [crc32_stepwise]; decide +kernel
theorem gfMul_zero (x : Byte) : gfMul 0 x = 0 := by simp [gfMul, gfMulGo, gfDouble]
theorem polyEval_zeros (n : Nat) (x : Byte) : polyEval (List.replicate n 0) x = 0 := by
  unfold polyEval
  induction n with
  | zero => rfl
  | succ n ih => rw [List.replicate_succ, List.foldl_cons, gfMul_zero]; exact ih
theorem getD_zeros (n k : Nat) : (List.replicate n (0 : Byte)).getD k 0 = 0 := by by_cases h : k < n <;> simp [List.getD, h]
theorem codeword_zeros (n c : Nat) : codeword (List.replicate n 0) c = List.replicate 148 0 := by
  simp only [codeword, getD_zeros, List.map_const']
  rfl
theorem syndromes_zeros (n c : Nat) : (rsSyndromes (codeword (List.replicate n 0) c)).all (fun x => decide (x = 0)) = true := by
  simp only [rsSyndromes, codeword_zeros, polyEval_zeros]
  decide
theorem getD_map_upFrom (f : Nat → Byte) (n k : Nat) (h : k < n) : ((upFrom 0 n).map f).getD k 0 = f k := by
  simp [List.getD, upFrom_getElem? 0 n k h]
theorem interleaved (flit : List Byte) (h : flit.length = 296) : (upFrom 0 296).map (fun i => (if i % 2 = 0 then codeword flit 0 else codeword flit 1).getD (i / 2) 0) = flit := by
  apply List.ext_getElem?
  intro i
  by_cases hi : i < 296
  · have e : ∀ c, (codeword flit c).getD (i / 2) 0 = flit.getD (2 * (i / 2) + c) 0 := by
      intro c
      exact getD_map_upFrom _ 148 (i / 2) (by omega)
    have g : flit[i]? = some (flit.getD i 0) := by simp [List.getD, h, hi]
    rw [g, List.getElem?_map, upFrom_getElem? 0 296 i hi]
    by_cases p : i % 2 = 0
    · have q : 2 * (i / 2) + 0 = i := by omega
      simp only [Nat.zero_add, Option.map_some, p, if_true, e, q]
    · have q : 2 * (i / 2) + 1 = i := by omega
      simp only [Nat.zero_add, Option.map_some, p, if_false, e, q]
  · have a : 296 ≤ i := by omega
    rw [List.getElem?_eq_none (by simpa using a), List.getElem?_eq_none (by omega)]
theorem receive_valid (flit : List Byte) (h0 : (rsSyndromes (codeword flit 0)).all (fun x => decide (x = 0)) = true) (h1 : (rsSyndromes (codeword flit 1)).all (fun x => decide (x = 0)) = true)
    (hl : flit.length = 296) :
    receive flit = if (crc32 (flit.take 276)).toNat ≠ leAt flit 276 4 then .lost true [] else if 2 ≤ bits (leAt flit 0 4) 13 12 then .lost false [] else .good flit [] := by
  simp only [receive, rsDecode, h0, h1, if_true, interleaved flit hl, Option.map_some, Option.getD_some, List.map_nil, List.append_nil]
theorem witness_flit : receive flit5 = .good flit5 [] := by
  rw [receive_valid flit5 flit5_even flit5_odd (by decide +kernel), flit5_crc, if_neg (not_not.mpr rfl), if_neg (by decide +kernel)]
theorem witness_standby_flit : receive standby5 = .good standby5 [] := by
  rw [receive_valid standby5 standby5_even standby5_odd (by decide +kernel), standby5_crc, if_neg (not_not.mpr rfl), if_neg (by decide +kernel)]
/-- A flit of zeros is a pair of codewords whose CRC fails. -/
theorem witness_lost_flit : receive (List.replicate 296 0) = .lost true [] := by rw [receive_valid _ (syndromes_zeros 296 0) (syndromes_zeros 296 1) List.length_replicate, if_pos zero_crc]
theorem witness_flit_kinds : leAt flit5 0 4 / 2 ^ 12 % 4 = 0 ∧ leAt standby5 0 4 / 2 ^ 12 % 4 = 1 ∧ (upFrom 0 16).all (fun u => leNat (unitBytes flit5 u) % 16 = 0) = true := by decide +kernel
/-- Lanes in order and generators at zero, which scramble nothing, so that the flit on the lanes is the flit received. -/
def quietLanes : State := linked (fun x => { x with lanes := (upFrom 0 8).map (fun l => (l, { Lane.zero with physLane := l })), scrDown := List.replicate 8 0 })
theorem witness_downstream : quietLanes.physUp 0 = true ∧ (quietLanes.group 0).shared = false
    ∧ flitOf ((scrambleAll ((upFrom 0 8).map ((quietLanes.group 0).laneIn (lanesOf flit5))) (quietLanes.group 0).scrDown).map (·.1)) = flit5 := by decide +kernel

def tset (typ lane : Nat) (eqDone remap : Nat) : List Byte :=
  let b : List Byte := [0x3C, 0xC3, 0x3C, 0xC3, BitVec.ofNat 8 typ, BitVec.ofNat 8 lane, 0, 0, BitVec.ofNat 8 eqDone, BitVec.ofNat 8 remap] ++ List.replicate 26 0
  b ++ [b.foldl (· ^^^ ·) 0]
def tsets (typ eqDone : Nat) : List (List Byte) := (upFrom 0 8).map (fun l => tset typ l eqDone 0)
def lanesAt (n : Nat) : Table Lane := (upFrom 0 8).map (fun l => (l, { Lane.zero with physLane := l, run := n }))
def training (p : TPhase) (n : Nat) : State := { plain with link := { LinkSt.zero with groups := [(0, { LaneGroup.zero with state := .train, tphase := p, lanes := lanesAt n })] } }
/-- The group's lanes meet their condition after sets of a type, with the receivers that `done` names adapted. -/
def metAfter (p : TPhase) (n typ e : Nat) (done : Byte) : Bool :=
  (((((training p n).modGroup 0 (·.adapt done)).sendSets 0).group 0).trainSet 0 ((training p n).remapOk 0) (tsets typ e) []).allMet
theorem witness_link_training : metAfter .detect 7 1 0 0 = true ∧ metAfter .detect 6 1 0 0 = false ∧ metAfter .eq 0 1 1 0xFF = true ∧ metAfter .eq 0 1 0 0xFF = false ∧ metAfter .eq 0 1 1 0x7F = false ∧ metAfter .config 7 2 0 0 = true ∧ metAfter .config 6 2 0 0 = false
    ∧ metAfter .align 15 3 0 0 = true ∧ metAfter .align 14 3 0 0 = false ∧ plain.powered = true ∧ (plain.group 1).state = .off := by decide +kernel
/-- An ACTIVE group with its lanes in order, and one in STANDBY. -/
def inOrder (st : GState) (n : Nat) : State := linked (fun x => { x with state := st, lanes := lanesAt 0, lostRun := n })
theorem witness_link_events : ((inOrder .active 0).group 0).setOn (tsets 1 0) 0 = some (tset 1 0 0 0) ∧ tsByte (tset 1 0 0 0) 4 = 1 ∧ ((inOrder .active 16).group 0).state = .active ∧ 16 ≤ ((inOrder .active 16).group 0).lostRun
    ∧ ((inOrder .standby 0).group 0).state = .standby ∧ (inOrder .standby 0).mg.linkDom.state = .on ∧ (inOrder .standby 0).powered = true ∧ (inOrder .active 15).powered = true ∧ ((inOrder .standby 0).group 0).shared = false ∧ ((inOrder .standby 0).group 0).carried = false
    ∧ (48 ≤ 48 ∧ 47 < 48 ∧ 100 < 101 ∧ 200 ≤ 200) ∧ plain.mg.linkDom.going = none ∧ plain.link.pllLocked = false := by decide +kernel
theorem test_training_sets : ((next (exec (.trainingSetReceive 0 (tsets 1 0) [] 0) (training .detect 7))).group 0).tphase = .eq ∧ ((next (exec (.trainingSetReceive 0 (tsets 3 0) [] 0) (training .align 15))).group 0).state = .active
    ∧ ((next (exec (.trainingSetReceive 0 (tsets 1 0) [] 0) (inOrder .active 0))).group 0).state = .train ∧ ((next (exec (.trainPhaseLimit 0) (training .eq 0))).group 0).laneFailed = 0xFF := by decide +kernel
theorem test_link_events : ((next (exec (.groupUnaligned 0) (inOrder .active 16))).group 0).retrains = 1 ∧ ((next (exec (.groupUnaligned 0) (inOrder .active 15))).group 0).retrains = 0
    ∧ ((next (exec (.standbyResume 0) (inOrder .standby 0))).group 0).state = .active ∧ (next (exec (.swell 0 48) plain)).link.swellSeen = true ∧ (next (exec (.activity 0 101 200) plain)).link.activitySeen = true
    ∧ ((next (exec .linkPllLock plain)).group 15).state = .train ∧ ((next (exec (.retrain 0) plain)).group 0).state = .train := by decide +kernel

/-! ## Power, clocks, temperature, counters, resets (13, 14, 16, 17) -/

def bankPwr (p : PowerDom) : State := { plain with chans := [(0, { ch0 with banks := [(0, { BankSt.zero with pwr := p })] })] }
def chanPwr (f : ChPower → ChPower) : State := { plain with chans := [(0, { ch0 with pwr := f ch0.pwr })] }
def coreDom (p : PowerDom) : State := { plain with mg := { plain.mg with mgmtDom := p } }
theorem witness_power : (let s := bankPwr { PowerDom.zero with target := 1 }; let p := s.dom (.bank 0 0); s.powered = true ∧ p.target = 1 ∧ s.inTransit (.bank 0 0) = false ∧ p.state.up = true ∧ s.waits (.bank 0 0) = true
      ∧ coreOwned (.bank 0 0) = false ∧ p.waiting = false ∧ s.refuser (.bank 0 0) 1 = 0 ∧ ({ s with sc := { s.sc with level := 3 } }).refuser (.bank 0 0) 1 ≠ 0 ∧ p.refused + 1 ≠ 0xFFFF)
    ∧ (let s := coreDom { PowerDom.zero with target := 1 }; let w := s.modBoot (fun b => { b with coreWait := true }); coreOwned .management = true ∧ s.inTransit .management = false ∧ (s.dom .management).state.up = true
      ∧ w.waits .management = true ∧ s.refuser .management 1 = 0)
    ∧ (bankPwr { PowerDom.zero with going := some .on }).inTransit (.bank 0 0) = true ∧ (bankPwr { PowerDom.zero with target := 1, waiting := true }).waits (.bank 0 0) = true
    ∧ (plain.dom (.bank 0 0)).target = 0 ∧ (coreDom PowerDom.zero).dom .management = PowerDom.zero
    ∧ (let s := bankPwr { PowerDom.zero with going := some .off }; (s.dom (.bank 0 0)).going = some .off ∧ (s.dom (.bank 0 0)).held = false ∧ (s.dom (.bank 0 0)).state.up = true)
    ∧ (let s := chanPwr (fun p => { p with selfRefresh := true, dom := { p.dom with going := some .retention } }); (s.dom (.channel 0)).going = some .retention ∧ (s.chan 0).pwr.selfRefresh = true)
    ∧ (let s := bankPwr { PowerDom.zero with state := .retention }; (s.dom (.bank 0 0)).state = .retention ∧ (s.dom (.bank 0 0)).going = none ∧ s.inTransit (.bank 0 0) = false)
    ∧ up.winStatus (domWin (.bank 0 0)) = .ok ∧ up.winReached (domWin (.bank 0 0)) = true ∧ (plain.dom (.bank 0 0)).state.up = true
    ∧ (let s := up; s.inTransit (.bank 0 0) = false ∧ s.waits (.bank 0 0) = true ∧ s.refuser (.bank 0 0) 1 = 0)
    ∧ (let s := bankPwr { PowerDom.zero with state := .retention, going := some .on }; (s.dom (.bank 0 0)).going = some .on ∧ (s.dom (.bank 0 0)).state = .retention ∧ (s.dom (.bank 0 0)).held = false)
    ∧ (let s := chanPwr (fun p => { p with dom := { p.dom with state := .off, going := some .waking } }); (s.chan 0).pwr.dom.going = some .waking ∧ (s.chan 0).pwr.dom.held = false ∧ s.mg.switchDom.state = .on)
    ∧ (let s := chanPwr (fun p => { p with accepting := false, dom := { p.dom with state := .retention, going := some .waking } }); (s.chan 0).pwr.dom.state = .retention ∧ (s.chan 0).pwr.accepting = false)
    ∧ ({ plain with mg := { plain.mg with switchDom := { PowerDom.zero with state := .retention } } }).mg.switchDom.state ≠ .on := by decide +kernel
theorem test_power : ((next (exec (.ownerWait (.bank 0 0)) (bankPwr { PowerDom.zero with target := 1 }))).dom (.bank 0 0)).going = some .retention
    ∧ ((next (exec (.pointOfNoReturn (.bank 0 0)) (bankPwr { PowerDom.zero with going := some .off }))).dom (.bank 0 0)).state = .off
    ∧ ((next (exec (.wakeSource (.bank 0 0)) (bankPwr { PowerDom.zero with going := some .off }))).dom (.bank 0 0)).refuser = 7 ∧ ((next (exec (.targetWrite (.bank 0 0) 1) up)).dom (.bank 0 0)).target = 1
    ∧ ((next (exec (.transitionComplete (.bank 0 0)) (bankPwr { PowerDom.zero with state := .retention, going := some .on }))).dom (.bank 0 0)).state = .on := by decide +kernel

theorem witness_clocks : (let s := chanPwr (fun p => { p with dom := { p.dom with going := some .retention } }); (s.chan 0).pwr.dom.entering = true ∧ (s.chan 0).pwr.selfRefresh = false)
    ∧ (let s := chanPwr (fun p => { p with selfRefresh := true }); (s.chan 0).pwr.selfRefresh = true ∧ (s.chan 0).pwr.dom.entering = false ∧ (s.chan 0).pwr.dom.state.up = true ∧ (s.chan 0).pwr.fromOff = false)
    ∧ (let s := { plain with chans := [(0, { ch0 with pwr := { ch0.pwr with selfRefresh := true, fromOff := true, dom := { ch0.pwr.dom with state := .waking } }, train := { ch0.train with phase := .bond } })] }
       (s.chan 0).pwr.selfRefresh = true ∧ (s.chan 0).pwr.fromOff = true ∧ (s.chan 0).train.phase = .bond)
    ∧ (let s := chanPwr (fun p => { p with pllReq := true, dom := { p.dom with state := .waking } }); s.reached = true ∧ (s.chan 0).pwr.dom.state = .waking ∧ (s.chan 0).pwr.pllReq = true ∧ (s.chan 0).pwr.fromOff = false ∧ (s.chan 0).pwr.dom.held = false)
    ∧ (chanPwr (fun p => { p with fromOff := true })).chan 0 = { ch0 with pwr := { ch0.pwr with fromOff := true } } ∧ (plain.chan 0).pwr.dom.state = .on ∧ (plain.chan 0).pwr.opChanging = none
    ∧ min (1 : BitVec 2).toNat 2 ≠ (plain.chan 0).pwr.opNow ∧ min (0 : BitVec 2).toNat 2 = (plain.chan 0).pwr.opNow ∧ ((chanPwr (fun p => { p with opChanging := some 1 })).chan 0).pwr.opChanging = some 1
    ∧ allowSum (tput plain.ledger.allow 0 6250) ≤ 3200000 ∧ 3200000 < allowSum (tput plain.ledger.allow 0 6251) ∧ 20000 < 20001 ∧ 0 ≤ plain.effective 0 ∧ (plain.chan 0).thr.limDuty = 16 ∧ plain.effective 0 < plain.effective 0 + 1 := by decide +kernel
theorem test_clocks : ((next (exec (.pllLock 0) (chanPwr (fun p => { p with pllReq := true, opTarget := 3, dom := { p.dom with state := .waking } })))).chan 0).pwr.opNow = 2
    ∧ ((next (exec (.opTargetWrite 0 3) up)).chan 0).pwr.opChanging = some 2 ∧ ((next (exec (.opPointChangeDone 0) (chanPwr (fun p => { p with opChanging := some 1 })))).chan 0).pwr.opNow = 1
    ∧ (next (exec (.ledgerAllowWrite 0 6250) plain)).ledger.allow = [(0, 6250)] ∧ (next (exec (.ledgerAllowWrite 0 6251) plain)).ledger.allocRefused = true
    ∧ ((next (exec (.pllLockLoss 0) plain)).chan 0).pwr.dom.state = .waking ∧ ((next (exec (.selfRefreshEntry 0) (chanPwr (fun p => { p with dom := { p.dom with going := some .off } })))).chan 0).pwr.selfRefresh = true := by decide +kernel

/-- Sensor 2607 is clamped; logic sensor 0 warns above 95 degrees, in quarters. -/
theorem test_sensors : ((next (exec (.sensorRead [(2607, 3000)]) plain)).sensor 2607).temp = 2047 ∧ ((next (exec (.sensorRead [(0, 381)]) plain)).sensor 0).warn = true ∧ ((next (exec (.sensorRead [(0, 380)]) plain)).sensor 0).warn = false := by decide +kernel
theorem witness_sensors : plain.powered = true ∧ (0 : Chan).val = 0 / 16 * 4 + 0 % 16 / 4 ∧ (511 : Chan).val = 2047 / 16 * 4 + 2047 % 16 / 4 ∧ (0 : Chan).val / 4 = (2048 - 2048) / 4 ∧ (511 : Chan).val / 4 = (2559 - 2048) / 4 := by decide
theorem witness_throttle : ((ch0.thr).update 8).duty = 14 ∧ ((ch0.thr).update 9).duty = 12 ∧ ((ch0.thr).update 33).duty = 4 ∧ ((ch0.thr).update 33).cap = 2 ∧ ((ch0.thr).update 0).engaged = false
    ∧ (({ ch0.thr with engaged := true }).update (-15)).engaged = true ∧ (({ ch0.thr with engaged := true }).update (-16)).engaged = false := by decide

def counted : State := { up with port := { up.port with hostFaults := 3 }, mg := { plain.mg with errHead := 3, engagements := 2 }, chans := [(0, { ch0 with msgFull := 3, wlog := [(0, .zero)] })] }
theorem witness_counters : up.reached = true ∧ up.winStatus (.chan 0) = .ok ∧ (plain.chan 0).allFree = true ∧ ((withCtx ring0).chan 0).allFree = false := by decide +kernel
theorem test_counters : (next (exec .hbSyncClearCounters counted)).port.hostFaults = 0 ∧ (next (exec .errLogClear counted)).mg.errHead = 0 ∧ (next (exec .thermStatClear counted)).mg.engagements = 0
    ∧ ((next (exec (.syncClearCounters 0) counted)).chan 0).msgFull = 0 ∧ ((next (exec (.clearWlog 0) counted)).chan 0).wlog = [] := by decide +kernel

/-- Supplied, running, and with something in memory. -/
def alive : State := { plain with pins := { plain.pins with vaon := true, vin := true, charged := true, porstN := true, warmrstN := true, refclk := true, trstN := true }, mem := [(5, 7)] }
theorem witness_resets : alive.pins.vaon = true ∧ alive.pins.porstN = true ∧ alive.pins.warmrstN = true ∧ alive.pins.refclk = true ∧ alive.mg.tripLatch = false ∧ alive.pins.vin = true ∧ tfind alive.chans 0 = some ch0
    ∧ tripAt (dieOf 0) < tripAt (dieOf 0) + 1 ∧ ({ alive with pins := { alive.pins with vaon := false } }).pins.vaon = false := by decide +kernel
theorem test_resets : (next (exec (.porstNAssert 237) alive)).chans = [] ∧ (next (exec (.porstNAssert 237) alive)).mem = [(5, 7)] ∧ (next (exec (.porstNAssert 236) alive)).chans ≠ [] ∧ (next (exec (.warmrstNAssert 23) alive)).mg.boot.phase = .hwInit
    ∧ (next (exec .modulePowerOff alive)).mem = [] ∧ (next (exec (.thermalTrip 0 (tripAt (dieOf 0) + 1)) alive)).mg.tripLatch = true ∧ (next (exec .vaonRemoved alive)).pins.vaon = false := by decide +kernel

/-! ## More of the vector engine (08) -/

def vxq (l : LayerRun) (f : SliceSt → SliceSt) : State := sl0 .vx (fun x => { f x with layer := some l })
/-- Word 0 of a LAYER with VX in queue mode and summaries posted; queue 0 of 128 bytes in entries of 64, semaphores 1 and 2. -/
def queueLayer : LayerRun := { layer0 with cfg := [0x102, 0x800000, 0x2100] }
theorem witness_reducers : (let s := sl0 .vx (fun x => { x with reds := [(0, { Reducer.zero with kind := .sum })] }); issues s 0 .vx ∧ one.ok 4 = true ∧ (s.slice 0).layer = some layer0
      ∧ (tget (s.slice 0).reds 0 .zero).kind = .sum ∧ (at0 0).ok one = true ∧ alignedAt s 0 .vx 16 (at0 0) ∧ tripsTotal s 0 .vx one = 1 ∧ (placeAt s 0 .vx one 0 (at0 0)).fits 80 = true)
    ∧ bitAt (layer0.word 0) 3 = false ∧ (-64 : Int) ≤ -64 ∧ (63 : Int) ≤ 63 := by decide +kernel
def posting (n : Nat) : State := vxq { layer0 with cfg := [8] } (fun x => { x with sems := [(14, n)] })
theorem witness_posts : (let s := posting 1; issues s 0 .vx ∧ (s.slice 0).layer = some { layer0 with cfg := [8] } ∧ bitAt (({ layer0 with cfg := [8] } : LayerRun).word 0) 3 = true ∧ ((s.slice 0).eng .mx).state ≠ .semWait
      ∧ tripsTotal s 0 .vx one ≤ (s.slice 0).sem 14) ∧ ((posting 0).slice 0).sem 14 = 0 := by decide +kernel
theorem test_posts : ((next (exec (.vxRpost 0 0 1 one) (posting 1))).slice 0).sumQ.length = 1 ∧ ((next (exec (.vxRpost 0 0 1 one) (posting 1))).slice 0).sem 15 = 1
    ∧ (((next (exec (.vxRpost 0 0 1 one) (posting 0))).slice 0).eng .vx).state = .semWait := by decide +kernel

theorem witness_tiles : (let s := sl0 .vx id; issues s 0 .vx ∧ (at0 64).ok one = true ∧ alignedAt s 0 .vx 64 (at0 64) ∧ (placeAt s 0 .vx one 0 (at0 64)).fits 1024 = true ∧ tredOk 16 .sum .fp32 = true
      ∧ qblkOk .fp32 .e4m3 256 = true ∧ baseAt s 0 .vx (at0 64) % 8 = 0 ∧ (placeAt s 0 .vx one 0 (at0 0)).fits (extent .fp32 32 1) = true) := by decide +kernel
theorem test_tiles : (let s := sl0 .vx (fun x => { x with scratch := [(1, 9)], tiles := [(4, 7)] })
    rd ((next (exec (.vxTld 0 1 (at0 0) one none) s)).slice 0).tiles 1025 = 9 ∧ rd ((next (exec (.vxTtr 0 0 1 4 one none) s)).slice 0).tiles 1088 = 7) := by decide +kernel
theorem witness_tree : (let s := vxq { layer0 with fp64 := true } (fun x => { x with ars := [(1, 0), (2, 1)] }); issues s 0 .vx ∧ (s.slice 0).layer = some { layer0 with fp64 := true } ∧ ((s.slice 0).eng .vx).vals = []
      ∧ nodeOf (arAtIssue s 0 .vx 2).toNat (arAtIssue s 0 .vx 1).toNat (tripsTotal s 0 .vx one) (treeHeight (arAtIssue s 0 .vx 2).toNat) = some (0, 0)
      ∧ treeParent (arAtIssue s 0 .vx 2).toNat ((s.slice 0).rdAt (placeAt s 0 .vx ⟨[]⟩ 0 (at0 0)) 16) ((s.slice 0).rdAt (placeAt s 0 .vx ⟨[]⟩ 0 (at0 16)) 16) = none)
    ∧ (treeParent 2 (treeRecord 0 0 0) (treeRecord 0 0 1)).isSome = true := by decide +kernel

def queued (f : SliceSt → SliceSt) : State := vxq queueLayer f
theorem witness_queue_mode : (let s := queued (fun x => { x with sems := [(1, 1), (2, 1)] }); issues s 0 .vx ∧ ((s.slice 0).eng .vx).loopPos = 0 ∧ (s.slice 0).layer = some queueLayer ∧ queueLayer.qmode .vx = true ∧ (at0 0).tile = none
      ∧ (at0 0).ok ⟨[]⟩ = true ∧ ((s.slice 0).eng .mx).state ≠ .semWait ∧ queueLayer.queue 1 = none ∧ queueLayer.queue 0 = some ⟨0, 128, 64, 1, 2⟩ ∧ 1 ≤ (s.slice 0).sem 1 ∧ tget (s.slice 0).qHead 0 0 + 1024 ≤ 0x8000)
    ∧ ((queued id).slice 0).sem 1 = 0 ∧ ((queued id).slice 0).sem 2 = 0 := by decide +kernel
/-- 06 R184: an entry taken from queue 0, its pointer one entry on, and the entry returned as free. -/
theorem test_queue_mode : (let x := (next (exec (.vxKld 0 0 (at0 0) .fp32 ⟨[]⟩ none) (queued (fun x => { x with sems := [(1, 1)] })))).slice 0; x.sem 1 = 0 ∧ x.sem 2 = 1 ∧ x.qHead = [(0, 64)])
    ∧ (((next (exec (.vxKld 0 0 (at0 0) .fp32 ⟨[]⟩ none) (queued id))).slice 0).eng .vx).state = .semWait := by decide +kernel

/-! ## Security (15) -/

/-- FIPS 202: SHAKE256 of no bytes. -/
theorem test_shake256 : shake256 [] = [0x46, 0xb9, 0xdd, 0x2b, 0x0b, 0xa8, 0x8d, 0x13, 0x23, 0x3b, 0x3f, 0xeb, 0x74, 0x3e, 0xeb, 0x24,
    0x3f, 0xcd, 0x52, 0xea, 0x62, 0xb8, 0x1b, 0x82, 0xb5, 0x0c, 0x27, 0x64, 0x6e, 0xd5, 0x76, 0x2f] := by decide +kernel

def sec (f : SecSt → SecSt) : State := { alive with sc := f { alive.sc with nonce := List.replicate 32 0 } }
/-- A token of the device whose ID is `dev`: kind, argument, root and owner byte. -/
def token (dev : List Byte) (kind arg : Byte) : List Byte := leBytes 4 0x4E4B5444 ++ leBytes 2 1 ++ [kind, arg] ++ dev ++ List.replicate 5920 0
def dev0 : List Byte := [213, 112, 178, 60, 69, 95, 79, 67, 196, 191, 52, 170, 111, 43, 118, 40, 201, 61, 214, 23, 141, 231, 203, 211, 46, 129,
  174, 184, 121, 99, 3, 38]
theorem device_id : alive.deviceId = dev0 := by decide +kernel
/-- A DEBUG token for OBSERVE is accepted without signatures in BLANK; with another format, device or challenge it is not. -/
theorem witness_token : tokFormat (token dev0 1 1) = true ∧ bytesAt (token dev0 1 1) 8 32 = dev0 ∧ bytesAt (token dev0 1 1) 40 32 = (sec id).sc.nonce ∧ (sec id).sc.lifecycleNow = 0
    ∧ (sec id).sc.queue = [] ∧ (sec id).sc.tokenOk = false ∧ (sec id).reached = true ∧ (sec id).secOn = true ∧ leAt ([] : List Byte) 0 4 ≠ 0x4E4B5444 ∧ tokFormat (token (List.replicate 32 0) 1 1) = true
    ∧ bytesAt (token (List.replicate 32 0) 1 1) 8 32 ≠ dev0 ∧ (sec (fun x => { x with nonce := [] })).sc.nonce ≠ bytesAt (token dev0 1 1) 40 32 ∧ tokFormat (token dev0 4 1) = true
    ∧ tokHasRoot (token dev0 4 1) = false ∧ (sec (fun x => { x with lifecycleNow := 4 })).sc.lifecycleNow = 4 ∧ (sec id).accepted 1 = none := by decide +kernel
theorem witness_accepted_token : (sec id).checkToken (token dev0 1 1) = 0 := by
  have h : (sec id).deviceId = dev0 := device_id
  rw [State.checkToken, h]
  decide +kernel
theorem test_submit : (next (exec .submit (sec id))).sc.result = 2 ∧ (next (exec .relock (sec (fun x => { x with level := 2 })))).sc.level = 0 ∧ (next (exec .challenge (sec (fun x => { x with nonce := [] })))).sc.nonce.length = 32 := by decide +kernel

/-- An accepted token at the head of the queue, of a kind and an argument. -/
def holdingToken (kind arg : Byte) (lc : BitVec 4) (f : Fuses → Fuses) : State :=
  { sec (fun x => { x with lifecycleNow := lc, tokenOk := true, queue := [.token (leBytes 6 0 ++ [kind, arg]) false] }) with fuses := f { alive.fuses with valid0 := true }, mg := { alive.mg with alert := 0x1000 } }
theorem witness_accepted : (let s := holdingToken 1 1 1 id; s.secOn = true ∧ s.sc.tokenOk = true ∧ s.sc.queue = [.token (leBytes 6 0 ++ [1, 1]) false] ∧ tokKind (leBytes 6 0 ++ [1, 1]) = 1 ∧ tokArg (leBytes 6 0 ++ [1, 1]) = 1 ∧ s.certifies = true ∧ s.exhausted = false)
    ∧ tokArg (leBytes 6 0 ++ [1, 3]) = 3 ∧ (holdingToken 1 3 0 id).certifies = false ∧ (let s := holdingToken 2 1 0 (fun f => { f with valid0 := true }); (s.fuses.valid0 || s.fuses.valid1) = true)
    ∧ (holdingToken 2 4 1 id).sc.lifecycleNow ≠ 3 ∧ (holdingToken 2 2 1 (fun f => { f with lifecycle := 1 })).fuses.lifecycle = 1
    ∧ (let s := holdingToken 4 64 1 id; s.fuses.secver ≤ 64 ∧ s.mg.alert.getLsbD 12 = true) ∧ (holdingToken 5 0 1 id).fuses.ownerHash = none := by decide +kernel
theorem test_accepted : (next (exec .debug (holdingToken 1 2 0 id))).sc.level = 2 ∧ (next (exec (.lifecycle []) (holdingToken 2 2 1 (fun f => { f with lifecycle := 1 })))).fuses.lifecycle = 3
    ∧ (next (exec (.lifecycle [false, false]) (holdingToken 2 2 1 (fun f => { f with lifecycle := 1 })))).sc.result = 10 ∧ (next (exec (.revoke []) (holdingToken 3 2 1 id))).fuses.rootRevoke = 4
    ∧ (next (exec (.secver []) (holdingToken 4 3 1 id))).fuses.secver = 3 := by decide +kernel

def key0 (n : Nat) : SessionKey := ⟨[], 1, n, [], []⟩
def attesting (f : SecSt → SecSt) : State := { sec (fun x => f { x with lifecycleNow := 1 }) with fuses := { alive.fuses with valid0 := true } }
theorem witness_attestation : (attesting (fun x => { x with attBusy := true })).sc.attBusy = true ∧ (attesting id).certifies = true ∧ (sec id).certifies = false ∧ (attesting id).sc.queue = [] ∧ (attesting id).sc.sample = []
    ∧ (attesting (fun x => { x with session := some (key0 0) })).sc.session = some (key0 0) ∧ ({ attesting id with mram := { alive.mram with nextIndex := 2 ^ 20 } }).exhausted = true ∧ (attesting id).exhausted = false
    ∧ (let s := attesting (fun x => { x with session := some (key0 65534), sample := [1], queue := [.report false []] }); s.sc.sample ≠ [] ∧ s.sc.queue = [.report false []] ∧ (key0 65534).nextIndex + 1 < 65536 ∧ (key0 65535).nextIndex + 1 = 65536)
    ∧ (let s := { attesting (fun x => { x with queue := [.session] }) with fuses := { alive.fuses with valid0 := true, idBlocks := 1 } }; s.mram.nextIndex < 1024 * s.fuses.idBlocks ∧ s.mram.nextIndex + 1 < 2 ^ 20)
    ∧ 1024 * (attesting id).fuses.idBlocks ≤ (attesting id).mram.nextIndex := by decide +kernel
theorem test_attestation : (next (exec .attestGo (attesting (fun x => { x with attBusy := true })))).sc.attRefused = true ∧ (next (exec .attestGo (sec id))).sc.attResult = 2
    ∧ (next (exec .reportSigned (attesting (fun x => { x with session := some (key0 65535), sample := [1], queue := [.report false []] })))).sc.session = none
    ∧ (next (exec (.sessionKeyGenerated [false, false]) (attesting (fun x => { x with queue := [.session] })))).sc.lastEvent = 7 := by decide +kernel

/-! ## Boot, firmware, sideband, debug (15, 16) -/

def env0 : BootEnv := { stages := 4, tripReading := 0, aonToggles := true, sweeps := [], idRecordOk := true, bootRecordOk := true, tokenRecordOk := true, blows := [] }
theorem witness_boot : (let p := State.reset.pins; p.vaon = true ∧ p.vin = true ∧ p.refclk = true ∧ p.porstN = false ∧ p.charged = true) ∧ State.reset.mg.tripLatch = false ∧ State.reset.sc.queue = []
    ∧ (let s := { alive with pins := { alive.pins with warmrstN := false }, mg := { alive.mg with boot := { alive.mg.boot with zeroPending := false } } }; s.pins.porstN = true ∧ s.pins.warmrstN = false ∧ s.mg.boot.zeroPending = false ∧ s.sc.queue = [])
    ∧ (let s := { State.reset with mg := { State.reset.mg with tripLatch := true, tripSensor := 0 } }; s.mg.tripLatch = true ∧ tripAt (dieOf s.mg.tripSensor) - 60 < tripAt (dieOf 0) - 59)
    ∧ lifecycleCode State.reset.fuses.lifecycle = 0 := by decide +kernel
theorem test_boot : (next (exec (.boot env0) { State.reset with pins := { State.reset.pins with charged := false } })).pins.releaseHeld = true
    ∧ (next (exec (.boot env0) { State.reset with pins := { State.reset.pins with vin := false } })).pins.porstN = false := by decide +kernel

def booted (f : BootSt → BootSt) : State := { alive with mg := { alive.mg with boot := f { alive.mg.boot with phase := .waitImage } } }
theorem witness_firmware : (booted id).reached = true ∧ (booted id).mg.boot.phase = .waitImage ∧ (booted id).mg.boot.straps.getLsbD 2 = false ∧ (booted (fun b => { b with straps := 4 })).mg.boot.straps.getLsbD 2 = true
    ∧ (booted (fun b => { b with phase := .loading })).mg.boot.phase = .loading ∧ (let s := { booted (fun b => { b with phase := .loading }) with refCount := usRef 10000000 }; s.mg.boot.loadStart + usRef 10000000 ≤ s.refCount)
    ∧ (let s := { booted id with sc := { alive.sc with queue := [.firmware] } }; s.secOn = true ∧ s.sc.queue = [.firmware] ∧ s.checkContainer s.mg.boot.slot ≠ 1)
    ∧ (booted id).mg.boot.slotValid = false ∧ (booted (fun b => { b with slotValid := true })).recentExpiries.length < 3 ∧ 3 ≤ (booted (fun b => { b with slotValid := true, expiries := [0, 0] })).recentExpiries.length := by decide +kernel
theorem test_firmware : (next (exec .startLink (booted id))).mg.boot.phase = .loading ∧ (next (exec .bootGo (booted (fun b => { b with phase := .loading })))).mg.boot.phase = .verify
    ∧ (next (exec .firmwareVerified { booted id with sc := { alive.sc with queue := [.firmware] } })).sc.lastEvent = 8 ∧ (next (exec (.recover 0x4C0A) (booted (fun b => { b with phase := .running })))).mg.boot.recover = true
    ∧ (next (exec .mgmtWatchdogExpire (booted (fun b => { b with slotValid := true })))).mg.boot.phase = .verify := by decide +kernel

def firm (f : BootSt → BootSt) : State := booted (fun b => f { b with phase := .running })
theorem witness_duties : (firm id).fwRuns = true ∧ (booted id).fwRuns = false ∧ (firm id).mram.repairs.length < 4096 ∧ ({ firm id with mg := { (firm id).mg with alert := 1 } }).mg.alert.getLsbD 0 = true ∧ 4096 ≤ (List.replicate 4096 (⟨.row, 0, 0, 0, 0, true⟩ : Repair)).length := by decide +kernel
theorem test_duties : (next (exec (.shedMeasure 91) (firm id))).mg.boot.level = 1 ∧ (next (exec (.shedMeasure 90) (firm id))).mg.boot.level = 0 ∧ (next (exec (.shedMeasure 59) (firm (fun b => { b with level := 1, calm := 9 })))).mg.boot.level = 0
    ∧ (next (exec (.repairRecord .row 0 0 0) (firm id))).mram.repairs.length = 1 := by decide +kernel
theorem witness_sideband : (booted id).sbReady = true ∧ (firm id).sbReport = false ∧ (firm (fun b => { b with level := 1 })).mg.boot.level = 1 ∧ ({ alive with mg := { alive.mg with mgmtDom := { PowerDom.zero with state := .retention } } }).mg.mgmtDom.state ≠ .on
    ∧ alive.powered = true ∧ (booted (fun b => { b with phase := .closed })).mg.boot.phase = .closed ∧ (let b := (booted (fun b => { b with phase := .loading, source := .smbus })).mg.boot; b.phase = .loading ∧ b.source = .smbus) := by decide +kernel
theorem test_sideband : (next (exec (.fwBegin true) (booted id))).mg.boot.source = .smbus ∧ (next (exec (.fwBegin true) (booted (fun b => { b with phase := .closed })))).mg.boot.sbOut = [3, 2]
    ∧ (next (exec (.setEndpointId true 9) (booted id))).mg.boot.eid = 9 ∧ (next (exec (.attest true []) (booted id))).mg.boot.sbOut = [4] ∧ (next (exec (.getEndpointId false) (booted id))).mg.boot.sbOut = []
    ∧ (next (exec (.errlogRead true 255 2) (firm id))).mg.boot.sbOut = [2] ∧ (next (exec (.getMessageTypeSupport true) (booted id))).mg.boot.sbOut = [0, 2, 0x01, 0x7E] := by decide +kernel

def debugged (n : BitVec 2) : State := sec (fun x => { x with level := n })
theorem witness_debug : (debugged 2).tapRuns = true ∧ (debugged 2).powered = true ∧ ((debugged 2).chan 0).strictCtx = false ∧ (((debugged 2).chan 0).bank 0).pwr.state = .on ∧ ((debugged 2).chan 0).leased 0 = false
    ∧ ({ debugged 2 with chans := [(0, { ch0 with ctxs := [(0, { ring0 with strict := true })] })] }.chan 0).strictCtx = true ∧ (({ debugged 2 with chans := [(0, { ch0 with banks := [(0, { BankSt.zero with lease := some true })] })] }).chan 0).leased 0 = true
    ∧ observable (regTarget 0x020000403004) = true ∧ ((debugged 1).wordOf (debugged 1).now (regTarget 0x020000403004)).isSome = true ∧ (debugged 1).targetPower (regTarget 0x020000403004) ≠ .off
    ∧ (debugged 1).wordOf (debugged 1).now (regTarget 0x020000007000) = none ∧ ((debugged 3).dom .link).state = .on ∧ (debugged 2).mg.mgmtDom.state = .on := by decide +kernel
theorem test_debug : (next (exec (.dbgAccess (.writeScratch 0 5 7)) (debugged 2))).sc.tapStatus = .ok ∧ rd ((next (exec (.dbgAccess (.writeScratch 0 5 7)) (debugged 2))).slice 0).scratch 5 = 7
    ∧ (next (exec (.dbgAccess (.writeScratch 0 5 7)) (debugged 1))).sc.tapStatus = .denied ∧ ((next (exec (.dbgAccess (.halt 0)) (debugged 2))).slice 0).halted = true
    ∧ (next (exec (.dbgAccess (.readArray 5)) (debugged 2))).sc.tdo = [true, true, true, false, false, false, false, false]
    ∧ (next (exec (.bypass [true, false]) (debugged 0))).sc.tdo = [false, true] := by decide +kernel

theorem test_scan : (next (exec (.dbgScan .link [true, false]) (debugged 3))).sc.tdo.length = 2 ∧ (next (exec (.dbgScan .link []) (debugged 3))).sc.tapStatus = .ok ∧ (next (exec (.dbgScan .link []) (debugged 2))).sc.tapStatus = .denied := by decide +kernel

/-! ## The whole -/

theorem reset_canonical : Memory.wf State.reset.mem = true := rfl
theorem witness_step (c : Instr) : State.reset.pending = [] ∧ ({ State.reset with pending := [c] }).pending = c :: [] := ⟨rfl, rfl⟩
theorem test_step : (next (step { up with pending := [.add obj0 3 0] })).pending = [] ∧ (next (step up)).refCount = 1 ∧ (State.reset.withFetchWord 8 0).pending = [] ∧ decodeTableWord 8 0 = none := by decide +kernel
theorem witness_no_encoding : ({ mv with lp := ⟨List.replicate 7 (.lit 1)⟩ } : BxMove).ok = false ∧ ({ mma with fa := .fp16 } : MmaOp).ok = false ∧ ({ rnd with adj := 64 } : RoundOp).ok = false ∧ ({ run with stages := [] } : VxRun).ok = false
    ∧ ((0 : AReg).val = 0 ∧ 27 < (28 : AReg).val) := by decide

/-! ## Further witnesses -/

/-- 05 Table 9: an object of 256 bytes with one section, 128 bytes for MX from byte 128, and one entry that starts MX there. -/
def object0 : List Byte := word 4 0x4E394F42 ++ word 2 1 ++ word 2 9 ++ word 4 256 ++ word 2 1 ++ word 2 1 ++ word 2 1 ++ word 2 0 ++ word 4 0 ++ word 40 0
  ++ word 4 128 ++ word 4 128 ++ word 2 1 ++ word 38 0 ++ word 4 0 ++ word 4 0xFF ++ word 4 0xFF ++ word 4 0xFF
def layerCmd : Cmd := { cmd0 .layer with raw := raw2 2 sel0, desc := [], todo := [0], running := [], skein := [1, 2] }
def startState : State := { up with
  chans := [(0, { ch0 with code := wrL [] 0 object0, ctxs := [(0, { ring0 with pageCount := 1, sliceSet := 0x00010080, inflight := [layerCmd] })] })]
  slices := [(0, { SliceSt.zero with work := [⟨0, 0⟩] })] }
def object0At : CodeObj := readObj (wrL [] 0 object0) 0
theorem witness_layer_start : (startState.slice 0).nextWork = some ⟨0, 0⟩ ∧ startState.readyLayer 0 ⟨0, 0⟩ = some layerCmd ∧ startState.turn 0 0 0 = true
    ∧ (startState.chan 0).layerObj (startState.ctx 0 0) layerCmd.raw = some object0At ∧ object0At.program 0 0 = some (128, 256, 128) ∧ object0At.program 0 1 = none ∧ layer0.queuesOk = true := by decide +kernel
theorem test_layer_start : (let x := (next (exec (.layerStart 0) startState)).slice 0; (x.eng .mx).pc = 128 ∧ (x.eng .mx).active = true ∧ (x.eng .vx).active = false ∧ x.skeinW 0 = 1 ∧ x.skeinW 1 = 2) := by decide +kernel

/-- Skein words from memory, and a LAYER of no slice, which is finished at once. -/
theorem witness_layer_words : bodyF (raw2 2 (sel0 + 2 ^ 44)) 44 44 = 1 ∧ up.banksServe [(0, 4)] = true ∧ workSlices 0 .layer (raw2 2 0) = [] := by decide +kernel
/-- A message on its way to a module-scope object holds back a FENCE MODULE. -/
theorem witness_link_busy : ({ flying .fence (raw2 9 3) .dispatched with syncQ := [⟨.module 0, .signal 1, .command 0 0 1 0 5, 0, 0⟩] }).linkClear 0 = false := by decide +kernel

/-- 11 R320: a digest command with one leaf to hash, and with none left. -/
def digestDesc : List Byte := word 8 0 ++ trec 0 2 false
def digesting (todo : List (Nat × Nat)) : Cmd := { inFlight .digest (raw2 7 0) .dispatched with desc := digestDesc, hash := some ⟨todo, [], none⟩ }
def digestState (m : Cmd) : State := withCtx { ring0 with inflight := [m] }
theorem witness_digest : (let m := digesting [(0, 0)]; let s := digestState m; s.cmd 0 0 0 = some m ∧ sound m ∧ (match m.tensor 0 with
      | some t => decide ((s.leafBytes t 0).toOption = some (List.replicate 8 0)) && s.banksServe (t.leafReads 0)
      | none => false) = true)
    ∧ (let m := digesting []; m.typ = .digest ∧ m.phase = .dispatched ∧ (m.tensor 0).isSome = true)
    ∧ (let m : Cmd := { inFlight .fill (raw2 5 0) .dispatched with hash := some ⟨[], [], none⟩ }; (digestState m).cmd 0 0 0 = some m ∧ m.typ ≠ .digest ∧ m.typ ≠ .layer ∧ sound m) := by decide +kernel
theorem test_leaf : ((next (exec (.leafHash 0 0 0) (digestState (digesting [(0, 0)])))).cmd 0 0 0).bind (fun m => m.hash.map (fun h => h.got.map (·.2))) = some [shake256 (0 :: List.replicate 8 0)] := by decide +kernel

/-- A gather whose pool is empty. -/
theorem witness_pool_empty : ((onSlice0 .gather (raw2 6 sel0) (gatherDesc true) .dispatched (fun m => { m with nextItem := 2 })).cmd 0 0 0).map (·.nextItem) = some 2 := by decide +kernel

/-- A completion of a CAST_ON, a HALTED context. -/
theorem witness_completion_states : ((withCtx { ring0 with state := .halted, inflight := [inFlight .fence (raw2 9 2) .finished] }).ctx 0 0).state = .halted
    ∧ (withCtx { ring0 with state := .halted, inflight := [inFlight .fence (raw2 9 2) .finished] }).drained 0 0 0 = true ∧ cflag (raw2 9 2) = false ∧ cflag (raw2 (9 + 2 ^ 12) 2) = true
    ∧ up.dataThere 0 4 = true ∧ up.hostOwned 0 = false := by decide +kernel

/-- 08 R235: semaphore 15 full. -/
theorem witness_posts_full : (let s := vxq { layer0 with cfg := [8] } (fun x => { x with sems := [(14, 1), (15, 255)] }); issues s 0 .vx ∧ 255 ≤ (s.slice 0).sem 15 ∧ (s.slice 0).sem 14 = 1) ∧ ((posting 0).slice 0).sem 15 < 255
    ∧ ((posting 1).slice 0).sem 15 + tripsTotal (posting 1) 0 .vx one ≤ 255 := by decide +kernel

/-- 06 R184: the queue of another number, one that passes the scratchpad, and one whose other semaphore is full. -/
theorem witness_queue_limits : queueLayer.queue 1 = none ∧ 128 ≤ 0x8000 ∧ (1 : Nat) ≠ 2
    ∧ ({ layer0 with cfg := [0x102, 0x807FC0, 0x2100] } : LayerRun).queue 0 = some ⟨0x7FC0, 128, 64, 1, 2⟩ ∧ 0x8000 < 0x7FC0 + 128
    ∧ (let s := queued (fun x => { x with sems := [(1, 1), (2, 255)] }); issues s 0 .vx ∧ 1 ≤ (s.slice 0).sem 1 ∧ 255 ≤ (s.slice 0).sem 2)
    ∧ (let s := queued (fun x => { x with sems := [(2, 1)] }); (s.slice 0).sem 2 = 1 ∧ (s.slice 0).sem 1 < 255 ∧ tget (s.slice 0).qTail 0 0 + 1024 ≤ 0x8000 ∧ tget (s.slice 0).qTail 0 0 % 64 = 0) := by decide +kernel
theorem test_queue_push : (let x := (next (exec (.vxTst 0 0 (at0 0) ⟨[]⟩ none) (queued (fun x => { x with sems := [(2, 1)], tiles := [(3, 9)] })))).slice 0; x.sem 2 = 0 ∧ x.sem 1 = 1 ∧ rd x.scratch 3 = 9 ∧ x.qTail = [(0, 64)]) := by decide +kernel

/-- 06 R177, 12 R335: a program counter outside the section, an accumulator range past acc31, and a storage that reads bad parity. -/
theorem witness_stops : (let s := sl0 .mx (fun x => { x with engines := [(0, { ready with pc := 64 })] }); (s.slice 0).layer.isSome = true ∧ (s.slice 0).canIssue .mx = true ∧ ((s.slice 0).eng .mx).hi ≤ ((s.slice 0).eng .mx).pc.toNat)
    ∧ 32 < (31 : Fin 32).val + 2 ∧ mma.ok = true ∧ accBaseOk mma.shape mma.accBase = true := by decide
theorem test_parity : ((next (exec (.mxMma 0 mma (some .scratchpad)) (sl0 .mx id))).cmd 0 0 0).bind (fun m => m.fault.map (·.cause)) = some 0x20
    ∧ ((next (exec (.nop 0 .mx) (sl0 .mx (fun x => { x with engines := [(0, { ready with pc := 64 })] })))).cmd 0 0 0).bind (fun m => m.fault.map (·.cause)) = some 0x24 := by decide +kernel

/-- 09 R268: descriptors in the scratchpad that BX accepts, and a base that is misaligned. -/
def described (bs : List Byte) : State := sl0 .bx (fun x => { x with scratch := wrL [] 512 bs })
def bxOk (t : CmdType) (n : Nat) (bs : List Byte) : Bool := let s := described bs
  match s.bxDesc 0 (s.slice 0) layer0 t n ⟨0, 512⟩ 0 with | .ok _ => true | .error _ => false
theorem witness_bx_moves : bxOk .copy 184 (copyDesc true false false) = true ∧ bxOk .copy 184 (copyDesc false true false) = true ∧ bxOk .fill 72 (fillDesc true) = true ∧ bxOk .fill 72 (fillDesc false) = true
    ∧ bxOk .gather 80 (gatherDesc true) = true ∧ bxOk .gather 80 (gatherDesc false) = true ∧ issues (described []) 0 .bx ∧ bxClear (described []) 0 ∧ (described []).banksServe [(64, 8)] = true
    ∧ ((described []).slice 0).baseOf .bx ⟨0, 514⟩ % 8 ≠ 0 := by decide +kernel
theorem test_bx_moves : (let t := next (exec (.bxFill 0 ⟨0, 512⟩ 0 none) (described (fillDesc false))); rdN t.mem 64 8 = leBytes 4 0x11223344 ++ leBytes 4 0x11223344)
    ∧ ((next (exec (.bxFill 0 ⟨0, 514⟩ 0 none) (described []))).cmd 0 0 0).bind (fun m => m.fault.map (·.cause)) = some 0x22
    ∧ (let s := described (copyDesc false true false); let t := next (exec (.bxCopy 0 ⟨0, 512⟩ 0 none) { s with mem := [(3, 7)] }); rd (t.slice 0).scratch 131 = 7) := by decide +kernel

/-- 04 R130: a request in the sequencer cycle in which a lease under CLOSED ended. -/
theorem witness_lease_end : (let s := { plain with chans := [(0, { ch0 with banks := [(0, { BankSt.zero with closedEnd := some 0 })] })] }; ((s.chan 0).bank 0).closedEnd = some s.cycles) ∧ ((plain.chan 0).bank 0).closedEnd ≠ some plain.cycles := by decide +kernel
theorem test_lease_end : (let s := { plain with chans := [(0, { ch0 with banks := [(0, { BankSt.zero with closedEnd := some 0 })] })] }
    ((next (exec (.read 0 0 9 0 false) s)).group 0).out.map (·.status)) = [some .leased] := by decide +kernel

/-- 16 R408, R409: a boot cut short, one that goes on, one under a latched trip; a BLANK one with an interrupted zero-fill. -/
theorem witness_boot_stages : (let s := { alive with mg := { alive.mg with boot := { alive.mg.boot with stage := 3 } } }; s.pins.porstN = true ∧ s.pins.warmrstN = true ∧ s.mg.boot.stage = 3) ∧ 4 ≤ env0.stages ∧ alive.mg.boot.stage = 0
    ∧ (let s := { alive with pins := { alive.pins with warmrstN := false }, mg := { alive.mg with tripLatch := true } }; s.mg.tripLatch = true ∧ s.pins.warmrstN = false)
    ∧ (let s := { alive with mg := { alive.mg with boot := { alive.mg.boot with zeroPending := true } } }; s.mg.boot.zeroPending = true) := by decide +kernel
theorem witness_maps_stand (c b : Nat) : (({ State.reset with chans := [] }.chan c).darnOf b).physBank = (tget (tget State.reset.fuses.maps c .plain).darn b ⟨b, 16, false, false⟩).physBank := rfl
/-- The arrays still as they were after one stage of a boot. -/
theorem test_boot_stages : (let s := { State.reset with mem := [(5, 7)] }; (next (exec (.boot { env0 with stages := 1 }) s)).mem = [(5, 7)] ∧ (next (exec (.boot { env0 with stages := 1 }) s)).mg.boot.zeroPending = true) := by decide +kernel

/-- 02 R74: a bank whose 32 spare rows are used. -/
def rowsFull : State := { firm id with mram := { alive.mram with repairs := (upFrom 0 32).map (fun k => ⟨.row, 0, 0, k, k + 1, true⟩) } }
theorem witness_rows_full : rowsFull.fwRuns = true ∧ 32 ≤ rowsFull.rowsUsed 0 0 ∧ rowsFull.mram.repairs.length < 4096 ∧ ¬ 32 ≤ (firm id).rowsUsed 0 0 := by decide +kernel
theorem test_rows_full : (next (exec (.repairRecord .row 0 0 40) rowsFull)).mram.repairs.getLast?.map (·.kind) = some .bank := by decide +kernel

/-- 15 R398 to R400: a bank in RETENTION and in OFF, and the management core open to the debugger. -/
def debugBank (p : PState) : State := { debugged 2 with chans := [(0, { ch0 with banks := [(0, { BankSt.zero with pwr := { PowerDom.zero with state := p } })] })] }
theorem witness_debug_power : 2 ≤ (debugBank .off).sc.level.toNat ∧ ((debugBank .off).chan 0).strictCtx = false ∧ (((debugBank .off).chan 0).bank 0).pwr.state = .off ∧ (((debugBank .retention).chan 0).bank 0).pwr.state = .retention
    ∧ (debugged 3).sc.level = 3 ∧ ((debugged 3).dom .link).state = .on ∧ ({ debugged 3 with mg := { (debugged 3).mg with linkDom := { PowerDom.zero with state := .off } } }.dom .link).state ≠ .on
    ∧ ((debugged 2).chan (offChan (5 : DataOff).toNat)).pwr.dom.state = .on := by decide +kernel
theorem test_debug_power : (next (exec (.dbgAccess (.halt 0)) (debugBank .off))).sc.tapStatus = .denied ∧ (next (exec (.dbgAccess (.halt 0)) (debugBank .retention))).sc.tapStatus = .notOn
    ∧ (next (exec (.dbgAccess .haltCore) (debugged 2))).mg.boot.coreHalted = true ∧ (next (exec (.dbgAccess (.breakpointCore 8 true)) (debugged 2))).mg.boot.coreBreaks = [8] := by decide +kernel

/-- 15 R393: a report that the sideband asked for. -/
theorem witness_sideband_report : (attesting (fun x => { x with session := some (key0 0), sample := [1], queue := [.report true []] })).sc.queue = [.report true []] := by decide +kernel
end Sys2Proof.Tests
end

section
/-! SUPPORT. Frames of steps at one channel: what a change of a channel, an alert, a mark of broken timing and a host WRITE of a register leave, and
what a change of one bank leaves of its channel. -/

namespace Sys2Proof.BankMemory
open Sys2Proof Sys2Proof.Machine

/-! ## Steps at one channel -/

theorem onlyChan_refl (s : State) (c : Nat) : onlyChan s s c := ⟨rfl, rfl, fun _ _ => rfl⟩

theorem onlyChan_modChan (s : State) (c : Nat) (f : Channel → Channel) : onlyChan s (s.modChan c f) c :=
  ⟨rfl, rfl, fun k hk => chan_modChan_other s c k f hk⟩

theorem onlyAlerts_trans {s t u : State} (hst : onlyAlerts s t) (htu : onlyAlerts t u) : onlyAlerts s u := by
  unfold onlyAlerts at *
  rw [htu, hst]

theorem onlyChan_trans {s t u : State} {c : Nat} (hst : onlyChan s t c) (htu : onlyChan t u c) : onlyChan s u c := by
  obtain ⟨hs, hsa, hsk⟩ := hst
  obtain ⟨ht, hta, htk⟩ := htu
  refine ⟨?_, onlyAlerts_trans hsa hta, fun k hk => (htk k hk).trans (hsk k hk)⟩
  rw [ht, hs]

theorem onlyChan_alert (s : State) (c bit : Nat) (e : ErrRec) : onlyChan s (s.alert bit e) c := ⟨rfl, rfl, fun _ _ => rfl⟩

@[simp] theorem noteSat_chan (s : State) (old limit d k : Nat) : (s.noteSat old limit d).chan k = s.chan k := by
  rw [noteSat_onlyAlerts]; rfl

theorem onlyChan_noteSat (s : State) (c old limit d : Nat) : onlyChan s (s.noteSat old limit d) c := by
  rcases noteSat_cases s old limit d with h | h
  · rw [h]; exact onlyChan_refl s c
  · rw [h]; exact onlyChan_alert s c 9 _

/-- The cause bits of a channel after a mark of broken timing (11 R317). -/
theorem timing_chan (s : State) (c i : Nat) :
    (s.timing c i).chan c = { s.chan c with
      strictCause := if s.port.strict = true then (s.chan c).strictCause ||| BitVec.ofNat 6 (2 ^ i) else (s.chan c).strictCause
      strictTag := ((s.timing c i).chan c).strictTag } := by
  unfold State.timing
  by_cases h : s.port.strict = true
  · simp [h]
  · simp [h]

theorem onlyChan_timing (s : State) (c i : Nat) : onlyChan s (s.timing c i) c := by
  unfold State.timing
  split
  · exact onlyChan_modChan s c _
  · exact onlyChan_refl s c

/-! ## Host writes of a channel's registers (04 R107, R108) -/

/-- What changes one channel once the key is disarmed is, with its status, a host WRITE of that channel's register. -/
theorem wroteChan_status {u t : State} {c : Nat} (h : onlyChan u.keyOff t c) : wroteChan u (t.status .ok) c := by
  obtain ⟨ht, ha, hk⟩ := h
  have hport : t.port = u.keyOff.port := by rw [ht]
  refine ⟨?_, ha, ?_, hk⟩
  · show { t with port := _ } = _
    rw [ht]; rfl
  · show { t.port with lastStatus := Status.ok } = _
    rw [hport]; rfl

theorem keyOff_winStatus (s : State) (w : RegWin) : s.keyOff.winStatus w = s.winStatus w := by cases w <;> rfl

/-- A host WRITE that reaches its window and is not barred there has its effect, answered OK. -/
theorem hostReg_served {s : State} {w : RegWin} (f : State → State) (h : s.winReached w = true) (hw : s.winStatus w = .ok) :
    s.hostReg w .ok f = (f s.keyOff).status .ok := hostReg_ok s w f h ((keyOff_winStatus s w).trans hw)

/-! ## Changes of one bank -/

theorem bank_congr {x y : Channel} (h : x.banks = y.banks) (b : Nat) : x.bank b = y.bank b := by
  rw [Channel.bank, h]; rfl

/-- `t` is `ch` with bank `b` changed by `g`, and nothing else of it changed. -/
def ChangesBank (ch t : Channel) (b : Nat) (g : BankSt → BankSt) : Prop :=
  t = { ch with banks := t.banks } ∧ ∀ j, t.bank j = if j = b then g (ch.bank b) else ch.bank j

theorem changesBank_modBank (ch : Channel) (b : Nat) (g : BankSt → BankSt) : ChangesBank ch (ch.modBank b g) b g :=
  ⟨rfl, fun j => bank_modBank ch b j g⟩

theorem ChangesBank.same {ch t : Channel} {b : Nat} {g : BankSt → BankSt} (h : ChangesBank ch t b g) : t.bank b = g (ch.bank b) := by
  rw [h.2 b, if_pos rfl]

theorem ChangesBank.other {ch t : Channel} {b j : Nat} {g : BankSt → BankSt} (h : ChangesBank ch t b g) (hj : j ≠ b) : t.bank j = ch.bank j := by
  rw [h.2 j, if_neg hj]

theorem ChangesBank.trans {ch t u : Channel} {b : Nat} {f g : BankSt → BankSt} (hf : ChangesBank ch t b f) (hg : ChangesBank t u b g) :
    ChangesBank ch u b (g ∘ f) := by
  refine ⟨?_, fun j => ?_⟩
  · rw [hg.1, hf.1]
  · by_cases hj : j = b
    · rw [if_pos hj, hj, hg.same, hf.same]; rfl
    · rw [if_neg hj, hg.other hj, hf.other hj]

/-- Banks `a` to `a + n - 1` changed in turn: each is changed once, the others and the rest of the channel stand. -/
theorem foldl_changesBank (ch : Channel) (f : Channel → Nat → Channel) (g : Nat → BankSt → BankSt)
    (h : ∀ x : Channel, x = { ch with banks := x.banks } → ∀ b, ChangesBank x (f x b) b (g b)) (n a : Nat) (x : Channel)
    (hx : x = { ch with banks := x.banks }) :
    let t := (upFrom a n).foldl f x
    t = { ch with banks := t.banks } ∧ ∀ j, t.bank j = if a ≤ j ∧ j < a + n then g j (x.bank j) else x.bank j := by
  induction n generalizing a x with
  | zero => exact ⟨hx, fun j => by rw [if_neg (by omega)]; rfl⟩
  | succ n ih =>
    have hb := h x hx a
    have hx' : f x a = { ch with banks := (f x a).banks } := by rw [hb.1, hx]
    obtain ⟨hrest, hbanks⟩ := ih (a + 1) (f x a) hx'
    refine ⟨hrest, fun j => (hbanks j).trans ?_⟩
    by_cases hj : j = a
    · rw [if_neg (by omega), if_pos (by omega), hj, hb.same]
    · rw [hb.other hj]
      exact if_congr (by omega) rfl rfl

theorem onlyBank_of_changes {s t : State} {c b : Nat} {ch : Channel} {g : BankSt → BankSt} (ht : onlyChan s t c)
    (hrest : t.chan c = { ch with banks := (t.chan c).banks }) (hb : ∀ j, (t.chan c).bank j = if j = b then g ((s.chan c).bank b) else (s.chan c).bank j) :
    (t.chan c).bank b = g ((s.chan c).bank b) ∧ onlyBank s t c b ch :=
  ⟨(hb b).trans (if_pos rfl), ht.1, ht.2.1, ht.2.2, fun k hk => (hb k).trans (if_neg hk), hrest⟩

end Sys2Proof.BankMemory
end

section
/-! SUPPORT. Refresh (02 R55 to R60, R69). -/

namespace Sys2Proof.BankMemory
open Sys2Proof Sys2Proof.Machine

/-- A bank once the row at its pointer has been refreshed. -/
def walked (ch : Channel) (b : Nat) (k : BankSt) : BankSt :=
  { k with rowPtr := (k.rowPtr + 1) % 2048, refreshed := ch.physRow b k.rowPtr }

theorem changesBank_refreshRow (ch : Channel) (b : Nat) : ChangesBank ch (ch.refreshRow b) b (walked ch b) := changesBank_modBank ch b _

/-- Where a bank's row lies is no matter of its channel's banks. -/
theorem walked_banks {ch x : Channel} (hx : x = { ch with banks := x.banks }) (b : Nat) : walked x b = walked ch b := by
  rw [hx]; rfl

/-- A bank after one refresh of the controller that ends in cycle `ready`. -/
def refreshedOnce (ch : Channel) (b ready : Nat) (k : BankSt) : BankSt :=
  { walked ch b k with openRow := none, wrAt := none, debt := k.debt - 1, readyAt := ready }

theorem changesBank_refresh (ch : Channel) (b col : Nat) :
    ChangesBank ch (ch.refresh b col) b (fun k => refreshedOnce ch b (k.refreshAt col + 48) k) :=
  (changesBank_refreshRow ch b).trans (changesBank_modBank _ b _)

/-- A refresh of the controller whose beginning is noted: bank `b` and the times of activations have changed. -/
theorem refresh_noteAct_onlyBank {s t : State} {c b col start : Nat} {m : MemCfg} (ht : onlyChan s t c)
    (h : t.chan c = { ((s.chan c).refresh b col).noteAct col start with mem := m }) :
    (t.chan c).bank b = refreshedOnce (s.chan c) b (((s.chan c).bank b).refreshAt col + 48) ((s.chan c).bank b)
      ∧ onlyBank s t c b { s.chan c with acts := start :: (s.chan c).acts.filter (fun a => decide (col < a + 16)), mem := m } := by
  have hr := changesBank_refresh (s.chan c) b col
  refine onlyBank_of_changes (g := fun k => refreshedOnce (s.chan c) b (k.refreshAt col + 48) k) ht ?_ ?_
  · rw [h]; rfl
  · rw [h]; exact hr.2

/-! ## Ticks (R55 to R57) -/

/-- A multiple of the interval, rounded down to a column cycle, is recognised by the grid's test. -/
theorem grid_point (n q : Nat) (hq : 4 ≤ q) : (4 * (n * q / 4) + 3) / q * q / 4 = n * q / 4 := by
  have hn : (4 * (n * q / 4) + 3) / q = n := by
    rw [Nat.div_eq_iff (by omega)]
    omega
  rw [hn]

theorem tickDue_on_grid (step : Nat) (b n : Nat) : tickDue step b ((n * fourIntervals step) / 4 + b * fourIntervals step / 512) = true := by
  have hq : 4 ≤ fourIntervals step := by unfold fourIntervals; split <;> decide
  unfold tickDue
  simp only [Nat.add_sub_cancel]
  exact decide_eq_true ⟨Nat.le_add_left _ _, grid_point n _ hq⟩

/-- A bank whose debt an interval tick in cycle `col` has raised to `debt`. -/
def tickedTo (debt col : Nat) (k : BankSt) : BankSt := { k with debt := debt, tickAt := col + 1 }

/-- The state after an interval tick. -/
def ticked (s : State) (c b col : Nat) : State :=
  let d := min 8 (((s.chan c).bank b).debt + 1)
  s.modChan c (fun ch => { ch.modBank b (tickedTo d col) with mem := { ch.mem with refStep := ch.mem.pendStep, maxDebt := max ch.mem.maxDebt d } })

theorem exec_refreshTick (s : State) (c : Chan) (b : BankIx) (col : Nat) :
    exec (.refreshTick c b col) s = .next (if s.port.strict || !(s.chan c).arraysOn || !tickDue (s.chan c).mem.refStep b col
      || decide (col < ((s.chan c).bank b).tickAt) then s else ticked s c b col) := by
  show execRefreshTick c b s col = _
  unfold execRefreshTick
  simp only
  split <;> rfl

theorem ticked_onlyBank (s : State) (c b col : Nat) :
    let k := (s.chan c).bank b
    ((ticked s c b col).chan c).bank b = tickedTo (min 8 (k.debt + 1)) col k
      ∧ onlyBank s (ticked s c b col) c b { s.chan c with mem := { (s.chan c).mem with
          refStep := (s.chan c).mem.pendStep, maxDebt := max (s.chan c).mem.maxDebt (min 8 (k.debt + 1)) } } := by
  refine onlyBank_of_changes (g := tickedTo (min 8 (((s.chan c).bank b).debt + 1)) col) (onlyChan_modChan s c _) ?_ ?_
  · rw [ticked, chan_modChan_same]; rfl
  · rw [ticked, chan_modChan_same]
    exact (changesBank_modBank (s.chan c) b (tickedTo (min 8 (((s.chan c).bank b).debt + 1)) col)).2

/-! ## Refreshes of the controller (R57, R58) -/

theorem exec_forcedRefresh (s : State) (c : Chan) (b : BankIx) (col : Nat) :
    exec (.forcedRefresh c b col) s
      = .next (if !s.port.strict && (s.chan c).mustRefresh b && (s.chan c).canRefresh b col then s.forced c b col else s) := by
  show execForcedRefresh c b col s = _
  unfold execForcedRefresh
  simp only
  split <;> rfl

theorem forced_onlyBank (s : State) (c b col : Nat) :
    ((s.forced c b col).chan c).bank b = refreshedOnce (s.chan c) b (((s.chan c).bank b).refreshAt col + 48) ((s.chan c).bank b)
      ∧ onlyBank s (s.forced c b col) c b { s.chan c with
          acts := ((s.chan c).bank b).refreshAt col :: (s.chan c).acts.filter (fun a => decide (col < a + 16))
          mem := { (s.chan c).mem with forced := satInc (s.chan c).mem.forced 0xFFFF } } := by
  refine refresh_noteAct_onlyBank (onlyChan_trans (onlyChan_modChan s c _) (onlyChan_noteSat _ c _ _ _)) ?_
  rw [State.forced, noteSat_chan, chan_modChan_same]

theorem exec_idleRefresh (s : State) (c : Chan) (b : BankIx) (col : Nat) :
    exec (.idleRefresh c b col) s
      = .next (if !s.port.strict && (s.chan c).mem.postponeEn && decide (((s.chan c).bank b).queue = [] ∧ 0 < ((s.chan c).bank b).debt)
          && (s.chan c).canRefresh b col
        then s.modChan c (fun ch => (ch.refresh b col).noteAct col ((ch.bank b).refreshAt col)) else s) := by
  show execIdleRefresh c b col s = _
  unfold execIdleRefresh
  simp only
  split <;> rfl

theorem idle_onlyBank (s : State) (c b col : Nat) :
    let t := s.modChan c (fun ch => (ch.refresh b col).noteAct col ((ch.bank b).refreshAt col))
    (t.chan c).bank b = refreshedOnce (s.chan c) b (((s.chan c).bank b).refreshAt col + 48) ((s.chan c).bank b)
      ∧ onlyBank s t c b { s.chan c with
          acts := ((s.chan c).bank b).refreshAt col :: (s.chan c).acts.filter (fun a => decide (col < a + 16)) } := by
  refine refresh_noteAct_onlyBank (m := (s.chan c).mem) (onlyChan_modChan s c _) ?_
  rw [chan_modChan_same]; rfl

theorem mustRefresh_iff (ch : Channel) (b : Nat) :
    ch.mustRefresh b = true ↔ 8 ≤ (ch.bank b).debt ∨ (ch.mem.postponeEn = false ∧ 0 < (ch.bank b).debt) := by
  simp [Channel.mustRefresh]

/-! ## The blackout slot (R59, R60) -/

/-- The slot's refresh begins after its 14 cycles of precharge where the row may close and the activation window lets it. -/
theorem slotAt_prompt (ch : Channel) (b col : Nat) (hclose : (ch.bank b).closeAt ≤ col) (hready : (ch.bank b).readyAt ≤ col + 14)
    (hact : ch.actOk (col + 14) = true) : ch.slotAt b col = col + 14 := by
  have hstart : max ((if (ch.bank b).openRow.isSome then max col (ch.bank b).closeAt else col) + tRP) (ch.bank b).readyAt = col + 14 := by
    rw [Nat.max_eq_left hclose, ite_self]
    exact Nat.max_eq_left hready
  unfold Channel.slotAt Channel.actFrom
  simp only [hstart]
  rw [upFrom, List.find?_cons_of_pos hact]
  rfl

/-- A bank whose blackout slot, begun in cycle `col`, is over in cycle `ready`. -/
def blackedOut (ready col : Nat) (k : BankSt) : BankSt := { k with openRow := none, wrAt := none, readyAt := ready, tickAt := col + 1 }

/-- The state after the blackout slot of a bank. -/
def slotted (s : State) (c b col : Nat) : State :=
  s.modChan c (fun ch => ((ch.refreshRow b).modBank b (blackedOut (ch.slotAt b col + tRFC) col)).noteAct col (ch.slotAt b col))

theorem exec_strictRefreshSlot (s : State) (c : Chan) (b : BankIx) (col : Nat) :
    exec (.strictRefreshSlot c b col) s
      = .next (if s.port.strict && (s.chan c).arraysOn && decide (s.strictCol col = 30 * b.val ∧ ((s.chan c).bank b).tickAt ≤ col)
        then slotted s c b col else s) := by
  show execStrictRefreshSlot c b col s = _
  unfold execStrictRefreshSlot
  simp only
  split <;> rfl

theorem slotted_onlyBank (s : State) (c b col : Nat) :
    ((slotted s c b col).chan c).bank b = blackedOut ((s.chan c).slotAt b col + 48) col (walked (s.chan c) b ((s.chan c).bank b))
      ∧ onlyBank s (slotted s c b col) c b { s.chan c with
          acts := (s.chan c).slotAt b col :: (s.chan c).acts.filter (fun a => decide (col < a + 16)) } := by
  refine onlyBank_of_changes (g := blackedOut ((s.chan c).slotAt b col + 48) col ∘ walked (s.chan c) b) (onlyChan_modChan s c _) ?_ ?_
  · rw [slotted, chan_modChan_same]; rfl
  · rw [slotted, chan_modChan_same]
    exact ((changesBank_refreshRow (s.chan c) b).trans (changesBank_modBank _ b (blackedOut ((s.chan c).slotAt b col + 48) col))).2

/-! ## Self-refresh (R69) -/

/-- Every bank's row at its pointer is refreshed once. -/
theorem refreshRows_banks (ch : Channel) :
    let t := (upFrom 0 128).foldl Channel.refreshRow ch
    t = { ch with banks := t.banks } ∧ ∀ j, j < 128 → t.bank j = walked ch j (ch.bank j) := by
  obtain ⟨hrest, hbanks⟩ := foldl_changesBank ch Channel.refreshRow (walked ch)
    (fun x hx b => walked_banks hx b ▸ changesBank_refreshRow x b) 128 0 ch rfl
  exact ⟨hrest, fun j hj => (hbanks j).trans (if_pos (by omega))⟩

theorem exec_dramSelfRefreshTick (s : State) (c : Chan) (hself : (s.chan c).pwr.selfRefresh = true) (hvin : s.pins.vin = true) :
    exec (.dramSelfRefreshTick c) s = .next (s.modChan c (fun ch => (upFrom 0 128).foldl Channel.refreshRow ch)) := by
  show execDramSelfRefreshTick c s = _
  simp [execDramSelfRefreshTick, hself, hvin]

/-- Settles O33: each command's effect is a change of one bank, or, in self-refresh, the same change of every bank. -/
theorem refresh : Obligations.Refresh := by
  intro s c b col
  refine ⟨?tick, ?noTick, ?grid, ?forced, ?idle, ?noDebt, ?slot, ?prompt, ?offSlot, ?notStrict, ?self⟩
  case tick =>
    intro hs hon hdue hat
    exact ⟨ticked s c b col, by simp [exec_refreshTick, hs, hon, hdue, hat], ticked_onlyBank s c b col⟩
  case noTick =>
    intro h
    rw [exec_refreshTick, if_pos]
    rcases h with h | h | h | h <;> simp [h]
  case grid => exact fun step n _ => tickDue_on_grid step b n
  case forced =>
    intro hs hmust hcan
    exact ⟨s.forced c b col, by simp [exec_forcedRefresh, hs, hcan, (mustRefresh_iff _ _).mpr hmust], forced_onlyBank s c b col⟩
  case idle =>
    intro hs hpost hq hdebt hcan
    exact ⟨_, by rw [exec_idleRefresh, if_pos (by simp [hs, hpost, hq, hdebt, hcan])], idle_onlyBank s c b col⟩
  case noDebt =>
    intro h0
    have hmust : ¬ (s.chan c).mustRefresh b = true := by rw [mustRefresh_iff]; omega
    exact ⟨by simp [exec_forcedRefresh, hmust], by simp [exec_idleRefresh, h0]⟩
  case slot =>
    intro hs hon hcol hat
    exact ⟨slotted s c b col, by simp [exec_strictRefreshSlot, hs, hon, hcol, hat], slotted_onlyBank s c b col⟩
  case prompt => exact slotAt_prompt (s.chan c) b col
  case offSlot => intro h; simp [exec_strictRefreshSlot, h]
  case notStrict => intro h; simp [exec_strictRefreshSlot, h]
  case self =>
    intro hself hvin
    obtain ⟨hrest, hbanks⟩ := refreshRows_banks (s.chan c)
    refine ⟨_, exec_dramSelfRefreshTick s c hself hvin, onlyChan_modChan s c _, ?_⟩
    rw [chan_modChan_same]
    exact ⟨hbanks, hrest⟩

end Sys2Proof.BankMemory
end

section
/-! SUPPORT. Self-refresh of a channel, its PLL and operating point, the ledger and the limiter (02 R68 to R70; 13 R343, R353 to R361). -/

namespace Sys2Proof.BankMemory
open Sys2Proof Sys2Proof.Machine

/-! ## Self-refresh (02 R68 to R70) -/

/-- `n` refreshes of a bank. -/
theorem changesBank_refreshRows (ch : Channel) (b : Nat) (l : List Nat) :
    ∀ x : Channel, x = { ch with banks := x.banks } →
      ChangesBank x (l.foldl (fun (y : Channel) _ => y.refreshRow b) x) b ((walked ch b)^[l.length]) := by
  induction l with
  | nil =>
    refine fun x _ => ⟨rfl, fun j => ?_⟩
    by_cases hj : j = b
    · rw [if_pos hj, hj]; rfl
    · rw [if_neg hj]; rfl
  | cons a l ih =>
    intro x hx
    have h1 : ChangesBank x (x.refreshRow b) b (walked ch b) := walked_banks hx b ▸ changesBank_refreshRow x b
    exact h1.trans (ih (x.refreshRow b) (by rw [h1.1, hx]))

/-- A bank after `n` refreshes: the pointer has walked on by `n`, and the row refreshed last is noted. -/
theorem walked_iterate (ch : Channel) (b n : Nat) (k : BankSt) :
    (walked ch b)^[n] k = { k with rowPtr := if n = 0 then k.rowPtr else (k.rowPtr + n) % 2048, refreshed := ((walked ch b)^[n] k).refreshed } := by
  induction n with
  | zero => rfl
  | succ n ih =>
    rw [Function.iterate_succ_apply', ih]
    simp only [walked, Nat.succ_ne_zero, if_false, BankSt.mk.injEq, and_true, true_and]
    split
    · next h => rw [h]
    · rw [Nat.mod_add_mod, Nat.add_assoc]

/-- A bank precharged with no debt. -/
def atRest (k : BankSt) : BankSt := { k with openRow := none, wrAt := none, actAt := none, debt := 0 }

/-- A bank whose debt is settled before the die refreshes itself. -/
def settledBank (ch : Channel) (b : Nat) (k : BankSt) : BankSt := atRest ((walked ch b)^[k.debt] k)

theorem settleDebts_banks (ch : Channel) :
    ch.settleDebts = { ch with banks := ch.settleDebts.banks } ∧ ∀ j, j < 128 → ch.settleDebts.bank j = settledBank ch j (ch.bank j) := by
  obtain ⟨hrest, hbanks⟩ := foldl_changesBank ch
    (fun (x : Channel) b => ((upFrom 0 (x.bank b).debt).foldl (fun (y : Channel) _ => y.refreshRow b) x).modBank b atRest) (settledBank ch)
    (fun x hx b => by
      have hall := changesBank_refreshRows ch b (upFrom 0 (x.bank b).debt) x hx
      rw [upFrom_length] at hall
      have h := hall.trans (changesBank_modBank _ b atRest)
      exact ⟨h.1, h.2⟩) 128 0 ch rfl
  exact ⟨hrest, fun j hj => (hbanks j).trans (if_pos (by omega))⟩

theorem exec_selfRefreshEntry (s : State) (c : Chan) :
    exec (.selfRefreshEntry c) s
      = .next (if (s.chan c).pwr.dom.entering && !(s.chan c).pwr.selfRefresh then s.modChan c Channel.selfRefreshIn else s) := by
  show execSelfRefreshEntry c s = _
  unfold execSelfRefreshEntry
  simp only
  split <;> rfl

/-- Of the channel its banks, settled, and its power state change. -/
theorem selfRefreshIn_eq (ch : Channel) :
    ch.selfRefreshIn = { ch with banks := ch.settleDebts.banks, pwr := { ch.pwr with selfRefresh := true, accepting := false } } := by
  have h := (settleDebts_banks ch).1
  unfold Channel.selfRefreshIn
  generalize ch.settleDebts = t at h ⊢
  rw [h]

theorem selfRefreshIn_bank (ch : Channel) (b : Nat) (hb : b < 128) :
    let k := ch.bank b
    ch.selfRefreshIn.bank b = { k with
      openRow := none, wrAt := none, actAt := none, debt := 0
      rowPtr := if k.debt = 0 then k.rowPtr else (k.rowPtr + k.debt) % 2048, refreshed := (ch.selfRefreshIn.bank b).refreshed } := by
  have h : ch.selfRefreshIn.bank b = settledBank ch b (ch.bank b) :=
    (bank_congr (y := ch.settleDebts) (by rw [selfRefreshIn_eq]) b).trans ((settleDebts_banks ch).2 b hb)
  simp only [h]
  unfold settledBank
  rw [walked_iterate]
  rfl

/-- Every bank refreshed once more, its debt paid. -/
def readied (ch : Channel) : Channel := (upFrom 0 128).foldl (fun (x : Channel) b => (x.refreshRow b).modBank b atRest) ch

theorem readied_banks (ch : Channel) :
    readied ch = { ch with banks := (readied ch).banks } ∧ ∀ j, j < 128 → (readied ch).bank j = atRest (walked ch j (ch.bank j)) := by
  obtain ⟨hrest, hbanks⟩ := foldl_changesBank ch (fun (x : Channel) b => (x.refreshRow b).modBank b atRest) (fun b => atRest ∘ walked ch b)
    (fun x hx b => walked_banks hx b ▸ (changesBank_refreshRow x b).trans (changesBank_modBank _ b atRest)) 128 0 ch rfl
  exact ⟨hrest, fun j hj => (hbanks j).trans (if_pos (by omega))⟩

/-- Banks that take requests again: each has been refreshed once and owes nothing. -/
theorem accept_eq (ch : Channel) : ch.accept = { ch with banks := (readied ch).banks, pwr := { ch.pwr with accepting := true } } := by
  have h := (readied_banks ch).1
  show { readied ch with pwr := { (readied ch).pwr with accepting := true } } = _
  generalize readied ch = t at h ⊢
  rw [h]

theorem accept_bank (ch : Channel) (b : Nat) (hb : b < 128) : ch.accept.bank b = atRest (walked ch b (ch.bank b)) :=
  (bank_congr (y := readied ch) (by rw [accept_eq]) b).trans ((readied_banks ch).2 b hb)

/-- The die's exit from self-refresh at a channel. -/
def leftSelfRefresh (ch : Channel) : Channel := { ch with pwr := { ch.pwr with selfRefresh := false } }

theorem exec_selfRefreshExit (s : State) (c : Chan) :
    let p := (s.chan c).pwr
    exec (.selfRefreshExit c) s
      = .next (if p.selfRefresh && !p.dom.entering && (if p.fromOff then decide ((s.chan c).train.phase = .bond)
          else p.dom.state.up || decide (p.dom.going = some .waking ∧ p.dom.state = .retention))
        then s.modChan c (fun ch => if p.fromOff then leftSelfRefresh ch else (leftSelfRefresh ch).accept) else s) := by
  show execSelfRefreshExit c s = _
  unfold execSelfRefreshExit
  exact (apply_ite Host.Outcome.next _ _ _).symm

/-! ## The PLL and the operating point (13 R353 to R356) -/

/-- Cause bits of channel `c` once the operating point in force moves to `v`: STRICT with a strict context marks it (13 R356, 11 R317). -/
def movedCause (s : State) (c v : Nat) : BitVec 6 :=
  if s.port.strict = true ∧ (s.chan c).strictCtx = true ∧ v ≠ (s.chan c).pwr.opNow then (s.chan c).strictCause ||| 0b010000#6
  else (s.chan c).strictCause

/-- A move of the operating point marks broken timing or nothing. -/
theorem pointMoves_chan (s : State) (c v : Nat) :
    (s.pointMoves c v).chan c = { s.chan c with
      strictCause := movedCause s c v, strictTag := ((s.pointMoves c v).chan c).strictTag } := by
  unfold State.pointMoves movedCause
  by_cases hmove : ((s.chan c).strictCtx && decide (v ≠ (s.chan c).pwr.opNow)) = true
  · rw [if_pos hmove, timing_chan]
    simp only [Bool.and_eq_true, decide_eq_true_eq] at hmove
    simp only [hmove, and_true, ne_eq, not_false_eq_true]
    rfl
  · rw [if_neg hmove]
    simp only [Bool.and_eq_true, decide_eq_true_eq] at hmove
    rw [if_neg (fun h => hmove h.2)]

theorem onlyChan_pointMoves (s : State) (c v : Nat) : onlyChan s (s.pointMoves c v) c := by
  unfold State.pointMoves
  split
  · exact onlyChan_timing s c 4
  · exact onlyChan_refl s c

/-- A move of the operating point with a change `f` of the channel's power state. -/
theorem pointMoves_modPwr (s : State) (c v : Nat) (f : ChPower → ChPower) :
    let t := (s.pointMoves c v).modPwr c f
    onlyChan s t c ∧ t.chan c = { s.chan c with pwr := f (s.chan c).pwr, strictCause := movedCause s c v, strictTag := (t.chan c).strictTag } := by
  refine ⟨onlyChan_trans (onlyChan_pointMoves s c v) (onlyChan_modChan _ c _), ?_⟩
  simp only [State.modPwr, chan_modChan_same]
  rw [pointMoves_chan]

/-- A request for the PLL, which a channel on its way to WAKING takes up (13 R354). -/
theorem exec_pllReq (s : State) (c : Chan) (h : s.reached = true) :
    exec (.pllReq c) s = .next ((s.keyOff.modChan c (fun ch => { ch with
      pwr := if ch.pwr.dom.state = PState.waking ∨ ch.pwr.dom.going = some PState.waking then { ch.pwr with pllReq := true } else ch.pwr })).status .ok) :=
  congrArg Host.Outcome.next (hostReg_port s (fun s => s.pllReqWrite c) h)

/-- The same after a change `f` of the channel's power state that leaves the point in force. -/
theorem modPwr_pointMoves_modPwr (s : State) (c v : Nat) (f g : ChPower → ChPower) (hf : (f (s.chan c).pwr).opNow = (s.chan c).pwr.opNow) :
    let t := ((s.modPwr c f).pointMoves c v).modPwr c g
    onlyChan s t c ∧ t.chan c = { s.chan c with pwr := g (f (s.chan c).pwr), strictCause := movedCause s c v, strictTag := (t.chan c).strictTag } := by
  obtain ⟨honly, hchan⟩ := pointMoves_modPwr (s.modPwr c f) c v g
  have hcause : movedCause (s.modPwr c f) c v = movedCause s c v := by
    simp only [movedCause, State.modPwr, chan_modChan_same, hf]
    rfl
  refine ⟨onlyChan_trans (onlyChan_modChan s c _) honly, ?_⟩
  rw [hcause] at hchan
  refine hchan.trans ?_
  simp only [State.modPwr, chan_modChan_same]

/-- The power state of a channel whose PLL has locked. -/
def locked (p : ChPower) : ChPower := { p with pllOn := true, pllReq := false }

theorem exec_pllLock (s : State) (c : Chan) :
    exec (.pllLock c) s = .next (if decide ((s.chan c).pwr.dom.state = .waking) && (s.chan c).pwr.pllReq then
        (if (s.chan c).pwr.fromOff then (s.modPwr c locked).modTrain c (fun x => { x with phase := .tsv }) else (s.modPwr c locked).channelOn c)
      else s) := by
  show execPllLock c s = _
  unfold execPllLock
  simp only
  split
  · split <;> rfl
  · rfl

/-- No target was written during the transition: its end applies none. -/
theorem settleTarget_notHeld (s : State) (d : Domain) (h : (s.dom d).held = false) : s.settleTarget d = s := by
  simp [State.settleTarget, h]

/-- The power state of a channel that runs on its PLL at operating point `v`. -/
def runningAt (v : Nat) (p : ChPower) : ChPower := { p with opNow := v, fromOff := false, dom := { p.dom with state := .on } }

theorem channelOn_eq (s : State) (c : Chan) :
    let v := min 2 (s.chan c).pwr.opTarget
    s.channelOn c = ((s.pointMoves c v).modPwr c (runningAt v)).settleTarget (.channel c) := rfl

/-- The channel comes ON after its PLL has locked, no target waiting. -/
theorem locked_channelOn (s : State) (c : Chan) (hheld : (s.chan c).pwr.dom.held = false) :
    let t := (s.modPwr c locked).channelOn c
    let v := min 2 (s.chan c).pwr.opTarget
    onlyChan s t c ∧ t.chan c = { s.chan c with
      pwr := runningAt v (locked (s.chan c).pwr), strictCause := movedCause s c v, strictTag := (t.chan c).strictTag } := by
  have hpwr : ((s.modPwr c locked).chan c).pwr = locked (s.chan c).pwr := by simp [State.modPwr]
  have hmove := modPwr_pointMoves_modPwr s c (min 2 (s.chan c).pwr.opTarget) locked (runningAt (min 2 (s.chan c).pwr.opTarget)) rfl
  have hon : (s.modPwr c locked).channelOn c
      = ((s.modPwr c locked).pointMoves c (min 2 (s.chan c).pwr.opTarget)).modPwr c (runningAt (min 2 (s.chan c).pwr.opTarget)) := by
    rw [channelOn_eq, hpwr]
    exact settleTarget_notHeld _ _ ((congrArg (fun ch : Channel => ch.pwr.dom.held) hmove.2).trans hheld)
  rw [hon]
  exact hmove

/-- The power state of a channel whose PLL has lost its lock. -/
def lockLost (p : ChPower) : ChPower := { p with pllOn := false, pllReq := false, fromOff := false, dom := { p.dom with state := .waking } }

theorem exec_pllLockLoss (s : State) (c : Chan) :
    exec (.pllLockLoss c) s = .next (if (s.chan c).pwr.dom.state = .on then (s.modPwr c lockLost).timing c 5 else s) := by
  show execPllLockLoss c s = _
  unfold execPllLockLoss
  simp only
  split <;> rfl

theorem exec_opTargetWrite (s : State) (c : Chan) (v : BitVec 2) (h : s.reached = true) :
    exec (.opTargetWrite c v) s = .next ((s.keyOff.opWrite c v.toNat).status .ok) := congrArg Host.Outcome.next (hostReg_port s _ h)

/-- The power state of a channel once op_target holds `v`. -/
def aimed (v : Nat) (p : ChPower) : ChPower := { p with opTarget := v }

/-- A write of op_target: next behind a change that runs, else the start of one where the channel is ON and the point differs (13 R355). -/
theorem opWrite_eq (s : State) (c v : Nat) :
    s.opWrite c v = if (s.chan c).pwr.opChanging.isSome then (s.modPwr c (aimed v)).modPwr c (fun p => { p with opNext := some (min v 2) })
      else if (s.chan c).pwr.dom.state = .on ∧ min v 2 ≠ (s.chan c).pwr.opNow then (s.modPwr c (aimed v)).startPoint c (min v 2)
      else s.modPwr c (aimed v) := by
  have hpwr : ((s.modPwr c (aimed v)).chan c).pwr = aimed v (s.chan c).pwr := by simp [State.modPwr]
  show (if ((s.modPwr c (aimed v)).chan c).pwr.opChanging.isSome then (s.modPwr c (aimed v)).modPwr c (fun p => { p with opNext := some (min v 2) })
    else if ((s.modPwr c (aimed v)).chan c).pwr.dom.state = .on ∧ min v 2 ≠ ((s.modPwr c (aimed v)).chan c).pwr.opNow
    then (s.modPwr c (aimed v)).startPoint c (min v 2) else s.modPwr c (aimed v)) = _
  rw [hpwr]
  rfl

theorem exec_opPointChangeDone (s : State) (c : Chan) (k : Nat) (h : (s.chan c).pwr.opChanging = some k)
    (hnext : (s.chan c).pwr.opNext = none ∨ (s.chan c).pwr.opNext = some k) :
    exec (.opPointChangeDone c) s
      = .next ((s.pointMoves c k).modPwr c (fun p => { p with opNow := k, opChanging := none, opNext := none })) := by
  show execOpPointChangeDone c s = _
  unfold execOpPointChangeDone
  rcases hnext with hn | hn
  · simp only [h, hn]
  · simp only [h, hn, ne_eq, not_true_eq_false, if_false]

/-! ## The ledger and the limiter (13 R360, R361) -/

theorem bits_low16 (v : Nat) : bits v 15 0 = v % 65536 := by simp [bits]

theorem exec_ledgerAllowWrite (s : State) (c : Chan) (v : W32) (h : s.reached = true) :
    exec (.ledgerAllowWrite c v) s = .next ((s.keyOff.allowWrite c (v.toNat % 65536)).status .ok) := by
  rw [← bits_low16]
  exact congrArg Host.Outcome.next (hostReg_port s _ h)

theorem allowWrite_granted (s : State) (c : Chan) (v : Nat) (hsum : allowSum (tput s.ledger.allow c.val v) ≤ 3200000) (hv : v ≤ 20000) :
    s.allowWrite c v = s.modLedger (fun l => { l with allow := tput s.ledger.allow c.val v, allocRefused := false }) := if_neg (by omega)

theorem allowWrite_refused (s : State) (c : Chan) (v : Nat) (h : 3200000 < allowSum (tput s.ledger.allow c.val v) ∨ 20000 < v) :
    s.allowWrite c v = s.modLedger (fun l => { l with allocRefused := true }) := if_pos h

/-- The state with the limiter's duty of a channel set. -/
def withLimDuty (s : State) (c d : Nat) : State := s.modChan c (fun ch => { ch with thr := { ch.thr with limDuty := d } })

theorem exec_limiterWindow (s : State) (c : Chan) (n : Nat) :
    exec (.limiterWindow c n) s = .next (if n ≤ s.effective c then (if (s.chan c).thr.limDuty = 16 then s else (withLimDuty s c 16).timing c 0)
      else (withLimDuty (s.draw 1).2 c (((s.draw 1).1.headD 0).toNat % 16)).timing c 0) := by
  show execLimiterWindow c n s = _
  unfold execLimiterWindow
  simp only
  split
  · split <;> rfl
  · rfl

theorem withLimDuty_timing_thr (s : State) (c d i : Nat) : (((withLimDuty s c d).timing c i).chan c).thr = { (s.chan c).thr with limDuty := d } := by
  rw [timing_chan]
  simp [withLimDuty]

/-- Settles O42: every command is a change of its channel's power state, banks or limiter, with the mark of broken timing where one is due, or a
write of the ledger's registers. -/
theorem channelClocks : Obligations.ChannelClocks := by
  intro s c v o n k
  refine ⟨?entry, ?noEntry, ?exit, ?exitOff, ?exitEarly, ?noExit, ?pllReq, ?lock, ?lockOff, ?noLock, ?loss, ?noLoss, ?start, ?stay, ?queue,
    ?moved, ?noMove, ?allow, ?refuse, ?limIdle, ?limOpen, ?limOver⟩
  case entry =>
    intro he hs
    refine ⟨_, by rw [exec_selfRefreshEntry, if_pos (by simp [he, hs])], onlyChan_modChan s c _, ?_⟩
    rw [chan_modChan_same]
    exact ⟨by rw [selfRefreshIn_eq], selfRefreshIn_bank (s.chan c)⟩
  case noEntry => intro he; simp [exec_selfRefreshEntry, he]
  case exit =>
    intro hs he hoff hdue
    refine ⟨_, by rw [exec_selfRefreshExit, if_pos (by simpa [hs, he, hoff, and_comm] using hdue)], onlyChan_modChan s c _, ?_⟩
    rw [chan_modChan_same, if_neg (by simp [hoff])]
    exact ⟨by rw [accept_eq]; rfl, fun b hb => accept_bank (leftSelfRefresh (s.chan c)) b hb⟩
  case exitOff =>
    intro hs he hoff hbond
    refine ⟨_, by rw [exec_selfRefreshExit, if_pos (by simp [hs, he, hoff, hbond])], onlyChan_modChan s c _, ?_⟩
    rw [chan_modChan_same, if_pos hoff]
    rfl
  case exitEarly => intro hoff hbond; simp [exec_selfRefreshExit, hoff, hbond]
  case noExit => intro hs; simp [exec_selfRefreshExit, hs]
  case pllReq =>
    intro hr hwake
    refine ⟨_, exec_pllReq s c hr, wroteChan_status (onlyChan_modChan s.keyOff c _), ?_⟩
    rw [State.status_read_chan, chan_modChan_same]
    exact congrArg (fun p => { s.chan c with pwr := p }) (if_pos hwake)
  case lock =>
    intro hw hreq hoff hheld
    obtain ⟨honly, hchan⟩ := locked_channelOn s c hheld
    refine ⟨_, by rw [exec_pllLock, if_pos (by simp [hw, hreq]), if_neg (by simp [hoff])], honly, ?_, ?_⟩
    · rw [hchan]
      simp only [runningAt, locked, hoff]
    · rw [hchan]
      rfl
  case lockOff =>
    intro hw hreq hoff
    refine ⟨_, by rw [exec_pllLock, if_pos (by simp [hw, hreq]), if_pos hoff], ?_⟩
    refine ⟨onlyChan_trans (onlyChan_modChan s c _) (onlyChan_modChan _ c _), ?_⟩
    simp only [State.modTrain, State.modPwr, chan_modChan_same]
    rfl
  case noLock =>
    intro h
    rw [exec_pllLock, if_neg]
    rcases h with h | h <;> simp [h]
  case loss =>
    intro hon
    refine ⟨_, by rw [exec_pllLockLoss, if_pos hon], ?_⟩
    have hpwr : (s.modPwr c lockLost).chan c = { s.chan c with pwr := lockLost (s.chan c).pwr } := by simp [State.modPwr]
    refine ⟨onlyChan_trans (onlyChan_modChan s c _) (onlyChan_timing _ c 5), ?_, fun hstrict => ?_⟩
    · rw [timing_chan, hpwr]; rfl
    · rw [timing_chan, hpwr, if_pos (show (s.modPwr c lockLost).port.strict = true from hstrict)]; rfl
  case noLoss => intro hon; rw [exec_pllLockLoss, if_neg hon]
  case start =>
    intro hr hidle hon hpoint
    obtain ⟨honly, hchan⟩ := modPwr_pointMoves_modPwr s.keyOff c (min o.toNat 2) (aimed o.toNat)
      (fun p => { p with opChanging := some (min o.toNat 2), opNext := none }) rfl
    have hwrite : s.keyOff.opWrite c o.toNat = (s.keyOff.modPwr c (aimed o.toNat)).startPoint c (min o.toNat 2) := by
      rw [opWrite_eq, State.keyOff_read_chan, if_neg (by simp [hidle]), if_pos ⟨hon, hpoint⟩]
    refine ⟨_, by rw [exec_opTargetWrite s c o hr, hwrite], ?_⟩
    refine ⟨wroteChan_status honly, ?_, ?_⟩
    · exact (congrArg Channel.pwr hchan).trans rfl
    · exact (congrArg Channel.strictCause hchan).trans rfl
  case stay =>
    intro hr hidle hpoint
    have hwrite : s.keyOff.opWrite c o.toNat = s.keyOff.modPwr c (aimed o.toNat) := by
      rw [opWrite_eq, State.keyOff_read_chan, if_neg (by simp [hidle]), if_neg (fun h => h.2 hpoint)]
    refine ⟨_, by rw [exec_opTargetWrite s c o hr, hwrite], ?_⟩
    refine ⟨wroteChan_status (onlyChan_modChan s.keyOff c _), ?_⟩
    simp only [State.status_read_chan, State.modPwr, chan_modChan_same]
    rfl
  case queue =>
    intro hr hbusy
    have hwrite : s.keyOff.opWrite c o.toNat
        = (s.keyOff.modPwr c (aimed o.toNat)).modPwr c (fun p => { p with opNext := some (min o.toNat 2) }) := by
      rw [opWrite_eq, State.keyOff_read_chan, if_pos (Option.isSome_iff_ne_none.mpr hbusy)]
    refine ⟨_, by rw [exec_opTargetWrite s c o hr, hwrite], ?_⟩
    refine ⟨wroteChan_status (onlyChan_trans (onlyChan_modChan s.keyOff c _) (onlyChan_modChan _ c _)), ?_⟩
    simp only [State.status_read_chan, State.modPwr, chan_modChan_same]
    rfl
  case moved =>
    intro hk hnext
    obtain ⟨honly, hchan⟩ := pointMoves_modPwr s c k (fun p => { p with opNow := k, opChanging := none, opNext := none })
    exact ⟨_, exec_opPointChangeDone s c k hk hnext, honly, by rw [hchan], by rw [hchan]; rfl⟩
  case noMove =>
    intro h
    show execOpPointChangeDone c s = _
    simp only [execOpPointChangeDone, h]
  case allow =>
    intro hr hsum hv
    refine ⟨_, by rw [exec_ledgerAllowWrite s c v hr, allowWrite_granted s.keyOff c (v.toNat % 65536) hsum hv], ?_⟩
    exact ⟨⟨rfl, rfl, rfl, rfl, rfl⟩, rfl⟩
  case refuse =>
    intro hr hover
    refine ⟨_, by rw [exec_ledgerAllowWrite s c v hr, allowWrite_refused s.keyOff c (v.toNat % 65536) hover], ?_⟩
    exact ⟨⟨rfl, rfl, rfl, rfl, rfl⟩, rfl⟩
  case limIdle => intro hn h16; rw [exec_limiterWindow, if_pos hn, if_pos h16]
  case limOpen =>
    intro hn
    by_cases h16 : (s.chan c).thr.limDuty = 16
    · exact ⟨s, by rw [exec_limiterWindow, if_pos hn, if_pos h16], by rw [← h16]⟩
    · exact ⟨_, by rw [exec_limiterWindow, if_pos hn, if_neg h16], withLimDuty_timing_thr s c 16 0⟩
  case limOver =>
    intro hn
    refine ⟨_, by rw [exec_limiterWindow, if_neg (by omega)], ?_⟩
    beta_reduce
    rw [withLimDuty_timing_thr]
    exact ⟨Nat.mod_lt _ (by decide), rfl⟩

end Sys2Proof.BankMemory
end

section
/-! SUPPORT. The interleaved view (02 R44, R45): parities, fields, and the hash that is its own inverse given the bits it passes through. -/

namespace Sys2Proof.BankMemory
open Sys2Proof Sys2Proof.Machine

/-! ## Parities -/

/-- An odd number of the indexes `a` to `a + n - 1` satisfy `p`. -/
def oddCount (p : Nat → Bool) (a n : Nat) : Bool := decide (((upFrom a n).filter p).length % 2 = 1)

theorem oddCount_succ (p : Nat → Bool) (a n : Nat) : oddCount p a (n + 1) = (p a ^^ oddCount p (a + 1) n) := by
  unfold oddCount
  rw [upFrom, List.filter_cons]
  cases p a with
  | false => simp
  | true =>
    rw [if_pos rfl, List.length_cons, Bool.true_xor, ← decide_not]
    exact decide_eq_decide.mpr (by omega)

theorem oddCount_add (p : Nat → Bool) (a m n : Nat) : oddCount p a (m + n) = (oddCount p a m ^^ oddCount p (a + m) n) := by
  induction m generalizing a with
  | zero => rw [Nat.zero_add]; exact (Bool.false_xor _).symm
  | succ m ih => rw [Nat.succ_add, oddCount_succ, oddCount_succ, ih, Bool.xor_assoc, Nat.add_assoc, Nat.add_comm 1 m]

theorem oddCount_congr {p q : Nat → Bool} (a d n : Nat) (h : ∀ i, i < n → p (a + i) = q (d + i)) : oddCount p a n = oddCount q d n := by
  induction n generalizing a d with
  | zero => rfl
  | succ n ih =>
    have hrest : ∀ i, i < n → p (a + 1 + i) = q (d + 1 + i) := fun i hi => by
      have := h (i + 1) (by omega)
      rwa [Nat.add_comm i 1, ← Nat.add_assoc, ← Nat.add_assoc] at this
    rw [oddCount_succ, oddCount_succ, ih (a + 1) (d + 1) hrest]
    exact congrArg (· ^^ oddCount q (d + 1) n) (h 0 (by omega))

theorem oddCount_none {p : Nat → Bool} (a n : Nat) (h : ∀ i, i < n → p (a + i) = false) : oddCount p a n = false := by
  induction n generalizing a with
  | zero => rfl
  | succ n ih =>
    have hrest : ∀ i, i < n → p (a + 1 + i) = false := fun i hi => by
      rw [Nat.add_assoc, Nat.add_comm 1 i]; exact h (i + 1) (by omega)
    have ha : p a = false := h 0 (by omega)
    rw [oddCount_succ, ih (a + 1) hrest, ha, Bool.false_xor]

theorem parityBits_eq_oddCount (n v : Nat) : parityBits n v = oddCount v.testBit 0 n := by
  induction n generalizing v with
  | zero => rfl
  | succ n ih =>
    rw [parityBits, oddCount_succ, ih, Nat.testBit_zero]
    refine congrArg₂ _ (by rw [beq_eq_decide]) (oddCount_congr 0 1 n fun i _ => ?_)
    rw [Nat.zero_add, Nat.add_comm 1 i, Nat.testBit_succ]

/-! ## Fields -/

theorem testBit_bits (v hi lo i : Nat) : (bits v hi lo).testBit i = (decide (i < hi + 1 - lo) && v.testBit (lo + i)) := by
  rw [bits, Nat.testBit_mod_two_pow, Nat.testBit_div_two_pow, Nat.add_comm i lo]

/-- A number put together from bits `a` up: its bits are those, above the bits of `t` below them. -/
theorem foldl_bits (f : Nat → Bool) (n a t : Nat) (ht : t < 2 ^ a) :
    let v := (upFrom a n).foldl (fun t i => t + if f i then 2 ^ i else 0) t
    v < 2 ^ (a + n) ∧ ∀ i, i < a + n → v.testBit i = if i < a then t.testBit i else f i := by
  induction n generalizing a t with
  | zero => exact ⟨ht, fun i hi => by rw [if_pos (by omega)]; rfl⟩
  | succ n ih =>
    have hstep : (t + if f a then 2 ^ a else 0) < 2 ^ (a + 1) := by rw [Nat.pow_succ]; split <;> omega
    have hbit : ∀ i, i < a + 1 → (t + if f a then 2 ^ a else 0).testBit i = if i < a then t.testBit i else f i := by
      intro i hi
      by_cases hia : i < a
      · rw [if_pos hia]
        split
        · rw [Nat.add_comm, Nat.testBit_two_pow_add_gt hia]
        · rfl
      · obtain rfl : i = a := by omega
        rw [if_neg hia]
        cases hf : f i with
        | true => rw [if_pos rfl, Nat.add_comm, Nat.testBit_two_pow_add_eq, Nat.testBit_lt_two_pow ht]; rfl
        | false => rw [if_neg (by simp), Nat.add_zero, Nat.testBit_lt_two_pow ht]
    obtain ⟨hlt, hbits⟩ := ih (a + 1) _ hstep
    refine ⟨by rwa [Nat.add_assoc, Nat.add_comm 1 n] at hlt, fun i hi => (hbits i (by omega)).trans ?_⟩
    by_cases hia : i < a + 1
    · rw [if_pos hia, hbit i hia]
    · rw [if_neg hia, if_neg (by omega)]

/-! ## The hash (R44) -/

/-- Mask `k` selects address bit `j`: a row bit A[39:29] by its low 11 bits, a byte bit A[21:17] by the next 5. -/
def selects (s : State) (k j : Nat) : Bool :=
  if 29 ≤ j then (s.mask k).testBit (j - 29) else decide (17 ≤ j ∧ j ≤ 21) && (s.mask k).testBit (j - 17 + 11)

/-- Hash bit `k` is the parity of the address bits its mask selects. -/
theorem hashBit_eq_parity (s : State) (k a : Nat) : s.hashBit k a = oddCount (fun j => a.testBit j && selects s k j) 0 40 := by
  have hparts : oddCount (fun j => a.testBit j && selects s k j) 0 40
      = (oddCount (fun j => a.testBit j && selects s k j) 0 17 ^^ (oddCount (fun j => a.testBit j && selects s k j) 17 5
        ^^ (oddCount (fun j => a.testBit j && selects s k j) 22 7 ^^ oddCount (fun j => a.testBit j && selects s k j) 29 11))) := by
    rw [show 40 = 17 + (5 + (7 + 11)) from rfl, oddCount_add, oddCount_add, oddCount_add]
  have hlow : oddCount (fun j => a.testBit j && selects s k j) 0 17 = false :=
    oddCount_none 0 17 fun i hi => by simp [selects, show ¬ 29 ≤ i by omega, show ¬ 17 ≤ i by omega]
  have hbank : oddCount (fun j => a.testBit j && selects s k j) 22 7 = false :=
    oddCount_none 22 7 fun i hi => by simp [selects, show ¬ 29 ≤ 22 + i by omega, show ¬ 22 + i ≤ 21 by omega]
  have hbyte : oddCount (fun j => a.testBit j && selects s k j) 17 5
      = oddCount (Nat.land (bits (s.mask k) 15 11) (bits a 21 17)).testBit 0 5 := oddCount_congr 17 0 5 fun i hi => by
    show _ = (bits (s.mask k) 15 11 &&& bits a 21 17).testBit (0 + i)
    rw [Nat.testBit_and, testBit_bits, testBit_bits, selects, if_neg (by omega)]
    simp [show i ≤ 4 by omega, hi, Nat.add_comm, Bool.and_comm]
  have hrow : oddCount (fun j => a.testBit j && selects s k j) 29 11
      = oddCount (Nat.land (bits (s.mask k) 10 0) (bits a 39 29)).testBit 0 11 := oddCount_congr 29 0 11 fun i hi => by
    show _ = (bits (s.mask k) 10 0 &&& bits a 39 29).testBit (0 + i)
    rw [Nat.testBit_and, testBit_bits, testBit_bits, selects, if_pos (by omega)]
    simp [hi, Bool.and_comm]
  rw [hparts, hlow, hbank, Bool.false_xor, Bool.false_xor, hbyte, hrow, State.hashBit, parityBits_eq_oddCount, parityBits_eq_oddCount, Bool.xor_comm]

/-- A hashed field holds, bit by bit, the field's bit with its hash bit. -/
theorem hashField_bits (s : State) (k n v a : Nat) :
    s.hashField k n v a < 2 ^ n ∧ ∀ i, i < n → (s.hashField k n v a).testBit i = (v.testBit i ^^ s.hashBit (k + i) a) := by
  have h := foldl_bits (fun i => bitAt v i ^^ s.hashBit (k + i) a) n 0 0 (by decide)
  rw [Nat.zero_add] at h
  exact h

theorem hashField_lt (s : State) (k n v a : Nat) : s.hashField k n v a < 2 ^ n := (hashField_bits s k n v a).1

theorem testBit_hashField (s : State) (k n v a i : Nat) (h : i < n) : (s.hashField k n v a).testBit i = (v.testBit i ^^ s.hashBit (k + i) a) :=
  (hashField_bits s k n v a).2 i h

theorem bits_lt (v hi lo w : Nat) (hw : hi + 1 - lo = w := by rfl) : bits v hi lo < 2 ^ w := hw ▸ Nat.mod_lt _ (Nat.two_pow_pos _)

/-- The fields of the placed offset an interleaved one names. -/
theorem unhash_fields (s : State) (a : Nat) :
    let p := s.unhash a
    p < 2 ^ 40 ∧ bits p 7 0 = bits a 7 0 ∧ bits p 12 8 = bits a 21 17 ∧ bits p 23 13 = bits a 39 29
      ∧ offBank p = s.hashField 9 7 (bits a 28 22) a ∧ offChan p = s.hashField 0 9 (bits a 16 8) a := by
  have hc := hashField_lt s 0 9 (bits a 16 8) a
  have hb := hashField_lt s 9 7 (bits a 28 22) a
  have hr := bits_lt a 39 29 11
  have hy := bits_lt a 21 17 5
  have hz := bits_lt a 7 0 8
  have hp : s.unhash a = s.hashField 0 9 (bits a 16 8) a * 2 ^ 31 + s.hashField 9 7 (bits a 28 22) a * 2 ^ 24 + bits a 39 29 * 2 ^ 13
    + bits a 21 17 * 2 ^ 8 + bits a 7 0 := rfl
  generalize s.hashField 0 9 (bits a 16 8) a = C at *
  generalize s.hashField 9 7 (bits a 28 22) a = B at *
  generalize bits a 39 29 = R at *
  generalize bits a 21 17 = Y at *
  generalize bits a 7 0 = Z at *
  simp only [hp, bits, offBank, offChan]
  omega

/-- Addresses with the same row and byte bits have the same hash. -/
theorem hashBit_congr (s : State) (k a b : Nat) (hrow : bits a 39 29 = bits b 39 29) (hbyte : bits a 21 17 = bits b 21 17) :
    s.hashBit k a = s.hashBit k b := by
  rw [State.hashBit, State.hashBit, hrow, hbyte]

/-- A hashed field tells the field, the hash being the same. -/
theorem hashField_injective (s : State) (k n v w a b : Nat) (hv : v < 2 ^ n) (hw : w < 2 ^ n) (hhash : ∀ i, s.hashBit i a = s.hashBit i b)
    (h : s.hashField k n v a = s.hashField k n w b) : v = w := by
  refine Nat.eq_of_testBit_eq fun i => ?_
  by_cases hi : i < n
  · have := congrArg (·.testBit i) h
    simp only [testBit_hashField s k n _ _ i hi, hhash] at this
    exact Bool.xor_left_inj.mp this
  · have hle : 2 ^ n ≤ 2 ^ i := Nat.pow_le_pow_right (by decide) (by omega)
    rw [Nat.testBit_lt_two_pow (by omega), Nat.testBit_lt_two_pow (by omega)]

/-- Five fields that cover an address determine it. -/
theorem eq_of_fields {a b : Nat} (ha : a < 2 ^ 40) (hb : b < 2 ^ 40) (hz : bits a 7 0 = bits b 7 0) (hc : bits a 16 8 = bits b 16 8)
    (hy : bits a 21 17 = bits b 21 17) (hk : bits a 28 22 = bits b 28 22) (hr : bits a 39 29 = bits b 39 29) : a = b := by
  simp only [bits] at *
  omega

theorem unhash_injective (s : State) {a b : Nat} (ha : a < 2 ^ 40) (hb : b < 2 ^ 40) (h : s.unhash a = s.unhash b) : a = b := by
  obtain ⟨-, hza, hya, hra, hka, hca⟩ := unhash_fields s a
  obtain ⟨-, hzb, hyb, hrb, hkb, hcb⟩ := unhash_fields s b
  rw [h] at hza hya hra hka hca
  have hrow : bits a 39 29 = bits b 39 29 := hra.symm.trans hrb
  have hbyte : bits a 21 17 = bits b 21 17 := hya.symm.trans hyb
  have hhash : ∀ i, s.hashBit i a = s.hashBit i b := fun i => hashBit_congr s i a b hrow hbyte
  exact eq_of_fields ha hb (hza.symm.trans hzb)
    (hashField_injective s 0 9 _ _ a b (bits_lt a 16 8 9) (bits_lt b 16 8 9) hhash (hca.symm.trans hcb)) hbyte
    (hashField_injective s 9 7 _ _ a b (bits_lt a 28 22 7) (bits_lt b 28 22 7) hhash (hka.symm.trans hkb)) hrow

/-- Equal fields have equal bits. -/
theorem testBit_of_bits_eq {a p hi lo hi' lo' i : Nat} (h : bits p hi lo = bits a hi' lo') (hw : i < hi + 1 - lo) (hw' : i < hi' + 1 - lo') :
    p.testBit (lo + i) = a.testBit (lo' + i) := by
  have := congrArg (·.testBit i) h
  simpa only [testBit_bits, hw, hw', decide_true, Bool.true_and] using this

/-- Settles O59: the fields of the placed offset, each channel and bank bit with the parity of what its mask selects. -/
theorem interleavedView : Obligations.InterleavedView := by
  intro s a b ha hb
  obtain ⟨hp, hz, hy, hr, hk, hc⟩ := unhash_fields s a
  refine ⟨hp, fun i hi => ?_, fun i hi => ?_, fun i hi => ?_, fun i hi => ⟨?_, ?_⟩, fun i hi => ?_, unhash_injective s ha hb, rfl⟩
  · simpa using testBit_of_bits_eq hz hi hi
  · exact testBit_of_bits_eq hy hi hi
  · exact testBit_of_bits_eq hr hi hi
  · rw [hc]; exact hashField_lt s 0 9 _ a
  · rw [hc, testBit_hashField s 0 9 _ a i hi, testBit_bits, hashBit_eq_parity, Nat.zero_add]
    simp only [show i < 16 + 1 - 8 by omega, decide_true, Bool.true_and]
    rfl
  · rw [hk, testBit_hashField s 9 7 _ a i hi, testBit_bits, hashBit_eq_parity]
    simp only [show i < 28 + 1 - 22 by omega, decide_true, Bool.true_and]
    rfl

end Sys2Proof.BankMemory
end

section
/-! SUPPORT. Lane training (02 R61 to R67, Tables 9 to 11): what a lane holds after a change of the table of lanes, a sweep's outcome, and the end
of a sweep. -/

namespace Sys2Proof.BankMemory
open Sys2Proof Sys2Proof.Machine

/-! ## Lanes -/

/-- What the table of lanes says of a lane: its entry, else the default a sweep has set. -/
def listed (t : TrainSt) (l : LaneSel) : LaneTrain :=
  match t.lanes.find? (fun e => e.1 = l) with
  | some e => e.2
  | none => if t.dflt then laneClean l else ⟨0, 0, false, 0⟩

/-- The tap of a lane as it is, its sampler lost in OFF or not (R70). -/
def tapped (t : TrainSt) (l : LaneSel) (v : LaneTrain) : LaneTrain :=
  match t.lostTaps with
  | some n => if laneTsv l && decide (t.phase = .bond ∨ t.phase = .done) then v else { v with mainTap := lostTap n l }
  | none => v

theorem lane_eq (t : TrainSt) (l : LaneSel) : t.lane l = tapped t l (listed t l) := rfl

theorem tapped_noLost {t : TrainSt} (h : t.lostTaps = none) (l : LaneSel) (v : LaneTrain) : tapped t l v = v := by simp [tapped, h]

theorem tapped_trained {t : TrainSt} {l : LaneSel} (hl : laneTsv l = true) (hp : t.phase = .bond) (v : LaneTrain) : tapped t l v = v := by
  unfold tapped
  split
  · rw [if_pos (by simp [hl, hp])]
  · rfl

/-- A lost sampler's tap stays what it is when the mismatch count changes. -/
theorem tapped_tapped_mismatch (t : TrainSt) (l : LaneSel) (v : LaneTrain) (m : Nat) :
    tapped t l { tapped t l v with mismatch := m } = { tapped t l v with mismatch := m } := by
  unfold tapped
  split
  · split <;> rfl
  · rfl

theorem lane_mismatch (t : TrainSt) (l : LaneSel) : (t.lane l).mismatch = (listed t l).mismatch := by
  rw [lane_eq]
  unfold tapped
  split
  · split <;> rfl
  · rfl

theorem listed_setLane (t : TrainSt) (l k : LaneSel) (v : LaneTrain) : listed (t.setLane l v) k = if k = l then v else listed t k := by
  by_cases hk : k = l
  · subst hk
    simp [listed, TrainSt.setLane]
  · have hfind : (t.setLane l v).lanes.find? (fun e => e.1 = k) = t.lanes.find? (fun e => e.1 = k) := by
      rw [TrainSt.setLane, List.find?_cons_of_neg (by simpa using fun h => hk h.symm), List.find?_filter]
      congr 1
      funext e
      by_cases he : e.1 = k <;> simp [he, hk]
    rw [if_neg hk, listed, hfind]
    rfl

theorem lane_setLane_other (t : TrainSt) (l k : LaneSel) (v : LaneTrain) (hk : k ≠ l) : (t.setLane l v).lane k = t.lane k := by
  rw [lane_eq, listed_setLane, if_neg hk]
  rfl

theorem lane_setLane_noLost (t : TrainSt) (l : LaneSel) (v : LaneTrain) (h : t.lostTaps = none) : (t.setLane l v).lane l = v := by
  rw [lane_eq, listed_setLane, if_pos rfl]
  exact tapped_noLost h l v

/-- Setting the mismatch count of a lane sets that and nothing else of it. -/
theorem lane_setLane_mismatch (t : TrainSt) (l : LaneSel) (m : Nat) :
    (t.setLane l { t.lane l with mismatch := m }).lane l = { t.lane l with mismatch := m } := by
  rw [lane_eq, listed_setLane, if_pos rfl]
  exact tapped_tapped_mismatch t l (listed t l) m

@[simp] theorem chan_modTrain (s : State) (c : Nat) (f : TrainSt → TrainSt) :
    (s.modTrain c f).chan c = { s.chan c with train := f (s.chan c).train } := chan_modChan_same s c _

theorem modTrain_train (s : State) (c : Nat) (f : TrainSt → TrainSt) : ((s.modTrain c f).chan c).train = f (s.chan c).train := by
  rw [chan_modTrain]

theorem onlyChan_modTrain (s : State) (c : Nat) (f : TrainSt → TrainSt) : onlyChan s (s.modTrain c f) c := onlyChan_modChan s c _

/-! ## Requests of CH_TRAIN_CTRL (Table 9) -/

section
variable {s : State} {c : Chan} (hreach : s.winReached (.chan c) = true) (hstat : s.winStatus (.chan c) = .ok)
include hreach hstat

theorem exec_sweep : exec (.sweep c) s = .next ((s.keyOff.sweepReq c).status .ok) := congrArg Host.Outcome.next (hostReg_served _ hreach hstat)
theorem exec_nudgeUp : exec (.nudgeUp c) s = .next ((s.keyOff.nudge c true).status .ok) := congrArg Host.Outcome.next (hostReg_served _ hreach hstat)
theorem exec_nudgeDown : exec (.nudgeDown c) s = .next ((s.keyOff.nudge c false).status .ok) := congrArg Host.Outcome.next (hostReg_served _ hreach hstat)
theorem exec_patternGo : exec (.patternGo c) s = .next ((s.keyOff.patternGo c).status .ok) := congrArg Host.Outcome.next (hostReg_served _ hreach hstat)

end

/-- A host WRITE that changes the training state alone. -/
theorem wroteChan_modTrain (s : State) (c : Nat) (f : TrainSt → TrainSt) :
    wroteChan s ((s.keyOff.modTrain c f).status .ok) c
      ∧ ((s.keyOff.modTrain c f).status .ok).chan c = { s.chan c with train := f (s.chan c).train } :=
  ⟨wroteChan_status (onlyChan_modTrain s.keyOff c f), chan_modTrain s.keyOff c f⟩

/-- The training state after a nudge. -/
def nudged (up : Bool) (t : TrainSt) : TrainSt :=
  let l := selLane t.sel
  let v := t.lane l
  let ok := if up then decide (v.mainTap + 1 < laneTaps l) else decide (0 < v.mainTap)
  if t.freeze || !ok || !laneOk l then { t with refused := true }
  else { t.setLane l { v with mainTap := if up then v.mainTap + 1 else v.mainTap - 1 } with refused := false }

theorem nudge_eq (s : State) (c : Nat) (up : Bool) : s.nudge c up = s.modTrain c (nudged up) := rfl

/-- The selected lane's next tap in a direction is one of its taps. -/
def tapFree (up : Bool) (t : TrainSt) : Prop :=
  if up then (t.lane (selLane t.sel)).mainTap + 1 < laneTaps (selLane t.sel) else 0 < (t.lane (selLane t.sel)).mainTap

theorem nudged_moves {up : Bool} {t : TrainSt} (hok : laneOk (selLane t.sel) = true) (hfreeze : t.freeze = false) (hlost : t.lostTaps = none)
    (htap : tapFree up t) :
    let v := t.lane (selLane t.sel)
    (nudged up t).lane (selLane t.sel) = { v with mainTap := if up then v.mainTap + 1 else v.mainTap - 1 } ∧ (nudged up t).refused = false
      ∧ ∀ k, k ≠ selLane t.sel → (nudged up t).lane k = t.lane k := by
  have hmove : nudged up t = { t.setLane (selLane t.sel) { t.lane (selLane t.sel) with
      mainTap := if up then (t.lane (selLane t.sel)).mainTap + 1 else (t.lane (selLane t.sel)).mainTap - 1 } with refused := false } := by
    refine if_neg ?_
    unfold tapFree at htap
    cases up <;> simpa [hok, hfreeze, Nat.pos_iff_ne_zero] using htap
  rw [hmove]
  exact ⟨lane_setLane_noLost t _ _ hlost, rfl, fun k hk => lane_setLane_other t _ k _ hk⟩

theorem nudged_refused {up : Bool} {t : TrainSt} (h : t.freeze = true ∨ ¬ tapFree up t) : nudged up t = { t with refused := true } := by
  refine if_pos ?_
  unfold tapFree at h
  cases up <;> rcases h with h | h <;> simp_all

/-- Where a pattern run is refused: in STRICT, on a leased bank, or while something runs (R66). -/
theorem patternGo_refused {s : State} {c : Nat} (h : (s.port.strict = true ∨ (s.chan c).selLeased = true) ∨ (s.chan c).train.busy = true) :
    s.patternGo c = s.modTrain c (fun t => { t with refused := true }) := by
  refine if_pos ?_
  rcases h with (h | h) | h <;> simp [h]

/-- The channel in which a pattern run has begun, its training row's free bytes numbered by `draw`. -/
def patterned (draw : Nat) (ch : Channel) : Channel :=
  { (if patternOf ch.train.pattern = 0 then ch
      else { ch with trainRows := tput ch.trainRows (selLane ch.train.sel).physBank ⟨patternOf ch.train.pattern, draw⟩ }) with
    train := { ch.train.setLane (selLane ch.train.sel) { ch.train.lane (selLane ch.train.sel) with mismatch := 0 } with
      patterning := true, refused := false } }

theorem patternGo_runs {s : State} {c : Nat} (hbar : ¬ (s.port.strict = true ∨ (s.chan c).selLeased = true)) (hbusy : (s.chan c).train.busy = false) :
    s.patternGo c = { s.modChan c (patterned s.free) with free := s.free + 1 } := by
  refine (if_neg ?_).trans ?_
  · simpa [hbusy] using hbar
  · rfl

theorem patterned_rows (draw : Nat) (ch : Channel) (b : Nat) :
    tfind (patterned draw ch).trainRows b = if b = (selLane ch.train.sel).physBank ∧ patternOf ch.train.pattern ≠ 0
      then some ⟨patternOf ch.train.pattern, draw⟩ else tfind ch.trainRows b := by
  show tfind (Channel.trainRows (if patternOf ch.train.pattern = 0 then ch else _)) b = _
  by_cases hp : patternOf ch.train.pattern = 0
  · rw [if_pos hp, if_neg (fun h => h.2 hp)]
  · rw [if_neg hp]
    by_cases hb : b = (selLane ch.train.sel).physBank
    · rw [if_pos ⟨hb, hp⟩, hb]; exact tfind_tput_same _ _ _
    · rw [if_neg (fun h => hb h.1)]; exact tfind_tput_other _ _ _ _ hb

end Sys2Proof.BankMemory
end

section
/-! SUPPORT. A sweep's outcome on each lane, and the end of a sweep (02 R62 to R64, R70). -/

namespace Sys2Proof.BankMemory
open Sys2Proof Sys2Proof.Machine

/-! ## The outcome of a sweep's phases (R62) -/

/-- A sweep of the TSV lanes, the bond lanes, or both trains this lane. -/
def trains (tsv bond : Bool) (k : LaneSel) : Bool := if laneTsv k then tsv else bond

/-- The mismatches met on lanes a sweep trains. -/
def hits (tsv bond : Bool) (bad : List LaneTaps) : List LaneTaps := bad.filter (fun l => laneOk l.lane && trains tsv bond l.lane)

/-- The entries a sweep writes for lanes that met mismatches. -/
def hitLanes (t : TrainSt) (tsv bond : Bool) (bad : List LaneTaps) : List (LaneSel × LaneTrain) :=
  (hits tsv bond bad).map (fun l => (l.lane, { trainLane1 l with mismatch := (t.lane l.lane).mismatch }))

/-- What a sweep leaves of the entry of a lane: itself where it is not trained, else its mismatch count. -/
def leftLane (t : TrainSt) (tsv bond : Bool) (ls : List (LaneSel × LaneTrain)) (e : LaneSel × LaneTrain) : Option (LaneSel × LaneTrain) :=
  if !trains tsv bond e.1 then some e
  else if (t.lane e.1).mismatch = 0 ∨ ls.any (fun k => decide (k.1 = e.1)) = true then none
  else some (e.1, { laneClean e.1 with mismatch := (t.lane e.1).mismatch })

theorem sweepLanes_lanes (t : TrainSt) (tsv bond : Bool) (bad : List LaneTaps) :
    (t.sweepLanes tsv bond bad).lanes = hitLanes t tsv bond bad ++ t.lanes.filterMap (leftLane t tsv bond (hitLanes t tsv bond bad)) := rfl

/-- A lane whose mismatches one entry of the sweep names. -/
theorem find_hitLanes {t : TrainSt} {tsv bond : Bool} {bad : List LaneTaps} {l : LaneTaps} (hl : l ∈ bad) (hone : ∀ k ∈ bad, k.lane = l.lane → k = l)
    (hok : laneOk l.lane = true) (htrain : trains tsv bond l.lane = true) :
    (hitLanes t tsv bond bad).find? (fun e => e.1 = l.lane) = some (l.lane, { trainLane1 l with mismatch := (t.lane l.lane).mismatch }) := by
  have hmem : l ∈ hits tsv bond bad := List.mem_filter.mpr ⟨hl, by simp [hok, htrain]⟩
  have hsome : ((hits tsv bond bad).find? (fun k => decide (k.lane = l.lane))).isSome = true := by
    rw [List.find?_isSome]
    exact ⟨l, hmem, decide_eq_true rfl⟩
  have hfind : (hits tsv bond bad).find? (fun k => decide (k.lane = l.lane)) = some l := by
    obtain ⟨k, hk⟩ := Option.isSome_iff_exists.mp hsome
    have hlane : k.lane = l.lane := by simpa using List.find?_some hk
    rw [hk, hone k (List.mem_filter.mp (List.mem_of_find?_eq_some hk)).1 hlane]
  rw [hitLanes, List.find?_map]
  exact congrArg _ hfind

/-- No entry of the sweep names the lane, or it is not trained. -/
theorem find_hitLanes_none {t : TrainSt} {tsv bond : Bool} {bad : List LaneTaps} {k : LaneSel}
    (h : (∀ e ∈ bad, e.lane ≠ k) ∨ trains tsv bond k = false) : (hitLanes t tsv bond bad).find? (fun e => e.1 = k) = none := by
  rw [List.find?_eq_none]
  intro e he
  obtain ⟨l, hl, rfl⟩ := List.mem_map.mp he
  obtain ⟨hbad, hcond⟩ := List.mem_filter.mp hl
  intro hk
  obtain rfl : l.lane = k := of_decide_eq_true hk
  rcases h with h | h
  · exact h l hbad rfl
  · simp [h] at hcond

/-- The entry of a lane that the sweep's list does not name, after the sweep. -/
theorem find_leftLane (t : TrainSt) (tsv bond : Bool) (ls : List (LaneSel × LaneTrain)) (k : LaneSel)
    (hls : ls.find? (fun e => e.1 = k) = none) (m : List (LaneSel × LaneTrain)) :
    (m.filterMap (leftLane t tsv bond ls)).find? (fun e => e.1 = k) = if trains tsv bond k = false then m.find? (fun e => e.1 = k)
      else if (t.lane k).mismatch = 0 then none
      else (m.find? (fun e => e.1 = k)).map (fun _ => (k, { laneClean k with mismatch := (t.lane k).mismatch })) := by
  have hany : ls.any (fun e => decide (e.1 = k)) = false := by
    rw [List.any_eq_false]
    exact List.find?_eq_none.mp hls
  induction m with
  | nil => simp
  | cons e m ih =>
    by_cases hek : e.1 = k
    · rw [List.find?_cons_of_pos (by simpa using hek), List.filterMap_cons]
      obtain ⟨k', v⟩ := e
      obtain rfl : k' = k := hek
      cases htrain : trains tsv bond k' with
      | false => simp [leftLane, htrain]
      | true =>
        by_cases hm : (t.lane k').mismatch = 0
        · simp [leftLane, htrain, hm, ih]
        · simp [leftLane, htrain, hm, hany]
    · rw [List.find?_cons_of_neg (by simpa using hek), ← ih, List.filterMap_cons]
      split
      · rfl
      · next f hf =>
        have hfk : f.1 ≠ k := by
          have : f.1 = e.1 := by
            unfold leftLane at hf
            split at hf
            · cases hf; rfl
            · split at hf <;> cases hf; rfl
          rwa [this]
        rw [List.find?_cons_of_neg (by simpa using hfk)]

/-- A lane that one entry of the sweep names holds that entry's outcome. -/
theorem listed_sweep_named {t : TrainSt} {tsv bond : Bool} {bad : List LaneTaps} {l : LaneTaps} (hl : l ∈ bad)
    (hone : ∀ k ∈ bad, k.lane = l.lane → k = l) (hok : laneOk l.lane = true) (htrain : trains tsv bond l.lane = true) :
    listed (t.sweepLanes tsv bond bad) l.lane = { trainLane1 l with mismatch := (t.lane l.lane).mismatch } := by
  rw [listed, sweepLanes_lanes, List.find?_append, find_hitLanes hl hone hok htrain]
  rfl

/-- A lane that the sweep trains without a mismatch is clean, once the default is. -/
theorem listed_sweep_clean {t : TrainSt} {tsv : Bool} {bad : List LaneTaps} {k : LaneSel} (hno : ∀ e ∈ bad, e.lane ≠ k)
    (htrain : trains tsv true k = true) :
    listed (t.sweepLanes tsv true bad) k = { laneClean k with mismatch := (t.lane k).mismatch } := by
  have hls := find_hitLanes_none (t := t) (tsv := tsv) (bond := true) (Or.inl hno)
  rw [listed, sweepLanes_lanes, List.find?_append, hls, Option.none_or, find_leftLane t tsv true _ k hls, if_neg (by simp [htrain])]
  have hdflt : (t.sweepLanes tsv true bad).dflt = true := Bool.or_true _
  by_cases hm : (t.lane k).mismatch = 0
  · rw [if_pos hm, hm]
    simp only [hdflt, if_true]
    rfl
  · have hlisted : t.lanes.find? (fun e => e.1 = k) ≠ none := by
      intro hnone
      rw [lane_mismatch, listed, hnone] at hm
      exact hm (by simp only; split <;> rfl)
    obtain ⟨e, he⟩ := Option.ne_none_iff_exists'.mp hlisted
    rw [if_neg hm, he]
    rfl

/-- The training state after a whole sweep, after the TSV phase of a wake from OFF, and after its bond phases (R62, R70). -/
def sweptWhole (bad : List LaneTaps) (t : TrainSt) : TrainSt := { t.sweepLanes true true bad with phase := .done, lostTaps := none }
def sweptTsv (bad : List LaneTaps) (t : TrainSt) : TrainSt := { t.sweepLanes true false bad with phase := .bond }
def sweptBond (bad : List LaneTaps) (t : TrainSt) : TrainSt := { t.sweepLanes false true bad with phase := .done, lostTaps := none }

section
variable {t : TrainSt} {bad : List LaneTaps} {l : LaneTaps} {k : LaneSel}

theorem lane_sweptWhole_named (hl : l ∈ bad) (hone : ∀ k ∈ bad, k.lane = l.lane → k = l) (hok : laneOk l.lane = true) :
    (sweptWhole bad t).lane l.lane = { trainLane1 l with mismatch := (t.lane l.lane).mismatch } :=
  listed_sweep_named (tsv := true) (bond := true) hl hone hok (by simp [trains])

theorem lane_sweptWhole_clean (hno : ∀ e ∈ bad, e.lane ≠ k) :
    (sweptWhole bad t).lane k = { laneClean k with mismatch := (t.lane k).mismatch } :=
  listed_sweep_clean (tsv := true) hno (by simp [trains])

theorem lane_sweptTsv_named (hl : l ∈ bad) (hone : ∀ k ∈ bad, k.lane = l.lane → k = l) (hok : laneOk l.lane = true) (htsv : laneTsv l.lane = true) :
    (sweptTsv bad t).lane l.lane = { trainLane1 l with mismatch := (t.lane l.lane).mismatch } :=
  (tapped_trained htsv rfl _).trans (listed_sweep_named (tsv := true) (bond := false) hl hone hok (by simp [trains, htsv]))

/-- A bond lane stands while the TSV lanes are trained. -/
theorem lane_sweptTsv_bond (hk : laneTsv k = false) : (sweptTsv bad t).lane k = t.lane k := by
  have htrain : trains true false k = false := by simp [trains, hk]
  have hls := find_hitLanes_none (t := t) (bad := bad) (Or.inr htrain)
  have hlist : listed (sweptTsv bad t) k = listed t k := by
    show listed (t.sweepLanes true false bad) k = _
    rw [listed, sweepLanes_lanes, List.find?_append, hls, Option.none_or, find_leftLane t true false _ k hls, if_pos htrain]
    rw [show (t.sweepLanes true false bad).dflt = t.dflt from Bool.or_false _]
    rfl
  rw [lane_eq, lane_eq, hlist]
  unfold tapped
  simp only [hk, Bool.false_and]
  rfl

theorem lane_sweptBond_named (hl : l ∈ bad) (hone : ∀ k ∈ bad, k.lane = l.lane → k = l) (hok : laneOk l.lane = true) (hbond : laneTsv l.lane = false) :
    (sweptBond bad t).lane l.lane = { trainLane1 l with mismatch := (t.lane l.lane).mismatch } :=
  listed_sweep_named (tsv := false) (bond := true) hl hone hok (by simp [trains, hbond])

theorem lane_sweptBond_clean (hno : ∀ e ∈ bad, e.lane ≠ k) (hbond : laneTsv k = false) :
    (sweptBond bad t).lane k = { laneClean k with mismatch := (t.lane k).mismatch } :=
  listed_sweep_clean (tsv := false) hno (by simp [trains, hbond])

end

/-! ## The eye of a lane without mismatches (R62, R63) -/

theorem eyeGo_noBad (n a w : Nat) (best : Nat × Nat) (hb : best.2 = w ∧ (w ≠ 0 → best.1 = 0)) (l : List Nat) (hl : l = upFrom a n) :
    (eyeGo [] l (0, w) best).2 = w + n ∧ (w + n ≠ 0 → (eyeGo [] l (0, w) best).1 = 0) := by
  subst hl
  induction n generalizing a w best with
  | zero => exact hb
  | succ n ih =>
    rw [upFrom, eyeGo]
    simp only [List.contains_nil, Bool.false_eq_true, if_false]
    rw [if_pos (by omega), show w + (n + 1) = w + 1 + n by omega]
    exact ih (a + 1) (w + 1) (0, w + 1) ⟨rfl, fun _ => rfl⟩

theorem laneTaps_bounds (l : LaneSel) : 0 < laneTaps l ∧ laneMinEye l ≤ laneTaps l := by
  unfold laneTaps laneMinEye
  split <;> omega

theorem trainLane1_clean (l : LaneTaps) (h : l.badTaps = []) : trainLane1 l = ⟨laneTaps l.lane / 2, laneTaps l.lane, false, 0⟩ := by
  obtain ⟨hpos, hmin⟩ := laneTaps_bounds l.lane
  obtain ⟨hw, hlow⟩ := eyeGo_noBad (laneTaps l.lane) 0 0 (0, 0) ⟨rfl, fun _ => rfl⟩ _ rfl
  rw [Nat.zero_add] at hw hlow
  simp only [trainLane1, h, hw, hlow (by omega), Nat.zero_add, decide_eq_false (show ¬ laneTaps l.lane < laneMinEye l.lane by omega)]

/-! ## The end of a sweep (R63, R64, R70) -/

/-- Of the machine only the power domain of channel `c`, which keeps its state, has changed, and alerts. -/
def OnlyDom (s t : State) (c : Nat) : Prop :=
  onlyChan s t c ∧ ∃ d : PowerDom, d.state = (s.chan c).pwr.dom.state ∧ t.chan c = { s.chan c with pwr := { (s.chan c).pwr with dom := d } }

theorem onlyDom_refl (s : State) (c : Nat) : OnlyDom s s c := ⟨onlyChan_refl s c, _, rfl, rfl⟩

theorem OnlyDom.trans {s t u : State} {c : Nat} (hst : OnlyDom s t c) (htu : OnlyDom t u c) : OnlyDom s u c := by
  obtain ⟨hs, d, hd, hchan⟩ := hst
  obtain ⟨ht, e, he, hchan'⟩ := htu
  refine ⟨onlyChan_trans hs ht, e, ?_, ?_⟩
  · rw [he, hchan]; exact hd
  · rw [hchan', hchan]

theorem onlyDom_modDom (s : State) (c : Chan) (f : PowerDom → PowerDom) (hf : (f (s.chan c).pwr.dom).state = (s.chan c).pwr.dom.state) :
    OnlyDom s (s.modDom (.channel c) f) c := ⟨onlyChan_modChan s c _, f (s.chan c).pwr.dom, hf, chan_modChan_same s c _⟩

theorem onlyDom_noteSat (s : State) (c : Chan) (old limit d : Nat) : OnlyDom s (s.noteSat old limit d) c :=
  ⟨onlyChan_noteSat s c old limit d, _, rfl, noteSat_chan s old limit d c⟩

theorem onlyDom_tryEntry (s : State) (c : Chan) : OnlyDom s (s.tryEntry (.channel c)) c := by
  unfold State.tryEntry
  simp only
  split
  · exact onlyDom_refl s c
  · split
    · exact (onlyDom_modDom s c _ rfl).trans (onlyDom_noteSat _ c _ _ _)
    · exact onlyDom_modDom s c _ rfl

/-- A target that takes effect at a channel that is up starts an entry, or none; the channel's state stands. -/
theorem onlyDom_applyTarget (s : State) (c : Chan) (hup : (s.chan c).pwr.dom.state.up = true) : OnlyDom s (s.applyTarget (.channel c)) c := by
  unfold State.applyTarget
  simp only
  split
  · rw [if_pos (show (s.dom (.channel c)).state.up = true from hup)]
    exact onlyDom_refl s c
  · split
    · exact (onlyDom_modDom s c _ rfl).trans (onlyDom_tryEntry _ c)
    · exact onlyDom_refl s c

theorem onlyDom_settleTarget (s : State) (c : Chan) (hup : (s.chan c).pwr.dom.state.up = true) : OnlyDom s (s.settleTarget (.channel c)) c := by
  unfold State.settleTarget
  split
  · have hheld := onlyDom_modDom s c (fun p => { p with held := false }) rfl
    refine hheld.trans (onlyDom_applyTarget _ c ?_)
    obtain ⟨-, d, hd, hchan⟩ := hheld
    rw [hchan]
    exact (congrArg PState.up hd).trans hup
  · exact onlyDom_refl s c

/-- A channel that comes ON is ON, its banks' acceptance, its training and the rest of its state as they were. -/
theorem channelOn_chan (s : State) (c : Chan) :
    ((s.channelOn c).chan c).pwr.dom.state = .on ∧ ((s.channelOn c).chan c).pwr.accepting = (s.chan c).pwr.accepting
      ∧ ((s.channelOn c).chan c).train = (s.chan c).train := by
  obtain ⟨-, hchan⟩ := pointMoves_modPwr s c (min 2 (s.chan c).pwr.opTarget) (runningAt (min 2 (s.chan c).pwr.opTarget))
  obtain ⟨-, d, hd, hsettled⟩ := onlyDom_settleTarget _ c (show (State.chan _ c).pwr.dom.state.up = true by rw [hchan]; rfl)
  rw [channelOn_eq, hsettled, hchan]
  refine ⟨?_, rfl, rfl⟩
  rw [hd, hchan]
  rfl

/-- The training state once the sweep has ended. -/
def sweepEnded (t : TrainSt) : TrainSt := { t.steer with phase := .none, lostTaps := none }

/-- The channel once its sweep has ended; one come from OFF takes requests and is ON. -/
def sweepEnd (s : State) (c : Chan) : State :=
  if (s.chan c).pwr.fromOff then ((s.modTrain c sweepEnded).modChan c Channel.accept).channelOn c else s.modTrain c sweepEnded

theorem exec_sweepDone (s : State) (c : Chan) :
    exec (.sweepDone c) s = .next (if (s.chan c).train.phase ≠ .done then s
      else if ((sweepEnd s c).chan c).train.tsvOver || decide (((sweepEnd s c).chan c).badSlices ≠ []) then ((sweepEnd s c).goOffline c).repairSlices c
      else sweepEnd s c) := by
  show execSweepDone c s = _
  unfold execSweepDone
  simp only
  split
  · rfl
  · exact (apply_ite Host.Outcome.next _ _ _).symm

theorem sweepEnd_train (s : State) (c : Chan) : ((sweepEnd s c).chan c).train = sweepEnded (s.chan c).train := by
  unfold sweepEnd
  split
  · rw [(channelOn_chan _ c).2.2, chan_modChan_same, accept_eq, chan_modTrain]
  · rw [chan_modTrain]

/-- Repair records go to MRAM, or an alert is raised: the channels stand, and no alert bit is lost. -/
theorem addRepair_keeps (s : State) (k : RepairKind) (c b target : Nat) (i : Nat) (hi : s.mg.alert.getLsbD i = true) :
    (s.addRepair k c b target).chans = s.chans ∧ (s.addRepair k c b target).mg.alert.getLsbD i = true := by
  unfold State.addRepair
  simp only
  split
  · exact ⟨rfl, hi⟩
  · exact ⟨rfl, by simp [hi]⟩

theorem repairSlices_keeps (s : State) (c : Nat) (i : Nat) (hi : s.mg.alert.getLsbD i = true) :
    (s.repairSlices c).chans = s.chans ∧ (s.repairSlices c).mg.alert.getLsbD i = true := by
  unfold State.repairSlices
  refine List.foldlRecOn (motive := fun t : State => t.chans = s.chans ∧ t.mg.alert.getLsbD i = true) _ _ ⟨rfl, hi⟩ fun t ht e _ => ?_
  obtain ⟨hchans, halert⟩ := ht
  have hkeeps := fun k target => addRepair_keeps t k c e.1 target i halert
  split <;> exact ⟨(hkeeps _ _).1.trans hchans, (hkeeps _ _).2⟩

/-- A channel that goes offline with its repair records written: alert bit 7 is set. -/
theorem goOffline_repairSlices (s : State) (c : Nat) :
    ((s.goOffline c).repairSlices c).chan c = { s.chan c with offline := true } ∧ ((s.goOffline c).repairSlices c).mg.alert.getLsbD 7 = true := by
  obtain ⟨hchans, halert⟩ := repairSlices_keeps (s.goOffline c) c 7 (by simp [State.goOffline])
  have hoff : (s.goOffline c).chan c = { s.chan c with offline := true } :=
    (State.alert_read_chan _ 7 _ c).trans (chan_modChan_same s c (fun ch => { ch with offline := true }))
  exact ⟨(congrArg (fun m : Table Channel => tget m c Channel.zero) hchans).trans hoff, halert⟩

end Sys2Proof.BankMemory
end

section
/-! SUPPORT. The pattern run's end and the settlement of lane training (02 R62 to R67). -/

namespace Sys2Proof.BankMemory
open Sys2Proof Sys2Proof.Machine

/-! ## Sweeps as commands -/

theorem exec_hardwareSweep_whole (s : State) (c : Chan) (bad : List LaneTaps) (hp : (s.chan c).train.phase = .tsv)
    (hoff : (s.chan c).pwr.fromOff = false) : exec (.hardwareSweep c bad) s = .next (s.modTrain c (sweptWhole bad)) := by
  show execHardwareSweep c bad s = _
  simp only [execHardwareSweep, hp, hoff]
  rfl

theorem exec_hardwareSweep_tsv (s : State) (c : Chan) (bad : List LaneTaps) (hp : (s.chan c).train.phase = .tsv)
    (hoff : (s.chan c).pwr.fromOff = true) : exec (.hardwareSweep c bad) s = .next (s.modTrain c (sweptTsv bad)) := by
  show execHardwareSweep c bad s = _
  simp only [execHardwareSweep, hp, hoff]
  rfl

theorem exec_hardwareSweep_bond (s : State) (c : Chan) (bad : List LaneTaps) (hp : (s.chan c).train.phase = .bond)
    (hready : (s.chan c).pwr.selfRefresh = false) : exec (.hardwareSweep c bad) s = .next (s.modTrain c (sweptBond bad)) := by
  show execHardwareSweep c bad s = _
  simp only [execHardwareSweep, hp, hready]
  rfl

theorem exec_hardwareSweep_idle (s : State) (c : Chan) (bad : List LaneTaps)
    (h : (s.chan c).train.phase = .none ∨ (s.chan c).train.phase = .done ∨ ((s.chan c).train.phase = .bond ∧ (s.chan c).pwr.selfRefresh = true)) :
    exec (.hardwareSweep c bad) s = .next s := by
  show execHardwareSweep c bad s = _
  rcases h with h | h | ⟨h, hself⟩
  · simp [execHardwareSweep, h]
  · simp [execHardwareSweep, h]
  · simp [execHardwareSweep, h, hself]

/-! ## The end of a pattern run (R66) -/

/-- The training state with `n` mismatches counted on the selected lane. -/
def counted (n : Nat) (t : TrainSt) : TrainSt :=
  t.setLane (selLane t.sel) { t.lane (selLane t.sel) with mismatch := satAdd (t.lane (selLane t.sel)).mismatch n 0xFFFF }

/-- Mismatches counted change the training state of the channel, and raise an alert where the count saturates. -/
theorem mismatches_chan (s : State) (c n : Nat) :
    onlyChan s (s.mismatches c n) c ∧ (s.mismatches c n).chan c = { s.chan c with train := counted n (s.chan c).train } := by
  have hset : onlyChan s (s.modTrain c (fun t => t.setLane (selLane (s.chan c).train.sel) { (s.chan c).train.lane (selLane (s.chan c).train.sel) with
      mismatch := satAdd ((s.chan c).train.lane (selLane (s.chan c).train.sel)).mismatch n 0xFFFF })) c := onlyChan_modTrain s c _
  unfold State.mismatches
  simp only
  split
  · exact ⟨onlyChan_trans hset (onlyChan_alert _ c 9 _), (State.alert_read_chan _ 9 _ c).trans (chan_modTrain s c _)⟩
  · exact ⟨hset, chan_modTrain s c _⟩

theorem exec_patternRunDone (s : State) (c : Chan) (n : Nat) :
    exec (.patternRunDone c n) s = .next (if !(s.chan c).train.patterning || s.port.strict || (s.chan c).selLeased || (s.chan c).selPending then s
      else (s.modTrain c (fun t => { t with patterning := false })).mismatches c n) := by
  show execPatternRunDone c n s = _
  unfold execPatternRunDone
  simp only
  split <;> rfl

/-- Settles O35: a request changes the training state of its channel; a sweep, lane by lane, writes what it met and else the clean setting; its end
steers, takes the channel offline where no spare is left, and lets one come from OFF serve. -/
theorem laneTraining : Obligations.LaneTraining := by
  intro s c bad l n
  refine ⟨fun hreach hstat => ⟨?sweep, ?sweepNot, ?up, ?down, ?upNot, ?downNot, ?pattern, ?patternNot⟩,
    ?whole, ?tsv, ?bond, trainLane1_clean l, exec_hardwareSweep_idle s c bad, ?notDone, ?steer, ?fromOff, ?offline, ?run, ?runNot⟩
  case sweep =>
    intro hlease hbusy
    have hreq : s.keyOff.sweepReq c = s.keyOff.modTrain c (fun t => { t with phase := .tsv, refused := false }) := if_neg (by simp [hlease, hbusy])
    exact ⟨_, by rw [exec_sweep hreach hstat, hreq], wroteChan_modTrain s c _⟩
  case sweepNot =>
    intro h
    have hreq : s.keyOff.sweepReq c = s.keyOff.modTrain c (fun t => { t with refused := true }) := if_pos (by simpa using h)
    exact ⟨_, by rw [exec_sweep hreach hstat, hreq], wroteChan_modTrain s c _⟩
  case up =>
    intro hok hfreeze hlost htap
    obtain ⟨hwrote, hchan⟩ := wroteChan_modTrain s c (nudged true)
    refine ⟨_, by rw [exec_nudgeUp hreach hstat, nudge_eq], hwrote, ?_⟩
    rw [hchan]
    exact nudged_moves (up := true) hok hfreeze hlost htap
  case down =>
    intro hok hfreeze hlost htap
    obtain ⟨hwrote, hchan⟩ := wroteChan_modTrain s c (nudged false)
    refine ⟨_, by rw [exec_nudgeDown hreach hstat, nudge_eq], hwrote, ?_⟩
    rw [hchan]
    exact nudged_moves (up := false) hok hfreeze hlost htap
  case upNot =>
    intro h
    obtain ⟨hwrote, hchan⟩ := wroteChan_modTrain s c (nudged true)
    rw [nudged_refused (h.imp_right (fun h => by simpa [tapFree] using h))] at hchan
    exact ⟨_, by rw [exec_nudgeUp hreach hstat, nudge_eq], hwrote, hchan⟩
  case downNot =>
    intro h
    obtain ⟨hwrote, hchan⟩ := wroteChan_modTrain s c (nudged false)
    rw [nudged_refused (h.imp_right (fun h => by simpa [tapFree] using h))] at hchan
    exact ⟨_, by rw [exec_nudgeDown hreach hstat, nudge_eq], hwrote, hchan⟩
  case pattern =>
    intro hbar hbusy
    have hlane := lane_setLane_mismatch (s.chan c).train (selLane (s.chan c).train.sel) 0
    refine ⟨_, by rw [exec_patternGo hreach hstat, patternGo_runs (s := s.keyOff) hbar hbusy], ?_⟩
    have hchan : (({ s.keyOff.modChan c (patterned s.keyOff.free) with free := s.keyOff.free + 1 } : State).status .ok).chan c
        = patterned s.free (s.chan c) := chan_modChan_same s.keyOff c _
    refine ⟨wroteChan_status (u := { s with free := s.free + 1 }) ⟨rfl, rfl, fun k hk => chan_modChan_other s c k _ hk⟩, ?_, ?_, ?_⟩
    · rw [hchan]; rfl
    · rw [hchan]; exact hlane
    · rw [hchan]; exact patterned_rows s.free (s.chan c)
  case patternNot =>
    intro h
    refine ⟨_, by rw [exec_patternGo hreach hstat, patternGo_refused (s := s.keyOff) h], wroteChan_modTrain s c _⟩
  case whole =>
    intro hp hoff
    refine ⟨_, exec_hardwareSweep_whole s c bad hp hoff, onlyChan_modTrain s c _, by rw [chan_modTrain]; rfl, fun hnamed => ?_, fun k _ hno => ?_⟩
    · obtain ⟨hl, hone, hok⟩ := hnamed
      exact (congrArg (TrainSt.lane · l.lane) (modTrain_train s c _)).trans (lane_sweptWhole_named hl hone hok)
    · exact (congrArg (TrainSt.lane · k) (modTrain_train s c _)).trans (lane_sweptWhole_clean hno)
  case tsv =>
    intro hp hoff
    refine ⟨_, exec_hardwareSweep_tsv s c bad hp hoff, onlyChan_modTrain s c _, by rw [chan_modTrain]; rfl, fun hnamed htsv => ?_, fun k hk => ?_⟩
    · obtain ⟨hl, hone, hok⟩ := hnamed
      exact (congrArg (TrainSt.lane · l.lane) (modTrain_train s c _)).trans (lane_sweptTsv_named hl hone hok htsv)
    · exact (congrArg (TrainSt.lane · k) (modTrain_train s c _)).trans (lane_sweptTsv_bond hk)
  case bond =>
    intro hp hready
    refine ⟨_, exec_hardwareSweep_bond s c bad hp hready, onlyChan_modTrain s c _, by rw [chan_modTrain]; rfl, fun hnamed hbond => ?_,
      fun k _ hbond hno => ?_⟩
    · obtain ⟨hl, hone, hok⟩ := hnamed
      exact (congrArg (TrainSt.lane · l.lane) (modTrain_train s c _)).trans (lane_sweptBond_named hl hone hok hbond)
    · exact (congrArg (TrainSt.lane · k) (modTrain_train s c _)).trans (lane_sweptBond_clean hno hbond)
  case notDone => intro hp; rw [exec_sweepDone, if_pos hp]
  case steer =>
    intro hp hoff hbond ha hb
    have hend : sweepEnd s c = s.modTrain c sweepEnded := if_neg (by simp [hoff])
    have hover : (s.chan c).train.steer.tsvOver = false := decide_eq_false (by omega)
    have hbad : ((sweepEnd s c).chan c).badSlices = [] := by
      rw [Channel.badSlices, sweepEnd_train]
      show List.foldl _ [] (s.chan c).train.failedBond = []
      rw [hbond]
      rfl
    have hfine : (((sweepEnd s c).chan c).train.tsvOver || decide (((sweepEnd s c).chan c).badSlices ≠ [])) = false := by
      rw [sweepEnd_train, hbad]
      exact (Bool.or_false _).trans hover
    refine ⟨sweepEnd s c, by rw [exec_sweepDone, if_neg (by simp [hp]), if_neg (Bool.not_eq_true _ ▸ hfine)], ?_, ?_, hover, ?_⟩
    · rw [hend]; exact onlyChan_modTrain s c _
    · rw [hend]; exact chan_modTrain s c _
    · exact congrArg₂ (· ++ ·) (List.take_of_length_le ha) (List.take_of_length_le hb)
  case fromOff =>
    intro hp hoff
    obtain ⟨hon, hacc, -⟩ := channelOn_chan ((s.modTrain c sweepEnded).modChan c Channel.accept) c
    have hend : sweepEnd s c = ((s.modTrain c sweepEnded).modChan c Channel.accept).channelOn c := if_pos hoff
    have haccept : ((sweepEnd s c).chan c).pwr.accepting = true := by
      rw [hend, hacc, chan_modChan_same, accept_eq]
    refine ⟨_, by rw [exec_sweepDone, if_neg (by simp [hp])], ?_⟩
    split
    · rw [(goOffline_repairSlices (sweepEnd s c) c).1, sweepEnd_train]
      exact ⟨hend ▸ hon, haccept, rfl⟩
    · rw [sweepEnd_train]
      exact ⟨hend ▸ hon, haccept, rfl⟩
  case offline =>
    intro hp hmany
    obtain ⟨hchan, halert⟩ := goOffline_repairSlices (sweepEnd s c) c
    have hover : ((sweepEnd s c).chan c).train.tsvOver = true := by
      rw [sweepEnd_train]
      exact decide_eq_true (Or.inl hmany)
    exact ⟨_, by rw [exec_sweepDone, if_neg (by simp [hp]), if_pos (by simp [hover])], by rw [hchan], halert⟩
  case run =>
    intro hpat hbar hpend
    have hgo : ¬ (!(s.chan c).train.patterning || s.port.strict || (s.chan c).selLeased || (s.chan c).selPending) = true := by
      simpa [hpat, hpend] using hbar
    obtain ⟨honly, hchan⟩ := mismatches_chan (s.modTrain c (fun t => { t with patterning := false })) c n
    rw [chan_modTrain] at hchan
    refine ⟨_, by rw [exec_patternRunDone, if_neg hgo], onlyChan_trans (onlyChan_modTrain s c _) honly, ?_, ?_⟩
    · rw [hchan]; rfl
    · rw [hchan]; exact lane_setLane_mismatch _ _ _
  case runNot =>
    intro h
    rw [exec_patternRunDone, if_pos]
    rcases h with h | (h | h) | h <;> simp [h]

end Sys2Proof.BankMemory
end

section
namespace Sys2Proof.BankMemory
open Sys2Proof Sys2Proof.Machine

/-! ## Bank service (02 R41; 12 R325, R327) -/

/-- A host READ that waits at bank 0 of channel 0 for block 0. -/
def waitingRead : BankReq := ⟨7, 0, 0, false, [], 0, 0, false, false, false⟩

/-- The open row of bank 0 of channel 0 serves that READ, whose response its lane group still owes. -/
def readAtOpenRow : State := { State.reset with
  chans := [(0, { Channel.zero with banks := [(0, { BankSt.zero with openRow := some 0, queue := [waitingRead] })] })]
  link := { LinkSt.zero with groups := [(0, { LaneGroup.zero with out := [⟨7, 0, 9, 0, some 0, some 0, none, [], 0, [], false, false, false⟩] })] } }

/-- The access meets a garbled block: the request goes to the retries, and the outstanding READ is marked as delayed by them (12 R327). -/
theorem readAtOpenRow_garbled_delays :
    ran (exec (.bankOperation 0 0 14 true) readAtOpenRow) fun t => ((t.group 0).out.map OutReq.delayed) = [true] :=
  ⟨_, rfl, by decide⟩

/-- Refutes O34: a block that goes to the retries does not leave the link as it stood, for the reads outstanding at its bank may from then on be
carried past their last moment (12 R327). `readAtOpenRow` is such a state, with the beat garbled. -/
theorem not_bankService : ¬ Obligations.BankService := by
  intro h
  obtain ⟨hserve, -⟩ := h readAtOpenRow 0 0 14 waitingRead true
  obtain ⟨-, -, -, hretry, -⟩ := hserve rfl rfl rfl (Or.inr rfl)
  obtain ⟨t, ht, -, -, -, hlink⟩ := hretry ⟨rfl, by decide, by decide, by decide⟩ (Or.inl rfl) rfl (Or.inl rfl)
  obtain ⟨u, hu, hdelayed⟩ := readAtOpenRow_garbled_delays
  obtain rfl : u = t := Host.Outcome.next.inj (hu.symm.trans ht)
  have hsame : u.group 0 = readAtOpenRow.group 0 := by rw [State.group, hlink]; rfl
  rw [hsame] at hdelayed
  exact absurd hdelayed (by decide)

end Sys2Proof.BankMemory
end

section
/-! SUPPORT. Where the bytes of a flit lie: on the lanes, in the codewords, and back (03 R81). -/

namespace Sys2Proof.PreolmondLink
open Sys2Proof Sys2Proof.Machine

/-- Entry `k` of a list made index by index. -/
theorem getD_map_upFrom {α : Type} (f : Nat → α) (n k : Nat) (d : α) (h : k < n) : ((upFrom 0 n).map f).getD k d = f k := by
  simp [List.getD_eq_getElem?_getD, upFrom_getElem? 0 n k h]

theorem lane_lanesOf (flit : List Byte) (l : Nat) (hl : l < 8) :
    (lanesOf flit).getD l [] = (upFrom 0 37).map (fun k => flit.getD (8 * k + l) 0) := getD_map_upFrom _ 8 l [] hl

/-- Byte `k` of lane `l` is flit byte 8k + l. -/
theorem byte_lanesOf (flit : List Byte) (l k : Nat) (hl : l < 8) (hk : k < 37) :
    ((lanesOf flit).getD l []).getD k 0 = flit.getD (8 * k + l) 0 := by
  rw [lane_lanesOf flit l hl, getD_map_upFrom _ 37 k 0 hk]

/-- Byte `k` of codeword `c` is flit byte 2k + c. -/
theorem byte_codeword (flit : List Byte) (c k : Nat) (hk : k < 148) : (codeword flit c).getD k 0 = flit.getD (2 * k + c) 0 :=
  getD_map_upFrom _ 148 k 0 hk

/-- Flit byte `i` as its lane carries it. -/
theorem byte_on_lane (flit : List Byte) (i : Nat) (hi : i < 296) : ((lanesOf flit).getD (i % 8) []).getD (i / 8) 0 = flit.getD i 0 := by
  rw [byte_lanesOf flit _ _ (by omega) (by omega), Nat.div_add_mod]

/-- The bytes of a flit come back from its lanes. -/
theorem flitOf_lanesOf (flit : List Byte) (h : flit.length = 296) : flitOf (lanesOf flit) = flit := by
  have hlen : (flitOf (lanesOf flit)).length = flit.length := by simp [flitOf, h]
  refine List.ext_getElem hlen fun i hi hi' => ?_
  have hbyte : (flitOf (lanesOf flit)).getD i 0 = flit.getD i 0 :=
    (getD_map_upFrom _ 296 i 0 (h ▸ hi')).trans (byte_on_lane flit i (h ▸ hi'))
  rwa [List.getD_eq_getElem _ _ hi, List.getD_eq_getElem _ _ hi'] at hbyte

/-- Settles O60: lane and codeword of a byte follow from its index in the flit. -/
theorem flitLayout : Obligations.FlitLayout := by
  intro flit hlen
  refine ⟨by simp [lanesOf], fun l hl => ?_, byte_on_lane flit, flitOf_lanesOf flit hlen, fun i hi => ?_, fun l k hl hk => ?_⟩
  · obtain ⟨j, -, rfl⟩ := List.mem_map.mp hl
    simp
  · rw [byte_codeword flit _ _ (by omega), Nat.div_add_mod]
  · rw [byte_lanesOf flit l k hl hk, byte_codeword flit _ _ (by omega)]
    congr 1
    omega

end Sys2Proof.PreolmondLink
end

section
/-! SUPPORT. Frames of steps at one lane group, and what changes of the groups in turn leave. -/

namespace Sys2Proof.PreolmondLink
open Sys2Proof Sys2Proof.Machine

/-! ## Changes of one group -/

@[simp] theorem group_modGroup_same (s : State) (g : Nat) (f : LaneGroup → LaneGroup) : (s.modGroup g f).group g = f (s.group g) := by
  rw [group_modGroup, if_pos rfl]

theorem group_modGroup_other (s : State) (g k : Nat) (f : LaneGroup → LaneGroup) (h : k ≠ g) : (s.modGroup g f).group k = s.group k := by
  rw [group_modGroup, if_neg h]

/-- What a change of a group keeps of it stands in every group. -/
theorem group_modGroup_keeps {α : Type} (part : LaneGroup → α) {f : LaneGroup → LaneGroup} {s : State} {g k : Nat} (hf : ∀ x, part (f x) = part x) :
    part ((s.modGroup g f).group k) = part (s.group k) := by
  rw [group_modGroup]
  split
  · next h => rw [hf, h]
  · rfl

theorem onlyGroup_modGroup (s : State) (g : Nat) (f : LaneGroup → LaneGroup) : onlyGroup s (s.modGroup g f) g :=
  ⟨rfl, rfl, rfl, fun k hk => group_modGroup_other s g k f hk⟩

theorem onlyGroup_trans {s t u : State} {g : Nat} (hst : onlyGroup s t g) (htu : onlyGroup t u g) : onlyGroup s u g := by
  obtain ⟨hs, hsa, hsl, hsk⟩ := hst
  obtain ⟨ht, hta, htl, htk⟩ := htu
  exact ⟨by rw [ht, hs], BankMemory.onlyAlerts_trans hsa hta, by rw [htl, hsl], fun k hk => (htk k hk).trans (hsk k hk)⟩

/-! ## Groups changed in turn -/

/-- The groups of a list changed in turn: the rest of the machine stands. -/
theorem foldl_modGroup_only (f : LaneGroup → LaneGroup) (l : List Nat) (s : State) :
    l.foldl (fun s g => s.modGroup g f) s = { s with link := { s.link with groups := (l.foldl (fun s g => s.modGroup g f) s).link.groups } } := by
  induction l generalizing s with
  | nil => rfl
  | cons g l ih => rw [List.foldl_cons, ih]; rfl

/-- A change that does nothing more the second time is found in each group of the list. -/
theorem group_foldl_modGroup {f : LaneGroup → LaneGroup} {l : List Nat} {s : State} {k : Nat} (hf : ∀ x, f (f x) = f x) :
    (l.foldl (fun s g => s.modGroup g f) s).group k = if k ∈ l then f (s.group k) else s.group k := by
  induction l generalizing s with
  | nil => rfl
  | cons g l ih =>
    rw [List.foldl_cons, ih, group_modGroup]
    by_cases hg : k = g <;> by_cases hl : k ∈ l <;> simp [hg, hl, hf]

theorem group_foldl_modGroup_keeps {α : Type} (part : LaneGroup → α) {f : LaneGroup → LaneGroup} {l : List Nat} {s : State} {k : Nat}
    (hf : ∀ x, part (f x) = part x) : part ((l.foldl (fun s g => s.modGroup g f) s).group k) = part (s.group k) := by
  induction l generalizing s with
  | nil => rfl
  | cons g l ih => rw [List.foldl_cons, ih, group_modGroup_keeps part hf]

/-- Which logical groups a physical group carries rests on its two flags alone. -/
theorem carries_congr {s t : State} {p : Nat} (hc : (t.group p).carried = (s.group p).carried) (hs : (t.group p).shared = (s.group p).shared) :
    t.carries p = s.carries p := by
  rw [State.carries, State.carries, hc, hs]

end Sys2Proof.PreolmondLink
end

section
/-! SUPPORT. Responses and upstream flits (03 R88 to R90, R103; 04 R126, R127). -/

namespace Sys2Proof.PreolmondLink
open Sys2Proof Sys2Proof.Machine

/-! ## A flit leaves (R88, R90) -/

/-- An upstream flit leaves of every group what it neither is made of nor uses up. -/
theorem sendUp_keeps {α : Type} (part : LaneGroup → α) {s : State} {g t : Nat} {flit : List Byte} {k : Nat}
    (hline : ∀ x a b, part { x with scrUp := a, upFlit := b } = part x) (hused : ∀ x a b, part { x with seqUp := a, placed := b } = part x) :
    part ((s.sendUp g t flit).group k) = part (s.group k) := by
  rw [State.sendUp, group_modGroup_keeps part, group_modGroup_keeps part]
  · exact fun x => hline x _ _
  · exact fun x => hused x _ _

/-- The generators and the line of the physical group that sends. -/
theorem sendUp_line (s : State) (g t : Nat) (flit : List Byte) :
    let out := scrambleAll (lanesOf flit) (s.group (s.phys g)).scrUp
    ((s.sendUp g t flit).group (s.phys g)).scrUp = out.map (·.2) ∧ ((s.sendUp g t flit).group (s.phys g)).upFlit = flitOf (out.map (·.1)) := by
  constructor
  · rw [State.sendUp, group_modGroup_keeps (·.scrUp), group_modGroup_same]
    exact fun _ => rfl
  · rw [State.sendUp, group_modGroup_keeps (·.upFlit), group_modGroup_same]
    exact fun _ => rfl

/-- The number and the responses of the logical group whose flit leaves. -/
theorem sendUp_used (s : State) (g t : Nat) (flit : List Byte) :
    ((s.sendUp g t flit).group g).seqUp = (s.group g).seqUp + 1
      ∧ ((s.sendUp g t flit).group g).placed = (s.group g).placed.filter (fun q => decide (q.t ≠ t)) := by
  simp only [State.sendUp, group_modGroup_same]
  constructor
  · rw [group_modGroup_keeps (·.seqUp)]
    exact fun _ => rfl
  · rw [group_modGroup_keeps (·.placed)]
    exact fun _ => rfl

/-! ## Entry to STANDBY (R103) -/

theorem enterStandby_only (s : State) (p : Nat) :
    s.enterStandby p = { s with link := { s.link with groups := (s.enterStandby p).link.groups } } := by
  rw [State.enterStandby, foldl_modGroup_only]; rfl

/-- The physical group falls silent, and the groups it carries drop their echoes. -/
theorem enterStandby_group (s : State) (p : Nat) :
    ((s.enterStandby p).group p).state = .standby ∧ ((s.enterStandby p).group p).upFlit = []
      ∧ ∀ l ∈ s.carries p, ((s.enterStandby p).group l).echoes = [] := by
  refine ⟨?_, ?_, fun l hl => ?_⟩
  · rw [State.enterStandby, group_foldl_modGroup_keeps (·.state), group_modGroup_same]
    exact fun _ => rfl
  · rw [State.enterStandby, group_foldl_modGroup_keeps (·.upFlit), group_modGroup_same]
    exact fun _ => rfl
  · rw [State.enterStandby, group_foldl_modGroup, if_pos hl]
    exact fun _ => rfl

/-- STANDBY leaves of every group what is neither its state, its line nor its echoes. -/
theorem enterStandby_keeps {α : Type} (part : LaneGroup → α) {s : State} {p k : Nat} (hidle : ∀ x a b, part { x with state := a, upFlit := b } = part x)
    (hecho : ∀ x a, part { x with echoes := a } = part x) : part ((s.enterStandby p).group k) = part (s.group k) := by
  rw [State.enterStandby, group_foldl_modGroup_keeps part, group_modGroup_keeps part]
  · exact fun x => hidle x _ _
  · exact fun x => hecho x _

/-! ## Echoes (R90) -/

/-- The state after the flit that echoes record `e`, before STANDBY is entered. -/
def echoed (s : State) (g t : Nat) (flit : List Byte) (e : EchoRec) : State :=
  (s.sendUp g t flit).modGroup g (fun x => { x with echoes := x.echoes.filter (fun q => decide (q.t ≠ e.t)) })

/-- What the flit that echoes `e` says of standby: 1 granted, 2 not, 0 not asked for. -/
def standbyKind (s : State) (g t : Nat) (e : EchoRec) : Nat := if e.kind = 1 then (if s.mayStandby (s.phys g) t then 1 else 2) else 0

/-- The flit at `t` that echoes `e`. -/
def echoFlit (s : State) (g t : Nat) (e : EchoRec) : List Byte :=
  flitBytes (upHeader (s.group g).seqUp.toNat g (standbyKind s g t e) e.seq.toNat (s.group (s.phys g)).shared)
    (upUnits e.fields ((s.group g).placed.filter (fun q => decide (q.t = t))))

theorem exec_echo_due {s : State} {g : Group} {t : Nat} {e : EchoRec} (hup : s.linkUp g = true)
    (he : (s.group g).echoes.find? (fun e => decide (e.t + s.echoFlits g * 555 = t)) = some e) :
    exec (.echo g t) s = .next (if standbyKind s g t e = 1 then (echoed s g t (echoFlit s g t e) e).enterStandby (s.phys g)
      else echoed s g t (echoFlit s g t e) e) := by
  show execEcho g t s = _
  have hdue : (s.group g).echoes.find? (fun e => decide (e.t + s.echoFlits g * flitT = t)) = some e := he
  simp only [execEcho, hup, State.echo, hdue]
  rfl

theorem exec_echo_none {s : State} {g : Group} {t : Nat} (hup : s.linkUp g = true)
    (he : (s.group g).echoes.find? (fun e => decide (e.t + s.echoFlits g * 555 = t)) = none) :
    ∃ free, exec (.echo g t) s = .next ((s.draw 1).2.sendUp g t (flitBytes (upHeader (s.group g).seqUp.toNat g 0 free (s.group (s.phys g)).shared)
      (upUnits [] ((s.group g).placed.filter (fun q => decide (q.t = t)))))) := by
  refine ⟨((s.draw 1).1.headD 0).toNat, ?_⟩
  show execEcho g t s = _
  have hnone : (s.group g).echoes.find? (fun e => decide (e.t + s.echoFlits g * flitT = t)) = none := he
  simp only [execEcho, hup, State.echo, hnone]
  rfl

/-- A flit that echoes: its line, what it uses up, and the record it answers. -/
theorem echoed_group (s : State) (g t : Nat) (flit : List Byte) (e : EchoRec) :
    let out := scrambleAll (lanesOf flit) (s.group (s.phys g)).scrUp
    let v := echoed s g t flit e
    (v.group (s.phys g)).scrUp = out.map (·.2) ∧ (v.group (s.phys g)).upFlit = flitOf (out.map (·.1)) ∧ (v.group (s.phys g)).state = (s.group (s.phys g)).state
      ∧ (v.group g).seqUp = (s.group g).seqUp + 1 ∧ (v.group g).placed = (s.group g).placed.filter (fun q => decide (q.t ≠ t))
      ∧ (v.group g).echoes = (s.group g).echoes.filter (fun q => decide (q.t ≠ e.t)) := by
  obtain ⟨hscr, hflit⟩ := sendUp_line s g t flit
  obtain ⟨hseq, hplaced⟩ := sendUp_used s g t flit
  have hstate : ((s.sendUp g t flit).group (s.phys g)).state = (s.group (s.phys g)).state := sendUp_keeps (·.state) (fun _ _ _ => rfl) (fun _ _ _ => rfl)
  have hechoes : ((s.sendUp g t flit).group g).echoes = (s.group g).echoes := sendUp_keeps (·.echoes) (fun _ _ _ => rfl) (fun _ _ _ => rfl)
  simp only [echoed, group_modGroup_same, hseq, hplaced, hechoes]
  refine ⟨?_, ?_, ?_, trivial, trivial, trivial⟩
  · rw [group_modGroup_keeps (·.scrUp), hscr]
    exact fun _ => rfl
  · rw [group_modGroup_keeps (·.upFlit), hflit]
    exact fun _ => rfl
  · rw [group_modGroup_keeps (·.state), hstate]
    exact fun _ => rfl

theorem carries_echoed (s : State) (g t : Nat) (flit : List Byte) (e : EchoRec) (p : Nat) : (echoed s g t flit e).carries p = s.carries p := by
  apply carries_congr
  · rw [echoed, group_modGroup_keeps (·.carried), sendUp_keeps (·.carried)]
    all_goals intros; rfl
  · rw [echoed, group_modGroup_keeps (·.shared), sendUp_keeps (·.shared)]
    all_goals intros; rfl

/-! ## Responses (R126, R127) and requests for standby (R103) -/

theorem exec_readResponse_due {s : State} {g : Group} {t : Nat} {pos : Fin 3} {o : OutReq} (hup : s.linkUp g = true)
    (hfree : (s.group g).placed.any (fun q => decide (q.t = t ∧ q.pos = pos)) = false) (ho : (s.group g).out.find? (s.mayRespond g t pos.val) = some o) :
    exec (.readResponse g t pos) s
      = .next (s.modGroup g (fun x => { x with out := x.out.filter (fun q => decide (q.id ≠ o.id)), placed := x.placed ++ [o.place t pos] })) := by
  show execReadResponse g t pos s = _
  simp only [execReadResponse, hup, hfree, ho]
  rfl

theorem exec_readResponse_none {s : State} {g : Group} {t : Nat} {pos : Fin 3} (ho : (s.group g).out.find? (s.mayRespond g t pos.val) = none) :
    exec (.readResponse g t pos) s = .next s := by
  show execReadResponse g t pos s = _
  simp only [execReadResponse, ho]
  exact ite_self _

theorem exec_standbyReq {s : State} {g : Group} {t : Nat} (hup : s.linkUp g = true) :
    exec (.standbyReq g t) s = .next (s.modGroup g (fun x => { x with
      echoes := x.echoes.filter (fun q => decide (q.t ≠ t)) ++ [⟨t, BitVec.ofNat 8 (t / 555), [], 1⟩], seqDown := BitVec.ofNat 8 (t / 555) + 1 })) := if_pos hup

/-- Settles O38: the response found is placed; the flit is sent with the fields of the record due, and STANDBY follows where it grants it. -/
theorem responsesAndEchoes : Obligations.ResponsesAndEchoes := by
  intro s g t pos o e x p kind placed flit hup
  refine ⟨?respond, exec_readResponse_none, ?due, ?none, ?standby⟩
  case respond =>
    intro hfree hfind
    exact ⟨_, exec_readResponse_due hup hfree hfind, onlyGroup_modGroup s g _, group_modGroup_same s g _⟩
  case due =>
    intro hfind
    obtain ⟨hscr, hflit, hstate, hseq, hplaced, hechoes⟩ := echoed_group s g t (echoFlit s g t e) e
    rw [exec_echo_due hup hfind]
    change ran (.next (if kind = 1 then (echoed s g t (echoFlit s g t e) e).enterStandby p else echoed s g t (echoFlit s g t e) e)) _
    by_cases hk : kind = 1
    · obtain ⟨hidle, hsilent, hdrop⟩ := enterStandby_group (echoed s g t (echoFlit s g t e) e) p
      rw [if_pos hk]
      refine ⟨_, rfl, ?_, ?_, ?_, ?_, ?_, fun h => absurd hk h, fun _ => ⟨hidle, hsilent, carries_echoed s g t (echoFlit s g t e) e p ▸ hdrop⟩⟩
      · exact (enterStandby_keeps (·.scrUp) (fun _ _ _ => rfl) (fun _ _ => rfl)).trans hscr
      · exact (enterStandby_keeps (·.seqUp) (fun _ _ _ => rfl) (fun _ _ => rfl)).trans hseq
      · exact (enterStandby_keeps (·.placed) (fun _ _ _ => rfl) (fun _ _ => rfl)).trans hplaced
      · rw [enterStandby_only]; rfl
      · rw [enterStandby_only]; rfl
    · rw [if_neg hk]
      exact ⟨_, rfl, hscr, hseq, hplaced, rfl, rfl, fun _ => ⟨hflit, hstate, hechoes⟩, fun h => absurd h hk⟩
  case none =>
    intro hfind
    obtain ⟨free, hexec⟩ := exec_echo_none hup hfind
    obtain ⟨hseq, hplaced⟩ := sendUp_used (s.draw 1).2 g t (flitBytes (upHeader x.seqUp.toNat g 0 free (s.group p).shared) (upUnits [] placed))
    exact ⟨_, hexec, free, (sendUp_line (s.draw 1).2 g t _).2, hseq, hplaced, sendUp_keeps (·.echoes) (fun _ _ _ => rfl) (fun _ _ _ => rfl), rfl, rfl⟩
  case standby => exact ⟨_, exec_standbyReq hup, onlyGroup_modGroup s g _, group_modGroup_same s g _⟩

end Sys2Proof.PreolmondLink
end

section
/-! SUPPORT. Downstream flits (03 R83, R84, R87, R92): the record a flit opens, its descriptors that are idle, and what a lost one leaves. -/

namespace Sys2Proof.PreolmondLink
open Sys2Proof Sys2Proof.Machine

/-! ## Alerts (12 R338) -/

@[simp] theorem noteSat_group (s : State) (old limit c k : Nat) : (s.noteSat old limit c).group k = s.group k := by
  rw [noteSat_onlyAlerts]; rfl

@[simp] theorem noteSat_chans (s : State) (old limit c : Nat) : (s.noteSat old limit c).chans = s.chans := by
  rw [noteSat_onlyAlerts]

@[simp] theorem noteSat_port (s : State) (old limit c : Nat) : (s.noteSat old limit c).port = s.port := by
  rw [noteSat_onlyAlerts]

theorem alert_sets (s : State) (bit : Nat) (e : ErrRec) (h : bit < 13) : (s.alert bit e).mg.alert.getLsbD bit = true := by
  simp only [State.alert_mg_alert, BitVec.getLsbD_or, BitVec.getLsbD_ofNat, Nat.testBit_two_pow_self, h, decide_true, Bool.true_and, Bool.or_true, Bool.true_or]

theorem noteSat_keeps_alert {s : State} {old limit c bit : Nat} (h : s.mg.alert.getLsbD bit = true) :
    (s.noteSat old limit c).mg.alert.getLsbD bit = true := by
  rcases noteSat_cases s old limit c with hs | hs <;> rw [hs]
  · exact h
  · simp [h]

/-! ## A flit received whole (R83, R87) -/

/-- The number of a flit is its first byte. -/
theorem header_number (bytes : List Byte) : BitVec.ofNat 8 (bits (leAt bytes 0 4) 7 0) = bytes.headD 0 := by
  cases bytes with
  | nil => decide
  | cons b bs =>
    apply BitVec.eq_of_toNat_eq
    have hb := b.isLt
    simp only [bits, leAt, slice, List.drop_zero, List.take_succ_cons, List.cons_append, leNat, BitVec.toNat_ofNat, List.headD_cons]
    omega

/-- The state in which a flit received whole is parsed: its run of losses ended, its record opened, the turn passed. -/
def opened (s : State) (p t : Nat) (bytes : List Byte) : State :=
  ((s.modGroup p (fun x => { x with lostRun := 0 })).putEcho (s.flitTurn p) ⟨t, bytes.headD 0, [], leAt bytes 0 4 / 2 ^ 12 % 4⟩).flitPassed p

theorem flitTurn_lostRun (s : State) (p n : Nat) : (s.modGroup p (fun x => { x with lostRun := n })).flitTurn p = s.flitTurn p := by
  simp [State.flitTurn]

/-- A flit without repairs opens its record, and is parsed unless it asks for standby. -/
theorem flitIn_good {s : State} {p t : Nat} {flit bytes : List Byte} (h : receive flit = .good bytes []) :
    s.flitIn p t flit = if leAt bytes 0 4 / 2 ^ 12 % 4 = 1 then opened s p t bytes else (opened s p t bytes).parseFlit (s.flitTurn p) t bytes := by
  have hfixed : s.noteFixed p [] = s := if_pos rfl
  simp only [State.flitIn, h, hfixed, flitTurn_lostRun, header_number]
  rfl

theorem opened_group (s : State) (p t : Nat) (bytes : List Byte) :
    ((opened s p t bytes).group p).scrDown = (s.group p).scrDown ∧ ((opened s p t bytes).group p).lostRun = 0 := by
  simp only [opened, State.flitPassed, State.putEcho, group_modGroup_same]
  constructor
  · rw [group_modGroup_keeps (·.scrDown), group_modGroup_same]
    exact fun _ => rfl
  · rw [group_modGroup_keeps (·.lostRun), group_modGroup_same]
    exact fun _ => rfl

theorem flitTurn_alone {s : State} {p : Nat} (h : (s.group p).shared = false) : s.flitTurn p = p := by
  simp [State.flitTurn, h]

/-- On a group that is not shared the record is the group's own. -/
theorem opened_echoes {s : State} {p t : Nat} {bytes : List Byte} (h : (s.group p).shared = false) :
    ((opened s p t bytes).group p).echoes
      = (s.group p).echoes.filter (fun q => decide (q.t ≠ t)) ++ [⟨t, bytes.headD 0, [], leAt bytes 0 4 / 2 ^ 12 % 4⟩] := by
  simp [opened, State.flitPassed, State.putEcho, flitTurn_alone h]

/-! ## Idle descriptors (R86) -/

/-- Fields are added to the last record of a list, the only one of its instant. -/
theorem echoAdd_last {es : List EchoRec} {t k : Nat} {q : Byte} {fs gs : List (BitVec 4)} (h : ∀ e ∈ es, e.t ≠ t) :
    echoAdd (es ++ [⟨t, q, fs, k⟩]) t gs = es ++ [⟨t, q, (fs ++ gs).take 16, k⟩] := by
  have hrest : es.map (fun e => if e.t = t then { e with fields := (e.fields ++ gs).take 16 } else e) = es :=
    (List.map_congr_left fun e he => if_neg (h e he)).trans (List.map_id es)
  rw [echoAdd, if_pos (by simp), List.map_append, hrest]
  simp

/-- The parser stands at the unit that follows the fields of the last record. -/
theorem unitAt_last {s : State} {g t k : Nat} {es : List EchoRec} {q : Byte} {fs : List (BitVec 4)} (h : ∀ e ∈ es, e.t ≠ t)
    (hs : (s.group g).echoes = es ++ [⟨t, q, fs, k⟩]) : s.unitAt g t = fs.length := by
  have hrest : es.find? (fun e => decide (e.t = t)) = none := List.find?_eq_none.mpr fun e he => by simpa using h e he
  simp [State.unitAt, hs, List.find?_append, hrest]

/-- A unit of type 0 is an IDLE descriptor. -/
theorem parseUnit_idle {s : State} {g t : Nat} {bytes : List Byte} (hu : s.unitAt g t < 16) (h : leNat (unitBytes bytes (s.unitAt g t)) % 16 = 0) :
    s.parseUnit g t bytes = s.addEcho g t [0] := by
  have hbits : bits (leNat (unitBytes bytes (s.unitAt g t))) 3 0 = 0 := by simpa [bits] using h
  simp only [State.parseUnit, if_neg (Nat.not_le.mpr hu), hbits]

/-- `n` idle units in turn add `n` fields of zero to the record of their flit. -/
theorem parse_idles {g t k : Nat} {q : Byte} {bytes : List Byte} {es : List EchoRec} (hes : ∀ e ∈ es, e.t ≠ t)
    (hidle : ∀ u, u < 16 → leNat (unitBytes bytes u) % 16 = 0) (n a j : Nat) (s : State) (hj : j + n ≤ 16)
    (hs : (s.group g).echoes = es ++ [⟨t, q, List.replicate j 0, k⟩]) :
    let v := (upFrom a n).foldl (fun s _ => s.parseUnit g t bytes) s
    v.chans = s.chans ∧ v.port = s.port ∧ v.group g = { s.group g with echoes := es ++ [⟨t, q, List.replicate (j + n) 0, k⟩] } := by
  induction n generalizing a j s with
  | zero => exact ⟨rfl, rfl, by rw [Nat.add_zero, ← hs]; rfl⟩
  | succ n ih =>
    have hunit : s.unitAt g t = j := by rw [unitAt_last hes hs, List.length_replicate]
    have hstep : s.parseUnit g t bytes = s.addEcho g t [0] := parseUnit_idle (by omega) (hidle _ (by omega))
    have hfields : (List.replicate j (0 : BitVec 4) ++ [0]).take 16 = List.replicate (j + 1) 0 := by
      rw [← List.replicate_succ', List.take_replicate, Nat.min_eq_right (by omega)]
    have hgroup : (s.addEcho g t [0]).group g = { s.group g with echoes := es ++ [⟨t, q, List.replicate (j + 1) 0, k⟩] } := by
      rw [State.addEcho, group_modGroup_same, hs, echoAdd_last hes, hfields]
    obtain ⟨hchans, hport, hv⟩ := ih (a + 1) (j + 1) (s.addEcho g t [0]) (by omega) (by rw [hgroup])
    rw [upFrom, List.foldl_cons, hstep]
    exact ⟨hchans, hport, by rw [hv, hgroup, Nat.add_assoc, Nat.add_comm 1 n]⟩

/-! ## A lost flit (R92, R94) -/

/-- The loss of a flit as its physical group counts it. -/
def lossCounted (s : State) (p : Nat) (crcOnly : Bool) : State :=
  let n := (s.group p).lost
  let s1 := (s.modGroup p (fun x => { x with lost := satInc n 0xFFFF, lostRun := x.lostRun + 1 })).noteSat n 0xFFFF 0
  let s2 := if n < 0xFFFF then s1.alert 4 (plainRec 4 0 p) else s1
  if crcOnly then (s2.modGroup p (fun x => { x with crcOnly := satInc (s.group p).crcOnly 0xFFFF })).noteSat (s.group p).crcOnly 0xFFFF 0 else s2

/-- A lost flit is counted and its record opened with CHECK_FAIL in every field. -/
theorem flitIn_lost {s : State} {p t : Nat} {flit : List Byte} {crcOnly : Bool} (h : receive flit = .lost crcOnly []) :
    s.flitIn p t flit = ((lossCounted s p crcOnly).putEcho ((lossCounted s p crcOnly).flitTurn p)
      ⟨t, ((lossCounted s p crcOnly).group ((lossCounted s p crcOnly).flitTurn p)).seqDown, List.replicate 16 0b1001#4, 0⟩).flitPassed p := by
  have hfixed : s.noteFixed p [] = s := if_pos rfl
  simp only [State.flitIn, h, hfixed]
  rfl

theorem lossCounted_group (s : State) (p : Nat) (crcOnly : Bool) :
    (lossCounted s p crcOnly).group p = { s.group p with
      lost := satInc (s.group p).lost 0xFFFF, lostRun := (s.group p).lostRun + 1
      crcOnly := if crcOnly then satInc (s.group p).crcOnly 0xFFFF else (s.group p).crcOnly } := by
  unfold lossCounted
  cases crcOnly <;> by_cases hn : (s.group p).lost < 0xFFFF <;> simp [hn]

theorem lossCounted_frame (s : State) (p : Nat) (crcOnly : Bool) :
    (lossCounted s p crcOnly).chans = s.chans ∧ (lossCounted s p crcOnly).port = s.port := by
  unfold lossCounted
  cases crcOnly <;> by_cases hn : (s.group p).lost < 0xFFFF <;> simp [hn]

/-- The first 65,535 losses each set the alert bit of a lost flit. -/
theorem lossCounted_alert {s : State} {p : Nat} (crcOnly : Bool) (h : (s.group p).lost < 0xFFFF) :
    (lossCounted s p crcOnly).mg.alert.getLsbD 4 = true := by
  unfold lossCounted
  simp only [if_pos h]
  cases crcOnly with
  | false => exact alert_sets _ 4 _ (by decide)
  | true => exact noteSat_keeps_alert (alert_sets _ 4 _ (by decide))

/-! ## The flits of a group -/

/-- The eight lanes' bytes of a flit period, through their generators. -/
def descrambled (x : LaneGroup) (lanes : List (List Byte)) : List (List Byte × BitVec 31) := scrambleAll ((upFrom 0 8).map (x.laneIn lanes)) x.scrDown

/-- The state once the generators have passed over a flit. -/
def passedOver (s : State) (g : Nat) (lanes : List (List Byte)) : State :=
  s.modGroup g (fun x => { x with scrDown := (descrambled (s.group g) lanes).map (·.2) })

theorem exec_downstreamFlit {s : State} {g : Group} {t : Nat} {lanes : List (List Byte)} (hup : s.physUp g = true) :
    exec (.downstreamFlit g t lanes) s = .next ((passedOver s g lanes).flitIn g t (flitOf ((descrambled (s.group g) lanes).map (·.1)))) := if_pos hup

theorem passedOver_group (s : State) (g : Nat) (lanes : List (List Byte)) :
    (passedOver s g lanes).group g = { s.group g with scrDown := (descrambled (s.group g) lanes).map (·.2) } := group_modGroup_same s g _

/-- Settles O39: a flit received whole opens its record, to which sixteen idle descriptors add their fields; a lost one is counted and its record
opened with CHECK_FAIL. -/
theorem downstreamFlits : Obligations.DownstreamFlits := by
  intro s g t lanes bytes crcOnly x out flit res hup
  have hres : res = .next ((passedOver s g lanes).flitIn g t flit) := exec_downstreamFlit hup
  have hover := passedOver_group s g lanes
  obtain ⟨hscr, hrun⟩ := opened_group (passedOver s g lanes) g t bytes
  rw [hover] at hscr
  refine ⟨fun hgood hkind => ?standby, fun hgood halone hkind hidle => ?idle, fun hlost halone => ?lost⟩
  case standby =>
    rw [hres, flitIn_good hgood, if_pos hkind]
    refine ⟨_, rfl, rfl, rfl, hscr, hrun, fun halone => ?_⟩
    rw [opened_echoes (by rw [hover]; exact halone), hover, hkind]
  case idle =>
    have hshared : ((passedOver s g lanes).group g).shared = false := by rw [hover]; exact halone
    have hechoes := opened_echoes (t := t) (bytes := bytes) hshared
    rw [hkind, hover] at hechoes
    obtain ⟨hchans, hport, hgroup⟩ := parse_idles (by simp) hidle 16 0 0 (opened (passedOver s g lanes) g t bytes) (by decide) hechoes
    rw [hres, flitIn_good hgood, if_neg (by omega), flitTurn_alone hshared]
    exact ⟨_, rfl, hchans, hport, (congrArg LaneGroup.scrDown hgroup).trans hscr, (congrArg LaneGroup.lostRun hgroup).trans hrun, congrArg LaneGroup.echoes hgroup⟩
  case lost =>
    have hcounted := lossCounted_group (passedOver s g lanes) g crcOnly
    obtain ⟨hchans, hport⟩ := lossCounted_frame (passedOver s g lanes) g crcOnly
    rw [hover] at hcounted
    have hturn : (lossCounted (passedOver s g lanes) g crcOnly).flitTurn g = g := flitTurn_alone (by rw [hcounted]; exact halone)
    rw [hres, flitIn_lost hlost, hturn]
    refine ⟨_, rfl, hchans, hport, ?_⟩
    simp only [State.flitPassed, State.putEcho, group_modGroup_same, hcounted]
    refine ⟨rfl, rfl, rfl, fun h => ?_, rfl, rfl⟩
    exact lossCounted_alert (s := passedOver s g lanes) crcOnly (by rw [hover]; exact h)

end Sys2Proof.PreolmondLink
end

section
/-! SUPPORT. Host requests at the port switch (03 R86, R89; 04 R114 to R137): what an echo field, an owner's work and a malformed descriptor leave, and
what each descriptor comes to. -/

namespace Sys2Proof.PreolmondLink
open Sys2Proof Sys2Proof.Machine

/-! ## Echo fields change nothing that a request looks at -/

theorem addEcho_keeps {α : Type} (part : LaneGroup → α) {s : State} {g t k : Nat} {fs : List (BitVec 4)} (h : ∀ x a, part { x with echoes := a } = part x) :
    part ((s.addEcho g t fs).group k) = part (s.group k) := group_modGroup_keeps part fun x => h x _

@[simp] theorem addEcho_out (s : State) (g t k : Nat) (fs : List (BitVec 4)) : ((s.addEcho g t fs).group k).out = (s.group k).out :=
  addEcho_keeps (·.out) fun _ _ => rfl

theorem addEcho_echoes (s : State) (g t : Nat) (fs : List (BitVec 4)) : echoes s (s.addEcho g t fs) g t fs :=
  congrArg LaneGroup.echoes (group_modGroup_same s g _)

@[simp] theorem pairShared_addEcho (s : State) (g t : Nat) (fs : List (BitVec 4)) (c : Nat) : (s.addEcho g t fs).pairShared c = s.pairShared c :=
  addEcho_keeps (fun x => x.shared || x.carried) fun _ _ => rfl

@[simp] theorem chanReads_addEcho (s : State) (g t : Nat) (fs : List (BitVec 4)) (c : Nat) : (s.addEcho g t fs).chanReads c = s.chanReads c := by
  rw [State.chanReads, addEcho_out]; rfl

@[simp] theorem bankReqs_addEcho (s : State) (g t : Nat) (fs : List (BitVec 4)) (c b : Nat) : (s.addEcho g t fs).bankReqs c b = s.bankReqs c b := by
  rw [State.bankReqs, addEcho_out]; rfl

@[simp] theorem spacing_addEcho (s : State) (g t : Nat) (fs : List (BitVec 4)) (c : Nat) : (s.addEcho g t fs).spacing c = s.spacing c := by
  rw [State.spacing, pairShared_addEcho]; rfl

theorem tideCause_addEcho (s : State) (g t : Nat) (fs : List (BitVec 4)) (k n : Nat) (isRead part : Bool) (x : Target) :
    (s.addEcho g t fs).tideCause k n isRead part x = s.tideCause k n isRead part x := by
  simp only [State.tideCause, addEcho_out, chanReads_addEcho, bankReqs_addEcho, spacing_addEcho, pairShared_addEcho]
  rfl

theorem tideWord_addEcho (s : State) (g t : Nat) (fs : List (BitVec 4)) (c : Nat) : (s.addEcho g t fs).tideWord c = s.tideWord c := by
  simp only [State.tideWord, pairShared_addEcho]
  rfl

theorem hbRead_addEcho (s : State) (g t : Nat) (fs : List (BitVec 4)) (n off : Nat) : (s.addEcho g t fs).hbRead n off = s.hbRead n off := by
  simp only [State.hbRead, tideWord_addEcho]
  rfl

theorem lkRead_addEcho (s : State) (g t : Nat) (fs : List (BitVec 4)) (off : Nat) : (s.addEcho g t fs).lkRead off = s.lkRead off := by
  have hgroup : ((s.addEcho g t fs).group (off / 0x40)).read (off % 0x40) = (s.group (off / 0x40)).read (off % 0x40) :=
    addEcho_keeps (·.read (off % 0x40)) fun _ _ => rfl
  rw [State.lkRead, hgroup]
  rfl

theorem mgRead_addEcho (s : State) (g t : Nat) (fs : List (BitVec 4)) (off : Nat) : (s.addEcho g t fs).mgRead off = s.mgRead off := by
  have hdom : ∀ d, (s.addEcho g t fs).dom d = s.dom d := fun d => by cases d <;> rfl
  have hsensor : ∀ i, (s.addEcho g t fs).sensor i = s.sensor i := fun _ => rfl
  have hchan : ∀ c, (s.addEcho g t fs).chan c = s.chan c := fun _ => rfl
  have hmg : (s.addEcho g t fs).mg = s.mg := rfl
  have hfuses : (s.addEcho g t fs).fuses = s.fuses := rfl
  have hmram : (s.addEcho g t fs).mram = s.mram := rfl
  simp only [State.mgRead, hdom, hsensor, hchan, hmg, hfuses, hmram]

/-- No register shows the fields echoed. -/
theorem wordOf_addEcho (s : State) (g t : Nat) (fs : List (BitVec 4)) (n : Nat) (x : Target) : (s.addEcho g t fs).wordOf n x = s.wordOf n x := by
  cases x with
  | port off =>
    have hsc : ∀ o, (s.addEcho g t fs).scRead o = s.scRead o := fun _ => rfl
    simp only [State.wordOf, State.portRead, hbRead_addEcho, lkRead_addEcho, mgRead_addEcho, hsc]
  | data off => rfl
  | chan c off => rfl
  | sync off => rfl
  | hole => rfl

/-- A READ of data finds a hole where its channel is offline. -/
theorem readStatus_data (s : State) (t off : Nat) :
    s.readStatus t (.data off) = if (s.chan (offChan (s.placed off))).offline then some .hole else none := rfl

theorem readStatus_addEcho (s : State) (g t : Nat) (fs : List (BitVec 4)) (n : Nat) (x : Target) :
    (s.addEcho g t fs).readStatus n x = s.readStatus n x := by
  have hblock : (s.addEcho g t fs).blockRead n x = s.blockRead n x := by
    simp only [State.blockRead, wordOf_addEcho]
  have hhole : (s.addEcho g t fs).readHole n x = s.readHole n x := by
    cases x with
    | data off => rfl
    | chan c off => exact congrArg Option.isNone hblock
    | port off => exact congrArg Option.isNone hblock
    | sync off => exact congrArg Option.isNone hblock
    | hole => exact congrArg Option.isNone hblock
  rw [State.readStatus, hhole]
  rfl

/-! ## Work for a channel's owner (R120; 13 R345) -/

theorem stir_channel_only (s : State) (c : Chan) : s.stir (.channel c) = { s with chans := (s.stir (.channel c)).chans } := by
  unfold State.stir
  split <;> rfl

theorem onlyWaits_stir (s : State) (c : Chan) : onlyWaits s (s.stir (.channel c)) := by
  intro k
  unfold State.stir
  split
  · show (s.modChan c _).chan k = _
    by_cases hk : k = c
    · subst hk; simp [State.modDom, State.modPwr]
    · rw [chan_modChan_other s c k _ hk]
      simp [State.modDom, State.modPwr, chan_modChan_other s c k _ hk]
  · rfl

/-- A request counted changes the last request of its channel and the owner's WAIT. -/
theorem noteReq_only (s : State) (t : Nat) (x : Target) :
    s.noteReq t x = { s with chans := (s.noteReq t x).chans, port := { s.port with lastReq := (s.noteReq t x).port.lastReq } } := by
  unfold State.noteReq
  split
  · rw [stir_channel_only]; rfl
  · rfl

theorem onlyWaits_noteReq (s : State) (t : Nat) (x : Target) : onlyWaits s (s.noteReq t x) := by
  unfold State.noteReq
  split
  · exact onlyWaits_stir (s.modPort _) _
  · exact fun _ => rfl

@[simp] theorem noteReq_group (s : State) (t : Nat) (x : Target) (k : Nat) : (s.noteReq t x).group k = s.group k := by
  rw [noteReq_only]; rfl

theorem noteReq_bank (s : State) (t : Nat) (x : Target) (c b : Nat) : ((s.noteReq t x).chan c).bank b = (s.chan c).bank b := by
  rw [onlyWaits_noteReq s t x c]; rfl

theorem bank_modBank_same (s : State) (c b : Nat) (f : BankSt → BankSt) : ((s.modBank c b f).chan c).bank b = f ((s.chan c).bank b) := by
  rw [State.modBank, chan_modChan_same]
  exact (BankMemory.changesBank_modBank (s.chan c) b f).same

/-! ## Malformed descriptors (03 R86, R89) -/

theorem malform_spec (s : State) (g t : Nat) :
    echoes s (s.malform g t) g t (List.replicate 16 0b1100#4) ∧ ((s.malform g t).group (s.phys g)).malformed = satInc (s.group (s.phys g)).malformed 0xFF
      ∧ (s.malform g t).chans = s.chans ∧ (s.malform g t).port = s.port := by
  refine ⟨?_, ?_, rfl, rfl⟩
  · refine (addEcho_echoes _ g t _).trans ?_
    rw [group_modGroup_keeps (·.echoes)]
    · rfl
    · exact fun _ => rfl
  · rw [State.malform, addEcho_keeps (·.malformed), group_modGroup_same]
    exact fun _ _ => rfl

/-! ## Outstanding requests (R121) -/

/-- A request that enters where the flit's field has been echoed is outstanding there, under the port's next number. -/
theorem outReq_enters {u w : State} {g t : Nat} (hg : w.group g = (u.addEcho g t [0]).group g) (hid : w.port.nextId = u.port.nextId) (tag : W16) (x : Target)
    (st : Option Status) (data : List Byte) (check : W32) (covers : List Nat) :
    let v := w.outReq g t tag x st data check covers
    echoes u v g t [0] ∧ outstanding u v g t tag st := by
  have hout : (w.group g).out = (u.group g).out := by rw [hg, addEcho_out]
  refine ⟨?_, ⟨w.port.nextId, t, tag, ((w.group g).out.filter (fun o => o.t = t)).length, w.reqChan x, w.reqBank x, st, data, check, covers, w.fixedLatency g,
    w.atRetries x, w.ownedBy x⟩, ?_, hid, rfl, rfl, rfl, ?_, ?_⟩
  · show ((w.modGroup g _).group g).echoes = _
    rw [group_modGroup_same, hg]
    exact addEcho_echoes u g t [0]
  · show ((w.modGroup g _).group g).out = _
    rw [group_modGroup_same, hout]
  · rw [hout]
  · exact congrArg (· + 1) hid

/-- What has entered stays so while the group and the port's next number stand. -/
theorem entered_of_same {u v w : State} {g t : Nat} {tag : W16} {st : Option Status} (hg : w.group g = v.group g) (hid : w.port.nextId = v.port.nextId)
    (h : echoes u v g t [0] ∧ outstanding u v g t tag st) : echoes u w g t [0] ∧ outstanding u w g t tag st := by
  unfold echoes outstanding
  rw [hg, hid]
  exact h

/-- A request answered without its data, or that waits for nothing at a bank: it is outstanding, and counts for its channel. -/
theorem request_entered (u : State) (g t : Nat) (tag : W16) (x : Target) (st : Option Status) (data : List Byte) (check : W32) (covers : List Nat) :
    let v := ((u.addEcho g t [0]).outReq g t tag x st data check covers).noteReq t x
    echoes u v g t [0] ∧ outstanding u v g t tag st ∧ onlyWaits u v := by
  obtain ⟨he, ho⟩ := entered_of_same (noteReq_group _ t x g) (by rw [noteReq_only])
    (outReq_enters (u := u) (w := u.addEcho g t [0]) (t := t) rfl rfl tag x st data check covers)
  exact ⟨he, ho, onlyWaits_noteReq ((u.addEcho g t [0]).outReq g t tag x st data check covers) t x⟩

/-! ## READ (R115, R125, R130, R133) -/

/-- A descriptor that can be parsed is neither past its flit nor malformed. -/
theorem parses_guards {s : State} {g t units : Nat} {x : Target} {used : Prop} (h : parses s g t x units) (hu : 0 < units) (hused : ¬ used) :
    ¬ 16 ≤ s.unitAt g t ∧ ¬ (used ∨ s.rightGroup g x = false) := by
  obtain ⟨hunit, hright⟩ := h
  exact ⟨by omega, by rintro (h | h); exacts [hused h, by simp [hright] at h]⟩

section
variable {s : State} {g t a : Nat} {tag : W16} {parity : Bool}

theorem hostRead_malformed (h16 : (s.masksAt t).unitAt g t < 16) (h : 3 ≤ (s.masksAt t).ranks g t ∨ (s.masksAt t).rightGroup g (target a) = false) :
    s.hostRead g t tag a parity = (s.masksAt t).malform g t := by
  simp only [State.hostRead, if_neg (Nat.not_le.mpr h16), if_pos h]

theorem hostRead_answered {st : Status} (hp : parses (s.masksAt t) g t (target a) 1) (hr : (s.masksAt t).ranks g t < 3)
    (hst : (s.masksAt t).readStatus t (target a) = some st) :
    s.hostRead g t tag a parity = (((s.masksAt t).addEcho g t [0]).outBad g t tag (target a) st).noteReq t (target a) := by
  obtain ⟨h16, hmal⟩ := parses_guards hp (by decide) (Nat.not_le.mpr hr)
  simp only [State.hostRead, if_neg h16, if_neg hmal, readStatus_addEcho, hst]

theorem hostRead_violation (hp : parses (s.masksAt t) g t (target a) 1) (hr : (s.masksAt t).ranks g t < 3)
    (hst : (s.masksAt t).readStatus t (target a) = none) (hc : (s.masksAt t).tideCause g t true false (target a) ≠ 0) :
    s.hostRead g t tag a parity = (((s.masksAt t).addEcho g t [0]).noteTide (target a) ((s.masksAt t).tideCause g t true false (target a))).outReq g t tag .hole
      (some .violation) zeroBeat zeroCheck [] := by
  obtain ⟨h16, hmal⟩ := parses_guards hp (by decide) (Nat.not_le.mpr hr)
  simp only [State.hostRead, if_neg h16, if_neg hmal, readStatus_addEcho, hst, tideCause_addEcho, if_pos hc]

theorem hostRead_served (hp : parses (s.masksAt t) g t (target a) 1) (hr : (s.masksAt t).ranks g t < 3)
    (hst : (s.masksAt t).readStatus t (target a) = none) (hc : (s.masksAt t).tideCause g t true false (target a) = 0) :
    s.hostRead g t tag a parity = if ((s.masksAt t).addEcho g t [0]).closedLease (target a) || ((s.masksAt t).addEcho g t [0]).closedJust (target a)
      then (((s.masksAt t).addEcho g t [0]).outBad g t tag (target a) .leased).noteReq t (target a)
      else (((s.masksAt t).addEcho g t [0]).readOk g t tag (target a) parity).noteReq t (target a) := by
  obtain ⟨h16, hmal⟩ := parses_guards hp (by decide) (Nat.not_le.mpr hr)
  simp only [State.hostRead, if_neg h16, if_neg hmal, readStatus_addEcho, hst, tideCause_addEcho, hc, ne_eq, not_true_eq_false, if_false]

/-- An accepted READ of data is outstanding without a status, and waits at its bank. -/
theorem read_waits (u : State) (g t : Nat) (tag : W16) (off : Nat) (parity : Bool) :
    let v := ((u.addEcho g t [0]).readOk g t tag (.data off) parity).noteReq t (.data off)
    let a := u.placed off
    echoes u v g t [0] ∧ outstanding u v g t tag none ∧ v.mem = u.mem
      ∧ ((v.chan (offChan a)).bank (offBank a)).queue = ((u.chan (offChan a)).bank (offBank a)).queue
        ++ [⟨u.port.nextId, t, a / 64, false, [], 0, 0, false, u.hostOwned (a / 64), u.port.strict⟩] := by
  obtain ⟨he, ho⟩ := entered_of_same (w := ((u.addEcho g t [0]).readOk g t tag (.data off) parity).noteReq t (.data off)) (by rw [noteReq_group]; rfl)
    (by rw [noteReq_only]; rfl) (outReq_enters (u := u) (w := u.addEcho g t [0]) (g := g) (t := t) rfl rfl tag (.data off) none [] 0 [])
  refine ⟨he, ho, by rw [noteReq_only]; rfl, ?_⟩
  rw [noteReq_bank]
  exact congrArg BankSt.queue (bank_modBank_same _ (offChan (u.placed off)) (offBank (u.placed off)) _)

/-- A READ in breach of the tide table is outstanding with its answer, and counted where it names a channel. -/
theorem violation_entered (u : State) (g t : Nat) (tag : W16) (x : Target) (cause : Nat) :
    let v := ((u.addEcho g t [0]).noteTide x cause).outReq g t tag .hole (some .violation) zeroBeat zeroCheck []
    echoes u v g t [0] ∧ outstanding u v g t tag (some .violation) ∧ v.chans = u.chans
      ∧ ∀ c, u.reqChan x = some c → tget v.port.violCount c 0 = satInc (tget u.port.violCount c 0) 0xFFFF ∧ tget v.port.violCause c 0 = cause := by
  have hreq : (u.addEcho g t [0]).reqChan x = u.reqChan x := by cases x <;> rfl
  cases hx : u.reqChan x with
  | none =>
    have htide : (u.addEcho g t [0]).noteTide x cause = u.addEcho g t [0] := by simp only [State.noteTide, hreq, hx]
    rw [htide]
    obtain ⟨he, ho⟩ := outReq_enters (u := u) (w := u.addEcho g t [0]) (t := t) rfl rfl tag .hole (some .violation) zeroBeat zeroCheck []
    exact ⟨he, ho, rfl, fun c hc => by simp at hc⟩
  | some c =>
    have htide : (u.addEcho g t [0]).noteTide x cause = (u.addEcho g t [0]).violation c cause := by simp only [State.noteTide, hreq, hx]
    rw [htide]
    obtain ⟨he, ho⟩ := outReq_enters (u := u) (w := (u.addEcho g t [0]).violation c cause) (g := g) (t := t) (by simp [State.violation]) (by simp [State.violation, State.addEcho])
      tag .hole (some .violation) zeroBeat zeroCheck []
    refine ⟨he, ho, noteSat_chans _ _ _ _, fun d hd => ?_⟩
    obtain rfl : c = d := Option.some.inj hd
    simp only [State.outReq, State.modPort_port, State.modGroup_port, State.violation, noteSat_port, tget_tput_same]
    exact ⟨rfl, trivial⟩

end

/-! ## WRITE of data (R114, R115, R118, R133) -/

theorem hostWriteDesc_malformed {s : State} {g t a : Nat} {en : W64} {data : List Byte} {check : W32} (h16 : (s.masksAt t).unitAt g t < 16)
    (h : 12 ≤ (s.masksAt t).unitAt g t ∨ (s.masksAt t).rightGroup g (target a) = false) :
    s.hostWriteDesc g t a en data check = (s.masksAt t).keyOff.malform g t := by
  simp only [State.hostWriteDesc, if_neg (Nat.not_le.mpr h16), if_pos h]

theorem hostWriteDesc_parsed {s : State} {g t a : Nat} {en : W64} {data : List Byte} {check : W32} (hp : parses (s.masksAt t) g t (target a) 5) :
    s.hostWriteDesc g t a en data check = ((s.masksAt t).hostWriteReq g t (target a) en data check).addEcho g t
      [echoField ((s.masksAt t).hostWriteReq g t (target a) en data check).port.lastStatus, 0, 0, 0, 0] := by
  obtain ⟨hunit, hright⟩ := hp
  obtain ⟨h16, hmal⟩ := parses_guards ⟨hunit, hright⟩ (by decide) (show ¬ 12 ≤ (s.masksAt t).unitAt g t by omega)
  simp only [State.hostWriteDesc, if_neg h16, if_neg hmal]

/-- No word of a data block is a register. -/
theorem wordsStatus_data (s : State) (off : Nat) (en : W64) (data : List Byte) : s.wordsStatus (wordsOf (.data off) en data) = .ok := by
  have hword : ∀ w ∈ wordsOf (.data off) en data, s.regStatus w.1 = .ok := by
    intro w hw
    obtain ⟨k, -, rfl⟩ := List.mem_map.mp hw
    rfl
  have hany : ∀ st, st ≠ .ok → (wordsOf (.data off) en data).any (fun w => s.regStatus w.1 = st) = false := by
    intro st hst
    rw [List.any_eq_false]
    intro w hw
    rw [hword w hw, decide_eq_true_eq]
    exact hst.symm
  rw [State.wordsStatus, hany .mode (by decide), hany .leased (by decide)]
  rfl

theorem closedLease_noteReq (s : State) (t off : Nat) (x : Target) : (s.noteReq t x).closedLease (.data off) = s.closedLease (.data off) := by
  have hplaced : (s.noteReq t x).placed off = s.placed off := by rw [noteReq_only]; rfl
  simp only [State.closedLease, hplaced, noteReq_bank]

/-- A WRITE of data that its channel takes: refused while its bank is leased under CLOSED, else accepted. -/
theorem hostWriteReq_data {s : State} {g t off : Nat} {en : W64} {data : List Byte} {check : W32} (hon : (s.chan (offChan (s.placed off))).offline = false)
    (hc : s.tideCause g t false (s.partOwned (.data off) en) (.data off) = 0) :
    s.hostWriteReq g t (.data off) en data check = if s.closedLease (.data off) then (s.keyOff.noteReq t (.data off)).status .leased
      else ((s.keyOff.noteReq t (.data off)).writeOk g t (.data off) en data check).status .ok := by
  have hbars : s.keyOff.modeBars (.data off) = false := rfl
  have hhole : s.keyOff.writeHole t (.data off) = false := hon
  have htide : s.keyOff.tideCause g t false (s.keyOff.partOwned (.data off) en) (.data off) = 0 := hc
  have hlease : (s.keyOff.noteReq t (.data off)).closedLease (.data off) = s.closedLease (.data off) := closedLease_noteReq s.keyOff t off _
  have hmapped : (s.keyOff.noteReq t (.data off)).mappedPage (.data off) = none := rfl
  simp [State.hostWriteReq, modeTry, hbars, hhole, htide, hlease, hmapped, wordsStatus_data]

/-- An accepted WRITE of data waits at its bank, and its echo says OK. -/
theorem write_waits (u : State) (g t off : Nat) (en : W64) (data : List Byte) (check : W32) :
    let v := (((u.keyOff.noteReq t (.data off)).writeOk g t (.data off) en data check).status .ok).addEcho g t [0b1000, 0, 0, 0, 0]
    let a := u.placed off
    echoes u v g t [0b1000, 0, 0, 0, 0] ∧ v.port.armedAt = none ∧ v.port.lastStatus = .ok ∧ v.mem = u.mem
      ∧ ((v.chan (offChan a)).bank (offBank a)).queue = ((u.chan (offChan a)).bank (offBank a)).queue
        ++ [⟨u.port.nextId, t, a / 64, true, data, en, check, false, u.hostOwned (a / 64), u.port.strict⟩] := by
  have hok : (u.keyOff.noteReq t (.data off)).writeOk g t (.data off) en data check
      = ((u.keyOff.noteReq t (.data off)).modPort (fun p => { p with nextId := p.nextId + 1 })).modBank (offChan (u.placed off)) (offBank (u.placed off)) (fun k => { k with
        queue := k.queue ++ [⟨u.port.nextId, t, u.placed off / 64, true, data, en, check, false, u.hostOwned (u.placed off / 64), u.port.strict⟩] }) := by
    rw [noteReq_only]; rfl
  refine ⟨(addEcho_echoes _ g t _).trans ?_, ?_, rfl, ?_, ?_⟩
  · rw [State.status_read_group, hok]
    exact congrArg (fun x : LaneGroup => echoAdd x.echoes t _) (noteReq_group u.keyOff t (.data off) g)
  · rw [hok, noteReq_only]; rfl
  · rw [hok, noteReq_only]; rfl
  · rw [hok]
    refine (congrArg BankSt.queue (bank_modBank_same _ (offChan (u.placed off)) (offBank (u.placed off)) _)).trans ?_
    exact congrArg (fun k : BankSt => k.queue ++ _) (noteReq_bank u.keyOff t (.data off) _ _)

/-! ## PFENCE (R137) -/

theorem hostFence_served {s : State} {g t a : Nat} {tag : W16} (hp : parses (s.masksAt t) g t (target a) 1) (hr : (s.masksAt t).ranks g t < 3)
    (hbars : (s.masksAt t).modeBars (target a) = false) (hhole : fenceHole (target a) = false)
    (hc : (s.masksAt t).tideCause g t true false (target a) = 0) :
    s.hostFence g t tag a = (((s.masksAt t).addEcho g t [0]).outReq g t tag (target a)
      (if (s.masksAt t).fenceCovers g (target a) = [] then some .ok else none) zeroBeat zeroCheck ((s.masksAt t).fenceCovers g (target a))).noteReq t (target a) := by
  obtain ⟨h16, hmal⟩ := parses_guards hp (by decide) (Nat.not_le.mpr hr)
  have hbars' : ((s.masksAt t).addEcho g t [0]).modeBars (target a) = false := by rw [← hbars]; cases target a <;> rfl
  have hcovers : ((s.masksAt t).addEcho g t [0]).fenceCovers g (target a) = (s.masksAt t).fenceCovers g (target a) := by cases target a <;> rfl
  simp only [State.hostFence, if_neg h16, if_neg hmal, hbars', hhole, hcovers, tideCause_addEcho, hc]
  rfl

/-! ## The rows -/

/-- Settles O37: each descriptor is parsed in the state of the masks due, and comes to the case of its target and its bank. -/
theorem hostRequests : Obligations.HostRequests := by
  intro s g t tag addr en data check off cause u x a bank rd wrote pf hup
  have hrd : rd = .next (s.hostRead g t tag (addr.toNat * 64) false) := if_pos hup
  have hwrote : wrote = .next (s.hostWriteDesc g t (addr.toNat * 64) en data check) := if_pos hup
  have hpf : pf = .next (s.hostFence g t tag (addr.toNat * 64)) := if_pos hup
  refine ⟨?idle, fun hx hp hr hon hc => ⟨?read, ?leasedRead⟩, ?offline, ?violation, ?badRead, ?write, ?leasedWrite, ?badWrite, ?fence⟩
  case idle => exact ⟨_, if_pos hup, onlyGroup_modGroup s g _, addEcho_echoes s g t [0]⟩
  case read =>
    intro hlease hclosed
    have hst : u.readStatus t x = none := by rw [hx, readStatus_data, if_neg (Bool.eq_false_iff.mp hon)]
    have hopen : ((u.addEcho g t [0]).closedLease x || (u.addEcho g t [0]).closedJust x) = false := by
      rw [hx]; exact Bool.or_eq_false_iff.mpr ⟨decide_eq_false hlease, decide_eq_false hclosed⟩
    obtain ⟨he, ho, hmem, hqueue⟩ := read_waits u g t tag off false
    rw [hrd, hostRead_served hp hr hst hc, if_neg (Bool.eq_false_iff.mp hopen), show target (addr.toNat * 64) = .data off from hx]
    exact ⟨_, rfl, he, ho, hmem, _, hqueue, rfl, rfl, rfl, rfl, rfl, rfl⟩
  case leasedRead =>
    intro hclosed
    have hst : u.readStatus t x = none := by rw [hx, readStatus_data, if_neg (Bool.eq_false_iff.mp hon)]
    have hbarred : ((u.addEcho g t [0]).closedLease x || (u.addEcho g t [0]).closedJust x) = true := by
      rw [hx]; exact Bool.or_eq_true_iff.mpr (hclosed.imp decide_eq_true decide_eq_true)
    rw [hrd, hostRead_served hp hr hst hc, if_pos hbarred]
    exact ⟨_, rfl, request_entered u g t tag x (some .leased) zeroBeat zeroCheck []⟩
  case offline =>
    intro hx hp hr hoff
    have hst : u.readStatus t x = some .hole := by rw [hx, readStatus_data, if_pos hoff]
    rw [hrd, hostRead_answered hp hr hst]
    exact ⟨_, rfl, request_entered u g t tag x (some .hole) zeroBeat zeroCheck []⟩
  case violation =>
    rintro hp hr hst rfl hc
    rw [hrd, hostRead_violation hp hr hst hc]
    exact ⟨_, rfl, violation_entered u g t tag x _⟩
  case badRead =>
    intro h16 hbad
    obtain ⟨he, hcount, hchans, -⟩ := malform_spec u g t
    rw [hrd, hostRead_malformed h16 hbad]
    exact ⟨_, rfl, he, hcount, hchans⟩
  case write =>
    intro hx hp hon hlease hc
    have hopen : u.closedLease x = false := by rw [hx]; exact decide_eq_false hlease
    obtain ⟨he, harmed, hstatus, hmem, hqueue⟩ := write_waits u g t off en data check
    rw [hx] at hc hopen
    rw [hwrote, hostWriteDesc_parsed hp, show target (addr.toNat * 64) = .data off from hx, hostWriteReq_data hon hc, if_neg (Bool.eq_false_iff.mp hopen)]
    exact ⟨_, rfl, he, harmed, hstatus, hmem, _, hqueue, rfl, rfl, rfl, rfl, rfl, rfl, rfl, rfl⟩
  case leasedWrite =>
    intro hx hp hon hlease hc
    have hopen : u.closedLease x = true := by rw [hx]; exact decide_eq_true hlease
    rw [hx] at hc hopen
    rw [hwrote, hostWriteDesc_parsed hp, show target (addr.toNat * 64) = .data off from hx, hostWriteReq_data hon hc, if_pos hopen]
    refine ⟨_, rfl, (addEcho_echoes _ g t _).trans ?_, rfl, onlyWaits_noteReq u.keyOff t (.data off)⟩
    exact congrArg (fun x : LaneGroup => echoAdd x.echoes t _) (noteReq_group u.keyOff t (.data off) g)
  case badWrite =>
    intro h16 hbad
    obtain ⟨he, -, hchans, hport⟩ := malform_spec u.keyOff g t
    rw [hwrote, hostWriteDesc_malformed h16 hbad]
    exact ⟨_, rfl, he, hchans, by rw [hport]; rfl⟩
  case fence =>
    intro hp hr hbars hhole hc
    rw [hpf, hostFence_served hp hr hbars hhole hc]
    exact ⟨_, rfl, request_entered u g t tag x _ zeroBeat zeroCheck _⟩

end Sys2Proof.PreolmondLink
end

section
/-! SUPPORT. Training sets and training anew (03 R95 to R98): the sets a group sends, and what a new training leaves of the groups. -/

namespace Sys2Proof.PreolmondLink
open Sys2Proof Sys2Proof.Machine

/-! ## Training sets sent (Table 8) -/

/-- A group that sends its sets changes what it sent last and their number; outside EQ nothing of them is free. -/
theorem sendSets_cases (s : State) (g : Nat) : ∃ req : Nat → Nat, (∀ l, req l < 5) ∧ ((s.group g).tphase ≠ .eq → ∀ l, req l = 0)
    ∧ s.sendSets g = { s.modGroup g (fun x => { x with upFlit := flitOf ((upFrom 0 8).map (fun l => x.tsBytes g (req l) l)), tsCount := x.tsCount + 1 }) with
      free := (s.sendSets g).free }
    ∧ ((s.group g).tphase ≠ .eq → (s.sendSets g).free = s.free) := by
  by_cases h : (s.group g).tphase = .eq
  · refine ⟨fun l => ((s.draw 8).1.getD l 0).toNat % 5, fun l => Nat.mod_lt _ (by decide), fun hne => absurd h hne, ?_, fun hne => absurd h hne⟩
    simp only [State.sendSets, if_pos h]
    rfl
  · refine ⟨fun _ => 0, fun _ => Nat.succ_pos 4, fun _ _ => rfl, ?_, fun _ => ?_⟩
    · simp only [State.sendSets, if_neg h]
    · simp only [State.sendSets, if_neg h]
      rfl

theorem sendSets_only (s : State) (g : Nat) :
    s.sendSets g = { s with link := { s.link with groups := (s.sendSets g).link.groups }, free := (s.sendSets g).free } := by
  obtain ⟨req, -, -, hs, -⟩ := sendSets_cases s g
  rw [hs]; rfl

theorem sendSets_same (s : State) (g : Nat) : ∃ line n, (s.sendSets g).group g = { s.group g with upFlit := line, tsCount := n } := by
  obtain ⟨req, -, -, hs, -⟩ := sendSets_cases s g
  rw [hs]
  exact ⟨_, _, group_modGroup_same s g _⟩

theorem sendSets_other {s : State} {g k : Nat} (h : k ≠ g) : (s.sendSets g).group k = s.group k := by
  obtain ⟨req, -, -, hs, -⟩ := sendSets_cases s g
  rw [hs]
  exact group_modGroup_other s g k _ h

/-! ## Training anew (R98) -/

/-- Work for the link's owner ends its WAIT (13 R345). -/
theorem stir_link (s : State) : s.stir .link = { s with mg := { s.mg with linkDom := { s.mg.linkDom with waiting := false } } } := by
  unfold State.stir
  split
  · rfl
  · next h =>
    have hwait : s.mg.linkDom.waiting = false := Bool.eq_false_iff.mpr h
    rw [← hwait]

/-- The group as its new training begins. -/
def begun (x : LaneGroup) : LaneGroup :=
  { x.startTrain with retrains := if x.state = .active ∨ x.state = .standby then satInc x.retrains 0xFF else x.retrains }

/-- The groups carried drop what is pending, the group begins to train and sends its first sets. -/
theorem retrain_eq (s : State) (g : Nat) :
    s.retrain g = ((((s.carries g).foldl (fun s l => s.modGroup l LaneGroup.dropPending) s).modGroup g (fun x => { x.startTrain with
      retrains := (begun (s.group g)).retrains })).sendSets g).stir .link := by
  have hcount : (if decide ((s.group g).state = .active ∨ (s.group g).state = .standby) = true then satInc (s.group g).retrains 0xFF else (s.group g).retrains)
      = (begun (s.group g)).retrains := by simp [begun]
  rw [← hcount]
  rfl

theorem retrain_only (s : State) (g : Nat) :
    s.retrain g = { s with
      link := { s.link with groups := (s.retrain g).link.groups }, free := (s.retrain g).free
      mg := { s.mg with linkDom := { s.mg.linkDom with waiting := false } } } := by
  rw [retrain_eq, stir_link, sendSets_only, foldl_modGroup_only]; rfl

theorem retrain_frame (s : State) (g : Nat) :
    (s.retrain g).port = s.port ∧ (s.retrain g).chans = s.chans ∧ (s.retrain g).slices = s.slices ∧ (s.retrain g).mem = s.mem := by
  rw [retrain_only]
  exact ⟨rfl, rfl, rfl, rfl⟩

/-- A logical group once the new training of the group that carries it, if it is that one, has dropped what was pending. -/
def dropped (s : State) (g k : Nat) : LaneGroup := if k ∈ s.carries g then (s.group k).dropPending else s.group k

theorem retrain_group (s : State) (g k : Nat) :
    ∃ line n, (s.retrain g).group k = if k = g then { begun (dropped s g k) with upFlit := line, tsCount := n } else dropped s g k := by
  have hdrop : ((s.carries g).foldl (fun s l => s.modGroup l LaneGroup.dropPending) s).group k = dropped s g k := group_foldl_modGroup fun _ => rfl
  have hstir : ∀ t : State, (t.stir .link).group k = t.group k := fun t => by rw [stir_link]; rfl
  rw [retrain_eq, hstir]
  by_cases hk : k = g
  · subst hk
    have hcount : (begun (s.group k)).retrains = (begun (dropped s k k)).retrains := by
      unfold dropped
      split <;> rfl
    obtain ⟨line, n, hsent⟩ := sendSets_same (((s.carries k).foldl (fun s l => s.modGroup l LaneGroup.dropPending) s).modGroup k (fun x => { x.startTrain with
      retrains := (begun (s.group k)).retrains })) k
    rw [hsent, group_modGroup_same, hdrop, hcount]
    exact ⟨line, n, (if_pos rfl).symm⟩
  · rw [sendSets_other hk, group_modGroup_other _ g k _ hk, hdrop]
    exact ⟨[], 0, (if_neg hk).symm⟩

/-- A new training of another group leaves a group's state and phase. -/
theorem retrain_other {s : State} {g k : Nat} (hk : k ≠ g) :
    ((s.retrain g).group k).state = (s.group k).state ∧ ((s.retrain g).group k).tphase = (s.group k).tphase := by
  obtain ⟨line, n, h⟩ := retrain_group s g k
  rw [h, if_neg hk, dropped]
  split <;> exact ⟨rfl, rfl⟩

theorem retrained_retrain (s : State) (g : Nat) : retrained s (s.retrain g) g := by
  obtain ⟨line, n, hg⟩ := retrain_group s g g
  rw [if_pos rfl] at hg
  have hcount : (begun (dropped s g g)).retrains = (begun (s.group g)).retrains := by
    unfold dropped
    split <;> rfl
  refine ⟨by rw [hg]; rfl, by rw [hg]; rfl, by rw [hg]; rfl, by rw [hg]; rfl, by rw [hg]; exact hcount, fun l hl => ?_⟩
  obtain ⟨line, n, h⟩ := retrain_group s g l
  rw [h, dropped, if_pos hl]
  split <;> exact ⟨rfl, rfl, rfl⟩

/-- A new training is a matter of the link alone. -/
theorem retrained_of_link {s t u v : State} {g : Nat} (hs : u.link = s.link) (hv : v.link = t.link) (h : retrained s t g) : retrained u v g := by
  have hbefore : ∀ k, u.group k = s.group k := fun k => by rw [State.group, hs]; rfl
  have hafter : ∀ k, v.group k = t.group k := fun k => by rw [State.group, hv]; rfl
  have hcarries : u.carries g = s.carries g := carries_congr (by rw [hbefore]) (by rw [hbefore])
  simpa only [retrained, hbefore, hafter, hcarries] using h

/-- Every group of a list trained anew in turn is in DETECT. -/
theorem foldl_retrain_detect (l : List Nat) (s : State) :
    let v := l.foldl (fun s g => s.retrain g) s
    v.link.pllLocked = s.link.pllLocked
      ∧ ∀ k, k ∈ l ∨ ((s.group k).state = .train ∧ (s.group k).tphase = .detect) → (v.group k).state = .train ∧ (v.group k).tphase = .detect := by
  induction l generalizing s with
  | nil => exact ⟨rfl, fun k hk => hk.resolve_left (by simp)⟩
  | cons g l ih =>
    obtain ⟨hpll, hdetect⟩ := ih (s.retrain g)
    refine ⟨hpll.trans (by rw [retrain_only]), fun k hk => hdetect k ?_⟩
    by_cases hg : k = g
    · subst hg
      obtain ⟨hstate, hphase, -⟩ := retrained_retrain s k
      exact Or.inr ⟨hstate, hphase⟩
    · obtain ⟨hstate, hphase⟩ := retrain_other (s := s) hg
      rw [hstate, hphase]
      exact hk.imp_left fun h => (List.mem_cons.mp h).resolve_left hg

end Sys2Proof.PreolmondLink
end

section
/-! SUPPORT. Link training (03 R94 to R101, R103, R104): what the phases keep of a group, the end of training and of a phase's time, and wake. -/

namespace Sys2Proof.PreolmondLink
open Sys2Proof Sys2Proof.Machine

/-! ## Phases (R95 to R97, Table 9) -/

/-- Adaptation leaves of a group what is not its lanes. -/
theorem adapt_keeps {α : Type} (part : LaneGroup → α) {x : LaneGroup} {done : Byte} (h : ∀ x l, part { x with lanes := l } = part x) :
    part (x.adapt done) = part x := by
  unfold LaneGroup.adapt
  split
  · exact h x _
  · rfl

/-- Sets received leave of a group what is neither its lanes nor its remap. -/
theorem trainSet_keeps {α : Type} (part : LaneGroup → α) {x : LaneGroup} {g : Nat} {ok : Bool} {lanes : List (List Byte)} {skews : List Byte}
    (hlanes : ∀ x l, part { x with lanes := l } = part x) (hremap : ∀ x a b, part { x with remap := a, offer := b } = part x) :
    part (x.trainSet g ok lanes skews) = part x := by
  unfold LaneGroup.trainSet
  split
  · exact hlanes x _
  · exact hlanes x _
  · exact (hremap _ _ _).trans (hlanes x _)
  · exact hlanes x _

/-- Remap is decided in CONFIG alone. -/
theorem trainSet_remap {x : LaneGroup} {g : Nat} {ok : Bool} {lanes : List (List Byte)} {skews : List Byte} (h : x.tphase ≠ .config) :
    (x.trainSet g ok lanes skews).remap = x.remap := by
  unfold LaneGroup.trainSet
  split
  · rfl
  · rfl
  · next hp => exact absurd hp h
  · rfl

section
variable (x : LaneGroup) (ok : Bool)

theorem nextPhase_detect (h : x.tphase = .detect) : (x.nextPhase ok).tphase = .eq ∧ (x.nextPhase ok).state = x.state := by
  simp only [LaneGroup.nextPhase, h]
  exact ⟨trivial, rfl⟩

theorem nextPhase_eq (h : x.tphase = .eq) :
    (x.nextPhase ok).offer = b2n ok ∧ (x.nextPhase ok).tphase = .config ∧ (x.nextPhase ok).state = x.state := by
  simp only [LaneGroup.nextPhase, h]
  exact ⟨trivial, trivial, rfl⟩

theorem nextPhase_config (h : x.tphase = .config) : (x.nextPhase ok).tphase = .align ∧ (x.nextPhase ok).state = x.state := by
  simp only [LaneGroup.nextPhase, h]
  exact ⟨trivial, rfl⟩

theorem nextPhase_align (h : x.tphase = .align) : x.nextPhase ok = { x with state := .active } := by
  simp only [LaneGroup.nextPhase, h]

end

/-! ## A period of training (R95) -/

/-- The state once the group has sent the sets of a period, with the receivers that `done` names adapted. -/
def sentSets (s : State) (g : Nat) (done : Byte) : State := (s.modGroup g (·.adapt done)).sendSets g

/-- The sets sent leave of the group what is neither its lanes, its line nor the sets' number. -/
theorem sentSets_keeps {α : Type} (part : LaneGroup → α) {s : State} {g k : Nat} {done : Byte} (hlanes : ∀ x l, part { x with lanes := l } = part x)
    (hsent : ∀ x a b, part { x with upFlit := a, tsCount := b } = part x) : part ((sentSets s g done).group k) = part (s.group k) := by
  have hadapt : part ((s.modGroup g (·.adapt done)).group k) = part (s.group k) := group_modGroup_keeps part fun x => adapt_keeps part hlanes
  by_cases hk : k = g
  · subst hk
    obtain ⟨line, n, h⟩ := sendSets_same (s.modGroup k (·.adapt done)) k
    rw [sentSets, h, hsent, hadapt]
  · rw [sentSets, sendSets_other hk, hadapt]

theorem remapOk_sentSets (s : State) (g : Nat) (done : Byte) : (sentSets s g done).remapOk g = s.remapOk g := by
  have hen : ∀ k, ((sentSets s g done).group k).remapEn = (s.group k).remapEn := fun k => sentSets_keeps (·.remapEn) (fun _ _ => rfl) fun _ _ _ => rfl
  have hstate : ∀ k, ((sentSets s g done).group k).state = (s.group k).state := fun k => sentSets_keeps (·.state) (fun _ _ => rfl) fun _ _ _ => rfl
  simp only [State.remapOk, hen, hstate]

/-- The group of `s` after the sets it receives. -/
def received (s : State) (g : Nat) (done : Byte) (lanes : List (List Byte)) (skews : List Byte) : LaneGroup :=
  ((sentSets s g done).group g).trainSet g (s.remapOk g) lanes skews

theorem received_keeps {α : Type} (part : LaneGroup → α) {s : State} {g : Nat} {done : Byte} {lanes : List (List Byte)} {skews : List Byte}
    (hlanes : ∀ x l, part { x with lanes := l } = part x) (hremap : ∀ x a b, part { x with remap := a, offer := b } = part x)
    (hsent : ∀ x a b, part { x with upFlit := a, tsCount := b } = part x) : part (received s g done lanes skews) = part (s.group g) :=
  (trainSet_keeps part hlanes hremap).trans (sentSets_keeps part hlanes hsent)

theorem received_tphase (s : State) (g : Nat) (done : Byte) (lanes : List (List Byte)) (skews : List Byte) :
    (received s g done lanes skews).tphase = (s.group g).tphase := received_keeps (·.tphase) (fun _ _ => rfl) (fun _ _ _ => rfl) fun _ _ _ => rfl

theorem received_state (s : State) (g : Nat) (done : Byte) (lanes : List (List Byte)) (skews : List Byte) :
    (received s g done lanes skews).state = (s.group g).state := received_keeps (·.state) (fun _ _ => rfl) (fun _ _ _ => rfl) fun _ _ _ => rfl

section
variable {s : State} {g : Group} {lanes : List (List Byte)} {skews : List Byte} {done : Byte}

theorem exec_training (hp : s.powered = true) (hs : (s.group g).state = .train) :
    exec (.trainingSetReceive g lanes skews done) s = .next (if (received s g done lanes skews).allMet then
        (if (s.group g).tphase = .align then
          ((sentSets s g done).modGroup g (fun _ => (received s g done lanes skews).nextPhase (s.remapOk g))).trainDone g
        else (sentSets s g done).modGroup g (fun _ => (received s g done lanes skews).nextPhase (s.remapOk g)))
      else (sentSets s g done).modGroup g (fun _ => received s g done lanes skews)) := by
  have hremap := remapOk_sentSets s g done
  rw [← received_tphase s g done lanes skews]
  show execTrainingSetReceive g lanes skews s done = _
  simp only [execTrainingSetReceive, hp, hs, Bool.not_true, Bool.false_eq_true, if_false]
  simp only [sentSets] at hremap
  simp only [hremap, received, sentSets]
  exact (apply_ite Host.Outcome.next _ _ _).symm

/-- A lane that has not met its condition keeps the group in its phase. -/
theorem exec_training_wait (hp : s.powered = true) (hs : (s.group g).state = .train) (hmet : (received s g done lanes skews).allMet = false) :
    exec (.trainingSetReceive g lanes skews done) s = .next ((sentSets s g done).modGroup g (fun _ => received s g done lanes skews)) := by
  rw [exec_training hp hs, if_neg (Bool.eq_false_iff.mp hmet)]

/-- Every phase but the last gives way to the next. -/
theorem exec_training_next (hp : s.powered = true) (hs : (s.group g).state = .train) (hmet : (received s g done lanes skews).allMet = true)
    (h : (s.group g).tphase ≠ .align) :
    exec (.trainingSetReceive g lanes skews done) s
      = .next ((sentSets s g done).modGroup g (fun _ => (received s g done lanes skews).nextPhase (s.remapOk g))) := by
  rw [exec_training hp hs, if_pos hmet, if_neg h]

/-- The last phase ends training. -/
theorem exec_training_last (hp : s.powered = true) (hs : (s.group g).state = .train) (hmet : (received s g done lanes skews).allMet = true)
    (h : (s.group g).tphase = .align) :
    exec (.trainingSetReceive g lanes skews done) s
      = .next (((sentSets s g done).modGroup g (fun _ => { received s g done lanes skews with state := .active })).trainDone g) := by
  rw [exec_training hp hs, if_pos hmet, if_pos h, nextPhase_align _ _ ((received_tphase s g done lanes skews).trans h)]

/-- Remap stands through a period outside CONFIG. -/
theorem received_remap (h : (s.group g).tphase ≠ .config) : (received s g done lanes skews).remap = (s.group g).remap := by
  have hphase : ((sentSets s g done).group g).tphase = (s.group g).tphase := sentSets_keeps (·.tphase) (fun _ _ => rfl) fun _ _ _ => rfl
  exact (trainSet_remap (hphase ▸ h)).trans (sentSets_keeps (·.remap) (fun _ _ => rfl) fun _ _ _ => rfl)

/-- Valid TS1 on a lane of a group ACTIVE or in STANDBY makes it train anew (R98). -/
theorem exec_training_ts1 (hp : s.powered = true)
    (hs : (s.group g).state = .active ∨ (s.group g).state = .standby) (hts : ∃ l b, l < 8 ∧ (s.group g).setOn lanes l = some b ∧ tsByte b 4 = 1) :
    exec (.trainingSetReceive g lanes skews done) s = .next (s.retrain g) := by
  obtain ⟨l, b, hl, hb, h1⟩ := hts
  have hvalid : execTrainingSetReceive.ts1 (s.group g) lanes = true := by
    refine List.any_eq_true.mpr ⟨l, (mem_upFrom 0 8 l).mpr (by omega), ?_⟩
    simp only [hb, h1, decide_true]
  show execTrainingSetReceive g lanes skews s done = _
  rcases hs with hs | hs <;> simp only [execTrainingSetReceive, hp, hs, hvalid] <;> rfl

/-- A group OFF or DOWN receives no sets. -/
theorem exec_training_down
    (hs : (s.group g).state = .off ∨ (s.group g).state = .down) : exec (.trainingSetReceive g lanes skews done) s = .next s := by
  show execTrainingSetReceive g lanes skews s done = _
  rcases hs with hs | hs <;> simp only [execTrainingSetReceive, hs] <;> exact ite_self _

end

/-! ## Sharing (R99 to R101) -/

/-- A group that neither was shared nor becomes so. -/
theorem setShare_alone {s : State} {g : Nat} (h : (s.group g).shared = false) : s.setShare g false = s.modGroup g (fun x => { x with shared := false }) := by
  simp [State.setShare, h]

theorem partner_ne (g : Group) : partner g ≠ g := by
  have := g.isLt
  unfold partner
  omega

/-- The end of sharing, as the carrying group sees it. -/
theorem setShare_off (s : State) (g : Group) : (s.setShare g false).group g = { s.group g with shared := false } := by
  have hother : ∀ (t : State) (f : LaneGroup → LaneGroup), (t.modGroup (partner g) f).group g = t.group g :=
    fun t f => group_modGroup_other t (partner g) g f (partner_ne g).symm
  cases h : (s.group g).shared <;> simp [State.setShare, h, hother]

/-- The group as it enters ACTIVE alone (R84, R97). -/
def activated (x : LaneGroup) (g : Nat) : LaneGroup :=
  { x.seed g with laneFailed := 0, lanes := tmap x.lanes (fun _ l => { l with failed := false }), shared := false }

/-- A group that enters ACTIVE without remap changes no other. -/
theorem trainDone_alone {s : State} {g : Nat} (hremap : (s.group g).remap = false) (hshared : (s.group g).shared = false) :
    onlyGroup s (s.trainDone g) g ∧ (s.trainDone g).group g = activated (s.group g) g := by
  have hseeded : ((s.modGroup g (fun x => { x.seed g with laneFailed := 0, lanes := tmap x.lanes (fun _ l => { l with failed := false }) })).group g).shared = false := by
    rw [group_modGroup_same]; exact hshared
  rw [State.trainDone, hremap, setShare_alone hseeded]
  refine ⟨onlyGroup_trans (onlyGroup_modGroup s g _) (onlyGroup_modGroup _ g _), ?_⟩
  rw [group_modGroup_same, group_modGroup_same]
  rfl

/-- The last phase of a group that is not to be shared leaves it ACTIVE, with its generators and numbers at their start. -/
theorem trainDone_last (s : State) (g : Nat) {y : LaneGroup} (hremap : y.remap = false) (hshared : y.shared = false) :
    let v := (s.modGroup g (fun _ => { y with state := .active })).trainDone g
    onlyGroup s v g ∧ (v.group g).state = .active ∧ (v.group g).seqUp = 0 ∧ (v.group g).scrDown = (upFrom 0 8).map (scrSeed g)
      ∧ (v.group g).scrUp = (upFrom 0 8).map (scrSeed g) ∧ (v.group g).laneFailed = 0 ∧ (v.group g).lostRun = 0 ∧ (v.group g).shared = false := by
  have hactive : (s.modGroup g (fun _ => { y with state := .active })).group g = { y with state := .active } := group_modGroup_same s g _
  obtain ⟨honly, hgroup⟩ := trainDone_alone (s := s.modGroup g (fun _ => { y with state := .active })) (g := g) (by rw [hactive]; exact hremap)
    (by rw [hactive]; exact hshared)
  refine ⟨onlyGroup_trans (onlyGroup_modGroup s g _) honly, ?_⟩
  simp only [hgroup]
  exact ⟨rfl, rfl, rfl, rfl, rfl, rfl, rfl⟩

/-! ## The limit of a phase (R96, Table 10) -/

theorem upFrom_nodup (n a : Nat) : (upFrom a n).Nodup := by
  induction n generalizing a with
  | zero => exact List.nodup_nil
  | succ n ih => exact List.nodup_cons.mpr ⟨by rw [mem_upFrom]; omega, ih (a + 1)⟩

theorem unmet_nodup (x : LaneGroup) : x.unmet.Nodup := by
  unfold LaneGroup.unmet
  refine List.Nodup.map_on (fun i hi j hj h => ?_) ((upFrom_nodup 8 0).filter _)
  have hi8 := (mem_upFrom 0 8 i).mp (List.mem_filter.mp hi).1
  have hj8 := (mem_upFrom 0 8 j).mp (List.mem_filter.mp hj).1
  split at h <;> omega

/-- A sum of distinct powers of two has the bits of its exponents. -/
theorem getLsbD_sum_pow (w : Nat) (l : List Nat) (n i : Nat) (hi : i < w) (hl : l.Nodup) (hn : ∀ j ∈ l, (BitVec.ofNat w n).getLsbD j = false) :
    (BitVec.ofNat w (l.foldl (fun n j => n + 2 ^ j) n)).getLsbD i = true ↔ (BitVec.ofNat w n).getLsbD i = true ∨ i ∈ l := by
  induction l generalizing n with
  | nil => simp
  | cons j l ih =>
    obtain ⟨hj, hl⟩ := List.nodup_cons.mp hl
    have hpow : BitVec.ofNat w (2 ^ j) = BitVec.twoPow w j := BitVec.eq_of_toNat_eq (by rw [BitVec.toNat_ofNat, BitVec.toNat_twoPow])
    have hstep : BitVec.ofNat w (n + 2 ^ j) = BitVec.ofNat w n ||| BitVec.twoPow w j := by
      rw [BitVec.ofNat_add, hpow]
      exact BitVec.add_eq_or_of_and_eq_zero _ _ (by rw [BitVec.and_twoPow, hn j (List.mem_cons_self ..)]; rfl)
    have hfree : ∀ k ∈ l, (BitVec.ofNat w (n + 2 ^ j)).getLsbD k = false := by
      intro k hk
      have hne : j ≠ k := fun e => hj (e ▸ hk)
      rw [hstep, BitVec.getLsbD_or, hn k (List.mem_cons_of_mem _ hk), BitVec.getLsbD_twoPow]
      simp [hne]
    rw [List.foldl_cons, ih (n + 2 ^ j) hl hfree, hstep, BitVec.getLsbD_or, BitVec.getLsbD_twoPow, Bool.or_eq_true, List.mem_cons]
    have hpower : (decide (j < w) && decide (j = i)) = true ↔ i = j := by
      simp only [Bool.and_eq_true, decide_eq_true_eq]
      omega
    rw [hpower, or_assoc]

/-- The group as its phase's limit leaves it. -/
def timedOut (x : LaneGroup) : LaneGroup :=
  { x.eachLane (fun l k => { k with failed := x.unmet.contains l }) with
    state := .down, upFlit := [], laneFailed := BitVec.ofNat 8 (x.unmet.foldl (fun n l => n + 2 ^ l) 0) }

theorem exec_trainPhaseLimit {s : State} {g : Group} (h : (s.group g).state = .train) :
    ∃ t : State, exec (.trainPhaseLimit g) s = .next (t.alert 6 (plainRec 6 0 g)) ∧ t.group g = { timedOut (s.group g) with shared := false } := by
  refine ⟨_, if_pos h, ?_⟩
  rw [setShare_off, group_modGroup_same]
  rfl

theorem timedOut_failed (x : LaneGroup) (l : Nat) (hl : l < 8) : (timedOut x).laneFailed.getLsbD l = true ↔ l ∈ x.unmet := by
  refine (getLsbD_sum_pow 8 x.unmet 0 l hl (unmet_nodup x) (by simp)).trans ?_
  simp

/-! ## STANDBY's end (R103) -/

/-- The groups once TS3 has ended the STANDBY of `g`. -/
def resumed (s : State) (g : Nat) : State :=
  (((s.modGroup g (fun x => { x with tphase := .align })).sendSets g).modGroup g (fun x => x.seed g)).modGroup g (fun x => { x with seqUp := 0, seqDown := 0 })

theorem exec_standbyResume {s : State} {g : Group} (hp : s.powered = true) (hs : (s.group g).state = .standby) (hon : s.mg.linkDom.state = .on)
    (hshared : (s.group g).shared = false) (hcarried : (s.group g).carried = false) :
    exec (.standbyResume g) s = .next ((resumed s g).stir .link) := by
  have hcarries : ((s.modGroup g (fun x => { x with tphase := .align })).sendSets g).carries g = [g.val] := by
    obtain ⟨line, n, h⟩ := sendSets_same (s.modGroup g (fun x => { x with tphase := .align })) g
    rw [group_modGroup_same] at h
    simp [State.carries, h, hshared, hcarried]
  show execStandbyResume g s = _
  simp only [execStandbyResume, hp, hs, hon, hcarries]
  rfl

/-- A link domain that is low wakes first. -/
theorem exec_standbyResume_low {s : State} {g : Group} (hp : s.powered = true) (hs : (s.group g).state = .standby) (hlow : s.mg.linkDom.state ≠ .on) :
    exec (.standbyResume g) s = .next (s.wake .link) := by
  show execStandbyResume g s = _
  rw [execStandbyResume, if_pos (by rw [hp, hs]; rfl), if_neg hlow]

theorem exec_standbyResume_not {s : State} {g : Group} (hs : (s.group g).state ≠ .standby) : exec (.standbyResume g) s = .next s := by
  show execStandbyResume g s = _
  simp only [execStandbyResume, hs, decide_false, Bool.and_false, Bool.false_eq_true, if_false]

theorem resumed_only (s : State) (g : Nat) : resumed s g = { s with link := { s.link with groups := (resumed s g).link.groups } } := by
  obtain ⟨req, -, -, -, hfree⟩ := sendSets_cases (s.modGroup g (fun x => { x with tphase := .align })) g
  have hdraw := hfree (by rw [group_modGroup_same]; simp)
  rw [resumed, sendSets_only, hdraw]
  rfl

theorem resumed_other {s : State} {g k : Nat} (hk : k ≠ g) : (resumed s g).group k = s.group k := by
  rw [resumed, group_modGroup_other _ g k _ hk, group_modGroup_other _ g k _ hk, sendSets_other hk, group_modGroup_other _ g k _ hk]

theorem resumed_same (s : State) (g : Nat) : ((resumed s g).group g).state = .active ∧ ((resumed s g).group g).seqUp = 0
    ∧ ((resumed s g).group g).scrDown = (upFrom 0 8).map (scrSeed g) := by
  rw [resumed, group_modGroup_same, group_modGroup_same]
  exact ⟨rfl, rfl, rfl⟩

/-! ## Wake (R104) -/

/-- A detection while the link domain is on is recorded, and wakes nothing. -/
theorem linkWake_on {s : State} (g : Nat) (swell : Bool) (hon : s.mg.linkDom.state = .on) (hgo : s.mg.linkDom.going = none) :
    s.linkWake g swell = { s with link := { s.link with
      swellSeen := s.link.swellSeen || swell, activitySeen := s.link.activitySeen || !swell, lastGroup := g } } := if_pos ⟨hon, hgo⟩

section
variable {s : State} {g : Group} {n mv : Nat}

theorem exec_swell (hp : s.powered = true) (hn : 48 ≤ n) : exec (.swell g n) s = .next (s.linkWake g true) := by
  show execSwell g n s = _
  rw [execSwell, if_pos (by simp [hp, hn])]

theorem exec_swell_short (hn : n < 48) : exec (.swell g n) s = .next s := by
  show execSwell g n s = _
  rw [execSwell, if_neg (by simp [hn])]

theorem exec_activity (hp : s.powered = true) (hmv : 100 < mv) (hn : 200 ≤ n) : exec (.activity g mv n) s = .next (s.linkWake g false) := by
  show execActivity g mv n s = _
  rw [execActivity, if_pos (by simp [hp, hmv, hn])]

theorem exec_activity_weak (h : mv ≤ 100 ∨ n < 200) : exec (.activity g mv n) s = .next s := by
  show execActivity g mv n s = _
  rw [execActivity, if_neg (by simp; omega)]

/-- The PHY PLL has locked, and no group trains yet. -/
def locked (s : State) : State := { s with link := { s.link with pllLocked := true } }

/-- The PLL's lock makes all groups train anew. -/
theorem exec_linkPllLock (hp : s.powered = true) (hon : s.mg.linkDom.state = .on) (hoff : s.link.pllLocked = false) :
    exec .linkPllLock s = .next ((upFrom 0 16).foldl (fun s g => s.retrain g) (locked s)) := by
  show execLinkPllLock s = _
  rw [execLinkPllLock, if_pos (by simp [hp, hon, hoff]), locked]

/-- What leaves channels, slices and data as they stand is, once the key is disarmed and with its status, a host WRITE of the port's windows. -/
theorem wrotePort_status {s t : State} (hport : t.port = s.keyOff.port) (hchans : t.chans = s.chans) (hslices : t.slices = s.slices) (hmem : t.mem = s.mem) :
    wrotePort s (t.status .ok) := ⟨congrArg PortSt.armedAt hport, rfl, hchans, hslices, hmem⟩

/-! ## Unaligned groups and the host's request to train anew (R94, R98) -/

theorem exec_groupUnaligned (hs : (s.group g).state = .active) (hrun : 16 ≤ (s.group g).lostRun) :
    exec (.groupUnaligned g) s = .next ((s.retrain g).alert 6 (plainRec 6 0 g)) := if_pos (decide_eq_true ⟨hs, hrun⟩)

theorem exec_groupUnaligned_not (hrun : (s.group g).lostRun < 16) : exec (.groupUnaligned g) s = .next s :=
  if_neg fun h => absurd (of_decide_eq_true h).2 (Nat.not_le.mpr hrun)

theorem exec_retrain (h : s.reached = true) : exec (.retrain g) s = .next ((s.keyOff.retrain g).status .ok) :=
  congrArg Host.Outcome.next (hostReg_port s (fun s => s.retrain g) h)

end

/-! ## The rows -/

/-- The sets sent in a period of training change the group, the free values drawn, and nothing else. -/
theorem onlyGroup_sentSets (s : State) (g : Nat) (done : Byte) : onlyGroup { s with free := (sentSets s g done).free } (sentSets s g done) g := by
  refine ⟨?_, ?_, ?_, fun k hk => ?_⟩
  · rw [sentSets, sendSets_only]; rfl
  · unfold onlyAlerts
    rw [sentSets, sendSets_only]; rfl
  · rw [sentSets, sendSets_only]; rfl
  · rw [sentSets, sendSets_other hk]
    exact group_modGroup_other s g k _ hk

/-- What the group sends in a period of training (Table 8). -/
theorem sentSets_line (s : State) (g : Nat) (done : Byte) : ∃ req : Nat → Nat, (∀ l, req l < 5) ∧ ((s.group g).tphase ≠ .eq → ∀ l, req l = 0)
    ∧ ((sentSets s g done).group g).upFlit = flitOf ((upFrom 0 8).map (fun l => ((s.group g).adapt done).tsBytes g (req l) l)) := by
  obtain ⟨req, hlt, hzero, hs, -⟩ := sendSets_cases (s.modGroup g (·.adapt done)) g
  have hphase : ((s.group g).adapt done).tphase = (s.group g).tphase := adapt_keeps (·.tphase) fun _ _ => rfl
  rw [group_modGroup_same, hphase] at hzero
  refine ⟨req, hlt, hzero, ?_⟩
  rw [sentSets, hs]
  exact (congrArg LaneGroup.upFlit (group_modGroup_same _ g _)).trans (by rw [group_modGroup_same])

/-- Settles O40: each phase ends when every lane meets its condition, the last in ACTIVE; what ends training, begins it anew or wakes the link does so
as its row says. -/
theorem linkTraining : Obligations.LinkTraining := by
  intro s g lanes skews done n mv x u y res
  refine ⟨fun hp hs => ?train, fun hp hs hts => ⟨_, exec_training_ts1 hp hs hts, retrained_retrain s g⟩, exec_training_down, ?limit, fun h => if_neg h,
    ?unaligned, exec_groupUnaligned_not, ?resume, exec_standbyResume_low, exec_standbyResume_not, ?swell, exec_swell_short, ?activity, exec_activity_weak, ?pll,
    ?retrain⟩
  case train =>
    have hphase : y.tphase = x.tphase := received_tphase s g done lanes skews
    have hstate : y.state = .train := (received_state s g done lanes skews).trans hs
    have honly (z : LaneGroup) : onlyGroup u (u.modGroup g (fun _ => z)) g := onlyGroup_modGroup u g _
    refine ⟨⟨onlyGroup_sentSets s g done, sentSets_line s g done⟩, fun hmet => ⟨_, exec_training_wait hp hs hmet, honly y, group_modGroup_same u g _⟩,
      fun hmet hx => ?_, fun hmet hx => ?_, fun hmet hx => ?_, fun hmet hx hremap hshared => ?_⟩
    · obtain ⟨hto, hkept⟩ := nextPhase_detect y (s.remapOk g) (hphase.trans hx)
      refine ⟨_, exec_training_next hp hs hmet (hx ▸ nofun), honly _, ?_⟩
      rw [group_modGroup_same]
      exact ⟨hto, hkept.trans hstate⟩
    · obtain ⟨hoffer, hto, hkept⟩ := nextPhase_eq y (s.remapOk g) (hphase.trans hx)
      refine ⟨_, exec_training_next hp hs hmet (hx ▸ nofun), honly _, ?_⟩
      rw [group_modGroup_same]
      exact ⟨hoffer, hto, hkept.trans hstate⟩
    · obtain ⟨hto, hkept⟩ := nextPhase_config y (s.remapOk g) (hphase.trans hx)
      refine ⟨_, exec_training_next hp hs hmet (hx ▸ nofun), honly _, ?_⟩
      rw [group_modGroup_same]
      exact ⟨hto, hkept.trans hstate⟩
    · have hstays : y.remap = false := (received_remap (hx ▸ nofun)).trans hremap
      have halone : y.shared = false := (received_keeps (·.shared) (fun _ _ => rfl) (fun _ _ _ => rfl) fun _ _ _ => rfl).trans hshared
      exact ⟨_, exec_training_last hp hs hmet hx, trainDone_last u g hstays halone⟩
  case limit =>
    intro hs
    obtain ⟨t, hexec, hgroup⟩ := exec_trainPhaseLimit hs
    refine ⟨_, hexec, ?_, alert_sets t 6 _ (by decide), ?_, fun l hl => ?_⟩ <;> rw [State.alert_read_group, hgroup]
    · rfl
    · exact timedOut_failed x l hl
  case unaligned => exact fun hs hrun => ⟨_, exec_groupUnaligned hs hrun, retrained_of_link rfl (State.alert_link _ 6 _) (retrained_retrain s g), alert_sets _ 6 _ (by decide)⟩
  case resume =>
    intro hp hs hon hshared hcarried
    refine ⟨_, exec_standbyResume hp hs hon hshared hcarried, ?_⟩
    rw [stir_link]
    refine ⟨?_, fun k hk => resumed_other hk, resumed_same s g⟩
    rw [resumed_only]
  case swell => exact fun hp hn hon hgo => ⟨_, exec_swell hp hn, by rw [linkWake_on g true hon hgo]; simp⟩
  case activity => exact fun hp hmv hn hon hgo => ⟨_, exec_activity hp hmv hn, by rw [linkWake_on g false hon hgo]; simp⟩
  case pll =>
    intro hp hon hoff
    obtain ⟨hpll, hdetect⟩ := foldl_retrain_detect (upFrom 0 16) (locked s)
    refine ⟨_, exec_linkPllLock hp hon hoff, ?_⟩
    exact ⟨hpll, fun k => hdetect k (Or.inl ((mem_upFrom 0 16 k).mpr ⟨Nat.zero_le _, by simp⟩))⟩
  case retrain =>
    intro hreach
    obtain ⟨hport, hchans, hslices, hmem⟩ := retrain_frame s.keyOff g
    exact ⟨_, exec_retrain hreach, retrained_of_link rfl (State.status_link _ .ok) (retrained_retrain s.keyOff g), wrotePort_status hport hchans hslices hmem⟩

end Sys2Proof.PreolmondLink
end

section
/-! SUPPORT. The port's registers (04 R107 to R116, 02 R48): the key and the port mode, registers written in PLAIN only, and a WRITE of one register by its address. -/

namespace Sys2Proof.HostAccess
open Sys2Proof Sys2Proof.Machine

/-! ## The key and the port mode (R108, R109) -/

section
variable {s : State} {t a : Nat} {compute : Bool} {confirm : W16}

theorem exec_portKeyArm (arm : W16) (h : s.reached = true) :
    exec (.portKeyArm t arm) s = .next ((s.keyOff.modPort (fun p => { p with armedAt := if arm = 0x7D1E then some t else none })).status .ok) := by
  have harm : arm.toNat = 0x7D1E ↔ arm = 0x7D1E := BitVec.toNat_inj (y := 0x7D1E)
  show Host.Outcome.next (s.hostReg .port .ok (fun s => s.keyWrite t arm.toNat)) = _
  simp only [hostReg_port s _ h, State.keyWrite, harm]

theorem exec_portKeyExpire (h : s.port.armedAt = some a) : exec (.portKeyExpire t) s = if a + 2100000 < t then .next s.keyOff else .next s := by
  show execPortKeyExpire t s = _
  rw [execPortKeyExpire, h]
  rfl

theorem allQuiet_iff (s : State) : (upFrom 0 512).all s.chanQuiet = true ↔ ∀ c : Chan, s.chanQuiet c = true := by
  rw [List.all_eq_true]
  refine ⟨fun h c => h c ((mem_upFrom 0 512 c).mpr ⟨Nat.zero_le _, by omega⟩), fun h c hc => ?_⟩
  obtain ⟨-, hlt⟩ := (mem_upFrom 0 512 c).mp hc
  exact h ⟨c, by omega⟩

/-- What the port die asks of a write of HB_PORT_MODE. -/
theorem modeOk_iff : s.modeOk t compute confirm.toNat = true ↔
    (∃ a, s.port.armedAt = some a ∧ t ≤ a + 2100000) ∧ confirm = 0x82E1 ∧ (∀ c : Chan, s.chanQuiet c = true) ∧ (compute = true → s.mayCompute = true) := by
  have hconfirm : confirm.toNat = 0x82E1 ↔ confirm = 0x82E1 := BitVec.toNat_inj (y := 0x82E1)
  have hcompute : (!compute || s.mayCompute) = true ↔ (compute = true → s.mayCompute = true) := by cases compute <;> simp
  cases harmed : s.port.armedAt with
  | none => simp [State.modeOk, harmed]
  | some a =>
    simp only [State.modeOk, harmed, Bool.and_eq_true, decide_eq_true_eq, hconfirm, allQuiet_iff, hcompute, Option.some.injEq, exists_eq_left', and_assoc]
    rfl

theorem exec_portModeSwitch_ok (h : s.reached = true) (hok : s.modeOk t compute confirm.toNat = true) :
    exec (.portModeSwitch t compute confirm) s = .next ((s.keyOff.modPort (fun p => { p with compute := compute, refused := false })).status .ok) := by
  show execPortModeSwitch t compute confirm s = _
  rw [execPortModeSwitch, if_pos h, State.modeWrite, if_pos hok]

theorem exec_portModeSwitch_refused (h : s.reached = true) (hno : ¬ s.modeOk t compute confirm.toNat = true) :
    exec (.portModeSwitch t compute confirm) s = .next ((s.keyOff.modPort (fun p => { p with refused := true })).status .mode) := by
  show execPortModeSwitch t compute confirm s = _
  rw [execPortModeSwitch, if_pos h, State.modeWrite, if_neg hno]

end

/-! ## Registers written in PLAIN only (R116, 02 R48) -/

theorem hostReg_plain {s : State} (f : State → State) (h : s.reached = true) (hplain : s.port.compute = false) :
    s.hostReg .port (plainOnly s) f = (f s.keyOff).status .ok := by
  have hown : plainOnly s = .ok := by simp [plainOnly, hplain]
  rw [hown, hostReg_port s f h]

theorem hostReg_plain_refused {s : State} (f : State → State) (h : s.reached = true) (hcompute : s.port.compute = true) :
    s.hostReg .port (plainOnly s) f = s.keyOff.status .mode := by
  have hown : plainOnly s = .mode := if_pos hcompute
  rw [hown, hostReg_own s .port .mode f h rfl (by decide)]

/-- The register of window `w` takes the low two bits of the word. -/
theorem regWrite_win (s : State) (w : Fin 1024) (v : W32) :
    s.regWrite (.port (0x1000 + 4 * w.val)) v = s.modPort (fun p => { p with wins := tput p.wins w.val (v &&& 3) }) := by
  have hindex : (0x1000 + 4 * w.val - 0x1000) / 4 = w.val := by omega
  show s.portWrite (0x1000 + 4 * w.val) v = _
  rw [State.portWrite, if_pos (by omega), State.hbWrite, if_neg (by omega), if_neg (by omega), if_pos (by omega), hindex]

/-! ## Blocks of registers as they read (R112) -/

/-- The alert registers stand in their block. -/
theorem blockRead_alert (s : State) (t : Nat) : (s.blockRead t (.port 0x403000)).isNone = false := by
  have hword : s.wordOf t (.port 0x403000) = some s.mg.alert.toNat := rfl
  simp [State.blockRead, upFrom, Target.plus, hword]

/-- No register stands between HB_TIDE_PHASE and those of the link (18 R445). -/
theorem portRead_none (s : State) (t off : Nat) (hlo : 0x4800 ≤ off) (hhi : off < 0x100000) : s.portRead t off = none := by
  have hhb : s.hbRead t off = none := by
    simp only [State.hbRead]
    repeat rw [if_neg (by omega)]
  rw [State.portRead, if_pos hhi, hhb, ite_self]

theorem blockRead_none (s : State) (t b : Nat) (hlo : 0x4800 ≤ b) (hhi : b + 64 ≤ 0x100000) : (s.blockRead t (.port b)).isNone = true := by
  have hwords : ((upFrom 0 16).map (fun k => s.wordOf t (Target.plus (.port b) (4 * k)))).all Option.isNone = true := by
    rw [List.all_map, List.all_eq_true]
    intro k hk
    obtain ⟨-, hlt⟩ := (mem_upFrom 0 16 k).mp hk
    exact congrArg Option.isNone (portRead_none s t (b + 4 * k) (by omega) (by omega))
  simp only [State.blockRead, hwords, if_true, Option.isNone_none]

/-! ## A WRITE of one register, by its address (R110 to R116) -/

/-- Byte enables of word `k` of a block. -/
def wordEn (k : Nat) : W64 := BitVec.ofNat 64 (fld 0xF (4 * k))

/-- A block whose word `k` is `v`. -/
def wordData (k : Nat) (v : W32) : List Byte := List.replicate (4 * k) 0 ++ leBytes 4 v.toNat ++ List.replicate (60 - 4 * k) 0

theorem filter_wordOn_wordEn (k : Fin 16) : (upFrom 0 16).filter (wordOn (wordEn k)) = [k.val] := by
  revert k
  decide

theorem leAt_wordData (k : Nat) (v : W32) : leAt (wordData k v) (4 * k) 4 = v.toNat := by
  have hslice : slice (wordData k v) (4 * k) 4 = leBytes 4 v.toNat := by simp [slice, wordData, List.append_assoc]
  rw [leAt, hslice, leNat_leBytes]
  exact Nat.mod_eq_of_lt v.isLt

/-- Such a WRITE writes one register. -/
theorem wordsOf_word (x : Target) (k : Fin 16) (v : W32) : wordsOf x (wordEn k) (wordData k v) = [(x.plus (4 * k), v)] := by
  simp [wordsOf, filter_wordOn_wordEn, leAt_wordData]

/-- Only the windows, the masks, HB_STRICT and the switch's schedule may refuse a write in the port die (Table 8). -/
theorem regStatus_port_ok (s : State) (off : Nat) (h : (0x2000 ≤ off ∧ off < 0x200000) ∨ 0x400000 ≤ off) : s.regStatus (.port off) = .ok := by
  simp only [State.regStatus]
  rw [if_neg (by omega), if_neg (by omega), if_neg (by omega)]

section
variable {s : State} {t b : Nat} {g : Group} {addr : HostAddr} {v : W32}

/-- A WRITE of one word of the port die that nothing refuses, outside the block of HB_PORT_MODE and the load window: HOLE where its block holds no register, else
the register's own write, answered OK (R115). -/
theorem hostWriteReq_word (k : Fin 16) (hb : b ≠ 0) (hload : inLoad b = false) (hst : s.keyOff.regStatus (.port (b + 4 * k)) = .ok) :
    s.hostWriteReq g t (.port b) (wordEn k) (wordData k v) 0 = if (s.keyOff.blockRead t (.port b)).isNone then s.keyOff.status .hole
      else (s.keyOff.regWriteAt g t (.port (b + 4 * k)) v).status .ok := by
  have hmode : modeTry (.port b) (wordEn k) (wordData k v) = none := by simp [modeTry, hb]
  have hwords : wordsOf (.port b) (wordEn k) (wordData k v) = [(.port (b + 4 * k), v)] := wordsOf_word (.port b) k v
  have hstatus : s.keyOff.wordsStatus [(.port (b + 4 * k), v)] = .ok := by simp [State.wordsStatus, hst]
  have hbars : s.keyOff.modeBars (.port b) = false := rfl
  have hhole : s.keyOff.writeHole t (.port b) = (s.keyOff.blockRead t (.port b)).isNone := by simp [State.writeHole, hload]
  have htide : s.keyOff.tideCause g t false (s.keyOff.partOwned (.port b) (wordEn k)) (.port b) = 0 := rfl
  have hnote : ∀ u : State, u.noteReq t (.port b) = u := fun _ => rfl
  have hmapped : s.keyOff.mappedPage (.port b) = none := rfl
  have hlease : s.keyOff.closedLease (.port b) = false := rfl
  simp [State.hostWriteReq, hmode, hwords, hstatus, hbars, hhole, htide, hnote, hmapped, hlease, State.writeOk, hload]

/-- The same by its address, word `k` of block `b`. -/
theorem exec_registerWrite_port (k : Fin 16) (hx : target (addr.toNat / 64 * 64) = .port b) (hk : addr.toNat % 64 / 4 = k) (hup : s.linkUp g = true)
    (hb : b ≠ 0) (hload : inLoad b = false) (hfree : (0x2000 ≤ b + 4 * k.val ∧ b + 4 * k.val < 0x200000) ∨ 0x400000 ≤ b + 4 * k.val) :
    exec (.registerWrite t addr v g) s = .next (if (s.keyOff.blockRead t (.port b)).isNone then s.keyOff.status .hole
      else (s.keyOff.regWriteAt g t (.port (b + 4 * k)) v).status .ok) := by
  rw [← hostWriteReq_word k hb hload (regStatus_port_ok s.keyOff _ hfree)]
  show execRegisterWrite t addr v s g = _
  simp only [execRegisterWrite, hx, hk, State.reqChan, hup]
  rfl

/-- A WRITE in a channel's window outside COMPUTE (Table 1). -/
theorem exec_registerWrite_barred {c off : Nat} (hx : target (addr.toNat / 64 * 64) = .chan c off) (hup : s.linkUp (groupOf c) = true)
    (hplain : s.port.compute = false) : exec (.registerWrite t addr v g) s = .next ((s.keyOff.status .mode).noteReq t (.chan c off)) := by
  have hmode : ∀ en data, modeTry (.chan c off) en data = none := fun en data => by simp [modeTry]
  have hbars : s.keyOff.modeBars (.chan c off) = true := by simp [State.modeBars, State.keyOff, hplain]
  show execRegisterWrite t addr v s g = _
  simp [execRegisterWrite, hx, State.reqChan, hup, State.hostWriteReq, hmode, hbars]

end

/-- The block of a CH_ register of channel 0. -/
theorem target_chan0 (off : Fin 0x40000) :
    target ((BitVec.ofNat 48 (0x010000E00000 + off.val)).toNat / 64 * 64) = .chan 0 (0xE00000 + off.val / 64 * 64) := by
  have haddr : (BitVec.ofNat 48 (0x010000E00000 + off.val)).toNat = 0x010000E00000 + off.val := by
    rw [BitVec.toNat_ofNat]; omega
  rw [haddr, target, if_neg (by omega), if_pos (by omega), Target.chan.injEq]
  omega

/-! ## The rows -/

/-- Settles O36: each row is a host WRITE of the port's windows; the key, the mode and the address give its case. -/
theorem portRegisters : Obligations.PortRegisters := by
  intro s lane t a arm confirm compute w k v c off p answered hreach
  refine ⟨⟨_, exec_portKeyArm arm hreach, rfl⟩, fun ha hlate => ⟨_, (exec_portKeyExpire ha).trans (if_pos hlate), rfl⟩,
    fun ha hin => (exec_portKeyExpire ha).trans (if_neg (Nat.not_lt.mpr hin)), fun ha hin hconfirm hquiet hmay => ?switch, fun hbad => ?refused,
    fun hplain => ?win, fun hcompute => ⟨_, congrArg Host.Outcome.next (hostReg_plain_refused _ hreach hcompute), rfl⟩,
    fun hplain => ⟨_, congrArg Host.Outcome.next (hostReg_plain _ hreach hplain), rfl⟩,
    fun hcompute => ⟨_, congrArg Host.Outcome.next (hostReg_plain_refused _ hreach hcompute), rfl⟩,
    ⟨_, congrArg Host.Outcome.next (hostReg_port s _ hreach), rfl⟩, fun hup => ?alertMask, fun hup => ?alert, fun hup => ?hole, fun hplain hup => ?barred⟩
  case switch => exact ⟨_, exec_portModeSwitch_ok hreach (modeOk_iff.mpr ⟨⟨a, ha, hin⟩, hconfirm, hquiet, hmay⟩), rfl⟩
  case refused =>
    refine ⟨_, exec_portModeSwitch_refused hreach fun hok => ?_, rfl⟩
    obtain ⟨⟨b, hb, -⟩, hconfirm, hquiet, hmay⟩ := modeOk_iff.mp hok
    rcases hbad with hnone | hwrong | ⟨d, hd⟩ | ⟨hc, hnot⟩
    · rw [hnone] at hb; cases hb
    · exact hwrong hconfirm
    · rw [hquiet d] at hd; cases hd
    · rw [hmay hc] at hnot; cases hnot
  case win => exact ⟨_, congrArg Host.Outcome.next (hostReg_plain _ hreach hplain), by rw [regWrite_win]; rfl⟩
  case alertMask =>
    refine ⟨_, exec_registerWrite_port (b := 0x403000) 1 (by decide) (by decide) hup (by decide) (by decide) (by decide), ?_⟩
    rw [blockRead_alert]
    rfl
  case alert =>
    refine ⟨_, exec_registerWrite_port (b := 0x403000) 0 (by decide) (by decide) hup (by decide) (by decide) (by decide), ?_⟩
    rw [blockRead_alert]
    rfl
  case hole =>
    refine ⟨_, exec_registerWrite_port (b := 0x7000) 0 (by decide) (by decide) hup (by decide) (by decide) (by decide), ?_⟩
    rw [blockRead_none _ _ _ (by decide) (by decide)]
    rfl
  case barred =>
    exact ⟨_, exec_registerWrite_barred (target_chan0 off) hup hplain, ⟨_, PreolmondLink.noteReq_only (s.keyOff.status .mode) t _⟩,
      PreolmondLink.onlyWaits_noteReq (s.keyOff.status .mode) t _⟩

end Sys2Proof.HostAccess
end

section
/-! SUPPORT. What reset leaves (00 R12, logs 4 to 7): every table is empty, so each part of the state reads as it stands before anything is written. -/

namespace Sys2Proof.HostAccess
open Sys2Proof Sys2Proof.Machine

/-! ## Parts of the state at reset -/

theorem reset_ctx (c r : Nat) : State.reset.ctx c r = .zero := rfl

theorem reset_slice (sl : SliceId) : State.reset.slice sl = .zero := rfl

theorem reset_group (g : Nat) : State.reset.group g = .zero := rfl

theorem reset_syncObj (o : ObjRef) : State.reset.syncObj o = .zero := by cases o <;> rfl

theorem reset_win (w : Nat) : State.reset.win w = 1 := rfl

/-- The reset values of the masks fit their registers. -/
theorem maskReset_lt (k : Fin 16) : maskReset k < 2 ^ 32 := by
  revert k
  decide

theorem reset_mask {k : Nat} (hk : k < 16) : State.reset.mask k = maskReset k :=
  (BitVec.toNat_ofNat _ _).trans (Nat.mod_eq_of_lt (maskReset_lt ⟨k, hk⟩))

theorem reset_powered : State.reset.powered = false := rfl

/-- Without power no lane group carries a write. -/
theorem reached_of_unpowered {s : State} (h : s.powered = false) : s.reached = false := by simp [State.reached, h]

/-- Settles O56: nothing has been written yet, so each register reads at its reset value, and each byte of data space as 0. -/
theorem resetState : Obligations.ResetState := by
  refine ⟨⟨fun w _ => reset_win w, fun k hk => reset_mask hk, rfl, rfl, rfl, rfl, rfl, reset_ctx, fun c r => congrArg Ctx.state (reset_ctx c r), fun sl e => ?active,
    fun sl => congrArg SliceSt.layer (reset_slice sl), fun o => congrArg SyncObj.error (reset_syncObj o), rfl, rfl, rfl, rfl, rfl, rfl, rfl, rfl, rfl,
    fun g => congrArg LaneGroup.state (reset_group g), reset_powered, reached_of_unpowered reset_powered⟩, wf_nil, fun _ => rfl⟩
  case active =>
    rw [reset_slice]
    rfl

end Sys2Proof.HostAccess
end

section
/-! SUPPORT. The combined summary of a LAYER's record (05 R160, R190), bit by bit. -/

namespace Sys2Proof.Commands
open Sys2Proof Sys2Proof.Machine

/-- A bit of an OR over summaries. -/
theorem getLsbD_foldl_or (l : List (SliceId × W16)) (t : W16) (k : Nat) :
    (l.foldl (fun t e => t ||| e.2) t).getLsbD k = true ↔ t.getLsbD k = true ∨ ∃ e ∈ l, e.2.getLsbD k = true := by
  induction l generalizing t with
  | nil => simp
  | cons e l ih => rw [List.foldl_cons, ih, BitVec.getLsbD_or, Bool.or_eq_true, List.exists_mem_cons_iff, or_assoc]

/-- A bit of an AND over summaries. -/
theorem getLsbD_foldl_and (l : List (SliceId × W16)) (t : W16) (k : Nat) :
    (l.foldl (fun t e => t &&& e.2) t).getLsbD k = true ↔ t.getLsbD k = true ∧ ∀ e ∈ l, e.2.getLsbD k = true := by
  induction l generalizing t with
  | nil => simp
  | cons e l ih => rw [List.foldl_cons, ih, BitVec.getLsbD_and, Bool.and_eq_true, List.forall_mem_cons, and_assoc]

/-- The masks of the two halves, bit by bit. -/
theorem halves (k : Fin 16) : (0x00FF#16).getLsbD k = decide (k.val < 8) ∧ (0xFF00#16).getLsbD k = decide (8 ≤ k.val) ∧ (0xFFFF#16).getLsbD k = true := by
  revert k
  decide

/-- Settles O10: below bit 8 the OR's half counts, from bit 8 on the AND's. -/
theorem combinedSummary : Obligations.CombinedSummary := by
  intro a l k
  refine ⟨fun hk => ?_, fun hlo hk => ?_, rfl⟩
  · obtain ⟨hlow, hhigh, -⟩ := halves ⟨k, by omega⟩
    have hnot : ¬ 8 ≤ k := by omega
    simp only [combined, BitVec.getLsbD_or, BitVec.getLsbD_and, hlow, hhigh, hk, hnot, decide_true, decide_false, Bool.and_true, Bool.and_false, Bool.or_false]
    simpa using getLsbD_foldl_or (a :: l) 0 k
  · obtain ⟨hlow, hhigh, hall⟩ := halves ⟨k, hk⟩
    have hnot : ¬ k < 8 := by omega
    simp only [combined, BitVec.getLsbD_or, BitVec.getLsbD_and, hlow, hhigh, hlo, hnot, decide_true, decide_false, Bool.and_true, Bool.and_false, Bool.false_or]
    exact (getLsbD_foldl_and (a :: l) _ k).trans (and_iff_right hall)

end Sys2Proof.Commands
end

section
/-! SUPPORT. Clears of counters (02 Table 5, 03 Table 14, 10 R308, 11 Table 3, 12 Tables 3 and 8, 13 R365, 14 R376). -/

namespace Sys2Proof.Commands
open Sys2Proof Sys2Proof.Machine

/-! ## A register of a channel's window (04 R107, R114) -/

section
variable {s : State} {c : Chan} (h : s.winReached (.chan c) = true) (hw : s.winStatus (.chan c) = .ok)
include h hw

/-- A host WRITE that its channel's window serves and whose effect stays in that channel. -/
theorem ran_hostReg {f : State → State} {p : State → Prop} (hf : onlyChan s.keyOff (f s.keyOff) c) (hp : p ((f s.keyOff).status .ok)) :
    ran (.next (s.hostReg (.chan c) .ok f)) fun t => wroteChan s t c ∧ p t :=
  ⟨_, congrArg Host.Outcome.next (BankMemory.hostReg_served f h hw), BankMemory.wroteChan_status hf, hp⟩

/-- One that changes its channel by `g`. -/
theorem ran_hostReg_modChan {f : State → State} (g : Channel → Channel) (hf : f s.keyOff = s.keyOff.modChan c g := by rfl) :
    ran (.next (s.hostReg (.chan c) .ok f)) fun t => wroteChan s t c ∧ t.chan c = g (s.chan c) := by
  refine ran_hostReg h hw (hf ▸ BankMemory.onlyChan_modChan s.keyOff c g) ?_
  rw [State.status_read_chan, hf, chan_modChan_same, State.keyOff_read_chan]

/-- One that changes nothing. -/
theorem ran_hostReg_same {f : State → State} (hf : f s.keyOff = s.keyOff) :
    ran (.next (s.hostReg (.chan c) .ok f)) fun t => wroteChan s t c ∧ t.chan c = s.chan c := by
  refine ran_hostReg h hw (hf.symm ▸ BankMemory.onlyChan_refl s.keyOff c) ?_
  rw [State.status_read_chan, hf, State.keyOff_read_chan]

end

/-! ## What is cleared -/

/-- The lanes of a group once their corrections are cleared. -/
theorem lane_cleared (m : Table Lane) (l : Nat) : tget (tmap m fun _ x => { x with corrBytes := 0 }) l .zero = { tget m l .zero with corrBytes := 0 } := by
  rw [tget, tget, tfind_tmap]
  cases tfind m l <;> rfl

/-! ## Refusals counted (13 R365) -/

/-- A domain whose refusals are cleared, where it is not a bank's; the others stand. -/
theorem dom_refusalClear (s : State) {d : Domain} (hd : ∀ k b, d ≠ .bank k b) :
    otherDoms s (s.refusalClear d) d ∧ (s.refusalClear d).dom d = { s.dom d with refused := 0, refuser := 0 } := by
  cases d with
  | bank k b => exact absurd rfl (hd k b)
  | channel c =>
    refine ⟨fun k hk => ?_, congrArg (fun x : Channel => x.pwr.dom) (chan_modChan_same s c _)⟩
    cases k with
    | bank e b =>
      by_cases he : e.val = c.val
      · simp only [State.refusalClear, State.modDom, State.modPwr, State.dom, he, chan_modChan_same]
        rfl
      · simp only [State.refusalClear, State.modDom, State.modPwr, State.dom, chan_modChan, if_neg he]
    | channel e =>
      have he : e.val ≠ c.val := fun h => hk (congrArg Domain.channel (Fin.ext h))
      exact congrArg (fun x : Channel => x.pwr.dom) (chan_modChan_other s c e _ he)
    | _ => rfl
  | link => exact ⟨fun k hk => by cases k with | link => exact absurd rfl hk | _ => rfl, rfl⟩
  | switch => exact ⟨fun k hk => by cases k with | switch => exact absurd rfl hk | _ => rfl, rfl⟩
  | management => exact ⟨fun k hk => by cases k with | management => exact absurd rfl hk | _ => rfl, rfl⟩
  | security => exact ⟨fun k hk => by cases k with | security => exact absurd rfl hk | _ => rfl, rfl⟩

theorem exec_pwrRefusalClear {s : State} {d : Domain} (hd : ∀ k b, d ≠ .bank k b) (h : s.reached = true) :
    exec (.pwrRefusalClear d) s = .next ((s.keyOff.refusalClear d).status .ok) := by
  have hreg := hostReg_port s (fun s => s.refusalClear d) h
  cases d with
  | bank k b => exact absurd rfl (hd k b)
  | _ => exact congrArg Host.Outcome.next hreg

theorem dom_keyOff (s : State) (d : Domain) : s.keyOff.dom d = s.dom d := by cases d <;> rfl
theorem dom_status (s : State) (st : Status) (d : Domain) : (s.status st).dom d = s.dom d := by cases d <;> rfl

/-- The refusals of a channel's banks once cleared. -/
theorem bank_refusalsClear (m : Table BankSt) (b : Nat) : tget (tmap m fun _ k => { k with pwr := { k.pwr with refused := 0, refuser := 0 } }) b .zero
    = { tget m b .zero with pwr := { (tget m b .zero).pwr with refused := 0, refuser := 0 } } := by
  rw [tget, tget, tfind_tmap]
  cases tfind m b <;> rfl

/-- Settles O44: each row is a host WRITE, of the port's windows or of the channel's, whose effect is the clear alone. -/
theorem counterClears : Obligations.CounterClears := by
  intro s c g d ch hreach
  refine ⟨?link, ?sync, ?errLog, ?therm, fun hd => ?refusal, fun hwin hst => ⟨?mem, ?syncChan, ?check, fun hfree => ?wlog, fun hbusy => ?wlogBusy, ?banks⟩⟩
  case link =>
    refine ⟨_, congrArg Host.Outcome.next (hostReg_port s (fun s => s.linkClear' g) hreach), ⟨rfl, rfl, rfl, rfl, rfl⟩, fun k hk => ?_, ?_, fun l => ?_⟩
    · exact PreolmondLink.group_modGroup_other s.keyOff g k _ hk
    · rw [State.status_read_group, State.linkClear', PreolmondLink.group_modGroup_same]
      rfl
    · rw [State.status_read_group, State.linkClear', PreolmondLink.group_modGroup_same]
      exact lane_cleared _ l
  case sync => exact ⟨_, congrArg Host.Outcome.next (hostReg_port s State.hbSyncClear hreach), ⟨rfl, rfl, rfl, rfl, rfl⟩, rfl⟩
  case errLog => exact ⟨_, congrArg Host.Outcome.next (hostReg_port s State.errClear hreach), ⟨rfl, rfl, rfl, rfl, rfl⟩, rfl⟩
  case therm => exact ⟨_, congrArg Host.Outcome.next (hostReg_port s State.thermClear hreach), ⟨rfl, rfl, rfl, rfl, rfl⟩, rfl⟩
  case refusal =>
    obtain ⟨hothers, hown⟩ := dom_refusalClear s.keyOff hd
    refine ⟨_, exec_pwrRefusalClear hd hreach, fun k hk => ?_, ?_, rfl⟩
    · rw [dom_status, hothers k hk, dom_keyOff]
    · rw [dom_status, hown, dom_keyOff]
  case mem => exact ran_hostReg_modChan hwin hst (fun ch => { ch with mem := { ch.mem with maxDebt := 0, forced := 0 } })
  case syncChan => exact ran_hostReg_modChan hwin hst (fun ch => { ch with msgStale := 0, msgFull := 0, syncFaults := 0, descheds := 0 })
  case check =>
    exact ran_hostReg_modChan hwin hst (fun ch => { ch with chk := { ch.chk with
      retriedOk := 0, readFail := 0, scrubFail := 0, transit := 0, parity := 0, keptFail := 0, lastBlk := 0, lastSrc := 0 } })
  case wlog => exact ran_hostReg_modChan hwin hst (fun ch => { ch with wlog := [] }) (if_pos hfree)
  case wlogBusy => exact ran_hostReg_same hwin hst (if_neg (Bool.eq_false_iff.mp hbusy))
  case banks =>
    obtain ⟨t, ht, hwrote, hchan⟩ := ran_hostReg_modChan (f := fun s => s.bankRefusalsClear c) hwin hst
      (fun ch => { ch with banks := tmap ch.banks fun _ k => { k with pwr := { k.pwr with refused := 0, refuser := 0 } } })
    refine ⟨t, ht, hwrote, by rw [hchan], fun b => ?_⟩
    rw [hchan]
    exact bank_refusalsClear ch.banks b

end Sys2Proof.Commands
end

section
/-! SUPPORT. Context records and commands in flight (05 R142, R146): what each reads after a change, and steps that stay in one record. -/

namespace Sys2Proof.Commands
open Sys2Proof Sys2Proof.Machine

/-! ## Records after a change -/

theorem chan_congr {s t : State} (h : t.chans = s.chans) (k : Nat) : t.chan k = s.chan k := by rw [State.chan, State.chan, h]

theorem ctx_congr {s t : State} (h : t.chans = s.chans) (c r : Nat) : t.ctx c r = s.ctx c r := by rw [State.ctx, State.ctx, chan_congr h]

theorem slice_congr {s t : State} (h : t.slices = s.slices) (sl : SliceId) : t.slice sl = s.slice sl := by rw [State.slice, State.slice, h]

theorem ctx_of_ctxs {x y : Channel} (h : x.ctxs = y.ctxs) (r : Nat) : x.ctx r = y.ctx r := by rw [Channel.ctx, Channel.ctx, h]

@[simp] theorem chan_modCtx (s : State) (c r : Nat) (f : Ctx → Ctx) : (s.modCtx c r f).chan c = (s.chan c).modCtx r f := chan_modChan_same s c _

@[simp] theorem ctx_modCtx (s : State) (c r : Nat) (f : Ctx → Ctx) : (s.modCtx c r f).ctx c r = f (s.ctx c r) := by
  rw [State.ctx, chan_modCtx, Machine.ctx_modCtx, if_pos rfl]
  rfl

theorem ctx_modCtx_other (s : State) {c r q : Nat} (f : Ctx → Ctx) (h : q ≠ r) : (s.modCtx c r f).ctx c q = s.ctx c q := by
  rw [State.ctx, chan_modCtx, Machine.ctx_modCtx, if_neg h]
  rfl

/-- What a change of a channel keeps of its records. -/
theorem ctx_modChan {s : State} {c : Nat} {f : Channel → Channel} (hf : (f (s.chan c)).ctxs = (s.chan c).ctxs) (k r : Nat) : (s.modChan c f).ctx k r = s.ctx k r := by
  rw [State.ctx, chan_modChan]
  split
  · next h => rw [ctx_of_ctxs hf, h]; rfl
  · rfl

/-! ## Steps within one record -/

/-- Of channel `c` only record `r`, and of the rest only alerts, may have changed, but for what of the channel is not records. -/
def InRecord (s t : State) (c r : Nat) : Prop := onlyChan s t c ∧ otherRecords s t c r

theorem inRecord_refl (s : State) (c r : Nat) : InRecord s s c r := ⟨BankMemory.onlyChan_refl s c, fun _ _ => rfl⟩

theorem InRecord.trans {s t u : State} {c r : Nat} (hst : InRecord s t c r) (htu : InRecord t u c r) : InRecord s u c r :=
  ⟨BankMemory.onlyChan_trans hst.1 htu.1, fun q hq => (htu.2 q hq).trans (hst.2 q hq)⟩

theorem inRecord_modCtx (s : State) (c r : Nat) (f : Ctx → Ctx) : InRecord s (s.modCtx c r f) c r :=
  ⟨BankMemory.onlyChan_modChan s c _, fun _ hq => ctx_modCtx_other s f hq⟩

@[simp] theorem noteSat_ctx (s : State) (old limit d c r : Nat) : (s.noteSat old limit d).ctx c r = s.ctx c r :=
  ctx_congr (PreolmondLink.noteSat_chans s old limit d) c r

theorem inRecord_noteSat (s : State) (c r old limit d : Nat) : InRecord s (s.noteSat old limit d) c r :=
  ⟨BankMemory.onlyChan_noteSat s c old limit d, fun q _ => noteSat_ctx s old limit d c q⟩

/-- Work for a channel's domain leaves every record. -/
@[simp] theorem stir_channel_ctx (s : State) (d : Chan) (c r : Nat) : (s.stir (.channel d)).ctx c r = s.ctx c r :=
  ctx_of_ctxs (by rw [PreolmondLink.onlyWaits_stir s d c]) r

theorem inRecord_stir (s : State) (c : Chan) (r : Nat) : InRecord s (s.stir (.channel c)) c r := by
  refine ⟨?_, fun q _ => stir_channel_ctx s c c q⟩
  unfold State.stir
  split
  · exact BankMemory.onlyChan_modChan s c _
  · exact BankMemory.onlyChan_refl s c

@[simp] theorem chanOf_val (c : Chan) : chanOf c = c := Fin.ofNat_val_eq_self c

end Sys2Proof.Commands
end


section
/-! SUPPORT. The doorbell block (05 R146, R150, R152) and the header scan. -/

namespace Sys2Proof.Commands
open Sys2Proof Sys2Proof.Machine

/-! ## Positions of a ring -/

theorem modSub_eq_ahead (a b : Nat) {n : Nat} (hn : n ≠ 0) : modSub a b n = ahead a b n := if_neg hn

/-- A ring size a record may have. -/
theorem ringOk_iff (x : Ctx) : x.ringOk = true ↔ 2 ≤ x.ringSlots ∧ x.ringSlots ≤ 2048 := decide_eq_true_iff

theorem cqOk_iff (x : Ctx) : x.cqOk = true ↔ 2 ≤ x.cqEntries ∧ x.cqEntries ≤ 1024 := decide_eq_true_iff

/-- Commands announced, where the ring has slots. -/
theorem announced_eq_ahead {x : Ctx} (h : x.ringSlots ≠ 0) : x.announced = ahead x.prod x.cons (2 * x.ringSlots) := modSub_eq_ahead _ _ (by omega)

theorem isFree_of_free {x : Ctx} (hs : x.state = .free) (hi : x.inflight = []) : x.isFree = true := decide_eq_true ⟨hs, hi⟩

theorem isFree_of_not_free {x : Ctx} (hs : x.state ≠ .free) : x.isFree = false := decide_eq_false fun h => hs h.1

/-! ## The header scan (05 "Abort") -/

/-- Of a record only what the header scan keeps differs. -/
abbrev OnlyScan (x y : Ctx) : Prop := y = { x with scan := y.scan, found := y.found, tornScan := y.tornScan }

theorem OnlyScan.trans {x y z : Ctx} (hxy : OnlyScan x y) (hyz : OnlyScan y z) : OnlyScan x z := by
  unfold OnlyScan
  calc z = { y with scan := z.scan, found := z.found, tornScan := z.tornScan } := hyz
    _ = { x with scan := z.scan, found := z.found, tornScan := z.tornScan } := by rw [hxy]

theorem onlyScan_scanGo (ch : Channel) (n : Nat) (x : Ctx) : OnlyScan x (scanGo ch n x) := by
  induction n generalizing x with
  | zero => rfl
  | succ n ih =>
    rw [scanGo]
    split
    · rfl
    · split
      rename_i raw torn _
      split
      · rfl
      · refine OnlyScan.trans ?_ (ih _)
        rfl

theorem onlyScan_noteTorn (ch : Channel) (now : Nat) (x : Ctx) : OnlyScan x (x.noteTorn ch now) := by
  unfold Ctx.noteTorn
  extract_lets left
  split <;> rfl

/-- The scan stays in its record, of which it changes what it keeps. -/
theorem scanHeaders_frame (s : State) (c r : Nat) : InRecord s (s.scanHeaders c r) c r ∧ OnlyScan (s.ctx c r) ((s.scanHeaders c r).ctx c r) := by
  unfold State.scanHeaders
  extract_lets ch x
  split
  · rw [ctx_modCtx]
    exact ⟨inRecord_modCtx s c r _, (onlyScan_scanGo ch 2049 _).trans (onlyScan_noteTorn ch _ _)⟩
  · exact ⟨inRecord_refl s c r, rfl⟩

/-! ## Writes of the doorbell block -/

theorem bits_low (v w : Nat) : bits v w 0 = v % 2 ^ (w + 1) := by rw [bits, Nat.pow_zero, Nat.div_one, Nat.sub_zero]

/-- A write of CH_DB_PROD is an overrun: the ring has no size it may have, the position is outside it, beyond its slots or behind what was announced. -/
abbrev badProd (x : Ctx) (p : Nat) : Prop :=
  let n := 2 * x.ringSlots
  x.ringSlots < 2 ∨ 2048 < x.ringSlots ∨ n ≤ p ∨ x.ringSlots < ahead p x.cons n ∨ ahead p x.cons n < ahead x.prod x.cons n

theorem badProd_iff (x : Ctx) (p : Nat) : (!x.ringOk || decide (2 * x.ringSlots ≤ p) || decide (x.ringSlots < modSub p x.cons (2 * x.ringSlots))
    || decide (modSub p x.cons (2 * x.ringSlots) < x.announced)) = true ↔ badProd x p := by
  by_cases hr : x.ringSlots = 0
  · have hn : x.ringOk = false := decide_eq_false (by omega)
    simp [hn, badProd, hr]
  · have ho : x.ringOk = false ↔ x.ringSlots < 2 ∨ 2048 < x.ringSlots := by rw [← Bool.not_eq_true, ringOk_iff]; omega
    simp only [Bool.or_eq_true, Bool.not_eq_true', decide_eq_true_iff, ho, announced_eq_ahead hr, modSub_eq_ahead _ _ (show 2 * x.ringSlots ≠ 0 by omega), or_assoc]

/-- An overrun is counted in its record, and alerts. -/
theorem overrun_frame (s : State) (c r : Nat) : InRecord s (s.overrun c r) c r
    ∧ (s.overrun c r).ctx c r = { s.ctx c r with overruns := satInc (s.ctx c r).overruns 0xFFFF, lastCause := 0x11 } := by
  unfold State.overrun
  refine ⟨(inRecord_modCtx s c r _).trans (inRecord_noteSat _ c r _ _ _), ?_⟩
  rw [noteSat_ctx, ctx_modCtx]

theorem doorbell_same {s : State} {c r : Nat} {v : W32} (h : v.toNat % 4096 = (s.ctx c r).prod) : s.doorbell c r v = s := by
  unfold State.doorbell
  exact if_pos (by rw [bits_low]; exact h)

theorem doorbell_overrun {s : State} {c r : Nat} {v : W32} (h : v.toNat % 4096 ≠ (s.ctx c r).prod) (hb : badProd (s.ctx c r) (v.toNat % 4096)) :
    s.doorbell c r v = s.overrun c r := by
  unfold State.doorbell
  extract_lets ch x p n idle
  have hp : p = v.toNat % 4096 := bits_low _ _
  rw [if_neg (hp ▸ h), if_pos (hp ▸ (badProd_iff (s.ctx c r) _).2 hb)]

/-- A doorbell that announces: the position, what it covers, when the watchdog started, and what the scan keeps. -/
theorem doorbell_announces {s : State} {c : Chan} {r : Nat} {v : W32} (h : v.toNat % 4096 ≠ (s.ctx c r).prod) (hb : ¬ badProd (s.ctx c r) (v.toNat % 4096)) :
    InRecord s (s.doorbell c r v) c r ∧ (s.doorbell c r v).ctx c r = { s.ctx c r with
      prod := v.toNat % 4096, covers := ((s.doorbell c r v).ctx c r).covers, watchdogStart := ((s.doorbell c r v).ctx c r).watchdogStart
      scan := ((s.doorbell c r v).ctx c r).scan, found := ((s.doorbell c r v).ctx c r).found, tornScan := ((s.doorbell c r v).ctx c r).tornScan } := by
  unfold State.doorbell
  extract_lets ch x p n idle
  have hp : p = v.toNat % 4096 := bits_low _ _
  rw [if_neg (hp ▸ h), if_neg (hp ▸ mt (badProd_iff (s.ctx c r) _).1 hb), chanOf_val]
  obtain ⟨hin, hscan⟩ := scanHeaders_frame (s.modCtx c r fun x => { x with
    prod := p, covers := ch.pendingWrites, watchdogStart := if idle then s.refCount else x.watchdogStart }) c r
  refine ⟨((inRecord_modCtx s c r _).trans hin).trans (inRecord_stir _ c r), ?_⟩
  rw [stir_channel_ctx, hscan, ctx_modCtx, hp]

/-- A write of the doorbell block that stays in its record and leaves it as `P` says. -/
theorem ran_record {s : State} {c : Chan} {r : Nat} (h : s.winReached (.chan c) = true) (hw : s.winStatus (.chan c) = .ok) {f : State → State}
    {P : Ctx → Prop} (hf : InRecord s.keyOff (f s.keyOff) c r) (hP : P ((f s.keyOff).ctx c r)) :
    ran (.next (s.hostReg (.chan c) .ok f)) fun t => wroteChan s t c ∧ otherRecords s t c r ∧ P (t.ctx c r) :=
  ran_hostReg h hw hf.1 ⟨hf.2, hP⟩

/-- A record that is not FREE ignores its ring registers. -/
theorem dbRing_ctx {s : State} {c r : Nat} (v : W32) (hs : (s.ctx c r).state ≠ .free) : (s.dbRing c r v).ctx c r = s.ctx c r := by
  unfold State.dbRing
  rw [ctx_modCtx, isFree_of_not_free hs]
  rfl

theorem dbCq_ctx {s : State} {c r : Nat} (v : W32) (hs : (s.ctx c r).state ≠ .free) : (s.dbCq c r v).ctx c r = s.ctx c r := by
  unfold State.dbCq
  rw [ctx_modCtx, isFree_of_not_free hs]
  rfl

theorem cqHead_taken {s : State} {c r : Nat} {v : W32} (ho : (s.ctx c r).cqOk = true) (hh : v.toNat % 2048 < 2 * (s.ctx c r).cqEntries)
    (ha : ahead (s.ctx c r).cqTail (v.toNat % 2048) (2 * (s.ctx c r).cqEntries) ≤ (s.ctx c r).cqEntries) :
    s.cqHead c r v = s.modCtx c r fun x => { x with cqHead := v.toNat % 2048 } := by
  unfold State.cqHead
  extract_lets x h
  have hv : h = v.toNat % 2048 := bits_low _ _
  have hk : modSub x.cqTail h (2 * x.cqEntries) ≤ x.cqEntries := by rwa [hv, modSub_eq_ahead _ _ (Nat.ne_of_gt (Nat.zero_lt_of_lt hh))]
  rw [if_neg (by rw [ho]; decide), if_neg (not_or.2 ⟨Nat.not_le.2 (hv ▸ hh), Nat.not_lt.2 hk⟩), hv]

theorem cqHead_overrun {s : State} {c r : Nat} {v : W32} (ho : (s.ctx c r).cqOk = true) (hh : v.toNat % 2048 < 2 * (s.ctx c r).cqEntries)
    (ha : (s.ctx c r).cqEntries < ahead (s.ctx c r).cqTail (v.toNat % 2048) (2 * (s.ctx c r).cqEntries)) : s.cqHead c r v = s.overrun c r := by
  unfold State.cqHead
  extract_lets x h
  have hv : h = v.toNat % 2048 := bits_low _ _
  have hk : x.cqEntries < modSub x.cqTail h (2 * x.cqEntries) := by rwa [hv, modSub_eq_ahead _ _ (Nat.ne_of_gt (Nat.zero_lt_of_lt hh))]
  rw [if_neg (by rw [ho]; decide), if_pos (.inr hk)]

/-- Settles O6: every write of the block is a host WRITE of the channel's window whose effect stays in the record it names. -/
theorem doorbellRegisters : Obligations.DoorbellRegisters := by
  unfold Obligations.DoorbellRegisters
  refine ⟨?_, ?_⟩
  · intro s c r v h hw
    extract_lets x p n bad
    refine ⟨fun hp => ?_, fun hp hb => ?_, fun hp hb => ?_⟩
    · exact ran_hostReg_same h hw (f := fun s => s.doorbell c r v) (doorbell_same hp)
    · have hd : s.keyOff.doorbell c r v = s.keyOff.overrun c r := doorbell_overrun hp hb
      exact ran_record (P := fun y => y = { x with overruns := satInc x.overruns 0xFFFF, lastCause := 0x11 }) h hw (hd ▸ (overrun_frame s.keyOff c r).1)
        (hd ▸ (overrun_frame s.keyOff c r).2)
    · obtain ⟨hin, hctx⟩ := doorbell_announces (s := s.keyOff) hp hb
      exact ran_record (P := fun y => y = { x with
        prod := p, covers := y.covers, watchdogStart := y.watchdogStart, scan := y.scan, found := y.found, tornScan := y.tornScan }) h hw hin hctx
  · intro s c r v h hw
    extract_lets x k
    refine ⟨fun hs hi => ⟨?_, ?_⟩, fun hs => ⟨?_, ?_⟩, fun h2 hmax => ?_, ?_⟩
    · refine ran_record (f := fun s => s.dbRing c r v)
        (P := fun y => y.ringBase = v.toNat % 2048 ∧ y.ringSlots = v.toNat / 4096 % 4096 ∧ y.prod = x.prod ∧ y.cons = x.cons) h hw (inRecord_modCtx _ c r _) ?_
      rw [State.dbRing, ctx_modCtx, State.keyOff_read_ctx, if_pos (isFree_of_free hs hi)]
      exact ⟨bits_low _ _, rfl, rfl, rfl⟩
    · refine ran_record (f := fun s => s.dbCq c r v)
        (P := fun y => y = { x with cqBase := v.toNat % 2048, cqEntries := v.toNat / 4096 % 2048 }) h hw (inRecord_modCtx _ c r _) ?_
      rw [State.dbCq, ctx_modCtx, State.keyOff_read_ctx, if_pos (isFree_of_free hs hi), bits_low]
      rfl
    · exact ran_hostReg h hw (f := fun s => s.dbRing c r v) (p := fun t => t.ctx c r = x) (BankMemory.onlyChan_modChan s.keyOff c _) (dbRing_ctx (s := s.keyOff) v hs)
    · exact ran_hostReg h hw (f := fun s => s.dbCq c r v) (p := fun t => t.ctx c r = x) (BankMemory.onlyChan_modChan s.keyOff c _) (dbCq_ctx (s := s.keyOff) v hs)
    · have ho : (s.keyOff.ctx c r).cqOk = true := (cqOk_iff x).2 ⟨h2, hmax⟩
      refine ⟨fun hh ha => ?_, fun hh ha => ?_⟩
      · have hd := cqHead_taken ho hh ha
        refine ran_record (f := fun s => s.cqHead c r v) (P := fun y => y = { x with cqHead := k }) h hw (hd ▸ inRecord_modCtx _ c r _) ?_
        rw [hd, ctx_modCtx]
        rfl
      · have hd := cqHead_overrun ho hh ha
        refine ran_hostReg h hw (f := fun s => s.cqHead c r v)
          (p := fun t => (t.ctx c r).cqHead = x.cqHead ∧ (t.ctx c r).overruns = satInc x.overruns 0xFFFF ∧ (t.ctx c r).lastCause = 0x11)
          (hd ▸ (overrun_frame s.keyOff c r).1.1) ?_
        rw [State.status_read_ctx, hd, (overrun_frame s.keyOff c r).2]
        exact ⟨rfl, rfl, rfl⟩
    · exact ran_hostReg_modChan h hw fun ch => { ch with codeBusy := 0, codeLast := 0 }

end Sys2Proof.Commands
end

section
/-! SUPPORT. The sequencer's reading of commands (05 R148, R149, R151). -/

namespace Sys2Proof.Commands
open Sys2Proof Sys2Proof.Machine

/-! ## Bytes -/

theorem upFrom_eq_range' (a n : Nat) : upFrom a n = List.range' a n := by
  induction n generalizing a with
  | zero => rfl
  | succ n ih => rw [upFrom, ih, List.range'_succ]

theorem upFrom_zero (n : Nat) : upFrom 0 n = List.range n := (upFrom_eq_range' 0 n).trans List.range_eq_range'.symm

theorem leNat_zeros (k : Nat) : leNat (List.replicate k 0) = 0 := by
  induction k with
  | zero => rfl
  | succ k ih => rw [List.replicate_succ, leNat, ih]; rfl

theorem leNat_append_zeros (bs : List Byte) (k : Nat) : leNat (bs ++ List.replicate k 0) = leNat bs := by
  induction bs with
  | nil => exact leNat_zeros k
  | cons b bs ih => rw [List.cons_append, leNat, leNat, ih]

/-- A field, where the bytes may end before it does. -/
theorem leAt_eq (bs : List Byte) (a n : Nat) : leAt bs a n = leNat ((bs.drop a).take n) := leNat_append_zeros _ _

/-- The field that ends a string of bytes. -/
theorem leAt_last {bs : List Byte} {a n : Nat} (h : bs.length ≤ a + n) : leAt bs a n = leNat (bs.drop a) := by
  rw [leAt_eq, List.take_of_length_le (by rw [List.length_drop]; omega)]

theorem leAt_lt (bs : List Byte) (a n : Nat) : leAt bs a n < 256 ^ n := by
  have h := leNat_lt (slice bs a n)
  rwa [slice_length] at h

theorem cmdTag_toNat (raw : List Byte) : (cmdTag raw).toNat = leAt raw 4 4 := by
  rw [cmdTag, BitVec.toNat_ofNat]
  exact Nat.mod_eq_of_lt (leAt_lt raw 4 4)

theorem lapBit_eq (p : Nat) {n : Nat} (h : 0 < n) : lapBit p n = if p < n then 1 else 0 := by
  rw [lapBit]
  simp only [Nat.div_eq_zero_iff_lt h]

/-! ## The command at cons -/

section
variable (ch : Channel) (x : Ctx)

/-- The slot a ring position names. -/
def slotAt (p : Nat) : List Byte := rdN ch.cmdBuf ((x.ringBase + p % (2 * x.ringSlots) % x.ringSlots) % 2048 * 32) 32

/-- The slots a command at cons takes, as its header spells them. -/
def slotsAtCons : Nat := max 2 (min 9 (leNat ((slotAt ch x x.cons).take 8) / 16 % 16))

/-- Its bytes. -/
def bytesAtCons : List Byte := (List.range (slotsAtCons ch x)).flatMap (fun i => slotAt ch x (x.cons + i))

/-- Its last eight bytes: phase bit and tag copy. -/
def phaseAtCons : Nat := leNat ((bytesAtCons ch x).drop (32 * slotsAtCons ch x - 8))

/-- They do not close it: the phase bit is not the lap bit of its last position, or the tag copy is not the header's tag. -/
abbrev tornAtCons : Prop :=
  phaseAtCons ch x % 2 ≠ (if (x.cons + slotsAtCons ch x - 1) % (2 * x.ringSlots) < x.ringSlots then 1 else 0)
    ∨ phaseAtCons ch x / 2 ^ 32 ≠ leNat (((bytesAtCons ch x).drop 4).take 4)

theorem ringSlot_eq (p : Nat) : ch.ringSlot x p = slotAt ch x p := by rw [Channel.ringSlot, slotAt, Nat.mod_mul_left_mod]

theorem ringSlot_advance (p i : Nat) : ch.ringSlot x (x.advance p i) = slotAt ch x (p + i) := by
  rw [Channel.ringSlot, slotAt, Ctx.advance]

theorem headerAt_cons : (ch.headerAt x x.cons).2 = slotsAtCons ch x := by
  unfold Channel.headerAt slotsAtCons sizeOf_
  rw [ringSlot_eq]
  rfl

theorem two_le_slotsAtCons : 2 ≤ slotsAtCons ch x := Nat.le_max_left _ _

theorem bytesAtCons_length : (bytesAtCons ch x).length = 32 * slotsAtCons ch x := by
  simp [bytesAtCons, slotAt, List.length_flatMap, Nat.mul_comm]

/-- What the sequencer reads at cons. -/
theorem cmdAt_cons (hn : 0 < x.ringSlots) : (ch.cmdAt x x.cons).1 = bytesAtCons ch x ∧ ((ch.cmdAt x x.cons).2 = true ↔ tornAtCons ch x) := by
  have hraw : (ch.cmdAt x x.cons).1 = bytesAtCons ch x := by
    unfold Channel.cmdAt bytesAtCons
    simp only [headerAt_cons, upFrom_zero, ringSlot_advance]
  refine ⟨hraw, ?_⟩
  have hz := two_le_slotsAtCons ch x
  have hlast : leAt (bytesAtCons ch x) ((bytesAtCons ch x).length - 8) 8 = phaseAtCons ch x := by
    rw [leAt_last (by omega), bytesAtCons_length, phaseAtCons]
  have htorn : (ch.cmdAt x x.cons).2 = decide (leAt (ch.cmdAt x x.cons).1 ((ch.cmdAt x x.cons).1.length - 8) 8 % 2 ≠ lapBit (x.advance x.cons ((ch.headerAt x x.cons).2 - 1)) x.ringSlots
      ∨ leAt (ch.cmdAt x x.cons).1 ((ch.cmdAt x x.cons).1.length - 8) 8 / 2 ^ 32 ≠ (cmdTag (ch.cmdAt x x.cons).1).toNat) := rfl
  rw [htorn, decide_eq_true_iff, hraw, hlast, headerAt_cons, lapBit_eq _ hn, cmdTag_toNat, leAt_eq, Ctx.advance, ← Nat.add_sub_assoc (by omega)]

end

/-! ## Reading and reading again -/

theorem not_any_covers {ch : Channel} {x : Ctx} (h : ∀ i ∈ x.covers, i ∉ ch.pendingWrites) : (!x.covers.any fun i => ch.pendingWrites.contains i) = true := by
  simpa using h

/-- A record that reads its commands, whose command at cons is announced. -/
structure ReadsNext (ch : Channel) (x : Ctx) : Prop where
  runs : ch.runs = true
  dispatches : x.dispatches = true
  two_le : 2 ≤ x.ringSlots
  le_max : x.ringSlots ≤ 2048
  announced : slotsAtCons ch x ≤ ahead x.prod x.cons (2 * x.ringSlots)
  covered : ∀ i ∈ x.covers, i ∉ ch.pendingWrites
  noTornScan : x.tornScan = none

theorem ReadsNext.header_le {ch : Channel} {x : Ctx} (h : ReadsNext ch x) : (ch.headerAt x x.cons).2 ≤ x.announced := by
  have h2 := h.two_le
  rw [headerAt_cons, announced_eq_ahead (by omega)]
  exact h.announced

theorem readable_of {ch : Channel} {r : Nat} (h : ReadsNext ch (ch.ctx r)) (hf : (ch.ctx r).fetched = none) : ch.readable r = true := by
  have hz := two_le_slotsAtCons ch (ch.ctx r)
  have hle := h.header_le
  have hne : (ch.ctx r).announced ≠ 0 := by rw [headerAt_cons] at hle; omega
  simp only [Channel.readable, h.runs, h.dispatches, (ringOk_iff _).2 ⟨h.two_le, h.le_max⟩, hf, Option.isNone_none, not_any_covers h.covered, decide_eq_true (And.intro hne hle), Bool.and_self]

/-- A command read, or read again, with the bytes `f` has: the record keeps its positions and what is in flight. -/
theorem read_then_scan (s : State) (c r : Nat) (f : Fetched) (cov : Ctx → List Nat) :
    let t := (s.modCtx c r fun x => { x with fetched := some f, covers := cov x }).scanHeaders c r
    InRecord s t c r ∧ (t.ctx c r).cons = (s.ctx c r).cons ∧ (t.ctx c r).inflight = (s.ctx c r).inflight ∧ (t.ctx c r).fetched = some f := by
  obtain ⟨hin, hscan⟩ := scanHeaders_frame (s.modCtx c r fun x => { x with fetched := some f, covers := cov x }) c r
  refine ⟨(inRecord_modCtx s c r _).trans hin, ?_⟩
  rw [hscan, ctx_modCtx]
  exact ⟨rfl, rfl, rfl⟩

end Sys2Proof.Commands
end

section
/-! SUPPORT. Completion records and the ends of commands not dispatched (05 R151, R160, R161). -/

namespace Sys2Proof.Commands
open Sys2Proof Sys2Proof.Machine

/-! ## Steps beside a record -/

/-- What of a channel is not its records. -/
theorem inRecord_modChan {s : State} {c : Nat} {f : Channel → Channel} (hf : (f (s.chan c)).ctxs = (s.chan c).ctxs) (r : Nat) : InRecord s (s.modChan c f) c r :=
  ⟨BankMemory.onlyChan_modChan s c f, fun q _ => ctx_modChan hf c q⟩

/-- Of channel `c` only record `r` and what is not records may have changed, and of the rest what the management domain and the ledger hold. -/
def AtRecord (s t : State) (c r : Nat) : Prop :=
  t = { s with chans := t.chans, mg := t.mg, ledger := t.ledger } ∧ (∀ k, k ≠ c → t.chan k = s.chan k) ∧ otherRecords s t c r

theorem InRecord.atRecord {s t : State} {c r : Nat} (h : InRecord s t c r) : AtRecord s t c r := by
  obtain ⟨⟨ht, -, hk⟩, ho⟩ := h
  exact ⟨by rw [ht], hk, ho⟩

theorem AtRecord.trans {s t u : State} {c r : Nat} (hst : AtRecord s t c r) (htu : AtRecord t u c r) : AtRecord s u c r := by
  obtain ⟨ht, hkt, hot⟩ := hst
  obtain ⟨hu, hku, hou⟩ := htu
  refine ⟨?_, fun k hk => (hku k hk).trans (hkt k hk), fun q hq => (hou q hq).trans (hot q hq)⟩
  calc u = { t with chans := u.chans, mg := u.mg, ledger := u.ledger } := hu
    _ = { s with chans := u.chans, mg := u.mg, ledger := u.ledger } := by rw [ht]

theorem AtRecord.mem {s t : State} {c r : Nat} (h : AtRecord s t c r) : t.mem = s.mem := by rw [h.1]
theorem AtRecord.slices {s t : State} {c r : Nat} (h : AtRecord s t c r) : t.slices = s.slices := by rw [h.1]
theorem AtRecord.refCount {s t : State} {c r : Nat} (h : AtRecord s t c r) : t.refCount = s.refCount := by rw [h.1]

theorem traceEv_chans (s : State) (tag : W32) (c r event info : Nat) : (s.traceEv tag c r event info).chans = s.chans := by rw [traceEv_only]

@[simp] theorem traceEv_chan (s : State) (tag : W32) (c r event info k : Nat) : (s.traceEv tag c r event info).chan k = s.chan k :=
  chan_congr (traceEv_chans s tag c r event info) k

@[simp] theorem traceEv_ctx (s : State) (tag : W32) (c r event info k q : Nat) : (s.traceEv tag c r event info).ctx k q = s.ctx k q :=
  ctx_congr (traceEv_chans s tag c r event info) k q

theorem atRecord_traceEv (s : State) (tag : W32) (c r d q event info : Nat) : AtRecord s (s.traceEv tag d q event info) c r :=
  ⟨by rw [traceEv_only], fun _ _ => traceEv_chan .., fun _ _ => traceEv_ctx ..⟩

theorem atRecord_ledgerLeave (s : State) (c : Chan) (r : Rec) (d q : Nat) : AtRecord s (s.ledgerLeave c r) d q := ⟨rfl, fun _ _ => rfl, fun _ _ => rfl⟩

/-! ## The completion record (05 R148, R160, Table 8) -/

theorem recordBytes_eq (f : RecFields) (phase time : Nat) : recordBytes f phase time
    = completionBytes f.tag.toNat f.status f.typ f.cause f.summary f.position f.count f.sl f.engine f.detail phase time := by
  simp only [recordBytes, completionBytes, fld, Nat.mul_comm _ (2 ^ _)]
  rfl

/-- A record of context `x` with its fields written, at reference cycle `now`. -/
def recordedCtx (x : Ctx) (f : RecFields) (now : Nat) : Ctx :=
  { x with lastCause := if f.cause = 0 then x.lastCause else BitVec.ofNat 8 f.cause, watchdogStart := now, cqTail := (x.cqTail + 1) % (2 * x.cqEntries) }

section
variable {s : State} {c r : Nat} (f : RecFields) (hp : (s.ctx c r).state ≠ .free ∨ (s.chan c).cqPlaced r = true)
include hp

theorem writeRecord_eq : s.writeRecord c r f =
    ((s.modCtx c r fun x => { x with lastCause := if f.cause = 0 then x.lastCause else BitVec.ofNat 8 f.cause, watchdogStart := s.refCount }).modChan c fun ch => { ch with
      cmdBuf := wrL ch.cmdBuf (((s.ctx c r).cqBase + (s.ctx c r).cqTail % (s.ctx c r).cqEntries) % 2048 * 32)
        (recordBytes f (lapBit (s.ctx c r).cqTail (s.ctx c r).cqEntries) s.cycles) }).modCtx c r fun x => { x with cqTail := (x.cqTail + 1) % (2 * x.cqEntries) } := by
  unfold State.writeRecord
  refine if_neg fun h => ?_
  rw [Bool.and_eq_true, decide_eq_true_iff, Bool.not_eq_true'] at h
  exact hp.elim (· h.1) (by simp [h.2])

theorem inRecord_writeRecord : InRecord s (s.writeRecord c r f) c r := by
  rw [writeRecord_eq f hp]
  exact ((inRecord_modCtx s c r _).trans (inRecord_modChan rfl r)).trans (inRecord_modCtx _ c r _)

theorem writeRecord_ctx : (s.writeRecord c r f).ctx c r = recordedCtx (s.ctx c r) f s.refCount := by
  rw [writeRecord_eq f hp, ctx_modCtx, ctx_modChan rfl, ctx_modCtx]
  rfl

theorem writeRecord_cmdBuf (he : 2 ≤ (s.ctx c r).cqEntries) : ((s.writeRecord c r f).chan c).cmdBuf =
    wrL (s.chan c).cmdBuf (((s.ctx c r).cqBase + (s.ctx c r).cqTail % (s.ctx c r).cqEntries) % 2048 * 32)
      (completionBytes f.tag.toNat f.status f.typ f.cause f.summary f.position f.count f.sl f.engine f.detail
        (if (s.ctx c r).cqTail < (s.ctx c r).cqEntries then 1 else 0) s.cycles) := by
  rw [writeRecord_eq f hp, chan_modCtx, recordBytes_eq, lapBit_eq _ (by omega)]
  simp only [Channel.modCtx, chan_modChan_same, chan_modCtx]

end

/-- A state that has the record's bytes and its new cq_tail has it recorded. -/
theorem recorded_of {s u t : State} {c r : Nat} {f : RecFields} (hchan : u.chan c = s.chan c) (hcyc : u.cycles = s.cycles)
    (hp : (s.ctx c r).state ≠ .free ∨ (s.chan c).cqPlaced r = true) (he : 2 ≤ (s.ctx c r).cqEntries)
    (hbuf : (t.chan c).cmdBuf = ((u.writeRecord c r f).chan c).cmdBuf) (htail : (t.ctx c r).cqTail = ((u.writeRecord c r f).ctx c r).cqTail) :
    recorded s t c r f.tag.toNat f.status f.typ f.cause f.summary f.position f.count f.sl f.engine f.detail := by
  have hctx : u.ctx c r = s.ctx c r := congrArg (·.ctx r) hchan
  have hp' : (u.ctx c r).state ≠ .free ∨ (u.chan c).cqPlaced r = true := by rwa [hctx, hchan]
  refine ⟨?_, ?_⟩
  · rw [hbuf, writeRecord_cmdBuf f hp' (hctx ▸ he), hctx, hchan, hcyc]
  · rw [htail, writeRecord_ctx f hp', hctx]
    rfl

/-! ## Where a command that ends leaves its context -/

theorem halt_eq (x : Ctx) : x.halt = { x with state := haltedBy x.state } := by
  unfold Ctx.halt haltedBy
  split <;> rfl

theorem plainDetail_toNat (x : Ctx) (typ : Nat) : (BitVec.ofNat 64 (x.plainDetail typ)).toNat = genDetail x typ := by
  have h : x.plainDetail typ < 2 ^ 64 := by
    have hg := x.gen.isLt
    unfold Ctx.plainDetail
    split <;> omega
  rw [BitVec.toNat_ofNat, Nat.mod_eq_of_lt h]
  rfl

/-- The record's fields of a command that ends unread without a fault of its own. -/
def unreadFields (x : Ctx) (f : Fetched) (status cause : Nat) : RecFields :=
  ⟨cmdTag f.raw, status, bits (control f.raw) 3 0, cause, 0, f.pos, 0, 0, 0, (BitVec.ofNat 64 (x.plainDetail (bits (control f.raw) 3 0))).toNat⟩

/-! ## Records and command buffers stand -/

/-- Every channel's records and command buffer, the slices and the clock stand. -/
structure RecordsStand (s t : State) : Prop where
  ctxs : ∀ k, (t.chan k).ctxs = (s.chan k).ctxs
  cmdBuf : ∀ k, (t.chan k).cmdBuf = (s.chan k).cmdBuf
  slices : t.slices = s.slices
  refCount : t.refCount = s.refCount

theorem recordsStand_refl (s : State) : RecordsStand s s := ⟨fun _ => rfl, fun _ => rfl, rfl, rfl⟩

theorem RecordsStand.trans {s t u : State} (hst : RecordsStand s t) (htu : RecordsStand t u) : RecordsStand s u :=
  ⟨fun k => (htu.ctxs k).trans (hst.ctxs k), fun k => (htu.cmdBuf k).trans (hst.cmdBuf k), htu.slices.trans hst.slices, htu.refCount.trans hst.refCount⟩

theorem RecordsStand.ctx {s t : State} (h : RecordsStand s t) (c r : Nat) : t.ctx c r = s.ctx c r := ctx_of_ctxs (h.ctxs c) r

/-- Channels as they stood. -/
theorem recordsStand_of_chans {s t : State} (hc : t.chans = s.chans) (hs : t.slices = s.slices) (hr : t.refCount = s.refCount) : RecordsStand s t :=
  ⟨fun k => by rw [chan_congr hc], fun k => by rw [chan_congr hc], hs, hr⟩

/-- A channel changed beside its records and command buffer. -/
theorem recordsStand_modChan {s : State} {c : Nat} {f : Channel → Channel} (hx : (f (s.chan c)).ctxs = (s.chan c).ctxs) (hb : (f (s.chan c)).cmdBuf = (s.chan c).cmdBuf) :
    RecordsStand s (s.modChan c f) := by
  refine ⟨fun k => ?_, fun k => ?_, rfl, rfl⟩
  · rw [chan_modChan]
    split
    · next h => rw [hx, h]
    · rfl
  · rw [chan_modChan]
    split
    · next h => rw [hb, h]
    · rfl

theorem recordsStand_alert (s : State) (bit : Nat) (e : ErrRec) : RecordsStand s (s.alert bit e) := recordsStand_of_chans rfl rfl rfl

theorem recordsStand_noteSat (s : State) (old limit d : Nat) : RecordsStand s (s.noteSat old limit d) := by
  rw [noteSat_onlyAlerts]
  exact recordsStand_of_chans rfl rfl rfl

theorem recordsStand_timing (s : State) (c i : Nat) : RecordsStand s (s.timing c i) := by
  unfold State.timing
  split
  · exact recordsStand_modChan rfl rfl
  · exact recordsStand_refl s

theorem recordsStand_keptFail (s : State) (blk src : Nat) (tag : W32) : RecordsStand s (s.keptFail blk src tag) := by
  unfold State.keptFail
  extract_lets c n
  refine RecordsStand.trans ?_ (recordsStand_noteSat _ _ _ _)
  refine RecordsStand.trans ?_ (recordsStand_alert _ _ _)
  exact recordsStand_modChan rfl rfl

theorem recordsStand_logWrite (s : State) (a : Nat) (w : Writer) : RecordsStand s (s.logWrite a w) := recordsStand_modChan rfl rfl

theorem recordsStand_putBytes (s : State) (a : Nat) (bs : List Byte) (w : Writer) : RecordsStand s (s.putBytes a bs w) := by
  refine RecordsStand.trans ?_ (recordsStand_logWrite _ a w)
  exact recordsStand_of_chans rfl rfl rfl

theorem recordsStand_putKept (s : State) (a : Nat) (bs : List Byte) (w : Writer) (tag : W32) : RecordsStand s (s.putKept a bs w tag) := by
  refine RecordsStand.trans ?_ (recordsStand_timing _ _ _)
  refine RecordsStand.trans ?_ (recordsStand_logWrite _ a w)
  exact (recordsStand_keptFail s (a / 64) 4 tag).trans (recordsStand_of_chans rfl rfl rfl)

theorem recordsStand_seqWrite (s : State) (a : Nat) (bs : List Byte) (w : Writer) (tag : W32) : RecordsStand s (s.seqWrite a bs w tag) := by
  unfold State.seqWrite
  split
  · exact recordsStand_putKept s a bs w tag
  · exact recordsStand_putBytes s a bs w

theorem recordsStand_writeFlag (s : State) (c r : Nat) (raw : List Byte) (good : Bool) : RecordsStand s (s.writeFlag c r raw good) := by
  unfold State.writeFlag
  extract_lets a tag
  split
  · exact recordsStand_seqWrite _ _ _ _ _
  · exact recordsStand_refl s

theorem recordsStand_settle (s : State) (c : Chan) (r : Rec) (tag : W32) : RecordsStand s (s.settle c r tag) := recordsStand_of_chans rfl rfl rfl

/-! ## Commands that end unread -/

/-- The record of a command that ends unread, before any flag. -/
def unreadRecorded (s : State) (c : Chan) (r : Rec) (f : Fetched) (status cause : Nat) : State :=
  ((s.ledgerLeave c r).writeRecord c r (unreadFields (s.ctx c r) f status cause)).modCtx c r fun x => (x.pass (f.raw.length / 32)).noteDispatch x.freshPos

/-- Where a record `y` stands once a command that found it as `x` has ended unread. -/
def unreadCtx (x y : Ctx) (status : Nat) : Ctx := if status = 4 then y.halt else if x.state = .slack then { y with state := .active } else y

theorem unreadCtx_eq {x y : Ctx} (h : y.state = x.state) (status : Nat) :
    unreadCtx x y status = { y with state := if status = 4 then haltedBy x.state else if x.state = .slack then .active else x.state } := by
  unfold unreadCtx
  rw [halt_eq, h]
  split
  · rfl
  · split
    · rfl
    · rw [← h]

/-- What stands once a command that found its record as `x` has ended unread, `t` being the state with its completion record and its flag. -/
def unreadEnd (x : Ctx) (t : State) (c : Chan) (r : Rec) (f : Fetched) (status cause : Nat) : State :=
  (t.modCtx c r fun y => unreadCtx x y status).traceEv (cmdTag f.raw) c r (if status ≠ 4 then 2 else if cause < 0x10 then 3 else 4) (if status = 4 then cause else status)

theorem atRecord_unreadEnd (x : Ctx) (t : State) (c : Chan) (r : Rec) (f : Fetched) (status cause : Nat) : AtRecord t (unreadEnd x t c r f status cause) c r := by
  unfold unreadEnd
  exact (inRecord_modCtx t c r _).atRecord.trans (atRecord_traceEv _ _ _ _ _ _ _ _)

section
variable (s : State) (c : Chan) (r : Rec) (f : Fetched) (status cause : Nat)

theorem endUnread_noFlag : s.endUnread c r f status cause none false = unreadEnd (s.ctx c r) (unreadRecorded s c r f status cause) c r f status cause := rfl

theorem endUnread_flag : s.endUnread c r f status cause none true =
    unreadEnd (s.ctx c r) (((unreadRecorded s c r f status cause).writeFlag c r f.raw (decide (status ≠ 4))).settle c r (cmdTag f.raw)) c r f status cause := rfl

variable (hp : (s.ctx c r).state ≠ .free ∨ (s.chan c).cqPlaced r = true)
include hp

theorem atRecord_unreadRecorded : AtRecord s (unreadRecorded s c r f status cause) c r :=
  ((atRecord_ledgerLeave s c r c r).trans (inRecord_writeRecord (s := s.ledgerLeave c r) _ hp).atRecord).trans (inRecord_modCtx _ c r _).atRecord

theorem unreadRecorded_ctx : (unreadRecorded s c r f status cause).ctx c r =
    ((recordedCtx (s.ctx c r) (unreadFields (s.ctx c r) f status cause) s.refCount).pass (f.raw.length / 32)).noteDispatch
      (recordedCtx (s.ctx c r) (unreadFields (s.ctx c r) f status cause) s.refCount).freshPos := by
  rw [unreadRecorded, ctx_modCtx, writeRecord_ctx (s := s.ledgerLeave c r) _ hp]
  rfl

/-- A command that has ended unread is passed, and its context where it ends. -/
theorem unreadEnd_ctx {t : State} (ht : RecordsStand (unreadRecorded s c r f status cause) t) :
    let x := s.ctx c r
    let y := (unreadEnd (s.ctx c r) t c r f status cause).ctx c r
    y.cons = (x.cons + f.raw.length / 32) % (2 * x.ringSlots) ∧ y.fetched = none ∧ y.inflight = x.inflight ∧ y.torn = x.torn
      ∧ y.state = (if status = 4 then haltedBy x.state else if x.state = .slack then .active else x.state)
      ∧ y.lastCause = (if cause = 0 then x.lastCause else BitVec.ofNat 8 cause) ∧ y.cqTail = (x.cqTail + 1) % (2 * x.cqEntries) := by
  have hctx := (ht.ctx c r).trans (unreadRecorded_ctx s c r f status cause hp)
  extract_lets x y
  have hy : y = _ := (traceEv_ctx ..).trans (ctx_modCtx ..)
  have hstate : (t.ctx c r).state = x.state := by rw [hctx]; rfl
  rw [hy, unreadCtx_eq hstate, hctx]
  exact ⟨rfl, rfl, rfl, rfl, rfl, rfl, rfl⟩

/-- Its record. -/
theorem unreadEnd_recorded {t : State} (ht : RecordsStand (unreadRecorded s c r f status cause) t) (he : 2 ≤ (s.ctx c r).cqEntries) :
    recorded s (unreadEnd (s.ctx c r) t c r f status cause) c r (cmdTag f.raw).toNat status (leAt f.raw 0 8 % 16) cause 0 f.pos 0 0 0
      (genDetail (s.ctx c r) (leAt f.raw 0 8 % 16)) := by
  have htyp : bits (control f.raw) 3 0 = leAt f.raw 0 8 % 16 := bits_low _ _
  rw [← htyp, ← plainDetail_toNat]
  refine recorded_of (f := unreadFields (s.ctx c r) f status cause) (u := s.ledgerLeave c r) rfl rfl hp he ?_ ?_
  · unfold unreadEnd
    rw [traceEv_chan, chan_modCtx]
    refine (ht.cmdBuf c).trans ?_
    rw [unreadRecorded, chan_modCtx]
    rfl
  · obtain ⟨-, -, -, -, -, -, htail⟩ := unreadEnd_ctx s c r f status cause hp ht
    rw [htail, writeRecord_ctx (s := s.ledgerLeave c r) _ hp]
    rfl

end

end Sys2Proof.Commands
end

section
/-! SUPPORT. Commands read, read again and found torn (05 R148, R149, R151, R161). -/

namespace Sys2Proof.Commands
open Sys2Proof Sys2Proof.Machine

theorem hasEntry_of_cqFree {ch : Channel} {r : Nat} (h : 2 ≤ (ch.ctx r).cqFree) : ch.hasEntry r = true := by
  rw [Channel.hasEntry, decide_eq_true h, Bool.or_true]

/-- Entries free are entries of the ring. -/
theorem cqFree_le (x : Ctx) : x.cqFree ≤ x.cqEntries := by
  unfold Ctx.cqFree
  omega

section
variable {s : State} {c : Chan} {r : Rec}

/-- The sequencer reads the command at cons. -/
theorem exec_commandRead (h : ReadsNext (s.chan c) (s.ctx c r)) (hf : (s.ctx c r).fetched = none) (he : (s.ctx c r).ended.contains (s.ctx c r).cons = false) :
    exec (.commandRead c r none) s = .next ((s.modCtx c r fun x => { x with
      fetched := some ⟨(s.ctx c r).cons, ((s.chan c).cmdAt (s.ctx c r) (s.ctx c r).cons).1, ((s.chan c).cmdAt (s.ctx c r) (s.ctx c r).cons).2,
        (((s.ctx c r).tornScan.filter (fun e => e.1 = (s.ctx c r).cons)).map (·.2)).getD s.refCount⟩
      covers := [] }).scanHeaders c r) := by
  show execCommandRead c r s none = _
  unfold execCommandRead
  extract_lets ch x
  rw [if_neg (by rw [readable_of h hf]; decide), if_neg (by rw [show x.ended.contains x.cons = false from he]; decide)]
  rfl

theorem exec_tornReread {f : Fetched} (h : ReadsNext (s.chan c) (s.ctx c r)) (hf : (s.ctx c r).fetched = some f) (ht : f.torn = true) (hs : s.port.strict = false)
    (hl : s.refCount < f.firstRead + usRef 2) : exec (.tornReread c r none) s =
      .next ((s.modCtx c r fun x => { x with
        fetched := some { f with raw := ((s.chan c).cmdAt (s.ctx c r) (s.ctx c r).cons).1, torn := ((s.chan c).cmdAt (s.ctx c r) (s.ctx c r).cons).2 } }).scanHeaders c r) := by
  have hmore : (!s.port.strict && !s.readExpired f.firstRead && (s.chan c).runs) = true := by
    rw [hs, h.runs, State.readExpired, decide_eq_false (by omega)]
    rfl
  have hle := h.header_le
  show execTornReread c r s none = _
  unfold execTornReread
  extract_lets ch x more
  have hfilter : x.fetched.filter (·.torn) = some f := by rw [show x.fetched = some f from hf, Option.filter_some, if_pos ht]
  rw [hfilter]
  exact (if_neg (by rw [show more f.firstRead = true from hmore]; decide)).trans (if_neg (Nat.not_lt.2 hle))

theorem exec_tornCommand {f : Fetched} (hf : (s.ctx c r).fetched = some f) (ht : f.torn = true) (hd : s.port.strict = true ∨ f.firstRead + usRef 2 ≤ s.refCount)
    (hx : (s.ctx c r).dispatches = true) (hr : (s.chan c).runs = true) (he : (s.chan c).hasEntry r = true) :
    exec (.tornCommand c r) s = .next ((s.endUnread c r f 4 0x10 none false).countTorn c r) := by
  have hdue : ((s.port.strict || s.readExpired f.firstRead) && (s.chan c).runs && (s.chan c).hasEntry r) = true := by
    have h : (s.port.strict || s.readExpired f.firstRead) = true := by simpa [State.readExpired] using hd
    rw [h, hr, he]
    rfl
  show execTornCommand c r s = _
  unfold execTornCommand
  extract_lets ch x due
  have hfilter : x.fetched.filter (·.torn) = some f := by rw [show x.fetched = some f from hf, Option.filter_some, if_pos ht]
  rw [hfilter]
  exact if_pos (by rw [show due f.firstRead = true from hdue, show x.dispatches = true from hx]; rfl)

/-- Counting a torn command changes its count, and may alert. -/
theorem countTorn_frame (s : State) (c r : Nat) : InRecord s (s.countTorn c r) c r
    ∧ (s.countTorn c r).ctx c r = { s.ctx c r with torn := satInc (s.ctx c r).torn 0xFFFF } ∧ ((s.countTorn c r).chan c).cmdBuf = (s.chan c).cmdBuf := by
  unfold State.countTorn
  refine ⟨(inRecord_modCtx s c r _).trans (inRecord_noteSat _ c r _ _ _), ?_, ?_⟩
  · rw [noteSat_ctx, ctx_modCtx]
  · rw [BankMemory.noteSat_chan, chan_modCtx]
    rfl

end

/-- Settles O7: the read and the re-read take the bytes at cons, and a torn command ends as one that is not dispatched. -/
theorem commandReading : Obligations.CommandReading := by
  unfold Obligations.CommandReading
  refine ⟨?_, ?_⟩
  · intro s c r
    extract_lets ch x slot z raw phase torn
    intro hr hx h2 hmax hcons hz hcov hended hscan
    have hnext : ReadsNext ch x := ⟨hr, hx, h2, hmax, hz, hcov, hscan⟩
    obtain ⟨hraw, htorn⟩ := cmdAt_cons ch x (by omega)
    refine ⟨fun hf => ?_, fun f hf ht hs hl => ?_⟩
    · have hfirst : ((x.tornScan.filter (fun e => e.1 = x.cons)).map (·.2)).getD s.refCount = s.refCount := by rw [hscan]; rfl
      obtain ⟨hin, hc, hi, hfetched⟩ := read_then_scan s c r ⟨x.cons, (ch.cmdAt x x.cons).1, (ch.cmdAt x x.cons).2,
        ((x.tornScan.filter (fun e => e.1 = x.cons)).map (·.2)).getD s.refCount⟩ fun _ => []
      exact ⟨_, exec_commandRead hnext hf hended, hin.1, hin.2, hc, hi, _, hfetched, hraw, rfl, hfirst, htorn⟩
    · obtain ⟨hin, hc, -, hfetched⟩ := read_then_scan s c r { f with raw := (ch.cmdAt x x.cons).1, torn := (ch.cmdAt x x.cons).2 } Ctx.covers
      exact ⟨_, exec_tornReread hnext hf ht hs hl, hin.1, hin.2, hc, _, hfetched, hraw, rfl, rfl, htorn⟩
  · intro s c r f x hf ht hd hx hr hfree hp
    have hentries : 2 ≤ x.cqEntries := by have := cqFree_le x; omega
    refine ⟨_, exec_tornCommand hf ht hd hx hr (hasEntry_of_cqFree hfree), ?_⟩
    rw [endUnread_noFlag]
    have hstand := recordsStand_refl (unreadRecorded s c r f 4 0x10)
    obtain ⟨hcons, -, hinflight, htorn, hstate, hcause, -⟩ := unreadEnd_ctx s c r f 4 0x10 hp hstand
    obtain ⟨hbuf, htail⟩ := unreadEnd_recorded s c r f 4 0x10 hp hstand hentries
    have hat := (atRecord_unreadRecorded s c r f 4 0x10 hp).trans (atRecord_unreadEnd x _ c r f 4 0x10)
    rw [cmdTag_toNat] at hbuf
    generalize unreadEnd x (unreadRecorded s c r f 4 0x10) c r f 4 0x10 = u at *
    obtain ⟨hin, hctx, hcmdBuf⟩ := countTorn_frame u c r
    have hall := hat.trans hin.atRecord
    refine ⟨⟨hcmdBuf.trans hbuf, (congrArg Ctx.cqTail hctx).trans htail⟩, ?_⟩
    rw [hctx]
    exact ⟨congrArg (satInc · 0xFFFF) htorn, hstate, hcause, hcons, hinflight, hall.mem, hall.slices, hall.2.2, hall.2.1⟩

end Sys2Proof.Commands
end

section
/-! SUPPORT. The flag of a completed command (05 R161). -/

namespace Sys2Proof.Commands
open Sys2Proof Sys2Proof.Machine

/-- A finished FENCE that asks for a flag at address 0. Its bytes spell tag 0; the tag kept beside them is 1. -/
def twoTags : Cmd where
  pos := 0
  ring := 0
  typ := .fence
  tag := 1
  raw := [0, 0x10]
  desc := []
  prov := []
  skein := []
  phase := .finished
  todo := []
  running := []
  finished := []
  stopped := []
  staging := []
  charge := 0
  lent := 0
  hash := none
  fault := none
  stopReq := false
  released := false
  stopEvent := false
  banks := []
  nextItem := 0
  pools := []

/-- It is the one command in flight of context 0 of channel 0. -/
def completingTwoTags : State := { State.reset with
  chans := [(0, { Channel.zero with awake := true, ctxs := [(0, { Ctx.zero with state := .active, cqEntries := 4, inflight := [twoTags] })] })] }

/-- The flag is the tag that the bytes spell, so memory reads as before. -/
theorem completingTwoTags_flag : ran (exec (.completion 0 0 0) completingTwoTags) fun t => t.mem = [] := ⟨_, rfl, by decide⟩

/-- Refutes O9: the flag takes its tag from the command's bytes and the completion record from the tag kept beside them, and nothing in the statement
makes the two agree. In `completingTwoTags` the bytes spell 0 and the tag is 1, so the flag written is 0 and not 1. -/
theorem not_completionRecord : ¬ Obligations.CompletionRecord := by
  intro h
  obtain ⟨hdone, -⟩ := h completingTwoTags 0 0 0 twoTags rfl (by decide) rfl rfl (by decide) (Or.inl rfl)
  obtain ⟨t, ht, -, -, -, -, -, hflag, -⟩ := hdone ⟨rfl, rfl, rfl⟩ rfl (by decide)
  obtain ⟨u, hu, hmem⟩ := completingTwoTags_flag
  obtain rfl : u = t := Host.Outcome.next.inj (hu.symm.trans ht)
  have hone := hmem.symm.trans (hflag (by decide))
  exact absurd hone (by decide)

end Sys2Proof.Commands
end

section
/-! SUPPORT. Commands in flight (05 R142, R155): what is found after a change of one, and of all. -/

namespace Sys2Proof.Commands
open Sys2Proof Sys2Proof.Machine

/-- A command found stands where it was looked for. -/
theorem pos_of_cmd {x : Ctx} {pos : Nat} {m : Cmd} (h : x.cmd pos = some m) : m.pos = pos := by simpa using List.find?_some h

/-- Commands changed, their positions kept, are found as before. -/
theorem find_map_pos (l : List Cmd) {g : Cmd → Cmd} (hg : ∀ m, (g m).pos = m.pos) (q : Nat) :
    (l.map g).find? (fun m => m.pos = q) = (l.find? fun m => m.pos = q).map g := by
  rw [List.find?_map]
  congr 2
  funext m
  simp [hg]

theorem cmd_modCmd (x : Ctx) {pos : Nat} {f : Cmd → Cmd} (hf : ∀ m, (f m).pos = m.pos) : (x.modCmd pos f).cmd pos = (x.cmd pos).map f := by
  unfold Ctx.modCmd Ctx.cmd
  rw [find_map_pos _ fun m => by split <;> simp [hf]]
  cases h : x.inflight.find? fun m => m.pos = pos with
  | none => rfl
  | some m => simp [pos_of_cmd h]

theorem cmd_modCmd_other (x : Ctx) {pos q : Nat} {f : Cmd → Cmd} (hf : ∀ m, (f m).pos = m.pos) (hq : q ≠ pos) : (x.modCmd pos f).cmd q = x.cmd q := by
  unfold Ctx.modCmd Ctx.cmd
  rw [find_map_pos _ fun m => by split <;> simp [hf]]
  cases h : x.inflight.find? fun m => m.pos = q with
  | none => rfl
  | some m => simp [pos_of_cmd h, hq]

@[simp] theorem ctx_modCmd (s : State) (c r pos : Nat) (f : Cmd → Cmd) : (s.modCmd c r pos f).ctx c r = (s.ctx c r).modCmd pos f := ctx_modCtx s c r _

theorem inRecord_modCmd (s : State) (c r pos : Nat) (f : Cmd → Cmd) : InRecord s (s.modCmd c r pos f) c r := inRecord_modCtx s c r _

/-- A change of one command of a record is one of it alone. -/
theorem onlyCmd_modCmd (s : State) (c : Chan) (r : Rec) (pos : Nat) {f : Cmd → Cmd} (hf : ∀ m, (f m).pos = m.pos) : onlyCmd s (s.modCmd c r pos f) c r pos := by
  obtain ⟨honly, hother⟩ := inRecord_modCmd s c r pos f
  refine ⟨honly, hother, ?_, ?_, fun q hq => ?_⟩
  · rw [State.modCmd, chan_modCtx]
    rfl
  · rw [ctx_modCmd]
    rfl
  · rw [State.cmd, ctx_modCmd]
    exact cmd_modCmd_other _ hf hq

theorem cmd_modCmd_same {s : State} {c r pos : Nat} {f : Cmd → Cmd} (hf : ∀ m, (f m).pos = m.pos) {m : Cmd} (h : s.cmd c r pos = some m) :
    (s.modCmd c r pos f).cmd c r pos = some (f m) := by
  rw [State.cmd, ctx_modCmd, cmd_modCmd _ hf, show (s.ctx c r).cmd pos = some m from h]
  rfl

end Sys2Proof.Commands
end

section
/-! SUPPORT. Aborts, the watchdog and stop events (05 R164 to R166, 10 R299). -/

namespace Sys2Proof.Commands
open Sys2Proof Sys2Proof.Machine

/-! ## Stop requests -/

/-- A change of commands that keeps their positions and every stop asked of them. -/
structure KeepsAsked (g : Cmd → Cmd) : Prop where
  pos : ∀ k, (g k).pos = k.pos
  asked : ∀ k, k.stopReq = true → (g k).stopReq = true

theorem keepsAsked_id : KeepsAsked id := ⟨fun _ => rfl, fun _ h => h⟩

theorem KeepsAsked.comp {f g : Cmd → Cmd} (hg : KeepsAsked g) (hf : KeepsAsked f) : KeepsAsked (g ∘ f) :=
  ⟨fun k => (hg.pos (f k)).trans (hf.pos k), fun k h => hg.asked (f k) (hf.asked k h)⟩

/-- One command changed. -/
theorem keepsAsked_at (pos : Nat) {f : Cmd → Cmd} (hf : KeepsAsked f) : KeepsAsked fun k => if k.pos = pos then f k else k :=
  ⟨fun k => by split; exacts [hf.pos k, rfl], fun k h => by split; exacts [hf.asked k h, h]⟩

/-- From `s` to `t` the commands in flight of a record have changed by `g`, and neither the rest of the record nor memory. -/
structure FlightMap (s t : State) (c r : Nat) (g : Cmd → Cmd) : Prop where
  keeps : KeepsAsked g
  ctx : t.ctx c r = { s.ctx c r with inflight := (s.ctx c r).inflight.map g }
  mem : t.mem = s.mem

/-- A step that leaves the record. -/
theorem flightMap_id {s t : State} {c r : Nat} (hctx : t.ctx c r = s.ctx c r) (hmem : t.mem = s.mem) : FlightMap s t c r id :=
  ⟨keepsAsked_id, by rw [hctx, List.map_id], hmem⟩

theorem FlightMap.trans {s t u : State} {c r : Nat} {f g : Cmd → Cmd} (hst : FlightMap s t c r f) (htu : FlightMap t u c r g) : FlightMap s u c r (g ∘ f) := by
  refine ⟨htu.keeps.comp hst.keeps, ?_, htu.mem.trans hst.mem⟩
  rw [htu.ctx, hst.ctx, ← List.map_map]

theorem flightMap_modCmd (s : State) (c r pos : Nat) {f : Cmd → Cmd} (hf : KeepsAsked f) :
    FlightMap s (s.modCmd c r pos f) c r fun k => if k.pos = pos then f k else k :=
  ⟨keepsAsked_at pos hf, ctx_modCmd s c r pos f, rfl⟩

/-- Slices asked to stop: nothing but slices changes. -/
theorem requestStop_only (s : State) (c r pos : Nat) : s.requestStop c r pos = { s with slices := (s.requestStop c r pos).slices } := by
  have hfold : ∀ (l : List SliceId) (t : State), l.foldl (fun s sl => s.modSlice sl (fun x =>
      if (match x.layer with | some l => decide (l.record.val = r ∧ l.pos = pos) | none => false) then { x with stopReq := true } else x)) t
      = { t with slices := (l.foldl (fun s sl => s.modSlice sl (fun x =>
        if (match x.layer with | some l => decide (l.record.val = r ∧ l.pos = pos) | none => false) then { x with stopReq := true } else x)) t).slices } := by
    intro l
    induction l with
    | nil => exact fun _ => rfl
    | cons sl l ih => exact fun t => ih _
  unfold State.requestStop
  split
  · rfl
  · exact hfold _ s

theorem requestStop_ctx (s : State) (c r pos k q : Nat) : (s.requestStop c r pos).ctx k q = s.ctx k q := ctx_congr (by rw [requestStop_only]) k q

theorem requestStop_mem (s : State) (c r pos : Nat) : (s.requestStop c r pos).mem = s.mem := by rw [requestStop_only]

theorem withdrawWait_ctx (s : State) (c : Chan) (r : Rec) (pos : Nat) : (s.withdrawWait c r pos).ctx c r = s.ctx c r := by
  unfold State.withdrawWait
  extract_lets mine s₁ s₂ drop
  have hsync : (s₂.modChan c fun ch => { ch with sync := tmap ch.sync fun _ => drop }).ctx c r = s₂.ctx c r := ctx_modChan rfl c r
  have hheld : s₂.ctx c r = s₁.ctx c r := ctx_modChan rfl c r
  exact hsync.trans hheld

theorem withdrawWait_mem (s : State) (c : Chan) (r : Rec) (pos : Nat) : (s.withdrawWait c r pos).mem = s.mem := rfl

/-- What a stop request makes of a command in flight besides asking it. -/
theorem stopCmd_flight (s : State) (c : Chan) (r : Rec) (m : Cmd) (hm : m.fault = none) :
    ∃ g, FlightMap s (s.stopCmd c r m) c r g ∧ ∀ k, k.pos = m.pos → (g k).stopReq = true := by
  have hask : KeepsAsked fun k : Cmd => { k with stopReq := true } := ⟨fun _ => rfl, fun _ _ => rfl⟩
  have hend : KeepsAsked fun k : Cmd => { k with stopEvent := true } := ⟨fun _ => rfl, fun _ h => h⟩
  have hnohash : KeepsAsked fun k : Cmd => { k with hash := none } := ⟨fun _ => rfl, fun _ h => h⟩
  unfold State.stopCmd
  rw [if_neg (by rw [hm]; decide)]
  extract_lets u stop
  have hu : FlightMap s u c r fun k => if k.pos = m.pos then { k with stopReq := true } else k := by
    exact FlightMap.trans (flightMap_modCmd s c r m.pos hask) (flightMap_id (requestStop_ctx ..) (requestStop_mem ..))
  clear_value u
  have hasked : ∀ k : Cmd, k.pos = m.pos → (if k.pos = m.pos then { k with stopReq := true } else k).stopReq = true := fun k hk => by rw [if_pos hk]
  have hstop : ∀ v, ∀ g, FlightMap u v c r g → ∃ g, FlightMap s (stop v) c r g ∧ ∀ k, k.pos = m.pos → (g k).stopReq = true := fun v g hv =>
    ⟨_, (hu.trans hv).trans (flightMap_modCmd v c r m.pos hend), fun k hk => (keepsAsked_at m.pos hend).asked _ (hv.keeps.asked _ (hasked k hk))⟩
  have hstay : ∃ g, FlightMap s u c r g ∧ ∀ k, k.pos = m.pos → (g k).stopReq = true := ⟨_, hu, hasked⟩
  split
  · split
    · exact hstay
    · exact hstop _ id (flightMap_id (withdrawWait_ctx u c r m.pos) (withdrawWait_mem u c r m.pos))
  · split
    · exact hstop u id (flightMap_id rfl rfl)
    · exact hstay
  · split
    · exact hstay
    · exact hstop u id (flightMap_id rfl rfl)
  · split
    · exact hstay
    · exact hstop u id (flightMap_id rfl rfl)
  · split
    · exact hstay
    · exact hstop _ _ (flightMap_modCmd u c r m.pos hnohash)
  · exact hstay

/-- Every command of a list without a fault is asked. -/
theorem stopAll_flight (c : Chan) (r : Rec) (l : List Cmd) (s : State) :
    ∃ g, FlightMap s (l.foldl (fun s m => s.stopCmd c r m) s) c r g ∧ ∀ m ∈ l, m.fault = none → ∀ k, k.pos = m.pos → (g k).stopReq = true := by
  induction l generalizing s with
  | nil => exact ⟨id, flightMap_id rfl rfl, by simp⟩
  | cons m l ih =>
    rw [List.foldl_cons]
    obtain ⟨g, hg, hall⟩ := ih (s.stopCmd c r m)
    by_cases hm : m.fault = none
    · obtain ⟨f, hf, hone⟩ := stopCmd_flight s c r m hm
      refine ⟨g ∘ f, hf.trans hg, fun n hn hfault k hk => ?_⟩
      rcases List.mem_cons.1 hn with rfl | hn
      · exact hg.keeps.asked _ (hone k hk)
      · exact hall n hn hfault (f k) ((hf.keeps.pos k).trans hk)
    · have hstay : s.stopCmd c r m = s := if_pos (Option.isSome_iff_ne_none.2 hm)
      rw [hstay] at hg ⊢
      refine ⟨g, hg, fun n hn hfault k hk => ?_⟩
      rcases List.mem_cons.1 hn with rfl | hn
      · exact absurd hfault hm
      · exact hall n hn hfault k hk

/-! ## ABORTING -/

theorem reclaim_only (s : State) (c v : Nat) : s.reclaim c v = { s with ledger := (s.reclaim c v).ledger } := by
  unfold State.reclaim
  split <;> rfl

theorem reclaim_ctx (s : State) (c v k q : Nat) : (s.reclaim c v).ctx k q = s.ctx k q := ctx_congr (by rw [reclaim_only]) k q

theorem reclaim_mem (s : State) (c v : Nat) : (s.reclaim c v).mem = s.mem := by rw [reclaim_only]

/-- A long wait that ends gives back what was lent. -/
theorem endLongWait_ctx (s : State) (c r : Nat) : (s.endLongWait c r).ctx c r =
    { s.ctx c r with longWait := false, inflight := (s.ctx c r).inflight.map fun m => { m with lent := 0 } } := by
  unfold State.endLongWait
  extract_lets x u
  rw [ctx_modCtx, reclaim_ctx]

theorem endLongWait_mem (s : State) (c r : Nat) : (s.endLongWait c r).mem = s.mem := reclaim_mem s c _

/-- The context with a long wait of it ended. -/
def waitEnded (s : State) (c r : Nat) : State := if (s.ctx c r).longWait then s.endLongWait c r else s

/-- Commands in flight and what they stand at, whether or not they lend. -/
theorem waitEnded_ctx (s : State) (c r : Nat) : (waitEnded s c r).ctx c r = { s.ctx c r with longWait := false, inflight := afterWait (s.ctx c r) } := by
  unfold waitEnded afterWait
  split
  · exact endLongWait_ctx s c r
  · next h => rw [← Bool.eq_false_iff.2 h]

theorem waitEnded_mem (s : State) (c r : Nat) : (waitEnded s c r).mem = s.mem := by
  unfold waitEnded
  split
  · exact endLongWait_mem s c r
  · rfl

theorem mem_afterWait {x : Ctx} {m : Cmd} (h : m ∈ x.inflight) : ∃ n ∈ afterWait x, n.pos = m.pos ∧ n.fault = m.fault := by
  unfold afterWait
  split
  · exact ⟨_, List.mem_map_of_mem h, rfl, rfl⟩
  · exact ⟨m, h, rfl, rfl⟩

/-- Every command in flight without a fault is still there and asked to stop. -/
abbrev AllAsked (s t : State) (c r : Nat) : Prop := ∀ m ∈ (s.ctx c r).inflight, m.fault = none → ∃ k ∈ (t.ctx c r).inflight, k.pos = m.pos ∧ k.stopReq = true

/-- The context in ABORTING, nothing asked of its commands yet. -/
def enterAborting (s : State) (c r : Nat) (a : AbortSt) : State := (waitEnded s c r).modCtx c r fun x => { x with state := .aborting, abort := some a }

theorem enterAborting_ctx (s : State) (c r : Nat) (a : AbortSt) : (enterAborting s c r a).ctx c r =
    { s.ctx c r with state := .aborting, abort := some a, longWait := false, inflight := afterWait (s.ctx c r) } := by
  rw [enterAborting, ctx_modCtx, waitEnded_ctx]

/-- What an abort that begins makes of its record and its commands. -/
theorem beginAbort_spec (s : State) (c : Chan) (r : Rec) (a : AbortSt) :
    let x := s.ctx c r
    let t := s.beginAbort c r a
    let y := t.ctx c r
    y.state = .aborting ∧ y.abort = some a ∧ y.cons = x.cons ∧ y.prod = x.prod ∧ y.found = x.found ∧ AllAsked s t c r ∧ t.mem = s.mem := by
  obtain ⟨g, hg, hall⟩ := stopAll_flight c r ((enterAborting s c r a).ctx c r).inflight (enterAborting s c r a)
  intro x t y
  have hy : y = { x with state := .aborting, abort := some a, longWait := false, inflight := (afterWait x).map g } := by
    refine Eq.trans ?_ (hg.ctx.trans ?_)
    · rfl
    · rw [enterAborting_ctx]
  have hasked : AllAsked s t c r := by
    intro m hm hfault
    obtain ⟨n, hn, hpos, hnf⟩ := mem_afterWait hm
    have hn' : n ∈ ((enterAborting s c r a).ctx c r).inflight := by rw [enterAborting_ctx]; exact hn
    refine ⟨g n, ?_, (hg.keeps.pos n).trans hpos, hall n hn' (hnf.trans hfault) n rfl⟩
    rw [show t.ctx c r = _ from hy]
    exact List.mem_map_of_mem hn
  rw [hy]
  exact ⟨rfl, rfl, rfl, rfl, rfl, hasked, hg.mem.trans (waitEnded_mem s c r)⟩

/-! ## ABORT and the watchdog -/

/-- The bytes of the command at `p`, and how many commands before it have no record. -/
def abortBytes (u : State) (c r p : Nat) : List Byte := ((u.chan c).cmdAt (u.ctx c r) p).1
def discardedBefore (u : State) (c r p : Nat) : Nat := countTo (u.chan c) (u.ctx c r) p 2049 (u.ctx c r).cons

/-- The record has taken the ABORT at `p`: cons is past it, and what was found behind it is left. -/
def abortTaken (u : State) (c r p : Nat) (more : List Nat) : State :=
  u.modCtx c r fun x => { x with found := more, cons := x.advance p ((abortBytes u c r p).length / 32), fetched := none }.trimEnded

/-- No abort: what an ABORT joins when it begins one. -/
def noAbort : AbortSt := ⟨0x30, true, 0, 0, 0, 0, 0, []⟩

theorem abortTaken_ctx (u : State) (c r p : Nat) (more : List Nat) :
    let x := u.ctx c r
    let y := (abortTaken u c r p more).ctx c r
    y.found = more ∧ y.cons = (p + (abortBytes u c r p).length / 32) % (2 * x.ringSlots) ∧ y.inflight = x.inflight ∧ y.state = x.state := by
  intro x y
  have hy : y = _ := ctx_modCtx u c r _
  rw [hy]
  exact ⟨rfl, rfl, rfl, rfl⟩

section
variable {s : State} {c : Chan} {r : Rec} {p : Nat} {more : List Nat} (hfound : ((s.scanHeaders c r).ctx c r).found = p :: more)
include hfound

/-- An ABORT that meets none begins one. -/
theorem exec_abort_begins {st : CtxState} (hst : ((s.scanHeaders c r).ctx c r).state = st) (h : st = .active ∨ st = .halted ∨ st = .slack) :
    exec (.abort c r) s = .next ((abortTaken (s.scanHeaders c r) c r p more).beginAbort c r
      (noAbort.join (abortBytes (s.scanHeaders c r) c r p) p (discardedBefore (s.scanHeaders c r) c r p))) := by
  show execAbort c r s = _
  unfold execAbort
  extract_lets u ch x
  rw [show x.found = p :: more from hfound, show x.state = st from hst]
  rcases h with rfl | rfl | rfl <;> rfl

/-- One that meets an abort joins it. -/
theorem exec_abort_joins {a : AbortSt} (hst : ((s.scanHeaders c r).ctx c r).state = .aborting) (ha : ((s.scanHeaders c r).ctx c r).abort = some a) :
    exec (.abort c r) s = .next ((abortTaken (s.scanHeaders c r) c r p more).modCtx c r fun x =>
      { x with abort := some (a.join (abortBytes (s.scanHeaders c r) c r p) p (discardedBefore (s.scanHeaders c r) c r p)) }) := by
  show execAbort c r s = _
  unfold execAbort
  extract_lets u ch x
  rw [show x.found = p :: more from hfound, show x.state = .aborting from hst, show x.abort = some a from ha]
  rfl

end

theorem scanHeaders_mem (s : State) (c r : Nat) : (s.scanHeaders c r).mem = s.mem := (scanHeaders_frame s c r).1.atRecord.mem

/-- The watchdog of a context whose work stands still. -/
theorem exec_watchdogFire {s : State} {c : Chan} {r : Rec} (hst : (s.ctx c r).state = .active ∨ (s.ctx c r).state = .halted)
    (hwork : (s.ctx c r).inflight ≠ [] ∨ (s.ctx c r).announced ≠ 0) (hdue : (s.ctx c r).watchdogStart + (s.ctx c r).watchdogMs * 156250 ≤ s.refCount)
    (hr : (s.chan c).runs = true) : exec (.watchdogFire c r) s =
      .next ((s.modCtx c r fun x => { x with lastCause := 0x31 }).beginAbort c r ⟨0x31, false, 0, 0, 0, 0, 0, []⟩) := by
  show execWatchdogFire c r s = _
  unfold execWatchdogFire
  extract_lets x
  have hdue' : ¬ s.refCount < x.watchdogStart + x.period := Nat.not_lt.2 hdue
  have hstill : (decide (x.state ≠ .active ∧ x.state ≠ .halted) || decide (x.inflight = [] ∧ x.announced = 0) || decide (s.refCount < x.watchdogStart + x.period)) = false := by
    rw [decide_eq_false fun h => hst.elim h.1 h.2, decide_eq_false fun h => hwork.elim (· h.1) (· h.2), decide_eq_false hdue']
    rfl
  rw [hstill, hr]
  rfl

/-! ## The stop event and the end of an abort -/

/-- The fields of an ABORT's record. -/
def abortFields (a : AbortSt) : RecFields := ⟨a.lastTag, 0, 11, 0, 0, a.lastPos, a.discarded, 0, 0, a.firstTag.toNat + fld (a.number % 65536) 32⟩

/-- The state an abort that the host started or joined leaves: its record, its flags, SLACK. -/
def slackAfter (s : State) (c : Chan) (r : Rec) (a : AbortSt) : State :=
  ((a.raws.foldl (fun s raw => (s.writeFlag c r raw true).settle c r (cmdTag raw)) (s.writeRecord c r (abortFields a))).modCtx c r
    fun x => { x with state := .slack, abort := none, summaries := [] }).traceEv a.lastTag c r 2 0

theorem exec_stopEvent {s : State} {c : Chan} {r : Rec} {pos : CmdNo} {m : Cmd} (hst : (s.ctx c r).state = .aborting) (hm : s.cmd c r pos = some m)
    (hasked : m.stopReq = true) (hevent : m.stopEvent = false) (hfault : m.fault = none) (hanswered : m.todo = [] ∧ m.running = [] ∧ m.stopped ≠ []) :
    exec (.stopEvent c r pos) s = .next (s.modCmd c r pos fun m => { m with stopEvent := true }) := by
  show execStopEvent c r pos s = _
  unfold execStopEvent
  rw [hm]
  exact if_pos (by rw [hst, hasked, hevent, hfault, decide_eq_true hanswered]; rfl)

section
variable {s : State} {c : Chan} {r : Rec} {a : AbortSt} (hst : (s.ctx c r).state = .aborting) (ha : (s.ctx c r).abort = some a) (hi : (s.ctx c r).inflight = [])
  (hd : s.ctxDrained c r = true)
include hst ha hi hd

/-- An aborting context with nothing left, that no ABORT joined. -/
theorem exec_abortSlack_watchdog (hb : a.byHost = false) : exec (.abortSlack c r) s = .next (s.modCtx c r fun x => { x with state := .halted, abort := none }) := by
  show execAbortSlack c r s = _
  unfold execAbortSlack
  extract_lets x
  rw [show x.state = .aborting from hst, show x.abort = some a from ha]
  refine (if_neg ?_).trans (if_neg ?_)
  · rw [show x.inflight = [] from hi, hd]
    decide
  · rw [hb]
    decide

/-- One that an ABORT started or joined. -/
theorem exec_abortSlack_host (hb : a.byHost = true) : exec (.abortSlack c r) s = .next (slackAfter s c r a) := by
  show execAbortSlack c r s = _
  unfold execAbortSlack
  extract_lets x
  rw [show x.state = .aborting from hst, show x.abort = some a from ha]
  refine (if_neg ?_).trans ((if_pos hb).trans rfl)
  rw [show x.inflight = [] from hi, hd]
  decide

end

/-- ABORTs that ask for no flag leave only settle notices. -/
theorem abortFlags_only (c : Chan) (r : Rec) (raws : List (List Byte)) (h : ∀ raw ∈ raws, cflag raw = false) (s : State) :
    ∃ q, raws.foldl (fun s raw => (s.writeFlag c r raw true).settle c r (cmdTag raw)) s = { s with settleQ := q } := by
  induction raws generalizing s with
  | nil => exact ⟨s.settleQ, rfl⟩
  | cons raw raws ih =>
    have hflag : s.writeFlag c r raw true = s := by
      unfold State.writeFlag
      extract_lets a tag
      rw [h raw List.mem_cons_self]
      rfl
    rw [List.foldl_cons, hflag]
    obtain ⟨q, hq⟩ := ih (fun raw hraw => h raw (List.mem_cons_of_mem _ hraw)) (s.settle c r (cmdTag raw))
    exact ⟨q, hq⟩

/-- Where its ABORTs ask for no flag. -/
theorem slackAfter_spec {s : State} {c : Chan} {r : Rec} {a : AbortSt} (hst : (s.ctx c r).state = .aborting) (he : 2 ≤ (s.ctx c r).cqEntries)
    (hflags : ∀ raw ∈ a.raws, cflag raw = false) :
    let t := slackAfter s c r a
    (t.ctx c r).state = .slack ∧ (t.ctx c r).abort = none ∧ otherRecords s t c r ∧ t.mem = s.mem
      ∧ recorded s t c r a.lastTag.toNat 0 11 0 0 a.lastPos a.discarded 0 0 (a.firstTag.toNat + 2 ^ 32 * (a.number % 65536)) := by
  have hp : (s.ctx c r).state ≠ .free ∨ (s.chan c).cqPlaced r = true := .inl (by rw [hst]; decide)
  have hin := inRecord_writeRecord (abortFields a) hp
  obtain ⟨q, hq⟩ := abortFlags_only c r a.raws hflags (s.writeRecord c r (abortFields a))
  intro t
  have ht : t = (({ s.writeRecord c r (abortFields a) with settleQ := q }.modCtx c r fun x => { x with state := .slack, abort := none, summaries := [] }).traceEv a.lastTag c r 2 0) := by
    rw [← hq]
    rfl
  have hctx : t.ctx c r = { (s.writeRecord c r (abortFields a)).ctx c r with state := .slack, abort := none, summaries := [] } := by
    rw [ht, traceEv_ctx, ctx_modCtx]
    rfl
  refine ⟨by rw [hctx], by rw [hctx], fun k hk => ?_, ?_, ?_⟩
  · rw [ht, traceEv_ctx, ctx_modCtx_other _ _ hk]
    exact hin.2 k hk
  · rw [ht, traceEv_only]
    exact hin.atRecord.mem
  · have hbuf : (t.chan c).cmdBuf = ((s.writeRecord c r (abortFields a)).chan c).cmdBuf := by
      rw [ht, traceEv_chan, chan_modCtx]
      rfl
    have hrec := recorded_of (f := abortFields a) (u := s) (t := t) rfl rfl hp he hbuf (by rw [hctx])
    rw [Nat.mul_comm]
    exact hrec

/-- Settles O11: an abort is a change of the record and of the commands in flight it asks to stop; the record of its end is the only thing it writes. -/
theorem aborts : Obligations.Aborts := by
  unfold Obligations.Aborts
  refine ⟨?_, ?_⟩
  · intro s c r p more a
    extract_lets u x raw y asked
    obtain ⟨hmore, hcons, hflight, hstate⟩ := abortTaken_ctx u c r p more
    have hmem : u.mem = s.mem := scanHeaders_mem s c r
    refine ⟨fun hfound hst => ?_, fun hfound hst ha => ?_, fun hst hwork hdue hr => ?_⟩
    · obtain ⟨hs, ha, hc, -, hf, hasked, hm⟩ := beginAbort_spec (abortTaken u c r p more) c r (noAbort.join raw p (discardedBefore u c r p))
      rw [AllAsked, hflight] at hasked
      exact ⟨_, exec_abort_begins hfound rfl hst, hs, hc.trans hcons, hf.trans hmore, hasked, hm.trans hmem, _, ha, rfl, rfl, rfl, rfl, rfl, rfl⟩
    · refine ⟨_, exec_abort_joins hfound hst ha, ?_⟩
      beta_reduce
      rw [ctx_modCtx]
      exact ⟨hstate.trans hst, hcons, hmem, _, rfl, rfl, rfl, rfl, rfl, rfl, rfl⟩
    · obtain ⟨hs, ha, hc, hp, -, hasked, hm⟩ := beginAbort_spec (s.modCtx c r fun x => { x with lastCause := 0x31 }) c r ⟨0x31, false, 0, 0, 0, 0, 0, []⟩
      rw [AllAsked, ctx_modCtx] at hasked
      rw [ctx_modCtx] at hc hp
      exact ⟨_, exec_watchdogFire hst hwork hdue hr, hs, hc, hp, hasked, hm, _, ha, rfl, rfl, rfl⟩
  · intro s c r pos m a x
    refine ⟨fun hst hm _ hasked hevent hfault htodo hrun hstop => ?_, fun hst ha hi hd hb he hflags => ?_, fun hst ha hi hd hb => ?_⟩
    · exact ⟨_, exec_stopEvent hst hm hasked hevent hfault ⟨htodo, hrun, hstop⟩, onlyCmd_modCmd s c r pos fun _ => rfl, cmd_modCmd_same (f := fun m => { m with stopEvent := true }) (fun _ => rfl) hm⟩
    · exact ⟨_, exec_abortSlack_host hst ha hi hd hb, slackAfter_spec hst he hflags⟩
    · refine ⟨_, exec_abortSlack_watchdog hst ha hi hd hb, (inRecord_modCtx s c r _).1, (inRecord_modCtx s c r _).2, ?_⟩
      rw [ctx_modCtx]

end Sys2Proof.Commands
end

section
/-! SUPPORT. What accesses of the sequencer and of slices leave unchanged as banks and lanes see them (02 R49, R65). -/

namespace Sys2Proof.Commands
open Sys2Proof Sys2Proof.Machine

/-- Of a channel only banks, the times of activations and what a shadow sampler counts differ. -/
abbrev SeenChan (x y : Channel) : Prop := y = { x with banks := y.banks, acts := y.acts, train := { x.train with lanes := y.train.lanes } }

/-- Of a bank only its open row and the times of its activation and write differ. -/
abbrev SeenBank (x y : BankSt) : Prop := y = { x with openRow := y.openRow, actAt := y.actAt, wrAt := y.wrAt }

/-- Accesses seen by banks and lanes: nothing else of the machine has changed but alerts and the count of free values drawn. -/
structure Touched (s t : State) : Prop where
  only : t = { s with chans := t.chans, mg := t.mg, free := t.free }
  chan : ∀ k, SeenChan (s.chan k) (t.chan k)
  bank : ∀ k b, SeenBank ((s.chan k).bank b) ((t.chan k).bank b)

theorem touched_refl (s : State) : Touched s s := ⟨rfl, fun _ => rfl, fun _ _ => rfl⟩

theorem SeenChan.trans {x y z : Channel} (hxy : SeenChan x y) (hyz : SeenChan y z) : SeenChan x z := by
  unfold SeenChan
  calc z = { y with banks := z.banks, acts := z.acts, train := { y.train with lanes := z.train.lanes } } := hyz
    _ = { x with banks := z.banks, acts := z.acts, train := { x.train with lanes := z.train.lanes } } := by rw [hxy]

theorem SeenBank.trans {x y z : BankSt} (hxy : SeenBank x y) (hyz : SeenBank y z) : SeenBank x z := by
  unfold SeenBank
  calc z = { y with openRow := z.openRow, actAt := z.actAt, wrAt := z.wrAt } := hyz
    _ = { x with openRow := z.openRow, actAt := z.actAt, wrAt := z.wrAt } := by rw [hxy]

theorem Touched.trans {s t u : State} (hst : Touched s t) (htu : Touched t u) : Touched s u := by
  refine ⟨?_, fun k => (hst.chan k).trans (htu.chan k), fun k b => (hst.bank k b).trans (htu.bank k b)⟩
  calc u = { t with chans := u.chans, mg := u.mg, free := u.free } := htu.only
    _ = { s with chans := u.chans, mg := u.mg, free := u.free } := by rw [hst.only]

/-- A fold of steps that only touch. -/
theorem touched_foldl {α : Type} {f : State → α → State} (hf : ∀ s a, Touched s (f s a)) (l : List α) (s : State) : Touched s (l.foldl f s) := by
  induction l generalizing s with
  | nil => exact touched_refl s
  | cons a l ih => exact (hf s a).trans (ih (f s a))

theorem touched_modChan {s : State} {c : Nat} {f : Channel → Channel} (hc : SeenChan (s.chan c) (f (s.chan c)))
    (hb : ∀ b, SeenBank ((s.chan c).bank b) ((f (s.chan c)).bank b)) : Touched s (s.modChan c f) := by
  refine ⟨rfl, fun k => ?_, fun k b => ?_⟩
  · rw [chan_modChan]
    split
    · next h => rw [h]; exact hc
    · rfl
  · rw [chan_modChan]
    split
    · next h => rw [h]; exact hb b
    · rfl

/-- A change of what a bank shows of its row. -/
theorem seenBank_modBank (ch : Channel) (b : Nat) {f : BankSt → BankSt} (hf : ∀ k, SeenBank k (f k)) (i : Nat) : SeenBank (ch.bank i) ((ch.modBank b f).bank i) := by
  rw [bank_modBank]
  split
  · next h => rw [h]; exact hf _
  · rfl

theorem touched_touchRow (s : State) (a : Nat) (write : Bool) : Touched s (s.touchRow a write) := by
  unfold State.touchRow
  extract_lets c b k wr act
  split
  · split
    · exact touched_modChan rfl (seenBank_modBank _ b fun _ => rfl)
    · exact touched_refl s
  · exact touched_modChan rfl (seenBank_modBank (s.chan c) b (f := fun k => { k with openRow := some (offRow a), actAt := some act, wrAt := wr act }) fun _ => rfl)

theorem touched_mismatches (s : State) (c n : Nat) : Touched s (s.mismatches c n) := by
  unfold State.mismatches
  extract_lets t v u
  have hu : Touched s u := touched_modChan rfl fun _ => rfl
  split
  · exact hu.trans ⟨rfl, fun _ => rfl, fun _ _ => rfl⟩
  · exact hu

theorem touched_shadowed (s : State) (a n : Nat) (write tsv : Bool) : Touched s (s.shadowed a n write tsv) := by
  unfold State.shadowed
  extract_lets c ch l d on beats
  split
  · refine Touched.trans ?_ (touched_mismatches _ _ _)
    exact ⟨rfl, fun _ => rfl, fun _ _ => rfl⟩
  · exact touched_refl s

/-- Accesses one way, as banks and lanes see them. -/
def seenBy (write : Bool) (s : State) (l : List (Nat × Nat)) : State :=
  l.foldl (fun s e => s.shadowed e.1 e.2 write false) ((rowHeads (blocksOf l)).foldl (fun s a => s.touchRow a write) s)

theorem touched_seenBy (write : Bool) (s : State) (l : List (Nat × Nat)) : Touched s (seenBy write s l) := by
  unfold seenBy
  have hrows : Touched s ((rowHeads (blocksOf l)).foldl (fun s a => s.touchRow a write) s) := touched_foldl (fun s a => touched_touchRow s a write) _ s
  refine hrows.trans ?_
  generalize (rowHeads (blocksOf l)).foldl (fun s a => s.touchRow a write) s = t
  have hlanes : ∀ (s : State) (e : Nat × Nat), Touched s (s.shadowed e.1 e.2 write false) := fun s e => touched_shadowed s e.1 e.2 write false
  exact touched_foldl hlanes l t

theorem touch_eq (s : State) (reads writes : List (Nat × Nat)) : s.touch reads writes = seenBy true (seenBy false s reads) writes := rfl

theorem touched_touch (s : State) (reads writes : List (Nat × Nat)) : Touched s (s.touch reads writes) :=
  touch_eq s reads writes ▸ (touched_seenBy false s reads).trans (touched_seenBy true _ writes)

section
variable {s t : State} (h : Touched s t)
include h

theorem Touched.mem : t.mem = s.mem := by rw [h.only]
theorem Touched.slices : t.slices = s.slices := by rw [h.only]
theorem Touched.ledger : t.ledger = s.ledger := by rw [h.only]
theorem Touched.port : t.port = s.port := by rw [h.only]
theorem Touched.checkDiff : t.checkDiff = s.checkDiff := by rw [h.only]
theorem Touched.refCount : t.refCount = s.refCount := by rw [h.only]

theorem Touched.slice (sl : SliceId) : t.slice sl = s.slice sl := slice_congr h.slices sl

theorem Touched.ctxs (k : Nat) : (t.chan k).ctxs = (s.chan k).ctxs := by rw [h.chan k]

theorem Touched.recordsStand : RecordsStand s t := ⟨h.ctxs, fun k => by rw [h.chan k], h.slices, h.refCount⟩

theorem Touched.ctx (c r : Nat) : t.ctx c r = s.ctx c r := ctx_of_ctxs (h.ctxs c) r

theorem Touched.failing (blk : Nat) : t.failing blk = s.failing blk := by
  unfold State.failing State.hostOwned State.diff State.win
  rw [h.port, h.checkDiff]

theorem Touched.hostOwned (blk : Nat) : t.hostOwned blk = s.hostOwned blk := by
  unfold State.hostOwned State.win
  rw [h.port]

end

/-- Accesses to nothing. -/
@[simp] theorem touch_nil (s : State) : s.touch [] [] = s := rfl

/-- The sequencer reads what it read before the banks saw it. -/
theorem Touched.seqRead {s t : State} (h : Touched s t) (a n : Nat) : t.seqRead a n = s.seqRead a n := by
  unfold State.seqRead
  simp only [h.failing, h.mem]

end Sys2Proof.Commands
end

section
/-! SUPPORT. Commands of the sequencer and the start of a LAYER (05 R154, R158; 06 R174, R181, R185). -/

namespace Sys2Proof.Commands
open Sys2Proof Sys2Proof.Machine

/-! ## Steps within one command -/

theorem onlyCmd_trans {s t u : State} {c : Chan} {r : Rec} {pos : Nat} (hst : onlyCmd s t c r pos) (htu : onlyCmd t u c r pos) : onlyCmd s u c r pos := by
  obtain ⟨hs1, hs2, hs3, hs4, hs5⟩ := hst
  obtain ⟨ht1, ht2, ht3, ht4, ht5⟩ := htu
  refine ⟨BankMemory.onlyChan_trans hs1 ht1, fun q hq => (ht2 q hq).trans (hs2 q hq), ?_, ?_, fun q hq => (ht5 q hq).trans (hs5 q hq)⟩
  · calc u.chan c = { t.chan c with ctxs := (u.chan c).ctxs } := ht3
      _ = { s.chan c with ctxs := (u.chan c).ctxs } := by rw [hs3]
  · calc u.ctx c r = { t.ctx c r with inflight := (u.ctx c r).inflight } := ht4
      _ = { s.ctx c r with inflight := (u.ctx c r).inflight } := by rw [hs4]

/-! ## SIGNAL, WAIT, FENCE, HINT -/

theorem fresh_of {m : Cmd} {t : CmdType} (ht : m.typ = t) (hp : m.phase = .dispatched) (hr : m.stopReq = false) (he : m.stopEvent = false) : m.fresh t = true := by
  rw [Cmd.fresh, decide_eq_true ⟨ht, hp⟩, hr, he]
  rfl

/-- A command that begins, or is done at once. -/
theorem begins_spec {s : State} {c : Chan} {r : Rec} {pos : CmdNo} {m : Cmd} (hm : (s.ctx c r).cmd pos = some m) (p : Phase) :
    onlyCmd s (s.begin_ c r pos p) c r pos ∧ (s.begin_ c r pos p).cmd c r pos = some { m with phase := p } :=
  ⟨onlyCmd_modCmd s c r pos fun _ => rfl, cmd_modCmd_same (f := fun m => { m with phase := p }) (fun _ => rfl) hm⟩

section
variable {s : State} {c : Chan} {r : Rec} {pos : CmdNo} {m : Cmd} (hm : (s.ctx c r).cmd pos = some m)
include hm

theorem exec_signal {o : ObjRef} (hf : m.fresh .signal = true) (ho : (s.ctx c r).oldest m = true) (hv : (s.ctx c r).vobj c (bodyF m.raw 7 0) = some o) :
    exec (.signal c r pos) s = .next ((s.begin_ c r pos .executing).send o (.signal (BitVec.ofNat 32 (bodyF m.raw 63 32))) (cmdParty c r (s.ctx c r) m)) := by
  show execSignal c r pos s = _
  unfold execSignal
  extract_lets x
  rw [hm]
  refine (if_neg (by rw [hf, ho]; decide)).trans ?_
  rw [hv]

theorem exec_wait {o : ObjRef} (hf : m.fresh .wait = true) (hv : (s.ctx c r).vobj c (bodyF m.raw 7 0) = some o) :
    exec (.wait c r pos) s = .next ((s.begin_ c r pos .executing).send o (.wait (BitVec.ofNat 32 (bodyF m.raw 63 32)) (bodyF m.raw 8 8 = 1)) (cmdParty c r (s.ctx c r) m)) := by
  show execWait c r pos s = _
  unfold execWait
  extract_lets x
  rw [hm]
  refine (if_neg (by rw [hf]; decide)).trans ?_
  rw [hv]

theorem exec_fenceChannel (hf : m.fresh .fence = true) (hb : bodyF m.raw 1 0 = 2) (ho : (s.ctx c r).oldest m = true) :
    exec (.fenceChannel c r pos) s = .next (s.begin_ c r pos .finished) := by
  show execFenceChannel c r pos s = _
  unfold execFenceChannel
  extract_lets x
  rw [hm]
  exact if_pos (by rw [hf, hb, ho]; rfl)

theorem exec_fenceModule (hf : m.fresh .fence = true) (hb : bodyF m.raw 1 0 = 3) (ho : (s.ctx c r).oldest m = true) (hl : s.linkClear c = true) :
    exec (.fenceModule c r pos) s = .next (s.begin_ c r pos .finished) := by
  show execFenceModule c r pos s = _
  unfold execFenceModule
  extract_lets x
  rw [hm]
  exact if_pos (by rw [hf, hb, ho, hl]; rfl)

/-- Requests of the channel not yet performed hold it. -/
theorem exec_fenceModule_holds (hl : s.linkClear c = false) : exec (.fenceModule c r pos) s = .next s := by
  show execFenceModule c r pos s = _
  unfold execFenceModule
  extract_lets x
  rw [hm]
  exact if_neg (by rw [hl, Bool.and_false]; decide)

theorem exec_hintCodePrefetch (hf : m.fresh .hint = true) (hb : bodyF m.raw 3 0 = 0) : exec (.hintCodePrefetch c r pos) s = .next (s.begin_ c r pos .finished) := by
  show execHintCodePrefetch c r pos s = _
  unfold execHintCodePrefetch
  rw [State.cmd, hm]
  exact if_pos (by rw [hf, hb]; rfl)

theorem exec_hintRowOpen (hf : m.fresh .hint = true) (hb : bodyF m.raw 3 0 = 1) : exec (.hintRowOpen c r pos) s = .next (s.begin_ c r pos .finished) := by
  show execHintRowOpen c r pos s = _
  unfold execHintRowOpen
  rw [State.cmd, hm]
  exact if_pos (by rw [hf, hb]; rfl)

end

/-! ## Commands all of whose slices are done -/

/-- A command once every slice's part of it is done. -/
def whenDone (m : Cmd) : Cmd := if m.todo = [] ∧ m.running = [] ∧ m.stopped = [] ∧ m.fault = none then { m with phase := .finished } else m

theorem whenDone_pos (m : Cmd) : (whenDone m).pos = m.pos := by
  unfold whenDone
  split <;> rfl

theorem onlyCmd_allDone (s : State) (c : Chan) (r : Rec) (pos : Nat) : onlyCmd s (s.allDone c r pos) c r pos := onlyCmd_modCmd s c r pos whenDone_pos

theorem cmd_allDone {s : State} {c r pos : Nat} {m : Cmd} (h : s.cmd c r pos = some m) : (s.allDone c r pos).cmd c r pos = some (whenDone m) :=
  cmd_modCmd_same whenDone_pos h

theorem hashedDone_eq {s : State} {c : Chan} {r : Rec} {pos : Nat} {m : Cmd} (h : s.cmd c r pos = some m) : s.hashedDone c r pos =
    if m.typ = .layer ∧ m.hashed = true ∧ workSlices c m.typ m.raw = [] then s.allDone c r pos else s := by
  unfold State.hashedDone
  rw [h]

/-! ## LAYER takes its skein words -/

/-- Skein words from bytes. -/
def wordsOf (bs : List Byte) (n : Nat) : List W32 := (upFrom 0 n).map fun i => BitVec.ofNat 32 (leAt bs (4 * i) 4)

theorem wordsOf_getElem? (bs : List Byte) {n i : Nat} (h : i < n) : (wordsOf bs n)[i]? = some (BitVec.ofNat 32 (leNat ((bs.drop (4 * i)).take 4))) := by
  rw [wordsOf, List.getElem?_map, upFrom_getElem? 0 n i h, Nat.zero_add, ← leAt_eq]
  rfl

/-- The bytes of data memory LAYER reads its words from: none where they are its inline data. -/
def layerReads (raw : List Byte) : List (Nat × Nat) := if bodyF raw 44 44 = 0 then [] else [(bodyF raw 103 64, 4 * bodyF raw 57 51)]

/-- LAYER with its words. -/
def layerTaken (u : State) (c : Chan) (r : Rec) (pos : Nat) (bs : List Byte) (n : Nat) : State :=
  u.modCmd c r pos fun m => { m with phase := .executing, skein := wordsOf bs n }

section
variable {s : State} {c : Chan} {r : Rec} {pos : CmdNo} {m : Cmd} {bs : List Byte} (hm : s.cmd c r pos = some m) (ht : m.typ = .layer) (hp : m.phase = .dispatched) (hs : sound m)
include hm ht hp hs

theorem exec_layer (hin : bodyF m.raw 44 44 = 0 → bs = (inlineData m.raw).take (4 * bodyF m.raw 57 51))
    (hmem : bodyF m.raw 44 44 ≠ 0 → s.banksServe [(bodyF m.raw 103 64, 4 * bodyF m.raw 57 51)] = true ∧ s.seqRead (bodyF m.raw 103 64) (4 * bodyF m.raw 57 51) = .ok bs) :
    exec (.layer c r pos) s = .next ((layerTaken (s.touch (layerReads m.raw) []) c r pos bs (bodyF m.raw 57 51)).hashedDone c r pos) := by
  obtain ⟨hr, he, hf⟩ := hs
  have hgoes : m.goes = true := by rw [Cmd.goes, hr, he, hf]; rfl
  show execLayer c r pos s = _
  unfold execLayer
  rw [hm]
  refine (if_neg (by rw [fresh_of ht hp hr he, hgoes]; decide)).trans ?_
  by_cases hz : bodyF m.raw 44 44 = 0
  · simp only [layerReads, if_pos hz, touch_nil, hin hz]
    rfl
  · obtain ⟨hserve, hread⟩ := hmem hz
    simp only [layerReads, if_neg hz, hserve, (touched_touch s _ _).seqRead, hread]
    rfl

end

/-- One that selects no slice is done at once where its digest is formed. -/
theorem layerTaken_spec {u : State} {c : Chan} {r : Rec} {pos : CmdNo} {m : Cmd} (bs : List Byte) (n : Nat) (hu : u.cmd c r pos = some m) (ht : m.typ = .layer)
    (htodo : m.todo = workSlices c .layer m.raw) (hrun : m.running = []) (hstop : m.stopped = []) (hfault : m.fault = none) :
    onlyCmd u ((layerTaken u c r pos bs n).hashedDone c r pos) c r pos ∧ ((layerTaken u c r pos bs n).hashedDone c r pos).cmd c r pos
      = some { m with phase := if m.todo = [] ∧ m.hashed = true then .finished else .executing, skein := wordsOf bs n } := by
  have honly : onlyCmd u (layerTaken u c r pos bs n) c r pos := onlyCmd_modCmd u c r pos fun _ => rfl
  have hcmd : (layerTaken u c r pos bs n).cmd c r pos = some { m with phase := .executing, skein := wordsOf bs n } :=
    cmd_modCmd_same (f := fun m => { m with phase := .executing, skein := wordsOf bs n }) (fun _ => rfl) hu
  have heq := hashedDone_eq hcmd
  by_cases hdone : m.todo = [] ∧ m.hashed = true
  · have hcond : m.typ = .layer ∧ m.hashed = true ∧ workSlices c m.typ m.raw = [] := ⟨ht, hdone.2, by rw [ht, ← htodo, hdone.1]⟩
    have hwhen : whenDone { m with phase := .executing, skein := wordsOf bs n } = { m with phase := .finished, skein := wordsOf bs n } :=
      if_pos ⟨hdone.1, hrun, hstop, hfault⟩
    rw [heq.trans (if_pos hcond), if_pos hdone, ← hwhen]
    exact ⟨onlyCmd_trans honly (onlyCmd_allDone _ c r pos), cmd_allDone hcmd⟩
  · have hcond : ¬ (m.typ = .layer ∧ m.hashed = true ∧ workSlices c m.typ m.raw = []) := fun ⟨_, hh, hw⟩ => hdone ⟨by rw [htodo, ← ht, hw], hh⟩
    rw [heq.trans (if_neg hcond), if_neg hdone]
    exact ⟨honly, hcmd⟩

/-! ## The start of a LAYER on a slice (06 R174) -/

/-- Slices, memory and banks stand. -/
structure BanksStand (s t : State) : Prop where
  slices : t.slices = s.slices
  mem : t.mem = s.mem
  banks : ∀ k, (t.chan k).banks = (s.chan k).banks

theorem BanksStand.trans {s t u : State} (hst : BanksStand s t) (htu : BanksStand t u) : BanksStand s u :=
  ⟨htu.slices.trans hst.slices, htu.mem.trans hst.mem, fun k => (htu.banks k).trans (hst.banks k)⟩

theorem banksStand_modChan {s : State} {c : Nat} {f : Channel → Channel} (hf : (f (s.chan c)).banks = (s.chan c).banks) : BanksStand s (s.modChan c f) := by
  refine ⟨rfl, rfl, fun k => ?_⟩
  rw [chan_modChan]
  split
  · next h => rw [hf, h]
  · rfl

theorem banksStand_noteSat (s : State) (old limit d : Nat) : BanksStand s (s.noteSat old limit d) := by
  rw [noteSat_onlyAlerts]
  exact ⟨rfl, rfl, fun _ => rfl⟩

theorem banksStand_dropMail (s : State) (sl : SliceId) (m : Mail) (cause : Nat) : BanksStand s (s.dropMail sl m cause) := by
  unfold State.dropMail
  extract_lets c ch u
  have hu : BanksStand s u := by
    simp only [u]
    split
    · refine BanksStand.trans ?_ (banksStand_noteSat _ _ _ _)
      exact banksStand_modChan rfl
    · refine BanksStand.trans ?_ (banksStand_noteSat _ _ _ _)
      exact banksStand_modChan rfl
  exact hu.trans ⟨rfl, rfl, fun _ => rfl⟩

/-- Mail from another context is dropped; nothing else of the slice changes, nor banks or memory. -/
theorem dropMails_spec (s : State) (sl : SliceId) (own : Rec × Byte) :
    (∃ mail, (s.dropMails sl own).slice sl = { s.slice sl with mail := mail }) ∧ (s.dropMails sl own).mem = s.mem
      ∧ ∀ k, ((s.dropMails sl own).chan k).banks = (s.chan k).banks := by
  unfold State.dropMails
  extract_lets x
  split
  · exact ⟨⟨_, rfl⟩, rfl, fun _ => rfl⟩
  · have hfold : ∀ (l : Table Mail) (t : State), BanksStand t (l.foldl (fun s e => s.dropMail sl e.2 causeStale) t) := by
      intro l
      induction l with
      | nil => exact fun t => ⟨rfl, rfl, fun _ => rfl⟩
      | cons e l ih => exact fun t => (banksStand_dropMail t sl e.2 causeStale).trans (ih _)
    have hall := hfold x.mail (s.modSlice sl fun x => { x with mail := [] })
    refine ⟨⟨[], ?_⟩, hall.mem, hall.banks⟩
    rw [slice_congr hall.slices, slice_modSlice_same]

theorem bank_modCtx (ch : Channel) (r : Nat) (f : Ctx → Ctx) (b : Nat) : (ch.modCtx r f).bank b = ch.bank b := rfl

/-- The lease of the slice's bank begins, its policy sampled. -/
theorem leaseFor_bank (s : State) (sl : SliceId) (r pos : Nat) : ((s.leaseFor sl r pos).chan (slChan sl)).bank (slBank sl) =
    { (s.chan (slChan sl)).bank (slBank sl) with
      lease := some (((s.chan (slChan sl)).bank (slBank sl)).lease.getD ((s.chan (slChan sl)).closed (slBank sl))) } := by
  unfold State.leaseFor
  dsimp only
  rw [State.modCmd, chan_modCtx, chan_modChan_same, bank_modCtx, bank_modBank, if_pos rfl]

/-- What starts on a slice. -/
def startRun (s : State) (sl : SliceId) (r : Rec) (m : Cmd) (o : CodeObj) : LayerRun :=
  ⟨r, ((s.chan (slChan sl)).ctx r).gen, m.tag, m.pos, ((s.chan (slChan sl)).ctx r).strict, o.fp64, 0, (s.startSkein m sl).headD 0 :: ((s.startSkein m sl).drop 8).take 16⟩

/-- Its engines, at the starts the entry names. -/
def startEngines (m : Cmd) (o : CodeObj) : Table EngineSt := (upFrom 0 4).map fun e => (e, startEngine (o.program (bodyF m.raw 43 38) e))

/-- The slice's bank is leased to the LAYER's command, and the slice has dropped the mail of another context. -/
def startGround (s : State) (sl : SliceId) (r : Rec) (m : Cmd) : State := (s.leaseFor sl r m.pos).dropMails sl (r, ((s.chan (slChan sl)).ctx r).gen)

/-- The LAYER has started. -/
def layerStarted (s : State) (sl : SliceId) (r : Rec) (m : Cmd) (o : CodeObj) : State :=
  ((startGround s sl r m).modSlice sl fun x => { x.start (startRun s sl r m o) (s.startSkein m sl)
    (if (startRun s sl r m o).strict then some (o.lines (bodyF m.raw 43 38)) else none) (startEngines m o) with work := dropFirst ⟨r, m.pos⟩ x.work }).modCmd
      (slChan sl) r m.pos fun m => { m with todo := m.todo.filter (· ≠ sl), running := m.running ++ [sl] }

theorem eng_start (m : Cmd) (o : CodeObj) (e : Engine) : tget (startEngines m o) (engIx e) .zero = startEngine (o.program (bodyF m.raw 43 38) (engIx e)) := by
  cases e <;> rfl

theorem engIx_engOf {i : Nat} (h : i < 4) : engIx (engOf i) = i := by
  interval_cases i <;> rfl

/-- The slice once the LAYER has started. -/
theorem layerStarted_slice (s : State) (sl : SliceId) (r : Rec) (m : Cmd) (o : CodeObj) : ∃ mail, (layerStarted s sl r m o).slice sl =
    { SliceSt.start { s.slice sl with mail := mail } (startRun s sl r m o) (s.startSkein m sl)
        (if (startRun s sl r m o).strict then some (o.lines (bodyF m.raw 43 38)) else none) (startEngines m o) with work := dropFirst ⟨r, m.pos⟩ (s.slice sl).work } := by
  obtain ⟨⟨mail, hmail⟩, -, -⟩ := dropMails_spec (s.leaseFor sl r m.pos) sl (r, ((s.chan (slChan sl)).ctx r).gen)
  have hground : (startGround s sl r m).slice sl = { s.slice sl with mail := mail } := hmail
  refine ⟨mail, ?_⟩
  rw [layerStarted, State.modCmd_read_slice, slice_modSlice_same, hground]

/-- What a slice holds at the start of a LAYER besides its engines and skein words. -/
theorem start_kept (x : SliceSt) (mail : Table Mail) (work : List WorkRef) (l : LayerRun) (skein : List W32) (lines : Option (List Nat)) (engines : Table EngineSt) :
    let y := { SliceSt.start { x with mail := mail } l skein lines engines with work := work }
    y.layer = some l ∧ y.bxWait = .none ∧ y.summary = 0 ∧ y.sems = l.sems ∧ y.accs = x.accs ∧ y.scratch = x.scratch ∧ y.ars = x.ars := by
  dsimp only [SliceSt.start]
  exact ⟨rfl, rfl, rfl, rfl, rfl, rfl, rfl⟩

theorem layerStarted_kept (s : State) (sl : SliceId) (r : Rec) (m : Cmd) (o : CodeObj) :
    let x := s.slice sl
    let y := (layerStarted s sl r m o).slice sl
    y.layer = some (startRun s sl r m o) ∧ y.bxWait = .none ∧ y.summary = 0 ∧ y.sems = (startRun s sl r m o).sems ∧ y.accs = x.accs ∧ y.scratch = x.scratch ∧ y.ars = x.ars := by
  obtain ⟨mail, hslice⟩ := layerStarted_slice s sl r m o
  intro x y
  rw [show y = _ from hslice]
  exact start_kept x mail _ _ _ _ _

theorem layerStarted_eng (s : State) (sl : SliceId) (r : Rec) (m : Cmd) (o : CodeObj) (e : Engine) :
    ((layerStarted s sl r m o).slice sl).eng e = startEngine (o.program (bodyF m.raw 43 38) (engIx e)) := by
  obtain ⟨mail, hslice⟩ := layerStarted_slice s sl r m o
  rw [hslice]
  exact eng_start m o e

/-- A LAYER with a program on some engine goes on. -/
theorem layerStarted_goes {s : State} {sl : SliceId} {r : Rec} {m : Cmd} {o : CodeObj} (hprog : ∃ e, e < 4 ∧ (o.program (bodyF m.raw 43 38) e).isSome = true) :
    (layerStarted s sl r m o).sliceFinish sl = layerStarted s sl r m o := by
  obtain ⟨e, he, hsome⟩ := hprog
  obtain ⟨mail, hslice⟩ := layerStarted_slice s sl r m o
  have hlayer : ((layerStarted s sl r m o).slice sl).layer = some (startRun s sl r m o) := by rw [hslice]; rfl
  have hactive : (upFrom 0 4).any (fun i => (((layerStarted s sl r m o).slice sl).eng (engOf i)).active) = true := by
    refine List.any_eq_true.2 ⟨e, (mem_upFrom 0 4 e).2 ⟨Nat.zero_le e, by omega⟩, ?_⟩
    rw [layerStarted_eng, engIx_engOf he]
    obtain ⟨p, hp⟩ := Option.isSome_iff_exists.1 hsome
    rw [hp]
    rfl
  unfold State.sliceFinish
  extract_lets x
  rw [show x.layer = _ from hlayer]
  exact if_pos hactive

theorem exec_layerStart {s : State} {sl : SliceId} {w : WorkRef} {m : Cmd} {o : CodeObj} (hw : (s.slice sl).nextWork = some w) (hm : s.readyLayer sl w = some m)
    (hturn : s.turn sl w.record w.pos = true) (ho : (s.chan (slChan sl)).layerObj ((s.chan (slChan sl)).ctx w.record) m.raw = some o)
    (hq : (startRun s sl w.record m o).queuesOk = true) (hprog : ∃ e, e < 4 ∧ (o.program (bodyF m.raw 43 38) e).isSome = true) :
    exec (.layerStart sl) s = .next (layerStarted s sl w.record m o) := by
  have hstart : s.startLayer sl w.record m = if (startRun s sl w.record m o).queuesOk then (layerStarted s sl w.record m o).sliceFinish sl
      else (layerStarted s sl w.record m o).sliceFault sl .cx causeRange 0 := by
    unfold State.startLayer
    extract_lets c ch x skein entry
    rw [show ch.layerObj x m.raw = some o from ho]
    rfl
  show execLayerStart sl s = _
  unfold execLayerStart
  rw [hw]
  simp only [hm, hturn, if_true]
  rw [hstart, if_pos hq, layerStarted_goes hprog]

/-- Skein words a LAYER starts with. -/
theorem tget_fill (v : Nat → W32) (n a : Nat) (t : Table W32) (j : Nat) :
    tget ((upFrom a n).foldl (fun t k => tput t k (v k)) t) j 0 = if a ≤ j ∧ j < a + n then v j else tget t j 0 := by
  induction n generalizing a t with
  | zero => rw [if_neg (by omega)]; rfl
  | succ n ih =>
    rw [upFrom, List.foldl_cons, ih, tget_tput]
    by_cases h : a + 1 ≤ j ∧ j < a + 1 + n
    · rw [if_pos h, if_pos (by omega)]
    · rw [if_neg h]
      by_cases hj : j = a
      · rw [if_pos hj, if_pos (by omega), hj]
      · rw [if_neg hj, if_neg (by omega)]

theorem layerStarted_skein (s : State) (sl : SliceId) (r : Rec) (m : Cmd) (o : CodeObj) {j : Nat} (hj : j < 64) : ((layerStarted s sl r m o).slice sl).skeinW j =
    if bodyF m.raw 50 45 ≤ j ∧ j < bodyF m.raw 50 45 + m.skein.length then m.skein.getD (j - bodyF m.raw 50 45) 0 else (s.slice sl).skeinW j := by
  obtain ⟨mail, hslice⟩ := layerStarted_slice s sl r m o
  have hword : (s.startSkein m sl).getD j 0 = m.loadSkein j ((s.slice sl).skeinW j) := PreolmondLink.getD_map_upFrom _ 64 j 0 hj
  have hskein : ((layerStarted s sl r m o).slice sl).skein = (upFrom 0 64).foldl (fun t k => tput t k ((s.startSkein m sl).getD k 0)) (s.slice sl).skein := by
    rw [hslice]
    dsimp only [SliceSt.start]
  rw [SliceSt.skeinW, hskein, tget_fill fun k => (s.startSkein m sl).getD k 0, if_pos ⟨Nat.zero_le j, by omega⟩, hword, Cmd.loadSkein]
  by_cases hlow : j < bodyF m.raw 50 45
  · rw [if_neg (by omega)]
    exact if_pos hlow
  · refine (if_neg hlow).trans ?_
    by_cases hin : j < bodyF m.raw 50 45 + m.skein.length
    · rw [if_pos ⟨by omega, hin⟩, List.getElem?_eq_getElem (by omega), List.getD_eq_getElem _ _ (by omega)]
      rfl
    · rw [if_neg (by omega), List.getElem?_eq_none (by omega)]
      rfl

/-- Banks and memory once the LAYER has started. -/
theorem layerStarted_lease (s : State) (sl : SliceId) (r : Rec) (m : Cmd) (o : CodeObj) : (layerStarted s sl r m o).mem = s.mem
    ∧ (((layerStarted s sl r m o).chan (slChan sl)).bank (slBank sl)).lease
      = some (((s.chan (slChan sl)).bank (slBank sl)).lease.getD ((s.chan (slChan sl)).closed (slBank sl))) := by
  obtain ⟨-, hmem, hbanks⟩ := dropMails_spec (s.leaseFor sl r m.pos) sl (r, ((s.chan (slChan sl)).ctx r).gen)
  have hmem' : (startGround s sl r m).mem = s.mem := hmem
  refine ⟨by rw [layerStarted, State.modCmd_mem, State.modSlice_mem, hmem'], ?_⟩
  have hbank : ((layerStarted s sl r m o).chan (slChan sl)).bank (slBank sl) = ((s.leaseFor sl r m.pos).chan (slChan sl)).bank (slBank sl) := by
    rw [layerStarted, State.modCmd, chan_modCtx, Channel.bank, Channel.bank]
    exact congrArg (tget · (slBank sl) BankSt.zero) (hbanks (slChan sl))
  rw [hbank, leaseFor_bank]

/-- Settles O12: LAYER changes its command alone, a start its slice, its bank's lease and its command, and the sequencer's commands their own phase and the
queue of operations. That a hint changes nothing else is the model's choice of its log 26. -/
theorem layerStartsAndSequencerCommands : Obligations.LayerStartsAndSequencerCommands := by
  unfold Obligations.LayerStartsAndSequencerCommands
  refine ⟨?_, ?_⟩
  · intro s c r pos m bs sl w o
    extract_lets n x ch k l
    refine ⟨fun hm ht hp hs hin hmem htodo hrun hstop => ?_, fun hw hm hturn ho hq hprog => ?_⟩
    · have htouch := touched_touch s (layerReads m.raw) []
      have hu : (s.touch (layerReads m.raw) []).cmd c r pos = some m := by rw [State.cmd, htouch.ctx]; exact hm
      obtain ⟨honly, hcmd⟩ := layerTaken_spec bs n hu ht htodo hrun hstop hs.2.2
      refine ⟨_, exec_layer hm ht hp hs hin hmem, fun q hq => (honly.2.1 q hq).trans (htouch.ctx c q), ?_, ?_, fun hz => ?_, wordsOf bs n, hcmd, ?_, fun i hi => wordsOf_getElem? bs hi⟩
      · rw [honly.1.1]
        exact htouch.mem
      · rw [honly.1.1]
        exact htouch.slices
      · have hnone : s.touch (layerReads m.raw) [] = s := by rw [layerReads, if_pos hz, touch_nil]
        rw [hnone] at honly ⊢
        exact honly
      · rw [wordsOf, List.length_map, upFrom_length]
    · refine ⟨_, exec_layerStart hw hm hturn ho hq hprog, ?_⟩
      obtain ⟨hlayer, hwait, hsum, hsems, haccs, hscratch, hars⟩ := layerStarted_kept s sl w.record m o
      obtain ⟨hmem, hlease⟩ := layerStarted_lease s sl w.record m o
      refine ⟨hlayer, hwait, hsum, hsems, fun e lo hi p he => ?_, fun e he => ?_, fun j hj => layerStarted_skein s sl w.record m o hj, hlease, hmem, haccs, hscratch, hars⟩
      · rw [layerStarted_eng, he]
        rfl
      · rw [layerStarted_eng, he]
        rfl
  · intro s c r pos m o x body sent completes hm hpos hp hr he
    have hsent : ∀ act, sent ((s.begin_ c r pos .executing).send o act (cmdParty c r x m)) act := fun act => by
      obtain ⟨honly, hcmd⟩ := begins_spec hm .executing
      exact ⟨⟨_, rfl, rfl, rfl, rfl, rfl⟩, hcmd, rfl, rfl, rfl, honly.2.1⟩
    have hdone : ∀ {res}, res = .next (s.begin_ c r pos .finished) → completes res := fun h => ⟨_, h, begins_spec hm .finished⟩
    refine ⟨fun ht ho hv => ⟨_, exec_signal hm (fresh_of ht hp hr he) ho hv, hsent _⟩, fun ht hv => ⟨_, exec_wait hm (fresh_of ht hp hr he) hv, hsent _⟩, fun ht hb ho => ?_,
      fun ht hb ho hl => ?_, fun _ _ hl => exec_fenceModule_holds hm hl, fun ht hb => ?_, fun ht hb => ?_⟩
    · exact hdone (exec_fenceChannel hm (fresh_of ht hp hr he) hb ho)
    · exact hdone (exec_fenceModule hm (fresh_of ht hp hr he) hb ho hl)
    · exact hdone (exec_hintCodePrefetch hm (fresh_of ht hp hr he) hb)
    · exact hdone (exec_hintRowOpen hm (fresh_of ht hp hr he) hb)

end Sys2Proof.Commands
end

section
/-! SUPPORT. Dispatch (05 R155 to R157, R160, R161). -/

namespace Sys2Proof.Commands
open Sys2Proof Sys2Proof.Machine

/-! ## The step -/

/-- What dispatch makes of a verdict. -/
def onVerdict (u : State) (c : Chan) (r : Rec) (f : Fetched) : Verdict → State
  | .refuse k => u.endUnread c r f 4 k none (decide (10 < k))
  | .fault b => (u.readFail (b / 64) 1 (cmdTag f.raw)).endUnread c r f 4 causeDataCheck (some (u.seqFault b)) true
  | .skip => u.endUnread c r f 1 0 none true
  | .accept t desc prov => u.launch c r f t desc prov

/-- A command that nothing holds before dispatch gets its verdict. -/
theorem exec_dispatch {s : State} {c : Chan} {r : Rec} {f : Fetched} (h : mayDispatch s c r f) :
    exec (.dispatch c r none) s = .next (onVerdict (atVerdict s c r f) c r f ((atVerdict s c r f).verdict c r f.raw)) := by
  obtain ⟨hf, htorn, hpos, hruns, hdisp, hlen, hentry, hbarrier, hfound, habort, hawait, hserve⟩ := h
  show execDispatch c r none s = _
  unfold execDispatch
  extract_lets ch x
  rw [show x.fetched = some f from hf]
  refine (if_neg ?_).trans ((if_neg habort).trans ((if_neg ?_).trans ((if_neg ?_).trans ?_)))
  · rw [htorn, decide_eq_false (not_not.2 hpos), hruns, show x.dispatches = true from hdisp, decide_eq_false (Nat.not_le.2 hlen), hentry,
      show x.inflight.any Cmd.barrier = false from hbarrier, show x.found.contains f.pos = false from hfound]
    decide
  · rw [show x.awaitsSummary f.raw = false from hawait, Bool.and_false]
    decide
  · rw [hserve]
    decide
  · unfold onVerdict atVerdict
    dsimp only
    generalize (s.touch (s.readsAt c r f.raw) []).verdict c r f.raw = v
    cases v <;> rfl

/-! ## Ends without dispatch -/

theorem cqPlaced_congr {x y : Channel} (h : x.ctxs = y.ctxs) (r : Nat) : x.cqPlaced r = y.cqPlaced r := by
  unfold Channel.cqPlaced
  rw [ctx_of_ctxs h r, h]

/-- A record placed before accesses were seen. -/
theorem placed_of_recordsStand {s u : State} (h : RecordsStand s u) {c r : Nat} (hp : (s.ctx c r).state ≠ .free ∨ (s.chan c).cqPlaced r = true) :
    (u.ctx c r).state ≠ .free ∨ (u.chan c).cqPlaced r = true := by
  rwa [h.ctx c r, cqPlaced_congr (h.ctxs c) r]

/-- What has been recorded since `u` has been recorded since any state whose records and clock stood till then. -/
theorem recorded_congr {s u t : State} (h : RecordsStand s u) {c r tag status typ cause summary position count sl engine detail : Nat}
    (hr : recorded u t c r tag status typ cause summary position count sl engine detail) : recorded s t c r tag status typ cause summary position count sl engine detail := by
  obtain ⟨hbuf, htail⟩ := hr
  have hcyc : u.cycles = s.cycles := by rw [State.cycles, State.cycles, h.refCount]
  rw [h.ctx c r, h.cmdBuf c, hcyc] at hbuf
  rw [h.ctx c r] at htail
  exact ⟨hbuf, htail⟩

section
variable {s u : State} {c : Chan} {r : Rec} {f : Fetched} (h : Touched s u) (he : 2 ≤ (s.ctx c r).cqEntries)
include h he

/-- A command refused under rules 1 to 10. -/
theorem refused_spec {k : Nat} (hp : (s.ctx c r).state ≠ .free ∨ (s.chan c).cqPlaced r = true) (h1 : 1 ≤ k) (h10 : k ≤ 10) :
    let x := s.ctx c r
    let t := onVerdict u c r f (.refuse k)
    let y := t.ctx c r
    (y.cons = (x.cons + f.raw.length / 32) % (2 * x.ringSlots) ∧ y.fetched = none)
      ∧ recorded s t c r (cmdTag f.raw).toNat 4 (leAt f.raw 0 8 % 16) k 0 f.pos 0 0 0 (genDetail x (leAt f.raw 0 8 % 16))
      ∧ y.state = haltedBy x.state ∧ y.lastCause = BitVec.ofNat 8 k ∧ y.inflight = x.inflight ∧ t.mem = s.mem ∧ t.slices = s.slices := by
  have hstand := h.recordsStand
  have hp' := placed_of_recordsStand hstand hp
  have ht : onVerdict u c r f (.refuse k) = unreadEnd (u.ctx c r) (unreadRecorded u c r f 4 k) c r f 4 k := by
    rw [← endUnread_noFlag, onVerdict, decide_eq_false (Nat.not_lt.2 h10)]
  have hat := (atRecord_unreadRecorded u c r f 4 k hp').trans (atRecord_unreadEnd (u.ctx c r) _ c r f 4 k)
  obtain ⟨hcons, hfetched, hflight, -, hstate, hcause, -⟩ := unreadEnd_ctx u c r f 4 k hp' (recordsStand_refl _)
  have hrec := unreadEnd_recorded u c r f 4 k hp' (recordsStand_refl _) (by rwa [h.ctx])
  intro x t y
  rw [← ht] at hat hcons hfetched hflight hstate hcause hrec
  rw [h.ctx] at hcons hflight hstate hrec
  rw [if_neg (by omega)] at hcause
  exact ⟨⟨hcons, hfetched⟩, recorded_congr hstand hrec, hstate, hcause, hflight, hat.mem.trans h.mem, hat.slices.trans h.slices⟩

/-- A command whose predicate is false. -/
theorem skipped_spec (hfree : (s.ctx c r).state ≠ .free) :
    let x := s.ctx c r
    let t := onVerdict u c r f .skip
    let y := t.ctx c r
    (y.cons = (x.cons + f.raw.length / 32) % (2 * x.ringSlots) ∧ y.fetched = none)
      ∧ recorded s t c r (cmdTag f.raw).toNat 1 (leAt f.raw 0 8 % 16) 0 0 f.pos 0 0 0 (genDetail x (leAt f.raw 0 8 % 16))
      ∧ y.state = (if x.state = .slack then .active else x.state) ∧ y.inflight = x.inflight ∧ t.slices = s.slices := by
  have hstand := h.recordsStand
  have hp' := placed_of_recordsStand hstand (.inl hfree)
  have hflag := (recordsStand_writeFlag (unreadRecorded u c r f 1 0) c r f.raw (decide (1 ≠ 4))).trans (recordsStand_settle _ c r (cmdTag f.raw))
  have ht := endUnread_flag u c r f 1 0
  obtain ⟨hcons, hfetched, hflight, -, hstate, -, -⟩ := unreadEnd_ctx u c r f 1 0 hp' hflag
  have hrec := unreadEnd_recorded u c r f 1 0 hp' hflag (by rwa [h.ctx])
  have hslices := (atRecord_unreadEnd (u.ctx c r) (((unreadRecorded u c r f 1 0).writeFlag c r f.raw (decide (1 ≠ 4))).settle c r (cmdTag f.raw)) c r f 1 0).slices
  intro x t y
  rw [← ht] at hcons hfetched hflight hstate hrec hslices
  rw [h.ctx] at hcons hflight hstate hrec
  exact ⟨⟨hcons, hfetched⟩, recorded_congr hstand hrec, hstate, hflight,
    hslices.trans (hflag.slices.trans ((atRecord_unreadRecorded u c r f 1 0 hp').slices.trans h.slices))⟩

end

end Sys2Proof.Commands
end

section
/-! SUPPORT. A command that enters flight (05 R155, R157, R158). -/

namespace Sys2Proof.Commands
open Sys2Proof Sys2Proof.Machine

/-! ## Work given to slices -/

/-- Every channel's records, memory and the ledger stand. -/
structure LedgerStands (s t : State) : Prop where
  ctxs : ∀ k, (t.chan k).ctxs = (s.chan k).ctxs
  mem : t.mem = s.mem
  ledger : t.ledger = s.ledger

theorem ledgerStands_refl (s : State) : LedgerStands s s := ⟨fun _ => rfl, rfl, rfl⟩

theorem LedgerStands.trans {s t u : State} (hst : LedgerStands s t) (htu : LedgerStands t u) : LedgerStands s u :=
  ⟨fun k => (htu.ctxs k).trans (hst.ctxs k), htu.mem.trans hst.mem, htu.ledger.trans hst.ledger⟩

theorem LedgerStands.ctx {s t : State} (h : LedgerStands s t) (c r : Nat) : t.ctx c r = s.ctx c r := ctx_of_ctxs (h.ctxs c) r

theorem ledgerStands_modChan {s : State} {c : Nat} {f : Channel → Channel} (hf : (f (s.chan c)).ctxs = (s.chan c).ctxs) : LedgerStands s (s.modChan c f) := by
  refine ⟨fun k => ?_, rfl, rfl⟩
  rw [chan_modChan]
  split
  · next h => rw [hf, h]
  · rfl

/-- Work for a bank's domain. -/
theorem stir_bank_cases (s : State) (c : Chan) (b : BankIx) : s.stir (.bank c b) = s ∨ ∃ f, s.stir (.bank c b) = s.modBank c b f := by
  unfold State.stir
  split
  · exact .inr ⟨_, rfl⟩
  · exact .inl rfl

theorem stir_bank_stands (s : State) (c : Chan) (b : BankIx) : LedgerStands s (s.stir (.bank c b)) ∧ (s.stir (.bank c b)).slices = s.slices := by
  rcases stir_bank_cases s c b with h | ⟨f, h⟩
  · rw [h]
    exact ⟨ledgerStands_refl s, rfl⟩
  · rw [h]
    exact ⟨ledgerStands_modChan rfl, rfl⟩

theorem stir_channel_stands (s : State) (c : Chan) : LedgerStands s (s.stir (.channel c)) ∧ (s.stir (.channel c)).slices = s.slices := by
  refine ⟨⟨fun k => by rw [PreolmondLink.onlyWaits_stir s c k], ?_, ?_⟩, ?_⟩ <;> rw [PreolmondLink.stir_channel_only]

/-- A slice is given work. -/
def giveWork (c : Chan) (w : WorkRef) (s : State) (sl : SliceId) : State :=
  (s.modSlice sl fun z => { z with work := z.work ++ [w] }).stir (.bank c (Fin.ofNat 128 (slBank sl)))

theorem giveWork_spec (c : Chan) (w : WorkRef) (s : State) (sl : SliceId) :
    LedgerStands s (giveWork c w s sl) ∧ w ∈ ((giveWork c w s sl).slice sl).work ∧ ∀ k, w ∈ (s.slice k).work → w ∈ ((giveWork c w s sl).slice k).work := by
  obtain ⟨hstand, hslices⟩ := stir_bank_stands (s.modSlice sl fun z => { z with work := z.work ++ [w] }) c (Fin.ofNat 128 (slBank sl))
  refine ⟨⟨hstand.ctxs, hstand.mem, hstand.ledger⟩, ?_, fun k hk => ?_⟩
  · rw [giveWork, slice_congr hslices, slice_modSlice_same]
    exact List.mem_append_right _ (List.mem_singleton_self w)
  · rw [giveWork, slice_congr hslices, slice_modSlice]
    split
    · next h => exact List.mem_append_left _ (h ▸ hk)
    · exact hk

/-- Every slice of a list is given the work. -/
theorem giveWorks_spec (c : Chan) (w : WorkRef) (l : List SliceId) (s : State) : LedgerStands s (l.foldl (giveWork c w) s)
    ∧ (∀ sl ∈ l, w ∈ ((l.foldl (giveWork c w) s).slice sl).work) ∧ ∀ k, w ∈ (s.slice k).work → w ∈ ((l.foldl (giveWork c w) s).slice k).work := by
  induction l generalizing s with
  | nil => exact ⟨ledgerStands_refl s, by simp, fun _ h => h⟩
  | cons sl l ih =>
    obtain ⟨hstand, hgiven, hkept⟩ := giveWork_spec c w s sl
    obtain ⟨hstand', hgiven', hkept'⟩ := ih (giveWork c w s sl)
    refine ⟨hstand.trans hstand', fun k hk => ?_, fun k hk => hkept' k (hkept k hk)⟩
    rcases List.mem_cons.1 hk with rfl | hk
    · exact hkept' _ hgiven
    · exact hgiven' k hk

/-! ## The command in flight -/

/-- The record once a command is in flight. -/
def launched (x : Ctx) (pos : Nat) (f : Fetched) (t : CmdType) (m : Cmd) : Ctx :=
  let y := (x.pass (f.raw.length / 32)).noteDispatch pos
  { y with inflight := y.inflight ++ [m], state := if t = .bindOff then .binding else if t = .castOn then y.state else .active }

theorem afterWait_launched (x : Ctx) (pos : Nat) (f : Fetched) (t : CmdType) {m : Cmd} (hm : m.lent = 0) : afterWait (launched x pos f t m) = afterWait x ++ [m] := by
  have hself : { m with lent := 0 } = m := by rw [← hm]
  show (if x.longWait then (x.inflight ++ [m]).map _ else x.inflight ++ [m]) = (if x.longWait then x.inflight.map _ else x.inflight) ++ [m]
  split
  · rw [List.map_append, List.map_singleton, hself]
  · rfl

/-- Its slices have their work. -/
def takenOff (s : State) (c : Chan) (r : Rec) (f : Fetched) (t : CmdType) (m : Cmd) : State :=
  m.todo.foldl (giveWork c ⟨r, (s.ctx c r).freshPos⟩) (s.modCtx c r fun x => launched x (s.ctx c r).freshPos f t m)

theorem takenOff_spec (s : State) (c : Chan) (r : Rec) (f : Fetched) (t : CmdType) (m : Cmd) :
    (takenOff s c r f t m).ctx c r = launched (s.ctx c r) (s.ctx c r).freshPos f t m ∧ (takenOff s c r f t m).mem = s.mem ∧ (takenOff s c r f t m).ledger = s.ledger
      ∧ otherRecords s (takenOff s c r f t m) c r ∧ ∀ sl ∈ m.todo, ⟨r, (s.ctx c r).freshPos⟩ ∈ ((takenOff s c r f t m).slice sl).work := by
  obtain ⟨hstand, hgiven, -⟩ := giveWorks_spec c ⟨r, (s.ctx c r).freshPos⟩ m.todo (s.modCtx c r fun x => launched x (s.ctx c r).freshPos f t m)
  refine ⟨?_, hstand.mem, hstand.ledger, fun q hq => ?_, hgiven⟩
  · refine (hstand.ctx c r).trans ?_
    rw [ctx_modCtx]
  · exact (hstand.ctx c q).trans (ctx_modCtx_other s _ hq)

theorem waitEnded_other (s : State) {c r q : Nat} (hq : q ≠ r) : (waitEnded s c r).ctx c q = s.ctx c q := by
  unfold waitEnded
  split
  · unfold State.endLongWait
    extract_lets x u
    rw [ctx_modCtx_other _ _ hq, reclaim_ctx]
  · rfl

theorem reclaim_slices (s : State) (c v : Nat) : (s.reclaim c v).slices = s.slices := by rw [reclaim_only]

theorem waitEnded_slices (s : State) (c r : Nat) : (waitEnded s c r).slices = s.slices := by
  unfold waitEnded
  split
  · exact reclaim_slices s c _
  · rfl

theorem waitEnded_ledger {s : State} {c r : Nat} (h : (s.ctx c r).longWait = false) : (waitEnded s c r).ledger = s.ledger := by
  rw [waitEnded, h]
  rfl

/-- The command as it enters flight. -/
def entering (s : State) (c : Chan) (r : Rec) (f : Fetched) (t : CmdType) (desc prov : List Byte) (v : Nat) : Cmd :=
  newCmd c (s.ctx c r).freshPos f.pos t f.raw desc prov v

/-- A charge made is noted. -/
theorem charge_spec (s : State) (c v : Nat) : (s.charge c v).charged c = s.charged c + v := by
  show tget (acctAdd s.ledger.charged c v) c 0 = _
  rw [acctAdd, tget_tput_same]
  rfl

/-- The last of a dispatch: the channel has work, the command's charge is noted, and the trace, and the wait of its context begins anew. -/
def departed (w : State) (c : Chan) (r : Rec) (v : Nat) (tag : W32) : State := (((w.stir (.channel c)).charge c v).traceEv tag c r 1 0).waitMark c r

theorem departed_spec (w : State) (c : Chan) (r : Rec) (v : Nat) (tag : W32) :
    (∃ start us, (departed w c r v tag).ctx c r = { w.ctx c r with waitStart := start, waitUs := us }) ∧ (departed w c r v tag).mem = w.mem
      ∧ (departed w c r v tag).slices = w.slices ∧ otherRecords w (departed w c r v tag) c r ∧ (departed w c r v tag).charged c = w.charged c + v := by
  obtain ⟨hstir, hslices⟩ := stir_channel_stands w c
  unfold departed
  generalize ht : ((w.stir (.channel c)).charge c v).traceEv tag c r 1 0 = t
  have hctx : ∀ q, t.ctx c q = w.ctx c q := fun q => by rw [← ht, traceEv_ctx]; exact hstir.ctx c q
  refine ⟨⟨t.refCount, (t.chan c).lendUs, ?_⟩, ?_, ?_, fun q hq => ?_, ?_⟩
  · rw [State.waitMark, ctx_modCtx, hctx]
  · show t.mem = w.mem
    rw [← ht, traceEv_only]
    exact hstir.mem
  · show t.slices = w.slices
    rw [← ht, traceEv_only]
    exact hslices
  · rw [State.waitMark, ctx_modCtx_other _ _ hq, hctx]
  · show t.charged c = w.charged c + v
    rw [← ht, traceEv_only]
    refine (charge_spec (w.stir (.channel c)) c v).trans ?_
    rw [State.charged, State.charged, hstir.ledger]

theorem takeOff_eq (s : State) (c : Chan) (r : Rec) (f : Fetched) (t : CmdType) (desc prov : List Byte) (v : Nat) : s.takeOff c r f t desc prov v =
    departed (if (s.ctx c r).longWait then (takenOff s c r f t (entering s c r f t desc prov v)).endLongWait c r else takenOff s c r f t (entering s c r f t desc prov v)) c r v (cmdTag f.raw) :=
  rfl

theorem takeOff_spec (s : State) (c : Chan) (r : Rec) (f : Fetched) (t : CmdType) (desc prov : List Byte) (v : Nat) :
    let x := s.ctx c r
    let u := s.takeOff c r f t desc prov v
    let y := u.ctx c r
    let m := entering s c r f t desc prov v
    (y.cons = (x.cons + f.raw.length / 32) % (2 * x.ringSlots) ∧ y.fetched = none) ∧ u.mem = s.mem ∧ otherRecords s u c r ∧ y.inflight = afterWait x ++ [m]
      ∧ y.state = (if t = .bindOff then .binding else if t = .castOn then x.state else .active) ∧ (∀ sl ∈ m.todo, ⟨r, m.pos⟩ ∈ (u.slice sl).work)
      ∧ (x.longWait = false → u.charged c = s.charged c + v) := by
  obtain ⟨hctx, hmem, hledger, hother, hwork⟩ := takenOff_spec s c r f t (entering s c r f t desc prov v)
  intro x u y m
  have hlong : ((takenOff s c r f t m).ctx c r).longWait = x.longWait := by rw [hctx]; rfl
  have hu : u = departed (waitEnded (takenOff s c r f t m) c r) c r v (cmdTag f.raw) := by
    rw [waitEnded, hlong]
    exact takeOff_eq s c r f t desc prov v
  obtain ⟨⟨start, us, hy⟩, humem, huslices, huother, hucharged⟩ := departed_spec (waitEnded (takenOff s c r f t m) c r) c r v (cmdTag f.raw)
  rw [← hu] at hy humem huslices huother hucharged
  rw [waitEnded_ctx, hctx, afterWait_launched x x.freshPos f t (m := m) rfl] at hy
  rw [show y = _ from hy]
  refine ⟨⟨rfl, rfl⟩, humem.trans ((waitEnded_mem _ c r).trans hmem), fun q hq => ?_, rfl, rfl, fun sl hsl => ?_, fun hx => ?_⟩
  · exact (huother q hq).trans ((waitEnded_other _ hq).trans (hother q hq))
  · rw [slice_congr (huslices.trans (waitEnded_slices _ c r))]
    exact hwork sl hsl
  · rw [hucharged, State.charged, State.charged, waitEnded_ledger (hlong.trans hx), hledger]

/-! ## Admission -/

theorem workSlices_sel {c : Nat} {t : CmdType} (raw : List Byte) (h : t = .layer ∨ t = .patch ∨ t = .copy ∨ t = .fill ∨ t = .gather) :
    workSlices c t raw = selSlices c (cmdSel raw) := by
  rcases h with rfl | rfl | rfl | rfl | rfl <;> rfl

/-- A command admitted with its banks ON and budget to spare takes off. -/
theorem launch_eq {u : State} {c : Chan} {r : Rec} {f : Fetched} {t : CmdType} (desc prov : List Byte) (hon : ∀ sl ∈ workSlices c t f.raw, u.bankOn sl = true)
    (hbudget : u.charged c + u.classMw (powerClass f.raw) ≤ u.effective c) :
    u.launch c r f t desc prov = (u.ledgerLeave c r).takeOff c r f t desc prov (u.classMw (powerClass f.raw)) := by
  have hoff : (workSlices c t f.raw).filter (fun sl => !u.bankOn sl) = [] := List.filter_eq_nil_iff.2 fun sl hsl => by rw [hon sl hsl]; decide
  unfold State.launch
  extract_lets off v
  have hshort : u.shortfall c v = 0 := Nat.sub_eq_zero_of_le hbudget
  rw [if_neg (not_not.2 hoff), State.ledgerGate, if_pos hshort]

end Sys2Proof.Commands
end

section
/-! SUPPORT. CAST_ON and BIND_OFF (05 R143 to R145, R158). -/

namespace Sys2Proof.Commands
open Sys2Proof Sys2Proof.Machine

theorem cmd_head {x : Ctx} {m : Cmd} {rest : List Cmd} (h : x.inflight = m :: rest) : x.cmd m.pos = some m := by
  rw [Ctx.cmd, h]
  exact List.find?_cons_of_pos (decide_eq_true rfl)

theorem cmd_modCmd_found {x : Ctx} {pos : Nat} {m : Cmd} (f : Cmd → Cmd) (hf : ∀ m, (f m).pos = m.pos) (h : x.cmd pos = some m) : (x.modCmd pos f).cmd pos = some (f m) := by
  rw [cmd_modCmd x hf, h]
  rfl

/-! ## CAST_ON -/

theorem exec_castOn {s : State} {c : Chan} {r : Rec} {m : Cmd} (hi : (s.ctx c r).inflight = [m]) (ht : m.typ = .castOn) (hp : m.phase = .dispatched) :
    exec (.castOn c r) s = .next (s.modCtx c r fun x => (x.castOn m.raw m.pos).modCmd m.pos fun m => { m with phase := .finished }) := by
  show execCastOn c r s = _
  unfold execCastOn
  have hfind : [m].find? (fun m => decide (m.typ = .castOn ∧ m.phase = .dispatched)) = some m := List.find?_cons_of_pos (decide_eq_true ⟨ht, hp⟩)
  rw [hi, hfind]

/-! ## BIND_OFF -/

theorem uncharge_only (s : State) (c v : Nat) : s.uncharge c v = { s with ledger := (s.uncharge c v).ledger } := rfl

theorem endCharge_only (s : State) (c : Nat) (m : Cmd) : s.endCharge c m = { s with ledger := (s.endCharge c m).ledger } := by
  unfold State.endCharge
  rw [uncharge_only, reclaim_only]

/-- What a release clears of a slice (06 R169). -/
abbrev Cleared (x : SliceSt) : Prop :=
  x.scratch = [] ∧ x.tiles = [] ∧ x.accs = [] ∧ x.skein = [] ∧ x.ars = [] ∧ x.mail = [] ∧ x.summary = 0

/-- A slice of a released set: cleared where anything of it is kept. -/
def clearSlice (s : State) (sl : SliceId) : State := if (tfind s.slices sl.toNat).isSome then s.modSlice sl SliceSt.clear else s

theorem clearSlice_chans (s : State) (sl : SliceId) : (clearSlice s sl).chans = s.chans ∧ (clearSlice s sl).mem = s.mem := by
  unfold clearSlice
  split <;> exact ⟨rfl, rfl⟩

theorem cleared_clear (x : SliceSt) : Cleared x.clear := ⟨rfl, rfl, rfl, rfl, rfl, rfl, rfl⟩

theorem cleared_zero : Cleared SliceSt.zero := ⟨rfl, rfl, rfl, rfl, rfl, rfl, rfl⟩

theorem clearSlice_cleared (s : State) (sl : SliceId) : Cleared ((clearSlice s sl).slice sl) := by
  unfold clearSlice
  split
  · rw [slice_modSlice_same]
    exact cleared_clear _
  · next h =>
    have hnone : tfind s.slices sl.toNat = none := Option.not_isSome_iff_eq_none.1 h
    rw [State.slice, tget, hnone]
    exact cleared_zero

theorem clearSlice_keeps (s : State) (sl k : SliceId) (h : Cleared (s.slice k)) : Cleared ((clearSlice s sl).slice k) := by
  by_cases hk : k = sl
  · rw [hk]
    exact clearSlice_cleared s sl
  · unfold clearSlice
    split
    · rwa [slice_modSlice_other s sl k _ hk]
    · exact h

/-- Every slice of a list is cleared; channels and memory stand. -/
theorem clearSlices_spec (l : List SliceId) (s : State) : (l.foldl clearSlice s).chans = s.chans ∧ (l.foldl clearSlice s).mem = s.mem
    ∧ (∀ k, Cleared (s.slice k) → Cleared ((l.foldl clearSlice s).slice k)) ∧ ∀ k ∈ l, Cleared ((l.foldl clearSlice s).slice k) := by
  induction l generalizing s with
  | nil => exact ⟨rfl, rfl, fun _ h => h, by simp⟩
  | cons sl l ih =>
    obtain ⟨hchans, hmem, hkeep, hclear⟩ := ih (clearSlice s sl)
    obtain ⟨hchans', hmem'⟩ := clearSlice_chans s sl
    refine ⟨hchans.trans hchans', hmem.trans hmem', fun k hk => hkeep k (clearSlice_keeps s sl k hk), fun k hk => ?_⟩
    rcases List.mem_cons.1 hk with rfl | hk
    · exact hkeep _ (clearSlice_cleared s _)
    · exact hclear k hk

/-- Lines of pages no longer mapped are dropped; nothing else of a slice changes. -/
theorem unmapLines_slice (s : State) (c : Nat) (sl : SliceId) : ∃ lines, (s.unmapLines c).slice sl = { s.slice sl with icache := lines } := by
  unfold State.unmapLines State.slice tget
  dsimp only
  rw [tfind_tmap]
  cases tfind s.slices sl.toNat with
  | none => exact ⟨_, rfl⟩
  | some x =>
    dsimp only [Option.map_some, Option.getD_some]
    split
    · exact ⟨_, rfl⟩
    · exact ⟨_, rfl⟩

/-- The record releases its slice set, its translations and its pages. -/
def released (x : Ctx) : Ctx := { x with sliceSet := 0, chanFirst := 0, chanCount := 0, modFirst := 0, modCount := 0, pageFirst := 0, pageCount := 0 }

/-- Slices of a record's set that no other context holds. -/
def ownSlices (ch : Channel) (c r : Nat) : List SliceId :=
  (selSlices c (ch.ctx r).sliceSet).filter fun sl => !(ch.ctxs.filter (fun e => decide (e.1 ≠ r) && !e.2.isFree)).any (fun e => inSel c e.2.sliceSet sl.toNat)

theorem mem_ownSlices {ch : Channel} {c r : Nat} {sl : SliceId} (h : sl ∈ selSlices c (ch.ctx r).sliceSet)
    (hno : ∀ e ∈ ch.ctxs, e.1 ≠ r → e.2.isFree = false → inSel c e.2.sliceSet sl.toNat = false) : sl ∈ ownSlices ch c r := by
  refine List.mem_filter.2 ⟨h, ?_⟩
  rw [Bool.not_eq_true', List.any_eq_false]
  intro e he
  obtain ⟨hmem, hcond⟩ := List.mem_filter.1 he
  rw [Bool.and_eq_true, decide_eq_true_iff, Bool.not_eq_true'] at hcond
  rw [hno e hmem hcond.1 hcond.2]
  decide

theorem releaseCtx_eq (s : State) (c r : Nat) : s.releaseCtx c r = (((ownSlices (s.chan c) c r).foldl clearSlice s).modCtx c r released).unmapLines c := rfl

theorem releaseCtx_spec (s : State) (c r : Nat) : (s.releaseCtx c r).ctx c r = released (s.ctx c r) ∧ otherRecords s (s.releaseCtx c r) c r
    ∧ (s.releaseCtx c r).mem = s.mem ∧ ∀ sl ∈ ownSlices (s.chan c) c r, Cleared ((s.releaseCtx c r).slice sl) := by
  rw [releaseCtx_eq]
  obtain ⟨hchans, hmem, -, hclear⟩ := clearSlices_spec (ownSlices (s.chan c) c r) s
  generalize (ownSlices (s.chan c) c r).foldl clearSlice s = u at *
  refine ⟨?_, fun q hq => ?_, hmem, fun sl hsl => ?_⟩
  · show (u.modCtx c r released).ctx c r = _
    rw [ctx_modCtx, ctx_congr hchans]
  · show (u.modCtx c r released).ctx c q = _
    rw [ctx_modCtx_other _ _ hq, ctx_congr hchans]
  · obtain ⟨lines, hlines⟩ := unmapLines_slice (u.modCtx c r released) c sl
    rw [hlines]
    exact hclear sl hsl

/-- The oldest command in flight releases what its context holds. -/
theorem exec_bindOff {s : State} {c : Chan} {r : Rec} {m : Cmd} {rest : List Cmd} (hi : (s.ctx c r).inflight = m :: rest) (ht : m.typ = .bindOff) (hp : m.phase = .dispatched) :
    exec (.bindOff c r) s = .next (((s.endCharge c m).releaseCtx c r).modCmd c r m.pos fun m => { m with phase := .finished, charge := 0, lent := 0 }) := by
  have hold : (s.ctx c r).oldest m = true := by rw [Ctx.oldest, hi]; exact decide_eq_true rfl
  show execBindOff c r s = _
  unfold execBindOff
  extract_lets x
  have hfind : (m :: rest).find? (fun m => decide (m.typ = .bindOff ∧ m.phase = .dispatched)) = some m := List.find?_cons_of_pos (decide_eq_true ⟨ht, hp⟩)
  rw [show x.inflight = m :: rest from hi, hfind]
  exact if_neg (by rw [show x.oldest m = true from hold]; decide)

/-- Settles O8: dispatch decides by the verdict alone; a command admitted changes its record, its slices' work and its channel's charge, one that is not ends
as one that has been read and no more; CAST_ON changes its record, and BIND_OFF releases the record and clears the slices it held alone. -/
theorem dispatchAndContexts : Obligations.DispatchAndContexts := by
  unfold Obligations.DispatchAndContexts
  refine ⟨?_, ?_⟩
  · intro s c r f hd
    extract_lets x typ passed u
    have htouch : Touched s u := touched_touch s _ _
    have hexec := exec_dispatch hd
    refine ⟨fun ty desc prov hv hbudget hon => ?_, fun k hv h1 h10 hp he => ?_, fun hv hfree he => ?_⟩
    · have hcharged : ∀ k, u.charged k = s.charged k := fun k => by rw [State.charged, State.charged, htouch.ledger]
      have hclass : u.classMw (powerClass f.raw) = s.classMw (powerClass f.raw) := by rw [State.classMw, State.classMw, htouch.ledger]
      have heff : u.effective c = s.effective c := by rw [State.effective, State.effective, htouch.ledger]
      have hlaunch := launch_eq (u := u) (c := c) (r := r) (f := f) (t := ty) desc prov hon (by rw [hcharged, hclass, heff]; exact hbudget)
      obtain ⟨hpassed, hmem, hother, hflight, hstate, hwork, hcharge⟩ := takeOff_spec (u.ledgerLeave c r) c r f ty desc prov (u.classMw (powerClass f.raw))
      rw [show (atVerdict s c r f).verdict c r f.raw = _ from hv] at hexec
      refine ⟨_, hexec, ?_⟩
      rw [show onVerdict (atVerdict s c r f) c r f (.accept ty desc prov) = _ from hlaunch]
      have hctx : ∀ q, (u.ledgerLeave c r).ctx c q = s.ctx c q := fun q => htouch.ctx c q
      rw [hctx] at hpassed hflight hstate hcharge
      refine ⟨hpassed, hmem.trans htouch.mem, fun q hq => (hother q hq).trans (hctx q), _, hflight, rfl, rfl, rfl, rfl, ⟨rfl, rfl, rfl⟩, hstate, fun hty => ?_, fun hx => ?_⟩
      · exact ⟨workSlices_sel f.raw hty, hwork⟩
      · rw [hcharge hx, hclass]
        exact congrArg (· + _) (hcharged c)
    · rw [show (atVerdict s c r f).verdict c r f.raw = _ from hv] at hexec
      exact ⟨_, hexec, refused_spec htouch he hp h1 h10⟩
    · rw [show (atVerdict s c r f).verdict c r f.raw = _ from hv] at hexec
      exact ⟨_, hexec, skipped_spec htouch he hfree⟩
  · intro s c r m rest x
    refine ⟨fun hi ht hp => ?_, fun hi ht hp => ?_⟩
    · refine ⟨_, exec_castOn hi ht hp, (inRecord_modCtx s c r _).1, (inRecord_modCtx s c r _).2, ?_⟩
      have hcmd := cmd_modCmd_found (fun m => { m with phase := .finished }) (fun _ => rfl) (cmd_head (x := x.castOn m.raw m.pos) hi)
      rw [State.cmd, ctx_modCtx, hcmd]
      exact ⟨rfl, rfl, rfl, rfl, rfl, rfl, rfl, rfl, rfl, decide_eq_true_iff, decide_eq_true_iff, rfl, rfl, rfl, rfl⟩
    · refine ⟨_, exec_bindOff hi ht hp, ?_⟩
      beta_reduce
      have honly := endCharge_only s c m
      obtain ⟨hctx, hother, hmem, hclear⟩ := releaseCtx_spec (s.endCharge c m) c r
      have hctx' : ((s.endCharge c m).releaseCtx c r).ctx c r = released x := by rw [hctx, honly]; rfl
      have hcmd := cmd_modCmd_found (fun m => { m with phase := .finished, charge := 0, lent := 0 }) (fun _ => rfl) (cmd_head (x := released x) hi)
      have hkept : ∀ q, (s.endCharge c m).ctx c q = s.ctx c q := fun q => by rw [honly]; rfl
      have hmem' : (s.endCharge c m).mem = s.mem := by rw [honly]
      have hchan : (s.endCharge c m).chan c = s.chan c := by rw [honly]; rfl
      rw [State.cmd, ctx_modCmd, hctx', hcmd]
      refine ⟨rfl, rfl, rfl, rfl, fun q hq => ?_, hmem.trans hmem', rfl, rfl, fun sl hsl hno => hclear sl ?_⟩
      · exact (ctx_modCtx_other _ _ hq).trans ((hother q hq).trans (hkept q))
      · rw [hchan]
        exact mem_ownSlices hsl hno

end Sys2Proof.Commands
end

section
/-! SUPPORT. A FILL over a block whose check difference is listed twice (05 R154; 09 R258; 12 R328). -/

namespace Sys2Proof.Commands
open Sys2Proof Sys2Proof.Machine

/-- Two points of 4 bytes in data space, at 64 and 72, both in block 1. -/
def twoPoints : TRec := ⟨64, false, 4, [(2, 8)]⟩

/-- A FILL of `twoPoints` with 1 on slice 0, its one slice still to do. -/
def fillsTwoPoints : Cmd := { twoTags with
  typ := .fill
  raw := List.replicate 32 0 ++ leBytes 4 0x00010080
  desc := leBytes 8 0 ++ leBytes 8 1 ++ leBytes 8 (64 + 2 ^ 41 + 2 ^ 44) ++ leBytes 8 (2 + 8 * 2 ^ 24) ++ List.replicate 40 0
  phase := .dispatched
  todo := [0] }

/-- Slice 0 has come to it. Block 1 is listed with check difference 0, so that it passes verification, and behind that with difference 1. -/
def listedTwice : State := { State.reset with
  pins := { State.reset.pins with porstN := true }
  chans := [(0, { Channel.zero with
    awake := true
    pwr := { Channel.zero.pwr with pllOn := true }
    ctxs := [(0, { Ctx.zero with state := .active, inflight := [fillsTwoPoints] })] })]
  slices := [(0, { SliceSt.zero with work := [⟨0, 0⟩] })]
  checkDiff := [(1, 0), (1, 1)] }

theorem listedTwice_atTurn : atTurn listedTwice 0 0 0 fillsTwoPoints .fill := by
  have hturn : listedTwice.turn 0 0 0 = true := by decide
  refine ⟨rfl, rfl, by decide, rfl, rfl, rfl, by decide, fun e he q hq => ?_, fun sl hsl => ?_⟩
  · rw [List.mem_singleton.1 he] at hq
    exact absurd hq (List.not_mem_nil)
  · rw [List.mem_singleton.1 hsl]
    exact hturn

theorem fillsTwoPoints_desc : parseDesc .fill fillsTwoPoints.desc = some (.fill 1 twoPoints) := by decide

/-- What it writes. -/
def twoWrites : List (Nat × List Byte) := [(64, [1, 0, 0, 0]), (72, [1, 0, 0, 0])]

/-- Block 1 is module-owned and passes verification. -/
theorem listedTwice_writable : writable_ listedTwice twoWrites := by
  have hblock : listedTwice.hostOwned 1 = false ∧ listedTwice.failing 1 = false := by decide
  intro e he i hi
  have hin : (e.1 + i) / 64 = 1 := by
    obtain rfl | rfl : e = (64, [1, 0, 0, 0]) ∨ e = (72, [1, 0, 0, 0]) := by simpa [twoWrites] using he
    all_goals
      dsimp only [List.length_cons, List.length_nil] at hi ⊢
      omega
  rw [hin]
  exact hblock

theorem listedTwice_serves : listedTwice.banksServe (accessesOf twoWrites) = true := by decide

/-- The first point written, the difference behind comes to the front: the second, a partial write into a failing block, faults. -/
theorem listedTwice_fill : ran (exec (.fill 0 0 0) listedTwice) fun t => ∃ k, t.cmd 0 0 0 = some k ∧ k.phase = .dispatched ∧
    k.fault.map (·.cause) = some (BitVec.ofNat 8 causeDataCheck) := ⟨_, rfl, _, rfl, rfl, by decide⟩

/-- Refutes O14: a write takes the first entry of its block from the table of check differences, and nothing in the statement makes the table list a block once.
In `listedTwice` the write of the first point makes its block fail verification, so the second point's write is not performed and the FILL does not finish. -/
theorem not_patchAndFill : ¬ Obligations.PatchAndFill := by
  intro h
  obtain ⟨-, hfill⟩ := h
  obtain ⟨hdata, -⟩ := hfill listedTwice 0 0 0 fillsTwoPoints 1 twoPoints listedTwice_atTurn fillsTwoPoints_desc
  obtain ⟨t, ht, ⟨k, hk, hphase, -⟩, -⟩ := hdata rfl (List.forall_mem_singleton.2 ⟨listedTwice_writable, listedTwice_serves⟩) fun _ => Nat.le_refl 1
  obtain ⟨u, hu, k', hk', hdispatched, -⟩ := listedTwice_fill
  obtain rfl : u = t := Host.Outcome.next.inj (hu.symm.trans ht)
  obtain rfl : k' = k := Option.some.inj (hk'.symm.trans hk)
  exact absurd (hdispatched.symm.trans hphase) (by decide)

end Sys2Proof.Commands
end

section
/-! SUPPORT. Operations of slice code (06 R173, R177): what an operation that retires, waits or faults leaves of its slice and of the rest of the machine. -/

namespace Sys2Proof.SliceCode
open Sys2Proof Sys2Proof.Machine

/-! ## Steps at one slice -/

theorem onlySlice_refl (s : State) (sl : SliceId) : onlySlice s s sl := ⟨rfl, rfl, fun _ _ => rfl⟩

theorem onlySlice_trans {s t u : State} {sl : SliceId} (hst : onlySlice s t sl) (htu : onlySlice t u sl) : onlySlice s u sl := by
  obtain ⟨hs, hsa, hsk⟩ := hst
  obtain ⟨ht, hta, htk⟩ := htu
  refine ⟨?_, BankMemory.onlyAlerts_trans hsa hta, fun k hk => (htk k hk).trans (hsk k hk)⟩
  rw [ht, hs]

@[simp] theorem slice_putSlice_same (s : State) (sl : SliceId) (x : SliceSt) : (s.putSlice sl x).slice sl = x := by
  rw [slice_putSlice, if_pos rfl]

theorem onlySlice_putSlice (s : State) (sl : SliceId) (x : SliceSt) : onlySlice s (s.putSlice sl x) sl :=
  ⟨rfl, rfl, fun k hk => by rw [slice_putSlice, if_neg hk]⟩

theorem onlySlice_modSlice (s : State) (sl : SliceId) (f : SliceSt → SliceSt) : onlySlice s (s.modSlice sl f) sl :=
  ⟨rfl, rfl, fun k hk => slice_modSlice_other s sl k f hk⟩

theorem onlySlice_alert (s : State) (sl : SliceId) (bit : Nat) (e : ErrRec) : onlySlice s (s.alert bit e) sl := ⟨rfl, rfl, fun _ _ => rfl⟩

section
variable {s t : State} {sl : SliceId} (h : onlySlice s t sl)
include h

theorem onlySlice_mem : t.mem = s.mem := by rw [h.1]
theorem onlySlice_chans : t.chans = s.chans := by rw [h.1]

theorem onlySlice_cmd (c r pos : Nat) : t.cmd c r pos = s.cmd c r pos := by rw [State.cmd, State.cmd, Commands.ctx_congr (onlySlice_chans h)]

end

/-! ## Performance counters (06 R172) -/

/-- Of a slice only its performance counters differ. -/
abbrev SameButPerf (x y : SliceSt) : Prop := y = { x with perf := y.perf, perfSat := y.perfSat }

theorem perfAdd_spec (s : State) (sl : SliceId) (j n : Nat) : onlySlice s (s.perfAdd sl j n) sl ∧ SameButPerf (s.slice sl) ((s.perfAdd sl j n).slice sl) := by
  unfold State.perfAdd
  extract_lets x v u
  have hu : onlySlice s u sl ∧ SameButPerf (s.slice sl) (u.slice sl) := ⟨onlySlice_modSlice s sl _, by simp only [u, slice_modSlice_same]⟩
  split
  · split
    · exact ⟨onlySlice_modSlice s sl _, by rw [slice_modSlice_same]⟩
    · split
      · exact hu
      · exact ⟨onlySlice_trans hu.1 (onlySlice_alert u sl 9 _), hu.2⟩
  · exact ⟨onlySlice_refl s sl, rfl⟩

theorem counted_spec (s : State) (sl : SliceId) (e : Engine) (n : Nat) : onlySlice s (s.issued sl e n) sl ∧ SameButPerf (s.slice sl) ((s.issued sl e n).slice sl) := by
  cases e
  · exact perfAdd_spec s sl 0 n
  · exact perfAdd_spec s sl 1 n
  · exact ⟨onlySlice_refl s sl, rfl⟩
  · exact perfAdd_spec s sl 3 n

theorem perfAdd_zero (s : State) (sl : SliceId) (j : Nat) : s.perfAdd sl j 0 = s := by
  unfold State.perfAdd
  simp

/-- No issue slot is counted for an operation that issued nothing. -/
theorem counted_zero (s : State) (sl : SliceId) (e : Engine) : s.issued sl e 0 = s := by
  cases e
  · exact perfAdd_zero s sl 0
  · exact perfAdd_zero s sl 1
  · rfl
  · exact perfAdd_zero s sl 3

/-! ## An operation that retires -/

/-- A slice with other engines, and no single step left to a debugger. -/
def withEngines (x : SliceSt) (g : Table EngineSt) : SliceSt := { x with engines := g, stepping := false }

/-- Engines of the slice an operation of engine `e` works on. -/
def issuedEngines (s : State) (sl : SliceId) (e : Engine) : Table EngineSt := (issued s sl e).engines

theorem issued_eq (s : State) (sl : SliceId) (e : Engine) : issued s sl e = withEngines (s.slice sl) (issuedEngines s sl e) := rfl

@[simp] theorem withEngines_eng (x y : SliceSt) (k : Engine) : (withEngines x y.engines).eng k = y.eng k := rfl

theorem issued_eng_same (s : State) (sl : SliceId) (e : Engine) :
    (issued s sl e).eng e = { (s.slice sl).eng e with issued := some (((s.slice sl).eng e).issued.getD (s.slice sl).ars) } :=
  eng_modEng_same (s.slice sl) e fun g => { g with issued := some (g.issued.getD (s.slice sl).ars) }

theorem issued_eng_other (s : State) (sl : SliceId) {e k : Engine} (hk : k ≠ e) : (issued s sl e).eng k = (s.slice sl).eng k :=
  eng_modEng_other (s.slice sl) e k (fun g => { g with issued := some (g.issued.getD (s.slice sl).ars) }) hk

/-- An operation reads its address registers as they stood when it issued. -/
theorem issued_arI (s : State) (sl : SliceId) (e : Engine) (a : AReg) : (issued s sl e).arI e a = arAtIssue s sl e a := by
  rw [SliceSt.arI, issued_eng_same]
  rfl

theorem layer_of_issues {s : State} {sl : SliceId} {e : Engine} (h : issues s sl e) : ∃ l, (s.slice sl).layer = some l := Option.isSome_iff_exists.1 h.1

section
variable {s : State} {sl : SliceId} {e : Engine} {l : LayerRun} {f : SliceSt → LayerRun → OpOut} (h : issues s sl e) (hl : (s.slice sl).layer = some l)
include h hl

/-- An operation that retires changes its slice to what it makes of it, the engine past it and its issue slots counted. -/
theorem runOp_done_spec {y : SliceSt} {n : Nat} (hf : f (issued s sl e) l = .done y n) :
    onlySlice s (s.runOp sl e f) sl ∧ SameButPerf (y.retire e) ((s.runOp sl e f).slice sl) := by
  rw [runOp_done s sl e l f y n h hl hf]
  obtain ⟨honly, hslice⟩ := counted_spec (s.putSlice sl (y.retire e)) sl e n
  rw [slice_putSlice_same] at hslice
  exact ⟨onlySlice_trans (onlySlice_putSlice s sl _) honly, hslice⟩

end

/-- Engines after an operation of engine `e` that left them as it issued has retired. -/
theorem advanced_of_retire {s t : State} {sl : SliceId} {e : Engine} {y : SliceSt} (h : issues s sl e) (hy : y.engines = issuedEngines s sl e)
    (ht : SameButPerf (y.retire e) (t.slice sl)) : advanced s t sl e := by
  have heng : ∀ k, (t.slice sl).eng k = ((issued s sl e).modEng e retired).eng k := fun k => by
    rw [ht, SliceSt.retire, SliceSt.modEng, hy]
    rfl
  have hsame : (t.slice sl).eng e = retired ((issued s sl e).eng e) := by rw [heng, eng_modEng_same]
  obtain ⟨-, hactive, -⟩ := h
  rw [issued_eng_same] at hsame
  refine ⟨by rw [hsame]; rfl, by rw [hsame]; rfl, ?_, fun k hk => ?_⟩
  · rw [hsame]
    exact if_pos hactive
  · rw [heng, eng_modEng_other _ _ _ _ hk, issued_eng_other s sl hk]

/-- A slice whose operation has retired, but for its engines and performance counters. -/
theorem frame_of_retire {x y z : SliceSt} {e : Engine} (hy : y = withEngines x y.engines) (hz : SameButPerf (y.retire e) z) :
    z = { x with engines := z.engines, perf := z.perf, perfSat := z.perfSat, stepping := false } := by
  rw [hz, hy]
  rfl

/-- An engine whose head operation, a jump, has moved the program counter. -/
def jumped (off : Int) (g : EngineSt) : EngineSt :=
  { g with pc := g.pc + BitVec.ofInt 18 off - BitVec.ofNat 18 (g.queue.headD 0), queue := [g.queue.headD 0] }

theorem jump_eq (x : SliceSt) (e : Engine) (off : Int) : x.jump e off = x.modEng e (jumped off) := rfl

theorem retired_jumped_pc (off : Int) (g : EngineSt) : (retired (jumped off g)).pc = g.pc + BitVec.ofInt 18 off :=
  BitVec.sub_add_cancel (g.pc + BitVec.ofInt 18 off) (BitVec.ofNat 18 (g.queue.headD 0))

section
variable {s : State} {sl : SliceId} {e : Engine} {l : LayerRun} {f : SliceSt → LayerRun → OpOut} (h : issues s sl e) (hl : (s.slice sl).layer = some l)
include h hl

/-- An operation that comes to `g` of its slice, whatever its engines, retires with effect `g`. -/
theorem runOp_retires {g : SliceSt → SliceSt} {n : Nat} (hf : f (issued s sl e) l = .done (withEngines (g (s.slice sl)) (issuedEngines s sl e)) n) :
    retires s sl e g (.next (s.runOp sl e f)) := by
  obtain ⟨honly, hslice⟩ := runOp_done_spec h hl hf
  exact ⟨_, rfl, honly, advanced_of_retire (y := withEngines (g (s.slice sl)) (issuedEngines s sl e)) h rfl hslice, frame_of_retire rfl hslice⟩

/-- An operation that goes to the code `off` from its own address. -/
theorem runOp_jumps {off : Int} {n : Nat} (hf : f (issued s sl e) l = .done ((issued s sl e).jump e off) n) : jumps s sl e off (.next (s.runOp sl e f)) := by
  obtain ⟨honly, hslice⟩ := runOp_done_spec h hl hf
  generalize s.runOp sl e f = t at hslice honly ⊢
  rw [jump_eq] at hslice
  have heng : ∀ k, (t.slice sl).eng k = (((issued s sl e).modEng e (jumped off)).modEng e retired).eng k := fun k => by rw [hslice]; rfl
  have hsame : (t.slice sl).eng e = retired (jumped off ((issued s sl e).eng e)) := by rw [heng, eng_modEng_same, eng_modEng_same]
  refine ⟨t, rfl, honly, fun k hk => ?_, ?_, by rw [hsame]; rfl, frame_of_retire rfl hslice⟩
  · rw [heng, eng_modEng_other _ _ _ _ hk, eng_modEng_other _ _ _ _ hk, issued_eng_other s sl hk]
  · rw [hsame, retired_jumped_pc, issued_eng_same]

/-! ## An operation that waits -/

/-- An operation that waits for a semaphore before anything of it issues. -/
theorem runOp_waitsSem {y : SliceSt} {k : Fin 16} {n : Nat} (hf : f (issued s sl e) l = .wait (withEngines (s.slice sl) y.engines) k n)
    (hpos : (y.eng e).loopPos = ((s.slice sl).eng e).loopPos) (hpc : (y.eng e).pc = ((s.slice sl).eng e).pc) (hq : (y.eng e).queue = ((s.slice sl).eng e).queue)
    (hother : ∀ k, k ≠ e → y.eng k = (s.slice sl).eng k) : waitsSem s sl e k n (.next (s.runOp sl e f)) := by
  have hpassed : passed (issued s sl e) (withEngines (s.slice sl) y.engines) e = 0 := by
    rw [passed, withEngines_eng, issued_eng_same, hpos, Nat.sub_self]
  rw [runOp_wait s sl e l f _ k n h hl hf, hpassed, counted_zero]
  unfold State.await
  extract_lets x
  have hx : x = { s.slice sl with engines := y.engines, stepping := false, waitStart := x.waitStart, waitUs := x.waitUs } := by
    simp only [x]
    split <;> rfl
  clear_value x
  have heng : ∀ j, x.eng j = y.eng j := fun j => by rw [hx]; rfl
  refine ⟨_, rfl, onlySlice_putSlice s sl _, fun j hj => ?_, ?_, ?_, ?_, ?_, ?_⟩
  · rw [slice_putSlice_same, eng_modEng_other _ _ _ _ hj, heng, hother j hj]
  · rw [slice_putSlice_same, eng_modEng_same]
  · rw [slice_putSlice_same, eng_modEng_same]
  · rw [slice_putSlice_same, eng_modEng_same, heng, hpc]
  · rw [slice_putSlice_same, eng_modEng_same, heng, hq]
  · rw [slice_putSlice_same, hx]
    rfl

/-- One that waits with its slice as it issued. -/
theorem runOp_waitsSem_issued {k : Fin 16} {n : Nat} (hf : f (issued s sl e) l = .wait (issued s sl e) k n) : waitsSem s sl e k n (.next (s.runOp sl e f)) :=
  runOp_waitsSem (y := issued s sl e) h hl hf (by rw [issued_eng_same]) (by rw [issued_eng_same]) (by rw [issued_eng_same]) fun _ hj => issued_eng_other s sl hj

end

end Sys2Proof.SliceCode
end

section
/-! SUPPORT. The control core (06 R188, R189, R191, Table 8), state writes, jumps and fences (06 R182, R195). -/

namespace Sys2Proof.SliceCode
open Sys2Proof Sys2Proof.Machine

/-- Settles O55: each of these operations looks at its operands before anything else. -/
theorem noEncodingStops : Obligations.NoEncodingStops := by
  unfold Obligations.NoEncodingStops
  intro s sl e k a d vs off m op r run par refuses
  refine ⟨rfl, rfl, rfl, rfl, fun hd => ?_, fun hm => ⟨?_, ?_⟩, fun hop => ?_, fun hr => ?_, fun hrun => ?_, rfl, rfl⟩
  · exact if_neg (by omega)
  · exact if_neg (by rw [hm]; decide)
  · exact if_neg (by rw [hm]; decide)
  · exact if_neg (by rw [hop]; decide)
  · exact if_neg (by rw [hr]; decide)
  · exact if_neg (by rw [hrun]; decide)

/-! ## Results in an address register (Table 8) -/

@[simp] theorem issued_ar (s : State) (sl : SliceId) (e : Engine) (n : AReg) : (issued s sl e).ar n = (s.slice sl).ar n := rfl

/-- An operation of CX that writes an address register. -/
theorem setsAr_of_cxOp {s : State} {sl : SliceId} (d : AReg) {v : W32} {w : SliceSt → W32} (h : issues s sl .cx) (hv : w (issued s sl .cx) = v) :
    setsAr s sl d v (.next (s.runOp sl .cx (cxOp fun x => x.setAr d (w x)))) := by
  obtain ⟨l, hl⟩ := layer_of_issues h
  have hf : cxOp (fun x => x.setAr d (w x)) (issued s sl .cx) l = .done ((issued s sl .cx).setAr d v) 1 := by rw [cxOp, hv]
  obtain ⟨honly, hslice⟩ := runOp_done_spec h hl hf
  generalize s.runOp sl .cx (cxOp fun x => x.setAr d (w x)) = t at honly hslice ⊢
  have hars : (t.slice sl).ars = ((issued s sl .cx).setAr d v).ars := by rw [hslice]; rfl
  refine ⟨t, rfl, honly, advanced_of_retire h (SliceSt.setAr_engines ..) hslice, fun n => ?_, ?_⟩
  · rw [← issued_ar s sl .cx, ← ar_setAr, SliceSt.ar, hars]
    rfl
  · rw [hars]
    refine frame_of_retire (x := { s.slice sl with ars := ((issued s sl .cx).setAr d v).ars }) ?_ hslice
    unfold SliceSt.setAr
    split <;> rfl

theorem cxTrue_eq (u v : W32) : cxTrue .eq u v = (u.toNat == v.toNat) := by
  rw [Bool.eq_iff_iff, beq_iff_eq, BitVec.toNat_inj]
  exact decide_eq_true_iff

theorem cxTrue_ne (u v : W32) : cxTrue .ne u v = (u.toNat != v.toNat) := by
  rw [Bool.eq_iff_iff, bne_iff_ne, ne_eq, BitVec.toNat_inj]
  exact decide_eq_true_iff

theorem cxTrue_geu (u v : W32) : cxTrue .geu u v = decide (v.toNat ≤ u.toNat) := by
  show (!decide (u.toNat < v.toNat)) = _
  rw [← decide_not, decide_eq_decide]
  exact Nat.not_lt

theorem cxTrue_ges (u v : W32) : cxTrue .ges u v = decide (v.toInt ≤ u.toInt) := by
  show (!decide (u.toInt < v.toInt)) = _
  rw [← decide_not, decide_eq_decide]
  exact Int.not_lt

/-- CX.CMP, in both forms of its second operand. -/
theorem setsAr_cmp {s : State} {sl : SliceId} {cond : CxCond} {p : W32 → W32 → Bool} (d a : AReg) (b : RegImm16) (h : issues s sl .cx) (hp : ∀ u v, cxTrue cond u v = p u v) :
    setsAr s sl d (if p ((s.slice sl).ar a) ((s.slice sl).val16 b) then 1 else 0) (exec (.cxCmp sl cond d a b) s) :=
  setsAr_of_cxOp d h (w := fun x => if cxTrue cond (x.ar a) (x.val16 b) then 1 else 0) (by rw [← hp]; cases b <;> rfl)

/-- Settles O1: each operation writes its result, and CX.CMP 1 or 0, as registers stood when it issued. -/
theorem controlCoreResults : Obligations.ControlCoreResults := by
  unfold Obligations.ControlCoreResults
  refine ⟨fun s sl d a b c i16 i5 i32 w h => ?_, fun s sl d a b i h => ?_⟩
  · exact ⟨setsAr_of_cxOp d h rfl, setsAr_of_cxOp d h rfl, setsAr_of_cxOp d h rfl, setsAr_of_cxOp d h rfl, setsAr_of_cxOp d h rfl, setsAr_of_cxOp d h rfl, setsAr_of_cxOp d h rfl,
      setsAr_of_cxOp d h rfl, setsAr_of_cxOp d h rfl, setsAr_of_cxOp d h rfl, setsAr_of_cxOp d h rfl, setsAr_of_cxOp d h rfl, setsAr_of_cxOp d h rfl, setsAr_of_cxOp d h rfl⟩
  · intro x cmp
    have both : ∀ cond p, (∀ u v, cxTrue cond u v = p u v) → cmp cond p := fun cond p hp => ⟨setsAr_cmp d a (.reg b) h hp, setsAr_cmp d a (.imm i) h hp⟩
    exact ⟨both _ _ cxTrue_eq, both _ _ cxTrue_ne, both _ _ fun _ _ => rfl, both _ _ cxTrue_geu, both _ _ fun _ _ => rfl, both _ _ cxTrue_ges⟩

/-! ## State writes and fences -/

/-- A summary bit set or cleared. -/
theorem getLsbD_setBit (m : W16) (b k : Fin 16) (on : Prop) [Decidable on] :
    (if on then m ||| BitVec.ofNat 16 (2 ^ b.val) else m &&& ~~~ BitVec.ofNat 16 (2 ^ b.val)).getLsbD k.val = if k = b then decide on else m.getLsbD k.val := by
  have hbit : (BitVec.ofNat 16 (2 ^ b.val)).getLsbD k.val = decide (k = b) := by
    rw [BitVec.getLsbD_ofNat, Nat.testBit_two_pow, decide_eq_true k.isLt, Bool.true_and, decide_eq_decide, Fin.ext_iff]
    exact eq_comm
  split
  · next h => rw [BitVec.getLsbD_or, hbit, decide_eq_true h]; by_cases hk : k = b <;> simp [hk]
  · next h => rw [BitVec.getLsbD_and, BitVec.getLsbD_not, hbit, decide_eq_false h]; by_cases hk : k = b <;> simp [hk]

theorem sent_eq_false {s : State} {sl : SliceId} : s.sent sl = false ↔ sending s sl := by
  unfold State.sent sending
  rw [Bool.not_eq_false', List.any_eq_true]
  refine exists_congr fun g => and_congr_right fun _ => ?_
  constructor
  · intro hg
    split at hg
    · next hsrc => exact ⟨_, _, _, _, by rw [hsrc, of_decide_eq_true hg]⟩
    · cases hg
  · rintro ⟨r, n, o, t, hsrc⟩
    rw [hsrc]
    exact decide_eq_true rfl

theorem sent_eq_true {s : State} {sl : SliceId} (h : ¬ sending s sl) : s.sent sl = true := by
  rw [← sent_eq_false] at h
  simpa using h

theorem retires_nop {s : State} {sl : SliceId} {e : Engine} (h : issues s sl e) : retires s sl e id (.next (s.runOp sl e fun x _ => .done x 1)) := by
  obtain ⟨l, hl⟩ := layer_of_issues h
  exact runOp_retires h hl rfl

theorem retires_fenceEngine {s : State} {sl : SliceId} {e : Engine} (h : issues s sl e) (hs : e = .bx → ¬ sending s sl) : retires s sl e id (exec (.fenceEngine sl e) s) := by
  have hgo : exec (.fenceEngine sl e) s = .next (s.runOp sl e fun x _ => .done x 1) := by
    refine if_neg fun hwait => ?_
    obtain ⟨he, hsent⟩ := Bool.and_eq_true_iff.1 hwait
    rw [sent_eq_true (hs (of_decide_eq_true he))] at hsent
    cases hsent
  rw [hgo]
  exact retires_nop h

theorem retires_fenceSlice {s : State} {sl : SliceId} {e : Engine} (h : issues s sl e) (hs : ¬ sending s sl) : retires s sl e id (exec (.fenceSlice sl e) s) := by
  rw [show exec (.fenceSlice sl e) s = .next (s.runOp sl e fun x _ => .done x 1) from if_pos (sent_eq_true hs)]
  exact retires_nop h

/-! ## Jumps and branches -/

/-- A branch by a condition its engine reads as it issues. -/
theorem branch_spec {s : State} {sl : SliceId} {e : Engine} {off : Int} {taken : SliceSt → Bool} (h : issues s sl e) :
    let r : Result := .next (s.runOp sl e fun x _ => .done (if taken x then x.jump e off else x) 1)
    (taken (issued s sl e) = true → jumps s sl e off r) ∧ (taken (issued s sl e) = false → retires s sl e id r) := by
  obtain ⟨l, hl⟩ := layer_of_issues h
  refine ⟨fun ht => runOp_jumps h hl (n := 1) ?_, fun ht => runOp_retires h hl (n := 1) ?_⟩
  · rw [ht]; rfl
  · rw [ht]; rfl

/-- Settles O2. That an operation's writes are performed in its own step is the model's choice of its log 1. -/
theorem stateWritesAndJumps : Obligations.StateWritesAndJumps := by
  unfold Obligations.StateWritesAndJumps
  refine ⟨fun s sl w bit a => ⟨fun h => ?_, fun h => ?_, fun e h => ⟨retires_nop h, retires_fenceEngine h, retires_fenceSlice h, fun hs => ⟨?_, fun he => ?_⟩⟩⟩, fun s sl e a off h => ⟨fun he => ?_, fun he => ?_⟩⟩
  · obtain ⟨l, hl⟩ := layer_of_issues h
    exact runOp_retires h hl rfl
  · obtain ⟨l, hl⟩ := layer_of_issues h
    obtain ⟨t, ht, honly, hadv, hslice⟩ := runOp_retires h hl
      (f := cxOp fun x => { x with summary := if x.ar a ≠ 0 then x.summary ||| BitVec.ofNat 16 (2 ^ bit.val) else x.summary &&& ~~~ BitVec.ofNat 16 (2 ^ bit.val) })
      (g := fun x => { x with summary := if x.ar a ≠ 0 then x.summary ||| BitVec.ofNat 16 (2 ^ bit.val) else x.summary &&& ~~~ BitVec.ofNat 16 (2 ^ bit.val) }) rfl
    have hsum := congrArg SliceSt.summary hslice
    refine ⟨t, ht, honly, hadv, fun k => ?_, ?_⟩
    · rw [hsum]
      exact getLsbD_setBit _ bit k _
    · rw [hsum]
      exact hslice
  · exact if_neg (by rw [sent_eq_false.2 hs]; decide)
  · exact if_pos (by rw [he, sent_eq_false.2 hs]; rfl)
  · obtain ⟨l, hl⟩ := layer_of_issues h
    have hbrar : exec (.brar sl e a off) s = .next (s.runOp sl e fun x _ => .done (if decide (x.arI e a ≠ 0) then x.jump e off else x) 1) := by
      refine (if_neg he).trans ?_
      simp only [decide_eq_true_eq]
    have hspec := branch_spec (off := off) (taken := fun x => decide (x.arI e a ≠ 0)) h
    rw [issued_arI, ← hbrar] at hspec
    refine ⟨?_, fun hne => hspec.1 (decide_eq_true hne), fun hz => hspec.2 (decide_eq_false (not_not.2 hz))⟩
    rw [show exec (.jmp sl e off) s = .next (s.runOp sl e fun x _ => .done (x.jump e off) 1) from if_neg he]
    exact runOp_jumps h hl rfl
  · subst he
    have hspec : ∀ test, (brTaken (s.slice sl) test = true → jumps s sl .cx off (exec (.cxBr sl test off) s)) ∧ (brTaken (s.slice sl) test = false → retires s sl .cx id (exec (.cxBr sl test off) s)) := by
      intro test
      have htaken : brTaken (issued s sl .cx) test = brTaken (s.slice sl) test := by cases test <;> rfl
      rw [← htaken]
      exact branch_spec (off := off) (taken := (brTaken · test)) h
    have hzero : (s.slice sl).ar a = 0 ↔ ((s.slice sl).ar a).toNat = 0 := (BitVec.toNat_inj (y := (0 : W32))).symm
    refine ⟨(hspec .always).1 rfl, fun hz => ?_, fun hne => ?_⟩
    · exact ⟨(hspec (.zero a)).1 (decide_eq_true (hzero.2 hz)), (hspec (.nonzero a)).2 (decide_eq_false (not_not.2 (hzero.2 hz)))⟩
    · exact ⟨(hspec (.nonzero a)).1 (decide_eq_true (mt hzero.1 hne)), (hspec (.zero a)).2 (decide_eq_false (mt hzero.1 hne))⟩

end Sys2Proof.SliceCode
end

section
/-! SUPPORT. Semaphores and summary entries (06 R189, R192). -/

namespace Sys2Proof.SliceCode
open Sys2Proof Sys2Proof.Machine

/-! ## Semaphores (R192) -/

theorem engOf_engIx (e : Engine) : engOf (engIx e) = e := by cases e <;> rfl

theorem engIx_lt (e : Engine) : engIx e < 4 := by cases e <;> decide

/-- An engine takes from a semaphore that holds enough unless an earlier engine is to be released first. -/
theorem semReady_iff (s : State) (sl : SliceId) (e : Engine) (k n : Nat) :
    (issued s sl e).semReady e k n = true ↔ n ≤ (s.slice sl).sem k ∧ ¬ earlierReleased s sl e k := by
  unfold SliceSt.semReady earlierReleased
  rw [Bool.and_eq_true, decide_eq_true_eq, List.all_eq_true]
  refine and_congr Iff.rfl ⟨?_, fun hnone i hi => ?_⟩
  · rintro hall ⟨f, m, hlt, hstate, ⟨j, hwait, hj⟩, hm⟩
    have hf := hall (engIx f) ((mem_upFrom 0 _ _).2 ⟨Nat.zero_le _, by omega⟩)
    dsimp only at hf
    have hne : f ≠ e := fun h => absurd (h ▸ hlt) (Nat.lt_irrefl _)
    rw [engOf_engIx, issued_eng_other s sl hne, hstate, hwait] at hf
    exact (of_decide_eq_true hf).elim (fun h => h hj) (Nat.not_lt.2 hm)
  · have hlt : i < engIx e := by simpa using ((mem_upFrom 0 _ _).1 hi).2
    have hix : engIx (engOf i) = i := Commands.engIx_engOf (hlt.trans (engIx_lt e))
    have hne : engOf i ≠ e := fun h => by
      rw [← h, hix] at hlt
      exact Nat.lt_irrefl _ hlt
    rw [issued_eng_other s sl hne]
    dsimp only
    split
    · next j m hstate hwait =>
      rw [decide_eq_true_eq]
      by_contra hcon
      rw [not_or, not_not, Nat.not_lt] at hcon
      exact hnone ⟨engOf i, m, hix.symm ▸ hlt, hstate, ⟨j, hwait, hcon.1⟩, hcon.2⟩
    · rfl

/-- SEM.WAIT takes what it asks for, or waits for it. -/
theorem semWait_spec {s : State} {sl : SliceId} {e : Engine} {k : Fin 16} {n : Fin 256} (h : issues s sl e) (hn : n ≠ 0) :
    (n.val ≤ (s.slice sl).sem k.val ∧ ¬ earlierReleased s sl e k.val → retires s sl e (fun x => { x with sems := tput x.sems k.val ((s.slice sl).sem k.val - n.val) }) (exec (.semWait sl e k n) s))
    ∧ (¬ (n.val ≤ (s.slice sl).sem k.val ∧ ¬ earlierReleased s sl e k.val) → waitsSem s sl e k n.val (exec (.semWait sl e k n) s)) := by
  obtain ⟨l, hl⟩ := layer_of_issues h
  rw [show exec (.semWait sl e k n) s = .next (s.runOp sl e fun x _ =>
    if x.semReady e k.val n.val then .done (x.setSem k.val (x.sem k.val - n.val)) 1 else .wait x k n.val) from if_neg hn, ← semReady_iff]
  exact ⟨fun hr => runOp_retires h hl (n := 1) (if_pos hr), fun hr => runOp_waitsSem_issued h hl (if_neg hr)⟩

/-- SEM.SIG adds, or waits for room. -/
theorem semSig_spec {s : State} {sl : SliceId} {e : Engine} {k : Fin 16} {n : Fin 256} (h : issues s sl e) (hn : n ≠ 0) :
    ((s.slice sl).sem k.val + n.val ≤ 255 → retires s sl e (fun x => { x with sems := tput x.sems k.val ((s.slice sl).sem k.val + n.val) }) (exec (.semSig sl e k n) s))
    ∧ (255 < (s.slice sl).sem k.val + n.val → waitsSem s sl e k 256 (exec (.semSig sl e k n) s)) := by
  obtain ⟨l, hl⟩ := layer_of_issues h
  rw [show exec (.semSig sl e k n) s = .next (s.runOp sl e fun x _ =>
    if x.sem k.val + n.val ≤ 255 then .done (x.setSem k.val (x.sem k.val + n.val)) 1 else .wait x k 256) from if_neg hn]
  exact ⟨fun hr => runOp_retires h hl (n := 1) (if_pos hr), fun hr => runOp_waitsSem_issued h hl (if_neg (Nat.not_le.2 hr))⟩

/-! ## Summary entries (R189) -/

/-- Registers of a summary entry once CX.SUMPOP has written it. -/
theorem ar_setSummary (x : SliceSt) {d : Nat} (en : SumEntry) (hd : 1 ≤ d ∧ d ≤ 27) (n : AReg) : (x.setSummary d en).ar n =
    if n.val = d + 4 then en.flags else if n.val = d + 3 then en.nans else if n.val = d + 2 then en.nonzero else if n.val = d + 1 then en.max
    else if n.val = d then en.sum else x.ar n := by
  have hreg : ∀ i, i ≤ 4 → (n = Fin.ofNat 32 (d + i) ∧ n ≠ 0 ↔ n.val = d + i) := fun i hi => by
    rw [Ne, Fin.ext_iff, Fin.ext_iff, Fin.val_ofNat, Nat.mod_eq_of_lt (by omega)]
    simp only [Fin.val_zero]
    omega
  have hreg0 := hreg 0 (Nat.zero_le 4)
  simp only [Nat.add_zero] at hreg0
  simp only [SliceSt.setSummary, ar_setAr, hreg 1 (by decide), hreg 2 (by decide), hreg 3 (by decide), hreg 4 (by decide), hreg0]

/-- What an operation that has retired leaves as it made it. -/
theorem kept_of_retire {y z : SliceSt} {e : Engine} (hz : SameButPerf (y.retire e) z) : (∀ n, z.ar n = y.ar n) ∧ (∀ k, z.sem k = y.sem k) ∧ z.sumQ = y.sumQ := by
  refine ⟨fun n => ?_, fun k => ?_, ?_⟩ <;> rw [hz] <;> rfl

/-- The slice once CX.SUMPOP has taken the oldest entry. -/
def popped (x : SliceSt) (d : Nat) (en : SumEntry) (rest : List SumEntry) : SliceSt :=
  let y := { (x.setSem 15 (x.sem 15 - 1)).setSummary d en with sumQ := rest }
  y.setSem 14 (y.sem 14 + 1)

theorem setSummary_engines (x : SliceSt) (d : Nat) (en : SumEntry) : (x.setSummary d en).engines = x.engines := by
  simp only [SliceSt.setSummary, SliceSt.setAr_engines]

theorem setSummary_sems (x : SliceSt) (d : Nat) (en : SumEntry) : (x.setSummary d en).sems = x.sems := by
  simp only [SliceSt.setSummary, SliceSt.setAr_sems]

theorem popped_engines (x : SliceSt) (d : Nat) (en : SumEntry) (rest : List SumEntry) : (popped x d en rest).engines = x.engines := setSummary_engines ..

theorem popped_ar (x : SliceSt) (d : Nat) (en : SumEntry) (rest : List SumEntry) (n : AReg) :
    (popped x d en rest).ar n = ((x.setSem 15 (x.sem 15 - 1)).setSummary d en).ar n := rfl

theorem popped_sem (x : SliceSt) (d : Nat) (en : SumEntry) (rest : List SumEntry) (k : Nat) :
    (popped x d en rest).sem k = if k = 14 then x.sem 14 + 1 else if k = 15 then x.sem 15 - 1 else x.sem k := by
  have hsem : ∀ j, ({ (x.setSem 15 (x.sem 15 - 1)).setSummary d en with sumQ := rest } : SliceSt).sem j = (x.setSem 15 (x.sem 15 - 1)).sem j := fun j =>
    congrArg (tget · j 0) (setSummary_sems ..)
  rw [popped, sem_setSem]
  simp only [hsem, sem_setSem]
  rfl

section
variable {s : State} {sl : SliceId} {d : AReg} (h : issues s sl .cx) (hd : 1 ≤ d.val ∧ d.val ≤ 27)
include h hd

/-- CX.SUMPOP with an entry to take and room to give its place back. -/
theorem sumpop_takes {en : SumEntry} {rest : List SumEntry} (hentry : 1 ≤ (s.slice sl).sem 15) (hroom : (s.slice sl).sem 14 < 255) (hfirst : ¬ earlierReleased s sl .cx 15)
    (hq : (s.slice sl).sumQ = en :: rest) : ran (exec (.cxSumpop sl d) s) fun t => onlySlice { s with free := s.free + 1 } t sl ∧ advanced s t sl .cx
      ∧ SameButPerf ((popped (issued s sl .cx) d.val en rest).retire .cx) (t.slice sl) := by
  obtain ⟨l, hl⟩ := layer_of_issues h
  have hf : sumpopOp s.free d (issued s sl .cx) l = .done (popped (issued s sl .cx) d.val en rest) 1 := by
    have hready := (semReady_iff s sl .cx 15 1).2 ⟨hentry, hfirst⟩
    have hlow : ¬ 255 ≤ (issued s sl .cx).sem 14 := Nat.not_le.2 hroom
    have hsum : ((issued s sl .cx).setSem 15 ((issued s sl .cx).sem 15 - 1)).sumQ = en :: rest := hq
    unfold sumpopOp
    rw [if_neg hlow, if_pos hready]
    simp only [hsum]
    rfl
  obtain ⟨honly, hslice⟩ := runOp_done_spec (s := { s with free := s.free + 1 }) h hl hf
  exact ⟨_, if_pos hd, honly, advanced_of_retire h (popped_engines ..) hslice, hslice⟩

/-- CX.SUMPOP without an entry, or without room. -/
theorem sumpop_waits (hw : (s.slice sl).sem 15 = 0 ∨ 255 ≤ (s.slice sl).sem 14) :
    ∃ k n, waitsSem { s with free := s.free + 1 } sl .cx k n (exec (.cxSumpop sl d) s) := by
  obtain ⟨l, hl⟩ := layer_of_issues h
  have hexec : exec (.cxSumpop sl d) s = .next ({ s with free := s.free + 1 }.runOp sl .cx (sumpopOp s.free d)) := if_pos hd
  rw [hexec]
  by_cases hroom : 255 ≤ (issued s sl .cx).sem 14
  · exact ⟨14, 256, runOp_waitsSem_issued (s := { s with free := s.free + 1 }) h hl (if_pos hroom)⟩
  · have hnone : ¬ (issued s sl .cx).semReady .cx 15 1 = true := fun hready => by
      have hentry := ((semReady_iff s sl .cx 15 1).1 hready).1
      exact hw.elim (fun hz => absurd hentry (by omega)) hroom
    exact ⟨15, 1, runOp_waitsSem_issued (s := { s with free := s.free + 1 }) h hl ((if_neg hroom).trans (if_neg hnone))⟩

end

/-- Settles O3. That CX.SUMPOP waits before it pops while semaphore 14 stands at 255 is the model's choice of its log 58. -/
theorem semaphoresAndSummaries : Obligations.SemaphoresAndSummaries := by
  unfold Obligations.SemaphoresAndSummaries
  refine ⟨fun s sl e k n h hn => ?_, fun s sl d en rest h hd1 hd2 => ⟨fun hentry hroom hfirst hq => ?_, fun hw => ?_⟩⟩
  · obtain ⟨hadd, hfull⟩ := semSig_spec (k := k) h hn
    obtain ⟨htake, hwait⟩ := semWait_spec (k := k) h hn
    refine ⟨hadd, fun hc => ?_, fun hc hf => htake ⟨hc, hf⟩, fun hc => hwait fun hr => hc.elim (Nat.not_lt.2 hr.1) hr.2⟩
    obtain ⟨t, ht, honly, -, hstate, -, -, hqueue, hslice⟩ := hfull hc
    exact ⟨t, ht, by rw [hslice]; rfl, hstate, hqueue, honly⟩
  · obtain ⟨t, ht, honly, hadv, hslice⟩ := sumpop_takes h ⟨hd1, hd2⟩ hentry hroom hfirst hq
    have hmem := onlySlice_mem (s := { s with free := s.free + 1 }) honly
    have hchans := onlySlice_chans (s := { s with free := s.free + 1 }) honly
    obtain ⟨har, hsem, hsumQ⟩ := kept_of_retire hslice
    have hreg : ∀ i, i ≤ 4 → (Fin.ofNat 32 (d.val + i)).val = d.val + i := fun i hi => by rw [Fin.val_ofNat, Nat.mod_eq_of_lt (by omega)]
    refine ⟨t, ht, hadv, ?_, ?_, ?_, ?_, ?_, fun n hn => ?_, ?_, ?_, ?_, fun k h14 h15 => ?_, hmem, hchans, honly.2.2⟩
    · rw [har, popped_ar, ar_setSummary _ en ⟨hd1, hd2⟩, if_neg (by omega), if_neg (by omega), if_neg (by omega), if_neg (by omega), if_pos rfl]
    · rw [har, popped_ar, ar_setSummary _ en ⟨hd1, hd2⟩, hreg 1 (by decide), if_neg (by omega), if_neg (by omega), if_neg (by omega), if_pos rfl]
    · rw [har, popped_ar, ar_setSummary _ en ⟨hd1, hd2⟩, hreg 2 (by decide), if_neg (by omega), if_neg (by omega), if_pos rfl]
    · rw [har, popped_ar, ar_setSummary _ en ⟨hd1, hd2⟩, hreg 3 (by decide), if_neg (by omega), if_pos rfl]
    · rw [har, popped_ar, ar_setSummary _ en ⟨hd1, hd2⟩, hreg 4 (by decide), if_pos rfl]
    · rw [har, popped_ar, ar_setSummary _ en ⟨hd1, hd2⟩, if_neg (by omega), if_neg (by omega), if_neg (by omega), if_neg (by omega), if_neg (by omega)]
      rfl
    · rw [hsumQ]
      rfl
    · rw [hsem, popped_sem]
      rfl
    · rw [hsem, popped_sem]
      rfl
    · rw [hsem, popped_sem, if_neg h14, if_neg h15]
      rfl
  · obtain ⟨k, n, t, ht, -, -, hstate, -, -, -, hslice⟩ := sumpop_waits h ⟨hd1, hd2⟩ hw
    exact ⟨t, ht, hstate, fun n => by rw [hslice]; rfl, by rw [hslice]; rfl⟩

end Sys2Proof.SliceCode
end

section
/-! SUPPORT. END of an engine's program, and of the LAYER on its slice (06 R175). -/

namespace Sys2Proof.SliceCode
open Sys2Proof Sys2Proof.Machine

/-! ## The LAYER's end on a slice -/

section
variable {s : State} {sl : SliceId} {l : LayerRun} (hl : (s.slice sl).layer = some l)
include hl

/-- A LAYER with a program on some engine goes on. -/
theorem sliceFinish_busy {k : Engine} (hk : ((s.slice sl).eng k).active = true) : s.sliceFinish sl = s := by
  have hany : (upFrom 0 4).any (fun i => ((s.slice sl).eng (engOf i)).active) = true :=
    List.any_eq_true.2 ⟨engIx k, (mem_upFrom 0 4 _).2 ⟨Nat.zero_le _, by have := engIx_lt k; omega⟩, by rw [engOf_engIx, hk]⟩
  unfold State.sliceFinish
  extract_lets x
  rw [show x.layer = some l from hl]
  exact if_pos hany

/-- What a slice that has finished reports to its command. -/
def report (sl : SliceId) (bits : W16) (m : Cmd) : Cmd := { m with running := m.running.filter (· ≠ sl), finished := m.finished ++ [(sl, bits)] }

/-- A slice free of its LAYER. -/
def freed (x : SliceSt) : SliceSt := { x with layer := none, stopReq := false, pinned := false, icache := x.icache.map (fun c => { c with pinned := false }) }

/-- One without a program on any engine is over: its slice reports and is free. -/
theorem sliceFinish_over (hk : ∀ k, ((s.slice sl).eng k).active = false) : s.sliceFinish sl =
    ((s.modSlice sl freed).modCmd (slChan sl) l.record.val l.pos (report sl (s.slice sl).summary)).allDone (slChan sl) l.record.val l.pos := by
  have hany : ¬ (upFrom 0 4).any (fun i => ((s.slice sl).eng (engOf i)).active) = true := fun hany => by
    obtain ⟨i, -, hi⟩ := List.any_eq_true.1 hany
    rw [hk] at hi
    cases hi
  unfold State.sliceFinish
  extract_lets x
  rw [show x.layer = some l from hl]
  exact if_neg hany

end

/-- The command a slice has reported to. -/
theorem reported_spec {s : State} {sl : SliceId} {c r pos : Nat} {bits : W16} {m : Cmd} (hm : s.cmd c r pos = some m) :
    ∃ m', ((s.modCmd c r pos (report sl bits)).allDone c r pos).cmd c r pos = some m' ∧ m'.running = m.running.filter (· ≠ sl) ∧ m'.finished = m.finished ++ [(sl, bits)]
      ∧ (m.todo = [] → m.running.filter (· ≠ sl) = [] → m.stopped = [] → m.fault = none → m'.phase = .finished) := by
  refine ⟨_, Commands.cmd_allDone (Commands.cmd_modCmd_same (f := report sl bits) (fun _ => rfl) hm), ?_⟩
  unfold Commands.whenDone
  split
  · exact ⟨rfl, rfl, fun _ _ _ _ => rfl⟩
  · next hnot => exact ⟨rfl, rfl, fun ht hr hs hf => absurd ⟨ht, hr, hs, hf⟩ hnot⟩

/-! ## END -/

/-- An engine whose END retires. -/
def ended (g : EngineSt) : EngineSt := { g with active := false, miss := none }

theorem not_draining {s : State} {sl : SliceId} {e : Engine} (h : issues s sl e) : ¬ ((s.slice sl).eng e).state = .draining := fun hd => by
  obtain ⟨-, -, -, hst, -⟩ := h
  rw [hd] at hst
  rcases hst with hst | hst <;> cases hst

section
variable {s : State} {sl : SliceId} {e : Engine} {l : LayerRun} (h : issues s sl e) (hl : (s.slice sl).layer = some l)
include h hl

/-- BX drains while a message of its is on its way. -/
theorem end_drains (he : e = .bx) (hs : sending s sl) : exec (.endOp sl e) s = .next (s.putSlice sl ((issued s sl e).modEng e fun g => { g with state := .draining })) := by
  show execEndOp sl e s = _
  unfold execEndOp
  simp only [if_neg (not_draining h), issueAt_go s sl e l h hl, sent_eq_false.2 hs]
  exact if_pos (by rw [he]; rfl)

/-- END retires, and the slice is done with the LAYER if no engine has a program left. -/
theorem end_retires (hs : e = .bx → ¬ sending s sl) : ∃ t, exec (.endOp sl e) s = .next (t.sliceFinish sl) ∧ onlySlice s t sl
    ∧ SameButPerf (((issued s sl e).modEng e ended).retire e) (t.slice sl) := by
  obtain ⟨honly, hslice⟩ := runOp_done_spec (f := fun x _ => .done (x.modEng e ended) 1) h hl rfl
  refine ⟨_, ?_, honly, hslice⟩
  show execEndOp sl e s = _
  unfold execEndOp
  rw [if_neg (not_draining h)]
  refine if_neg fun hwait => ?_
  obtain ⟨he, hsent⟩ := Bool.and_eq_true_iff.1 hwait
  rw [sent_eq_true (hs (of_decide_eq_true he))] at hsent
  cases hsent

end

theorem untouched_of_retire {x y z : SliceSt} {e k : Engine} {g : Table EngineSt} {f : EngineSt → EngineSt} (hy : y = (withEngines x g).modEng e f)
    (hz : SameButPerf (y.retire k) z) : z.layer = x.layer ∧ z.scratch = x.scratch ∧ z.summary = x.summary := by
  subst hy
  refine ⟨?_, ?_, ?_⟩ <;> rw [hz] <;> rfl

/-- Engines and the LAYER of a slice on which END has retired. -/
theorem ended_spec {s : State} {sl : SliceId} {e : Engine} {y : SliceSt} (hy : SameButPerf (((issued s sl e).modEng e ended).retire e) y) :
    (y.eng e).active = false ∧ (y.eng e).state = .idle ∧ (∀ k, k ≠ e → y.eng k = (s.slice sl).eng k) ∧ y.layer = (s.slice sl).layer ∧ y.scratch = (s.slice sl).scratch
      ∧ y.summary = (s.slice sl).summary := by
  have heng : ∀ k, y.eng k = (((issued s sl e).modEng e ended).modEng e retired).eng k := fun k => by rw [hy]; rfl
  have hsame : y.eng e = retired (ended ((issued s sl e).eng e)) := by rw [heng, eng_modEng_same, eng_modEng_same]
  refine ⟨by rw [hsame]; rfl, by rw [hsame]; rfl, fun k hk => ?_, untouched_of_retire (x := s.slice sl) (g := issuedEngines s sl e) (f := ended) rfl hy⟩
  rw [heng, eng_modEng_other _ _ _ _ hk, eng_modEng_other _ _ _ _ hk, issued_eng_other s sl hk]

/-- Settles O4. That BX drains while its message has not been performed rests on the model's log 1. -/
theorem endOfCode : Obligations.EndOfCode := by
  unfold Obligations.EndOfCode
  intro s sl e l h hl
  refine ⟨fun he hs => ⟨_, end_drains h hl he hs, ?_⟩, fun hs ⟨k, hk, hactive⟩ => ?_, fun hs hall => ?_⟩
  · obtain ⟨-, hactive, -⟩ := h
    rw [slice_putSlice_same, eng_modEng_same, issued_eng_same]
    refine ⟨onlySlice_putSlice s sl _, fun k hk => ?_, rfl, hactive, rfl, hl⟩
    rw [slice_putSlice_same, eng_modEng_other _ _ _ _ hk, issued_eng_other s sl hk]
  · obtain ⟨t, ht, honly, hslice⟩ := end_retires h hl hs
    obtain ⟨hidle, hstate, hother, hlayer, -, -⟩ := ended_spec hslice
    rw [sliceFinish_busy (hlayer.trans hl) (k := k) (by rw [hother k hk, hactive])] at ht
    exact ⟨t, ht, honly, hother, hidle, hstate, hlayer.trans hl⟩
  · obtain ⟨t, ht, honly, hslice⟩ := end_retires h hl hs
    obtain ⟨hidle, -, hother, hlayer, hscratch, hsum⟩ := ended_spec hslice
    have hover : ∀ k, ((t.slice sl).eng k).active = false := fun k => by
      by_cases hk : k = e
      · rw [hk, hidle]
      · rw [hother k hk, hall k hk]
    rw [sliceFinish_over (hlayer.trans hl) hover] at ht
    have hmem := onlySlice_mem honly
    refine ⟨_, ht, ?_, ?_, hmem, ?_, fun m hm => ?_⟩
    · simp only [State.allDone, State.modCmd_read_slice, slice_modSlice_same]
      exact hidle
    · simp only [State.allDone, State.modCmd_read_slice, slice_modSlice_same]
      rfl
    · simp only [State.allDone, State.modCmd_read_slice, slice_modSlice_same]
      exact hscratch
    · rw [← hsum]
      exact reported_spec (by rw [State.modSlice_read_cmd, onlySlice_cmd honly, hm])

end Sys2Proof.SliceCode
end

section
/-! SUPPORT. Looped operations with operands in address mode (06 R183, R186, R187). -/

namespace Sys2Proof.SliceCode
open Sys2Proof Sys2Proof.Machine

/-! ## Effects beside the engines -/

/-- An effect on a slice that neither reads nor changes its engines, its address registers or a debugger's single step. -/
def Beside (f : SliceSt → SliceSt) : Prop :=
  ∀ x g a b, f { x with engines := g, ars := a, stepping := b } = { f x with engines := g, ars := a, stepping := b }

theorem Beside.engines {f : SliceSt → SliceSt} (h : Beside f) (x : SliceSt) : (f x).engines = x.engines := by
  have hx := congrArg SliceSt.engines (h x x.engines x.ars x.stepping)
  exact hx

theorem Beside.ars {f : SliceSt → SliceSt} (h : Beside f) (x : SliceSt) : (f x).ars = x.ars := by
  have hx := congrArg SliceSt.ars (h x x.engines x.ars x.stepping)
  exact hx

theorem Beside.arI {f : SliceSt → SliceSt} (h : Beside f) (x : SliceSt) (e : Engine) (a : AReg) : (f x).arI e a = x.arI e a := by
  unfold SliceSt.arI SliceSt.eng
  rw [h.engines, h.ars]

theorem Beside.withEngines {f : SliceSt → SliceSt} (h : Beside f) (x : SliceSt) (g : Table EngineSt) : f (withEngines x g) = withEngines (f x) g := by
  refine (h x g x.ars false).trans ?_
  rw [← h.ars x]
  rfl

theorem Beside.foldl {α : Type} {f : SliceSt → α → SliceSt} (h : ∀ a, Beside (f · a)) (l : List α) : Beside (l.foldl f) := by
  intro x g a b
  exact List.foldl_hom (fun x : SliceSt => { x with engines := g, ars := a, stepping := b }) (fun y c => h c y g a b)

/-! ## Counts and places (R183, R186) -/

section
variable {s : State} {sl : SliceId} {e : Engine} {lp : Loop} {l : LayerRun}

theorem counts_issued (h : loops s sl e lp) : (issued s sl e).counts e lp = some (trips s sl e lp) := by
  have htrips : (if lp.counts = [] then [1] else lp.counts.map ((issued s sl e).countOf e)) = trips s sl e lp := by
    unfold trips
    congr 2
    funext c
    cases c with
    | lit n => rfl
    | reg a => exact congrArg BitVec.toNat (issued_arI s sl e a)
  obtain ⟨hcounts, htotal, -⟩ := h
  unfold SliceSt.counts
  rw [htrips]
  exact if_pos (Bool.and_eq_true_iff.2 ⟨List.all_eq_true.2 fun c hc => decide_eq_true (hcounts c hc), decide_eq_true htotal⟩)

theorem issued_baseOf (a : ScrAddr) : (issued s sl e).baseOf e a = ((arAtIssue s sl e a.reg).toNat + a.imm.val) % 2 ^ 32 := by
  rw [SliceSt.baseOf, issued_arI]

theorem queued_address (hq : l.qmode e = false) (p : Opd) : p.queued (l.qmode e) = false := by
  rw [Opd.queued, hq, Bool.and_false, Bool.false_and]

/-- Where an operand lies in address mode while its registers stand as when the operation issued. -/
theorem opdPlace_address (hq : l.qmode e = false) {x : SliceSt} (hx : ∀ a, x.arI e a = arAtIssue s sl e a) (i : Nat) (p : Opd) :
    opdPlace x l e (idxVec (trips s sl e lp) i) p = placeAt s sl e lp i p.o := by
  unfold opdPlace SliceSt.baseOf
  rw [queued_address hq, hx]
  rfl

theorem takeEntries_address (hq : l.qmode e = false) (cs idx : List Nat) (ps : List Opd) (x : SliceSt) : takeEntries l e cs idx ps x = .ok x := by
  have hacquire : acquire l e idx ps x = .ok x := by
    induction ps with
    | nil => rfl
    | cons p ps ih => rw [acquire, queued_address hq, Bool.false_and, if_neg Bool.false_ne_true, ih]
  have hfull : fullSem l e cs idx ps x = none := by
    induction ps with
    | nil => rfl
    | cons p ps ih =>
      rw [fullSem, Opd.ends, queued_address hq, Bool.false_and, if_neg Bool.false_ne_true]
      exact ih (by rw [acquire, queued_address hq, Bool.false_and, if_neg Bool.false_ne_true] at hacquire; exact hacquire)
  rw [takeEntries, hacquire]
  simp only [hfull]

theorem release_address (hq : l.qmode e = false) (cs idx : List Nat) (ps : List Opd) (x : SliceSt) : release l e cs idx ps x = x := by
  induction ps with
  | nil => rfl
  | cons p ps ih =>
    rw [release, Opd.ends, queued_address hq, Bool.false_and, if_neg Bool.false_ne_true]
    exact ih

/-- Operands that keep the alignments asked of them. -/
def Aligned (s : State) (sl : SliceId) (e : Engine) (al : List AlignReq) : Prop :=
  ∀ r ∈ al, r.p.used = true → alignedAt s sl e r.n r.p.o ∧ ∀ d ∈ r.inner, d % r.n = 0

theorem misaligned_none (hq : l.qmode e = false) {al : List AlignReq} (h : Aligned s sl e al) : misaligned (issued s sl e) l e al = none := by
  induction al with
  | nil => rfl
  | cons r al ih =>
    rw [misaligned]
    refine (if_neg fun hbad => ?_).trans (ih fun q hq => h q (List.mem_cons_of_mem _ hq))
    obtain ⟨hused, hbad⟩ := Bool.and_eq_true_iff.1 hbad
    obtain ⟨⟨hbase, hstrides⟩, hinner⟩ := h r List.mem_cons_self hused
    have hstart : r.p.start (issued s sl e) l e = baseAt s sl e r.p.o := by
      rw [Opd.start, queued_address hq, if_neg Bool.false_ne_true, issued_baseOf]
      rfl
    simp only [hstart, Bool.or_eq_true, decide_eq_true_eq, List.any_eq_true] at hbad
    obtain (hb | ⟨d, hd, hb⟩) | ⟨d, hd, hb⟩ := hbad
    · exact hb hbase
    · exact hb (hstrides d hd)
    · exact hb (hinner d hd)

/-! ## Iterations (R187) -/

/-- Places of an operation's operands in iteration `i`. -/
def placesAt (s : State) (sl : SliceId) (e : Engine) (lp : Loop) (ps : List Opd) (i : Nat) : List Place := (ps.map (·.o)).map (placeAt s sl e lp i)

/-- Iterations whose bodies succeed, from iteration `i` on, each with its effect at the places of its operands. -/
theorem loopGo_address (hq : l.qmode e = false) {ps : List Opd} {body : Body Unit} {f : SliceSt → List Place → SliceSt} (hf : ∀ pl, Beside (f · pl)) (rem i : Nat)
    (hbody : ∀ j, i ≤ j → j < i + rem → ∀ y, body y () (placesAt s sl e lp ps j) j = .ok (f y (placesAt s sl e lp ps j), ())) (x : SliceSt)
    (hx : ∀ a, x.arI e a = arAtIssue s sl e a) :
    loopGo l e (trips s sl e lp) ps body rem i x () = .done ((upFrom i rem).foldl (fun y j => f y (placesAt s sl e lp ps j)) x) () := by
  induction rem generalizing i x with
  | zero => rfl
  | succ rem ih =>
    have hplaces : ps.map (opdPlace x l e (idxVec (trips s sl e lp) i)) = placesAt s sl e lp ps i := by
      rw [placesAt, List.map_map]
      exact List.map_congr_left fun p _ => opdPlace_address hq hx i p
    have hstep := ih (i + 1) (fun j hij hj => hbody j (by omega) (by omega)) (f x (placesAt s sl e lp ps i)) fun a => ((hf _).arI x e a).trans (hx a)
    rw [loopGo]
    simp only [takeEntries_address hq, hplaces, hbody i (Nat.le_refl i) (by omega), release_address hq]
    exact hstep

/-- A looped operation whose iterations all succeed runs them in order. -/
theorem simpleLoop_address (hl : (s.slice sl).layer = some l) (hlp : loops s sl e lp) {ps : List Opd} {al : List AlignReq} (hal : Aligned s sl e al)
    {body : SliceSt → List Place → Except (Nat × Nat) SliceSt} {f : SliceSt → List Place → SliceSt} (hf : ∀ pl, Beside (f · pl))
    (hbody : ∀ i, i < tripsTotal s sl e lp → ∀ y, body y (placesAt s sl e lp ps i) = .ok (f y (placesAt s sl e lp ps i))) :
    simpleLoop (issued s sl e) l e lp ps al body = .done (withEngines
      ((upFrom 0 (tripsTotal s sl e lp)).foldl (fun y i => f y (placesAt s sl e lp ps i)) (s.slice sl)) (issuedEngines s sl e)) (iterationsLeft (issued s sl e) e lp) := by
  have hq : l.qmode e = false := hlp.2.2.2 l hl
  have hpos : ((issued s sl e).eng e).loopPos = 0 := by rw [issued_eng_same]; exact hlp.2.2.1
  have hrun := loopGo_address (s := s) (sl := sl) (lp := lp) hq (ps := ps) (body := fun y _ pl _ => (body y pl).map fun z => (z, ())) hf (tripsTotal s sl e lp) 0
    (fun j _ hj y => by rw [hbody j (by omega) y]; rfl) (issued s sl e) (issued_arI s sl e)
  have hgo : runLoop (issued s sl e) l e lp ps al () (fun y _ pl _ => (body y pl).map fun z => (z, ()))
      = .done ((upFrom 0 (tripsTotal s sl e lp)).foldl (fun y i => f y (placesAt s sl e lp ps i)) (issued s sl e)) () := by
    unfold runLoop
    simp only [counts_issued hlp, misaligned_none hq hal, hpos, Nat.sub_zero]
    exact hrun
  rw [simpleLoop, hgo, issued_eq]
  simp only
  rw [(Beside.foldl (f := fun y i => f y (placesAt s sl e lp ps i)) (fun i => hf _) _).withEngines]

/-- An operation that is such a loop. -/
theorem runOp_iterates {op : SliceSt → LayerRun → OpOut} (h : issues s sl e) (hlp : loops s sl e lp) {ps : List Opd} {al : List AlignReq} (hal : Aligned s sl e al)
    {body : SliceSt → List Place → Except (Nat × Nat) SliceSt} {f : SliceSt → List Place → SliceSt} (hf : ∀ pl, Beside (f · pl))
    (hbody : ∀ i, i < tripsTotal s sl e lp → ∀ y, body y (placesAt s sl e lp ps i) = .ok (f y (placesAt s sl e lp ps i)))
    (hop : ∀ l, op (issued s sl e) l = simpleLoop (issued s sl e) l e lp ps al body) : iterates s sl e lp (ps.map (·.o)) f (.next (s.runOp sl e op)) := by
  obtain ⟨l, hl⟩ := layer_of_issues h
  exact runOp_retires (g := fun x => (upFrom 0 (tripsTotal s sl e lp)).foldl (fun y i => f y (placesAt s sl e lp ps i)) x) h hl
    ((hop l).trans (simpleLoop_address hl hlp hal hf hbody))

end

/-! ## Storage an operand holds (R177) -/

theorem checkFits_ok {l : List (Place × Nat)} (h : ∀ e ∈ l, e.1.fits e.2 = true) : checkFits l = .ok () := by
  induction l with
  | nil => rfl
  | cons e l ih =>
    obtain ⟨p, n⟩ := e
    rw [checkFits, if_pos (h (p, n) List.mem_cons_self)]
    exact ih fun q hq => h q (List.mem_cons_of_mem _ hq)

theorem checkFits_one {p : Place} {n : Nat} (h : p.fits n = true) : checkFits [(p, n)] = .ok () := if_pos h

theorem checkFits_two {p q : Place} {n k : Nat} (hp : p.fits n = true) (hq : q.fits k = true) : checkFits [(p, n), (q, k)] = .ok () := (if_pos hp).trans (checkFits_one hq)

/-- A part of bytes that fit fits. -/
theorem fits_part {p : Place} {n : Nat} (h : p.fits n = true) {off k : Nat} (hk : off + k ≤ n) : ({ p with addr := p.addr + off } : Place).fits k = true := by
  unfold Place.fits at h ⊢
  rw [Bool.or_eq_true, decide_eq_true_eq, decide_eq_true_eq] at h ⊢
  dsimp only
  omega

/-- Rows lie within bytes that hold the last of them. -/
theorem rowsOf_fits {p : Place} {rows stride n : Nat} (h : p.fits ((rows - 1) * stride + n) = true) : ∀ e ∈ rowsOf p rows stride n, e.1.fits e.2 = true := by
  intro e he
  obtain ⟨r, hr, rfl⟩ := List.mem_map.1 he
  have hrow : r ≤ rows - 1 := by have := (mem_upFrom 0 rows r).1 hr; omega
  exact fits_part h (Nat.add_le_add_right (Nat.mul_le_mul_right stride hrow) n)

end Sys2Proof.SliceCode
end

section
/-! SUPPORT. Faults of slice operations (06 R177; 12 R335): what a fault leaves of the slice, and what its command takes. -/

namespace Sys2Proof.SliceCode
open Sys2Proof Sys2Proof.Machine

/-! ## Stop requests (05 R164) -/

/-- Of a slice nothing has changed but that it may have been asked to stop. -/
def Asked (x y : SliceSt) : Prop := y = { x with stopReq := y.stopReq } ∧ (x.stopReq = true → y.stopReq = true)

theorem Asked.refl (x : SliceSt) : Asked x x := ⟨rfl, id⟩

theorem Asked.trans {x y z : SliceSt} (hxy : Asked x y) (hyz : Asked y z) : Asked x z := by
  refine ⟨?_, fun h => hyz.2 (hxy.2 h)⟩
  rw [hyz.1, hxy.1]

/-- A slice asked before stands. -/
theorem Asked.eq_of_asked {x y : SliceSt} (h : Asked x y) (hx : x.stopReq = true) : y = x := by
  obtain ⟨heq, hkeep⟩ := h
  rw [heq, hkeep hx, ← hx]

theorem asked_foldl {g : SliceSt → SliceSt} (hg : ∀ x, Asked x (g x)) (l : List SliceId) (s : State) (k : SliceId) :
    Asked (s.slice k) ((l.foldl (fun s sl => s.modSlice sl g) s).slice k) := by
  induction l generalizing s with
  | nil => exact Asked.refl _
  | cons sl l ih =>
    refine Asked.trans ?_ (ih _)
    rw [slice_modSlice]
    split
    · next h => rw [h]; exact hg _
    · exact Asked.refl _

theorem asked_requestStop (s : State) (c r pos : Nat) (k : SliceId) : Asked (s.slice k) ((s.requestStop c r pos).slice k) := by
  unfold State.requestStop
  split
  · exact Asked.refl _
  · refine asked_foldl (fun x => ?_) _ s k
    split
    · split
      · exact ⟨rfl, fun _ => rfl⟩
      · exact Asked.refl x
    · exact Asked.refl x

/-! ## A command's fault (05 R166) -/

/-- A command with its fault. -/
def faulted (f : FaultInfo) (m : Cmd) : Cmd := { m with fault := some f, stopReq := true }

theorem cmdFault_eq {s : State} {c r pos : Nat} {m : Cmd} (f : FaultInfo) (hm : s.cmd c r pos = some m) (hs : sound m) :
    s.cmdFault c r pos f = (s.modCmd c r pos (faulted f)).requestStop c r pos := by
  obtain ⟨-, hevent, hfault⟩ := hs
  unfold State.cmdFault
  rw [hm]
  exact if_neg (by rw [hevent, hfault]; decide)

/-- Whatever a command's fault does of slices is to ask them to stop. -/
theorem asked_cmdFault (s : State) (c r pos : Nat) (f : FaultInfo) (k : SliceId) : Asked (s.slice k) ((s.cmdFault c r pos f).slice k) := by
  unfold State.cmdFault
  split
  · exact Asked.refl _
  · split
    · exact Asked.refl _
    · exact asked_requestStop _ c r pos k

theorem cmdFault_cmd {s : State} {c r pos : Nat} {m : Cmd} (f : FaultInfo) (hm : s.cmd c r pos = some m) (hs : sound m) :
    (s.cmdFault c r pos f).cmd c r pos = some (faulted f m) := by
  rw [cmdFault_eq f hm hs, State.cmd, Commands.requestStop_ctx]
  exact Commands.cmd_modCmd_same (f := faulted f) (fun _ => rfl) hm

theorem cmdFault_mem (s : State) (c r pos : Nat) (f : FaultInfo) : (s.cmdFault c r pos f).mem = s.mem := by
  unfold State.cmdFault
  split
  · rfl
  · split
    · rfl
    · exact Commands.requestStop_mem _ c r pos

/-! ## An operation's fault (R177) -/

/-- A slice whose engine `e` has faulted. -/
def stoppedBy (e : Engine) (x : SliceSt) : SliceSt := { x.modEng e (fun g => { g with state := .faulted }) with stopReq := true }

theorem stoppedBy_eng (e : Engine) (x : SliceSt) : (stoppedBy e x).eng e = { x.eng e with state := .faulted } :=
  eng_modEng_same x e fun g => { g with state := .faulted }

theorem sliceFault_eq {s : State} {sl : SliceId} {l : LayerRun} (e : Engine) (cause detail : Nat) (hl : (s.slice sl).layer = some l) :
    s.sliceFault sl e cause detail = (s.modSlice sl (stoppedBy e)).cmdFault (slChan sl) l.record.val l.pos ⟨BitVec.ofNat 8 cause, sl, e, BitVec.ofNat 64 detail⟩ := by
  unfold State.sliceFault
  rw [hl]
  rfl

/-- A state in which an operation of engine `e` faults: the slice's storage, memory and commands stand as they stood in `s`. -/
structure Faulting (s u : State) (sl : SliceId) (e : Engine) : Prop where
  slice : ∃ g perf sat step, u.slice sl = { s.slice sl with engines := g, perf := perf, perfSat := sat, stepping := step }
  pc : ((u.slice sl).eng e).pc = ((s.slice sl).eng e).pc
  cmd : ∀ c r pos, u.cmd c r pos = s.cmd c r pos
  mem : u.mem = s.mem

theorem faults_of_faulting {s u : State} {sl : SliceId} {e : Engine} (h : Faulting s u sl e) (cause detail : Nat) : faults s sl e cause detail (.next (u.sliceFault sl e cause detail)) := by
  obtain ⟨⟨g, perf, sat, step, hslice⟩, hpc, hcmd, hmem⟩ := h
  intro l m hl hm hs
  have hlu : (u.slice sl).layer = some l := by rw [hslice]; exact hl
  have hmu : (u.modSlice sl (stoppedBy e)).cmd (slChan sl) l.record.val l.pos = some m := by rw [State.modSlice_read_cmd, hcmd, hm]
  rw [sliceFault_eq e cause detail hlu]
  generalize hf : (⟨BitVec.ofNat 8 cause, sl, e, BitVec.ofNat 64 detail⟩ : FaultInfo) = info
  have hask := asked_cmdFault (u.modSlice sl (stoppedBy e)) (slChan sl) l.record.val l.pos info sl
  rw [slice_modSlice_same] at hask
  have hstopped := hask.eq_of_asked rfl
  refine ⟨_, rfl, ?_, ?_, ?_, ?_, ?_, ?_, ?_, ?_, ?_, (cmdFault_mem ..).trans hmem, _, cmdFault_cmd info hmu hs, rfl, rfl⟩
  · rw [hstopped, stoppedBy_eng]
  · rw [hstopped]
    rfl
  · rw [hstopped, stoppedBy_eng, ← hpc]
  all_goals
    rw [hstopped, hslice]
    rfl

section
variable {s : State} {sl : SliceId} {e : Engine} {l : LayerRun} {f : SliceSt → LayerRun → OpOut} {y : SliceSt} {c d : Nat} (h : issues s sl e) (hl : (s.slice sl).layer = some l)
  (hf : f (issued s sl e) l = .fault (withEngines (s.slice sl) y.engines) c d) (hpc : (y.eng e).pc = ((s.slice sl).eng e).pc)
include hpc

/-- The slice with the iterations issued before the fault counted. -/
theorem faulting_counted (n : Nat) : Faulting s ((s.putSlice sl (withEngines (s.slice sl) y.engines)).issued sl e n) sl e := by
  obtain ⟨honly, hslice⟩ := counted_spec (s.putSlice sl (withEngines (s.slice sl) y.engines)) sl e n
  have hall := onlySlice_trans (onlySlice_putSlice s sl _) honly
  rw [slice_putSlice_same] at hslice
  refine ⟨⟨_, _, _, _, hslice⟩, ?_, onlySlice_cmd hall, onlySlice_mem hall⟩
  rw [hslice, ← hpc]
  rfl

include h hl hf

/-- An operation that faults with its slice's storage as it stood. -/
theorem runOp_faults (hc : c ≠ causeDataCheck) : faults s sl e c d (.next (s.runOp sl e f)) := by
  rw [runOp_fault s sl e l f _ c d h hl hf hc]
  exact faults_of_faulting (faulting_counted hpc _) c d

end

theorem parityErr_spec (s : State) (c : Nat) (tag : W32) (src : Nat) : (s.parityErr c tag src).slices = s.slices ∧ (s.parityErr c tag src).mem = s.mem
    ∧ ∀ k r pos, (s.parityErr c tag src).cmd k r pos = s.cmd k r pos := by
  unfold State.parityErr
  extract_lets n
  refine ⟨?_, ?_, fun k r pos => ?_⟩
  · rw [noteSat_onlyAlerts]; rfl
  · rw [noteSat_onlyAlerts]; rfl
  · rw [State.cmd, Commands.noteSat_ctx, State.alert_read_ctx, Commands.ctx_modChan rfl]
    rfl

/-- An operation that reads a bad parity (12 R335). -/
theorem runOp_parity_faults {s : State} {sl : SliceId} {e : Engine} {f : SliceSt → LayerRun → OpOut} (k : Storage) (h : issues s sl e) :
    faults s sl e 0x20 (parityDetail k) (.next (s.runOp sl e (withParity (some k) f))) := by
  obtain ⟨l, hl⟩ := layer_of_issues h
  rw [runOp_parity s sl e l (withParity (some k) f) (issued s sl e) (parityDetail k) h hl rfl]
  have hcount := faulting_counted (y := issued s sl e) (by rw [issued_eng_same]) (passed (issued s sl e) (issued s sl e) e)
  change Faulting s ((s.putSlice sl (issued s sl e)).issued sl e _) sl e at hcount
  generalize (s.putSlice sl (issued s sl e)).issued sl e _ = u at hcount ⊢
  obtain ⟨hslices, hmem, hcmd⟩ := parityErr_spec u (slChan sl) l.tag 1
  have hslice := Commands.slice_congr hslices sl
  refine faults_of_faulting ⟨?_, ?_, fun c r pos => (hcmd c r pos).trans (hcount.cmd c r pos), hmem.trans hcount.mem⟩ causeDataCheck _
  · rw [hslice]; exact hcount.slice
  · rw [hslice]; exact hcount.pc

/-! ## Faults before anything issues -/

theorem faulting_refl (s : State) (sl : SliceId) (e : Engine) : Faulting s s sl e := ⟨⟨_, _, _, _, rfl⟩, rfl, fun _ _ _ => rfl, rfl⟩

/-- An operation outside its engine's section of the code store (R173). -/
theorem runOp_outside_faults {s : State} {sl : SliceId} {e : Engine} (f : SliceSt → LayerRun → OpOut) (hl : (s.slice sl).layer.isSome = true) (hc : (s.slice sl).canIssue e = true)
    (hpc : ((s.slice sl).eng e).pc.toNat < ((s.slice sl).eng e).lo ∨ ((s.slice sl).eng e).hi ≤ ((s.slice sl).eng e).pc.toNat) :
    faults s sl e 0x24 (codeDetail ((s.slice sl).eng e).pc.toNat) (.next (s.runOp sl e f)) := by
  obtain ⟨l, hl⟩ := Option.isSome_iff_exists.1 hl
  have hissue : s.issueAt sl e = .no (s.sliceFault sl e causeRange (codeDetail ((s.slice sl).eng e).pc.toNat)) := by
    unfold State.issueAt
    simp only [hl, hc, hpc, Bool.not_true, Bool.false_eq_true, if_false, if_true]
  rw [State.runOp, State.runOpBy, hissue]
  exact faults_of_faulting (faulting_refl s sl e) _ _

/-- A looped operation whose first operand breaks its alignment. -/
theorem simpleLoop_misaligned {s : State} {sl : SliceId} {e : Engine} {lp : Loop} {l : LayerRun} (hl : (s.slice sl).layer = some l) (hlp : loops s sl e lp) {ps : List Opd}
    {r : AlignReq} {al : List AlignReq} {body : SliceSt → List Place → Except (Nat × Nat) SliceSt} (hused : r.p.used = true) (hbase : baseAt s sl e r.p.o % r.n ≠ 0) :
    simpleLoop (issued s sl e) l e lp ps (r :: al) body = .fault (issued s sl e) causeAlign (scrDetail (baseAt s sl e r.p.o)) := by
  have hq : l.qmode e = false := hlp.2.2.2 l hl
  have hstart : r.p.start (issued s sl e) l e = baseAt s sl e r.p.o := by
    rw [Opd.start, queued_address hq, if_neg Bool.false_ne_true, issued_baseOf]
    rfl
  have hbad : misaligned (issued s sl e) l e (r :: al) = some (baseAt s sl e r.p.o) := by
    rw [misaligned, hstart]
    exact if_pos (by simp only [hused, hbase, ne_eq, not_false_eq_true, decide_true, Bool.true_or, Bool.and_true])
  unfold simpleLoop runLoop
  simp only [counts_issued hlp, hbad]

/-- A loop of one iteration whose body fails. -/
theorem simpleLoop_fails {s : State} {sl : SliceId} {e : Engine} {lp : Loop} {l : LayerRun} (hl : (s.slice sl).layer = some l) (hlp : loops s sl e lp) (hone : lp.counts = []) {ps : List Opd}
    {al : List AlignReq} (hal : Aligned s sl e al) {body : SliceSt → List Place → Except (Nat × Nat) SliceSt} {c d : Nat}
    (hbody : body (issued s sl e) (placesAt s sl e lp ps 0) = .error (c, d)) :
    simpleLoop (issued s sl e) l e lp ps al body = .fault ((issued s sl e).modEng e fun g => { g with loopPos := 0 }) c d := by
  have hq : l.qmode e = false := hlp.2.2.2 l hl
  have hpos : ((issued s sl e).eng e).loopPos = 0 := by rw [issued_eng_same]; exact hlp.2.2.1
  have htrips : trips s sl e lp = [1] := if_pos hone
  have hplaces : ps.map (opdPlace (issued s sl e) l e (idxVec (trips s sl e lp) 0)) = placesAt s sl e lp ps 0 := by
    rw [placesAt, List.map_map]
    exact List.map_congr_left fun p _ => opdPlace_address hq (issued_arI s sl e) 0 p
  unfold simpleLoop runLoop
  simp only [counts_issued hlp, misaligned_none hq hal, hpos]
  rw [show (trips s sl e lp).foldl (· * ·) 1 - 0 = 1 by rw [htrips]; rfl, loopGo]
  simp only [takeEntries_address hq, hplaces, hbody]
  rfl

/-- The place of an operand in the one iteration of a loop without counts. -/
theorem placeAt_single {s : State} {sl : SliceId} {e : Engine} {lp : Loop} (hone : lp.counts = []) (o : ScrOperand) : placeAt s sl e lp 0 o = ⟨o.tile, baseAt s sl e o⟩ := by
  have hsum : strideSum (idxVec (trips s sl e lp) 0) o.strides = 0 := by
    rw [trips, if_pos hone]
    cases o.strides with
    | nil => rfl
    | cons d ds => simp [idxVec, strideSum]
  have hlt : baseAt s sl e o < 2 ^ 32 := Nat.mod_lt _ (by decide)
  rw [placeAt, hsum, Int.add_zero, wrapNat, ← Int.natCast_mod, Int.toNat_natCast, Nat.mod_eq_of_lt hlt]

/-- VX.TLD with an operand in address mode: one misaligned, and one that reaches past its storage. -/
theorem tld_faults {s : State} {sl : SliceId} {u : Fin 4} {o : ScrOperand} {lp : Loop} (h : issues s sl .vx) (hlp : loops s sl .vx lp) (hok : lp.ok 4 = true) (ho : o.ok lp = true) :
    (baseAt s sl .vx o % 64 ≠ 0 → faults s sl .vx 0x22 (scrDetail (baseAt s sl .vx o)) (exec (.vxTld sl u o lp none) s))
    ∧ (lp.counts = [] → alignedAt s sl .vx 64 o → (placeAt s sl .vx lp 0 o).fits 1024 = false →
      faults s sl .vx 0x24 (scrDetail (baseAt s sl .vx o)) (exec (.vxTld sl u o lp none) s)) := by
  obtain ⟨l, hl⟩ := layer_of_issues h
  have hexec : exec (.vxTld sl u o lp none) s = .next (s.runOp sl .vx (withParity none (vxTldOp u o lp))) := if_pos (Bool.and_eq_true_iff.2 ⟨hok, ho⟩)
  rw [hexec]
  refine ⟨fun hbase => ?_, fun hone hal hfits => ?_⟩
  · exact runOp_faults (y := issued s sl .vx) h hl (simpleLoop_misaligned hl hlp rfl hbase) (by rw [issued_eng_same]) (by decide)
  · have hgood : Aligned s sl .vx [⟨⟨o, false, true⟩, 64, []⟩] := fun r hr _ => by
      rw [List.mem_singleton.1 hr]
      exact ⟨hal, fun d hd => absurd hd List.not_mem_nil⟩
    have hbody : checkFits [(placeAt s sl .vx lp 0 o, 1024)] = .error (causeRange, scrDetail (baseAt s sl .vx o)) := by
      rw [checkFits, hfits, placeAt_single hone]
      rfl
    refine runOp_faults (y := (issued s sl .vx).modEng .vx fun g => { g with loopPos := 0 }) h hl ?_ ?_ (by decide)
    · refine simpleLoop_fails hl hlp hone hgood ?_
      simp only [placesAt, List.map_cons, List.getD_cons_zero, hbody]
      rfl
    · rw [eng_modEng_same, issued_eng_same]

/-- Settles O24: the fault is the slice's and its command's, and storage stands. -/
theorem sliceFaults : Obligations.SliceFaults := by
  unfold Obligations.SliceFaults
  intro s sl u o lp m k e first n
  refine ⟨tld_faults, fun h hm hbase => ?_, fun h hok hn hout => ?_, fun hl hc hpc => runOp_outside_faults _ hl hc hpc⟩
  · rw [show exec (.mxMma sl m (some k)) s = .next (s.runOp sl .mx (withParity (some k) (mxMmaOp m))) from (if_pos hm).trans (if_pos (Or.inr hbase))]
    exact runOp_parity_faults k h
  · obtain ⟨l, hl⟩ := layer_of_issues h
    rw [show exec (.mxZero sl first n lp) s = .next (s.runOp sl .mx (mxZeroOp first.val n lp)) from if_pos (Bool.and_eq_true_iff.2 ⟨decide_eq_true hn, hok⟩)]
    exact runOp_faults (y := issued s sl .mx) h hl (if_pos hout) (by rw [issued_eng_same]) (by decide)

end Sys2Proof.SliceCode
end

section
/-! SUPPORT. Matrix operations (06 R187; 07 R202 to R215) in address mode: each iteration's effect, block of accumulators by block. -/

namespace Sys2Proof.SliceCode
open Sys2Proof Sys2Proof.Machine

/-! ## Folds over a block -/

section
variable {σ : Type}

theorem forN_succ (n : Nat) (f : Nat → σ → σ) (x : σ) : forN (n + 1) f x = f n (forN n f x) := by
  unfold forN
  rw [Commands.upFrom_zero, Commands.upFrom_zero, List.range_succ, List.foldl_append]
  rfl

/-- Rows of columns are the block's places in turn. -/
theorem forN_forN (rows cols : Nat) (f : Nat → Nat → σ → σ) (x : σ) :
    forN rows (fun r => forN cols (f r)) x = (upFrom 0 (rows * cols)).foldl (fun y j => f (j / cols) (j % cols) y) x := by
  induction rows with
  | zero => rw [Nat.zero_mul]; rfl
  | succ rows ih =>
    rw [forN_succ, ih, Commands.upFrom_zero, Commands.upFrom_zero, Nat.add_mul, Nat.one_mul, List.range_add, List.foldl_append, List.foldl_map, forN, Commands.upFrom_zero]
    refine List.foldl_ext _ _ _ fun y c hc => ?_
    have hlt : c < cols := List.mem_range.1 hc
    rw [Nat.add_comm, Nat.add_mul_div_right _ _ (by omega), Nat.div_eq_of_lt hlt, Nat.add_mul_mod_self_right, Nat.mod_eq_of_lt hlt, Nat.zero_add]

/-- A fold over a list's entries and their numbers. -/
theorem foldl_zipIdx {α : Type} (l : List α) (f : Nat → α → σ → σ) (n : Nat) (x : σ) :
    (l.zipIdx n).foldl (fun y e => f e.2 e.1 y) x = (upFrom n l.length).foldl (fun y i => l[i - n]?.elim y (f i · y)) x := by
  induction l generalizing n x with
  | nil => rfl
  | cons a l ih =>
    rw [List.zipIdx_cons, List.foldl_cons, ih, List.length_cons, upFrom, List.foldl_cons, Nat.sub_self]
    refine List.foldl_ext _ _ _ fun y i hi => ?_
    have hle := (mem_upFrom (n + 1) l.length i).1 hi
    rw [show i - n = (i - (n + 1)) + 1 by omega, List.getElem?_cons_succ]

end

/-- Accumulators set in turn, each from what it held: none is read after it is set. -/
theorem foldl_setAcc (v : Acc → Nat → Acc) (base n : Nat) (x : SliceSt) :
    (upFrom 0 n).foldl (fun y j => y.setAcc (base + j) (v (y.acc (base + j)) j)) x = (upFrom 0 n).foldl (fun y j => y.setAcc (base + j) (v (x.acc (base + j)) j)) x := by
  have hkept : ∀ n k, base + n ≤ k → ((upFrom 0 n).foldl (fun y j => y.setAcc (base + j) (v (x.acc (base + j)) j)) x).acc k = x.acc k := by
    intro n k hk
    induction n with
    | zero => rfl
    | succ n ih =>
      rw [Commands.upFrom_zero, List.range_succ, List.foldl_append, ← Commands.upFrom_zero, List.foldl_cons, List.foldl_nil, acc_setAcc, if_neg (by omega), ih (by omega)]
  induction n with
  | zero => rfl
  | succ n ih =>
    rw [Commands.upFrom_zero, List.range_succ, List.foldl_append, List.foldl_append, ← Commands.upFrom_zero, ih, List.foldl_cons, List.foldl_cons, hkept n (base + n) (Nat.le_refl _)]
    rfl

/-! ## Operations on the state of a slice beside its engines -/

theorem beside_clearAccs (first n : Nat) : Beside (·.clearAccs first n) := fun _ _ _ _ => rfl

section
variable (x : SliceSt) (g : Table EngineSt) (a : Table W32) (b : Bool)

theorem rdAt_beside (p : Place) (n : Nat) : SliceSt.rdAt { x with engines := g, ars := a, stepping := b } p n = x.rdAt p n := rfl

theorem wrAt_beside (p : Place) (bs : List Byte) :
    SliceSt.wrAt { x with engines := g, ars := a, stepping := b } p bs = { x.wrAt p bs with engines := g, ars := a, stepping := b } := by
  unfold SliceSt.wrAt
  split <;> rfl

theorem putElem_beside (p : Place) (f : Fmt) (i stride v : Nat) :
    SliceSt.putElem { x with engines := g, ars := a, stepping := b } p f i stride v = { x.putElem p f i stride v with engines := g, ars := a, stepping := b } := by
  unfold SliceSt.putElem
  simp only [rdAt_beside, wrAt_beside]
  split <;> rfl

theorem storeRecords_beside (p q : Place) (as : List Acc) (i j : Nat) :
    storeRecords { x with engines := g, ars := a, stepping := b } p q as i j = { storeRecords x p q as i j with engines := g, ars := a, stepping := b } := by
  induction as generalizing x i j with
  | nil => rfl
  | cons c as ih =>
    simp only [storeRecords, wrAt_beside]
    split <;> exact ih _ _ _

theorem loadRecords_beside (p q : Place) (n i j : Nat) :
    loadRecords { x with engines := g, ars := a, stepping := b } p q n i j = loadRecords x p q n i j := by
  induction n generalizing i j with
  | zero => rfl
  | succ n ih =>
    rw [loadRecords, loadRecords, ih]
    rfl

end

/-! ## Alignment -/

section
variable {s : State} {sl : SliceId} {e : Engine}

theorem aligned_nil : Aligned s sl e [] := fun _ hr => absurd hr List.not_mem_nil

theorem aligned_cons {r : AlignReq} {al : List AlignReq} (h : r.p.used = true → alignedAt s sl e r.n r.p.o ∧ ∀ d ∈ r.inner, d % r.n = 0) (hal : Aligned s sl e al) :
    Aligned s sl e (r :: al) := fun q hq => by
  rcases List.mem_cons.1 hq with rfl | hq
  · exact h
  · exact hal q hq

theorem one_inner {v n : Nat} (h : v % n = 0) : ∀ d ∈ [v], d % n = 0 := fun d hd => by rwa [List.mem_singleton.1 hd]

theorem no_inner {n : Nat} : ∀ d ∈ ([] : List Nat), d % n = 0 := fun _ hd => absurd hd List.not_mem_nil

end

/-! ## MX.ZERO (R203) -/

theorem zero_iterates {s : State} {sl : SliceId} {first : Fin 32} {n : Nat} {lp : Loop} (h : issues s sl .mx) (hlp : loops s sl .mx lp) (hok : lp.ok 4 = true) (hn : 1 ≤ n)
    (hend : first.val + n ≤ 32) : iterates s sl .mx lp [] (fun x _ => x.clearAccs first.val n) (exec (.mxZero sl first n lp) s) := by
  rw [show exec (.mxZero sl first n lp) s = .next (s.runOp sl .mx (mxZeroOp first.val n lp)) from if_pos (Bool.and_eq_true_iff.2 ⟨decide_eq_true hn, hok⟩)]
  exact runOp_iterates (ps := []) (f := fun x _ => x.clearAccs first.val n) h hlp aligned_nil (fun _ => beside_clearAccs first.val n) (fun _ _ _ => rfl) fun _ => if_neg (by omega)

/-! ## MX.MMA (R212 to R215) -/

/-- An operand's place, `n` bytes on. -/
def placeOn (pl : List Place) (o n : Nat) : Place := { pl.getD o ⟨none, 0⟩ with addr := (pl.getD o ⟨none, 0⟩).addr + n }

/-- The scale of a block of 32 elements, if its operand is scaled. -/
def mmaScale (x : SliceSt) (pl : List Place) (on : Bool) (i : Nat) : Option Nat := if on then some ((x.rdAt (pl.getD 2 ⟨none, 0⟩) 16).getD i 0).toNat else none

def mmaRowA (m : MmaOp) (x : SliceSt) (pl : List Place) (r : Nat) : List (Nat × Val) :=
  (if m.sparse then sparseRow else denseRow) x (placeOn pl 0 (r * m.ars.val)) m.fa (mmaScale x pl m.sa r)

def mmaRowB (m : MmaOp) (x : SliceSt) (pl : List Place) (c : Nat) : List (Nat × Val) :=
  denseRow x (placeOn pl 1 (c * m.brs.val)) m.fb (mmaScale x pl m.sb (8 + c))

/-- An iteration of MX.MMA: to each accumulator of the block the products of its rows. -/
def mmaStep (m : MmaOp) (x : SliceSt) (pl : List Place) : SliceSt :=
  (upFrom 0 ((shapeDim m.shape).1 * (shapeDim m.shape).2)).foldl (fun y j => y.setAcc (m.accBase + j)
    (addProducts (x.acc (m.accBase + j)) (mmaRowA m x pl (j / (shapeDim m.shape).2)) (mmaRowB m x pl (j % (shapeDim m.shape).2)))) x

theorem mmaRowA_beside (m : MmaOp) (x : SliceSt) (g : Table EngineSt) (a : Table W32) (b : Bool) (pl : List Place) (r : Nat) :
    mmaRowA m { x with engines := g, ars := a, stepping := b } pl r = mmaRowA m x pl r := by
  unfold mmaRowA
  split <;> rfl

theorem mmaRowB_beside (m : MmaOp) (x : SliceSt) (g : Table EngineSt) (a : Table W32) (b : Bool) (pl : List Place) (c : Nat) :
    mmaRowB m { x with engines := g, ars := a, stepping := b } pl c = mmaRowB m x pl c := rfl

theorem mmaStep_beside (m : MmaOp) (pl : List Place) : Beside (mmaStep m · pl) := fun x g a b => by
  simp only [mmaStep, mmaRowA_beside, mmaRowB_beside]
  exact Beside.foldl (f := fun y j => y.setAcc (m.accBase + j) (addProducts (x.acc (m.accBase + j)) (mmaRowA m x pl (j / (shapeDim m.shape).2))
    (mmaRowB m x pl (j % (shapeDim m.shape).2)))) (fun _ _ _ _ _ => rfl) _ x g a b

/-- Bytes of a scale operand. -/
def scaleBytes (m : MmaOp) : Nat := if m.sa || m.sb then 16 else 0

theorem mmaBody_ok {m : MmaOp} {pl : List Place} (x : SliceSt)
    (ha : (pl.getD 0 ⟨none, 0⟩).fits (((shapeDim m.shape).1 - 1) * m.ars.val + mmaRowBytes m.fa m.sparse) = true)
    (hb : (pl.getD 1 ⟨none, 0⟩).fits (((shapeDim m.shape).2 - 1) * m.brs.val + mmaRowBytes m.fb false) = true)
    (hs : (pl.getD 2 ⟨none, 0⟩).fits (scaleBytes m) = true) : mmaBody m x pl = .ok (mmaStep m x pl) := by
  have hfits : checkFits (rowsOf (pl.getD 0 ⟨none, 0⟩) (shapeDim m.shape).1 m.ars.val (mmaRowBytes m.fa m.sparse)
      ++ rowsOf (pl.getD 1 ⟨none, 0⟩) (shapeDim m.shape).2 m.brs.val (mmaRowBytes m.fb false) ++ [(pl.getD 2 ⟨none, 0⟩, scaleBytes m)]) = .ok () := by
    refine checkFits_ok fun q hq => ?_
    rcases List.mem_append.1 hq with hq | hq
    · exact (List.mem_append.1 hq).elim (rowsOf_fits ha q) (rowsOf_fits hb q)
    · rw [List.mem_singleton.1 hq]
      exact hs
  have hrowA : mmaRowA m x pl = fun r => if m.sparse then sparseRow x (placeOn pl 0 (r * m.ars.val)) m.fa (mmaScale x pl m.sa r)
      else denseRow x (placeOn pl 0 (r * m.ars.val)) m.fa (mmaScale x pl m.sa r) := by
    funext r
    unfold mmaRowA
    split <;> rfl
  have hbody : mmaBody m x pl = (checkFits (rowsOf (pl.getD 0 ⟨none, 0⟩) (shapeDim m.shape).1 m.ars.val (mmaRowBytes m.fa m.sparse)
      ++ rowsOf (pl.getD 1 ⟨none, 0⟩) (shapeDim m.shape).2 m.brs.val (mmaRowBytes m.fb false) ++ [(pl.getD 2 ⟨none, 0⟩, scaleBytes m)]) >>= fun _ =>
        .ok (forN (shapeDim m.shape).1 (fun r => forN (shapeDim m.shape).2 fun c y =>
          y.setAcc (m.accBase + (shapeDim m.shape).2 * r + c) (addProducts (y.acc (m.accBase + (shapeDim m.shape).2 * r + c))
            (((upFrom 0 (shapeDim m.shape).1).map (mmaRowA m x pl)).getD r []) (((upFrom 0 (shapeDim m.shape).2).map (mmaRowB m x pl)).getD c []))) x)) := by
    unfold mmaBody
    rw [hrowA]
    rfl
  rw [hbody, hfits, forN_forN]
  refine congrArg Except.ok ?_
  unfold mmaStep
  rw [← foldl_setAcc (fun c j => addProducts c (mmaRowA m x pl (j / (shapeDim m.shape).2)) (mmaRowB m x pl (j % (shapeDim m.shape).2)))]
  refine List.foldl_ext _ _ _ fun y j hj => ?_
  have hlt : j < (shapeDim m.shape).1 * (shapeDim m.shape).2 := by simpa using ((mem_upFrom 0 _ j).1 hj).2
  have hcols : 0 < (shapeDim m.shape).2 := Nat.pos_of_ne_zero fun hz => by rw [hz, Nat.mul_zero] at hlt; exact absurd hlt (Nat.not_lt_zero j)
  rw [Nat.add_assoc, Nat.div_add_mod, PreolmondLink.getD_map_upFrom _ _ _ _ (Nat.div_lt_of_lt_mul (by rwa [Nat.mul_comm])), PreolmondLink.getD_map_upFrom _ _ _ _ (Nat.mod_lt j hcols)]

end Sys2Proof.SliceCode
end

section
/-! SUPPORT. Matrix operations in address mode: MX.MMA, MX.ROUND, MX.PSTORE and MX.PLOAD as loops of their effects (07 R208 to R215). -/

namespace Sys2Proof.SliceCode
open Sys2Proof Sys2Proof.Machine

/-- MX.MMA whose rows are aligned and lie within the scratchpad. -/
theorem mma_iterates {s : State} {sl : SliceId} {m : MmaOp} (h : issues s sl .mx) (hlp : loops s sl .mx m.lp) (hok : m.ok = true) (hbase : accBaseOk m.shape m.accBase = true)
    (hend : m.accBase + (shapeDim m.shape).1 * (shapeDim m.shape).2 ≤ 32)
    (hala : alignedAt s sl .mx (mmaRowAlign m.fa m.sparse) m.a ∧ m.ars.val % mmaRowAlign m.fa m.sparse = 0)
    (halb : alignedAt s sl .mx (mmaRowAlign m.fb false) m.b ∧ m.brs.val % mmaRowAlign m.fb false = 0)
    (ha : holdsAt s sl .mx m.lp (((shapeDim m.shape).1 - 1) * m.ars.val + mmaRowBytes m.fa m.sparse) m.a)
    (hb : holdsAt s sl .mx m.lp (((shapeDim m.shape).2 - 1) * m.brs.val + mmaRowBytes m.fb false) m.b)
    (hs : (m.sa = true ∨ m.sb = true) → alignedAt s sl .mx 16 m.s ∧ holdsAt s sl .mx m.lp 16 m.s) :
    iterates s sl .mx m.lp [m.a, m.b, m.s] (mmaStep m) (exec (.mxMma sl m none) s) := by
  have hal : Aligned s sl .mx [⟨⟨m.a, false, true⟩, mmaRowAlign m.fa m.sparse, [m.ars.val]⟩, ⟨⟨m.b, false, true⟩, mmaRowAlign m.fb false, [m.brs.val]⟩,
      ⟨⟨m.s, false, m.sa || m.sb⟩, 16, []⟩] := by
    refine aligned_cons (fun _ => ⟨hala.1, one_inner hala.2⟩) (aligned_cons (fun _ => ⟨halb.1, one_inner halb.2⟩) ?_)
    exact aligned_cons (fun hused => ⟨(hs (Bool.or_eq_true_iff.1 hused)).1, no_inner⟩) aligned_nil
  have hscale : ∀ i, i < tripsTotal s sl .mx m.lp → (placeAt s sl .mx m.lp i m.s).fits (scaleBytes m) = true := fun i hi => by
    unfold scaleBytes
    split
    · next hused => exact (hs (Bool.or_eq_true_iff.1 hused)).2 i hi
    · rfl
  rw [show exec (.mxMma sl m none) s = .next (s.runOp sl .mx (withParity none (mxMmaOp m))) from (if_pos hok).trans (if_pos (Or.inr hbase))]
  exact runOp_iterates (ps := mmaOpds m) h hlp hal (mmaStep_beside m) (fun i hi y => mmaBody_ok y (ha i hi) (hb i hi) (hscale i hi)) fun l => if_neg (Nat.not_lt.2 hend)

/-! ## MX.ROUND (R206, R207, R213) -/

/-- The block converted, place by place, before it is cleared. -/
def roundedBlock (k : RoundOp) (x : SliceSt) (p : Place) : SliceSt :=
  (upFrom 0 ((shapeDim k.shape).1 * (shapeDim k.shape).2)).foldl (fun y j => y.putElem { p with addr := p.addr + j / (shapeDim k.shape).2 * k.drs.val } k.fmt
    (j % (shapeDim k.shape).2) 1 (encodeVal k.fmt k.sat ((x.acc (k.accBase + j)).value k.adj))) x

/-- An iteration of MX.ROUND. -/
def roundStep (k : RoundOp) (x : SliceSt) (pl : List Place) : SliceSt :=
  if k.clear then (roundedBlock k x (pl.getD 0 ⟨none, 0⟩)).clearAccs k.accBase ((shapeDim k.shape).1 * (shapeDim k.shape).2) else roundedBlock k x (pl.getD 0 ⟨none, 0⟩)

theorem roundedBlock_beside (k : RoundOp) (p : Place) : Beside (roundedBlock k · p) := fun x g a b =>
  Beside.foldl (f := fun y j => y.putElem { p with addr := p.addr + j / (shapeDim k.shape).2 * k.drs.val } k.fmt (j % (shapeDim k.shape).2) 1
    (encodeVal k.fmt k.sat ((x.acc (k.accBase + j)).value k.adj))) (fun _ y g a b => putElem_beside y g a b _ _ _ _ _) _ x g a b

/-- An effect after which a block may be cleared. -/
theorem beside_cleared {f : SliceSt → SliceSt} (hf : Beside f) (clear : Bool) (first n : Nat) : Beside fun x => if clear then (f x).clearAccs first n else f x := fun x g a b => by
  simp only [hf x g a b]
  split <;> rfl

theorem roundBody_ok {k : RoundOp} {pl : List Place} (x : SliceSt)
    (hd : (pl.getD 0 ⟨none, 0⟩).fits (((shapeDim k.shape).1 - 1) * k.drs.val + (shapeDim k.shape).2 * fmtBytes k.fmt) = true) : roundBody k x pl = .ok (roundStep k x pl) := by
  have hbody : roundBody k x pl = (checkFits (rowsOf (pl.getD 0 ⟨none, 0⟩) (shapeDim k.shape).1 k.drs.val ((shapeDim k.shape).2 * fmtBytes k.fmt)) >>= fun _ =>
      let y := forN (shapeDim k.shape).1 (fun r => forN (shapeDim k.shape).2 fun c y =>
        y.putElem { pl.getD 0 ⟨none, 0⟩ with addr := (pl.getD 0 ⟨none, 0⟩).addr + r * k.drs.val } k.fmt c 1
          (encodeVal k.fmt k.sat ((x.acc (k.accBase + (shapeDim k.shape).2 * r + c)).value k.adj))) x
      .ok (if k.clear then y.clearAccs k.accBase ((shapeDim k.shape).1 * (shapeDim k.shape).2) else y)) := rfl
  rw [hbody, checkFits_ok (rowsOf_fits hd), forN_forN]
  simp only [Nat.add_assoc, Nat.div_add_mod]
  rfl

theorem round_iterates {s : State} {sl : SliceId} {k : RoundOp} (h : issues s sl .mx) (hlp : loops s sl .mx k.lp) (hok : k.ok = true)
    (hend : k.accBase + (shapeDim k.shape).1 * (shapeDim k.shape).2 ≤ 32) (hal : alignedAt s sl .mx (min 16 ((shapeDim k.shape).2 * fmtBytes k.fmt)) k.d)
    (hrow : k.drs.val % min 16 ((shapeDim k.shape).2 * fmtBytes k.fmt) = 0)
    (hd : holdsAt s sl .mx k.lp (((shapeDim k.shape).1 - 1) * k.drs.val + (shapeDim k.shape).2 * fmtBytes k.fmt) k.d) :
    iterates s sl .mx k.lp [k.d] (roundStep k) (exec (.mxRound sl k none) s) := by
  rw [show exec (.mxRound sl k none) s = .next (s.runOp sl .mx (withParity none (mxRoundOp k))) from if_pos hok]
  exact runOp_iterates (ps := [⟨k.d, true, true⟩]) h hlp (aligned_cons (fun _ => ⟨hal, one_inner hrow⟩) aligned_nil)
    (fun pl => beside_cleared (roundedBlock_beside k _) _ _ _) (fun i hi y => roundBody_ok y (hd i hi)) fun l => if_neg (Nat.not_lt.2 hend)

/-! ## Partials (R208 to R211) -/

section
variable {s : State} {sl : SliceId} {p q : ScrOperand} {lp : Loop} {first : Fin 32} {n : Nat} (h : issues s sl .mx) (hlp : loops s sl .mx lp) (hok : lp.ok 4 = true)
  (hp : p.ok lp = true) (hq : q.ok lp = true) (hpt : p.tile = none) (hqt : q.tile = none) (hn : 1 ≤ n) (hend : first.val + n ≤ 32) (halp : alignedAt s sl .mx 8 p)
  (halq : alignedAt s sl .mx 16 q) (hfp : holdsAt s sl .mx lp (24 * n) p) (hfq : holdsAt s sl .mx lp (80 * n) q)

/-- An iteration of MX.PSTORE. -/
def pstoreStep (first n : Nat) (clear : Bool) (x : SliceSt) (pl : List Place) : SliceSt :=
  if clear then (storeRecords x (pl.getD 0 ⟨none, 0⟩) (pl.getD 1 ⟨none, 0⟩) ((upFrom first n).map x.acc) 0 0).clearAccs first n
  else storeRecords x (pl.getD 0 ⟨none, 0⟩) (pl.getD 1 ⟨none, 0⟩) ((upFrom first n).map x.acc) 0 0

/-- An iteration of MX.PLOAD. -/
def ploadStep (first n : Nat) (x : SliceSt) (pl : List Place) : SliceSt :=
  (loadRecords x (pl.getD 0 ⟨none, 0⟩) (pl.getD 1 ⟨none, 0⟩) n 0 0).zipIdx.foldl (fun y e => y.setAcc (first + e.2) ((y.acc (first + e.2)).addRecord e.1.1 e.1.2)) x

theorem loadRecords_length (x : SliceSt) (p q : Place) (n i j : Nat) : (loadRecords x p q n i j).length = n := by
  induction n generalizing i j with
  | zero => rfl
  | succ n ih => rw [loadRecords, List.length_cons, ih]

/-- The two places hold what `k` records and at most as many full forms take. -/
theorem records_fit {pl : List Place} {k : Nat} (hq : (pl.getD 1 ⟨none, 0⟩).fits (80 * n) = true) (hk : k ≤ n) : (pl.getD 1 ⟨none, 0⟩).fits (80 * k) = true :=
  fits_part (off := 0) hq (by omega)

theorem pstoreBody_ok {pl : List Place} {first : Nat} (clear : Bool) (x : SliceSt) (hp : (pl.getD 0 ⟨none, 0⟩).fits (24 * n) = true) (hq : (pl.getD 1 ⟨none, 0⟩).fits (80 * n) = true) :
    pstoreBody first n clear x pl = .ok (pstoreStep first n clear x pl) := by
  have hspills : (((upFrom first n).map x.acc).filter fun a => a.record.2.isSome).length ≤ n :=
    (List.length_filter_le _ _).trans (by rw [List.length_map, upFrom_length])
  have hfits := checkFits_two hp (records_fit hq hspills)
  unfold pstoreBody
  exact congrArg (· >>= _) hfits

/-- What the records add, place by place. -/
def addRecords (first : Nat) (rs : List (List Byte × List Byte)) (x : SliceSt) : SliceSt :=
  rs.zipIdx.foldl (fun y e => y.setAcc (first + e.2) ((y.acc (first + e.2)).addRecord e.1.1 e.1.2)) x

theorem ploadBody_eq (x : SliceSt) (pl : List Place) (first : Nat) : ploadBody first n x pl = (checkFits [(pl.getD 0 ⟨none, 0⟩, 24 * n)] >>= fun _ =>
    checkFits [(pl.getD 1 ⟨none, 0⟩, 80 * ((loadRecords x (pl.getD 0 ⟨none, 0⟩) (pl.getD 1 ⟨none, 0⟩) n 0 0).filter fun r => recordSpills r.1).length)] >>= fun _ =>
    .ok (addRecords first (loadRecords x (pl.getD 0 ⟨none, 0⟩) (pl.getD 1 ⟨none, 0⟩) n 0 0) x)) := by
  have hadd : ∀ rs : List (List Byte × List Byte), rs.length = n → addRecords first rs x
      = (upFrom 0 n).foldl (fun y i => rs[i]?.elim y fun r => y.setAcc (first + i) ((y.acc (first + i)).addRecord r.1 r.2)) x := fun rs hrs =>
    hrs ▸ foldl_zipIdx rs (fun i r (y : SliceSt) => y.setAcc (first + i) ((y.acc (first + i)).addRecord r.1 r.2)) 0 x
  rw [hadd _ (loadRecords_length ..)]
  unfold ploadBody forN
  have hstep : ∀ (rs : List (List Byte × List Byte)) (i : Nat) (y : SliceSt), (rs[i]?.elim y fun r => y.setAcc (first + i) ((y.acc (first + i)).addRecord r.1 r.2))
      = match rs[i]? with
        | some r => y.setAcc (first + i) ((y.acc (first + i)).addRecord r.1 r.2)
        | none => y := fun rs i y => by cases rs[i]? <;> rfl
  simp only [hstep] <;> rfl

theorem ploadBody_ok {pl : List Place} {first : Nat} (x : SliceSt) (hp : (pl.getD 0 ⟨none, 0⟩).fits (24 * n) = true) (hq : (pl.getD 1 ⟨none, 0⟩).fits (80 * n) = true) :
    ploadBody first n x pl = .ok (ploadStep first n x pl) := by
  have hspills : ((loadRecords x (pl.getD 0 ⟨none, 0⟩) (pl.getD 1 ⟨none, 0⟩) n 0 0).filter fun r => recordSpills r.1).length ≤ n :=
    (List.length_filter_le _ _).trans (Nat.le_of_eq (loadRecords_length ..))
  rw [ploadBody_eq, checkFits_one hp, checkFits_one (records_fit hq hspills)]
  rfl

include h hlp hok hp hq hpt hqt hn hend halp halq hfp hfq

theorem pstore_iterates (clear : Bool) : iterates s sl .mx lp [p, q] (pstoreStep first.val n clear) (exec (.mxPstore sl p q lp first n clear none) s) := by
  have hwf : (Instr.mxPstore sl p q lp first n clear none).wf = true := by simp [Instr.wf, accCountOk, hn, hok, hp, hq, hpt, hqt]
  rw [show exec (.mxPstore sl p q lp first n clear none) s = .next (s.runOp sl .mx (withParity none (mxPstoreOp p q lp first.val n clear))) from if_pos hwf]
  refine runOp_iterates (ps := [⟨p, true, true⟩, ⟨q, true, true⟩]) h hlp (aligned_cons (fun _ => ⟨halp, no_inner⟩) (aligned_cons (fun _ => ⟨halq, no_inner⟩) aligned_nil))
    (fun pl => beside_cleared (fun x g a b => ?_) _ _ _) (fun i hi y => pstoreBody_ok clear y (hfp i hi) (hfq i hi)) fun l => if_neg (Nat.not_lt.2 hend)
  exact storeRecords_beside x g a b _ _ _ 0 0

theorem pload_iterates : iterates s sl .mx lp [p, q] (ploadStep first.val n) (exec (.mxPload sl p q lp first n none) s) := by
  have hwf : (Instr.mxPload sl p q lp first n none).wf = true := by simp [Instr.wf, accCountOk, hn, hok, hp, hq, hpt, hqt]
  rw [show exec (.mxPload sl p q lp first n none) s = .next (s.runOp sl .mx (withParity none (mxPloadOp p q lp first.val n))) from if_pos hwf]
  refine runOp_iterates (ps := [⟨p, false, true⟩, ⟨q, false, true⟩]) h hlp (aligned_cons (fun _ => ⟨halp, no_inner⟩) (aligned_cons (fun _ => ⟨halq, no_inner⟩) aligned_nil))
    (fun pl x g a b => ?_) (fun i hi y => ploadBody_ok y (hfp i hi) (hfq i hi)) fun l => if_neg (Nat.not_lt.2 hend)
  simp only [ploadStep, loadRecords_beside]
  exact Beside.foldl (f := fun y (e : (List Byte × List Byte) × Nat) => y.setAcc (first.val + e.2) ((y.acc (first.val + e.2)).addRecord e.1.1 e.1.2)) (fun _ _ _ _ _ => rfl) _ x g a b

end

/-- Settles O17: each operation is a loop of its own effect, which neither reads nor changes engines. -/
theorem matrixOperations : Obligations.MatrixOperations := by
  unfold Obligations.MatrixOperations
  refine ⟨fun s sl first n lp m k => ?_, fun s sl p q lp first n clear h hlp hok hp hq hpt hqt hn hend halp halq hfp hfq => ?_⟩
  · intro dim out h
    refine ⟨zero_iterates h, fun hlp hok hbase hend hala hars halb hbrs ha hb hs => ?_, fun hlp hok hend hal hrow hd => ?_⟩
    · exact mma_iterates h hlp hok hbase hend ⟨hala, hars⟩ ⟨halb, hbrs⟩ ha hb hs
    · exact round_iterates h hlp hok hend hal hrow hd
  · exact ⟨pstore_iterates h hlp hok hp hq hpt hqt hn hend halp halq hfp hfq clear, pload_iterates h hlp hok hp hq hpt hqt hn hend halp halq hfp hfq⟩

end Sys2Proof.SliceCode
end

section
/-! SUPPORT. One iteration in queue mode (06 R184): the entry taken, the place it gives, the entry returned. -/

namespace Sys2Proof.SliceCode
open Sys2Proof Sys2Proof.Machine

/-! ## Queue entries -/

/-- The semaphore of the entries an operand takes. -/
def takenSem (p : Opd) (c : QCfg) : Nat := if p.out then c.free else c.full

/-- The semaphore of the entries an operand returns. -/
def returnedSem (p : Opd) (c : QCfg) : Nat := if p.out then c.full else c.free

/-- The pointer of an operand's queue. -/
def queuePtr (p : Opd) (x : SliceSt) : Nat := tget (if p.out then x.qTail else x.qHead) p.o.queue.val 0

section
variable {l : LayerRun} {e : Engine} {p : Opd} (hp : p.queued (l.qmode e) = true) (hlevel : p.o.qlevel = 0)
include hp

theorem start_queued (x : SliceSt) : p.start x l e = queuePtr p x := if_pos hp

/-- An operand whose queue's pointer and whose strides keep its alignment. -/
theorem misaligned_queued {x : SliceSt} {n : Nat} (hptr : queuePtr p x % n = 0) (hstrides : ∀ d ∈ p.o.strides, d % (n : Int) = 0) : misaligned x l e [⟨p, n, []⟩] = none := by
  rw [misaligned]
  refine if_neg fun hbad => ?_
  simp only [start_queued hp, Bool.and_eq_true, Bool.or_eq_true, decide_eq_true_eq, List.any_eq_true, List.not_mem_nil, false_and, exists_false, or_false] at hbad
  obtain ⟨-, hb | ⟨d, hd, hb⟩⟩ := hbad
  · exact hb hptr
  · exact hb (hstrides d hd)

include hlevel

theorem opdPlace_queued {x : SliceSt} (hptr : queuePtr p x < 2 ^ 32) : opdPlace x l e [0] p = ⟨none, queuePtr p x⟩ := by
  rw [opdPlace, if_pos hp, hlevel]
  change (⟨none, wrapNat (queuePtr p x + 0) 32⟩ : Place) = _
  rw [Int.add_zero, wrapNat, ← Int.natCast_mod, Int.toNat_natCast, Nat.mod_eq_of_lt hptr]

theorem acquire_queued (x : SliceSt) {r : Acq} (hnone : l.queue p.o.queue.val = none → r = .range 0)
    (hsome : ∀ c, l.queue p.o.queue.val = some c → r = if 0x8000 < c.base + c.cap then .range 0x8000
      else if x.semReady e (takenSem p c) 1 then .ok (x.setSem (takenSem p c) (x.sem (takenSem p c) - 1)) else .wait (Fin.ofNat 16 (takenSem p c)) 1) :
    acquire l e [0] [p] x = r := by
  rw [acquire, if_pos (by rw [hp, hlevel]; rfl)]
  split
  · next hq => exact (hnone hq).symm
  · next c hq => exact (hsome c hq).symm

variable {c : QCfg} (hc : l.queue p.o.queue.val = some c)
include hc

theorem ends_queued : p.ends l e [1] [0] = some c := by
  rw [Opd.ends, if_pos (by rw [hp, hlevel]; rfl), hc]

theorem release_queued (x : SliceSt) : release l e [1] [0] [p] x = x.giveBack p c := by
  rw [release, ends_queued hp hlevel hc]
  rfl

theorem fullSem_queued (x : SliceSt) : fullSem l e [1] [0] [p] x = if 255 ≤ x.sem (returnedSem p c) then some (Fin.ofNat 16 (returnedSem p c)) else none := by
  rw [fullSem, ends_queued hp hlevel hc]
  rfl

end

/-! ## What taking an entry comes to -/

section
variable {l : LayerRun} {e : Engine} {p : Opd} (hp : p.queued (l.qmode e) = true) (hlevel : p.o.qlevel = 0) (x : SliceSt)
include hp hlevel

theorem take_disabled (hc : l.queue p.o.queue.val = none) : takeEntries l e [1] [0] [p] x = .range 0 := by
  rw [takeEntries, acquire_queued hp hlevel x (r := .range 0) (fun _ => rfl) fun c h => by rw [hc] at h; exact absurd h nofun]

variable {c : QCfg} (hc : l.queue p.o.queue.val = some c)
include hc

theorem acquire_enabled : acquire l e [0] [p] x = if 0x8000 < c.base + c.cap then .range 0x8000
    else if x.semReady e (takenSem p c) 1 then .ok (x.setSem (takenSem p c) (x.sem (takenSem p c) - 1)) else .wait (Fin.ofNat 16 (takenSem p c)) 1 :=
  acquire_queued hp hlevel x (fun h => by rw [hc] at h; exact absurd h nofun) fun d h => by rw [hc] at h; rw [Option.some.inj h]

theorem take_outside (hout : 0x8000 < c.base + c.cap) : takeEntries l e [1] [0] [p] x = .range 0x8000 := by
  rw [takeEntries, acquire_enabled hp hlevel x hc, if_pos hout]

variable (hin : c.base + c.cap ≤ 0x8000)
include hin

theorem take_empty (hr : ¬ x.semReady e (takenSem p c) 1 = true) : takeEntries l e [1] [0] [p] x = .wait (Fin.ofNat 16 (takenSem p c)) 1 := by
  rw [takeEntries, acquire_enabled hp hlevel x hc, if_neg (Nat.not_lt.2 hin), if_neg hr]

variable (hr : x.semReady e (takenSem p c) 1 = true) (hne : returnedSem p c ≠ takenSem p c)
include hr hne

theorem take_ready : takeEntries l e [1] [0] [p] x = if 255 ≤ x.sem (returnedSem p c) then .wait (Fin.ofNat 16 (returnedSem p c)) 256
    else .ok (x.setSem (takenSem p c) (x.sem (takenSem p c) - 1)) := by
  rw [takeEntries, acquire_enabled hp hlevel x hc, if_neg (Nat.not_lt.2 hin), if_pos hr]
  simp only [fullSem_queued hp hlevel hc, sem_setSem, if_neg hne]
  by_cases hfull : 255 ≤ x.sem (returnedSem p c)
  · simp only [if_pos hfull]
  · simp only [if_neg hfull]

end

/-! ## The operation's one iteration -/

/-- An engine that stands before the first iteration of its operation. -/
def atFirst (e : Engine) (x : SliceSt) : SliceSt := x.modEng e fun g => { g with loopPos := 0 }

section
variable {s : State} {sl : SliceId} {e : Engine} {lp : Loop} {l : LayerRun} {p : Opd} {n : Nat} {body : SliceSt → List Place → Except (Nat × Nat) SliceSt} (hone : lp.counts = [])
  (hpos : ((s.slice sl).eng e).loopPos = 0) (hal : misaligned (issued s sl e) l e [⟨p, n, []⟩] = none)
include hone hpos hal

/-- A loop without counts is one iteration from the start. -/
theorem runLoop_one : runLoop (issued s sl e) l e lp [p] [⟨p, n, []⟩] () (fun y _ pl _ => (body y pl).map fun z => (z, ()))
    = loopGo l e [1] [p] (fun y _ pl _ => (body y pl).map fun z => (z, ())) 1 0 (issued s sl e) () := by
  have hcounts : (issued s sl e).counts e lp = some [1] := by
    unfold SliceSt.counts
    rw [if_pos hone]
    rfl
  have hloop : ((issued s sl e).eng e).loopPos = 0 := by rw [issued_eng_same]; exact hpos
  unfold runLoop
  simp only [hcounts, hal, hloop]
  rfl

theorem simpleLoop_range {b : Nat} (ht : takeEntries l e [1] [0] [p] (issued s sl e) = .range b) :
    simpleLoop (issued s sl e) l e lp [p] [⟨p, n, []⟩] body = .fault (atFirst e (issued s sl e)) causeRange (scrDetail b) := by
  rw [simpleLoop, runLoop_one hone hpos hal, loopGo]
  simp only [idxVec, Nat.zero_mod, ht]
  rfl

theorem simpleLoop_waits {k : Fin 16} {m : Nat} (ht : takeEntries l e [1] [0] [p] (issued s sl e) = .wait k m) :
    simpleLoop (issued s sl e) l e lp [p] [⟨p, n, []⟩] body = .wait (atFirst e (issued s sl e)) k m := by
  rw [simpleLoop, runLoop_one hone hpos hal, loopGo]
  simp only [idxVec, Nat.zero_mod, ht]
  rfl

theorem simpleLoop_takes {y z w : SliceSt} (ht : takeEntries l e [1] [0] [p] (issued s sl e) = .ok y) (hb : body y [opdPlace y l e [0] p] = .ok z)
    (hw : release l e [1] [0] [p] z = w) : simpleLoop (issued s sl e) l e lp [p] [⟨p, n, []⟩] body = .done w (iterationsLeft (issued s sl e) e lp) := by
  rw [simpleLoop, runLoop_one hone hpos hal, loopGo]
  simp only [idxVec, Nat.zero_mod, ht, List.map_cons, List.map_nil, hb, Except.map, hw]
  rfl

end

/-! ## An operation of one queue operand -/

section
variable {s : State} {sl : SliceId} {l : LayerRun} {lp : Loop} {p : Opd} {c : QCfg} {n : Nat} {body : SliceSt → List Place → Except (Nat × Nat) SliceSt} {f : SliceSt → LayerRun → OpOut}
  (h : issues s sl .vx) (hone : lp.counts = []) (hpos : ((s.slice sl).eng .vx).loopPos = 0) (hl : (s.slice sl).layer = some l) (hp : p.queued (l.qmode .vx) = true)
  (hlevel : p.o.qlevel = 0) (hptr : queuePtr p (s.slice sl) % n = 0) (hstrides : ∀ d ∈ p.o.strides, d % (n : Int) = 0)
  (hf : f (issued s sl .vx) l = simpleLoop (issued s sl .vx) l .vx lp [p] [⟨p, n, []⟩] body)

theorem atFirst_eng_same (s : State) (sl : SliceId) (e : Engine) : (atFirst e (issued s sl e)).eng e = { (issued s sl e).eng e with loopPos := 0 } :=
  eng_modEng_same (issued s sl e) e fun g => { g with loopPos := 0 }

theorem atFirst_eng_other (s : State) (sl : SliceId) {e k : Engine} (hk : k ≠ e) : (atFirst e (issued s sl e)).eng k = (s.slice sl).eng k :=
  (eng_modEng_other (issued s sl e) e k (fun g => { g with loopPos := 0 }) hk).trans (issued_eng_other s sl hk)

include h hone hpos hl hp hptr hstrides hf

theorem queue_faults {b : Nat} (ht : takeEntries l .vx [1] [0] [p] (issued s sl .vx) = .range b) : faults s sl .vx 0x24 (scrDetail b) (.next (s.runOp sl .vx f)) := by
  refine runOp_faults (y := atFirst .vx (issued s sl .vx)) h hl (hf.trans (simpleLoop_range hone hpos (misaligned_queued hp hptr hstrides) ht)) ?_ (by decide)
  rw [atFirst_eng_same, issued_eng_same]

theorem queue_waits {k : Fin 16} {m : Nat} (ht : takeEntries l .vx [1] [0] [p] (issued s sl .vx) = .wait k m) : waitsSem s sl .vx k m (.next (s.runOp sl .vx f)) := by
  refine runOp_waitsSem (y := atFirst .vx (issued s sl .vx)) h hl (hf.trans (simpleLoop_waits hone hpos (misaligned_queued hp hptr hstrides) ht)) ?_ ?_ ?_ ?_
  · rw [atFirst_eng_same]
    exact hpos.symm
  · rw [atFirst_eng_same, issued_eng_same]
  · rw [atFirst_eng_same, issued_eng_same]
  · exact fun k hk => atFirst_eng_other s sl hk

include hlevel in
/-- An entry taken, the effect at the queue's pointer, and the entry returned. -/
theorem queue_takes {z : SliceSt} (hc : l.queue p.o.queue.val = some c) (hin : c.base + c.cap ≤ 0x8000) (hr : (issued s sl .vx).semReady .vx (takenSem p c) 1 = true)
    (hne : returnedSem p c ≠ takenSem p c) (hroom : (s.slice sl).sem (returnedSem p c) < 255) (hlt : queuePtr p (s.slice sl) < 2 ^ 32)
    (hb : body ((issued s sl .vx).setSem (takenSem p c) ((s.slice sl).sem (takenSem p c) - 1)) [⟨none, queuePtr p (s.slice sl)⟩] = .ok z) :
    onlySlice s (s.runOp sl .vx f) sl ∧ SameButPerf ((z.giveBack p c).retire .vx) ((s.runOp sl .vx f).slice sl) := by
  have htake : takeEntries l .vx [1] [0] [p] (issued s sl .vx) = .ok ((issued s sl .vx).setSem (takenSem p c) ((s.slice sl).sem (takenSem p c) - 1)) :=
    (take_ready hp hlevel (issued s sl .vx) hc hin hr hne).trans (if_neg (Nat.not_le.2 hroom))
  refine runOp_done_spec h hl (hf.trans (simpleLoop_takes hone hpos (misaligned_queued hp hptr hstrides) htake ?_ (release_queued hp hlevel hc z)))
  rw [opdPlace_queued (x := (issued s sl .vx).setSem (takenSem p c) ((s.slice sl).sem (takenSem p c) - 1)) hp hlevel hlt]
  exact hb

end

/-! ## VX.KLD and VX.TST -/

theorem semReady_of_mx {s : State} {sl : SliceId} (hmx : ((s.slice sl).eng .mx).state ≠ .semWait) {k : Nat} (hk : 1 ≤ (s.slice sl).sem k) :
    (issued s sl .vx).semReady .vx k 1 = true := by
  refine (semReady_iff s sl .vx k 1).2 ⟨hk, ?_⟩
  rintro ⟨f, m, hlt, hstate, -⟩
  cases f with
  | mx => exact hmx hstate
  | vx | bx | cx => exact absurd hlt (by decide)

theorem not_semReady {s : State} {sl : SliceId} {e : Engine} {k : Nat} (hk : (s.slice sl).sem k = 0) : ¬ (issued s sl e).semReady e k 1 = true := fun hr => by
  have hle := ((semReady_iff s sl e k 1).1 hr).1
  omega

/-- Semaphores once an entry has been taken from `k` and one returned to `j`. -/
theorem sem_exchanged {x y z : SliceSt} {j k : Nat} (hne : j ≠ k) (hy : ∀ i, y.sem i = (x.setSem k (x.sem k - 1)).sem i) (hz : ∀ i, z.sem i = (y.setSem j (y.sem j + 1)).sem i) :
    z.sem k = x.sem k - 1 ∧ z.sem j = x.sem j + 1 := by
  constructor
  · rw [hz, sem_setSem, if_neg hne.symm, hy, sem_setSem, if_pos rfl]
  · rw [hz, sem_setSem, if_pos rfl, hy, sem_setSem, if_neg hne]

/-- A slice with the constant at `q`. -/
def withConst (k : Fin 4) (f : Fmt) (q : Place) (y : SliceSt) : SliceSt := { y with consts := tput y.consts k.val ⟨f, BitVec.ofNat 64 (y.getOne q f)⟩ }

/-- An iteration of VX.KLD. -/
def kldBody (k : Fin 4) (f : Fmt) (y : SliceSt) (pl : List Place) : Except (Nat × Nat) SliceSt :=
  checkFits [(pl.getD 0 ⟨none, 0⟩, fmtBytes f)] >>= fun _ => .ok (withConst k f (pl.getD 0 ⟨none, 0⟩) y)

theorem kldBody_ok (k : Fin 4) {f : Fmt} (y : SliceSt) {q : Place} (hq : q.fits (fmtBytes f) = true) :
    kldBody k f y [q] = .ok (withConst k f q y) := by
  unfold kldBody
  rw [List.getD_cons_zero, checkFits_one hq]
  rfl

theorem kldOp_eq (k : Fin 4) (o : ScrOperand) (f : Fmt) (lp : Loop) (x : SliceSt) (l : LayerRun) :
    withParity none (vxKldOp k o f lp) x l = simpleLoop x l .vx lp [⟨o, false, true⟩] [⟨⟨o, false, true⟩, fmtBytes f, []⟩] (kldBody k f) := rfl

/-- A slice with tile `u` at `q`. -/
def withTile (u : Fin 4) (q : Place) (y : SliceSt) : SliceSt := y.wrAt q (y.rdAt (tilePlace u) 1024)

/-- An iteration of VX.TST. -/
def tstBody (u : Fin 4) (y : SliceSt) (pl : List Place) : Except (Nat × Nat) SliceSt :=
  checkFits [(pl.getD 0 ⟨none, 0⟩, 1024)] >>= fun _ => .ok (withTile u (pl.getD 0 ⟨none, 0⟩) y)

theorem tstBody_ok (u : Fin 4) (y : SliceSt) {q : Place} (hq : q.fits 1024 = true) : tstBody u y [q] = .ok (withTile u q y) := by
  unfold tstBody
  rw [List.getD_cons_zero, checkFits_one hq]
  rfl

theorem tstOp_eq (u : Fin 4) (o : ScrOperand) (lp : Loop) (x : SliceSt) (l : LayerRun) :
    withParity none (vxTstOp u o lp) x l = simpleLoop x l .vx lp [⟨o, true, true⟩] [⟨⟨o, true, true⟩, 64, []⟩] (tstBody u) := rfl

/-- A slice whose VX.KLD has retired. -/
theorem kld_taken_spec {x t : SliceSt} {g : Table EngineSt} {o : ScrOperand} {c : QCfg} {k : Fin 4} {f : Fmt} (hne : c.full ≠ c.free)
    (ht : SameButPerf (((withConst k f ⟨none, tget x.qHead o.queue.val 0⟩ ((withEngines x g).setSem c.full (x.sem c.full - 1))).giveBack ⟨o, false, true⟩ c).retire .vx) t) :
    t.consts = tput x.consts k.val ⟨f, BitVec.ofNat 64 (leNat (rdN x.scratch (tget x.qHead o.queue.val 0) (fmtBytes f)) % 2 ^ fmtBits f)⟩ ∧ t.sem c.full = x.sem c.full - 1
    ∧ t.sem c.free = x.sem c.free + 1 ∧ t.qHead = tput x.qHead o.queue.val (c.next (tget x.qHead o.queue.val 0)) ∧ t.qTail = x.qTail ∧ t.scratch = x.scratch := by
  obtain ⟨-, hsem, -⟩ := kept_of_retire ht
  obtain ⟨hfull, hfree⟩ := sem_exchanged (x := x) (y := (withEngines x g).setSem c.full (x.sem c.full - 1)) hne.symm (fun _ => rfl) hsem
  refine ⟨?_, hfull, hfree, ?_, ?_, ?_⟩
  all_goals
    rw [ht]
    rfl

theorem withTile_eq {u : Fin 4} {a : Nat} {y : SliceSt} {bs : List Byte} (hbs : y.rdAt (tilePlace u) 1024 = bs) : withTile u ⟨none, a⟩ y = { y with scratch := wrL y.scratch a bs } := by
  rw [withTile, hbs]
  rfl

/-- A slice whose VX.TST has retired. -/
theorem tst_taken_spec {x t : SliceSt} {g : Table EngineSt} {o : ScrOperand} {c : QCfg} {u : Fin 4} (hne : c.full ≠ c.free)
    (ht : SameButPerf (((withTile u ⟨none, tget x.qTail o.queue.val 0⟩ ((withEngines x g).setSem c.free (x.sem c.free - 1))).giveBack ⟨o, true, true⟩ c).retire .vx) t) :
    t.scratch = wrL x.scratch (tget x.qTail o.queue.val 0) (rdN x.tiles (1024 * u.val) 1024) ∧ t.sem c.free = x.sem c.free - 1 ∧ t.sem c.full = x.sem c.full + 1
    ∧ t.qTail = tput x.qTail o.queue.val (c.next (tget x.qTail o.queue.val 0)) ∧ t.qHead = x.qHead ∧ t.tiles = x.tiles := by
  obtain ⟨-, hsem, -⟩ := kept_of_retire ht
  have hread : ((withEngines x g).setSem c.free (x.sem c.free - 1)).rdAt (tilePlace u) 1024 = rdN x.tiles (1024 * u.val) 1024 := rfl
  generalize rdN x.tiles (1024 * u.val) 1024 = bs at hread ⊢
  rw [withTile_eq hread] at ht hsem
  obtain ⟨hfree, hfull⟩ := sem_exchanged (x := x) (y := (withEngines x g).setSem c.free (x.sem c.free - 1)) hne (fun _ => rfl) hsem
  refine ⟨?_, hfree, hfull, ?_, ?_, ?_⟩
  all_goals
    rw [ht]
    rfl

section
variable {s : State} {sl : SliceId} {o : ScrOperand} {lp : Loop} {l : LayerRun} {c : QCfg} (h : issues s sl .vx) (hone : lp.counts = []) (hpos : ((s.slice sl).eng .vx).loopPos = 0)
  (hl : (s.slice sl).layer = some l) (hq : l.qmode .vx = true) (htile : o.tile = none) (hok : o.ok lp = true) (hmx : ((s.slice sl).eng .mx).state ≠ .semWait)

include hone hok in
theorem qlevel_zero : o.qlevel = 0 := by
  have hlevels : o.qlevel < lp.levels := (of_decide_eq_true (Bool.and_eq_true_iff.1 hok).2).2
  rw [Loop.levels, hone] at hlevels
  exact Nat.lt_one_iff.1 hlevels

include hq htile in
theorem queued_of_qmode (out : Bool) : (⟨o, out, true⟩ : Opd).queued (l.qmode .vx) = true := by
  rw [Opd.queued, hq, htile]
  rfl

include h hone hpos hl hq htile hok hmx

/-- VX.KLD takes its constant's bytes at the head of its queue. -/
theorem kld_queue (k : Fin 4) (f : Fmt) (hstrides : ∀ d ∈ o.strides, d % (fmtBytes f : Int) = 0) (hptr : tget (s.slice sl).qHead o.queue.val 0 % fmtBytes f = 0) :
    (l.queue o.queue.val = none → faults s sl .vx 0x24 (scrDetail 0) (exec (.vxKld sl k o f lp none) s))
    ∧ (l.queue o.queue.val = some c → 0x8000 < c.base + c.cap → faults s sl .vx 0x24 (scrDetail 0x8000) (exec (.vxKld sl k o f lp none) s))
    ∧ (l.queue o.queue.val = some c → c.base + c.cap ≤ 0x8000 → (s.slice sl).sem c.full = 0 → waitsSem s sl .vx (Fin.ofNat 16 c.full) 1 (exec (.vxKld sl k o f lp none) s))
    ∧ (l.queue o.queue.val = some c → c.base + c.cap ≤ 0x8000 → c.full ≠ c.free → 1 ≤ (s.slice sl).sem c.full → 255 ≤ (s.slice sl).sem c.free →
      waitsSem s sl .vx (Fin.ofNat 16 c.free) 256 (exec (.vxKld sl k o f lp none) s))
    ∧ (l.queue o.queue.val = some c → c.base + c.cap ≤ 0x8000 → c.full ≠ c.free → 1 ≤ (s.slice sl).sem c.full → (s.slice sl).sem c.free < 255 →
      tget (s.slice sl).qHead o.queue.val 0 + fmtBytes f ≤ 0x8000 → ran (exec (.vxKld sl k o f lp none) s) fun t => onlySlice s t sl ∧ advanced s t sl .vx
        ∧ (t.slice sl).consts = tput (s.slice sl).consts k.val ⟨f, BitVec.ofNat 64 (leNat (rdN (s.slice sl).scratch (tget (s.slice sl).qHead o.queue.val 0) (fmtBytes f)) % 2 ^ fmtBits f)⟩
        ∧ (t.slice sl).sem c.full = (s.slice sl).sem c.full - 1 ∧ (t.slice sl).sem c.free = (s.slice sl).sem c.free + 1
        ∧ (t.slice sl).qHead = tput (s.slice sl).qHead o.queue.val (c.next (tget (s.slice sl).qHead o.queue.val 0)) ∧ (t.slice sl).qTail = (s.slice sl).qTail
        ∧ (t.slice sl).scratch = (s.slice sl).scratch) := by
  have hwf : (lp.ok 4 && o.ok lp) = true := by rw [hok, Loop.ok, hone]; rfl
  have hexec : exec (.vxKld sl k o f lp none) s = .next (s.runOp sl .vx (withParity none (vxKldOp k o f lp))) := if_pos hwf
  have hp : (⟨o, false, true⟩ : Opd).queued (l.qmode .vx) = true := queued_of_qmode hq htile false
  have hlevel : o.qlevel = 0 := qlevel_zero hone hok
  rw [hexec]
  refine ⟨fun hc => ?_, fun hc hout => ?_, fun hc hin hempty => ?_, fun hc hin hne hentry hfull => ?_, fun hc hin hne hentry hroom hend => ?_⟩
  · exact queue_faults h hone hpos hl hp hptr hstrides (kldOp_eq ..) (take_disabled hp hlevel _ hc)
  · exact queue_faults h hone hpos hl hp hptr hstrides (kldOp_eq ..) (take_outside hp hlevel _ hc hout)
  · exact queue_waits h hone hpos hl hp hptr hstrides (kldOp_eq ..) (take_empty hp hlevel _ hc hin (not_semReady hempty))
  · exact queue_waits h hone hpos hl hp hptr hstrides (kldOp_eq ..) ((take_ready hp hlevel _ hc hin (semReady_of_mx hmx hentry) hne.symm).trans (if_pos hfull))
  · have hfits : (⟨none, tget (s.slice sl).qHead o.queue.val 0⟩ : Place).fits (fmtBytes f) = true := Bool.or_eq_true_iff.2 (.inr (decide_eq_true hend))
    obtain ⟨honly, hslice⟩ := queue_takes h hone hpos hl hp hlevel hptr hstrides (kldOp_eq k o f lp _ _) hc hin (semReady_of_mx hmx hentry) hne.symm hroom
      (Nat.lt_of_le_of_lt (Nat.le_trans (Nat.le_add_right _ _) hend) (by decide)) (kldBody_ok k _ hfits)
    rw [issued_eq] at hslice
    generalize hg : issuedEngines s sl .vx = g at hslice
    have hadv : advanced s (s.runOp sl .vx (withParity none (vxKldOp k o f lp))) sl .vx := advanced_of_retire h hg.symm hslice
    exact ⟨_, rfl, honly, hadv, kld_taken_spec (x := s.slice sl) (g := g) hne hslice⟩

/-- VX.TST writes its tile at the tail of its queue. -/
theorem tst_queue (u : Fin 4) (hstrides : ∀ d ∈ o.strides, d % 64 = 0) (hptr : tget (s.slice sl).qTail o.queue.val 0 % 64 = 0) (hc : l.queue o.queue.val = some c)
    (hin : c.base + c.cap ≤ 0x8000) (hne : c.full ≠ c.free) :
    ((s.slice sl).sem c.free = 0 → waitsSem s sl .vx (Fin.ofNat 16 c.free) 1 (exec (.vxTst sl u o lp none) s))
    ∧ (1 ≤ (s.slice sl).sem c.free → (s.slice sl).sem c.full < 255 → tget (s.slice sl).qTail o.queue.val 0 + 1024 ≤ 0x8000 →
      ran (exec (.vxTst sl u o lp none) s) fun t => onlySlice s t sl ∧ advanced s t sl .vx
        ∧ (t.slice sl).scratch = wrL (s.slice sl).scratch (tget (s.slice sl).qTail o.queue.val 0) (rdN (s.slice sl).tiles (1024 * u.val) 1024)
        ∧ (t.slice sl).sem c.free = (s.slice sl).sem c.free - 1 ∧ (t.slice sl).sem c.full = (s.slice sl).sem c.full + 1
        ∧ (t.slice sl).qTail = tput (s.slice sl).qTail o.queue.val (c.next (tget (s.slice sl).qTail o.queue.val 0)) ∧ (t.slice sl).qHead = (s.slice sl).qHead
        ∧ (t.slice sl).tiles = (s.slice sl).tiles) := by
  have hwf : (lp.ok 4 && o.ok lp) = true := by rw [hok, Loop.ok, hone]; rfl
  have hexec : exec (.vxTst sl u o lp none) s = .next (s.runOp sl .vx (withParity none (vxTstOp u o lp))) := if_pos hwf
  have hp : (⟨o, true, true⟩ : Opd).queued (l.qmode .vx) = true := queued_of_qmode hq htile true
  have hlevel : o.qlevel = 0 := qlevel_zero hone hok
  rw [hexec]
  refine ⟨fun hempty => ?_, fun hentry hroom hend => ?_⟩
  · exact queue_waits h hone hpos hl hp hptr hstrides (tstOp_eq ..) (take_empty hp hlevel _ hc hin (not_semReady hempty))
  · have hfits : (⟨none, tget (s.slice sl).qTail o.queue.val 0⟩ : Place).fits 1024 = true := Bool.or_eq_true_iff.2 (.inr (decide_eq_true hend))
    obtain ⟨honly, hslice⟩ := queue_takes h hone hpos hl hp hlevel hptr hstrides (tstOp_eq u o lp _ _) hc hin (semReady_of_mx hmx hentry) hne hroom
      (Nat.lt_of_le_of_lt (Nat.le_trans (Nat.le_add_right _ _) hend) (by decide)) (tstBody_ok u _ hfits)
    rw [issued_eq] at hslice
    generalize hg : issuedEngines s sl .vx = g at hslice
    have hadv : advanced s (s.runOp sl .vx (withParity none (vxTstOp u o lp))) sl .vx := advanced_of_retire h hg.symm hslice
    exact ⟨_, rfl, honly, hadv, tst_taken_spec (x := s.slice sl) (g := g) hne hslice⟩

end

/-- Settles O23. That a queue not enabled faults with detail 0, one past the scratchpad with 0x8000, and that an operation waits before it takes anything while its return
would pass 255, are the model's choices of its log 58. -/
theorem queueMode : Obligations.QueueMode := by
  unfold Obligations.QueueMode
  intro s sl k u f o lp l c x q head tail h hone hpos hl hq htile hok hmx
  exact ⟨kld_queue h hone hpos hl hq htile hok hmx k f, tst_queue h hone hpos hl hq htile hok hmx u⟩

end Sys2Proof.SliceCode
end

section
/-! SUPPORT. Stops of running LAYERs (06 R176, 05 R164), and their suspension (10 R297). -/

namespace Sys2Proof.SliceCode
open Sys2Proof Sys2Proof.Machine

/-! ## Withdrawal of what BX waits for -/

/-- What withdrawal of a wait keeps: slices, memory and commands. -/
structure Withdrawn (s t : State) : Prop where
  slices : t.slices = s.slices
  mem : t.mem = s.mem
  ctx : ∀ c r, t.ctx c r = s.ctx c r

theorem Withdrawn.refl (s : State) : Withdrawn s s := ⟨rfl, rfl, fun _ _ => rfl⟩

theorem Withdrawn.trans {s t u : State} (hst : Withdrawn s t) (htu : Withdrawn t u) : Withdrawn s u :=
  ⟨htu.slices.trans hst.slices, htu.mem.trans hst.mem, fun c r => (htu.ctx c r).trans (hst.ctx c r)⟩

theorem withdrawn_modChan (s : State) (c : Nat) {f : Channel → Channel} (hf : (f (s.chan c)).ctxs = (s.chan c).ctxs) : Withdrawn s (s.modChan c f) :=
  ⟨rfl, rfl, Commands.ctx_modChan hf⟩

theorem withdrawn_modObj (s : State) (o : ObjRef) (f : SyncObj → SyncObj) : Withdrawn s (s.modObj o f) := by
  cases o with
  | chan c k => exact withdrawn_modChan s c rfl
  | module m => exact ⟨rfl, rfl, fun _ _ => rfl⟩

theorem withdrawn_withdrawBx (s : State) (sl : SliceId) (r : Rec) (w : BxWait) : Withdrawn s (s.withdrawBx sl r w) := by
  unfold State.withdrawBx
  extract_lets c
  split
  · next s₁ _ o v =>
    have hheld : Withdrawn s s₁ := withdrawn_modChan s c rfl
    split
    · exact hheld
    · extract_lets left entry who s₂ s₃
      split
      · exact hheld.trans (withdrawn_modChan s₁ c rfl)
      · have hentry : Withdrawn s s₂ := hheld.trans (withdrawn_modChan s₁ c rfl)
        exact (hentry.trans (withdrawn_modObj s₂ o _)).trans ⟨rfl, rfl, fun _ _ => rfl⟩
  · next o =>
    extract_lets s₁
    have hheld : Withdrawn s s₁ := withdrawn_modChan s c rfl
    split
    · exact hheld
    · exact hheld.trans (withdrawn_modObj s₁ o _)
  · exact Withdrawn.refl s

/-! ## Stops (R176, R164) -/

/-- A slice whose LAYER has stopped. -/
def stoppedSlice (x : SliceSt) : SliceSt :=
  { x with engines := tmap x.engines (fun _ => stopEngine), bxWait := .none, layer := none, stopReq := false, pinned := false
           icache := x.icache.map (fun k => { k with pinned := false }) }

/-- A command answered: stopped. -/
def answered (sl : SliceId) (m : Cmd) : Cmd := { m with todo := m.todo.filter (· ≠ sl), running := m.running.filter (· ≠ sl), stopped := m.stopped ++ [sl] }

theorem stopRunning_eq (s : State) (sl : SliceId) (l : LayerRun) : s.stopRunning sl l =
    ((s.withdrawBx sl l.record (s.slice sl).bxWait).modSlice sl stoppedSlice).modCmd (slChan sl) l.record.val l.pos (answered sl) := rfl

/-- Engines of a slice whose LAYER has stopped: each at rest, with nothing left to issue. -/
theorem stoppedSlice_eng (x : SliceSt) (e : Engine) : ((stoppedSlice x).eng e).active = false ∧ ((stoppedSlice x).eng e).queue = [] := by
  have heng : (stoppedSlice x).eng e = ((tfind x.engines (engIx e)).map stopEngine).getD .zero := by
    rw [SliceSt.eng, tget, stoppedSlice, tfind_tmap]
  rw [heng]
  cases tfind x.engines (engIx e) with
  | none => exact ⟨rfl, rfl⟩
  | some g => exact ⟨rfl, rfl⟩

/-- A stop request at a running LAYER. -/
theorem sliceStop_spec {s : State} {sl : SliceId} {l : LayerRun} {m : Cmd} (hl : (s.slice sl).layer = some l) (hstop : (s.slice sl).stopReq = true)
    (hm : s.cmd (slChan sl) l.record.val l.pos = some m) (hw : (s.slice sl).bxWait ≠ .result) :
    ∃ t, exec (.sliceStop sl) s = .next t ∧ t.slice sl = stoppedSlice (s.slice sl) ∧ t.mem = s.mem ∧ t.cmd (slChan sl) l.record.val l.pos = some (answered sl m) := by
  have hexec : exec (.sliceStop sl) s = .next (s.stopRunning sl l) := by
    show execSliceStop sl s = _
    unfold execSliceStop
    simp only [hl, hstop, Bool.not_true, Bool.false_eq_true, if_false, if_neg hw]
  have hwithdrawn := withdrawn_withdrawBx s sl l.record (s.slice sl).bxWait
  refine ⟨_, hexec, ?_, ?_, ?_⟩
  · rw [stopRunning_eq, State.modCmd_read_slice, slice_modSlice_same, Commands.slice_congr hwithdrawn.slices]
  · rw [stopRunning_eq, State.modCmd_mem, State.modSlice_mem, hwithdrawn.mem]
  · rw [stopRunning_eq]
    refine Commands.cmd_modCmd_same (f := answered sl) (fun _ => rfl) ?_
    rw [State.modSlice_read_cmd, State.cmd, hwithdrawn.ctx]
    exact hm

/-! ## The start of another context's LAYER (R297) -/

/-- What a start on slice `sl` keeps of its shadow frame, of the count of suspensions, of memory and of the other slices. -/
structure Aside (s t : State) (sl : SliceId) : Prop where
  shadow : (t.slice sl).shadow = (s.slice sl).shadow
  descheds : ∀ c, (t.chan c).descheds = (s.chan c).descheds
  mem : t.mem = s.mem
  others : ∀ k, k ≠ sl → (t.slice k).layer = (s.slice k).layer ∧ (t.slice k).scratch = (s.slice k).scratch

theorem Aside.refl (s : State) (sl : SliceId) : Aside s s sl := ⟨rfl, fun _ => rfl, rfl, fun _ _ => ⟨rfl, rfl⟩⟩

theorem Aside.trans {s t u : State} {sl : SliceId} (hst : Aside s t sl) (htu : Aside t u sl) : Aside s u sl := by
  refine ⟨htu.shadow.trans hst.shadow, fun c => (htu.descheds c).trans (hst.descheds c), htu.mem.trans hst.mem, fun k hk => ?_⟩
  obtain ⟨hlayer, hscratch⟩ := hst.others k hk
  obtain ⟨hlayer', hscratch'⟩ := htu.others k hk
  exact ⟨hlayer'.trans hlayer, hscratch'.trans hscratch⟩

section
variable (s : State) (sl : SliceId)

theorem aside_modSlice {f : SliceSt → SliceSt} (hf : ∀ x, (f x).shadow = x.shadow) : Aside s (s.modSlice sl f) sl := by
  refine ⟨by rw [slice_modSlice_same, hf], fun _ => rfl, rfl, fun k hk => ?_⟩
  rw [slice_modSlice_other s sl k f hk]
  exact ⟨rfl, rfl⟩

theorem aside_modChan (c : Nat) {f : Channel → Channel} (hf : ∀ ch, (f ch).descheds = ch.descheds) : Aside s (s.modChan c f) sl := by
  refine ⟨rfl, fun k => ?_, rfl, fun _ _ => ⟨rfl, rfl⟩⟩
  rw [chan_modChan]
  split
  · next h => rw [hf, h]
  · rfl

theorem aside_modCmd (c r pos : Nat) (f : Cmd → Cmd) : Aside s (s.modCmd c r pos f) sl := aside_modChan s sl c fun _ => rfl

theorem aside_leaseFor (r pos : Nat) : Aside s (s.leaseFor sl r pos) sl := by
  refine Aside.trans ?_ (aside_modCmd _ sl (slChan sl) r pos _)
  exact aside_modChan s sl (slChan sl) fun _ => rfl

theorem aside_requestStop (c r pos : Nat) : Aside s (s.requestStop c r pos) sl := by
  have honly := Commands.requestStop_only s c r pos
  refine ⟨?_, fun k => ?_, Commands.requestStop_mem s c r pos, fun k _ => ?_⟩
  · rw [(asked_requestStop s c r pos sl).1]
  · rw [honly]
    rfl
  · rw [(asked_requestStop s c r pos k).1]
    exact ⟨rfl, rfl⟩

theorem aside_cmdFault (c r pos : Nat) (f : FaultInfo) : Aside s (s.cmdFault c r pos f) sl := by
  unfold State.cmdFault
  split
  · exact Aside.refl s sl
  · split
    · exact Aside.refl s sl
    · exact (aside_modCmd s sl c r pos _).trans (aside_requestStop _ sl c r pos)

theorem aside_sliceFault (e : Engine) (cause detail : Nat) : Aside s (s.sliceFault sl e cause detail) sl := by
  unfold State.sliceFault
  split
  · exact Aside.refl s sl
  · refine Aside.trans ?_ (aside_cmdFault _ sl _ _ _ _)
    exact aside_modSlice s sl fun _ => rfl

theorem aside_sliceFinish : Aside s (s.sliceFinish sl) sl := by
  unfold State.sliceFinish
  extract_lets x
  split
  · exact Aside.refl s sl
  · split
    · exact Aside.refl s sl
    · refine Aside.trans (Aside.trans ?_ (aside_modCmd _ sl _ _ _ _)) (aside_modCmd _ sl _ _ _ _)
      exact aside_modSlice s sl fun _ => rfl

/-- A slice without mail drops none. -/
theorem aside_dropMails (own : Rec × Byte) (hmail : (s.slice sl).mail = []) : Aside s (s.dropMails sl own) sl := by
  unfold State.dropMails
  extract_lets x
  split
  · exact Aside.refl s sl
  · rw [show x.mail = [] from hmail, List.foldl_nil]
    exact aside_modSlice s sl fun _ => rfl

theorem startLayer_none {r : Rec} {m : Cmd} (ho : (s.chan (slChan sl)).layerObj ((s.chan (slChan sl)).ctx r) m.raw = none) : s.startLayer sl r m = s := by
  unfold State.startLayer
  extract_lets c ch x skein entry
  rw [show ch.layerObj x m.raw = none from ho]

theorem startLayer_some {r : Rec} {m : Cmd} {o : CodeObj} (ho : (s.chan (slChan sl)).layerObj ((s.chan (slChan sl)).ctx r) m.raw = some o) :
    s.startLayer sl r m = if (Commands.startRun s sl r m o).queuesOk then (Commands.layerStarted s sl r m o).sliceFinish sl
      else (Commands.layerStarted s sl r m o).sliceFault sl .cx causeRange 0 := by
  unfold State.startLayer
  extract_lets c ch x skein entry
  rw [show ch.layerObj x m.raw = some o from ho]
  rfl

theorem aside_layerStarted (r : Rec) (m : Cmd) (o : CodeObj) (hmail : (s.slice sl).mail = []) : Aside s (Commands.layerStarted s sl r m o) sl := by
  have hground : Aside s (Commands.startGround s sl r m) sl := (aside_leaseFor s sl r m.pos).trans (aside_dropMails _ sl _ hmail)
  refine Aside.trans ?_ (aside_modCmd _ sl _ _ _ _)
  refine hground.trans (aside_modSlice _ sl fun x => ?_)
  unfold SliceSt.start
  rfl

theorem aside_startLayer (r : Rec) (m : Cmd) (hmail : (s.slice sl).mail = []) : Aside s (s.startLayer sl r m) sl := by
  cases ho : (s.chan (slChan sl)).layerObj ((s.chan (slChan sl)).ctx r) m.raw with
  | none =>
    rw [startLayer_none s sl ho]
    exact Aside.refl s sl
  | some o =>
    have hstarted := aside_layerStarted s sl r m o hmail
    rw [startLayer_some s sl ho]
    split
    · exact hstarted.trans (aside_sliceFinish _ sl)
    · exact hstarted.trans (aside_sliceFault _ sl _ _ _)

end

/-! ## Suspension and return (R297) -/

/-- The running LAYER once it is in the shadow frame, its suspension counted. -/
def suspended (s : State) (sl : SliceId) (l : LayerRun) : State := (s.modSlice sl (fun x => x.suspend l)).noteDesched (slChan sl)

theorem suspended_spec (s : State) (sl : SliceId) (l : LayerRun) : (suspended s sl l).slice sl = (s.slice sl).suspend l ∧ (suspended s sl l).mem = s.mem
    ∧ ((suspended s sl l).chan (slChan sl)).descheds = satInc (s.chan (slChan sl)).descheds 0xFFFF ∧ ∀ k, k ≠ sl → (suspended s sl l).slice k = s.slice k := by
  have hslices : (suspended s sl l).slices = (s.modSlice sl fun x => x.suspend l).slices := by
    rw [suspended, State.noteDesched, noteSat_onlyAlerts]
    rfl
  refine ⟨?_, ?_, ?_, fun k hk => ?_⟩
  · rw [Commands.slice_congr hslices, slice_modSlice_same]
  · rw [suspended, State.noteDesched, noteSat_onlyAlerts]
    rfl
  · rw [suspended, State.noteDesched, BankMemory.noteSat_chan, chan_modChan_same]
    rfl
  · rw [Commands.slice_congr hslices, slice_modSlice_other _ _ _ _ hk]

/-- A LAYER that waits as descheduling asks has no mail. -/
theorem mail_of_waitsLong {s : State} {sl : SliceId} (h : s.waitsLong sl = true) : (s.slice sl).mail = [] := by
  unfold State.waitsLong at h
  simp only [Bool.and_eq_true, decide_eq_true_eq] at h
  obtain ⟨⟨-, hmail⟩, -⟩ := h
  exact hmail

theorem deschedule_spec {s : State} {sl : SliceId} {l : LayerRun} {w : WorkRef} {m : Cmd} (hl : (s.slice sl).layer = some l) (hother : s.otherLayer sl l = some (w, m))
    (hshadow : (s.slice sl).shadow = none) (hlong : s.waitsLong sl = true) (hbank : s.bankReady sl = true) :
    ran (exec (.deschedule sl) s) fun t => (t.slice sl).shadow = ((s.slice sl).suspend l).shadow ∧ (t.chan (slChan sl)).descheds = satInc (s.chan (slChan sl)).descheds 0xFFFF
      ∧ t.mem = s.mem ∧ ∀ k, k ≠ sl → (t.slice k).layer = (s.slice k).layer ∧ (t.slice k).scratch = (s.slice k).scratch := by
  have hexec : exec (.deschedule sl) s = .next ((suspended s sl l).startLayer sl w.record m) := by
    show execDeschedule sl s = _
    unfold execDeschedule
    simp only [hl, hother, hshadow, hlong, hbank]
    rfl
  obtain ⟨hslice, hmem, hcount, hothers⟩ := suspended_spec s sl l
  have haside := aside_startLayer (suspended s sl l) sl w.record m (by rw [hslice]; exact mail_of_waitsLong hlong)
  refine ⟨_, hexec, ?_, ?_, haside.mem.trans hmem, fun k hk => ?_⟩
  · rw [haside.shadow, hslice]
  · rw [haside.descheds, hcount]
  · rw [← hothers k hk]
    exact haside.others k hk

theorem resume_spec {s : State} {sl : SliceId} {f : Shadow} (hshadow : (s.slice sl).shadow = some f) (hsat : f.satisfied = true)
    (hasked : s.asked (slChan sl) f.layer.record f.layer.pos = false) (hl : (s.slice sl).layer = none) :
    ran (exec (.resume sl) s) fun t => onlySlice s t sl ∧ t.slice sl = s.waitsFrom sl ((s.slice sl).restore f none) := by
  have hexec : exec (.resume sl) s = .next (s.modSlice sl fun x => s.waitsFrom sl (x.restore f none)) := by
    show execResume sl s = _
    unfold execResume
    simp only [hshadow, hsat, hasked, hl]
    rfl
  exact ⟨_, hexec, onlySlice_modSlice s sl _, slice_modSlice_same s sl _⟩

/-- Settles O13. That the frame holds the scratchpad queues' pointers too is the model's choice: R297's list leaves them out. -/
theorem stopsAndResumes : Obligations.StopsAndResumes := by
  unfold Obligations.StopsAndResumes
  refine ⟨fun s sl l m hl hstop hm => ⟨fun hw => ?_, fun hw => ?_⟩, ?_⟩
  · show execSliceStop sl s = _
    unfold execSliceStop
    simp only [hl, hstop, hw, Bool.not_true, Bool.false_eq_true, if_false, if_true]
  · obtain ⟨t, ht, hslice, hmem, hcmd⟩ := sliceStop_spec hl hstop hm hw
    refine ⟨t, ht, ?_⟩
    dsimp only
    rw [hslice]
    exact ⟨rfl, rfl, hmem, stoppedSlice_eng _, rfl, rfl, rfl, rfl, _, hcmd, rfl, rfl, rfl, rfl⟩
  · intro s sl l w m f x
    exact ⟨fun hl hother hshadow hlong hbank => deschedule_spec hl hother hshadow hlong hbank, fun hshadow hsat hasked hl => resume_spec hshadow hsat hasked hl⟩

end Sys2Proof.SliceCode
end

section
/-! SUPPORT. A BX.FILL over a block whose check difference is listed twice (06 R197; 09 R258, R268; 12 R328). -/

namespace Sys2Proof.SliceCode
open Sys2Proof Sys2Proof.Machine

/-- The LAYER slice 0 runs. -/
def fillingLayer : LayerRun := ⟨0, 0, 0, 0, false, false, 0, []⟩

/-- Slice 0 with a BX operation at the head of its queue and, from 512 on, a descriptor that fills the two points of `Commands.twoPoints` with 1. -/
def fillingSlice : SliceSt := { SliceSt.zero with
  layer := some fillingLayer
  engines := [(2, { EngineSt.zero with active := true, state := .issuing, queue := [8], hi := 64 })]
  scratch := wrL [] 512 Commands.fillsTwoPoints.desc }

/-- That slice in `Commands.listedTwice`: block 1 passes verification, and behind the difference that makes it pass another is listed. -/
def fillingTwice : State := { Commands.listedTwice with slices := [(0, fillingSlice)] }

theorem fillingTwice_issues : issues fillingTwice 0 .bx ∧ bxClear fillingTwice 0 ∧ (fillingTwice.slice 0).layer = some fillingLayer := by decide

theorem fillingTwice_desc : fillingTwice.bxDesc 0 (fillingTwice.slice 0) fillingLayer .fill 72 ⟨0, 512⟩ 0 = .ok (Commands.fillsTwoPoints.desc, .fill 1 Commands.twoPoints) := by decide +kernel

/-- What it fills, the two writes of `Commands.twoWrites`. -/
theorem twoPoints_fills : (upFrom 0 Commands.twoPoints.points).map (fun i => ((Commands.twoPoints.addr 0 (Commands.twoPoints.coords i)).toNat, fillBytes 1 Commands.twoPoints.w))
    = Commands.twoWrites := by decide

theorem fillingTwice_writable : writable_ fillingTwice Commands.twoWrites := Commands.listedTwice_writable

theorem fillingTwice_serves : fillingTwice.banksServe (accessesOf Commands.twoWrites) = true := Commands.listedTwice_serves

/-- The state BX.FILL leaves. -/
def filledOnce : State := fillingTwice.runBx 0 (bxParity none 0 (fillOp 0 ⟨0, 512⟩ 0))

theorem fillingTwice_fill : exec (.bxFill 0 ⟨0, 512⟩ 0 none) fillingTwice = .next filledOnce := rfl

/-- The first point written, the difference behind comes to the front: the second, a partial write into a failing block, is not performed. -/
theorem filledOnce_mem : rd filledOnce.mem 72 = 0 ∧ rd (applied fillingTwice.mem Commands.twoWrites) 72 = 1 := by decide +kernel

/-- A copy and a gather, for the descriptors that BX.FILL does not read. -/
def otherCopy : CopyD := ⟨false, false, 0, 0, 0, 0, Commands.twoPoints, [], Commands.twoPoints⟩
def otherGather : GatherD := ⟨false, false, 0, 0, 0, 0, 0, 0, .fp32, .fp32, .none, 0, false, 0, false, 0, 0, 0, 0, false, 0, 0, false, 0⟩

/-- Refutes O25: a write takes the first entry of its block from the table of check differences, and nothing in the statement makes the table list a block once.
In `fillingTwice` the write of BX.FILL's first point makes its block fail verification, so the second point's write is not performed. -/
theorem not_sliceDataMoves : ¬ Obligations.SliceDataMoves := by
  intro h
  obtain ⟨-, hdesc⟩ := h
  obtain ⟨hissues, hclear, hlayer⟩ := fillingTwice_issues
  obtain ⟨-, hfill, -⟩ := hdesc fillingTwice 0 ⟨0, 512⟩ 0 fillingLayer Commands.fillsTwoPoints.desc otherCopy 1 Commands.twoPoints otherGather 0 Commands.fillsTwoPoints hissues hclear hlayer
  obtain ⟨hdata, -⟩ := hfill fillingTwice_desc
  rw [twoPoints_fills] at hdata
  obtain ⟨t, ht, -, hmem, -⟩ := hdata rfl fillingTwice_writable fillingTwice_serves
  obtain rfl : filledOnce = t := Host.Outcome.next.inj (fillingTwice_fill.symm.trans ht)
  obtain ⟨hzero, hone⟩ := filledOnce_mem
  rw [hmem, hone] at hzero
  exact absurd hzero (by decide)

end Sys2Proof.SliceCode
end

section
/-! SUPPORT. Products of INT8 rows (07 R204, R212): the values INT8 elements hold, their exact products in units of 2^-300, and the block MX.MMA leaves. -/

namespace Sys2Proof.MatrixArithmetic
open Sys2Proof Sys2Proof.Machine

/-! ## Integers as exact values -/

/-- The exact value of an integer. -/
def intVal (v : Int) : Val := .fin (decide (v < 0)) v.natAbs 0

/-- A sign and a magnitude, in units of 2^e0. -/
theorem finInt_eq (n : Bool) (k : Nat) (e e0 : Int) : finInt n k e e0 = (if n = true then -(k : Int) else k) * 2 ^ (e - e0).toNat := by
  unfold finInt
  split
  · exact (Int.neg_mul _ _).symm
  · rfl

/-- Signs and magnitudes multiplied apart give the product. -/
theorem signed_mul (v w : Int) : (if (decide (v < 0) ^^ decide (w < 0)) = true then -((v.natAbs * w.natAbs : Nat) : Int) else (v.natAbs * w.natAbs : Nat)) = v * w := by
  rw [Nat.cast_mul]
  by_cases hv : v < 0 <;> by_cases hw : w < 0 <;>
    simp only [hv, hw, decide_true, decide_false, Bool.xor_true, Bool.xor_false, Bool.not_true, Bool.not_false, Bool.false_eq_true, if_true, if_false]
  · rw [Int.ofNat_natAbs_of_nonpos hv.le, Int.ofNat_natAbs_of_nonpos hw.le, Int.neg_mul_neg]
  · rw [Int.ofNat_natAbs_of_nonpos hv.le, Int.natAbs_of_nonneg (not_lt.1 hw), Int.neg_mul, Int.neg_neg]
  · rw [Int.natAbs_of_nonneg (not_lt.1 hv), Int.ofNat_natAbs_of_nonpos hw.le, Int.mul_neg, Int.neg_neg]
  · rw [Int.natAbs_of_nonneg (not_lt.1 hv), Int.natAbs_of_nonneg (not_lt.1 hw)]

theorem addVal_mul_intVal (a : Acc) (v w : Int) : a.addVal ((intVal v).mul (intVal w)) = { a with v := a.v + BitVec.ofInt 640 (v * w * 2 ^ 300) } := by
  have hunits : finInt (decide (v < 0) ^^ decide (w < 0)) (v.natAbs * w.natAbs) (0 + 0) (-300) = v * w * 2 ^ 300 := by rw [finInt_eq, signed_mul]; rfl
  rw [← hunits]
  rfl

/-! ## INT8 elements -/

/-- An INT8 element's value is its byte's (07 Table 1). -/
theorem decodeVal_int8 (b : Byte) : decodeVal .int8 b.toNat = intVal b.toInt := by
  have hsext : sext b.toNat 8 = b.toInt := by
    rw [sext, BitVec.toInt_eq_msb_cond, BitVec.msb_eq_getLsbD_last, Nat.mod_eq_of_lt b.isLt]
    rfl
  rw [← hsext]
  rfl

/-- Element `k` of 32 in a row, with its position. -/
def intRow (f : Nat → Int) : List (Nat × Val) := (upFrom 0 32).map fun k => (k, intVal (f k))

/-- An unscaled row of INT8 elements in the scratchpad. -/
theorem denseRow_int8 (x : SliceSt) (a : Nat) : denseRow x ⟨none, a⟩ .int8 none = intRow fun k => (rd x.scratch (a + k)).toInt := by
  refine List.map_congr_left fun k _ => congrArg (Prod.mk k) ?_
  have helem : x.getElem ⟨none, a⟩ .int8 k 1 = (rd x.scratch (a + k)).toNat := by
    change (rd x.scratch (a + k * 1 * 1)).toNat + 256 * 0 = _
    rw [Nat.mul_one, Nat.mul_one, Nat.mul_zero, Nat.add_zero]
  rw [helem, decodeVal_int8]
  rfl

/-- A row names each of its positions once. -/
theorem find?_intRow (f : Nat → Int) {k : Nat} (hk : k ∈ upFrom 0 32) : (intRow f).find? (fun y => y.1 = k) = some (k, intVal (f k)) := by
  have hsome : (upFrom 0 32).find? (fun j => decide (j = k)) = some k := by
    obtain ⟨j, hj⟩ := Option.isSome_iff_exists.1 (List.find?_isSome (p := fun j => decide (j = k)) |>.2 ⟨k, hk, decide_eq_true rfl⟩)
    rw [hj, of_decide_eq_true (List.find?_some (p := fun j => decide (j = k)) hj)]
  rw [intRow, List.find?_map]
  exact congrArg (Option.map fun j => (j, intVal (f j))) hsome

/-- The elements at positions `ks` of a row add their products with the other row's, each exactly. -/
theorem addProducts_positions (f g : Nat → Int) (ks : List Nat) (hks : ∀ k ∈ ks, k ∈ upFrom 0 32) (a : Acc) :
    addProducts a (ks.map fun k => (k, intVal (f k))) (intRow g) = { a with v := a.v + BitVec.ofInt 640 ((ks.map fun k => f k * g k).sum * 2 ^ 300) } := by
  induction ks generalizing a with
  | nil =>
    rw [List.map_nil, List.map_nil, List.sum_nil, Int.zero_mul, BitVec.ofInt_ofNat, BitVec.add_zero]
    rfl
  | cons k ks ih =>
    have hstep : addProducts a ((k :: ks).map fun k => (k, intVal (f k))) (intRow g)
        = addProducts (a.addVal ((intVal (f k)).mul (intVal (g k)))) (ks.map fun k => (k, intVal (f k))) (intRow g) := by
      rw [addProducts, List.map_cons, List.foldl_cons, find?_intRow g (hks k List.mem_cons_self)]
      rfl
    rw [hstep, ih fun j hj => hks j (List.mem_cons_of_mem k hj), addVal_mul_intVal, List.map_cons, List.sum_cons, Int.add_mul, BitVec.ofInt_add, ← BitVec.add_assoc]

/-- The products of two rows add the rows' exact sum (R204). -/
theorem addProducts_intRow (a : Acc) (f g : Nat → Int) :
    addProducts a (intRow f) (intRow g) = { a with v := a.v + BitVec.ofInt 640 (((upFrom 0 32).map fun k => f k * g k).sum * 2 ^ 300) } :=
  addProducts_positions f g _ (fun _ hk => hk) a

/-! ## The block (R212) -/

section
variable (v : Nat → Acc) (base n : Nat) (x : SliceSt)

theorem scratch_foldl_setAcc : ((upFrom 0 n).foldl (fun y j => y.setAcc (base + j) (v j)) x).scratch = x.scratch :=
  List.foldlRecOn _ _ (motive := fun y : SliceSt => y.scratch = x.scratch) rfl fun _ hy _ _ => hy

/-- Accumulators set in turn hold what each was set to; the others stand. -/
theorem acc_foldl_setAcc (i : Nat) :
    ((upFrom 0 n).foldl (fun y j => y.setAcc (base + j) (v j)) x).acc i = if base ≤ i ∧ i < base + n then v (i - base) else x.acc i := by
  induction n with
  | zero => exact (if_neg (by omega)).symm
  | succ n ih =>
    rw [Commands.upFrom_zero] at ih ⊢
    rw [List.range_succ, List.foldl_append, List.foldl_cons, List.foldl_nil, acc_setAcc, ih]
    by_cases hi : i = base + n
    · rw [if_pos hi, if_pos (by omega), hi, Nat.add_sub_cancel_left]
    · rw [if_neg hi]
      exact if_congr (by omega) rfl rfl

end

/-- The accumulators of a block after an iteration of MX.MMA of unscaled, dense INT8 operands in the scratchpad. -/
theorem mmaStep_int8 {m : MmaOp} (hfa : m.fa = .int8) (hfb : m.fb = .int8) (hsparse : m.sparse = false) (hsa : m.sa = false) (hsb : m.sb = false) (x : SliceSt) (a b : Nat) (ps : Place)
    {i : Nat} (hi : m.accBase ≤ i ∧ i < m.accBase + (shapeDim m.shape).1 * (shapeDim m.shape).2) :
    (SliceCode.mmaStep m x [⟨none, a⟩, ⟨none, b⟩, ps]).acc i = { x.acc i with
      v := (x.acc i).v + BitVec.ofInt 640 (((upFrom 0 32).map fun k => (rd x.scratch (a + (i - m.accBase) / (shapeDim m.shape).2 * m.ars.val + k)).toInt
        * (rd x.scratch (b + (i - m.accBase) % (shapeDim m.shape).2 * m.brs.val + k)).toInt).sum * 2 ^ 300) } := by
  have hrowA : ∀ r, SliceCode.mmaRowA m x [⟨none, a⟩, ⟨none, b⟩, ps] r = intRow fun k => (rd x.scratch (a + r * m.ars.val + k)).toInt := fun r => by
    rw [SliceCode.mmaRowA, SliceCode.mmaScale, hsparse, hsa, hfa]
    exact denseRow_int8 x (a + r * m.ars.val)
  have hrowB : ∀ c, SliceCode.mmaRowB m x [⟨none, a⟩, ⟨none, b⟩, ps] c = intRow fun k => (rd x.scratch (b + c * m.brs.val + k)).toInt := fun c => by
    rw [SliceCode.mmaRowB, SliceCode.mmaScale, hsb, hfb]
    exact denseRow_int8 x (b + c * m.brs.val)
  have hplace : m.accBase + (i - m.accBase) = i := Nat.add_sub_of_le hi.1
  rw [SliceCode.mmaStep, acc_foldl_setAcc, if_pos hi, hrowA, hrowB, addProducts_intRow, hplace]

/-! ## The operation -/

/-- An INT8 MX.MMA has its rows in the scratchpad, unscaled (Table 4). -/
theorem ok_int8 {m : MmaOp} (hok : m.ok = true) (hfa : m.fa = .int8) (hfb : m.fb = .int8) : m.a.tile = none ∧ m.b.tile = none ∧ m.sa = false ∧ m.sb = false := by
  simp only [MmaOp.ok, hfa, hfb, Bool.and_eq_true, Option.isNone_iff_eq_none] at hok
  obtain ⟨⟨⟨⟨⟨⟨⟨-, ha⟩, hb⟩, -⟩, -⟩, hsa⟩, hsb⟩, -⟩ := hok
  exact ⟨ha, hb, (Bool.not_eq_true' _).mp hsa, (Bool.not_eq_true' _).mp hsb⟩

/-- An operand of the one iteration of a loop without counts holds what lies below the scratchpad's end. -/
theorem holdsAt_single {s : State} {sl : SliceId} {e : Engine} {lp : Loop} {o : ScrOperand} {n : Nat} (hone : lp.counts = []) (htile : o.tile = none) (hend : baseAt s sl e o + n ≤ 0x8000) :
    holdsAt s sl e lp n o := fun i hi => by
  rw [tripsTotal, trips, if_pos hone] at hi
  obtain rfl : i = 0 := Nat.lt_one_iff.1 hi
  rw [SliceCode.placeAt_single hone, htile]
  exact Bool.or_eq_true_iff.2 (Or.inr (decide_eq_true hend))

/-- MX.MMA of INT8 operands in a loop without counts retires with one iteration at the bases of its operands. -/
theorem mma_int8_retires {s : State} {sl : SliceId} {m : MmaOp} (h : issues s sl .mx) (hlp : loops s sl .mx m.lp) (hone : m.lp.counts = []) (hok : m.ok = true)
    (hbase : accBaseOk m.shape m.accBase = true) (hfa : m.fa = .int8) (hfb : m.fb = .int8) (hsparse : m.sparse = false)
    (hend : m.accBase + (shapeDim m.shape).1 * (shapeDim m.shape).2 ≤ 32)
    (hala : alignedAt s sl .mx 16 m.a) (halb : alignedAt s sl .mx 16 m.b) (hars : m.ars.val % 16 = 0) (hbrs : m.brs.val % 16 = 0)
    (ha : baseAt s sl .mx m.a + ((shapeDim m.shape).1 - 1) * m.ars.val + 32 ≤ 0x8000) (hb : baseAt s sl .mx m.b + ((shapeDim m.shape).2 - 1) * m.brs.val + 32 ≤ 0x8000) :
    retires s sl .mx (SliceCode.mmaStep m · [⟨none, baseAt s sl .mx m.a⟩, ⟨none, baseAt s sl .mx m.b⟩, placeAt s sl .mx m.lp 0 m.s]) (exec (.mxMma sl m none) s) := by
  obtain ⟨htileA, htileB, hsa, hsb⟩ := ok_int8 hok hfa hfb
  have hrowA : mmaRowAlign m.fa m.sparse = 16 ∧ mmaRowBytes m.fa m.sparse = 32 := by rw [hfa, hsparse]; exact ⟨rfl, rfl⟩
  have hrowB : mmaRowAlign m.fb false = 16 ∧ mmaRowBytes m.fb false = 32 := by rw [hfb]; exact ⟨rfl, rfl⟩
  have hrun := SliceCode.mma_iterates h hlp hok hbase hend (by rw [hrowA.1]; exact ⟨hala, hars⟩) (by rw [hrowB.1]; exact ⟨halb, hbrs⟩)
    (by rw [hrowA.2]; exact holdsAt_single hone htileA (by omega)) (by rw [hrowB.2]; exact holdsAt_single hone htileB (by omega)) (fun hscaled => by simp [hsa, hsb] at hscaled)
  have htotal : tripsTotal s sl .mx m.lp = 1 := by rw [tripsTotal, trips, if_pos hone]; rfl
  simpa only [iterates, htotal, upFrom, List.foldl_cons, List.foldl_nil, List.map_cons, List.map_nil, SliceCode.placeAt_single hone m.a, SliceCode.placeAt_single hone m.b, htileA, htileB] using hrun

/-- Settles O18: the one iteration adds to each accumulator of the block the sum of its rows' products, each formed exactly, and sets no other. -/
theorem integerProductsAreExact : Obligations.IntegerProductsAreExact := by
  unfold Obligations.IntegerProductsAreExact
  intro s sl m j x dim el h hlp hone hok hbase hfa hfb hsparse hend hala halb hars hbrs ha hb
  obtain ⟨-, -, hsa, hsb⟩ := ok_int8 hok hfa hfb
  obtain ⟨t, ht, honly, hadv, hslice⟩ := mma_int8_retires h hlp hone hok hbase hfa hfb hsparse hend hala halb hars hbrs ha hb
  have hacc : ∀ i, (t.slice sl).acc i = (SliceCode.mmaStep m x [⟨none, baseAt s sl .mx m.a⟩, ⟨none, baseAt s sl .mx m.b⟩, placeAt s sl .mx m.lp 0 m.s]).acc i := fun i => by rw [SliceSt.acc, hslice]; rfl
  refine ⟨t, ht, honly, hadv, ?_, fun hle hlt => ?_, fun hout => ?_⟩
  · exact (congrArg SliceSt.scratch hslice).trans (scratch_foldl_setAcc _ _ _ _)
  · exact (hacc j).trans (mmaStep_int8 hfa hfb hsparse hsa hsb x _ _ _ ⟨hle, hlt⟩)
  · exact (hacc j).trans ((acc_foldl_setAcc _ _ _ _ j).trans (if_neg fun hin => hout.elim (Nat.not_lt.2 hin.1) (Nat.not_le.2 hin.2)))

end Sys2Proof.MatrixArithmetic
end

section
/-! SUPPORT. A VX.RUN over a scratchpad whose byte memory is out of order (08 R245; the model's log 7). -/

namespace Sys2Proof.VectorEngine
open Sys2Proof Sys2Proof.Machine

/-- An operand at a fixed address of the scratchpad. -/
def operandAt (a : Fin 32768) : ScrOperand := ⟨⟨0, a⟩, 0, 0, [], none⟩

/-- A VX.RUN that copies 25 INT8 elements from 0 to 64 in passes of four; its seventh pass reads element 24 after the first has been performed. -/
def copyRun : VxRun where
  n := .lit 25
  x := operandAt 0
  y := operandAt 0
  d := operandAt 64
  lp := ⟨[]⟩
  fx := .int8
  fy := .int8
  fd := .int8
  xs := 1
  ys := 1
  ds := 1
  xScaled := false
  stages := [⟨.mov, .int32, .x, .x, .zero, 0⟩]
  out := some 0
  red := List.replicate 4 ⟨.none, .x, false⟩

/-- The LAYER slice 0 runs. -/
def copyLayer : LayerRun := ⟨0, 0, 0, 0, false, false, 0, []⟩

/-- Slice 0 with a VX operation at the head of its queue, and in its scratchpad's memory an entry at 64 listed before one at 24, which it hides. -/
def copySlice : SliceSt := { SliceSt.zero with
  layer := some copyLayer
  engines := [(1, { EngineSt.zero with active := true, state := .issuing, queue := [8], hi := 64 })]
  scratch := [(64, 1), (24, 1)] }

def copying : State := { State.reset with slices := [(0, copySlice)] }

theorem copying_issues : issues copying 0 .vx ∧ loops copying 0 .vx copyRun.lp := by
  refine ⟨by decide, by decide, by decide, by decide, fun l hl => ?_⟩
  obtain rfl : copyLayer = l := Option.some.inj hl
  decide

/-- The state VX.RUN leaves. -/
def copied : State := copying.runOpBy 0 .vx (runCost copyRun 25) (withParity none (vxRunOp copyRun))

theorem copying_run : exec (.vxRun 0 copyRun none) copying = .next copied := rfl

/-- Element 24 reads as 0 before the operation. The first result, a 0 at 64, removes the entry there; the byte behind it is then read and copied to 88. -/
theorem copied_scratch : rd (copying.slice 0).scratch 24 = 0 ∧ rd (copied.slice 0).scratch 88 = 1 := by decide +kernel

/-- Refutes O19: a byte memory is read up to the first entry of a higher address, and nothing in the statement makes its addresses rise. In `copying` a write of the results
uncovers a byte of X, though the results lie apart from it, and a later pass reads that byte. -/
theorem not_vectorRun : ¬ Obligations.VectorRun := by
  unfold Obligations.VectorRun
  intro h
  obtain ⟨hissues, hloops⟩ := copying_issues
  obtain ⟨t, ht, -, -, hslice⟩ := h copying 0 copyRun hissues hloops rfl (by decide) (by decide) (by decide) (by decide) (by decide) (by decide) (by decide)
    (by decide) (by decide) (by decide) (by decide) (by decide)
  obtain rfl : copied = t := Host.Outcome.next.inj (copying_run.symm.trans ht)
  have hzero : rd (copied.slice 0).scratch 88 = 0 := by
    rw [hslice]
    decide +kernel
  obtain ⟨-, hone⟩ := copied_scratch
  rw [hone] at hzero
  exact absurd hzero (by decide)

end Sys2Proof.VectorEngine
end

section
/-! SUPPORT. Looped operations of VX whose iterations check their storage and then have their effect (06 R177, R187). -/

namespace Sys2Proof.VectorEngine
open Sys2Proof Sys2Proof.Machine Sys2Proof.SliceCode

/-- An iteration with effect `f` once the storage `req` asks for is there. -/
def fitting (req : List Place → List (Place × Nat)) (f : SliceSt → List Place → SliceSt) (y : SliceSt) (pl : List Place) : Except (Nat × Nat) SliceSt :=
  checkFits (req pl) >>= fun _ => .ok (f y pl)

theorem fitting_ok {req : List Place → List (Place × Nat)} (f : SliceSt → List Place → SliceSt) (y : SliceSt) {pl : List Place} (h : checkFits (req pl) = .ok ()) :
    fitting req f y pl = .ok (f y pl) := by
  rw [fitting, h]
  rfl

theorem checkFits_three {p q r : Place} {n k m : Nat} (hp : p.fits n = true) (hq : q.fits k = true) (hr : r.fits m = true) : checkFits [(p, n), (q, k), (r, m)] = .ok () :=
  (if_pos hp).trans (checkFits_two hq hr)

section
variable {s : State} {sl : SliceId} {e : Engine} {lp : Loop}

theorem qmode_of_loops {l : LayerRun} (hlp : loops s sl e lp) (hl : (s.slice sl).layer = some l) : l.qmode e = false := by
  obtain ⟨-, -, -, haddress⟩ := hlp
  exact haddress l hl

theorem loopPos_issued (hlp : loops s sl e lp) : ((issued s sl e).eng e).loopPos = 0 := by
  obtain ⟨-, -, hpos, -⟩ := hlp
  rw [issued_eng_same]
  exact hpos

/-- An operation that under its slice's LAYER is a loop of such iterations, each with its storage there. -/
theorem runOp_fitting {op : SliceSt → LayerRun → OpOut} {ps : List Opd} {al : List AlignReq} {req : List Place → List (Place × Nat)} {f : SliceSt → List Place → SliceSt}
    (h : issues s sl e) (hlp : loops s sl e lp) (hal : Aligned s sl e al) (hf : ∀ pl, Beside (f · pl))
    (hfit : ∀ i, i < tripsTotal s sl e lp → checkFits (req (placesAt s sl e lp ps i)) = .ok ())
    (hop : ∀ l, (s.slice sl).layer = some l → op (issued s sl e) l = simpleLoop (issued s sl e) l e lp ps al (fitting req f)) :
    iterates s sl e lp (ps.map (·.o)) f (.next (s.runOp sl e op)) := by
  obtain ⟨l, hl⟩ := layer_of_issues h
  exact runOp_retires (g := fun x => (upFrom 0 (tripsTotal s sl e lp)).foldl (fun y i => f y (placesAt s sl e lp ps i)) x) h hl
    ((hop l hl).trans (simpleLoop_address hl hlp hal hf fun i hi y => fitting_ok f y (hfit i hi)))

/-- One without operands. -/
theorem runOp_repeats {op : SliceSt → LayerRun → OpOut} {f : SliceSt → SliceSt} (h : issues s sl e) (hlp : loops s sl e lp) (hf : Beside f)
    (hop : ∀ l, op (issued s sl e) l = simpleLoop (issued s sl e) l e lp [] [] fun y _ => .ok (f y)) : iterates s sl e lp [] (fun x _ => f x) (.next (s.runOp sl e op)) :=
  runOp_iterates (ps := []) (f := fun x _ => f x) h hlp aligned_nil (fun _ => hf) (fun _ _ _ => rfl) hop

theorem aligned_one {o : ScrOperand} {out : Bool} {n : Nat} (h : alignedAt s sl e n o) : Aligned s sl e [⟨⟨o, out, true⟩, n, []⟩] :=
  aligned_cons (fun _ => ⟨h, no_inner⟩) aligned_nil

theorem aligned_two {o q : ScrOperand} {out out' : Bool} {n k : Nat} (ho : alignedAt s sl e n o) (hq : alignedAt s sl e k q) :
    Aligned s sl e [⟨⟨o, out, true⟩, n, []⟩, ⟨⟨q, out', true⟩, k, []⟩] :=
  aligned_cons (fun _ => ⟨ho, no_inner⟩) (aligned_one hq)

end

end Sys2Proof.VectorEngine
end

section
/-! SUPPORT. Constant registers and reducers (08 R229, R230, R233 to R235; 06 R189). -/

namespace Sys2Proof.VectorEngine
open Sys2Proof Sys2Proof.Machine Sys2Proof.SliceCode

/-! ## Constants and rounding (R229, R230, R233) -/

/-- A slice with constant register `k` set. -/
def setConst (k : Fin 4) (v : TVal) (x : SliceSt) : SliceSt := { x with consts := tput x.consts k.val v }

/-- A slice with the reducers of `mask` cleared. -/
def clearReds (mask : BitVec 4) (x : SliceSt) : SliceSt :=
  { x with reds := (upFrom 0 4).foldl (fun m i => if mask.getLsbD i then tmod m i .zero Reducer.clear else m) x.reds }

/-- The value VX.RROUND makes of reducer `r`, with the free value `fv` where the spec states none. -/
def rounded (fv : Nat) (r : Fin 4) (f : Fmt) (sat : Bool) (adj : Int) (index : Bool) (x : SliceSt) : TVal := rroundValue fv (tget x.reds r.val .zero) f sat adj index

section
variable {s : State} {sl : SliceId} {lp : Loop} {f : Fmt} {o : ScrOperand} (h : issues s sl .vx) (hlp : loops s sl .vx lp) (hok : lp.ok 4 = true)
include h hlp hok

theorem kset_iterates (k : Fin 4) (imm : W32) (hf : f ≠ .fp64) :
    iterates s sl .vx lp [] (fun x _ => setConst k ⟨f, BitVec.ofNat 64 (imm.toNat % 2 ^ fmtBits f)⟩ x) (exec (.vxKset sl k imm f lp) s) := by
  rw [show exec (.vxKset sl k imm f lp) s = .next (s.runOp sl .vx (vxKsetOp k imm f lp)) from if_pos (Bool.and_eq_true_iff.2 ⟨decide_eq_true hf, hok⟩)]
  exact runOp_repeats h hlp (fun _ _ _ _ => rfl) fun _ => rfl

theorem kld_iterates (k : Fin 4) (ho : o.ok lp = true) (hal : alignedAt s sl .vx (fmtBytes f) o) (hfit : holdsAt s sl .vx lp (fmtBytes f) o) :
    iterates s sl .vx lp [o] (fun x pl => withConst k f (pl.getD 0 ⟨none, 0⟩) x) (exec (.vxKld sl k o f lp none) s) := by
  rw [show exec (.vxKld sl k o f lp none) s = .next (s.runOp sl .vx (withParity none (vxKldOp k o f lp))) from if_pos (Bool.and_eq_true_iff.2 ⟨hok, ho⟩)]
  exact runOp_iterates (ps := [⟨o, false, true⟩]) h hlp (aligned_one hal) (fun _ _ _ _ _ => rfl) (fun i hi y => kldBody_ok k y (hfit i hi)) fun l => kldOp_eq k o f lp _ l

theorem rclr_iterates (mask : BitVec 4) : iterates s sl .vx lp [] (fun x _ => clearReds mask x) (exec (.vxRclr sl mask lp) s) := by
  rw [show exec (.vxRclr sl mask lp) s = .next (s.runOp sl .vx (vxRclrOp mask lp)) from if_pos hok]
  exact runOp_repeats h hlp (fun _ _ _ _ => rfl) fun _ => rfl

section
variable (r : Fin 4) {sat index : Bool} {adj : Int} (hadj : adjOk adj = true)
include hadj

theorem rroundConst_iterates (k : Fin 4) : iterates { s with free := s.free + 1 } sl .vx lp [] (fun x _ => setConst k (rounded s.free r f sat adj index x) x)
    (exec (.vxRround sl r (.k k) f sat adj index lp) s) := by
  rw [show exec (.vxRround sl r (.k k) f sat adj index lp) s = .next (State.runOp { s with free := s.free + 1 } sl .vx (vxRroundOp s.free r (.k k) f sat adj index lp)) from
    if_pos (Bool.and_eq_true_iff.2 ⟨Bool.and_eq_true_iff.2 ⟨hok, hadj⟩, rfl⟩)]
  exact runOp_repeats (s := { s with free := s.free + 1 }) h hlp (fun _ _ _ _ => rfl) fun _ => rfl

/-- VX.RROUND into the scratchpad writes as many bytes as the format of the reducer's value has. -/
theorem rroundMem_iterates (ho : o.ok lp = true) (hal : alignedAt s sl .vx (fmtBytes f) o)
    (hfit : holdsAt s sl .vx lp (fmtBytes (rounded s.free r f sat adj index (s.slice sl)).fmt) o) :
    iterates { s with free := s.free + 1 } sl .vx lp [o] (fun x pl => x.wrAt (pl.getD 0 ⟨none, 0⟩)
      (leBytes (fmtBytes (rounded s.free r f sat adj index (s.slice sl)).fmt) (rounded s.free r f sat adj index x).bits.toNat))
      (exec (.vxRround sl r (.mem o) f sat adj index lp) s) := by
  rw [show exec (.vxRround sl r (.mem o) f sat adj index lp) s = .next (State.runOp { s with free := s.free + 1 } sl .vx (vxRroundOp s.free r (.mem o) f sat adj index lp)) from
    if_pos (Bool.and_eq_true_iff.2 ⟨Bool.and_eq_true_iff.2 ⟨hok, hadj⟩, ho⟩)]
  exact runOp_fitting (s := { s with free := s.free + 1 }) (ps := [⟨o, true, true⟩]) (req := fun pl => [(pl.getD 0 ⟨none, 0⟩, fmtBytes (rounded s.free r f sat adj index (s.slice sl)).fmt)])
    h hlp (aligned_one hal) (fun _ _ _ _ _ => wrAt_beside ..) (fun i hi => checkFits_one (hfit i hi)) fun _ _ => rfl

end

end

/-! ## Records of sums (R234) -/

theorem isSum_iff (q : Reducer) : q.isSum = true ↔ q.kind = .sum ∨ q.kind = .sumsq := by simp [Reducer.isSum]

/-- A slice with the records at two places added to reducer `r`. -/
def addSums (r : Fin 4) (n : Nat) (y : SliceSt) (pl : List Place) : SliceSt :=
  { y with reds := tmod y.reds r.val .zero fun d => { d with
      acc := (loadRecords y (pl.getD 0 ⟨none, 0⟩) (pl.getD 1 ⟨none, 0⟩) n 0 0).foldl (fun c t => c.addRecord t.1 t.2) d.acc } }

theorem addSums_beside (r : Fin 4) (n : Nat) (pl : List Place) : Beside (addSums r n · pl) := fun _ _ _ _ => by
  simp only [addSums, loadRecords_beside]

/-- An iteration of VX.RPLOAD. -/
def rploadBody (r : Fin 4) (n : Nat) (y : SliceSt) (pl : List Place) : Except (Nat × Nat) SliceSt :=
  checkFits [(pl.getD 0 ⟨none, 0⟩, 24 * n)] >>= fun _ =>
    checkFits [(pl.getD 1 ⟨none, 0⟩, 80 * ((loadRecords y (pl.getD 0 ⟨none, 0⟩) (pl.getD 1 ⟨none, 0⟩) n 0 0).filter fun t => recordSpills t.1).length)] >>= fun _ =>
      .ok (addSums r n y pl)

theorem rploadBody_ok (r : Fin 4) {n : Nat} (y : SliceSt) {pl : List Place} (hp : (pl.getD 0 ⟨none, 0⟩).fits (24 * n) = true) (hq : (pl.getD 1 ⟨none, 0⟩).fits (80 * n) = true) :
    rploadBody r n y pl = .ok (addSums r n y pl) := by
  have hspills : ((loadRecords y (pl.getD 0 ⟨none, 0⟩) (pl.getD 1 ⟨none, 0⟩) n 0 0).filter fun t => recordSpills t.1).length ≤ n :=
    (List.length_filter_le _ _).trans (Nat.le_of_eq (loadRecords_length ..))
  rw [rploadBody, checkFits_one hp, checkFits_one (records_fit hq hspills)]
  rfl

section
variable {s : State} {sl : SliceId} {lp : Loop} {r : Fin 4} {p q : ScrOperand} {n : Nat} (h : issues s sl .vx) (hlp : loops s sl .vx lp) (hok : lp.ok 4 = true)
  (hsum : (tget (s.slice sl).reds r.val .zero).isSum = true) (hp : p.ok lp = true) (hq : q.ok lp = true) (halp : alignedAt s sl .vx 8 p) (halq : alignedAt s sl .vx 16 q)
include h hlp hok hsum hp hq halp halq

theorem rpstore_iterates (hfp : holdsAt s sl .vx lp 24 p) (hfq : holdsAt s sl .vx lp 80 q) :
    iterates s sl .vx lp [p, q] (fun y pl => storeRecords y (pl.getD 0 ⟨none, 0⟩) (pl.getD 1 ⟨none, 0⟩) [(tget (s.slice sl).reds r.val .zero).acc] 0 0)
      (exec (.vxRpstore sl r p q lp) s) := by
  have hspill : (if (tget (s.slice sl).reds r.val .zero).acc.record.2.isSome then 80 else 0) ≤ 80 := by split <;> omega
  rw [show exec (.vxRpstore sl r p q lp) s = .next (s.runOp sl .vx (vxRpstoreOp r p q lp)) from if_pos (Bool.and_eq_true_iff.2 ⟨Bool.and_eq_true_iff.2 ⟨hok, hp⟩, hq⟩)]
  exact runOp_fitting (ps := [⟨p, true, true⟩, ⟨q, true, true⟩])
    (req := fun pl => [(pl.getD 0 ⟨none, 0⟩, 24), (pl.getD 1 ⟨none, 0⟩, if (tget (s.slice sl).reds r.val .zero).acc.record.2.isSome then 80 else 0)])
    h hlp (aligned_two halp halq) (fun _ _ _ _ _ => storeRecords_beside ..) (fun i hi => checkFits_two (hfp i hi) (fits_part (off := 0) (hfq i hi) (by omega)))
    fun _ _ => if_neg (by rw [Bool.not_eq_true', Bool.not_eq_false]; exact hsum)

theorem rpload_iterates (hfp : holdsAt s sl .vx lp (24 * n) p) (hfq : holdsAt s sl .vx lp (80 * n) q) :
    iterates s sl .vx lp [p, q] (addSums r n) (exec (.vxRpload sl r p q n lp none) s) := by
  rw [show exec (.vxRpload sl r p q n lp none) s = .next (s.runOp sl .vx (withParity none (vxRploadOp r p q n lp))) from
    if_pos (Bool.and_eq_true_iff.2 ⟨Bool.and_eq_true_iff.2 ⟨hok, hp⟩, hq⟩)]
  exact runOp_iterates (ps := [⟨p, false, true⟩, ⟨q, false, true⟩]) h hlp (aligned_two halp halq) (addSums_beside r n)
    (fun i hi y => rploadBody_ok r y (hfp i hi) (hfq i hi)) fun _ => if_neg (by rw [Bool.not_eq_true', Bool.not_eq_false]; exact hsum)

end

/-! ## Summaries (R235; 06 R189) -/

/-- `n` summaries of reducers `a` and `b` have been posted: of the slice nothing else has changed but the tokens of semaphores 14 and 15. -/
structure Posted (a b : Fin 4) (n : Nat) (x y : SliceSt) : Prop where
  sumQ : y.sumQ = x.sumQ ++ List.replicate n (summaryEntry (tget x.reds a.val .zero) (tget x.reds b.val .zero))
  taken : y.sem 14 = x.sem 14 - n
  given : y.sem 15 = x.sem 15 + n
  others : ∀ k, k < 14 → y.sem k = x.sem k
  frame : y = { x with sumQ := y.sumQ, sems := y.sems }

/-- A slice that has posted one summary. -/
def postOne (a b : Fin 4) (x : SliceSt) : SliceSt :=
  let y := x.setSem 14 (x.sem 14 - 1)
  { y.setSem 15 (y.sem 15 + 1) with sumQ := x.sumQ ++ [summaryEntry (tget x.reds a.val .zero) (tget x.reds b.val .zero)] }

theorem postOne_sem (a b : Fin 4) (x : SliceSt) (k : Nat) : (postOne a b x).sem k = if k = 15 then x.sem 15 + 1 else if k = 14 then x.sem 14 - 1 else x.sem k := by
  change ((x.setSem 14 (x.sem 14 - 1)).setSem 15 ((x.setSem 14 (x.sem 14 - 1)).sem 15 + 1)).sem k = _
  rw [sem_setSem, sem_setSem, sem_setSem, if_neg (show ¬ 15 = 14 by decide)]

theorem Posted.zero (a b : Fin 4) (x : SliceSt) : Posted a b 0 x x := ⟨(List.append_nil _).symm, rfl, rfl, fun _ _ => rfl, rfl⟩

theorem Posted.after_one {a b : Fin 4} {n : Nat} {x y : SliceSt} (h : Posted a b n (postOne a b x) y) : Posted a b (n + 1) x y where
  sumQ := by rw [h.sumQ, List.replicate_succ, List.append_cons]; rfl
  taken := by rw [h.taken, postOne_sem, if_neg (by decide), if_pos rfl]; omega
  given := by rw [h.given, postOne_sem, if_pos rfl]; omega
  others := fun k hk => by rw [h.others k hk, postOne_sem, if_neg (by omega), if_neg (by omega)]
  frame := by rw [h.frame]; rfl

theorem semReady_vx {x : SliceSt} {k : Nat} (hmx : (x.eng .mx).state ≠ .semWait) (hk : 1 ≤ x.sem k) : x.semReady .vx k 1 = true := by
  refine Bool.and_eq_true_iff.2 ⟨decide_eq_true hk, ?_⟩
  show ((match (x.eng .mx).state, (x.eng .mx).waitSem with | .semWait, some (j, m) => decide (j.val ≠ k ∨ x.sem k < m) | _, _ => true) && true) = true
  split
  · next hwait _ => exact absurd hwait hmx
  · rfl

/-- Summaries with a token and a place for each. -/
theorem postGo_posts (a b : Fin 4) (n rem i : Nat) (x : SliceSt) (hmx : (x.eng .mx).state ≠ .semWait) (htokens : rem ≤ x.sem 14) (hroom : x.sem 15 + rem ≤ 255) :
    ∃ y, postGo a b n rem i x = .done y n ∧ Posted a b rem x y := by
  induction rem generalizing i x with
  | zero => exact ⟨x, rfl, Posted.zero a b x⟩
  | succ rem ih =>
    have h14 : (postOne a b x).sem 14 = x.sem 14 - 1 := by rw [postOne_sem, if_neg (by decide), if_pos rfl]
    have h15 : (postOne a b x).sem 15 = x.sem 15 + 1 := by rw [postOne_sem, if_pos rfl]
    obtain ⟨y, hgo, hposted⟩ := ih (i + 1) (postOne a b x) hmx (by omega) (by omega)
    refine ⟨y, ?_, hposted.after_one⟩
    rw [postGo, if_neg (by omega), if_pos (semReady_vx hmx (by omega))]
    exact hgo

section
variable {s : State} {sl : SliceId} {lp : Loop} {l : LayerRun} {a b : Fin 4} (h : issues s sl .vx) (hlp : loops s sl .vx lp) (hok : lp.ok 4 = true) (hl : (s.slice sl).layer = some l)

include hlp in
theorem rpostOp_eq (l : LayerRun) (a b : Fin 4) : vxRpostOp a b lp (issued s sl .vx) l = if !bitAt (l.word 0) 3 then .done (issued s sl .vx) (tripsTotal s sl .vx lp)
    else postGo a b (tripsTotal s sl .vx lp) (tripsTotal s sl .vx lp) 0 (issued s sl .vx) := by
  unfold vxRpostOp
  simp only [counts_issued hlp, loopPos_issued hlp, Nat.sub_zero]
  rfl

include hlp in
theorem rpostOp_enabled (hon : bitAt (l.word 0) 3 = true) :
    vxRpostOp a b lp (issued s sl .vx) l = postGo a b (tripsTotal s sl .vx lp) (tripsTotal s sl .vx lp) 0 (issued s sl .vx) :=
  (rpostOp_eq hlp l a b).trans (if_neg (by rw [hon]; decide))

include hok in
theorem exec_rpost : exec (.vxRpost sl a b lp) s = .next (s.runOp sl .vx (vxRpostOp a b lp)) := if_pos hok

include h hlp hok hl

/-- An entry without a summary queue. -/
theorem rpost_disabled (hoff : bitAt (l.word 0) 3 = false) : retires s sl .vx id (exec (.vxRpost sl a b lp) s) := by
  rw [exec_rpost hok]
  exact runOp_retires (g := id) h hl ((rpostOp_eq hlp l a b).trans (if_pos (by rw [hoff]; rfl)))

section
variable (hon : bitAt (l.word 0) 3 = true)
include hon

theorem rpost_posts (hmx : ((s.slice sl).eng .mx).state ≠ .semWait) (htokens : tripsTotal s sl .vx lp ≤ (s.slice sl).sem 14)
    (hroom : (s.slice sl).sem 15 + tripsTotal s sl .vx lp ≤ 255) :
    ran (exec (.vxRpost sl a b lp) s) fun t => onlySlice s t sl ∧ advanced s t sl .vx
      ∧ (t.slice sl).sumQ = (s.slice sl).sumQ ++ List.replicate (tripsTotal s sl .vx lp) (summaryEntry (tget (s.slice sl).reds a.val .zero) (tget (s.slice sl).reds b.val .zero))
      ∧ (t.slice sl).sem 14 = (s.slice sl).sem 14 - tripsTotal s sl .vx lp ∧ (t.slice sl).sem 15 = (s.slice sl).sem 15 + tripsTotal s sl .vx lp
      ∧ (∀ k, k < 14 → (t.slice sl).sem k = (s.slice sl).sem k)
      ∧ t.slice sl = { s.slice sl with sumQ := (t.slice sl).sumQ, sems := (t.slice sl).sems, engines := (t.slice sl).engines, perf := (t.slice sl).perf,
                                       perfSat := (t.slice sl).perfSat, stepping := false } := by
  have hmx' : ((issued s sl .vx).eng .mx).state ≠ .semWait := by rw [issued_eng_other s sl (by decide)]; exact hmx
  obtain ⟨y, hgo, hposted⟩ := postGo_posts a b (tripsTotal s sl .vx lp) _ 0 (issued s sl .vx) hmx' htokens hroom
  obtain ⟨honly, hslice⟩ := runOp_done_spec h hl ((rpostOp_enabled hlp hon).trans hgo)
  obtain ⟨-, hsem, hsumQ⟩ := kept_of_retire hslice
  have hsems : ((s.runOp sl .vx (vxRpostOp a b lp)).slice sl).sems = y.sems := by rw [hslice]; rfl
  rw [exec_rpost hok]
  refine ⟨_, rfl, honly, advanced_of_retire h ?_ hslice, hsumQ.trans hposted.sumQ, (hsem 14).trans hposted.taken, (hsem 15).trans hposted.given,
    fun k hk => (hsem k).trans (hposted.others k hk), ?_⟩
  · rw [hposted.frame]
    rfl
  · rw [hsumQ, hsems]
    exact frame_of_retire (x := { s.slice sl with sumQ := y.sumQ, sems := y.sems }) (hposted.frame.trans (by rw [hposted.frame]; rfl)) hslice

variable (hone : 1 ≤ tripsTotal s sl .vx lp)
include hone

/-- An operation of which the first summary waits. -/
theorem rpost_waits {k : Fin 16} {m : Nat} (hgo : ∀ n rem, postGo a b n (rem + 1) 0 (issued s sl .vx) = .wait (atFirst .vx (issued s sl .vx)) k m) :
    waitsSem s sl .vx k m (exec (.vxRpost sl a b lp) s) := by
  obtain ⟨rem, hrem⟩ := Nat.exists_eq_add_of_le' hone
  have hop := rpostOp_enabled (a := a) (b := b) hlp hon
  rw [hrem, hgo] at hop
  rw [exec_rpost hok]
  refine runOp_waitsSem (y := atFirst .vx (issued s sl .vx)) h hl hop ?_ ?_ ?_ fun j hj => atFirst_eng_other s sl hj
  · obtain ⟨-, -, hpos, -⟩ := hlp
    rw [atFirst_eng_same, hpos]
  · rw [atFirst_eng_same, issued_eng_same]
  · rw [atFirst_eng_same, issued_eng_same]

theorem rpost_waits_token (hnone : (s.slice sl).sem 14 = 0) (hroom : (s.slice sl).sem 15 < 255) : waitsSem s sl .vx 14 1 (exec (.vxRpost sl a b lp) s) :=
  rpost_waits h hlp hok hl hon hone fun n rem => by
    rw [postGo]
    exact (if_neg (Nat.not_le.2 hroom)).trans (if_neg (not_semReady hnone))

theorem rpost_waits_room (hfull : 255 ≤ (s.slice sl).sem 15) : waitsSem s sl .vx 15 256 (exec (.vxRpost sl a b lp) s) :=
  rpost_waits h hlp hok hl hon hone fun n rem => by
    rw [postGo]
    exact if_pos hfull

end

end

/-- Settles O20. That VX.RPOST waits with nothing taken while semaphore 15 stands at 255 is the model's choice of its log 58, and the free value VX.RROUND writes where the
spec states none that of its log 19. -/
theorem reducersAndPosts : Obligations.ReducersAndPosts := by
  unfold Obligations.ReducersAndPosts
  refine ⟨fun s sl k imm f lp o mask r sat index adj => ?_, fun s sl r a b p q n lp l => ?_⟩
  · intro v w h hlp hok
    refine ⟨kset_iterates h hlp hok k imm, kld_iterates h hlp hok k, rclr_iterates h hlp hok mask, fun hlo hhi => ?_⟩
    have hadj : adjOk adj = true := decide_eq_true ⟨hlo, hhi⟩
    exact ⟨rroundConst_iterates h hlp hok r hadj k, fun ho hal hfit => rroundMem_iterates h hlp hok r hadj ho hal hfit⟩
  · intro x red total entry h hlp hok hl
    refine ⟨fun hkind hp hq halp halq => ?_, fun hkind hp hq halp halq => ?_, rpost_disabled h hlp hok hl, fun hon hmx _ => rpost_posts h hlp hok hl hon hmx,
      fun hon hone => rpost_waits_token h hlp hok hl hon hone, fun hon hone => rpost_waits_room h hlp hok hl hon hone⟩
    · exact rpstore_iterates h hlp hok ((isSum_iff _).2 hkind) hp hq halp halq
    · exact rpload_iterates h hlp hok ((isSum_iff _).2 hkind) hp hq halp halq

end Sys2Proof.VectorEngine
end

section
/-! SUPPORT. Tiles (08 R237, R238): moved, transposed, and reduced along an axis. -/

namespace Sys2Proof.VectorEngine
open Sys2Proof Sys2Proof.Machine Sys2Proof.SliceCode

/-! ## Transposition (R237) -/

theorem rdN_eq_map (m : Memory) (a n : Nat) : rdN m a n = (upFrom 0 n).map fun k => rd m (a + k) := by
  refine List.ext_getElem? fun i => ?_
  by_cases hi : i < n
  · rw [rdN_getElem? m a n i hi, List.getElem?_map, upFrom_getElem? 0 n i hi, Nat.zero_add]
    rfl
  · rw [List.getElem?_eq_none (by rw [rdN_length]; omega), List.getElem?_eq_none (by rw [List.length_map, upFrom_length]; omega)]

/-- Bytes read from a part of a range. -/
theorem slice_rdN (m : Memory) (a : Nat) {len off n : Nat} (h : off + n ≤ len) : slice (rdN m a len) off n = rdN m (a + off) n := by
  have hpart : ((rdN m a len).drop off).take n = rdN m (a + off) n := by
    refine List.ext_getElem? fun i => ?_
    by_cases hi : i < n
    · rw [List.getElem?_take_of_lt hi, List.getElem?_drop, rdN_getElem? _ _ _ _ (by omega), rdN_getElem? _ _ _ _ hi, Nat.add_assoc]
    · rw [List.getElem?_take, if_neg hi, List.getElem?_eq_none (by rw [rdN_length]; omega)]
  unfold slice
  simp only [hpart, rdN_length, Nat.sub_self, List.replicate_zero, List.append_nil]

/-- Rows of `d` entries in turn are the entries numbered through. -/
theorem flatMap_rows {α : Type} (c d : Nat) (g : Nat → Nat → α) : ((upFrom 0 c).flatMap fun j => (upFrom 0 d).map (g j)) = (upFrom 0 (c * d)).map fun b => g (b / d) (b % d) := by
  simp only [Commands.upFrom_zero]
  induction c with
  | zero => rw [Nat.zero_mul]; rfl
  | succ c ih =>
    rw [List.range_succ, List.flatMap_append, ih, Nat.add_mul, Nat.one_mul, List.range_add, List.map_append, List.map_map, List.flatMap_singleton]
    refine congrArg _ (List.map_congr_left fun k hk => ?_)
    have hlt : k < d := List.mem_range.1 hk
    rw [Function.comp_apply, Nat.add_comm, Nat.add_mul_div_right _ _ (by omega), Nat.div_eq_of_lt hlt, Nat.add_mul_mod_self_right, Nat.mod_eq_of_lt hlt, Nat.zero_add]

/-- Byte `b` of a transposed tile is byte b mod n of element (b / n mod 16, b / 16n) of the tile. -/
theorem transpose_rdN (m : Memory) (a : Nat) {n : Nat} (hn : n ∣ 64) : transpose (rdN m a 1024) n
    = (upFrom 0 1024).map fun b => rd m (a + ((b / n % 16) * (64 / n) + b / (16 * n)) * n + b % n) := by
  obtain ⟨c, hc⟩ := hn
  have hpos : 0 < n := Nat.pos_of_ne_zero fun hz => by rw [hz, Nat.zero_mul] at hc; exact absurd hc (by decide)
  have hcols : 64 / n = c := by rw [hc, Nat.mul_div_cancel_left c hpos]
  have hsize : c * (16 * n) = 1024 := by rw [Nat.mul_left_comm, Nat.mul_comm c n, ← hc]
  have helem : ∀ j ∈ upFrom 0 c, ∀ i ∈ upFrom 0 16, slice (rdN m a 1024) ((i * c + j) * n) n = (upFrom 0 n).map fun k => rd m (a + (i * c + j) * n + k) := by
    intro j hj i hi
    have hj := ((mem_upFrom 0 c j).1 hj).2
    have hi := ((mem_upFrom 0 16 i).1 hi).2
    have hbefore : i * c ≤ 15 * c := Nat.mul_le_mul_right c (by omega)
    have hlast : (i * c + j) * n + n ≤ 1024 := calc
      (i * c + j) * n + n = (i * c + j + 1) * n := (Nat.succ_mul ..).symm
      _ ≤ 16 * c * n := Nat.mul_le_mul_right n (by omega)
      _ = 1024 := by rw [← hsize, Nat.mul_comm 16 c, Nat.mul_assoc]
    rw [slice_rdN m a hlast, rdN_eq_map]
  have hrow : ∀ j ∈ upFrom 0 c, ((upFrom 0 16).flatMap fun i => slice (rdN m a 1024) ((i * c + j) * n) n)
      = (upFrom 0 (16 * n)).map fun b => rd m (a + (b / n * c + j) * n + b % n) := fun j hj =>
    (List.flatMap_congr fun i hi => helem j hj i hi).trans (flatMap_rows 16 n fun i k => rd m (a + (i * c + j) * n + k))
  have hall : transpose (rdN m a 1024) n = (upFrom 0 c).flatMap fun j => (upFrom 0 (16 * n)).map fun b => rd m (a + (b / n * c + j) * n + b % n) := by
    unfold transpose
    rw [hcols]
    exact List.flatMap_congr hrow
  rw [hall, flatMap_rows c (16 * n) fun j b => rd m (a + (b / n * c + j) * n + b % n), hsize, hcols]
  refine List.map_congr_left fun b _ => ?_
  rw [Nat.mul_comm 16 n, Nat.mod_mul_right_div_self, Nat.mod_mul_right_mod]

/-! ## The operations -/

/-- A slice with the bytes at a place in tile `u`. -/
def loadTile (u : Fin 4) (x : SliceSt) (pl : List Place) : SliceSt := x.wrAt ⟨some u, 0⟩ (x.rdAt (pl.getD 0 ⟨none, 0⟩) 1024)

/-- A slice with tile `u` transposed into tile `w`. -/
def transposeTile (u w : Fin 4) (n : Nat) (x : SliceSt) : SliceSt :=
  x.wrAt ⟨some w, 0⟩ ((upFrom 0 1024).map fun b => rd x.tiles (1024 * u.val + ((b / n % 16) * (64 / n) + b / (16 * n)) * n + b % n))

/-- Elements VX.TRED reduces to result `i`: those of row or column `i` of tile `u`. -/
def reducedOf (u : Fin 4) (rows : Nat) (axis : Bool) (fin : Fmt) (x : SliceSt) (i : Nat) : List Nat :=
  if axis then (upFrom 0 (tileCols fin)).map fun c => x.getElem ⟨some u, 64 * i⟩ fin c 1 else (upFrom 0 rows).map fun r => x.getElem ⟨some u, 64 * r⟩ fin i 1

/-- A slice with the reduction of each row or column of tile `u` at a place, with free values from `fv` where the spec states none. -/
def reduceTile (fv : Nat) (u : Fin 4) (rows : Nat) (axis : Bool) (kind : RKind) (fin fout : Fmt) (x : SliceSt) (pl : List Place) : SliceSt :=
  (upFrom 0 (if axis then rows else tileCols fin)).foldl (fun y i => y.wrAt { pl.getD 0 ⟨none, 0⟩ with addr := (pl.getD 0 ⟨none, 0⟩).addr + i * fmtBytes fout }
    (leBytes (fmtBytes fout) (rroundValue (fv + i) (reduceList kind fin (reducedOf u rows axis fin x i)) fout false 0 false).bits.toNat)) x

theorem reduceTile_beside (fv : Nat) (u : Fin 4) (rows : Nat) (axis : Bool) (kind : RKind) (fin fout : Fmt) (pl : List Place) :
    Beside (reduceTile fv u rows axis kind fin fout · pl) := fun x g a b =>
  Beside.foldl (f := fun y i => y.wrAt { pl.getD 0 ⟨none, 0⟩ with addr := (pl.getD 0 ⟨none, 0⟩).addr + i * fmtBytes fout }
    (leBytes (fmtBytes fout) (rroundValue (fv + i) (reduceList kind fin (reducedOf u rows axis fin x i)) fout false 0 false).bits.toNat)) (fun _ _ _ _ _ => wrAt_beside ..) _ x g a b

section
variable {s : State} {sl : SliceId} {lp : Loop} {o : ScrOperand} (h : issues s sl .vx) (hlp : loops s sl .vx lp) (hok : lp.ok 4 = true)
include h hlp hok

theorem ttr_iterates {u w : Fin 4} {n : Nat} (huw : u ≠ w) (hn : n = 1 ∨ n = 2 ∨ n = 4 ∨ n = 8) :
    iterates s sl .vx lp [] (fun x _ => transposeTile u w n x) (exec (.vxTtr sl u w n lp none) s) := by
  have hdvd : n ∣ 64 := by rcases hn with rfl | rfl | rfl | rfl <;> decide
  rw [show exec (.vxTtr sl u w n lp none) s = .next (s.runOp sl .vx (withParity none (vxTtrOp u w n lp))) from
    if_pos (Bool.and_eq_true_iff.2 ⟨Bool.and_eq_true_iff.2 ⟨hok, decide_eq_true huw⟩, decide_eq_true hn⟩)]
  refine runOp_repeats h hlp (fun _ _ _ _ => wrAt_beside ..) fun l => ?_
  have hbody : ∀ y : SliceSt, transposeTile u w n y = y.wrAt (tilePlace w) (transpose (y.rdAt (tilePlace u) 1024) n) := fun y => by
    rw [transposeTile, ← transpose_rdN y.tiles (1024 * u.val) hdvd]
    rfl
  simp only [hbody]
  rfl

variable (ho : o.ok lp = true)
include ho

section
variable (u : Fin 4) (hal : alignedAt s sl .vx 64 o) (hfit : holdsAt s sl .vx lp 1024 o)
include hal hfit

theorem tld_iterates : iterates s sl .vx lp [o] (loadTile u) (exec (.vxTld sl u o lp none) s) := by
  rw [show exec (.vxTld sl u o lp none) s = .next (s.runOp sl .vx (withParity none (vxTldOp u o lp))) from if_pos (Bool.and_eq_true_iff.2 ⟨hok, ho⟩)]
  exact runOp_fitting (ps := [⟨o, false, true⟩]) (req := fun pl => [(pl.getD 0 ⟨none, 0⟩, 1024)]) h hlp (aligned_one hal) (fun _ _ _ _ _ => wrAt_beside ..)
    (fun i hi => checkFits_one (hfit i hi)) fun _ _ => rfl

theorem tst_iterates : iterates s sl .vx lp [o] (fun x pl => withTile u (pl.getD 0 ⟨none, 0⟩) x) (exec (.vxTst sl u o lp none) s) := by
  rw [show exec (.vxTst sl u o lp none) s = .next (s.runOp sl .vx (withParity none (vxTstOp u o lp))) from if_pos (Bool.and_eq_true_iff.2 ⟨hok, ho⟩)]
  exact runOp_iterates (ps := [⟨o, true, true⟩]) h hlp (aligned_one hal) (fun _ _ _ _ _ => wrAt_beside ..) (fun i hi y => tstBody_ok u y (hfit i hi)) fun l => tstOp_eq u o lp _ l

end

theorem tred_iterates {u : Fin 4} {rows : Nat} {axis : Bool} {kind : RKind} {fin fout : Fmt} (hred : tredOk rows kind fin = true)
    (hlanes : fin = .fp64 → ∀ l, (s.slice sl).layer = some l → l.fp64 = true) (hal : alignedAt s sl .vx (fmtBytes fout) o)
    (hfit : holdsAt s sl .vx lp ((if axis then rows else tileCols fin) * fmtBytes fout) o) :
    iterates { s with free := s.free + 128 } sl .vx lp [o] (reduceTile s.free u rows axis kind fin fout) (exec (.vxTred sl u rows axis kind fin fout o lp none) s) := by
  rw [show exec (.vxTred sl u rows axis kind fin fout o lp none) s
    = .next (State.runOp { s with free := s.free + 128 } sl .vx (withParity none (vxTredOp s.free u rows axis kind fin fout o lp))) from
    if_pos (Bool.and_eq_true_iff.2 ⟨Bool.and_eq_true_iff.2 ⟨hok, ho⟩, hred⟩)]
  have hon : ∀ l, (s.slice sl).layer = some l → ¬ (decide (fin = .fp64) && !l.fp64) = true := fun l hl hbad => by
    obtain ⟨h64, hoff⟩ := Bool.and_eq_true_iff.1 hbad
    rw [hlanes (of_decide_eq_true h64) l hl] at hoff
    cases hoff
  exact runOp_fitting (s := { s with free := s.free + 128 }) (ps := [⟨o, true, true⟩])
    (req := fun pl => [(pl.getD 0 ⟨none, 0⟩, (if axis then rows else tileCols fin) * fmtBytes fout)])
    h hlp (aligned_one hal) (reduceTile_beside s.free u rows axis kind fin fout) (fun i hi => checkFits_one (hfit i hi)) fun l hl => if_neg (hon l hl)

end

/-- Settles O21: each operation is a loop of its own effect. The free value VX.TRED writes where the spec states none, and the columns of a tile of packed elements, are the
model's choices of its logs 19 and 80. -/
theorem tileOperations : Obligations.TileOperations := by
  unfold Obligations.TileOperations
  intro s sl u w o lp n rows axis kind fin fout cols results h hlp hok
  exact ⟨fun ho hal hfit => ⟨tld_iterates h hlp hok ho u hal hfit, tst_iterates h hlp hok ho u hal hfit⟩, ttr_iterates h hlp hok,
    fun ho hred hlanes hal hfit => tred_iterates h hlp hok ho hred hlanes hal hfit⟩

end Sys2Proof.VectorEngine
end

section
/-! SUPPORT. Block-scaled output and the canonical tree (08 R239, R241 to R243). -/

namespace Sys2Proof.VectorEngine
open Sys2Proof Sys2Proof.Machine Sys2Proof.SliceCode

/-! ## Block-scaled output (R239) -/

/-- The scale byte and the elements of block `k` of 32 at a place. -/
def blockAt (fx fe : Fmt) (p : Place) (y : SliceSt) (k : Nat) : Nat × List Nat := quantize fe ((upFrom 0 32).map fun i => decodeVal fx (y.getElem p fx (32 * k + i) 1))

/-- A slice with a block's scale byte and elements written as block `k` at two places. -/
def putBlock (fe : Fmt) (py pd : Place) (k : Nat) (b : Nat × List Nat) (y : SliceSt) : SliceSt :=
  (upFrom 0 32).foldl (fun z i => z.putElem pd fe (32 * k + i) 1 (b.2.getD i 0)) (y.wrAt { py with addr := py.addr + k } [BitVec.ofNat 8 b.1])

theorem putBlock_beside (fe : Fmt) (py pd : Place) (k : Nat) (b : Nat × List Nat) : Beside (putBlock fe py pd k b) := fun y g a c => by
  rw [putBlock, wrAt_beside]
  exact Beside.foldl (f := fun z i => z.putElem pd fe (32 * k + i) 1 (b.2.getD i 0)) (fun _ _ _ _ _ => putElem_beside ..) _ _ g a c

/-- An iteration of VX.QBLK. -/
def quantizeBlocks (fx fe : Fmt) (blocks : Nat) (x : SliceSt) (pl : List Place) : SliceSt :=
  (upFrom 0 blocks).foldl (fun y k => putBlock fe (pl.getD 1 ⟨none, 0⟩) (pl.getD 2 ⟨none, 0⟩) k (blockAt fx fe (pl.getD 0 ⟨none, 0⟩) y k) y) x

theorem quantizeBlocks_beside (fx fe : Fmt) (blocks : Nat) (pl : List Place) : Beside (quantizeBlocks fx fe blocks · pl) := by
  refine Beside.foldl (f := fun y k => putBlock fe (pl.getD 1 ⟨none, 0⟩) (pl.getD 2 ⟨none, 0⟩) k (blockAt fx fe (pl.getD 0 ⟨none, 0⟩) y k) y) (fun k y g a c => ?_) _
  have hblock : blockAt fx fe (pl.getD 0 ⟨none, 0⟩) { y with engines := g, ars := a, stepping := c } k = blockAt fx fe (pl.getD 0 ⟨none, 0⟩) y k := rfl
  simp only [hblock]
  exact putBlock_beside fe _ _ k (blockAt fx fe (pl.getD 0 ⟨none, 0⟩) y k) y g a c

section
variable {s : State} {sl : SliceId} {lp : Loop} (h : issues s sl .vx) (hlp : loops s sl .vx lp) (hok : lp.ok 4 = true)
include h hlp hok

theorem qblk_iterates {ox oy od : ScrOperand} {blocks : Nat} {fx fe : Fmt} (hx : ox.ok lp = true) (hy : oy.ok lp = true) (hd : od.ok lp = true)
    (hq : qblkOk fx fe blocks = true) (halx : alignedAt s sl .vx (fmtBytes fx) ox) (hald : baseAt s sl .vx od % 8 = 0)
    (hfx : holdsAt s sl .vx lp (extent fx (32 * blocks) 1) ox) (hfy : holdsAt s sl .vx lp blocks oy) (hfd : holdsAt s sl .vx lp (extent fe (32 * blocks) 1) od) :
    iterates s sl .vx lp [ox, oy, od] (quantizeBlocks fx fe blocks) (exec (.vxQblk sl ox oy od blocks fx fe lp none) s) := by
  have hwf : (Instr.vxQblk sl ox oy od blocks fx fe lp none).wf = true := by simp only [Instr.wf, hok, hx, hy, hd, hq, Bool.and_self]
  rw [show exec (.vxQblk sl ox oy od blocks fx fe lp none) s = .next (s.runOp sl .vx (withParity none (vxQblkOp ox oy od blocks fx fe lp))) from if_pos hwf]
  exact runOp_fitting (ps := [⟨ox, false, true⟩, ⟨oy, true, true⟩, ⟨od, true, true⟩])
    (req := fun pl => [(pl.getD 0 ⟨none, 0⟩, extent fx (32 * blocks) 1), (pl.getD 1 ⟨none, 0⟩, blocks), (pl.getD 2 ⟨none, 0⟩, extent fe (32 * blocks) 1)])
    h hlp (aligned_two (q := { od with strides := [] }) halx ⟨hald, fun _ hd => absurd hd List.not_mem_nil⟩) (quantizeBlocks_beside fx fe blocks)
    (fun i hi => checkFits_three (hfx i hi) (hfy i hi) (hfd i hi)) fun _ _ => rfl

end

/-! ## Loops that read (R242) -/

section
variable {s : State} {sl : SliceId} {e : Engine} {lp : Loop} {l : LayerRun} {ps : List Opd}

/-- Iterations that change nothing of the slice and append what they find at the places of their operands. -/
theorem loopGo_reads {α : Type} (hq : l.qmode e = false) {body : Body (List α)} {v : List Place → α} {x : SliceSt} (hx : ∀ a, x.arI e a = arAtIssue s sl e a) (rem i : Nat)
    (hbody : ∀ j, i ≤ j → j < i + rem → ∀ vs, body x vs (placesAt s sl e lp ps j) j = .ok (x, vs ++ [v (placesAt s sl e lp ps j)])) (vs : List α) :
    loopGo l e (trips s sl e lp) ps body rem i x vs = .done x (vs ++ (upFrom i rem).map fun j => v (placesAt s sl e lp ps j)) := by
  induction rem generalizing i vs with
  | zero => rw [loopGo, upFrom, List.map_nil, List.append_nil]
  | succ rem ih =>
    have hplaces : ps.map (opdPlace x l e (idxVec (trips s sl e lp) i)) = placesAt s sl e lp ps i := by
      rw [placesAt, List.map_map]
      exact List.map_congr_left fun p _ => opdPlace_address hq hx i p
    rw [loopGo]
    simp only [takeEntries_address hq, hplaces, hbody i (Nat.le_refl i) (by omega), release_address hq]
    rw [ih (i + 1) (fun j hij hj => hbody j (by omega) (by omega)), List.append_assoc]
    rfl

theorem runLoop_reads {α : Type} (hl : (s.slice sl).layer = some l) (hlp : loops s sl e lp) {al : List AlignReq} (hal : Aligned s sl e al) {body : Body (List α)} {v : List Place → α}
    (hbody : ∀ i, i < tripsTotal s sl e lp → ∀ vs, body (issued s sl e) vs (placesAt s sl e lp ps i) i = .ok (issued s sl e, vs ++ [v (placesAt s sl e lp ps i)])) (vs : List α) :
    runLoop (issued s sl e) l e lp ps al vs body = .done (issued s sl e) (vs ++ (upFrom 0 (tripsTotal s sl e lp)).map fun i => v (placesAt s sl e lp ps i)) := by
  have hq : l.qmode e = false := qmode_of_loops hlp hl
  unfold runLoop
  simp only [counts_issued hlp, misaligned_none hq hal, loopPos_issued hlp, Nat.sub_zero]
  exact loopGo_reads hq (issued_arI s sl e) _ 0 (fun j _ hj => hbody j (by rwa [Nat.zero_add] at hj)) vs

/-- A loop of one iteration whose body succeeds. -/
theorem simpleLoop_succeeds (hl : (s.slice sl).layer = some l) (hlp : loops s sl e lp) (hone : lp.counts = []) {al : List AlignReq} (hal : Aligned s sl e al)
    {body : SliceSt → List Place → Except (Nat × Nat) SliceSt} {z : SliceSt} (hbody : body (issued s sl e) (placesAt s sl e lp ps 0) = .ok z) :
    simpleLoop (issued s sl e) l e lp ps al body = .done z (iterationsLeft (issued s sl e) e lp) := by
  have hq : l.qmode e = false := qmode_of_loops hlp hl
  have htrips : trips s sl e lp = [1] := if_pos hone
  have hplaces : ps.map (opdPlace (issued s sl e) l e (idxVec (trips s sl e lp) 0)) = placesAt s sl e lp ps 0 := by
    rw [placesAt, List.map_map]
    exact List.map_congr_left fun p _ => opdPlace_address hq (issued_arI s sl e) 0 p
  unfold simpleLoop runLoop
  simp only [counts_issued hlp, misaligned_none hq hal, loopPos_issued hlp]
  rw [show (trips s sl e lp).foldl (· * ·) 1 - 0 = 1 by rw [htrips]; rfl, loopGo]
  simp only [takeEntries_address hq, hplaces, hbody, Except.map, release_address hq]
  rfl

end

/-- A write into a slice as its operation issued. -/
theorem wrAt_issued (s : State) (sl : SliceId) (e : Engine) (p : Place) (bs : List Byte) :
    (issued s sl e).wrAt p bs = withEngines ((s.slice sl).wrAt p bs) (issuedEngines s sl e) := by
  rw [issued_eq]
  exact Beside.withEngines (f := (·.wrAt p bs)) (fun _ _ _ _ => wrAt_beside ..) (s.slice sl) (issuedEngines s sl e)

/-! ## VX.TSUM (R241, R242) -/

/-- An iteration of VX.TSUM. -/
def tsumBody : Body (List W64) := fun y vs pl _ =>
  checkFits [(pl.getD 0 ⟨none, 0⟩, 8)] >>= fun _ => .ok (y, vs ++ [BitVec.ofNat 64 (y.getElem (pl.getD 0 ⟨none, 0⟩) .fp64 0 1)])

theorem tsumBody_ok (y : SliceSt) (vs : List W64) {pl : List Place} (i : Nat) (h : (pl.getD 0 ⟨none, 0⟩).fits 8 = true) :
    tsumBody y vs pl i = .ok (y, vs ++ [BitVec.ofNat 64 (leNat (y.rdAt (pl.getD 0 ⟨none, 0⟩) 8))]) := by
  rw [tsumBody, checkFits_one h]
  rfl

section
variable {s : State} {sl : SliceId} {lp : Loop} {l : LayerRun} (h : issues s sl .vx) (hlp : loops s sl .vx lp) (hok : lp.ok 4 = true) (hl : (s.slice sl).layer = some l)
  (hlanes : l.fp64 = true)

/-- The place of an operand without strides. -/
theorem opdPlace_fixed (hq : l.qmode .vx = false) (od : ScrOperand) :
    opdPlace (issued s sl .vx) l .vx [0] ⟨{ od with strides := [] }, true, true⟩ = ⟨od.tile, baseAt s sl .vx od⟩ :=
  (opdPlace_address (lp := ⟨[]⟩) hq (issued_arI s sl .vx) 0 _).trans (placeAt_single (lp := ⟨[]⟩) rfl _)

/-- Elements of a VX.TSUM. -/
def treeElements (s : State) (sl : SliceId) (lp : Loop) (o : ScrOperand) : List W64 :=
  (upFrom 0 (tripsTotal s sl .vx lp)).map fun i => BitVec.ofNat 64 (leNat ((s.slice sl).rdAt (placeAt s sl .vx lp i o) 8))

include hlp hl hlanes in
theorem tsumOp_eq {ox od : ScrOperand} {a b : AReg} {height j : Nat} (hvals : ((s.slice sl).eng .vx).vals = [])
    (hnode : nodeOf (arAtIssue s sl .vx b).toNat (arAtIssue s sl .vx a).toNat (tripsTotal s sl .vx lp) (treeHeight (arAtIssue s sl .vx b).toNat) = some (height, j))
    (halx : alignedAt s sl .vx 8 ox) (hald : baseAt s sl .vx od % 8 = 0) (hfx : holdsAt s sl .vx lp 8 ox) (hfd : (⟨od.tile, baseAt s sl .vx od⟩ : Place).fits 16 = true) :
    vxTsumOp ox lp od a b (issued s sl .vx) l = .done ((issued s sl .vx).wrAt ⟨od.tile, baseAt s sl .vx od⟩ (treeRecord (canonF64 (treeValue height (treeElements s sl lp ox))) height j))
      (iterationsLeft (issued s sl .vx) .vx lp) := by
  have hq : l.qmode .vx = false := qmode_of_loops hlp hl
  have hrange : tsumRange ⟨{ od with strides := [] }, true, true⟩ (issued s sl .vx) l = none := by
    unfold tsumRange
    rw [queued_address hq, if_neg Bool.false_ne_true, opdPlace_fixed hq]
    exact if_pos hfd
  have hmis : misaligned (issued s sl .vx) l .vx [⟨⟨{ od with strides := [] }, true, true⟩, 8, []⟩] = none :=
    misaligned_none hq (aligned_one (o := { od with strides := [] }) ⟨hald, fun _ hd => absurd hd List.not_mem_nil⟩)
  have hvals' : ((issued s sl .vx).eng .vx).vals = [] := by rw [issued_eng_same]; exact hvals
  have hloop := runLoop_reads (ps := [⟨ox, false, true⟩]) hl hlp (aligned_one (out := false) halx)
    (v := fun pl => BitVec.ofNat 64 (leNat ((issued s sl .vx).rdAt (pl.getD 0 ⟨none, 0⟩) 8))) (fun i hi vs => tsumBody_ok (issued s sl .vx) vs i (hfx i hi)) []
  rw [tripsTotal] at hnode
  unfold tsumBody at hloop
  unfold vxTsumOp
  simp only [issued_arI, counts_issued hlp, hnode, hlanes, hmis, hrange, hvals', hloop, takeEntries_address hq, release_address hq, opdPlace_fixed hq]
  rfl

include h hlp hok hl hlanes

theorem tsum_retires {ox od : ScrOperand} {a b : AReg} {height j : Nat} (hx : ox.ok lp = true) (hvals : ((s.slice sl).eng .vx).vals = [])
    (hnode : nodeOf (arAtIssue s sl .vx b).toNat (arAtIssue s sl .vx a).toNat (tripsTotal s sl .vx lp) (treeHeight (arAtIssue s sl .vx b).toNat) = some (height, j))
    (halx : alignedAt s sl .vx 8 ox) (hald : baseAt s sl .vx od % 8 = 0) (hfx : holdsAt s sl .vx lp 8 ox) (hfd : (⟨od.tile, baseAt s sl .vx od⟩ : Place).fits 16 = true) :
    retires s sl .vx (fun y => y.wrAt ⟨od.tile, baseAt s sl .vx od⟩ (treeRecord (canonF64 (treeValue height (treeElements s sl lp ox))) height j)) (exec (.vxTsum sl ox lp od a b none) s) := by
  rw [show exec (.vxTsum sl ox lp od a b none) s = .next (s.runOp sl .vx (withParity none (vxTsumOp ox lp od a b))) from if_pos (Bool.and_eq_true_iff.2 ⟨hok, hx⟩)]
  have hop := tsumOp_eq hlp hl hlanes (od := od) hvals hnode halx hald hfx hfd
  rw [wrAt_issued] at hop
  exact runOp_retires (g := fun y => y.wrAt ⟨od.tile, baseAt s sl .vx od⟩ (treeRecord (canonF64 (treeValue height (treeElements s sl lp ox))) height j)) h hl hop

end

/-! ## VX.TADD (R243) -/

/-- The parent of the two records at a place, if they have one. -/
def parentAt (n : Nat) (x : SliceSt) (p : Place) : Option (List Byte) := treeParent n (x.rdAt p 16) (x.rdAt { p with addr := p.addr + 16 } 16)

/-- An iteration of VX.TADD. -/
def taddBody (n : Nat) (y : SliceSt) (pl : List Place) : Except (Nat × Nat) SliceSt :=
  checkFits [(pl.getD 0 ⟨none, 0⟩, 32), (pl.getD 1 ⟨none, 0⟩, 16)] >>= fun _ =>
    match parentAt n y (pl.getD 0 ⟨none, 0⟩) with
    | some r => .ok (y.wrAt (pl.getD 1 ⟨none, 0⟩) r)
    | none => .error (causeRange, scrDetail (pl.getD 0 ⟨none, 0⟩).addr)

section
variable {n : Nat} {y : SliceSt} {pl : List Place} (hp : (pl.getD 0 ⟨none, 0⟩).fits 32 = true) (hd : (pl.getD 1 ⟨none, 0⟩).fits 16 = true)
include hp hd

theorem taddBody_parent {r : List Byte} (hr : parentAt n y (pl.getD 0 ⟨none, 0⟩) = some r) : taddBody n y pl = .ok (y.wrAt (pl.getD 1 ⟨none, 0⟩) r) := by
  rw [taddBody, checkFits_two hp hd, hr]
  rfl

theorem taddBody_none (hr : parentAt n y (pl.getD 0 ⟨none, 0⟩) = none) : taddBody n y pl = .error (causeRange, scrDetail (pl.getD 0 ⟨none, 0⟩).addr) := by
  rw [taddBody, checkFits_two hp hd, hr]
  rfl

end

section
variable {s : State} {sl : SliceId} {lp : Loop} {l : LayerRun} {op od : ScrOperand} {b : AReg} (h : issues s sl .vx) (hlp : loops s sl .vx lp) (hok : lp.ok 4 = true)
  (hl : (s.slice sl).layer = some l) (hlanes : l.fp64 = true) (hone : lp.counts = []) (hp : op.ok lp = true) (hd : od.ok lp = true)
  (halp : alignedAt s sl .vx 8 op) (hald : alignedAt s sl .vx 8 od) (hfp : holdsAt s sl .vx lp 32 op) (hfd : holdsAt s sl .vx lp 16 od)

include hlanes in
theorem taddOp_eq (b : AReg) : vxTaddOp op od b lp (issued s sl .vx) l = simpleLoop (issued s sl .vx) l .vx lp [⟨op, false, true⟩, ⟨od, true, true⟩]
    [⟨⟨op, false, true⟩, 8, []⟩, ⟨⟨od, true, true⟩, 8, []⟩] (taddBody (arAtIssue s sl .vx b).toNat) := by
  unfold vxTaddOp
  rw [issued_arI]
  exact if_neg (by rw [hlanes]; decide)

include hok hp hd in
theorem exec_tadd : exec (.vxTadd sl op od b lp none) s = .next (s.runOp sl .vx (withParity none (vxTaddOp op od b lp))) :=
  if_pos (Bool.and_eq_true_iff.2 ⟨Bool.and_eq_true_iff.2 ⟨hok, hp⟩, hd⟩)

include hone in
theorem first_of_single : 0 < tripsTotal s sl .vx lp := by
  rw [tripsTotal, trips, if_pos hone]
  decide

include h hlp hok hl hlanes hone hp hd halp hald hfp hfd

theorem tadd_retires {r : List Byte} (hr : parentAt (arAtIssue s sl .vx b).toNat (s.slice sl) (placeAt s sl .vx lp 0 op) = some r) :
    retires s sl .vx (fun y => y.wrAt (placeAt s sl .vx lp 0 od) r) (exec (.vxTadd sl op od b lp none) s) := by
  have hfirst := first_of_single (s := s) (sl := sl) hone
  have hop := (taddOp_eq (od := od) hlanes b).trans (simpleLoop_succeeds hl hlp hone (aligned_two halp hald) (taddBody_parent (pl := placesAt s sl .vx lp [⟨op, false, true⟩, ⟨od, true, true⟩] 0) (hfp 0 hfirst) (hfd 0 hfirst) hr))
  rw [wrAt_issued] at hop
  rw [exec_tadd hok hp hd]
  exact runOp_retires (g := fun y => y.wrAt (placeAt s sl .vx lp 0 od) r) h hl hop

theorem tadd_faults (hr : parentAt (arAtIssue s sl .vx b).toNat (s.slice sl) (placeAt s sl .vx lp 0 op) = none) :
    faults s sl .vx 0x24 (scrDetail (placeAt s sl .vx lp 0 op).addr) (exec (.vxTadd sl op od b lp none) s) := by
  have hfirst := first_of_single (s := s) (sl := sl) hone
  have hop := (taddOp_eq (od := od) hlanes b).trans (simpleLoop_fails hl hlp hone (aligned_two halp hald) (taddBody_none (pl := placesAt s sl .vx lp [⟨op, false, true⟩, ⟨od, true, true⟩] 0) (hfp 0 hfirst) (hfd 0 hfirst) hr))
  rw [exec_tadd hok hp hd]
  refine runOp_faults (y := atFirst .vx (issued s sl .vx)) h hl hop ?_ (by decide)
  rw [atFirst_eng_same, issued_eng_same]

end

/-- Settles O22: VX.QBLK is a loop of its own effect; VX.TSUM's loop reads its elements and then writes one record; VX.TADD's one iteration writes the parent, or faults
with nothing written. -/
theorem blockScalingAndTree : Obligations.BlockScalingAndTree := by
  unfold Obligations.BlockScalingAndTree
  intro s sl ox oy od blocks h j fx fe lp a b l x total place n second hi hlp hok hl hx
  refine ⟨fun hy hd => qblk_iterates hi hlp hok hx hy hd, fun hlanes => tsum_retires hi hlp hok hl hlanes hx, fun hlanes hone hd halp hald hfp hfd => ⟨fun r => ?_, ?_⟩⟩
  · exact tadd_retires hi hlp hok hl hlanes hone hx hd halp hald hfp hfd
  · exact tadd_faults hi hlp hok hl hlanes hone hx hd halp hald hfp hfd

end Sys2Proof.VectorEngine
end

section
/-! SUPPORT. A COPY, and a GATHER whose sums spill, over a block whose check difference is listed twice (09 R252 to R257, R260 to R267; 12 R328). -/

namespace Sys2Proof.TensorMovement
open Sys2Proof Sys2Proof.Machine

/-! ## A slice that has come to its command -/

/-- `Commands.listedTwice` with command `m` in flight in place of its FILL, and `mem` in the arrays: block 1 passes verification, and behind the difference that makes
it pass another is listed. -/
def comesTo (m : Cmd) (mem : Memory) : State := { Commands.listedTwice with
  chans := [(0, { Commands.listedTwice.chan 0 with ctxs := [(0, { Ctx.zero with state := .active, inflight := [m] })] })]
  mem := mem }

theorem comesTo_atTurn {m : Cmd} (mem : Memory) (hpos : m.pos = 0) (hsound : sound m) (hhash : m.hash = none) (hrunning : m.running = []) (hstopped : m.stopped = [])
    (htodo : m.todo = [0]) : atTurn (comesTo m mem) 0 0 0 m m.typ := by
  have hcmd : (comesTo m mem).cmd 0 0 0 = some m := by
    show [m].find? (fun k => k.pos = 0) = some m
    exact List.find?_cons_of_pos (p := fun k : Cmd => k.pos = 0) (decide_eq_true hpos)
  have hturn : (comesTo m mem).turn 0 0 0 = true := rfl
  refine ⟨hcmd, rfl, hsound, hhash, hrunning, hstopped, by rw [htodo]; decide, fun e he q hq => ?_, fun sl hsl => ?_⟩
  · rw [List.mem_singleton.1 he] at hq
    exact absurd hq List.not_mem_nil
  · rw [htodo] at hsl
    rw [List.mem_singleton.1 hsl]
    exact hturn

/-- Every block passes verification before anything is written. -/
theorem comesTo_allGood (m : Cmd) (mem : Memory) : allGood (comesTo m mem) := by
  intro b
  have howned : (comesTo m mem).hostOwned b = false := by
    have hwin : ∀ i, (comesTo m mem).win i = 1 := fun _ => rfl
    simp only [State.hostOwned, hwin]
    rfl
  have hdiff : (comesTo m mem).diff b = 0 := by
    show tget [(1, (0 : W32)), (1, 1)] b 0 = 0
    simp only [tget, tfind]
    split
    · rfl
    · split <;> rfl
  refine ⟨howned, ?_⟩
  rw [State.failing, hdiff]
  exact Bool.and_false _

theorem writable_of_allGood {s : State} (h : allGood s) (ws : List (Nat × List Byte)) : writable_ s ws := fun _ _ _ _ => h _

theorem readable_of_allGood {s : State} (h : allGood s) (a n : Nat) : readable s a n := fun _ _ => (h _).2

/-! ## COPY -/

theorem exec_copy {s : State} {c : Chan} {r : Rec} {pos : CmdNo} {m : Cmd} {d : CopyD} (hm : s.cmd c r pos = some m) (hty : m.typ = .copy) (hd : parseDesc .copy m.desc = some (.copy d))
    (hh : m.hashed = true) : exec (.copy c r pos) s = .next ((s.doParts c r pos (copyPart c r pos d)).modCmd c r pos
      fun m => if m.phase = .dispatched ∧ m.todo = [] ∧ m.goes = true ∧ d.staged then { m with phase := .staged } else m) := by
  show execCopy c r pos s = _
  unfold execCopy
  simp only [hm, hty, hd, hh, Bool.not_true, Bool.false_eq_true, if_false]

/-- A COPY of two points of 4 bytes from 128 and 136 to those of `Commands.twoPoints`, both in block 1. -/
def copiesTwoPoints : CopyD := ⟨false, false, 0, 0, 0, 0, { Commands.twoPoints with base := 128 }, [⟨0, false, 0, 0⟩], Commands.twoPoints⟩

/-- The COPY on slice 0, its one slice still to do. -/
def copying : Cmd := { Commands.fillsTwoPoints with
  typ := .copy
  desc := List.replicate 24 0 ++ leBytes 8 (128 + 2 ^ 41 + 2 ^ 44) ++ leBytes 8 (2 + 8 * 2 ^ 24) ++ List.replicate 88 0
    ++ leBytes 8 (64 + 2 ^ 41 + 2 ^ 44) ++ leBytes 8 (2 + 8 * 2 ^ 24) ++ List.replicate 40 0 }

theorem copying_desc : parseDesc .copy copying.desc = some (.copy copiesTwoPoints) := by decide +kernel

theorem copying_atTurn : atTurn (comesTo copying []) 0 0 0 copying .copy := comesTo_atTurn [] rfl (by decide) rfl rfl rfl rfl

theorem copying_sourcesRead (p : Perf) (first n : Nat) : sourcesRead (comesTo copying []) copiesTwoPoints p first n :=
  fun _ _ _ _ b _ => readable_of_allGood (comesTo_allGood copying []) b _

/-- The first point written, the difference behind comes to the front: the second, a partial write into a failing block, faults. -/
theorem copying_faults : ran (exec (.copy 0 0 0) (comesTo copying [])) fun t =>
    (t.cmd 0 0 0).map (·.phase) = some .dispatched ∧ ((t.cmd 0 0 0).bind (·.fault)).map (·.cause) = some (BitVec.ofNat 8 causeDataCheck) := by
  obtain ⟨hcmd, -⟩ := copying_atTurn
  exact ⟨_, exec_copy hcmd rfl copying_desc rfl, by decide +kernel⟩

/-- Refutes O15: a write takes the first entry of its block from the table of check differences, and nothing in the statement makes the table list a block once.
In `comesTo copying []` the write of the first point makes its block fail verification, so the second point's write is not performed and the COPY does not finish. -/
theorem not_copyMoves : ¬ Obligations.CopyMoves := by
  intro h
  obtain ⟨hnow, -⟩ := h (comesTo copying []) 0 0 0 copying copiesTwoPoints 0 [] copying_desc
  obtain ⟨hdata, -⟩ := hnow copying_atTurn rfl rfl (copying_sourcesRead _ _ _) (by decide +kernel)
  obtain ⟨t, ht, ⟨k, hk, hphase, -⟩, -⟩ := hdata rfl rfl rfl (writable_of_allGood (comesTo_allGood copying []) _)
  obtain ⟨u, hu, hdispatched, -⟩ := copying_faults
  obtain rfl : u = t := Host.Outcome.next.inj (hu.symm.trans ht)
  have hfinished : (u.cmd 0 0 0).map (·.phase) = some .finished := by rw [show u.cmd 0 0 0 = some k from hk, Option.map_some, hphase]
  exact absurd (hdispatched.symm.trans hfinished) (by decide)

/-! ## GATHER -/

theorem exec_gather {s : State} {c : Chan} {r : Rec} {pos : CmdNo} {m : Cmd} {d : GatherD} (hm : s.cmd c r pos = some m) (hty : m.typ = .gather)
    (hd : parseDesc .gather m.desc = some (.gather d)) (hh : m.hashed = true) : exec (.gather c r pos) s = .next (s.doParts c r pos (gatherPart c r pos d)) := by
  show execGather c r pos s = _
  unfold execGather
  simp only [hm, hty, hd, hh, if_true]

/-- A balanced GATHER of one item: the partial sums, at 64, of the two rows of two FP32 elements at 4096 and 4104 that the indexes at 2048 name. -/
def sumsTwoRows : GatherD := ⟨false, true, 4096, 2, 8, 0, 0, 2, .fp32, .fp32, .sum, 4, true, 2048, false, 1, 2, 1, 64, false, 3328, 0, false, 0⟩

/-- The GATHER on slice 0, its one slice still to do. -/
def summing : Cmd := { Commands.fillsTwoPoints with
  typ := .gather
  desc := leBytes 8 4 ++ leBytes 8 (4096 + 2 * 2 ^ 40) ++ leBytes 8 8 ++ leBytes 8 0 ++ leBytes 8 (2 + 7 * 2 ^ 14 + 7 * 2 ^ 18 + 2 ^ 22 + 2 ^ 24 + 2 ^ 27) ++ leBytes 8 2048
    ++ leBytes 8 (1 + 2 * 2 ^ 24 + 2 ^ 40) ++ leBytes 8 64 ++ leBytes 8 3328 ++ leBytes 8 0 }

/-- Indexes 0 and 1, row 0 of 2^127 and 1, row 1 of 2^-149 and 0. -/
def twoRows : Memory := [(2052, 1), (4099, 0x7F), (4102, 0x80), (4103, 0x3F), (4104, 1)]

theorem summing_desc : parseDesc .gather summing.desc = some (.gather sumsTwoRows) := by decide +kernel

theorem summing_atTurn : atTurn (comesTo summing twoRows) 0 0 0 summing .gather := comesTo_atTurn twoRows rfl (by decide) rfl rfl rfl rfl

/-- Who gathers. -/
def summingMover : Mover := ⟨⟨0, 0⟩, .cmd summing.tag 0 0 0, summing.tag⟩

/-- The records of 2^127 + 2^-149, which takes its full form, of 1, and of 30 sums of nothing. -/
def spilledWrites : List (Nat × List Byte) := recordWrites 64 (⟨2 ^ 427 + 2 ^ 151, false, false, false⟩ :: ⟨2 ^ 300, false, false, false⟩ :: List.replicate 30 Acc.zero) 0 0

theorem summing_writes : (comesTo summing twoRows).itemWrites summingMover sumsTwoRows 0 = .ok spilledWrites := by decide +kernel

/-- The record of 1 starts at 88. -/
theorem spilledWrites_record : rd (applied twoRows spilledWrites) 88 = 1 := by decide +kernel

/-- The first record written and its full form, which is in another block, the difference behind has come to the front: the second record, a partial write into a
failing block, is not written. -/
theorem summing_faults : ran (exec (.gather 0 0 0) (comesTo summing twoRows)) fun t =>
    rd t.mem 88 = 0 ∧ ((t.cmd 0 0 0).bind (·.fault)).map (·.cause) = some (BitVec.ofNat 8 causeDataCheck) := by
  obtain ⟨hcmd, -⟩ := summing_atTurn
  exact ⟨_, exec_gather hcmd rfl summing_desc rfl, by decide +kernel⟩

/-- Refutes O16: a write takes the first entry of its block from the table of check differences, and nothing in the statement makes the table list a block once.
In `comesTo summing twoRows` the full form of the first record keeps the second from being written in one run with it, and the write of the first makes their block fail
verification, so the second record's write is not performed. -/
theorem not_gatherItemsAndDigests : ¬ Obligations.GatherItemsAndDigests := by
  intro h
  obtain ⟨hgather, -⟩ := h
  obtain ⟨-, hsum, -⟩ := hgather (comesTo summing twoRows) 0 0 0 summing sumsTwoRows 0 spilledWrites summing_atTurn rfl summing_desc rfl rfl fun _ => by decide +kernel
  obtain ⟨t, ht, -, hmem, -⟩ := hsum (by decide) (by decide) summing_writes (writable_of_allGood (comesTo_allGood summing twoRows) _)
  obtain ⟨u, hu, hzero, -⟩ := summing_faults
  obtain rfl : u = t := Host.Outcome.next.inj (hu.symm.trans ht)
  rw [hmem, show (comesTo summing twoRows).mem = twoRows from rfl, spilledWrites_record] at hzero
  exact absurd hzero (by decide)

end Sys2Proof.TensorMovement
end

section
/-! SUPPORT. Sync objects (10 R282 to R287): what an object reads after a change, and what an operation performed at it leaves of the machine. -/

namespace Sys2Proof.Synchronisation
open Sys2Proof Sys2Proof.Machine

/-! ## Objects after a change -/

@[simp] theorem syncObj_modObj_same (s : State) (o : ObjRef) (f : SyncObj → SyncObj) : (s.modObj o f).syncObj o = f (s.syncObj o) := by
  cases o with
  | chan c k =>
    rw [State.syncObj, State.modObj, chan_modChan_same]
    exact (tget_tmod ..).trans (if_pos rfl)
  | module m => exact (tget_tmod ..).trans (if_pos rfl)

/-- Every sync object stands. -/
structure ObjectsStand (s t : State) : Prop where
  hsync : t.hsync = s.hsync
  sync : ∀ c, (t.chan c).sync = (s.chan c).sync

theorem ObjectsStand.refl (s : State) : ObjectsStand s s := ⟨rfl, fun _ => rfl⟩

theorem ObjectsStand.trans {s t u : State} (hst : ObjectsStand s t) (htu : ObjectsStand t u) : ObjectsStand s u :=
  ⟨htu.hsync.trans hst.hsync, fun c => (htu.sync c).trans (hst.sync c)⟩

theorem ObjectsStand.syncObj {s t : State} (h : ObjectsStand s t) (o : ObjRef) : t.syncObj o = s.syncObj o := by
  cases o with
  | chan c k => rw [State.syncObj, State.syncObj, h.sync]
  | module m => rw [State.syncObj, State.syncObj, h.hsync]

theorem objectsStand_modChan {s : State} {c : Nat} {f : Channel → Channel} (hf : (f (s.chan c)).sync = (s.chan c).sync) : ObjectsStand s (s.modChan c f) := by
  refine ⟨rfl, fun k => ?_⟩
  rw [chan_modChan]
  split
  · next h => rw [hf, h]
  · rfl

theorem objectsStand_modCmd (s : State) (c r pos : Nat) (f : Cmd → Cmd) : ObjectsStand s (s.modCmd c r pos f) := objectsStand_modChan rfl

theorem objectsStand_of_chans {s t : State} (hsync : t.hsync = s.hsync) (hchans : t.chans = s.chans) : ObjectsStand s t :=
  ⟨hsync, fun c => by rw [Commands.chan_congr hchans]⟩

theorem syncObj_modObj_other {s : State} {k o : ObjRef} (f : SyncObj → SyncObj) (h : k ≠ o) : (s.modObj o f).syncObj k = s.syncObj k := by
  cases o with
  | chan c i =>
    cases k with
    | chan d j =>
      by_cases hd : d = c
      · subst hd
        have hj : j.val ≠ i.val := fun e => h (by rw [Fin.ext e])
        rw [State.syncObj, State.modObj, chan_modChan_same]
        exact (tget_tmod ..).trans (if_neg hj)
      · have hv : d.val ≠ c.val := fun e => hd (Fin.ext e)
        rw [State.syncObj, State.modObj, chan_modChan_other _ _ _ _ hv]
        rfl
    | module j => rfl
  | module i =>
    cases k with
    | chan d j => rfl
    | module j =>
      have hj : j.val ≠ i.val := fun e => h (by rw [Fin.ext e])
      exact (tget_tmod ..).trans (if_neg hj)

/-! ## A change of one object -/

/-- From `s` to `t` object `o` has become `x`, and besides it nothing has changed but counts of faults and alerts. -/
structure ChangesObject (s t : State) (o : ObjRef) (x : SyncObj) : Prop where
  obj : t.syncObj o = x
  other : ∀ k, k ≠ o → t.syncObj k = s.syncObj k
  slices : t.slices = s.slices
  mem : t.mem = s.mem
  syncQ : t.syncQ = s.syncQ
  arrQ : t.arrQ = s.arrQ
  relQ : t.relQ = s.relQ
  armed : t.port.armedAt = s.port.armedAt
  ctx : ∀ c r, t.ctx c r = s.ctx c r

theorem ChangesObject.trans {s t u : State} {o : ObjRef} {x y : SyncObj} (hst : ChangesObject s t o x) (htu : ChangesObject t u o y) : ChangesObject s u o y :=
  ⟨htu.obj, fun k hk => (htu.other k hk).trans (hst.other k hk), htu.slices.trans hst.slices, htu.mem.trans hst.mem, htu.syncQ.trans hst.syncQ, htu.arrQ.trans hst.arrQ,
    htu.relQ.trans hst.relQ, htu.armed.trans hst.armed, fun c r => (htu.ctx c r).trans (hst.ctx c r)⟩

theorem changesObject_modObj (s : State) (o : ObjRef) (f : SyncObj → SyncObj) : ChangesObject s (s.modObj o f) o (f (s.syncObj o)) := by
  refine ⟨syncObj_modObj_same s o f, fun k hk => syncObj_modObj_other f hk, ?_, ?_, ?_, ?_, ?_, ?_, fun c r => ?_⟩
  case refine_7 =>
    cases o with
    | chan d k => exact Commands.ctx_modChan rfl c r
    | module m => rfl
  all_goals cases o <;> rfl

theorem changesObject_modChan {s : State} {c : Nat} {f : Channel → Channel} (hsync : (f (s.chan c)).sync = (s.chan c).sync) (hctxs : (f (s.chan c)).ctxs = (s.chan c).ctxs) (o : ObjRef) :
    ChangesObject s (s.modChan c f) o (s.syncObj o) :=
  have hobj := (objectsStand_modChan hsync).syncObj
  ⟨hobj o, fun k _ => hobj k, rfl, rfl, rfl, rfl, rfl, rfl, Commands.ctx_modChan hctxs⟩

theorem changesObject_modPort {s : State} {f : PortSt → PortSt} (hf : (f s.port).armedAt = s.port.armedAt) (o : ObjRef) : ChangesObject s (s.modPort f) o (s.syncObj o) :=
  have hobj := (objectsStand_of_chans (s := s) (t := s.modPort f) rfl rfl).syncObj
  ⟨hobj o, fun k _ => hobj k, rfl, rfl, rfl, rfl, rfl, hf, fun _ _ => rfl⟩

theorem changesObject_noteSat (s : State) (old limit c : Nat) (o : ObjRef) : ChangesObject s (s.noteSat old limit c) o (s.syncObj o) := by
  have hobj := (objectsStand_of_chans (s := s) (t := s.noteSat old limit c) (by rw [noteSat_onlyAlerts]) (by rw [noteSat_onlyAlerts])).syncObj
  refine ⟨hobj o, fun k _ => hobj k, ?_, ?_, ?_, ?_, ?_, ?_, Commands.noteSat_ctx s old limit c⟩ <;> rw [noteSat_onlyAlerts]

/-- A fault at an object: it is noted there and counted, and nothing else changes (R286, R287). -/
theorem objFault_changes (s : State) (o : ObjRef) (cause : Nat) (host : Bool) :
    ChangesObject s (s.objFault o cause host) o { s.syncObj o with error := true, lastFault := BitVec.ofNat 8 cause } := by
  have hnote := changesObject_modObj s o fun x => { x with error := true, lastFault := BitVec.ofNat 8 cause }
  have hcount {t u : State} {old limit c : Nat} (htu : ChangesObject t u o (t.syncObj o)) (ht : ChangesObject s t o { s.syncObj o with error := true, lastFault := BitVec.ofNat 8 cause }) :
      ChangesObject s (u.noteSat old limit c) o { s.syncObj o with error := true, lastFault := BitVec.ofNat 8 cause } := by
    have hu := ht.trans htu
    have hnoted := hu.trans (changesObject_noteSat u old limit c o)
    rwa [htu.obj, ht.obj] at hnoted
  unfold State.objFault
  extract_lets t
  cases o with
  | chan c k => exact hcount (changesObject_modChan rfl rfl _) hnote
  | module m =>
    cases host
    · exact hcount (changesObject_modPort rfl _) hnote
    · exact hcount (changesObject_modPort rfl _) hnote

/-- A scan of an object at which nobody waits. -/
theorem scan_changes {s : State} {o : ObjRef} (h : (s.syncObj o).waiters = []) : ChangesObject s (s.scan o) o (s.syncObj o) := by
  have hscan : scanObj s.waiterParty (s.syncObj o) = (s.syncObj o, []) := by rw [scanObj, SyncObj.aged, h]; rfl
  rw [State.scan, hscan]
  exact changesObject_modObj s o fun _ => s.syncObj o

/-! ## Signals and subtractions (R282, R286) -/

/-- A count raised, and by whom. -/
def raised (x : SyncObj) (n : W32) (who : Party) : SyncObj := { x with count := x.count + n, last := lastOf who }
/-- A count lowered, and by whom. -/
def lowered (x : SyncObj) (n : W32) (who : Party) : SyncObj := { x with count := x.count - n, last := lastOf who }
/-- An object that notes a fault. -/
def blamed (x : SyncObj) (cause : Nat) : SyncObj := { x with error := true, lastFault := BitVec.ofNat 8 cause }

section
variable {x : SyncObj} {n : Nat}

theorem addFault_barrier (hb : x.barrierEn = true) : x.addFault n = 0x42 := if_pos hb
theorem addFault_overflow (hb : x.barrierEn = false) (h : 2 ^ 32 ≤ x.count.toNat + n) : x.addFault n = 0x40 := by
  rw [SyncObj.addFault, hb]
  exact if_pos h
theorem addFault_none (hb : x.barrierEn = false) (h : x.count.toNat + n < 2 ^ 32) : x.addFault n = 0 := by
  rw [SyncObj.addFault, hb]
  exact if_neg (Nat.not_le.2 h)
theorem subFault_underflow (hb : x.barrierEn = false) (h : x.count.toNat < n) : x.subFault n = 0x41 := by
  rw [SyncObj.subFault, hb]
  exact if_pos h
theorem subFault_none (hb : x.barrierEn = false) (h : n ≤ x.count.toNat) : x.subFault n = 0 := by
  rw [SyncObj.subFault, hb]
  exact if_neg (Nat.not_lt.2 h)

end

section
variable {s : State} {o : ObjRef} {n : W32} (who : Party)

theorem signalObj_eq (h : (s.syncObj o).addFault n.toNat = 0) : s.signalObj o n who = ((s.modObj o (raised · n who)).scan o, 0) := by
  unfold State.signalObj
  rw [h]
  rfl

/-- A signal where nobody waits. -/
theorem signalObj_changes (h : (s.syncObj o).addFault n.toNat = 0) (hw : (s.syncObj o).waiters = []) :
    (s.signalObj o n who).2 = 0 ∧ ChangesObject s (s.signalObj o n who).1 o (raised (s.syncObj o) n who) := by
  rw [signalObj_eq who h]
  refine ⟨rfl, ?_⟩
  have hraised := changesObject_modObj s o (raised · n who)
  have hscan := hraised.trans (scan_changes (by rw [hraised.obj]; exact hw))
  rwa [hraised.obj] at hscan

theorem signalObj_faults {cause : Nat} (h : (s.syncObj o).addFault n.toNat = cause) (hc : cause ≠ 0) :
    (s.signalObj o n who).2 = cause ∧ ChangesObject s (s.signalObj o n who).1 o (blamed (s.syncObj o) cause) := by
  have hfault : s.signalObj o n who = (s.objFault o cause who.isHost, cause) := by
    unfold State.signalObj
    rw [h]
    exact if_pos hc
  rw [hfault]
  exact ⟨rfl, objFault_changes s o cause who.isHost⟩

theorem subtractObj_changes (h : (s.syncObj o).subFault n.toNat = 0) :
    (s.subtractObj o n who).2 = 0 ∧ ChangesObject s (s.subtractObj o n who).1 o (lowered (s.syncObj o) n who) := by
  unfold State.subtractObj
  rw [h]
  exact ⟨rfl, changesObject_modObj s o (lowered · n who)⟩

theorem subtractObj_faults {cause : Nat} (h : (s.syncObj o).subFault n.toNat = cause) (hc : cause ≠ 0) :
    (s.subtractObj o n who).2 = cause ∧ ChangesObject s (s.subtractObj o n who).1 o (blamed (s.syncObj o) cause) := by
  have hfault : s.subtractObj o n who = (s.objFault o cause who.isHost, cause) := by
    unfold State.subtractObj
    rw [h]
    exact if_pos hc
  rw [hfault]
  exact ⟨rfl, objFault_changes s o cause who.isHost⟩

end

/-! ## The result of an operation (R286) -/

/-- What the return of a result leaves: queues of operations, memory, scratchpads and objects. -/
structure ResultOnly (s t : State) : Prop where
  mem : t.mem = s.mem
  syncQ : t.syncQ = s.syncQ
  arrQ : t.arrQ = s.arrQ
  scratch : ∀ sl, (t.slice sl).scratch = (s.slice sl).scratch
  objects : ObjectsStand s t

theorem cmdFault_resultOnly (s : State) (c r pos : Nat) (f : FaultInfo) : ResultOnly s (s.cmdFault c r pos f) := by
  have hstop (t : State) (ht : ObjectsStand s t) (hq : t.syncQ = s.syncQ) (ha : t.arrQ = s.arrQ) :
      (t.requestStop c r pos).syncQ = s.syncQ ∧ (t.requestStop c r pos).arrQ = s.arrQ ∧ ObjectsStand s (t.requestStop c r pos) := by
    rw [Commands.requestStop_only]
    exact ⟨hq, ha, ht.trans ⟨rfl, fun _ => rfl⟩⟩
  have hscratch (sl : SliceId) : ((s.cmdFault c r pos f).slice sl).scratch = (s.slice sl).scratch := by rw [(SliceCode.asked_cmdFault s c r pos f sl).1]
  suffices h : (s.cmdFault c r pos f).syncQ = s.syncQ ∧ (s.cmdFault c r pos f).arrQ = s.arrQ ∧ ObjectsStand s (s.cmdFault c r pos f) by
    exact ⟨SliceCode.cmdFault_mem s c r pos f, h.1, h.2.1, hscratch, h.2.2⟩
  unfold State.cmdFault
  split
  · exact ⟨rfl, rfl, .refl s⟩
  · split
    · exact ⟨rfl, rfl, .refl s⟩
    · exact hstop _ (objectsStand_modCmd ..) rfl rfl

/-- A command whose operation was performed has finished. -/
def finishes (m : Cmd) : Cmd := { m with phase := .finished }

theorem answer_finishes (s : State) (c : Chan) (r : Rec) (gen : Byte) (pos : Nat) (tag : W32) :
    s.answer (.command c r gen pos tag) 0 = s.modCmd c.val r.val pos finishes := rfl

theorem answer_faults (s : State) (c : Chan) (r : Rec) (gen : Byte) (pos : Nat) (tag : W32) {cause : Nat} (hc : cause ≠ 0) :
    s.answer (.command c r gen pos tag) cause = s.cmdFault c.val r.val pos ⟨BitVec.ofNat 8 cause, 0, .mx, 0⟩ := if_neg hc

theorem answer_resultOnly (s : State) (who : Party) (cause : Nat) : ResultOnly s (s.answer who cause) := by
  cases who with
  | command c r gen pos tag =>
    by_cases hc : cause = 0
    · rw [hc, answer_finishes]
      exact ⟨rfl, rfl, rfl, fun _ => rfl, objectsStand_modCmd ..⟩
    · rw [answer_faults _ _ _ _ _ _ hc]
      exact cmdFault_resultOnly s c r pos _
  | slice sl r gen pos tag => exact ⟨rfl, rfl, rfl, fun _ => rfl, rfl, fun _ => rfl⟩
  | host => exact ⟨rfl, rfl, rfl, fun _ => rfl, .refl s⟩

/-- Its party learns the result. -/
theorem answered_answer (s : State) (who : Party) {cause : Nat} (hc : cause < 256) : answered s (s.answer who cause) who (BitVec.ofNat 8 cause) := by
  have hzero : (BitVec.ofNat 8 cause : Byte) = 0 ↔ cause = 0 := by
    rw [← BitVec.toNat_inj, BitVec.toNat_ofNat, Nat.mod_eq_of_lt hc]
    rfl
  cases who with
  | command c r gen pos tag =>
    intro m hm hs
    refine ⟨fun h => ?_, fun h => ?_⟩
    · rw [hzero.1 h, answer_finishes]
      exact Commands.cmd_modCmd_same (f := finishes) (fun _ => rfl) hm
    · rw [answer_faults _ _ _ _ _ _ (mt hzero.2 h), SliceCode.cmdFault_cmd _ hm hs]
      rfl
  | slice sl r gen pos tag => rfl
  | host => rfl

/-- What a party learns, told from an earlier state with the same commands in flight and releases under way. -/
theorem answered_of {s u t : State} {who : Party} {cause : Byte} (hctx : ∀ c r, u.ctx c r = s.ctx c r) (hrel : u.relQ = s.relQ) (h : answered u t who cause) :
    answered s t who cause := by
  cases who with
  | command c r gen pos tag =>
    intro m hm
    exact h m (by rw [State.cmd, hctx]; exact hm)
  | slice sl r gen pos tag => exact h.trans (by rw [hrel])
  | host => exact h.trans hrel

end Sys2Proof.Synchronisation
end

section
/-! SUPPORT. Operations that come to their object, waits there (10 R282 to R287), and the host's writes of its registers (10 R296, R306). -/

namespace Sys2Proof.Synchronisation
open Sys2Proof Sys2Proof.Machine

/-! ## An operation taken from the queue (R283) -/

/-- The operation has left the queue. -/
def away (s : State) (g : SyncMsg) : State := { s with syncQ := dropFirst g s.syncQ }

/-- The operation has left the queue, and besides its object only slices' engines and channels may have changed. -/
abbrev Taken (s t : State) (o : ObjRef) (g : SyncMsg) : Prop :=
  t.syncQ = dropFirst g s.syncQ ∧ t.mem = s.mem ∧ (∀ sl, (t.slice sl).scratch = (s.slice sl).scratch) ∧ ∀ k, k ≠ o → t.syncObj k = s.syncObj k

theorem away_syncObj (s : State) (g : SyncMsg) (o : ObjRef) : (away s g).syncObj o = s.syncObj o := rfl

theorem taken_of_changes {s u : State} {g : SyncMsg} {o : ObjRef} {x : SyncObj} (h : ChangesObject (away s g) u o x) : Taken s u o g :=
  ⟨h.syncQ, h.mem, fun sl => by rw [Commands.slice_congr h.slices]; rfl, h.other⟩

theorem Taken.answered {s u : State} {g : SyncMsg} {o : ObjRef} (h : Taken s u o g) (who : Party) (cause : Nat) : Taken s (u.answer who cause) o g := by
  obtain ⟨hq, hmem, hscratch, hother⟩ := h
  have hres := answer_resultOnly u who cause
  exact ⟨hres.syncQ.trans hq, hres.mem.trans hmem, fun sl => (hres.scratch sl).trans (hscratch sl), fun k hk => (hres.objects.syncObj k).trans (hother k hk)⟩

theorem exec_syncOperation_none {s : State} {o : ObjRef} (h : nextMsg o s.syncQ = none) : exec (.syncOperation o) s = .next s := by
  show execSyncOperation o s = _
  unfold execSyncOperation
  rw [h]

theorem exec_syncOperation_later {s : State} {o : ObjRef} {g : SyncMsg} (h : nextMsg o s.syncQ = some g) (hf : s.opFirst g = false) : exec (.syncOperation o) s = .next s := by
  show execSyncOperation o s = _
  unfold execSyncOperation
  simp only [h, hf, Bool.false_eq_true, if_false]

theorem exec_syncOperation {s : State} {o : ObjRef} {g : SyncMsg} (h : nextMsg o s.syncQ = some g) (hf : s.opFirst g = true) :
    exec (.syncOperation o) s = .next ((away s g).perform g) := by
  show execSyncOperation o s = _
  unfold execSyncOperation
  simp only [h, hf, if_true]
  rfl

section
variable {s : State} {g : SyncMsg} {n : W32}

theorem perform_signal (h : g.act = .signal n) : s.perform g = (s.signalObj g.obj n g.who).1.answer g.who (s.signalObj g.obj n g.who).2 := by
  unfold State.perform
  rw [h]

theorem perform_subtract (h : g.act = .subtract n) : s.perform g = (s.subtractObj g.obj n g.who).1.answer g.who (s.subtractObj g.obj n g.who).2 := by
  unfold State.perform
  rw [h]

end

section
variable {s : State} {o : ObjRef} {g : SyncMsg} {n : W32} (hnext : nextMsg o s.syncQ = some g) (hfirst : s.opFirst g = true)
include hnext hfirst

/-- A signal or subtraction, performed or not, whose party learns the result. -/
theorem ran_answered {r : State × Nat} {x : SyncObj} {cause : Nat} (hperform : (away s g).perform g = r.1.answer g.who r.2) (h : r.2 = cause ∧ ChangesObject (away s g) r.1 o x)
    (hc : cause < 256) : ran (exec (.syncOperation o) s) fun t => Taken s t o g ∧ answered s t g.who (BitVec.ofNat 8 cause) ∧ t.syncObj o = x := by
  obtain ⟨hcause, hu⟩ := h
  rw [hcause] at hperform
  refine ⟨_, exec_syncOperation hnext hfirst, ?_⟩
  rw [hperform]
  exact ⟨(taken_of_changes hu).answered _ _, answered_of hu.ctx hu.relQ (answered_answer r.1 g.who hc), ((answer_resultOnly r.1 g.who cause).objects.syncObj o).trans hu.obj⟩

variable (hobj : g.obj = o)
include hobj

theorem ran_signal {x : SyncObj} {cause : Nat} (hact : g.act = .signal n)
    (h : ((away s g).signalObj o n g.who).2 = cause ∧ ChangesObject (away s g) ((away s g).signalObj o n g.who).1 o x) (hc : cause < 256) :
    ran (exec (.syncOperation o) s) fun t => Taken s t o g ∧ answered s t g.who (BitVec.ofNat 8 cause) ∧ t.syncObj o = x := by
  have hperform := perform_signal (s := away s g) hact
  rw [hobj] at hperform
  exact ran_answered hnext hfirst hperform h hc

theorem ran_subtract {x : SyncObj} {cause : Nat} (hact : g.act = .subtract n)
    (h : ((away s g).subtractObj o n g.who).2 = cause ∧ ChangesObject (away s g) ((away s g).subtractObj o n g.who).1 o x) (hc : cause < 256) :
    ran (exec (.syncOperation o) s) fun t => Taken s t o g ∧ answered s t g.who (BitVec.ofNat 8 cause) ∧ t.syncObj o = x := by
  have hperform := perform_subtract (s := away s g) hact
  rw [hobj] at hperform
  exact ran_answered hnext hfirst hperform h hc

/-- An acknowledgement: a signal of 1 whose fault, if it brings one, is noted (R304). -/
theorem ran_ack {f : Byte} (hact : g.act = .ack f) (hadd : (s.syncObj o).addFault 1 = 0) (hw : (s.syncObj o).waiters = []) :
    ran (exec (.syncOperation o) s) fun t => ChangesObject (away s g) t o { raised (s.syncObj o) 1 g.who with
      error := (s.syncObj o).error || decide (f ≠ 0), lastFault := if f = 0 then (s.syncObj o).lastFault else f } := by
  refine ⟨_, exec_syncOperation hnext hfirst, ?_⟩
  obtain ⟨hok, hu⟩ := signalObj_changes (s := away s g) (n := 1) g.who hadd hw
  have hperform : (away s g).perform g = if f = 0 then ((away s g).signalObj o 1 g.who).1
      else ((away s g).signalObj o 1 g.who).1.modObj o fun x => { x with error := true, lastFault := f } := by
    unfold State.perform
    rw [hact]
    simp only [hobj, hok, ne_eq, not_true_eq_false, if_false]
  rw [hperform]
  rw [away_syncObj] at hu
  by_cases hf : f = 0
  · simp only [hf, if_true, ne_eq, not_true_eq_false, decide_false, Bool.or_false]
    exact hu
  · have hnoted := hu.trans (changesObject_modObj _ o fun x => { x with error := true, lastFault := f })
    rw [hu.obj] at hnoted
    simp only [hf, if_false, ne_eq, not_false_eq_true, decide_true, Bool.or_true]
    exact hnoted

end

/-! ## Releases of waiters (R284) -/

/-- A command released cannot be withdrawn. -/
def releasedCmd (m : Cmd) : Cmd := { m with released := true }

theorem releaseWaiter_command (s : State) (c : Chan) (r : Rec) (pos : Nat) : s.releaseWaiter (.command c r pos) =
    { s with relQ := s.relQ ++ [(c, Release.waiter (.command c r pos))] }.modCmd c.val r.val pos releasedCmd := rfl

theorem releaseWaiter_objects (s : State) (c : Chan) (r : Rec) (pos : Nat) : ObjectsStand s (s.releaseWaiter (.command c r pos)) := by
  rw [releaseWaiter_command]
  have hrel : ObjectsStand s { s with relQ := s.relQ ++ [(c, Release.waiter (.command c r pos))] } := objectsStand_of_chans rfl rfl
  exact hrel.trans (objectsStand_modCmd ..)

/-- An object one of whose waiters has been released: a consuming one has taken its value. -/
def consumed (x : SyncObj) (consume : Bool) (v : W32) (who : Party) : SyncObj := if consume then lowered x v who else x

theorem consumed_count (x : SyncObj) (consume : Bool) (v : W32) (who : Party) : (consumed x consume v who).count = x.count - if consume then v else 0 := by
  cases consume
  · exact (BitVec.sub_zero x.count).symm
  · rfl

/-- An object whose one waiter has been released. -/
def served (x : SyncObj) (consume : Bool) (v : W32) (who : Party) : SyncObj := { consumed x consume v who with waiters := [] }

/-- The scan of an object where one command waits. -/
theorem scanObj_command {party : WaiterBy → Party} {x : SyncObj} {j age pos : Nat} {c : Chan} {r : Rec} {consume : Bool} {v : W32}
    (h : x.waiters = [(j, ⟨.command c r pos, consume, v, age⟩)]) : scanObj party x =
      if v.toNat ≤ x.count.toNat then (served x consume v (party (.command c r pos)), [.command c r pos]) else (x, []) := by
  have hdel : tdel x.waiters j = [] := by simp [h, tdel]
  have haged : x.aged = x.waiters := by rw [SyncObj.aged, h]; rfl
  rw [scanObj, haged, h, List.foldl_cons, List.foldl_nil, scanOne]
  simp only [hdel, List.nil_append]
  congr 1
  cases consume <;> rfl

/-- A signal that one command waits for, or not yet. -/
theorem signalObj_command {s : State} {o : ObjRef} {n v : W32} {who : Party} {j age pos : Nat} {c : Chan} {r : Rec} {consume : Bool}
    (hadd : (s.syncObj o).addFault n.toNat = 0) (h : (s.syncObj o).waiters = [(j, ⟨.command c r pos, consume, v, age⟩)]) :
    (v.toNat ≤ ((s.syncObj o).count + n).toNat → ∃ u last, (s.signalObj o n who).1 = u.releaseWaiter (.command c r pos)
      ∧ ChangesObject s u o (served (raised (s.syncObj o) n who) consume v last))
    ∧ (((s.syncObj o).count + n).toNat < v.toNat → ChangesObject s (s.signalObj o n who).1 o (raised (s.syncObj o) n who)) := by
  rw [signalObj_eq who hadd]
  have hraised := changesObject_modObj s o (raised · n who)
  generalize s.modObj o (raised · n who) = u at hraised ⊢
  have hscan := scanObj_command (party := u.waiterParty) (x := u.syncObj o) (by rw [hraised.obj]; exact h)
  rw [hraised.obj] at hscan
  have hput (y : SyncObj) := hraised.trans (changesObject_modObj u o fun _ => y)
  refine ⟨fun hv => ?_, fun hv => ?_⟩
  · rw [if_pos (show v.toNat ≤ (raised (s.syncObj o) n who).count.toNat from hv)] at hscan
    simp only [State.scan, hraised.obj, hscan]
    exact ⟨_, _, rfl, hput _⟩
  · rw [if_neg (show ¬ v.toNat ≤ (raised (s.syncObj o) n who).count.toNat from Nat.not_le.2 hv)] at hscan
    simp only [State.scan, hraised.obj, hscan]
    exact hput _

/-! ## Waits (R282, R285) -/

/-- What a wait leaves besides its object, releases and held waits. -/
structure Waits (s t : State) (o : ObjRef) : Prop where
  mem : t.mem = s.mem
  slices : t.slices = s.slices
  syncQ : t.syncQ = s.syncQ
  other : ∀ k, k ≠ o → t.syncObj k = s.syncObj k

theorem waits_of_changes {s t : State} {o : ObjRef} {x : SyncObj} (h : ChangesObject s t o x) : Waits s t o := ⟨h.mem, h.slices, h.syncQ, h.other⟩

theorem modObj_held (s : State) (o : ObjRef) (f : SyncObj → SyncObj) (k : Nat) : ((s.modObj o f).chan k).held = (s.chan k).held := by
  cases o with
  | chan c i =>
    rw [State.modObj, chan_modChan]
    split
    · next h => rw [h]
    · rfl
  | module i => rfl

theorem modCmd_held (s : State) (c r pos : Nat) (f : Cmd → Cmd) (k : Nat) : ((s.modCmd c r pos f).chan k).held = (s.chan k).held := by
  rw [State.modCmd, State.modCtx, chan_modChan]
  split
  · next h => rw [h]; rfl
  · rfl

section
variable {s : State} {g : SyncMsg} {c : Chan} {r : Rec} {gen : Byte} {pos : Nat} {tag v : W32} {consume : Bool}

theorem perform_wait (hact : g.act = .wait v consume) (hwho : g.who = .command c r gen pos tag) (hb : consume = true → (s.syncObj g.obj).barrierEn = false) :
    s.perform g = s.waitObj g (.command c r pos) v consume := by
  have hno : (consume && (s.syncObj g.obj).barrierEn) = false := by
    cases consume
    · rfl
    · exact hb rfl
  unfold State.perform
  simp only [hact, hwho, hno, Bool.false_eq_true, if_false]

/-- A wait whose value is reached is released at once. -/
theorem waitObj_released (h : v.toNat ≤ (s.syncObj g.obj).count.toNat) :
    let t := s.waitObj g (.command c r pos) v consume
    Waits s t g.obj ∧ t.relQ = s.relQ ++ [(c, .waiter (.command c r pos))] ∧ (t.syncObj g.obj).count = (s.syncObj g.obj).count - (if consume then v else 0)
      ∧ ∀ k, (t.chan k).held = (s.chan k).held := by
  have hwait : ∃ u, s.waitObj g (.command c r pos) v consume = u.releaseWaiter (.command c r pos) ∧ Waits s u g.obj ∧ u.relQ = s.relQ
      ∧ u.syncObj g.obj = consumed (s.syncObj g.obj) consume v g.who ∧ ∀ k, (u.chan k).held = (s.chan k).held := by
    unfold State.waitObj
    simp only [if_pos h]
    cases consume
    · exact ⟨s, rfl, ⟨rfl, rfl, rfl, fun _ _ => rfl⟩, rfl, rfl, fun _ => rfl⟩
    · have hu := changesObject_modObj s g.obj (lowered · v g.who)
      exact ⟨_, rfl, waits_of_changes hu, hu.relQ, hu.obj, modObj_held s g.obj _⟩
  obtain ⟨u, hu, hwaits, hrel, hobj, hheld⟩ := hwait
  intro t
  have ht : t = u.releaseWaiter (.command c r pos) := hu
  have hobjects := releaseWaiter_objects u c r pos
  rw [ht]
  refine ⟨⟨hwaits.mem, hwaits.slices, hwaits.syncQ, fun k hk => (hobjects.syncObj k).trans (hwaits.other k hk)⟩, ?_, ?_, fun k => ?_⟩
  · rw [releaseWaiter_command, State.modCmd_relQ, hrel]
  · rw [hobjects.syncObj, hobj, consumed_count]
  · rw [releaseWaiter_command, modCmd_held]
    exact hheld k

/-- One whose value is not reached takes the lowest free slot. -/
theorem waitObj_slot {j : Nat} (h : (s.syncObj g.obj).count.toNat < v.toNat) (hj : (s.syncObj g.obj).freeSlot = some j) (w : WaiterBy) :
    ChangesObject s (s.waitObj g w v consume) g.obj ((s.syncObj g.obj).take j w consume v) := by
  unfold State.waitObj
  simp only [if_neg (Nat.not_le.2 h), hj]
  exact changesObject_modObj s g.obj fun x => x.take j w consume v

/-- One that finds none is held by its channel. -/
theorem waitObj_held (h : (s.syncObj g.obj).count.toNat < v.toNat) (hj : (s.syncObj g.obj).freeSlot = none) (w : WaiterBy) :
    ChangesObject s (s.waitObj g w v consume) g.obj (s.syncObj g.obj)
      ∧ ((s.waitObj g w v consume).chan (partyChan g.who)).held = (s.chan (partyChan g.who)).held ++ [.wait g] := by
  unfold State.waitObj
  simp only [if_neg (Nat.not_le.2 h), hj]
  exact ⟨changesObject_modChan rfl rfl _, by rw [State.hold, chan_modChan_same]⟩

end

/-! ## Operations that meet commands that wait -/

section
variable {s : State} {o : ObjRef} {g : SyncMsg} {n v : W32} {c : Chan} {r : Rec} {gen : Byte} {j age pos : Nat} {tag : W32} {consume : Bool}
variable (hnext : nextMsg o s.syncQ = some g) (hfirst : s.opFirst g = true) (hobj : g.obj = o)
include hnext hfirst hobj

/-- A signal of the host's where one command waits: it goes on if the count now reaches its value. -/
theorem ran_signal_command (hact : g.act = .signal n) (hwho : g.who = .host) (hb : (s.syncObj o).barrierEn = false) (hn : (s.syncObj o).count.toNat + n.toNat < 2 ^ 32)
    (hw : (s.syncObj o).waiters = [(j, ⟨.command c r pos, consume, v, age⟩)]) : ran (exec (.syncOperation o) s) fun t => Taken s t o g
      ∧ (v.toNat ≤ (s.syncObj o).count.toNat + n.toNat → (t.syncObj o).waiters = [] ∧ (t.syncObj o).count = (s.syncObj o).count + n - (if consume then v else 0)
          ∧ t.relQ = s.relQ ++ [(c, .waiter (.command c r pos))])
      ∧ ((s.syncObj o).count.toNat + n.toNat < v.toNat → (t.syncObj o).waiters = (s.syncObj o).waiters ∧ (t.syncObj o).count = (s.syncObj o).count + n ∧ t.relQ = s.relQ) := by
  refine ⟨_, exec_syncOperation hnext hfirst, ?_⟩
  have hperform : (away s g).perform g = ((away s g).signalObj o n .host).1 := by
    rw [perform_signal hact, hobj, hwho]
    rfl
  have hsum : ((s.syncObj o).count + n).toNat = (s.syncObj o).count.toNat + n.toNat := BitVec.toNat_add_of_lt hn
  obtain ⟨hreached, hnot⟩ := signalObj_command (s := away s g) (who := .host) (addFault_none hb hn) hw
  rw [away_syncObj, hsum] at hreached hnot
  rw [hperform]
  by_cases hv : v.toNat ≤ (s.syncObj o).count.toNat + n.toNat
  · obtain ⟨u, last, hu, hchange⟩ := hreached hv
    have hobjects := releaseWaiter_objects u c r pos
    obtain ⟨hq, hmem, hscratch, hother⟩ := taken_of_changes hchange
    rw [hu]
    refine ⟨⟨hq, hmem, hscratch, fun k hk => (hobjects.syncObj k).trans (hother k hk)⟩, fun _ => ⟨?_, ?_, ?_⟩, fun h => absurd hv (Nat.not_le.2 h)⟩
    · rw [hobjects.syncObj, hchange.obj]
      rfl
    · rw [hobjects.syncObj, hchange.obj]
      exact consumed_count ..
    · rw [releaseWaiter_command, State.modCmd_relQ, hchange.relQ]
      rfl
  · have hchange := hnot (Nat.not_le.1 hv)
    exact ⟨taken_of_changes hchange, fun h => absurd h hv, fun _ => ⟨by rw [hchange.obj]; rfl, by rw [hchange.obj]; rfl, hchange.relQ⟩⟩

/-- A command's wait, released at once, in the lowest free slot or held by its channel. -/
theorem ran_wait (hact : g.act = .wait v consume) (hwho : g.who = .command c r gen pos tag) (hb : consume = true → (s.syncObj o).barrierEn = false) :
    ran (exec (.syncOperation o) s) fun t => Taken s t o g
      ∧ (v.toNat ≤ (s.syncObj o).count.toNat → t.relQ = s.relQ ++ [(c, .waiter (.command c r pos))] ∧ (t.syncObj o).count = (s.syncObj o).count - (if consume then v else 0))
      ∧ ((s.syncObj o).count.toNat < v.toNat → (s.syncObj o).freeSlot = some j → t.relQ = s.relQ ∧ t.syncObj o = (s.syncObj o).take j (.command c r pos) consume v)
      ∧ ((s.syncObj o).count.toNat < v.toNat → (s.syncObj o).freeSlot = none → t.syncObj o = s.syncObj o ∧ t.relQ = s.relQ
          ∧ (t.chan c).held = (s.chan c).held ++ [.wait g]) := by
  refine ⟨_, exec_syncOperation hnext hfirst, ?_⟩
  subst hobj
  rw [perform_wait (s := away s g) hact hwho hb]
  rcases Nat.lt_or_ge (s.syncObj g.obj).count.toNat v.toNat with hv | hv
  · have hnot : ¬ v.toNat ≤ (s.syncObj g.obj).count.toNat := Nat.not_le.2 hv
    cases hslot : (s.syncObj g.obj).freeSlot with
    | some k =>
      have hchange := waitObj_slot (s := away s g) (consume := consume) hv hslot (.command c r pos)
      refine ⟨taken_of_changes hchange, fun h => absurd h hnot, fun _ hj => ?_, fun _ => nofun⟩
      obtain rfl := Option.some.inj hj
      exact ⟨hchange.relQ, hchange.obj⟩
    | none =>
      obtain ⟨hchange, hheld⟩ := waitObj_held (s := away s g) (consume := consume) hv hslot (.command c r pos)
      rw [hwho] at hheld
      exact ⟨taken_of_changes hchange, fun h => absurd h hnot, fun _ => nofun, fun _ _ => ⟨hchange.obj, hchange.relQ, hheld⟩⟩
  · obtain ⟨⟨hmem, hslices, hq, hother⟩, hrel, hcount, -⟩ := waitObj_released (s := away s g) (c := c) (r := r) (pos := pos) (consume := consume) hv
    exact ⟨⟨hq, hmem, fun sl => by rw [Commands.slice_congr hslices]; rfl, hother⟩, fun _ => ⟨hrel, hcount⟩, fun h => absurd hv (Nat.not_le.2 h),
      fun h => absurd hv (Nat.not_le.2 h)⟩

end

/-! ## Host writes of an object's registers (R296, R306) -/

theorem foldl_fixed {σ α : Type} {f : σ → α → σ} {s : σ} (h : ∀ a, f s a = s) (l : List α) : l.foldl f s = s := by
  induction l with
  | nil => rfl
  | cons a l ih => rw [List.foldl_cons, h, ih]

/-- Nothing sent to the object is left to perform. -/
theorem catchUp_idle {s : State} {o : ObjRef} (hm : nextMsg o s.syncQ = none) (ha : nextArr o s.arrQ = none) : s.catchUp o = s := by
  unfold State.catchUp forN
  exact foldl_fixed (fun _ => by simp only [hm, ha]) _

/-- A host WRITE of a register of object `o` has reached it. -/
abbrev WroteObject (s t : State) (o : ObjRef) : Prop :=
  t.port.armedAt = none ∧ t.port.lastStatus = .ok ∧ t.mem = s.mem ∧ t.slices = s.slices ∧ ∀ k, k ≠ o → t.syncObj k = s.syncObj k

theorem objWriteBy_now {s : State} {lane : Group} (h : s.groupPending lane = []) (o : ObjRef) (off : Nat) (v : W32) : s.objWriteBy lane o off v = s.objWrite o off v := by
  cases o with
  | chan c k => rfl
  | module m => exact if_pos h

section
variable {s : State} {lane : Group} {o : ObjRef} {i : Instr} {off : Nat} {v : W32}

/-- A write whose lane group has none before it under way has its effect at once. -/
theorem ran_objWrite {x : SyncObj} (hi : exec i s = .next (s.hostReg (objWin o) .ok fun s => s.objWriteBy lane o off v)) (hreach : s.winReached (objWin o) = true)
    (hstat : s.winStatus (objWin o) = .ok) (hnow : s.groupPending lane = []) (h : ChangesObject s.keyOff (s.keyOff.objWrite o off v) o x) :
    ran (exec i s) fun t => WroteObject s t o ∧ t.syncObj o = x := by
  have hwrite := BankMemory.hostReg_served (fun s => s.objWriteBy lane o off v) hreach hstat
  rw [objWriteBy_now (s := s.keyOff) hnow] at hwrite
  exact ⟨_, hi.trans (congrArg Host.Outcome.next hwrite), ⟨h.armed, rfl, h.mem, h.slices, h.other⟩, h.obj⟩

/-- A write behind others of its lane group waits for them (04 R141). -/
theorem ran_objWrite_deferred {m : Fin 8192} (hi : exec i s = .next (s.hostReg .sync .ok fun s => s.objWriteBy lane (.module m) off v)) (hreach : s.reached = true)
    (hcompute : s.port.compute = true) (hlater : s.groupPending lane ≠ []) :
    ran (exec i s) fun t => t = { s with port := t.port } ∧ t.port.armedAt = none ∧ t.port.lastStatus = .ok
      ∧ t.port.deferred = s.port.deferred ++ [⟨s.groupPending lane, objAddr m off, v⟩] := by
  have hdefer : s.keyOff.objWriteBy lane (.module m) off v = s.keyOff.modPort fun p => { p with deferred := p.deferred ++ [⟨s.groupPending lane, objAddr m off, v⟩] } := if_neg hlater
  have hwrite := BankMemory.hostReg_served (w := .sync) (fun s => s.objWriteBy lane (.module m) off v) hreach (if_pos hcompute)
  rw [hdefer] at hwrite
  exact ⟨_, hi.trans (congrArg Host.Outcome.next hwrite), rfl, rfl, rfl, rfl⟩

end

section
variable {s : State} {o : ObjRef} {n : W32}

theorem hostAdd_eq (hn : n ≠ 0) (hm : nextMsg o s.syncQ = none) (ha : nextArr o s.arrQ = none) : s.objWrite o 0x00 n = (s.signalObj o n .host).1 := by
  show s.hostAdd o n = _
  rw [State.hostAdd, if_neg hn, catchUp_idle hm ha]

theorem hostSub_eq (hn : n ≠ 0) (hm : nextMsg o s.syncQ = none) (ha : nextArr o s.arrQ = none) : s.objWrite o 0x04 n = (s.subtractObj o n .host).1 := by
  show s.hostSub o n = _
  rw [State.hostSub, if_neg hn, catchUp_idle hm ha]

/-- An object made a barrier, or none, as the register says. -/
def configured (n : W32) (x : SyncObj) : SyncObj := { x with participants := n.toNat % 2 ^ 21, barrierEn := n.getLsbD 31, forwarded := [] }
/-- A barrier whose episode is given up. -/
def episodeCleared (x : SyncObj) : SyncObj := { x with arrived := 0, forwarded := [] }

theorem barCfg_idle (hw : (s.syncObj o).waiters = []) (ha : (s.syncObj o).arrived = 0) : s.objWrite o 0x1C n = s.modObj o (configured n) := by
  show s.barCfg o n = _
  have hbits : bits n.toNat 20 0 = n.toNat % 2 ^ 21 := Commands.bits_low n.toNat 20
  unfold State.barCfg
  rw [hbits]
  exact if_pos (by simp [SyncObj.idle, hw, ha])

theorem barCfg_busy (h : (s.syncObj o).waiters ≠ [] ∨ (s.syncObj o).arrived ≠ 0) : s.objWrite o 0x1C n = s.objFault o 0x42 true := by
  show s.barCfg o n = _
  refine if_neg fun hidle => ?_
  simp only [SyncObj.idle, Bool.and_eq_true, decide_eq_true_eq] at hidle
  exact h.elim (fun hw => hw hidle.1) fun ha => ha hidle.2

theorem barClear_idle (hw : (s.syncObj o).waiters = []) : s.objWrite o 0x20 0x80000000 = s.modObj o episodeCleared := by
  show (if (s.syncObj o).idle then s.modObj o episodeCleared else s.objFault o causeMode true) = _
  exact if_pos (decide_eq_true hw)

theorem barClear_busy (hw : (s.syncObj o).waiters ≠ []) : s.objWrite o 0x20 0x80000000 = s.objFault o 0x42 true := by
  show (if (s.syncObj o).idle then s.modObj o episodeCleared else s.objFault o causeMode true) = _
  exact if_neg fun h => hw (of_decide_eq_true h)

end

/-- Settles O27: an operation that leaves the queue is performed at its object and its result returned; a wait is released, takes a slot or is held; a host WRITE of the
object's registers does the same with nothing returned, and waits behind the earlier writes of its lane group. -/
theorem syncOperations : Obligations.SyncOperations := by
  unfold Obligations.SyncOperations
  refine ⟨fun s o g n v c r gen f pos age j tag consume => ⟨exec_syncOperation_none, fun h hf => exec_syncOperation_later h hf, fun hnext hobj hfirst => ?_⟩,
    fun s lane o n hreach hstat hnow hm ha => ?_, fun s lane m n hreach hcompute hlater => ?_⟩
  · refine ⟨fun hact hb hn hw => ?_, fun hact hb => ?_, fun hact hb hn => ?_, fun hact hwho hb hn hw => ?_, fun hact hb hn => ?_, fun hact hb hn => ?_, fun hact hb hn hw => ?_,
      fun hact hwho hb => ?_⟩
    · exact ran_signal hnext hfirst hobj hact (signalObj_changes _ (addFault_none hb hn) hw) (by decide)
    · exact ran_signal hnext hfirst hobj hact (signalObj_faults _ (addFault_barrier hb) (by decide)) (by decide)
    · exact ran_signal hnext hfirst hobj hact (signalObj_faults _ (addFault_overflow hb hn) (by decide)) (by decide)
    · exact ran_signal_command hnext hfirst hobj hact hwho hb hn hw
    · exact ran_subtract hnext hfirst hobj hact (subtractObj_changes _ (subFault_none hb hn)) (by decide)
    · exact ran_subtract hnext hfirst hobj hact (subtractObj_faults _ (subFault_underflow hb hn) (by decide)) (by decide)
    · obtain ⟨t, ht, hchange⟩ := ran_ack hnext hfirst hobj hact (addFault_none hb hn) hw
      exact ⟨t, ht, taken_of_changes hchange, hchange.relQ, hchange.obj⟩
    · exact ran_wait hnext hfirst hobj hact hwho hb
  · have hadd (hn : n ≠ 0) : s.keyOff.objWrite o 0x00 n = (s.keyOff.signalObj o n .host).1 := hostAdd_eq hn hm ha
    have hsub (hn : n ≠ 0) : s.keyOff.objWrite o 0x04 n = (s.keyOff.subtractObj o n .host).1 := hostSub_eq hn hm ha
    refine ⟨fun hn hb hc hw => ?_, fun hn hb hc => ?_, fun hn hb hc => ?_, fun hn hb hc => ?_, fun hw hz => ?_, fun hbusy => ?_, fun hw => ?_, fun hw => ?_⟩
    · exact ran_objWrite rfl hreach hstat hnow (hadd hn ▸ (signalObj_changes (s := s.keyOff) .host (addFault_none hb hc) hw).2)
    · exact ran_objWrite rfl hreach hstat hnow (hadd hn ▸ (signalObj_faults (s := s.keyOff) .host (addFault_overflow hb hc) (by decide)).2)
    · exact ran_objWrite rfl hreach hstat hnow (hsub hn ▸ (subtractObj_changes (s := s.keyOff) .host (subFault_none hb hc)).2)
    · exact ran_objWrite rfl hreach hstat hnow (hsub hn ▸ (subtractObj_faults (s := s.keyOff) .host (subFault_underflow hb hc) (by decide)).2)
    · exact ran_objWrite rfl hreach hstat hnow (barCfg_idle (s := s.keyOff) hw hz ▸ changesObject_modObj s.keyOff o (configured n))
    · exact ran_objWrite rfl hreach hstat hnow (barCfg_busy (s := s.keyOff) hbusy ▸ objFault_changes s.keyOff o 0x42 true)
    · exact ran_objWrite rfl hreach hstat hnow (barClear_idle (s := s.keyOff) hw ▸ changesObject_modObj s.keyOff o episodeCleared)
    · exact ran_objWrite rfl hreach hstat hnow (barClear_busy (s := s.keyOff) hw ▸ objFault_changes s.keyOff o 0x42 true)
  · exact ⟨ran_objWrite_deferred rfl hreach hcompute hlater, ran_objWrite_deferred rfl hreach hcompute hlater, ran_objWrite_deferred rfl hreach hcompute hlater,
      ran_objWrite_deferred rfl hreach hcompute hlater⟩

end Sys2Proof.Synchronisation
end

section
/-! SUPPORT. What frees BX of a slice (10 R284, R289, R295): the slice it goes to, and what it leaves of the rest of the machine. -/

namespace Sys2Proof.Synchronisation
open Sys2Proof Sys2Proof.Machine

/-! ## Steps of context records beside others -/

/-- Of every channel only context records, and of the rest neither releases under way nor memory, may have changed. -/
structure RecordsOnly (s t : State) : Prop where
  relQ : t.relQ = s.relQ
  mem : t.mem = s.mem
  chan : ∀ k, t.chan k = { s.chan k with ctxs := (t.chan k).ctxs }

theorem RecordsOnly.refl (s : State) : RecordsOnly s s := ⟨rfl, rfl, fun _ => rfl⟩

theorem RecordsOnly.trans {s t u : State} (hst : RecordsOnly s t) (htu : RecordsOnly t u) : RecordsOnly s u :=
  ⟨htu.relQ.trans hst.relQ, htu.mem.trans hst.mem, fun k => by rw [htu.chan k, hst.chan k]⟩

theorem RecordsOnly.combiners {s t : State} (h : RecordsOnly s t) (k : Nat) : (t.chan k).combiners = (s.chan k).combiners := by rw [h.chan k]
theorem RecordsOnly.watches {s t : State} (h : RecordsOnly s t) (k : Nat) : (t.chan k).watches = (s.chan k).watches := by rw [h.chan k]

theorem recordsOnly_modCtx (s : State) (c r : Nat) (f : Ctx → Ctx) : RecordsOnly s (s.modCtx c r f) := by
  refine ⟨rfl, rfl, fun k => ?_⟩
  rw [State.modCtx, chan_modChan]
  split
  · next h => rw [h]; rfl
  · rfl

theorem recordsOnly_reclaim (s : State) (c v : Nat) : RecordsOnly s (s.reclaim c v) := by
  rw [Commands.reclaim_only]
  exact ⟨rfl, rfl, fun _ => rfl⟩

theorem recordsOnly_modSlice (s : State) (sl : SliceId) (f : SliceSt → SliceSt) : RecordsOnly s (s.modSlice sl f) := ⟨rfl, rfl, fun _ => rfl⟩

theorem endLongWait_eq (s : State) (c r : Nat) : s.endLongWait c r = (s.reclaim c (((s.ctx c r).inflight.map (·.lent)).foldl (· + ·) 0)).modCtx c r
    fun x => { x with longWait := false, inflight := x.inflight.map fun m => { m with lent := 0 } } := rfl

/-- A long wait that ends. -/
theorem recordsOnly_waitEnded (s : State) (c r : Nat) : RecordsOnly s (Commands.waitEnded s c r) ∧ (Commands.waitEnded s c r).slices = s.slices := by
  unfold Commands.waitEnded
  split
  · rw [endLongWait_eq]
    refine ⟨(recordsOnly_reclaim ..).trans (recordsOnly_modCtx ..), ?_⟩
    rw [State.modCtx_slices, Commands.reclaim_only]
  · exact ⟨.refl s, rfl⟩

/-- A wait of the context's has ended, and another begins. -/
def resumed (s : State) (c r : Nat) : State := (Commands.waitEnded s c r).waitMark c r

theorem recordsOnly_resumed (s : State) (c r : Nat) : RecordsOnly s (resumed s c r) ∧ (resumed s c r).slices = s.slices := by
  obtain ⟨hrecords, hslices⟩ := recordsOnly_waitEnded s c r
  exact ⟨hrecords.trans (recordsOnly_modCtx ..), hslices⟩

/-- Commands in flight, but for what they lend. -/
theorem resumed_cmd (s : State) (c r pos : Nat) : ((resumed s c r).cmd c r pos).map (·.phase) = (s.cmd c r pos).map (·.phase) := by
  have hctx : (resumed s c r).ctx c r = { (Commands.waitEnded s c r).ctx c r with waitStart := (Commands.waitEnded s c r).refCount, waitUs := ((Commands.waitEnded s c r).chan c).lendUs } :=
    Commands.ctx_modCtx ..
  have hflight : ((resumed s c r).ctx c r).inflight = afterWait (s.ctx c r) := by rw [hctx, Commands.waitEnded_ctx]
  rw [State.cmd, Ctx.cmd, hflight, afterWait]
  split
  · rw [Commands.find_map_pos (g := fun m : Cmd => { m with lent := 0 }) _ (fun _ => rfl), Option.map_map]
    rfl
  · rfl

/-! ## BX of a slice goes on (R297) -/

/-- A slice whose BX, of the LAYER of record `r`, running or suspended, waits for `w` no longer. -/
def letGo (r : Nat) (w : BxWait) (x : SliceSt) : SliceSt :=
  if (match x.layer with | some l => decide (l.record.val = r) | none => false) && decide (x.bxWait = w) then { x.retire .bx with bxWait := .none }
  else match x.shadow with
    | some f =>
      if f.layer.record.val = r ∧ f.bxWait = w then { x with shadow := some { f with bxWait := .none, satisfied := true, engines := tmod f.engines (engIx .bx) .zero retired } } else x
    | none => x

theorem bxGo_eq (s : State) (sl : SliceId) (r : Nat) (w : BxWait) : s.bxGo sl r w = resumed (s.modSlice sl (letGo r w)) (slChan sl) r := rfl

theorem recordsOnly_bxGo (s : State) (sl : SliceId) (r : Nat) (w : BxWait) : RecordsOnly s (s.bxGo sl r w) := by
  rw [bxGo_eq]
  exact (recordsOnly_modSlice ..).trans (recordsOnly_resumed ..).1

theorem bxGo_slice (s : State) (sl k : SliceId) (r : Nat) (w : BxWait) : (s.bxGo sl r w).slice k = if k = sl then letGo r w (s.slice sl) else s.slice k := by
  rw [bxGo_eq, Commands.slice_congr (recordsOnly_resumed ..).2, slice_modSlice]

/-- The running LAYER's BX goes on. -/
theorem letGo_running {r : Nat} {w : BxWait} {x : SliceSt} {l : LayerRun} (hl : x.layer = some l) (hr : l.record.val = r) (hw : x.bxWait = w) :
    letGo r w x = { x.retire .bx with bxWait := .none } := by
  unfold letGo
  simp only [hl, hr, hw, decide_true, Bool.and_self, if_true]

/-- A running LAYER that does not wait for `w`, or is another's, stands. -/
theorem letGo_other {r : Nat} {w : BxWait} {x : SliceSt} {l : LayerRun} (hl : x.layer = some l) (h : l.record.val ≠ r ∨ x.bxWait ≠ w) :
    (letGo r w x).layer = some l ∧ (letGo r w x).bxWait = x.bxWait ∧ (letGo r w x).engines = x.engines := by
  unfold letGo
  rw [if_neg]
  · split
    · split
      · exact ⟨hl, rfl, rfl⟩
      · exact ⟨hl, rfl, rfl⟩
    · exact ⟨hl, rfl, rfl⟩
  · simp only [hl, Bool.and_eq_true, decide_eq_true_eq, not_and_or]
    exact h

/-- From `x` to `y` BX of the running LAYER `l` has been freed and its operation has retired. -/
def Freed (l : LayerRun) (x y : SliceSt) : Prop := y.layer = some l ∧ y.bxWait = .none ∧ y.engines = (x.retire .bx).engines

/-- It waits for `w` as in `x`, or has been freed since. -/
def WaitsOrFreed (l : LayerRun) (w : BxWait) (x y : SliceSt) : Prop := (y.layer = some l ∧ y.bxWait = w ∧ y.engines = x.engines) ∨ Freed l x y

section
variable {l : LayerRun} {w : BxWait} {x y : SliceSt} (hw : w ≠ .none)
include hw

theorem Freed.letGo (h : Freed l x y) (r : Nat) : Freed l x (letGo r w y) := by
  obtain ⟨hl, hnone, heng⟩ := h
  obtain ⟨hl', hwait, heng'⟩ := letGo_other (r := r) (w := w) hl (.inr fun e => hw (e.symm.trans hnone))
  exact ⟨hl', hwait.trans hnone, heng'.trans heng⟩

theorem WaitsOrFreed.letGo (h : WaitsOrFreed l w x y) (r : Nat) : WaitsOrFreed l w x (letGo r w y) := by
  rcases h with ⟨hl, hwait, heng⟩ | h
  · by_cases hr : l.record.val = r
    · refine .inr ?_
      rw [letGo_running hl hr hwait]
      exact ⟨hl, rfl, by rw [SliceSt.retire, SliceSt.modEng, heng]; rfl⟩
    · obtain ⟨hl', hwait', heng'⟩ := letGo_other (w := w) hl (.inl hr)
      exact .inl ⟨hl', hwait'.trans hwait, heng'.trans heng⟩
  · exact .inr (h.letGo hw r)

theorem WaitsOrFreed.freed (h : WaitsOrFreed l w x y) : Freed l x (Synchronisation.letGo l.record.val w y) := by
  rcases h with ⟨hl, hwait, heng⟩ | h
  · rw [letGo_running hl rfl hwait]
    exact ⟨hl, rfl, by rw [SliceSt.retire, SliceSt.modEng, heng]; rfl⟩
  · exact h.letGo hw _

end

/-! ## Releases that go to many slices -/

/-- What an element of a list brings about, and no other undoes, holds after all of the list. -/
theorem foldl_reaches {σ α : Type} {P Q : σ → Prop} {f : σ → α → σ} {l : List α} {a : α} (ha : a ∈ l) (hP : ∀ s b, P s → P (f s b)) (hQ : ∀ s b, Q s → Q (f s b))
    (hPQ : ∀ s, P s → Q (f s a)) {s : σ} (h : P s) : Q (l.foldl f s) := by
  induction l generalizing s with
  | nil => exact absurd ha List.not_mem_nil
  | cons b l ih =>
    rcases List.mem_cons.1 ha with rfl | ha
    · exact List.foldlRecOn l f (hPQ s h) fun t ht b _ => hQ t b ht
    · exact ih ha (hP s b h)

section
variable {l : LayerRun} {w : BxWait} {x : SliceSt} (hw : w ≠ .none) (sl : SliceId)
include hw

theorem bxGo_keeps_freed {s : State} (k : SliceId) (r : Nat) (h : Freed l x (s.slice sl)) : Freed l x ((s.bxGo k r w).slice sl) := by
  rw [bxGo_slice]
  split
  · next e => exact (e ▸ h).letGo hw r
  · exact h

theorem bxGo_keeps_waitsOrFreed {s : State} (k : SliceId) (r : Nat) (h : WaitsOrFreed l w x (s.slice sl)) : WaitsOrFreed l w x ((s.bxGo k r w).slice sl) := by
  rw [bxGo_slice]
  split
  · next e => exact (e ▸ h).letGo hw r
  · exact h

theorem bxGo_frees {s : State} (h : WaitsOrFreed l w x (s.slice sl)) : Freed l x ((s.bxGo sl l.record.val w).slice sl) := by
  rw [bxGo_slice, if_pos rfl]
  exact h.freed hw

end

/-- A slice whose BX has been freed, its operation retired. -/
theorem bxFreed_of_freed {s t : State} {sl : SliceId} (hactive : ((s.slice sl).eng .bx).active = true) (hwait : (t.slice sl).bxWait = .none)
    (heng : (t.slice sl).engines = ((s.slice sl).retire .bx).engines) : bxFreed s t sl := by
  have hk (k : Engine) : (t.slice sl).eng k = ((s.slice sl).modEng .bx retired).eng k := by rw [SliceSt.eng, heng]; rfl
  have hbx : (t.slice sl).eng .bx = retired ((s.slice sl).eng .bx) := by rw [hk, eng_modEng_same]
  refine ⟨hwait, by rw [hbx]; rfl, by rw [hbx]; rfl, ?_, fun k hne => ?_⟩
  · rw [hbx]
    exact if_pos hactive
  · rw [hk, eng_modEng_other _ _ _ _ hne]

end Sys2Proof.Synchronisation
end

section
/-! SUPPORT. Barriers (10 R293 to R296): arrivals, the end of an episode, and the slices it releases. -/

namespace Sys2Proof.Synchronisation
open Sys2Proof Sys2Proof.Machine

/-! ## Arrivals (R293, R294) -/

/-- The arrival word has left the queue. -/
def landed (s : State) (w : Arrival) : State := { s with arrQ := dropFirst w s.arrQ }

theorem exec_barrierArrival {s : State} {o : ObjRef} {w : Arrival} {a : Arriver} (hnext : nextArr o s.arrQ = some w) (hobj : w.obj = o) (hfirst : s.arrFirst w = true)
    (hwho : w.who = [a]) : exec (.barrierArrival o) s = .next ((landed s w).arrive o w.channel a) := by
  have hdo : s.doArrival w = (landed s w).arrive o w.channel a := by
    rw [State.doArrival, hwho, hobj]
    rfl
  show execBarrierArrival o s = _
  unfold execBarrierArrival
  simp only [hnext, hfirst, if_true, hdo]

/-- Channels that have forwarded arrivals of the episode, with `c`. -/
def forwardedBy (x : SyncObj) (c : Chan) : List Nat := if x.forwarded.contains c.val then x.forwarded else x.forwarded ++ [c.val]

/-- A barrier object's part of an arrival: the slice's sense is recorded, and the object counts it, or the episode ends. -/
theorem arrive_enabled {s : State} {o : ObjRef} (hb : (s.syncObj o).barrierEn = true) (c : Chan) (a : Arriver) : ∃ u, ChangesObject s u o (s.syncObj o)
    ∧ s.arrive o c a = if (s.syncObj o).parties ≤ (s.syncObj o).arrived + 1 then u.episodeEnd o a (forwardedBy (s.syncObj o) c)
      else (u.modObj o fun x => { x with arrived := x.arrived + 1, forwarded := forwardedBy (s.syncObj o) c }).combinerSlot o c := by
  unfold State.arrive
  simp only [hb, Bool.not_true, Bool.false_eq_true, if_false]
  exact ⟨_, changesObject_modChan rfl rfl o, rfl⟩

/-- A combiner's place among the waiters is all that changes. -/
theorem combinerSlot_changes (s : State) (o : ObjRef) (c : Chan) :
    ∃ ws age, ChangesObject s (s.combinerSlot o c) o { s.syncObj o with waiters := ws, nextAge := age } := by
  have hsame : ∃ ws age, ChangesObject s s o { s.syncObj o with waiters := ws, nextAge := age } := ⟨_, _, rfl, fun _ _ => rfl, rfl, rfl, rfl, rfl, rfl, rfl, fun _ _ => rfl⟩
  unfold State.combinerSlot
  extract_lets waits x
  split
  · split
    · next k _ => exact ⟨_, _, changesObject_modObj s o fun x => x.take k (.combiner c) false (x.count + 1)⟩
    · exact hsame
  · exact hsame

/-- A barrier at which an episode has ended, the combiners that waited there gone (R293). -/
def episodeOver (who : Party) (x : SyncObj) : SyncObj := { x with
  arrived := 0, sense := !x.sense, count := x.count + 1, last := lastOf who, forwarded := []
  waiters := x.waiters.filter (fun e => match e.2.who with | .combiner _ => false | _ => true) }

theorem episodeOver_nobody {x : SyncObj} (hw : x.waiters = []) (who : Party) :
    episodeOver who x = { x with arrived := 0, sense := !x.sense, count := x.count + 1, last := lastOf who, forwarded := [] } := by
  rw [episodeOver, hw, List.filter_nil]

/-- More releases are under way. -/
def releasing (s : State) (rs : List (Chan × Release)) : State := { s with relQ := s.relQ ++ rs }

theorem episodeEnd_eq (s : State) (o : ObjRef) (a : Arriver) (chs : List Nat) : s.episodeEnd o a chs =
    (releasing (s.modObj o (episodeOver a.party)) (chs.map fun c => (chanOf c, Release.barrier o (!(s.syncObj o).sense)))).scan o := by
  cases o <;> rfl

section
variable {s : State} {o : ObjRef} (c : Chan) (a : Arriver)

/-- An arrival before the last of its episode is counted. -/
theorem arrive_counts (hb : (s.syncObj o).barrierEn = true) (hn : (s.syncObj o).arrived + 1 < max 1 (s.syncObj o).participants) : ∃ ws age, ChangesObject s (s.arrive o c a) o
    { s.syncObj o with arrived := (s.syncObj o).arrived + 1, forwarded := forwardedBy (s.syncObj o) c, waiters := ws, nextAge := age } := by
  obtain ⟨u, hu, harrive⟩ := arrive_enabled hb c a
  rw [harrive, if_neg (show ¬ (s.syncObj o).parties ≤ _ from Nat.not_le.2 hn)]
  have hcount := hu.trans (changesObject_modObj u o fun x => { x with arrived := x.arrived + 1, forwarded := forwardedBy (s.syncObj o) c })
  rw [hu.obj] at hcount
  obtain ⟨ws, age, hslot⟩ := combinerSlot_changes (u.modObj o fun x => { x with arrived := x.arrived + 1, forwarded := forwardedBy (s.syncObj o) c }) o c
  have hall := hcount.trans hslot
  rw [hcount.obj] at hall
  exact ⟨ws, age, hall⟩

/-- The last arrival ends the episode: every channel that forwarded is released. -/
theorem arrive_ends (hb : (s.syncObj o).barrierEn = true) (hn : max 1 (s.syncObj o).participants ≤ (s.syncObj o).arrived + 1) (hw : (s.syncObj o).waiters = []) :
    (s.arrive o c a).arrQ = s.arrQ ∧ (s.arrive o c a).slices = s.slices ∧ (s.arrive o c a).syncObj o = episodeOver a.party (s.syncObj o)
      ∧ (s.arrive o c a).relQ = s.relQ ++ (forwardedBy (s.syncObj o) c).map fun k => (chanOf k, Release.barrier o (!(s.syncObj o).sense)) := by
  obtain ⟨u, hu, harrive⟩ := arrive_enabled hb c a
  have hv := hu.trans (changesObject_modObj u o (episodeOver a.party))
  rw [harrive, if_pos (show (s.syncObj o).parties ≤ _ from hn), episodeEnd_eq]
  rw [hu.obj] at hv ⊢
  generalize u.modObj o (episodeOver a.party) = v at hv ⊢
  have hnobody : (v.syncObj o).waiters = [] := by rw [hv.obj, episodeOver, hw, List.filter_nil]
  have hscan := scan_changes (s := releasing v ((forwardedBy (s.syncObj o) c).map fun k => (chanOf k, Release.barrier o (!(s.syncObj o).sense)))) (o := o) hnobody
  exact ⟨hscan.arrQ.trans hv.arrQ, hscan.slices.trans hv.slices, hscan.obj.trans hv.obj, hscan.relQ.trans (congrArg (· ++ _) hv.relQ)⟩

/-- An arrival at an object that is no barrier faults (R286). -/
theorem arrive_faults (hb : (s.syncObj o).barrierEn = false) : (s.arrive o c a).arrQ = s.arrQ ∧ noted s (s.arrive o c a) o 0x42
    ∧ (s.arrive o c a).relQ = s.relQ ++ [(chanOf (slChan a.sl), .result a.sl a.record a.pos 0x42)] := by
  have hu := objFault_changes s o causeMode false
  have hres := answer_resultOnly (s.objFault o causeMode false) a.party causeMode
  unfold State.arrive
  simp only [hb, Bool.not_false, if_true]
  refine ⟨hres.arrQ.trans hu.arrQ, ?_, ?_⟩
  · exact ((objectsStand_modChan (by rfl)).syncObj o).trans ((hres.objects.syncObj o).trans hu.obj)
  · exact congrArg (· ++ _) hu.relQ

end

/-! ## Combiners (R294, R295) -/

theorem mem_modCombiner {ch : Channel} {o : ObjRef} {f : Combiner → Combiner} {q : Combiner} (h : q ∈ (ch.modCombiner o f).combiners) (hq : q.obj = o) :
    ∃ k ∈ ch.combiners, q = f k := by
  obtain ⟨k, hk, rfl⟩ := List.mem_map.1 h
  by_cases ho : k.obj = o
  · exact ⟨k, hk, if_pos ho⟩
  · rw [if_neg ho] at hq
    exact absurd hq ho

/-- A combiner whose arrivals have been forwarded. -/
def emptied (k : Combiner) : Combiner := { k with gathered := [] }

theorem exec_combinerForward {s : State} {c : Chan} {k : Fin 8192} {b : Combiner} (hb : (s.chan c).combiners.find? (fun q => q.obj = .module k) = some b) (hg : b.gathered ≠ []) :
    exec (.combinerForward c k) s = .next ((s.modChan c (·.modCombiner (.module k) emptied)).sendArrival (.module k) c b.gathered) := by
  show execCombinerForward c k s = _
  unfold execCombinerForward
  simp only [hb, if_neg hg]
  rfl

/-- The slice waits at the barrier for the other sense. -/
def differs (sense : Bool) (w : SliceId × Rec × Option Bool) : Bool := match w.2.2 with | some x => x != sense | none => false

/-- A combiner whose slices of the other sense have been released. -/
def letThrough (sense : Bool) (k : Combiner) : Combiner := { k with waiting := k.waiting.filter fun w => !differs sense w }

theorem barGo_eq {s : State} {c : Chan} {o : ObjRef} {b : Combiner} (sense : Bool) (hb : (s.chan c).combiners.find? (fun q => q.obj = o) = some b) : s.barGo c o sense =
    (b.waiting.filter (differs sense)).foldl (fun s w => s.bxGo w.1 w.2.1.val (.bar o)) (s.modChan c fun ch => (ch.modCombiner o (letThrough sense)).trimCombiners) := by
  unfold State.barGo
  simp only [hb]
  rfl

theorem exec_barrierRelease {s : State} {c : Chan} {o : ObjRef} {sense : Bool} (h : nextRel c Release.isBarrier s.relQ = some (.barrier o sense)) (hr : (s.chan c).runs = true) :
    exec (.barrierRelease c) s = .next ({ s with relQ := dropFirst (c, .barrier o sense) s.relQ }.barGo c o sense) := by
  show execBarrierRelease c s = _
  unfold execBarrierRelease
  simp only [h, hr, Bool.not_true, Bool.false_eq_true, if_false]

/-- A release frees each slice of the other sense, and none waits on for it. -/
theorem barGo_spec {s : State} {c : Chan} {o : ObjRef} {b : Combiner} {sense : Bool} {sl : SliceId} {l : LayerRun}
    (hb : (s.chan c).combiners.find? (fun q => q.obj = o) = some b) (hwait : (sl, l.record, some (!sense)) ∈ b.waiting) (hl : (s.slice sl).layer = some l)
    (hbar : (s.slice sl).bxWait = .bar o) : let t := s.barGo c o sense
    t.relQ = s.relQ ∧ t.mem = s.mem ∧ Freed l (s.slice sl) (t.slice sl) ∧ ∀ q ∈ (t.chan c).combiners, q.obj = o → ∀ e ∈ q.waiting, e.2.2 ≠ some (!sense) := by
  have hsome : BxWait.bar o ≠ .none := BxWait.noConfusion
  have hdiffers : differs sense (sl, l.record, some (!sense)) = true := by cases sense <;> rfl
  intro t
  have ht : t = _ := barGo_eq sense hb
  generalize hu : s.modChan c (fun ch => (ch.modCombiner o (letThrough sense)).trimCombiners) = u at ht
  have hrecords : RecordsOnly u t := by
    rw [ht]
    exact List.foldlRecOn _ _ (.refl u) fun v hv w _ => hv.trans (recordsOnly_bxGo v w.1 w.2.1.val (.bar o))
  have hfreed : Freed l (s.slice sl) (t.slice sl) := by
    rw [ht]
    refine foldl_reaches (P := fun v : State => WaitsOrFreed l (.bar o) (s.slice sl) (v.slice sl)) (Q := fun v => Freed l (s.slice sl) (v.slice sl))
      (List.mem_filter.2 ⟨hwait, hdiffers⟩) (fun v w => bxGo_keeps_waitsOrFreed hsome sl w.1 w.2.1.val) (fun v w => bxGo_keeps_freed hsome sl w.1 w.2.1.val)
      (fun v => bxGo_frees hsome sl) ?_
    rw [← hu]
    exact .inl ⟨hl, hbar, rfl⟩
  refine ⟨by rw [hrecords.relQ, ← hu]; rfl, by rw [hrecords.mem, ← hu]; rfl, hfreed, fun q hq hqo e he hsense => ?_⟩
  rw [hrecords.combiners, ← hu, chan_modChan_same] at hq
  obtain ⟨k, -, rfl⟩ := mem_modCombiner (List.mem_of_mem_filter hq) hqo
  have hstays := (List.mem_filter.1 he).2
  rw [differs, hsense] at hstays
  cases sense <;> cases hstays

/-- Settles O29: an arrival is counted, ends its episode or faults; a combiner's arrivals leave as one word; a release frees the slices that arrived with the other sense. -/
theorem barriers : Obligations.Barriers := by
  unfold Obligations.Barriers
  intro s o w a c k b sense r sl l
  refine ⟨fun hnext hobj hfirst hwho => ⟨fun hb hn => ?_, fun hb hn hw => ?_, fun hb => ?_⟩, fun hb hg => ?_, fun hrel hruns hb hwait hl hrec hbar hactive => ?_⟩
  · obtain ⟨ws, age, h⟩ := arrive_counts (s := landed s w) w.channel a hb hn
    exact ⟨_, exec_barrierArrival hnext hobj hfirst hwho, h.arrQ, h.relQ, by rw [h.obj]; rfl, by rw [h.obj]; rfl, by rw [h.obj]; rfl, by rw [h.obj]; rfl, h.slices⟩
  · obtain ⟨harr, hslices, hover, hrel⟩ := arrive_ends (s := landed s w) w.channel a hb hn hw
    exact ⟨_, exec_barrierArrival hnext hobj hfirst hwho, harr, hover.trans (episodeOver_nobody hw _), hrel, hslices⟩
  · exact ⟨_, exec_barrierArrival hnext hobj hfirst hwho, arrive_faults (s := landed s w) w.channel a hb⟩
  · refine ⟨_, exec_combinerForward hb hg, ⟨_, rfl, rfl, rfl, rfl, rfl⟩, fun q hq hqo => ?_, rfl, rfl⟩
    have hch : ((s.modChan c (·.modCombiner (.module k) emptied)).chan c).combiners = ((s.chan c).modCombiner (.module k) emptied).combiners := by rw [chan_modChan_same]
    obtain ⟨k, -, rfl⟩ := mem_modCombiner (f := emptied) (hch ▸ hq) hqo
    rfl
  · subst hrec
    obtain ⟨hdropped, hmem, ⟨-, hfree, heng⟩, hnone⟩ := barGo_spec (s := { s with relQ := dropFirst (c, .barrier o sense) s.relQ }) hb hwait hl hbar
    exact ⟨_, exec_barrierRelease hrel hruns, hdropped, bxFreed_of_freed hactive hfree heng, hmem, hnone⟩

end Sys2Proof.Synchronisation
end

section
/-! SUPPORT. Releases, held waits, messages and long waits (10 R284, R285, R289, R298, R301 to R304; 13 R362). -/

namespace Sys2Proof.Synchronisation
open Sys2Proof Sys2Proof.Machine

/-! ## Releases (R284, R289) -/

/-- The release has left the queue. -/
def delivered (s : State) (c : Chan) (rel : Release) : State := { s with relQ := dropFirst (c, rel) s.relQ }

/-- Each LAYER of the slice, running or suspended, whose BX waits for `w` goes on. -/
def wakeWatchers (w : BxWait) (s : State) (sl : SliceId) : State := ((s.slice sl).watchers w).foldl (fun s k => s.bxGo sl k w) s

/-- A slice whose BX has the result of its operation. -/
def answeredBx (x : SliceSt) : SliceSt := if x.bxWait = .result then { x.retire .bx with bxWait := .none } else x

section
variable {s : State} {c : Chan}

theorem exec_waiterRelease_none (h : nextRel c (fun r => !r.isBarrier) s.relQ = none) : exec (.waiterRelease c) s = .next s := by
  show execWaiterRelease c s = _
  unfold execWaiterRelease
  rw [h]

theorem exec_waiterRelease_asleep {rel : Release} (h : nextRel c (fun r => !r.isBarrier) s.relQ = some rel) (hr : (s.chan c).runs = false) :
    exec (.waiterRelease c) s = .next (s.wake (.channel c)) := by
  show execWaiterRelease c s = _
  unfold execWaiterRelease
  simp only [h, hr, Bool.not_false, if_true]

variable (hr : (s.chan c).runs = true)
include hr

theorem exec_waiterRelease_command {d : Chan} {r : Rec} {pos : Nat} (h : nextRel c (fun r => !r.isBarrier) s.relQ = some (.waiter (.command d r pos))) :
    exec (.waiterRelease c) s = .next (Synchronisation.resumed ((delivered s c (.waiter (.command d r pos))).modCmd c.val r.val pos finishes) c r) := by
  show execWaiterRelease c s = _
  unfold execWaiterRelease
  simp only [h, hr, Bool.not_true, Bool.false_eq_true, if_false]
  rfl

theorem exec_waiterRelease_watch {d : Chan} {e : Nat} {w : WatchEntry} (h : nextRel c (fun r => !r.isBarrier) s.relQ = some (.waiter (.watch d e)))
    (hw : tfind (s.chan c).watches e = some w) : exec (.waiterRelease c) s =
      .next (w.slices.foldl (wakeWatchers (.watch w.obj w.value)) ((delivered s c (.waiter (.watch d e))).modChan c fun ch => { ch with watches := tdel ch.watches e })) := by
  have hw' : tfind ((delivered s c (.waiter (.watch d e))).chan c).watches e = some w := hw
  show execWaiterRelease c s = _
  unfold execWaiterRelease
  simp only [h, hr, Bool.not_true, Bool.false_eq_true, if_false]
  change (match tfind ((delivered s c (.waiter (.watch d e))).chan c).watches e with | none => _ | some w => _) = _
  rw [hw']
  rfl

theorem exec_waiterRelease_result {sl : SliceId} {r : Rec} {pos : Nat} (h : nextRel c (fun r => !r.isBarrier) s.relQ = some (.result sl r pos 0)) :
    exec (.waiterRelease c) s = .next ((delivered s c (.result sl r pos 0)).modSlice sl answeredBx) := by
  show execWaiterRelease c s = _
  unfold execWaiterRelease
  simp only [h, hr, Bool.not_true, Bool.false_eq_true, if_false, ne_eq, not_true_eq_false]
  rfl

theorem exec_waiterRelease_fault {sl : SliceId} {r : Rec} {pos : Nat} {cause : Byte} (h : nextRel c (fun r => !r.isBarrier) s.relQ = some (.result sl r pos cause)) (hc : cause ≠ 0) :
    exec (.waiterRelease c) s = .next ((delivered s c (.result sl r pos cause)).bxFault sl r pos cause) := by
  show execWaiterRelease c s = _
  unfold execWaiterRelease
  simp only [h, hr, Bool.not_true, Bool.false_eq_true, if_false, ne_eq, hc, not_false_eq_true, if_true]
  rfl

end

theorem recordsOnly_wakeWatchers (w : BxWait) (s : State) (sl : SliceId) : RecordsOnly s (wakeWatchers w s sl) :=
  List.foldlRecOn _ _ (.refl s) fun t ht k _ => ht.trans (recordsOnly_bxGo t sl k w)

/-- A watch released frees each slice that joined it. -/
theorem watchers_freed {s : State} {w : BxWait} {sl : SliceId} {l : LayerRun} {sls : List SliceId} (hw : w ≠ .none) (hsl : sl ∈ sls) (hl : (s.slice sl).layer = some l)
    (hwait : (s.slice sl).bxWait = w) : Freed l (s.slice sl) ((sls.foldl (wakeWatchers w) s).slice sl) := by
  have hkeep (u : State) (k : SliceId) (h : WaitsOrFreed l w (s.slice sl) (u.slice sl)) : WaitsOrFreed l w (s.slice sl) ((wakeWatchers w u k).slice sl) :=
    List.foldlRecOn (motive := fun v : State => WaitsOrFreed l w (s.slice sl) (v.slice sl)) _ _ h fun v hv r _ => bxGo_keeps_waitsOrFreed hw sl k r hv
  have hstay (u : State) (k : SliceId) (h : Freed l (s.slice sl) (u.slice sl)) : Freed l (s.slice sl) ((wakeWatchers w u k).slice sl) :=
    List.foldlRecOn (motive := fun v : State => Freed l (s.slice sl) (v.slice sl)) _ _ h fun v hv r _ => bxGo_keeps_freed hw sl k r hv
  refine foldl_reaches (P := fun u : State => WaitsOrFreed l w (s.slice sl) (u.slice sl)) (Q := fun u => Freed l (s.slice sl) (u.slice sl)) hsl hkeep hstay (fun u h => ?_)
    (.inl ⟨hl, hwait, rfl⟩)
  rcases h with ⟨hlu, hwu, heng⟩ | h
  · have hmem : l.record.val ∈ (u.slice sl).watchers w := by
      simp only [SliceSt.watchers, hlu, if_pos hwu]
      exact List.mem_append_left _ (List.mem_singleton_self _)
    exact foldl_reaches (P := fun v : State => WaitsOrFreed l w (s.slice sl) (v.slice sl)) (Q := fun v => Freed l (s.slice sl) (v.slice sl)) hmem
      (fun v k => bxGo_keeps_waitsOrFreed hw sl sl k) (fun v k => bxGo_keeps_freed hw sl sl k) (fun v => bxGo_frees hw sl) (.inl ⟨hlu, hwu, heng⟩)
  · exact hstay u sl h

/-- The fault of an operation returns to BX of the LAYER that sent it (R286). -/
theorem bxFault_spec {s : State} {sl : SliceId} {l : LayerRun} {m : Cmd} (cause : Byte) (hl : (s.slice sl).layer = some l) (hm : s.cmd (slChan sl) l.record.val l.pos = some m)
    (hs : sound m) : let t := s.bxFault sl l.record l.pos cause
    t.relQ = s.relQ ∧ t.mem = s.mem ∧ (t.slice sl).bxWait = .none ∧ ((t.slice sl).eng .bx).state = .faulted
      ∧ (t.cmd (slChan sl) l.record.val l.pos).bind (·.fault) = some ⟨cause, sl, .bx, 0⟩ := by
  let u := s.modSlice sl fun x => { x with bxWait := .none }
  have hu : u.slice sl = { s.slice sl with bxWait := .none } := slice_modSlice_same ..
  have hlu : (u.slice sl).layer = some l := by rw [hu]; exact hl
  have hfault : s.bxFault sl l.record l.pos cause = (u.modSlice sl (SliceCode.stoppedBy .bx)).cmdFault (slChan sl) l.record.val l.pos ⟨cause, sl, .bx, 0⟩ := by
    rw [State.bxFault, hl]
    simp only [and_self, decide_true, if_true]
    rw [SliceCode.sliceFault_eq .bx _ _ hlu, BitVec.ofNat_toNat, BitVec.setWidth_eq]
    rfl
  have hmu : (u.modSlice sl (SliceCode.stoppedBy .bx)).cmd (slChan sl) l.record.val l.pos = some m := hm
  have hask := SliceCode.asked_cmdFault (u.modSlice sl (SliceCode.stoppedBy .bx)) (slChan sl) l.record.val l.pos ⟨cause, sl, .bx, 0⟩ sl
  rw [slice_modSlice_same] at hask
  have hstopped := hask.eq_of_asked rfl
  intro t
  rw [show t = _ from hfault]
  refine ⟨?_, SliceCode.cmdFault_mem .., ?_, ?_, ?_⟩
  · rw [SliceCode.cmdFault_eq _ hmu hs, Commands.requestStop_only]
    rfl
  · rw [hstopped, hu]
    rfl
  · rw [hstopped, SliceCode.stoppedBy_eng]
  · rw [SliceCode.cmdFault_cmd _ hmu hs]
    rfl

/-! ## Waits held (R285) -/

/-- The channel holds no wait. -/
def unheld (s : State) (c : Nat) : State := s.modChan c fun ch => { ch with held := [] }

theorem exec_waitRetry {s : State} {c : Chan} {g : SyncMsg} (h : (s.chan c).held = [.wait g]) : exec (.waitRetry c) s = .next ((unheld s c).perform g) := by
  show execWaitRetry c s = _
  unfold execWaitRetry
  rw [h]
  rfl

theorem unheld_syncObj (s : State) (c : Nat) (o : ObjRef) : (unheld s c).syncObj o = s.syncObj o := (objectsStand_modChan (by rfl)).syncObj o

theorem unheld_held (s : State) (c : Nat) : ((unheld s c).chan c).held = [] := by rw [unheld, chan_modChan_same]

/-- A held wait offered again: released, or held again where it finds no slot. -/
theorem ran_waitRetry {s : State} {c : Chan} {g : SyncMsg} {r : Rec} {gen : Byte} {pos : Nat} {tag v : W32} {consume : Bool} (hheld : (s.chan c).held = [.wait g])
    (hact : g.act = .wait v consume) (hwho : g.who = .command c r gen pos tag) (hb : consume = true → (s.syncObj g.obj).barrierEn = false) :
    ran (exec (.waitRetry c) s) fun t => t.mem = s.mem ∧ t.slices = s.slices
      ∧ (v.toNat ≤ (s.syncObj g.obj).count.toNat → (t.chan c).held = [] ∧ t.relQ = s.relQ ++ [(c, .waiter (.command c r pos))]
        ∧ (t.syncObj g.obj).count = (s.syncObj g.obj).count - (if consume then v else 0))
      ∧ ((s.syncObj g.obj).count.toNat < v.toNat → (upFrom 0 16).all (fun k => (tfind (s.syncObj g.obj).waiters k).isSome) = true →
        (t.chan c).held = [.wait g] ∧ t.syncObj g.obj = s.syncObj g.obj ∧ t.relQ = s.relQ) := by
  have hobj := unheld_syncObj s c g.obj
  refine ⟨_, exec_waitRetry hheld, ?_⟩
  rw [perform_wait hact hwho (by rw [hobj]; exact hb)]
  rcases Nat.lt_or_ge (s.syncObj g.obj).count.toNat v.toNat with hv | hv
  · have hvu : ((unheld s c).syncObj g.obj).count.toNat < v.toNat := by rw [hobj]; exact hv
    cases hslot : ((unheld s c).syncObj g.obj).freeSlot with
    | some j =>
      have hchange := waitObj_slot (consume := consume) hvu hslot (.command c r pos)
      refine ⟨hchange.mem, hchange.slices, fun h => absurd hv (Nat.not_lt.2 h), fun _ hfull => ?_⟩
      obtain ⟨hmem, hfree⟩ := And.intro (List.mem_of_find?_eq_some hslot) (List.find?_some hslot)
      rw [hobj, Option.isNone_iff_eq_none] at hfree
      exact absurd (List.all_eq_true.1 hfull j hmem) (by rw [hfree]; exact Bool.false_ne_true)
    | none =>
      obtain ⟨hchange, hheld'⟩ := waitObj_held (consume := consume) hvu hslot (.command c r pos)
      rw [hwho] at hheld'
      refine ⟨hchange.mem, hchange.slices, fun h => absurd hv (Nat.not_lt.2 h), fun _ _ => ⟨?_, hchange.obj.trans hobj, hchange.relQ⟩⟩
      exact hheld'.trans (congrArg (· ++ _) (unheld_held s c))
  · obtain ⟨hwaits, hrel, hcount, hheld'⟩ := waitObj_released (s := unheld s c) (g := g) (c := c) (r := r) (pos := pos) (v := v) (consume := consume) (by rw [hobj]; exact hv)
    rw [hobj] at hcount
    exact ⟨hwaits.mem, hwaits.slices, fun _ => ⟨(hheld' c).trans (unheld_held s c), hrel, hcount⟩, fun h => absurd hv (Nat.not_le.2 h)⟩

/-! ## Messages (R301 to R304) -/

/-- The message has left the queue. -/
def carried (s : State) (g : Msg) : State := { s with msgQ := dropFirst g s.msgQ }

theorem exec_messageArrival_none {s : State} {sl : SliceId} (h : s.msgQ.find? (fun m => m.dst = sl) = none) : exec (.messageArrival sl) s = .next s := by
  show execMessageArrival sl s = _
  unfold execMessageArrival
  rw [h]

theorem exec_messageArrival_asleep {s : State} {sl : SliceId} {g : Msg} (h : s.msgQ.find? (fun m => m.dst = sl) = some g) (hon : s.bankOn sl = false) :
    exec (.messageArrival sl) s = .next (s.wakeBank sl) := by
  show execMessageArrival sl s = _
  unfold execMessageArrival
  simp only [h, hon, Bool.not_false, if_true]

theorem exec_messageArrival {s : State} {sl : SliceId} {g : Msg} (h : s.msgQ.find? (fun m => m.dst = sl) = some g) (hon : s.bankOn sl = true) :
    exec (.messageArrival sl) s = .next (if (s.slice sl).owner ≠ some (g.mail.record, g.mail.gen) then (carried s g).dropMail sl g.mail causeStale
      else if (tfind (s.slice sl).mail g.entry.val).isSome then (carried s g).dropMail sl g.mail causeFull
      else (carried s g).modSlice sl fun x => { x with mail := tput x.mail g.entry.val g.mail }) := by
  show execMessageArrival sl s = _
  unfold execMessageArrival
  simp only [h, hon, Bool.not_true, Bool.false_eq_true, if_false]
  rw [apply_ite Host.Outcome.next, apply_ite Host.Outcome.next]
  rfl

/-- The acknowledgement of a message dropped for `cause` leaves. -/
def ackOf (s : State) (m : Mail) (sl : SliceId) (cause : Nat) : SyncMsg :=
  let who : Party := .slice sl m.record m.gen 0 m.tag
  ⟨m.ack, .ack (BitVec.ofNat 8 cause), who, s.refCount, syncRank who (.ack (BitVec.ofNat 8 cause))⟩

/-- A step that counts in a channel and notes saturation leaves the queues and slices. -/
theorem counted_stands (s : State) (c : Nat) (f : Channel → Channel) (old limit : Nat) : let t := (s.modChan c f).noteSat old limit c
    t.syncQ = s.syncQ ∧ t.msgQ = s.msgQ ∧ t.slices = s.slices ∧ t.refCount = s.refCount ∧ t.chan c = f (s.chan c) := by
  refine ⟨?_, ?_, ?_, ?_, ?_⟩
  case refine_5 => rw [BankMemory.noteSat_chan, chan_modChan_same]
  all_goals rw [noteSat_onlyAlerts]; rfl

section
variable (s : State) (sl : SliceId) (m : Mail)

theorem dropMail_stale : let t := s.dropMail sl m causeStale
    t.syncQ = s.syncQ ++ [ackOf s m sl causeStale] ∧ t.msgQ = s.msgQ ∧ t.slices = s.slices ∧ (t.chan (slChan sl)).msgStale = satInc (s.chan (slChan sl)).msgStale 0xFFFF := by
  obtain ⟨hsync, hmsg, hslices, href, hchan⟩ := counted_stands s (slChan sl) (fun ch => { ch with msgStale := satInc ch.msgStale 0xFFFF }) (s.chan (slChan sl)).msgStale 0xFFFF
  refine ⟨?_, hmsg, hslices, congrArg Channel.msgStale hchan⟩
  rw [ackOf, ← href, ← hsync]
  rfl

theorem dropMail_full : let t := s.dropMail sl m causeFull
    t.syncQ = s.syncQ ++ [ackOf s m sl causeFull] ∧ t.msgQ = s.msgQ ∧ t.slices = s.slices ∧ (t.chan (slChan sl)).msgFull = satInc (s.chan (slChan sl)).msgFull 0xFFFF := by
  obtain ⟨hsync, hmsg, hslices, href, hchan⟩ := counted_stands s (slChan sl) (fun ch => { ch with msgFull := satInc ch.msgFull 0xFFFF }) (s.chan (slChan sl)).msgFull 0xFFFF
  refine ⟨?_, hmsg, hslices, congrArg Channel.msgFull hchan⟩
  rw [ackOf, ← href, ← hsync]
  rfl

end

/-! ## Long waits (R298, 13 R362) -/

/-- What the context's commands in flight are charged. -/
def chargedInFlight (x : Ctx) : Nat := (x.inflight.map (·.charge)).foldl (· + ·) 0

/-- The context waits long. -/
def waitingLong (s : State) (c : Chan) (r : Rec) : State := s.modCtx c r fun x => { x with longWait := true }

/-- It lends its charges too. -/
def lent (s : State) (c : Chan) (r : Rec) : State :=
  ((waitingLong s c r).lend c (chargedInFlight (s.ctx c r))).modCtx c r fun x => { x with inflight := x.inflight.map fun m => { m with lent := m.charge } }

theorem exec_longWait_not {s : State} {c : Chan} {r : Rec} (h : (s.ctx c r).longWait = true ∨ s.refCount < (s.ctx c r).waitStart + usRef (s.ctx c r).waitUs) :
    exec (.longWait c r) s = .next s := by
  show execLongWait c r s = _
  unfold execLongWait
  refine if_pos ?_
  rcases h with h | h
  · simp [h]
  · simp [h]

theorem exec_longWait {s : State} {c : Chan} {r : Rec} (hlong : (s.ctx c r).longWait = false) (hus : (s.ctx c r).waitUs ≠ 0) (hne : (s.ctx c r).inflight ≠ [])
    (hall : (s.ctx c r).inflight.all (s.cmdLongWaits r) = true) (hdue : (s.ctx c r).waitStart + usRef (s.ctx c r).waitUs ≤ s.refCount) :
    exec (.longWait c r) s = .next (if (s.ledger.lendEn && !s.port.strict) = true then lent s c r else waitingLong s c r) := by
  show execLongWait c r s = _
  unfold execLongWait
  extract_lets x u
  rw [if_neg (by simp [x, hlong, hus, hne, hall, Nat.not_lt.2 hdue]), apply_ite Host.Outcome.next]
  rfl

theorem lent_ledger (s : State) (c : Chan) (r : Rec) : (lent s c r).ledger.pool = s.ledger.pool + chargedInFlight (s.ctx c r)
    ∧ tget (lent s c r).ledger.lent c 0 = tget s.ledger.lent c 0 + chargedInFlight (s.ctx c r) ∧ (lent s c r).charged c = s.charged c - chargedInFlight (s.ctx c r) :=
  ⟨rfl, tget_tput_same .., tget_tput_same ..⟩

theorem lent_ctx (s : State) (c : Chan) (r : Rec) : (lent s c r).ctx c r =
    { s.ctx c r with longWait := true, inflight := (s.ctx c r).inflight.map fun m => { m with lent := m.charge } } := by
  rw [lent, Commands.ctx_modCtx, State.lend, State.modLedger_read_ctx, waitingLong, Commands.ctx_modCtx]

theorem lent_others (s : State) (c : Chan) (r : Rec) : otherRecords s (lent s c r) c r := fun q hq => by
  rw [lent, Commands.ctx_modCtx_other _ _ hq, State.lend, State.modLedger_read_ctx, waitingLong, Commands.ctx_modCtx_other _ _ hq]

/-- Settles O28: a release reaches the command, the slices of a watch entry or the BX it names; a held wait is offered to its object again; a message fills its entry or is
dropped; a context that has waited long lends what it is charged. -/
theorem releasesMailAndRetries : Obligations.ReleasesMailAndRetries := by
  unfold Obligations.ReleasesMailAndRetries
  refine ⟨fun s c r pos e rel w sl l m g v tag consume gen => ⟨fun hrel hruns => ⟨?_, ?_, ?_, ?_⟩, exec_waiterRelease_none, exec_waiterRelease_asleep, ran_waitRetry⟩,
    fun s sl g c r => ⟨fun hmsg hon => ⟨?_, ?_, ?_⟩, exec_messageArrival_none, exec_messageArrival_asleep, ?_, exec_longWait_not⟩⟩
  · rintro rfl hm
    have hd : (delivered s c (.waiter (.command c r pos))).cmd c r pos = some m := hm
    obtain ⟨hrecords, hslices⟩ := recordsOnly_resumed ((delivered s c (.waiter (.command c r pos))).modCmd c r pos finishes) c r
    refine ⟨_, exec_waiterRelease_command hruns hrel, ⟨hrecords.relQ, hrecords.mem⟩, hslices, ?_⟩
    rw [resumed_cmd, Commands.cmd_modCmd_same (f := finishes) (fun _ => rfl) hd]
    rfl
  · rintro rfl hw hsl hl hwait hactive
    let u := (delivered s c (.waiter (.watch c e))).modChan c fun ch => { ch with watches := tdel ch.watches e }
    have hrecords : RecordsOnly u (w.slices.foldl (wakeWatchers (.watch w.obj w.value)) u) :=
      List.foldlRecOn _ _ (.refl u) fun t ht k _ => ht.trans (recordsOnly_wakeWatchers _ t k)
    obtain ⟨-, hfree, heng⟩ := watchers_freed (s := u) (w := .watch w.obj w.value) BxWait.noConfusion hsl hl hwait
    refine ⟨_, exec_waiterRelease_watch hruns hrel hw, ⟨hrecords.relQ, hrecords.mem⟩, bxFreed_of_freed hactive hfree heng, ?_⟩
    rw [hrecords.watches]
    exact congrArg Channel.watches (chan_modChan_same ..)
  · rintro rfl hwait hactive
    have hslice : ((delivered s c (.result sl r pos 0)).modSlice sl answeredBx).slice sl = { (s.slice sl).retire .bx with bxWait := .none } := by
      rw [slice_modSlice_same]
      exact if_pos hwait
    refine ⟨_, exec_waiterRelease_result hruns hrel, ⟨rfl, rfl⟩, bxFreed_of_freed hactive ?_ ?_, fun k hk => slice_modSlice_other _ sl k _ hk⟩
    · rw [hslice]
    · rw [hslice]
  · rintro rfl hl rfl rfl hm hs
    obtain ⟨hrelq, hmem, hrest⟩ := bxFault_spec (s := delivered s c (.result sl l.record l.pos 0x41)) 0x41 hl hm hs
    exact ⟨_, exec_waiterRelease_fault hruns hrel (by decide), ⟨hrelq, hmem⟩, hrest⟩
  · intro howner hempty
    refine ⟨_, exec_messageArrival hmsg hon, ?_⟩
    rw [if_neg (not_not.2 howner), if_neg (by rw [hempty]; decide)]
    exact ⟨rfl, slice_modSlice_same .., rfl⟩
  · intro howner
    obtain ⟨hsync, hq, hslices, hcount⟩ := dropMail_stale (carried s g) sl g.mail
    refine ⟨_, exec_messageArrival hmsg hon, ?_⟩
    rw [if_pos howner]
    exact ⟨hq, ⟨_, hsync, rfl, rfl, hslices⟩, hcount⟩
  · intro howner hfull
    obtain ⟨hsync, hq, hslices, hcount⟩ := dropMail_full (carried s g) sl g.mail
    refine ⟨_, exec_messageArrival hmsg hon, ?_⟩
    rw [if_neg (not_not.2 howner), if_pos hfull]
    exact ⟨hq, ⟨_, hsync, rfl, rfl, hslices⟩, hcount⟩
  · intro hlong hus hne hall hdue
    refine ⟨_, exec_longWait hlong hus hne hall hdue, ?_⟩
    by_cases hlend : (s.ledger.lendEn && !s.port.strict) = true
    · rw [if_pos hlend]
      obtain ⟨hpool, hlent, hcharged⟩ := lent_ledger s c r
      refine ⟨by rw [lent_ctx], lent_others s c r, rfl, fun _ _ => ⟨hpool, hlent, hcharged, fun m hm => ?_⟩, fun hno => ?_⟩
      · rw [lent_ctx] at hm
        obtain ⟨k, -, rfl⟩ := List.mem_map.1 hm
        rfl
      · rcases hno with h | h <;> rw [h] at hlend <;> simp at hlend
    · rw [if_neg hlend]
      refine ⟨by rw [waitingLong, Commands.ctx_modCtx], fun q hq => Commands.ctx_modCtx_other s _ hq, rfl, fun hen hstrict => ?_, fun _ => rfl⟩
      exact absurd (by rw [hen, hstrict]; rfl) hlend

end Sys2Proof.Synchronisation
end

section
/-! SUPPORT. BX in synchronisation (10 R279, R288 to R290, R294) and messages (10 R301, R302, R305). -/

namespace Sys2Proof.Synchronisation
open Sys2Proof Sys2Proof.Machine

/-! ## Operations of BX that issue -/

/-- The state in which the operation at the head of BX's queue works. -/
def begun (s : State) (sl : SliceId) : State := s.putSlice sl (issued s sl .bx)

theorem begun_slice (s : State) (sl : SliceId) : (begun s sl).slice sl = issued s sl .bx := SliceCode.slice_putSlice_same ..

theorem begun_slice_other (s : State) {sl k : SliceId} (h : k ≠ sl) : (begun s sl).slice k = s.slice k := by rw [begun, slice_putSlice, if_neg h]

/-- BX of the slice waits for `w` from now on. -/
def holding (t : State) (sl : SliceId) (w : BxWait) (y : SliceSt) : SliceSt := { t.waitsFrom sl y with bxWait := w }

theorem holding_spec (t : State) (sl : SliceId) (w : BxWait) (y : SliceSt) : (holding t sl w y).bxWait = w ∧ (holding t sl w y).engines = y.engines ∧ (holding t sl w y).scratch = y.scratch :=
  ⟨rfl, rfl, rfl⟩

/-- The operation of the LAYER of record `r` is held. -/
def held (t : State) (sl : SliceId) (r : Nat) (w : BxWait) : State := (t.modSlice sl (holding t sl w)).waitMark (slChan sl) r

theorem held_slice (t : State) (sl k : SliceId) (r : Nat) (w : BxWait) : (held t sl r w).slice k = if k = sl then holding t sl w (t.slice sl) else t.slice k := slice_modSlice ..

theorem recordsOnly_held (t : State) (sl : SliceId) (r : Nat) (w : BxWait) : RecordsOnly t (held t sl r w) := (recordsOnly_modSlice ..).trans (recordsOnly_modCtx ..)

theorem bxWait_of_issues {s : State} {sl : SliceId} (h : issues s sl .bx) : (s.slice sl).bxWait = .none := by
  obtain ⟨-, -, -, -, -, -, hwait, -⟩ := h
  exact hwait rfl

/-- A slice with the engines of one whose BX issues: the operation is still at the head of the queue. -/
theorem bxHolds_of_engines {s t : State} {sl : SliceId} {w : BxWait} (hwait : (t.slice sl).bxWait = w) (heng : (t.slice sl).engines = (issued s sl .bx).engines)
    (hscratch : (t.slice sl).scratch = (s.slice sl).scratch) (hmem : t.mem = s.mem) (hother : ∀ k, k ≠ sl → t.slice k = s.slice k) : bxHolds s t sl w := by
  have hk (k : Engine) : (t.slice sl).eng k = (issued s sl .bx).eng k := by rw [SliceSt.eng, SliceSt.eng, heng]
  refine ⟨hwait, ?_, ?_, fun k hne => ?_, hscratch, hmem, hother⟩
  · rw [hk, SliceCode.issued_eng_same]
  · rw [hk, SliceCode.issued_eng_same]
  · rw [hk, SliceCode.issued_eng_other s sl hne]

/-- What an operation that came to `g` of its slice leaves of it when it retires. -/
theorem retire_spec {s t : State} {sl : SliceId} {g : SliceSt → SliceSt} (h : issues s sl .bx)
    (hslice : t.slice sl = SliceCode.withEngines (g (s.slice sl)) (SliceCode.issuedEngines s sl .bx)) : let u := t.modSlice sl (·.retire .bx)
    advanced s u sl .bx ∧ u.slice sl = { g (s.slice sl) with engines := (u.slice sl).engines, perf := (u.slice sl).perf, perfSat := (u.slice sl).perfSat, stepping := false } := by
  intro u
  have hu : SliceCode.SameButPerf ((SliceCode.withEngines (g (s.slice sl)) (SliceCode.issuedEngines s sl .bx)).retire .bx) (u.slice sl) := by
    rw [slice_modSlice_same, hslice]
  exact ⟨SliceCode.advanced_of_retire (y := SliceCode.withEngines (g (s.slice sl)) (SliceCode.issuedEngines s sl .bx)) h rfl hu, SliceCode.frame_of_retire rfl hu⟩

theorem RecordsOnly.held {s t : State} (h : RecordsOnly s t) (k : Nat) : (t.chan k).held = (s.chan k).held := by rw [h.chan k]

section
variable {s t : State} {sl : SliceId} {l : LayerRun} {f : State → SliceSt → LayerRun → BxOut} {w : BxWait} {i : Instr} {P : State → Prop}
variable (h : issues s sl .bx) (hclear : bxClear s sl) (hl : (s.slice sl).layer = some l)
include h hclear hl

theorem runBx_done (hf : f (begun s sl) (issued s sl .bx) l = .done t) : s.runBx sl f = t.modSlice sl (·.retire .bx) := by
  rw [State.runBx, hclear, issueAt_go s sl .bx l h hl]
  simp only [Bool.false_eq_true, if_false]
  rw [← begun, hf]

theorem runBx_again (hf : f (begun s sl) (issued s sl .bx) l = .again t) : s.runBx sl f = t := by
  rw [State.runBx, hclear, issueAt_go s sl .bx l h hl]
  simp only [Bool.false_eq_true, if_false]
  rw [← begun, hf]

theorem runBx_hold (hf : f (begun s sl) (issued s sl .bx) l = .hold t w) : s.runBx sl f = held t sl l.record w := by
  rw [State.runBx, hclear, issueAt_go s sl .bx l h hl]
  simp only [Bool.false_eq_true, if_false]
  rw [← begun, hf]
  rfl

/-- An operation held waits at the head of the queue for `w`. -/
theorem ran_hold (hi : exec i s = .next (s.runBx sl f)) (hf : f (begun s sl) (issued s sl .bx) l = .hold t w) (ht : t.slices = (begun s sl).slices ∧ t.mem = s.mem)
    (hP : P (held t sl l.record w)) : ran (exec i s) fun u => bxHolds s u sl w ∧ P u := by
  obtain ⟨hslices, hmem⟩ := ht
  have hslice : (held t sl l.record w).slice sl = holding t sl w (issued s sl .bx) := by rw [held_slice, if_pos rfl, Commands.slice_congr hslices, begun_slice]
  obtain ⟨hwait, heng, hscratch⟩ := holding_spec t sl w (issued s sl .bx)
  rw [← hslice] at hwait heng hscratch
  refine ⟨_, hi.trans (congrArg Host.Outcome.next (runBx_hold h hclear hl hf)), bxHolds_of_engines hwait heng hscratch ((recordsOnly_held ..).mem.trans hmem) fun k hk => ?_, hP⟩
  rw [held_slice, if_neg hk, Commands.slice_congr hslices, begun_slice_other s hk]

/-- An operation left at the head of the queue. -/
theorem ran_again (hi : exec i s = .next (s.runBx sl f)) (hf : f (begun s sl) (issued s sl .bx) l = .again (begun s sl)) (hP : P (begun s sl)) :
    ran (exec i s) fun u => bxHolds s u sl .none ∧ P u := by
  refine ⟨_, hi.trans (congrArg Host.Outcome.next (runBx_again h hclear hl hf)), bxHolds_of_engines ?_ ?_ ?_ rfl fun k hk => begun_slice_other s hk, hP⟩
  · rw [begun_slice]
    exact bxWait_of_issues h
  · rw [begun_slice]
  · rw [begun_slice]
    rfl

end

/-! ## Signals, subtractions and watches (R288, R289) -/

section
variable {s : State} {sl : SliceId} {l : LayerRun} {v : Fin 256} {n : RegImm32} {o : ObjRef} {k : W32} {e : Nat × WatchEntry}

theorem exec_bxSsig (hn : n ≠ .imm 0) : exec (.bxSsig sl v n) s = .next (s.runBx sl (changeOp sl v n true)) := if_neg hn
theorem exec_bxSsub (hn : n ≠ .imm 0) : exec (.bxSsub sl v n) s = .next (s.runBx sl (changeOp sl v n false)) := if_neg hn

variable (hobj : (s.ctx (slChan sl) l.record.val).vobj (chanOf (slChan sl)) v.val = some o)
include hobj

theorem begun_layerObj : (begun s sl).layerObj sl l v.val = .ok o := by
  unfold State.layerObj
  change (match (s.ctx (slChan sl) l.record.val).vobj (chanOf (slChan sl)) v.val with | some o => _ | none => _) = _
  rw [hobj]

/-- Once the slice's own operations are performed, where it signals, the operation leaves and BX waits for its result. -/
theorem changeOp_holds {sig : Bool} (hk : amount32 (issued s sl .bx) n = k) (hne : k ≠ 0) (hsig : (sig && !s.sliceClear sl) = false) :
    changeOp sl v n sig (begun s sl) (issued s sl .bx) l = .hold ((begun s sl).send o (if sig then .signal k else .subtract k) (l.party sl)) .result := by
  have hsig' : (sig && !(begun s sl).sliceClear sl) = false := hsig
  simp only [changeOp, begun_layerObj hobj, hk, hne, hsig', Bool.false_eq_true, if_false]

theorem changeOp_waits (hk : amount32 (issued s sl .bx) n = k) (hne : k ≠ 0) (hnot : s.sliceClear sl = false) :
    changeOp sl v n true (begun s sl) (issued s sl .bx) l = .again (begun s sl) := by
  have hnot' : (begun s sl).sliceClear sl = false := hnot
  simp only [changeOp, begun_layerObj hobj, hk, hne, hnot', Bool.not_false, Bool.and_self, if_true, if_false]

theorem watchOp_holds (hk : amount32 (issued s sl .bx) n = k) :
    watchOp sl v n (begun s sl) (issued s sl .bx) l = .hold ((begun s sl).joinWatch sl l.record o k) (.watch o k) := by
  simp only [watchOp, begun_layerObj hobj, hk]

theorem barOp_holds (hclear : s.sliceClear sl = true) :
    barOp sl v (begun s sl) (issued s sl .bx) l = .hold ((begun s sl).joinBar ⟨sl, l.record, l.gen, l.pos, l.tag⟩ o) (.bar o) := by
  have hclear' : (begun s sl).sliceClear sl = true := hclear
  simp only [barOp, begun_layerObj hobj, hclear', if_true]

theorem barOp_waits (hnot : s.sliceClear sl = false) : barOp sl v (begun s sl) (issued s sl .bx) l = .again (begun s sl) := by
  have hnot' : (begun s sl).sliceClear sl = false := hnot
  simp only [barOp, begun_layerObj hobj, hnot', Bool.false_eq_true, if_false]

end

section
variable {s : State} {sl : SliceId} {r : Rec} {o : ObjRef} {v : W32}

theorem send_chan (s : State) (o : ObjRef) (act : SyncAct) (who : Party) (k : Nat) : (s.send o act who).chan k = s.chan k := rfl

/-- The watch entry of an object and a value. -/
def watchOf (s : State) (c : Nat) (o : ObjRef) (v : W32) : Option (Nat × WatchEntry) := (s.chan c).watches.find? (fun e => decide (e.2.obj = o ∧ e.2.value = v))

/-- The lowest free watch entry. -/
def freeWatch (s : State) (c : Nat) : Option Nat := (upFrom 0 32).find? (fun k => (tfind (s.chan c).watches k).isNone)

theorem joinWatch_joins {e : Nat × WatchEntry} (h : watchOf s (slChan sl) o v = some e) : s.joinWatch sl r o v =
    s.modChan (slChan sl) fun ch => { ch with watches := tput ch.watches e.1 { e.2 with slices := e.2.slices ++ [sl] } } := by
  unfold watchOf at h
  simp only [State.joinWatch, h]

theorem joinWatch_takes {k : Nat} (h : watchOf s (slChan sl) o v = none) (hk : freeWatch s (slChan sl) = some k) : s.joinWatch sl r o v =
    (s.modChan (slChan sl) fun ch => { ch with watches := tput ch.watches k ⟨o, v, [sl]⟩ }).send o (.watch k v) (.slice sl r 0 0 0) := by
  unfold watchOf at h
  unfold freeWatch at hk
  simp only [State.joinWatch, h, hk]

theorem joinWatch_held (h : watchOf s (slChan sl) o v = none) (hk : freeWatch s (slChan sl) = none) : s.joinWatch sl r o v = s.hold (slChan sl) (.watch sl r o v) := by
  unfold watchOf at h
  unfold freeWatch at hk
  simp only [State.joinWatch, h, hk]

theorem joinWatch_stands (s : State) (sl : SliceId) (r : Rec) (o : ObjRef) (v : W32) : (s.joinWatch sl r o v).slices = s.slices ∧ (s.joinWatch sl r o v).mem = s.mem := by
  cases h : watchOf s (slChan sl) o v with
  | some e =>
    rw [joinWatch_joins h]
    exact ⟨rfl, rfl⟩
  | none =>
    cases hk : freeWatch s (slChan sl) with
    | some k =>
      rw [joinWatch_takes h hk]
      exact ⟨rfl, rfl⟩
    | none =>
      rw [joinWatch_held h hk]
      exact ⟨rfl, rfl⟩

end

/-! ## Arrivals at a barrier (R294) -/

/-- An arrival toward a channel-scope object leaves at once. -/
def atOnce : ObjRef → Bool
  | .chan .. => true
  | .module _ => false

/-- A combiner of the object stands. -/
def withCombiner (s : State) (c : Nat) (o : ObjRef) : State :=
  if (s.chan c).combiners.any (fun k => k.obj = o) then s else s.modChan c fun ch => { ch with combiners := ch.combiners ++ [⟨o, [], []⟩] }

/-- A combiner after an arrival. -/
def arriving (a : Arriver) (now : Bool) (k : Combiner) : Combiner :=
  { k with gathered := if now then k.gathered else k.gathered ++ [a], waiting := k.waiting ++ [(a.sl, a.record, none)] }

/-- The channel's combiner has taken an arrival. -/
def taken (s : State) (a : Arriver) (o : ObjRef) : State := (withCombiner s (slChan a.sl) o).modChan (slChan a.sl) (·.modCombiner o (arriving a (atOnce o)))

section
variable {s : State} {a : Arriver} {o : ObjRef}

theorem joinBar_taken (h : (s.chan (slChan a.sl)).combiners.any (fun k => k.obj = o) = true ∨ (s.chan (slChan a.sl)).combiners.length < 16) :
    s.joinBar a o = if atOnce o then (taken s a o).sendArrival o (chanOf (slChan a.sl)) [a] else taken s a o := by
  refine (if_pos ?_).trans ?_
  · rcases h with h | h
    · rw [h, Bool.true_or]
    · rw [decide_eq_true h, Bool.or_true]
  · cases o <;> rfl

theorem joinBar_held (h : (s.chan (slChan a.sl)).combiners.any (fun k => k.obj = o) = false) (hfull : 16 ≤ (s.chan (slChan a.sl)).combiners.length) :
    s.joinBar a o = s.hold (slChan a.sl) (.bar a o) :=
  if_neg (by rw [h, Bool.false_or, decide_eq_false (Nat.not_lt.2 hfull)]; exact Bool.false_ne_true)

theorem withCombiner_mem (s : State) (c : Nat) (o : ObjRef) : ∃ k ∈ ((withCombiner s c o).chan c).combiners, k.obj = o := by
  unfold withCombiner
  split
  · next h =>
    obtain ⟨k, hk, ho⟩ := List.any_eq_true.1 h
    exact ⟨k, hk, of_decide_eq_true ho⟩
  · rw [chan_modChan_same]
    exact ⟨_, List.mem_append_right _ (List.mem_singleton_self _), rfl⟩

/-- The combiner has the arrival, to forward it later where the object is not the channel's own. -/
theorem taken_mem (s : State) (a : Arriver) (o : ObjRef) : ∃ k ∈ ((taken s a o).chan (slChan a.sl)).combiners, k.obj = o ∧ (a.sl, a.record, none) ∈ k.waiting
    ∧ ∀ m, o = .module m → a ∈ k.gathered := by
  obtain ⟨k, hk, ho⟩ := withCombiner_mem s (slChan a.sl) o
  refine ⟨arriving a (atOnce o) k, ?_, ho, List.mem_append_right _ (List.mem_singleton_self _), ?_⟩
  · rw [taken, chan_modChan_same]
    exact List.mem_map.2 ⟨k, hk, if_pos ho⟩
  · rintro m rfl
    exact List.mem_append_right _ (List.mem_singleton_self _)

theorem taken_stands (s : State) (a : Arriver) (o : ObjRef) : (taken s a o).slices = s.slices ∧ (taken s a o).mem = s.mem ∧ (taken s a o).arrQ = s.arrQ ∧ (taken s a o).refCount = s.refCount := by
  unfold taken withCombiner
  split <;> exact ⟨rfl, rfl, rfl, rfl⟩

theorem sendArrival_arrQ (s : State) (o : ObjRef) (c : Chan) (a : Arriver) : (s.sendArrival o c [a]).arrQ =
    s.arrQ ++ [⟨o, c, [a], s.refCount, syncRank (.slice a.sl a.record a.gen a.pos a.tag) (.signal 1)⟩] := rfl

theorem joinBar_stands (s : State) (a : Arriver) (o : ObjRef) : (s.joinBar a o).slices = s.slices ∧ (s.joinBar a o).mem = s.mem := by
  obtain ⟨hslices, hmem, -⟩ := taken_stands s a o
  by_cases h : (s.chan (slChan a.sl)).combiners.any (fun k => k.obj = o) = true ∨ (s.chan (slChan a.sl)).combiners.length < 16
  · rw [joinBar_taken h]
    split <;> exact ⟨hslices, hmem⟩
  · obtain ⟨hno, hfull⟩ := not_or.1 h
    rw [joinBar_held (Bool.eq_false_iff.2 hno) (Nat.not_lt.1 hfull)]
    exact ⟨rfl, rfl⟩

end

/-! ## Messages (R301, R302, R305) -/

theorem issued_block64 {s : State} {sl : SliceId} {a : ScrAddr} {at_ : Nat} (hat : ((arAtIssue s sl .bx a.reg).toNat + a.imm.val) % 2 ^ 32 = at_) (halign : at_ % 64 = 0)
    (hfits : at_ + 64 ≤ 0x8000) : block64 (issued s sl .bx) a = .ok at_ := by
  simp only [block64, SliceCode.issued_baseOf, hat, halign, ne_eq, not_true_eq_false, if_false, Nat.not_lt.2 hfits]

/-- Work for a bank's domain changes nothing but whether the bank waits. -/
theorem stir_bank_waiting (s : State) (c : Chan) (b : BankIx) : ∃ cs, s.stir (.bank c b) = { s with chans := cs }
    ∧ (∀ k, (s.stir (.bank c b)).chan k = { s.chan k with banks := ((s.stir (.bank c b)).chan k).banks })
    ∧ ∀ k j, ((s.stir (.bank c b)).chan k).bank j = { (s.chan k).bank j with pwr := { ((s.chan k).bank j).pwr with waiting := (((s.stir (.bank c b)).chan k).bank j).pwr.waiting } } := by
  unfold State.stir
  split
  · refine ⟨_, rfl, fun k => ?_, fun k j => ?_⟩
    · rw [State.modDom, State.modBank, chan_modChan]
      split
      · next h => rw [h]; rfl
      · rfl
    · rw [State.modDom, State.modBank, chan_modChan]
      split
      · next h =>
        rw [h, bank_modBank]
        split
        · next hj => rw [hj]
        · rfl
      · rfl
  · exact ⟨_, rfl, fun _ => rfl, fun _ _ => rfl⟩

/-- The domain of the bank of a slice. -/
def bankOf (sl : SliceId) : Domain := .bank (chanOf (slChan sl)) (Fin.ofNat 128 (slBank sl))

/-- A message on its way, its mailbox's bank given work. -/
def posted (s : State) (g : Msg) : State := { s with msgQ := s.msgQ ++ [g] }.stir (bankOf g.dst)

theorem posted_spec (s : State) (g : Msg) : let t := posted s g
    ∃ cs, t = { s with chans := cs, msgQ := s.msgQ ++ [g] } ∧ (∀ k, t.chan k = { s.chan k with banks := (t.chan k).banks })
      ∧ ∀ k j, (t.chan k).bank j = { (s.chan k).bank j with pwr := { ((s.chan k).bank j).pwr with waiting := ((t.chan k).bank j).pwr.waiting } } := by
  obtain ⟨cs, hcs, hchan, hbank⟩ := stir_bank_waiting { s with msgQ := s.msgQ ++ [g] } (chanOf (slChan g.dst)) (Fin.ofNat 128 (slBank g.dst))
  exact ⟨cs, hcs, hchan, hbank⟩

/-- The slice has taken the message of the entry. -/
def received (at_ : Nat) (entry : Fin 16) (m : Mail) (x : SliceSt) : SliceSt := { x with scratch := wrL x.scratch at_ m.data, mail := tdel x.mail entry.val }

section
variable {s : State} {sl dst : SliceId} {d : AReg} {entry : Fin 16} {a : ScrAddr} {ack : Fin 256} {l : LayerRun} {o : ObjRef} {at_ : Nat}

theorem sendOp_done (hobj : (s.ctx (slChan sl) l.record.val).vobj (chanOf (slChan sl)) ack.val = some o) (hblock : block64 (issued s sl .bx) a = .ok at_)
    (hdst : (arAtIssue s sl .bx d).toNat = dst.toNat) (hsel : inSel (slChan sl) (s.ctx (slChan sl) l.record.val).sliceSet dst.toNat = true) :
    bxParity none sl (sendOp sl d entry a ack) (begun s sl) (issued s sl .bx) l =
      .done (posted (begun s sl) ⟨dst, entry, ⟨rdN (s.slice sl).scratch at_ 64, l.record, l.gen, o, l.tag⟩, l.party sl⟩) := by
  have hto : ((issued s sl .bx).arI .bx d).toNat = dst.toNat := by rw [SliceCode.issued_arI, hdst]
  have hsel' : inSel (slChan sl) ((begun s sl).ctx (slChan sl) l.record.val).sliceSet dst.toNat = true := hsel
  have hdst' : BitVec.ofNat 20 dst.toNat = dst := by rw [BitVec.ofNat_toNat, BitVec.setWidth_eq]
  show sendOp sl d entry a ack (begun s sl) (issued s sl .bx) l = _
  unfold sendOp
  simp only [hto, begun_layerObj hobj, hsel', hblock, hdst', dst.isLt, and_self, if_true]
  rfl

theorem recvOp_done {m : Mail} (hobj : (s.ctx (slChan sl) l.record.val).vobj (chanOf (slChan sl)) ack.val = some o) (hblock : block64 (issued s sl .bx) a = .ok at_)
    (hm : tfind (s.slice sl).mail entry.val = some m) : recvOp sl entry a ack (begun s sl) (issued s sl .bx) l =
      .done (((begun s sl).modSlice sl (received at_ entry m)).send m.ack (.ack 0) (l.party sl)) := by
  have hm' : tfind (issued s sl .bx).mail entry.val = some m := hm
  unfold recvOp
  simp only [begun_layerObj hobj, hblock]
  change (match tfind (issued s sl .bx).mail entry.val with | none => _ | some m => _) = _
  rw [hm']
  rfl

theorem recvOp_holds (hobj : (s.ctx (slChan sl) l.record.val).vobj (chanOf (slChan sl)) ack.val = some o) (hblock : block64 (issued s sl .bx) a = .ok at_)
    (hm : tfind (s.slice sl).mail entry.val = none) : recvOp sl entry a ack (begun s sl) (issued s sl .bx) l = .hold (begun s sl) (.recv entry) := by
  have hm' : tfind (issued s sl .bx).mail entry.val = none := hm
  unfold recvOp
  simp only [begun_layerObj hobj, hblock]
  change (match tfind (issued s sl .bx).mail entry.val with | none => _ | some m => _) = _
  rw [hm']

theorem exec_bxRecv (h : (s.slice sl).bxWait = .none) : exec (.bxRecv sl entry a ack) s = .next (s.runBx sl (recvOp sl entry a ack)) := by
  have hstays : s.recvAgain sl entry = s := if_neg fun hagain => by
    rw [h] at hagain
    exact absurd hagain.1 nofun
  show Host.Outcome.next ((s.recvAgain sl entry).runBx sl (recvOp sl entry a ack)) = _
  rw [hstays]

/-- BX of the slice waits for its entry no longer. -/
def lookingAgain (s : State) (sl : SliceId) : State := s.putSlice sl { s.slice sl with bxWait := .none }

theorem canIssue_of_issues (h : issues s sl .bx) : (s.slice sl).canIssue .bx = true := by
  obtain ⟨-, hactive, hqueue, hstate, hstop, hheld, hwait, -⟩ := h
  simp only [SliceSt.canIssue, hactive, hstop, hwait, Bool.true_and, Bool.and_eq_true, Bool.or_eq_true, decide_eq_true_eq, Bool.not_eq_true', Bool.not_false]
  exact ⟨⟨⟨⟨hqueue, hstate⟩, trivial⟩, hheld⟩, .inr trivial⟩

/-- BX, waiting for its entry, looks at it again. -/
theorem exec_bxRecv_again (hwait : (s.slice sl).bxWait = .recv entry) (h : issues (lookingAgain s sl) sl .bx) :
    exec (.bxRecv sl entry a ack) s = exec (.bxRecv sl entry a ack) (lookingAgain s sl) := by
  have hslice : (lookingAgain s sl).slice sl = { s.slice sl with bxWait := .none } := SliceCode.slice_putSlice_same ..
  have hcan := canIssue_of_issues h
  rw [hslice] at hcan
  have hagain : s.recvAgain sl entry = lookingAgain s sl := if_pos ⟨hwait, hcan⟩
  rw [exec_bxRecv (bxWait_of_issues h)]
  show Host.Outcome.next ((s.recvAgain sl entry).runBx sl (recvOp sl entry a ack)) = _
  rw [hagain]

end

/-- Settles O26: an operation of BX leaves toward its object, its channel's watch entries or combiner, or a mailbox, and BX holds it until what it waits for comes. -/
theorem sliceSynchronisation : Obligations.SliceSynchronisation := by
  unfold Obligations.SliceSynchronisation
  refine ⟨fun s sl v n l o e k => ?_, fun s sl dst d entry a ack l o m => ?_⟩
  · intro c ch amount who sent arriver h hclear hl hobj
    have hk : amount32 (issued s sl .bx) n = amount := by
      cases n with
      | reg a => exact SliceCode.issued_arI s sl .bx a
      | imm i => rfl
    refine ⟨fun hn hne hc => ?_, fun hn hne hc => ?_, fun hn hne => ?_, ?_, fun hc => ?_, fun hc => ?_⟩
    · exact ran_hold h hclear hl (exec_bxSsig hn) (changeOp_holds hobj hk hne (by rw [hc]; rfl)) ⟨rfl, rfl⟩ rfl
    · exact ran_again h hclear hl (exec_bxSsig hn) (changeOp_waits hobj hk hne hc) rfl
    · exact ran_hold h hclear hl (exec_bxSsub hn) (changeOp_holds hobj hk hne rfl) ⟨rfl, rfl⟩ rfl
    · refine ran_hold h hclear hl rfl (watchOp_holds hobj hk) (joinWatch_stands ..) ⟨fun hjoin => ?_, fun hnone hfree => ?_, fun hnone hfree => ?_⟩
      · have hjoins := joinWatch_joins (s := begun s sl) (r := l.record) hjoin
        rw [hjoins, (recordsOnly_held ..).watches, chan_modChan_same]
        exact ⟨rfl, rfl⟩
      · have htakes := joinWatch_takes (s := begun s sl) (r := l.record) hnone hfree
        rw [htakes, (recordsOnly_held ..).watches, send_chan, chan_modChan_same]
        exact ⟨rfl, _, rfl, rfl, rfl⟩
      · have hheld := joinWatch_held (s := begun s sl) (r := l.record) hnone hfree
        rw [hheld, (recordsOnly_held ..).watches, (recordsOnly_held ..).held, State.hold, chan_modChan_same]
        exact ⟨rfl, rfl, rfl⟩
    · refine ran_hold h hclear hl rfl (barOp_holds hobj hc) (joinBar_stands ..) ⟨fun htake => ?_, fun hno hfull => ?_⟩
      · rw [joinBar_taken (s := begun s sl) (a := arriver) htake]
        obtain ⟨-, -, harr, href⟩ := taken_stands (begun s sl) arriver o
        have hmem := taken_mem (begun s sl) arriver o
        cases o with
        | chan d b =>
          refine ⟨?_, nofun, fun _ _ _ => ?_⟩
          · rw [(recordsOnly_held ..).combiners]
            exact hmem
          · refine (sendArrival_arrQ (taken (begun s sl) arriver (.chan d b)) (.chan d b) (chanOf c) arriver).trans ?_
            rw [harr, href]
            rfl
        | module b =>
          refine ⟨?_, fun _ _ => harr, nofun⟩
          rw [(recordsOnly_held ..).combiners]
          exact hmem
      · rw [joinBar_held (s := begun s sl) (a := arriver) hno hfull, (recordsOnly_held ..).held, State.hold, chan_modChan_same]
        exact ⟨rfl, rfl⟩
    · exact ran_again h hclear hl rfl (barOp_waits hobj hc) ⟨rfl, rfl⟩
  · intro x at_ who freed hl hclear hobj halign hfits
    have hblock : block64 (issued s sl .bx) a = .ok at_ := issued_block64 rfl halign hfits
    refine ⟨fun h hdst hsel => ?_, fun h hm => ?_, fun h hm => ?_, exec_bxRecv_again⟩
    · have hrun := runBx_done h hclear hl (sendOp_done (entry := entry) hobj hblock hdst hsel)
      obtain ⟨cs, hposted, hchan, hbank⟩ := posted_spec (begun s sl) ⟨dst, entry, ⟨rdN x.scratch at_ 64, l.record, l.gen, o, l.tag⟩, l.party sl⟩
      rw [hposted] at hrun hchan hbank
      obtain ⟨hadvanced, hframe⟩ := retire_spec (g := id) (t := { begun s sl with chans := cs, msgQ := (begun s sl).msgQ ++ [_] }) h (begun_slice s sl)
      exact ⟨_, congrArg Host.Outcome.next hrun, rfl, rfl, rfl, hadvanced, fun k hk => (slice_modSlice_other _ _ _ _ hk).trans (begun_slice_other s hk), hframe, hchan, hbank⟩
    · refine ⟨_, (exec_bxRecv (bxWait_of_issues h)).trans (congrArg Host.Outcome.next (runBx_done h hclear hl (recvOp_done hobj hblock hm))), ⟨rfl, rfl, fun k hk => ?_⟩, ?_⟩
      · rw [slice_modSlice_other _ _ _ _ hk]
        exact (slice_modSlice_other (begun s sl) sl k (received at_ entry m) hk).trans (begun_slice_other s hk)
      · refine retire_spec (s := s.send m.ack (.ack 0) who) (g := received at_ entry m) h ?_
        refine (slice_modSlice_same (begun s sl) sl (received at_ entry m)).trans ?_
        rw [begun_slice]
        rfl
    · exact ran_hold h hclear hl (exec_bxRecv (bxWait_of_issues h)) (recvOp_holds hobj hblock hm) ⟨rfl, rfl⟩ rfl

end Sys2Proof.Synchronisation
end

section
/-! SUPPORT. STRICT, the schedule origin and EPOCH_TICK (11 R309 to R317): what setting STRICT reclaims, what a tick comes to, and the mark a slip leaves on
every channel. -/

namespace Sys2Proof.StrictMode
open Sys2Proof Sys2Proof.Machine

/-! ## STRICT (R309; 13 R364) -/

/-- Reclaiming all that is lent touches the ledger alone. -/
theorem reclaimAll_only (s : State) : s.reclaimAll = { s with ledger := s.reclaimAll.ledger } :=
  List.foldlRecOn (motive := fun t : State => t = { s with ledger := t.ledger }) _ _ rfl fun t ht e _ =>
    (Commands.reclaim_only t e.1 e.2).trans (by rw [ht])

/-- A write of HB_STRICT sets STRICT, and of the rest of the machine the ledger may change. -/
theorem setStrict_only (s : State) (v : Bool) : s.setStrict v = { s with port := { s.port with strict := v }, ledger := (s.setStrict v).ledger } := by
  cases v with
  | false => rfl
  | true => exact reclaimAll_only _

theorem exec_strictWrite {s : State} (v : Bool) (hreach : s.reached = true) (hfree : s.allFree = true) :
    exec (.strictWrite v) s = .next ((s.keyOff.setStrict v).status .ok) := by
  show Host.Outcome.next (s.hostReg .port s.strictStatus _) = _
  rw [show s.strictStatus = .ok from if_pos hfree, hostReg_port s _ hreach]

theorem exec_strictWrite_leased {s : State} (v : Bool) (hreach : s.reached = true) (hheld : s.allFree = false) :
    exec (.strictWrite v) s = .next (s.keyOff.status .leased) := by
  show Host.Outcome.next (s.hostReg .port s.strictStatus _) = _
  rw [show s.strictStatus = .leased from if_neg (Bool.eq_false_iff.1 hheld), hostReg_own s .port .leased _ hreach rfl nofun]

/-! ## The origin (R311) -/

/-- The reference cycle in which the master period counter wraps. -/
theorem tick_wraps {s : State} (hpow : s.powered = true) (hm : s.master = 599) :
    s.tick = { s with refCount := s.refCount + 1, master := 0, originRef := s.refCount + 1 } := by
  simp only [State.powered, Bool.and_eq_true] at hpow
  obtain ⟨⟨⟨⟨⟨⟨hvaon, hvin⟩, hcharged⟩, hporst⟩, hwarmrst⟩, hrefclk⟩, -⟩ := hpow
  simp [State.tick, hrefclk, hvaon, hvin, hcharged, hporst, hwarmrst, hm]

theorem exec_strictOrigin (s : State) : exec .strictOrigin s = .next (if s.powered = true ∧ s.master = 599 then s.tick else s) := by
  show execStrictOrigin s = _
  simp only [execStrictOrigin, Bool.and_eq_true, decide_eq_true_eq]
  split <;> rfl

/-! ## TIMING_BROKEN in every channel (R312, R317) -/

/-- A channel with cause bit `i` of broken timing set. -/
def markBroken (i : Nat) (ch : Channel) : Channel :=
  { ch with
    strictTag := if ch.strictCause = 0 then ch.oldestTag else ch.strictTag
    strictCause := ch.strictCause ||| BitVec.ofNat 6 (2 ^ i) }

theorem timing_of_strict {s : State} (h : s.port.strict = true) (c i : Nat) : s.timing c i = s.modChan c (markBroken i) := if_pos h

theorem foldl_timing_only (s : State) (i : Nat) (l : List Nat) :
    l.foldl (fun s c => s.timing c i) s = { s with chans := (l.foldl (fun s c => s.timing c i) s).chans } :=
  List.foldlRecOn (motive := fun t : State => t = { s with chans := t.chans }) _ _ rfl fun t ht c _ => (timing_only t c i).trans (by rw [ht])

/-- Each channel of a list is marked once. -/
theorem chan_foldl_timing {s : State} {l : List Nat} (hs : s.port.strict = true) (hl : l.Nodup) (i k : Nat) :
    (l.foldl (fun s c => s.timing c i) s).chan k = if k ∈ l then markBroken i (s.chan k) else s.chan k := by
  induction l generalizing s with
  | nil => rfl
  | cons c l ih =>
    obtain ⟨hc, hl⟩ := List.nodup_cons.1 hl
    rw [List.foldl_cons, timing_of_strict hs, ih (s := s.modChan c (markBroken i)) hs hl, chan_modChan]
    by_cases hk : k = c
    · simp [hk, hc]
    · simp [hk]

/-! ## Ticks (R312) -/

/-- The state once a tick has set the master period counter to the value it expects. -/
def aligned (s : State) : State :=
  { s with
    port := { s.port with epochMode := 2, epochAligned := true }
    master := s.port.expected
    originRef := if s.port.expected = 0 then s.refCount else s.originRef }

/-- The state once a slip has been counted, before any channel is marked. -/
def slipCounted (s : State) : State :=
  (s.modPort fun p => { p with slips := satInc s.port.slips 0xFFFF, lastPhase := s.master }).noteSat s.port.slips 0xFFFF 0

theorem slipCounted_port (s : State) : (slipCounted s).port = { s.port with slips := satInc s.port.slips 0xFFFF, lastPhase := s.master } :=
  PreolmondLink.noteSat_port ..

theorem slipCounted_chans (s : State) : (slipCounted s).chans = s.chans := PreolmondLink.noteSat_chans ..

theorem slipCounted_master (s : State) : (slipCounted s).master = s.master := by
  rw [slipCounted, noteSat_onlyAlerts]
  rfl

theorem epochSlip_eq (s : State) :
    s.epochSlip = if s.port.strict = true then (upFrom 0 512).foldl (fun s c => s.timing c 2) (slipCounted s) else slipCounted s := by
  have hstrict : (slipCounted s).port.strict = s.port.strict := by rw [slipCounted_port]
  rw [← hstrict]
  rfl

/-- A slip is counted with the phase found, and of the rest of the machine only channels and alerts may change. -/
theorem epochSlip_stands (s : State) :
    s.epochSlip.master = s.master ∧ s.epochSlip.port = { s.port with slips := satInc s.port.slips 0xFFFF, lastPhase := s.master } := by
  have hframe : s.epochSlip.master = (slipCounted s).master ∧ s.epochSlip.port = (slipCounted s).port := by
    rw [epochSlip_eq]
    split
    · rw [foldl_timing_only]
      exact ⟨rfl, rfl⟩
    · exact ⟨rfl, rfl⟩
  exact ⟨hframe.1.trans (slipCounted_master s), hframe.2.trans (slipCounted_port s)⟩

/-- Under STRICT a slip breaks the timing of every channel. -/
theorem epochSlip_chan {s : State} (h : s.port.strict = true) (c : Chan) : s.epochSlip.chan c = markBroken 2 (s.chan c) := by
  have hstrict : (slipCounted s).port.strict = true := by rw [slipCounted_port]; exact h
  have hmem : c.val ∈ upFrom 0 512 := (mem_upFrom 0 512 c).2 ⟨Nat.zero_le _, by omega⟩
  rw [epochSlip_eq, if_pos h, chan_foldl_timing hstrict (PreolmondLink.upFrom_nodup 512 0), if_pos hmem, Commands.chan_congr (slipCounted_chans s)]

theorem epochSlip_chans {s : State} (h : s.port.strict = false) : s.epochSlip.chans = s.chans := by
  rw [epochSlip_eq, if_neg (Bool.eq_false_iff.1 h), slipCounted_chans]

theorem exec_epochTick_aligning {s : State} (hpow : s.powered = true) (hmode : s.port.epochMode = 1) :
    exec .epochTick s = .next (if s.anyStrictCtx = true then s else aligned s) := by
  show execEpochTick s = _
  simp only [execEpochTick, hpow, hmode, Bool.not_true, Bool.false_eq_true, if_false, if_true]
  split <;> rfl

theorem exec_epochTick_checking {s : State} (hpow : s.powered = true) (hmode : s.port.epochMode = 2) :
    exec .epochTick s = .next (if s.master = s.port.expected then s else s.epochSlip) := by
  show execEpochTick s = _
  simp only [execEpochTick, hpow, hmode, Bool.not_true, Bool.false_eq_true, if_false, if_true, OfNat.ofNat_ne_one]
  split <;> rfl

theorem exec_epochTick_off {s : State} (hmode : s.port.epochMode = 0) : exec .epochTick s = .next s := by
  show execEpochTick s = _
  simp [execEpochTick, hmode]

/-- Settles O30: HB_STRICT and the clears are host WRITEs of the port's windows or the channel's; the origin is the tick that wraps; a tick of the epoch aligns, finds
what it expects, or counts a slip that under STRICT marks each channel in turn. -/
theorem strictAndEpoch : Obligations.StrictAndEpoch := by
  unfold Obligations.StrictAndEpoch
  intro s v c mask p off due
  refine ⟨fun hreach hfree => ?strict, fun hreach hheld => ?leased, fun hpow hm => ?origin, fun hm => ?noOrigin, fun hpow hmode hnone => ?align,
    fun hpow hmode hany => ?barred, fun hpow hmode hm => ?inPhase, fun hpow hmode hm => ?slip, exec_epochTick_off, fun hreach => ?clear, fun hwin hst => ?status⟩
  case strict =>
    refine ⟨_, exec_strictWrite v hreach hfree, ?_, ?_, fun hv => ?_⟩
    · rw [setStrict_only]
      exact ⟨rfl, rfl, rfl, rfl, rfl⟩
    · rw [setStrict_only]
      rfl
    · rw [hv]
      rfl
  case leased => exact ⟨_, exec_strictWrite_leased v hreach hheld, rfl, rfl⟩
  case origin => exact ⟨_, (exec_strictOrigin s).trans (congrArg _ (if_pos ⟨hpow, hm⟩)), tick_wraps hpow hm⟩
  case noOrigin => exact (exec_strictOrigin s).trans (congrArg _ (if_neg fun h => hm h.2))
  case align =>
    exact ⟨_, (exec_epochTick_aligning hpow hmode).trans (congrArg _ (if_neg (Bool.eq_false_iff.1 hnone))), rfl, rfl, fun h => if_pos h, fun h => if_neg h, rfl⟩
  case barred => exact (exec_epochTick_aligning hpow hmode).trans (congrArg _ (if_pos hany))
  case inPhase => exact (exec_epochTick_checking hpow hmode).trans (congrArg _ (if_pos hm))
  case slip =>
    obtain ⟨hmaster, hport⟩ := epochSlip_stands s
    refine ⟨_, (exec_epochTick_checking hpow hmode).trans (congrArg _ (if_neg hm)), hmaster, hport, fun h k => ?_, epochSlip_chans⟩
    rw [epochSlip_chan h]
    exact ⟨rfl, rfl⟩
  case clear => exact ⟨_, congrArg Host.Outcome.next (hostReg_port s State.epochClear hreach), ⟨rfl, rfl, rfl, rfl, rfl⟩, rfl⟩
  case status =>
    exact Commands.ran_hostReg_modChan (f := fun s => s.strictClear c mask) hwin hst fun ch =>
      { ch with
        strictCause := ch.strictCause &&& ~~~mask
        strictTag := if ch.strictCause &&& ~~~mask = 0 then 0 else ch.strictTag }

end Sys2Proof.StrictMode
end

section
/-! SUPPORT. What the checker of a channel counts (12 R325, R326, R336 to R338), and the settlement of the scrubber and the error log (12 R336 to R339). -/

namespace Sys2Proof.Detection
open Sys2Proof Sys2Proof.Machine

/-! ## Steps at the checker of one channel -/

/-- The checker of channel `c` holds `x`; of the rest of the machine nothing but alerts has changed. -/
def Checked (s t : State) (c : Nat) (x : CheckSt) : Prop := onlyChan s t c ∧ t.chan c = { s.chan c with chk := x }

section
variable {s t u : State} {c : Nat} {x y : CheckSt}

theorem checked_modChk (s : State) (c : Nat) (f : CheckSt → CheckSt) : Checked s (s.modChk c f) c (f (s.chan c).chk) :=
  ⟨BankMemory.onlyChan_modChan s c _, chan_modChan_same s c _⟩

theorem Checked.trans (hst : Checked s t c x) (htu : Checked t u c y) : Checked s u c y := by
  obtain ⟨hs, hx⟩ := hst
  obtain ⟨ht, hy⟩ := htu
  exact ⟨BankMemory.onlyChan_trans hs ht, by rw [hy, hx]⟩

theorem Checked.alert (h : Checked s t c x) (bit : Nat) (e : ErrRec) : Checked s (t.alert bit e) c x :=
  ⟨BankMemory.onlyChan_trans h.1 (BankMemory.onlyChan_alert t c bit e), h.2⟩

theorem Checked.noteSat (h : Checked s t c x) (old limit d : Nat) : Checked s (t.noteSat old limit d) c x :=
  ⟨BankMemory.onlyChan_trans h.1 (BankMemory.onlyChan_noteSat t c old limit d), (BankMemory.noteSat_chan t old limit d c).trans h.2⟩

theorem Checked.chk (h : Checked s t c x) : (t.chan c).chk = x := by rw [h.2]

end

/-- A failure counted: the counter and where it was found, the alert, and the note of saturation. -/
theorem checked_alerted (s : State) (c : Nat) (f : CheckSt → CheckSt) {bit : Nat} (hbit : bit < 13) (e : ErrRec) (n : Nat) :
    let t := ((s.modChk c f).alert bit e).noteSat n 0xFFFF c
    Checked s t c (f (s.chan c).chk) ∧ t.mg.alert.getLsbD bit = true :=
  ⟨((checked_modChk s c f).alert bit e).noteSat n 0xFFFF c, PreolmondLink.noteSat_keeps_alert (PreolmondLink.alert_sets _ bit e hbit)⟩

/-- A retry that passes is counted (R325). -/
theorem checked_retriedOk (s : State) (c : Nat) : Checked s (s.retriedOk c) c { (s.chan c).chk with retriedOk := satInc (s.chan c).chk.retriedOk 0xFFFF } :=
  (checked_modChk s c _).noteSat _ 0xFFFF c

/-- A block that fails the scrubber is counted, and the last failure is its (R337). -/
theorem scrubFail_spec (s : State) (c blk : Nat) :
    Checked s (s.scrubFail c blk) c { (s.chan c).chk with scrubFail := satInc (s.chan c).chk.scrubFail 0xFFFF, lastBlk := blk % 2 ^ 25, lastSrc := 3 }
      ∧ (s.scrubFail c blk).mg.alert.getLsbD 1 = true :=
  checked_alerted s c _ (by decide) _ _

/-! ## Tries (R325) -/

theorem hostOwned_of_failing {s : State} {blk : Nat} (h : s.failing blk = true) : s.hostOwned blk = false := (Bool.not_eq_true' _).mp (Bool.and_eq_true_iff.1 h).1

section
variable {s : State} {blk : Nat} {o1 o2 : Bool}

theorem retryPasses_of_pass (hpass : o1 = true ∨ o2 = true) (hgood : s.failing blk = false) : s.retryPasses blk o1 o2 = true := by
  rw [State.retryPasses, hgood, Bool.or_eq_true_iff.2 hpass]
  rfl

theorem retryPasses_of_fail (h : ¬ (o1 = true ∨ o2 = true) ∨ s.failing blk = true) : s.retryPasses blk o1 o2 = false := by
  rcases h with h | h
  · rw [State.retryPasses, Bool.eq_false_iff.2 fun hor => h (Bool.or_eq_true_iff.1 hor), Bool.false_and]
  · rw [State.retryPasses, h, Bool.not_true, Bool.and_false]

end

/-! ## The scrubber (R336, R337) -/

/-- Once the scrubber has read a block of its row in a bank. -/
def noteRead (s : State) (c : Chan) (b : BankIx) (k : Fin 128) : State := s.modChk c fun x => { x with done := x.done ++ [(b.val, k.val)] }

theorem checked_noteRead (s : State) (c : Chan) (b : BankIx) (k : Fin 128) :
    Checked s (noteRead s c b k) c { (s.chan c).chk with done := (s.chan c).chk.done ++ [(b.val, k.val)] } := checked_modChk s c _

/-- The scrubber reads block `k` of its row in bank `b`. -/
def scrubbing (s : State) (c : Chan) (b : BankIx) (k : Fin 128) : Prop :=
  s.scrubs c = true ∧ ((s.chan c).bank b).queue = [] ∧ ((s.chan c).bank b).failing = none ∧ (s.chan c).chk.done.contains (b.val, k.val) = false

section
variable {s : State} {c : Chan} {b : BankIx} {k : Fin 128} (o0 o1 o2 : Bool)

/-- What a read of the scrubber comes to. -/
theorem exec_scrubRead (h : scrubbing s c b k) :
    exec (.scrubRead c b k o0 o1 o2) s =
      let blk := (s.chan c).scrubBlk c b k
      .next (if (s.hostOwned blk || (o0 && !s.failing blk)) = true then noteRead s c b k
        else if s.retryPasses blk o1 o2 = true then (noteRead s c b k).retriedOk c else (noteRead s c b k).scrubFail c blk) := by
  obtain ⟨hscrubs, hqueue, hfailing, hdone⟩ := h
  show execScrubRead c b k o0 o1 o2 s = _
  unfold execScrubRead
  extract_lets ch blk t
  refine (if_neg (by rw [hscrubs, hqueue, hfailing, hdone]; decide)).trans ?_
  rw [apply_ite Host.Outcome.next, apply_ite Host.Outcome.next]
  rfl

/-- A block of the host's, or one whose first read passes, is done. -/
theorem exec_scrubRead_good (h : scrubbing s c b k) (hgood : s.hostOwned ((s.chan c).scrubBlk c b k) = true ∨ (o0 = true ∧ s.failing ((s.chan c).scrubBlk c b k) = false)) :
    exec (.scrubRead c b k o0 o1 o2) s = .next (noteRead s c b k) := by
  refine (exec_scrubRead o0 o1 o2 h).trans (congrArg _ (if_pos ?_))
  rcases hgood with hown | ⟨ho, hgood⟩
  · rw [hown, Bool.true_or]
  · rw [ho, hgood, Bool.not_false, Bool.and_true, Bool.or_true]

theorem exec_scrubRead_retried (h : scrubbing s c b k) (hown : s.hostOwned ((s.chan c).scrubBlk c b k) = false) (ho : o0 = false)
    (hgood : s.failing ((s.chan c).scrubBlk c b k) = false) (hretry : o1 = true ∨ o2 = true) : exec (.scrubRead c b k o0 o1 o2) s = .next ((noteRead s c b k).retriedOk c) := by
  refine (exec_scrubRead o0 o1 o2 h).trans (congrArg _ ((if_neg ?_).trans (if_pos (retryPasses_of_pass hretry hgood))))
  rw [hown, ho, Bool.false_and]
  decide

theorem exec_scrubRead_failed (h : scrubbing s c b k) (hbad : s.failing ((s.chan c).scrubBlk c b k) = true) :
    exec (.scrubRead c b k o0 o1 o2) s = .next ((noteRead s c b k).scrubFail c ((s.chan c).scrubBlk c b k)) := by
  refine (exec_scrubRead o0 o1 o2 h).trans (congrArg _ ((if_neg ?_).trans (if_neg (Bool.eq_false_iff.1 (retryPasses_of_fail (Or.inr hbad))))))
  rw [hostOwned_of_failing hbad, hbad, Bool.not_true, Bool.and_false]
  decide

theorem exec_scrubRead_idle (h : s.scrubs c = false) : exec (.scrubRead c b k o0 o1 o2) s = .next s :=
  if_pos (by rw [h]; rfl)

theorem exec_scrubInterval_idle (h : s.scrubs c = false) : exec (.scrubInterval c) s = .next s :=
  if_pos (by rw [h]; rfl)

theorem exec_scrubInterval_early (h : ¬ (s.chan c).chk.scrubStart + usRef (max 1 (s.chan c).chk.rowUs) ≤ s.refCount) : exec (.scrubInterval c) s = .next s :=
  if_pos (by rw [decide_eq_true (Nat.not_le.1 h), Bool.or_true])

end

/-- The state in which the scrubber's next interval has begun. -/
def intervalBegun (s : State) (c : Chan) : State := s.modChk c fun x => { x with scrubStart := s.refCount }

/-- The scrubber moves to the next row; past the last it begins anew and counts a pass. -/
def nextRow (wrap : Bool) (x : CheckSt) : CheckSt :=
  { x with row := if wrap then 0 else x.row + 1, passes := if wrap then satInc x.passes 0xFFFF else x.passes, done := [] }

theorem exec_scrubInterval {s : State} {c : Chan} (hs : s.scrubs c = true) (hdue : (s.chan c).chk.scrubStart + usRef (max 1 (s.chan c).chk.rowUs) ≤ s.refCount) :
    exec (.scrubInterval c) s =
      let k := (s.chan c).chk
      let wrap := decide (k.row = 2047)
      let moved := (intervalBegun s c).modChk c (nextRow wrap)
      .next (if k.done.length < 128 * 128 then intervalBegun s c else if wrap = true then moved.noteSat k.passes 0xFFFF c else moved) := by
  show execScrubInterval c s = _
  unfold execScrubInterval
  extract_lets k t wrap u
  refine (if_neg (by rw [hs, decide_eq_false (Nat.not_lt.2 hdue)]; decide)).trans ?_
  exact (apply_ite Host.Outcome.next ..).symm

theorem checked_intervalBegun (s : State) (c : Chan) : Checked s (intervalBegun s c) c { (s.chan c).chk with scrubStart := s.refCount } := checked_modChk s c _

theorem checked_nextRow (s : State) (c : Chan) (wrap : Bool) :
    Checked s ((intervalBegun s c).modChk c (nextRow wrap)) c (nextRow wrap { (s.chan c).chk with scrubStart := s.refCount }) := by
  have h := checked_modChk (intervalBegun s c) c (nextRow wrap)
  rw [(checked_intervalBegun s c).chk] at h
  exact (checked_intervalBegun s c).trans h

/-- Every block of the row read, the scrubber moves on. -/
theorem ran_scrubInterval_row {s : State} {c : Chan} (hs : s.scrubs c = true) (hdue : (s.chan c).chk.scrubStart + usRef (max 1 (s.chan c).chk.rowUs) ≤ s.refCount)
    (hdone : 128 * 128 ≤ (s.chan c).chk.done.length) :
    ran (exec (.scrubInterval c) s) fun t => Checked s t c (nextRow (decide ((s.chan c).chk.row = 2047)) { (s.chan c).chk with scrubStart := s.refCount }) := by
  refine ⟨_, (exec_scrubInterval hs hdue).trans (congrArg _ (if_neg (Nat.not_lt.2 hdone))), ?_⟩
  split
  · exact (checked_nextRow s c _).noteSat _ 0xFFFF c
  · exact checked_nextRow s c _

/-! ## The error log (R339; 16 R413) -/

/-- The record of the oldest event leaves the queue of those due. -/
theorem exec_errorLogRecord {s : State} {e : ErrRec} {rest : List ErrRec} (h : s.mg.events = e :: rest) :
    exec .errorLogRecord s =
      let u := s.modMg fun m => { m with events := rest }
      .next (if s.fwRuns ∧ s.mg.boot.level < 2 then u.modMg fun m => { m with errLog := tput m.errLog m.errHead e, errHead := (m.errHead + 1) % 256 }
        else ((u.modMg fun m => { m with errLost := satInc s.mg.errLost 0xFFFF }).alert 10 (plainRec 10 0 0)).noteSat s.mg.errLost 0xFFFF 0) := by
  show execErrorLogRecord s = _
  unfold execErrorLogRecord
  rw [h]
  exact (apply_ite Host.Outcome.next ..).symm

theorem noteSat_errLost (s : State) (old limit c : Nat) : (s.noteSat old limit c).mg.errLost = s.mg.errLost ∧ (s.noteSat old limit c).mg.errLog = s.mg.errLog := by
  rcases noteSat_cases s old limit c with h | h <;> rw [h] <;> exact ⟨rfl, rfl⟩

/-- Settles O32: each read and interval of the scrubber changes what the channel's checker holds, and alerts; a record of the error log is written, or
the loss is counted with its alert. -/
theorem scrubberAndErrorLog : Obligations.ScrubberAndErrorLog := by
  unfold Obligations.ScrubberAndErrorLog
  intro s c b k o0 o1 o2 e rest ch x blk due reads
  have hread := checked_noteRead s c b k
  refine ⟨fun hr hgood => ?first, fun hr hown ho0 hgood hretry => ?retry, fun hr hbad => ?fail, fun hs hdue hdone hrow => ?next, fun hs hdue hdone hrow => ?wrap,
    fun hs hdue hdone => ?unfinished, exec_scrubInterval_early, fun hs => ⟨exec_scrubInterval_idle hs, exec_scrubRead_idle o0 o1 o2 hs⟩,
    fun he => ?empty, fun he hfw hlevel => ?logged, fun he hfw => ?lost⟩
  case first => exact ⟨_, exec_scrubRead_good o0 o1 o2 hr hgood, hread⟩
  case retry =>
    have hok := checked_retriedOk (noteRead s c b k) c
    rw [hread.chk] at hok
    exact ⟨_, exec_scrubRead_retried o0 o1 o2 hr hown ho0 hgood hretry, hread.trans hok⟩
  case fail =>
    obtain ⟨hfail, halert⟩ := scrubFail_spec (noteRead s c b k) c blk
    rw [hread.chk] at hfail
    obtain ⟨honly, hchan⟩ := hread.trans hfail
    exact ⟨_, exec_scrubRead_failed o0 o1 o2 hr hbad, honly, halert, hchan⟩
  case next =>
    have h := ran_scrubInterval_row hs hdue hdone
    rw [decide_eq_false (Nat.ne_of_lt hrow)] at h
    exact h
  case wrap =>
    have h := ran_scrubInterval_row hs hdue hdone
    rw [decide_eq_true hrow] at h
    exact h
  case unfinished => exact ⟨_, (exec_scrubInterval hs hdue).trans (congrArg _ (if_pos hdone)), checked_intervalBegun s c⟩
  case empty =>
    show execErrorLogRecord s = _
    rw [execErrorLogRecord, he]
  case logged => exact ⟨_, (exec_errorLogRecord he).trans (congrArg _ (if_pos ⟨hfw, hlevel⟩)), rfl⟩
  case lost =>
    have hshed : ¬ (s.fwRuns ∧ s.mg.boot.level < 2) := fun ⟨h, hl⟩ => hfw.elim (fun hf => by rw [hf] at h; cases h) (Nat.not_le.2 hl)
    refine ⟨_, (exec_errorLogRecord he).trans (congrArg _ (if_neg hshed)), (noteSat_errLost ..).1, ?_, (noteSat_errLost ..).2, PreolmondLink.noteSat_chans ..⟩
    exact PreolmondLink.noteSat_keeps_alert (PreolmondLink.alert_sets _ 10 _ (by decide))

end Sys2Proof.Detection
end

section
/-! SUPPORT. Retries (12 R325, R326, R328): what a second try and a failure counted leave of the rest of the machine. -/

namespace Sys2Proof.Detection
open Sys2Proof Sys2Proof.Machine

/-! ## Steps beside records, writer logs and requests -/

/-- Of each channel only rows, the checker and causes of broken timing have changed, and nothing else of the machine but alerts. -/
structure Beside (s t : State) : Prop where
  only : t = { s with chans := t.chans, mg := t.mg }
  chan : ∀ k, t.chan k = { s.chan k with
    banks := (t.chan k).banks, acts := (t.chan k).acts, chk := (t.chan k).chk, strictCause := (t.chan k).strictCause, strictTag := (t.chan k).strictTag }

theorem beside_refl (s : State) : Beside s s := ⟨rfl, fun _ => rfl⟩

theorem Beside.trans {s t u : State} (hst : Beside s t) (htu : Beside t u) : Beside s u := by
  refine ⟨?_, fun k => ?_⟩
  · rw [htu.only, hst.only]
  · rw [htu.chan k, hst.chan k]

theorem beside_modChan {s : State} {c : Nat} {f : Channel → Channel} (hf : f (s.chan c) = { s.chan c with
    banks := (f (s.chan c)).banks, acts := (f (s.chan c)).acts, chk := (f (s.chan c)).chk, strictCause := (f (s.chan c)).strictCause, strictTag := (f (s.chan c)).strictTag }) :
    Beside s (s.modChan c f) := by
  refine ⟨rfl, fun k => ?_⟩
  rw [chan_modChan]
  split
  · next h => rw [h]; exact hf
  · rfl

theorem beside_timing (s : State) (c i : Nat) : Beside s (s.timing c i) := by
  unfold State.timing
  split
  · exact beside_modChan rfl
  · exact beside_refl s

theorem Checked.beside {s t : State} {c : Nat} {x : CheckSt} (h : Checked s t c x) : Beside s t := by
  obtain ⟨⟨honly, -, hother⟩, hchan⟩ := h
  refine ⟨honly, fun k => ?_⟩
  by_cases hk : k = c
  · rw [hk, hchan]
  · rw [hother k hk]

section
variable {s t : State} (h : Beside s t)
include h

theorem Beside.mem : t.mem = s.mem := by rw [h.only]
theorem Beside.slices : t.slices = s.slices := by rw [h.only]
theorem Beside.link : t.link = s.link := by rw [h.only]
theorem Beside.slice (sl : SliceId) : t.slice sl = s.slice sl := Commands.slice_congr h.slices sl
theorem Beside.ctxs (k : Nat) : (t.chan k).ctxs = (s.chan k).ctxs := by rw [h.chan k]

theorem Beside.cmd (c r pos : Nat) : t.cmd c r pos = s.cmd c r pos := congrArg (Ctx.cmd · pos) (Commands.ctx_of_ctxs (h.ctxs c) r)

theorem Beside.failing (blk : Nat) : t.failing blk = s.failing blk := by rw [h.only]; rfl

theorem Beside.blockData (blk : Nat) : t.blockData blk = s.blockData blk := by rw [h.only]; rfl

theorem Beside.checkWord (blk : Nat) : t.checkWord blk = s.checkWord blk := by rw [h.only]; rfl

theorem Beside.arrayDetail (a : Nat) : t.arrayDetail a = s.arrayDetail a := by
  unfold State.arrayDetail State.wlogAt
  rw [h.chan]

theorem Beside.group (g : Nat) : t.group g = s.group g := by rw [State.group, h.link]; rfl

/-- A fault that follows is that of the slice as it stood. -/
theorem Beside.faulting (sl : SliceId) (e : Engine) : SliceCode.Faulting s t sl e :=
  ⟨⟨_, _, _, _, h.slice sl⟩, by rw [h.slice], h.cmd, h.mem⟩

end

/-! ## Faults beside the checker -/

/-- What the checkers hold and the management domain stand. -/
structure ChecksStand (s t : State) : Prop where
  chk : ∀ k, (t.chan k).chk = (s.chan k).chk
  mg : t.mg = s.mg

theorem checksStand_refl (s : State) : ChecksStand s s := ⟨fun _ => rfl, rfl⟩

theorem checksStand_modChan {s : State} {c : Nat} {f : Channel → Channel} (hf : (f (s.chan c)).chk = (s.chan c).chk) : ChecksStand s (s.modChan c f) := by
  refine ⟨fun k => ?_, rfl⟩
  rw [chan_modChan]
  split
  · next h => rw [hf, h]
  · rfl

theorem checksStand_cmdFault (s : State) (c r pos : Nat) (f : FaultInfo) : ChecksStand s (s.cmdFault c r pos f) := by
  unfold State.cmdFault
  split
  · exact checksStand_refl s
  · split
    · exact checksStand_refl s
    · obtain ⟨hchk, hmg⟩ : ChecksStand s (s.modCmd c r pos (SliceCode.faulted f)) := checksStand_modChan rfl
      rw [Commands.requestStop_only]
      exact ⟨hchk, hmg⟩

theorem checksStand_sliceFault (s : State) (sl : SliceId) (e : Engine) (cause detail : Nat) : ChecksStand s (s.sliceFault sl e cause detail) := by
  unfold State.sliceFault
  split
  · exact checksStand_refl s
  · obtain ⟨hchk, hmg⟩ := checksStand_cmdFault (s.modSlice sl _) _ _ _ _
    exact ⟨hchk, hmg⟩

/-! ## The second try (R325) -/

/-- The state before the outcome of a retry counts: its broken timing marked, and the row activated again unless the first try passed. -/
def retrying (s : State) (c b row : Nat) (first : Bool) : State := if first then s.timing c 3 else (s.timing c 3).reactivate c b row

theorem le_actFrom (ch : Channel) (col : Nat) : col ≤ ch.actFrom col := by
  unfold Channel.actFrom
  cases h : (upFrom col 64).find? ch.actOk with
  | none => exact Nat.le_add_right col 64
  | some a => exact ((mem_upFrom col 64 a).1 (List.mem_of_find?_eq_some h)).1

theorem beside_reactivate (s : State) (c b row : Nat) : Beside s (s.reactivate c b row) := beside_modChan rfl

theorem chk_reactivate (s : State) (c b row : Nat) : ((s.reactivate c b row).chan c).chk = (s.chan c).chk := by
  rw [State.reactivate, chan_modChan_same]
  rfl

theorem chk_timing (s : State) (c i : Nat) : ((s.timing c i).chan c).chk = (s.chan c).chk := by rw [BankMemory.timing_chan]

theorem bank_timing (s : State) (c i b : Nat) : ((s.timing c i).chan c).bank b = (s.chan c).bank b := by rw [BankMemory.timing_chan]; rfl

/-- The bank once its row has been activated again. -/
theorem bank_reactivate (s : State) (c b row : Nat) : ∃ act, max s.col ((s.chan c).bank b).closeAt + tRP ≤ act
    ∧ ((s.reactivate c b row).chan c).bank b = { (s.chan c).bank b with openRow := some row, actAt := some act, wrAt := none } := by
  refine ⟨_, le_actFrom (s.chan c) _, ?_⟩
  rw [State.reactivate, chan_modChan_same]
  exact (BankMemory.changesBank_modBank (s.chan c) b fun k => { k with openRow := some row, actAt := _, wrAt := none }).same

theorem beside_retrying (s : State) (c b row : Nat) (first : Bool) : Beside s (retrying s c b row first) := by
  unfold retrying
  split
  · exact beside_timing s c 3
  · exact (beside_timing s c 3).trans (beside_reactivate _ c b row)

theorem chk_retrying (s : State) (c b row : Nat) (first : Bool) : ((retrying s c b row first).chan c).chk = (s.chan c).chk := by
  unfold retrying
  split
  · exact chk_timing s c 3
  · rw [chk_reactivate, chk_timing]

theorem failing_retrying (s : State) (c b row : Nat) (first : Bool) : (((retrying s c b row first).chan c).bank b).failing = ((s.chan c).bank b).failing := by
  unfold retrying
  split
  · rw [bank_timing]
  · obtain ⟨act, -, hbank⟩ := bank_reactivate (s.timing c 3) c b row
    rw [hbank, bank_timing]

/-! ## What the retries come to (R325, R326) -/

section
variable (s : State) (c b blk : Nat) (o1 o2 : Bool)

/-- The state in which the retries of a read of block `blk` are over. -/
def triedAgain : State := retrying s c b (offRow (blk * 64)) (o1 && !s.failing blk)

theorem beside_triedAgain : Beside s (triedAgain s c b blk o1) := beside_retrying ..

theorem chk_triedAgain : ((triedAgain s c b blk o1).chan c).chk = (s.chan c).chk := chk_retrying ..

/-- After a first try that fails, the row is activated again, no earlier than precharging lets it. -/
theorem row_triedAgain : ∃ act, max s.col ((s.chan c).bank b).closeAt + 14 ≤ act
    ∧ ((triedAgain s c b blk false).chan c).bank b = { (s.chan c).bank b with openRow := some (offRow (blk * 64)), actAt := some act, wrAt := none } := by
  obtain ⟨act, hact, hbank⟩ := bank_reactivate (s.timing c 3) c b (offRow (blk * 64))
  rw [bank_timing] at hact hbank
  rw [show (s.timing c 3).col = s.col by rw [timing_only]; rfl] at hact
  exact ⟨act, hact, hbank⟩

variable {s c b blk o1 o2}

theorem retried_pass (bad : State → State) (hpass : o1 = true ∨ o2 = true) (hgood : s.failing blk = false) :
    s.retried c b blk o1 o2 bad = (triedAgain s c b blk o1).retriedOk c := if_pos (retryPasses_of_pass hpass hgood)

theorem retried_fail (bad : State → State) (hbad : s.failing blk = true) : s.retried c b blk o1 o2 bad = bad (triedAgain s c b blk o1) :=
  if_neg (Bool.eq_false_iff.1 (retryPasses_of_fail (Or.inr hbad)))

end

/-- From `s` to `t` a failure of a read for good has been counted in channel `c`, with its block and its source (R326). -/
structure FailNoted (s t : State) (c blk src : Nat) : Prop where
  beside : Beside s t
  chk : (t.chan c).chk = { (s.chan c).chk with readFail := satInc (s.chan c).chk.readFail 0xFFFF, lastBlk := blk % 2 ^ 25, lastSrc := src }
  alert : t.mg.alert.getLsbD 0 = true

/-- The count is the channel's that holds the block. -/
theorem readFail_spec (s : State) (blk src : Nat) (tag : W32) : FailNoted s (s.readFail blk src tag) (offChan (blk * 64)) blk src
    ∧ ((s.readFail blk src tag).chan (offChan (blk * 64))).banks = (s.chan (offChan (blk * 64))).banks := by
  unfold State.readFail
  extract_lets c n
  obtain ⟨hcheck, halert⟩ := checked_alerted s c (fun k => { k with readFail := satInc n 0xFFFF, lastBlk := blk % 2 ^ 25, lastSrc := src }) (bit := 0) (by decide) (s.blockRec 0 src blk tag) n
  refine ⟨⟨hcheck.beside.trans (beside_timing ..), (chk_timing ..).trans hcheck.chk, ?_⟩, ?_⟩
  · rw [timing_only]
    exact halert
  · rw [BankMemory.timing_chan, hcheck.2]

/-- What follows and leaves the checkers keeps the count. -/
theorem FailNoted.noted {s t u : State} {c blk src : Nat} (h : FailNoted s t c blk src) (hu : ChecksStand t u) :
    (u.chan c).chk.readFail = satInc (s.chan c).chk.readFail 0xFFFF ∧ (u.chan c).chk.lastBlk = blk % 2 ^ 25 ∧ (u.chan c).chk.lastSrc = src ∧ u.mg.alert.getLsbD 0 = true := by
  rw [hu.chk, h.chk, hu.mg]
  exact ⟨rfl, rfl, rfl, h.alert⟩

/-- The count once the retries are over. -/
theorem FailNoted.after {s t u : State} {c blk src : Nat} (h : FailNoted t u c blk src) (hst : Beside s t) (hchk : (t.chan c).chk = (s.chan c).chk) : FailNoted s u c blk src :=
  ⟨hst.trans h.beside, by rw [h.chk, hchk], h.alert⟩

theorem failNoted_triedAgain {s : State} {c b blk : Nat} {o1 : Bool} (hc : offChan (blk * 64) = c) (src : Nat) (tag : W32) :
    FailNoted s ((triedAgain s c b blk o1).readFail blk src tag) c blk src := by
  have h := (readFail_spec (triedAgain s c b blk o1) blk src tag).1
  rw [hc] at h
  exact h.after (beside_triedAgain s c b blk o1) (chk_triedAgain s c b blk o1)

/-! ## By whom the block is read -/

/-- Block `blk` lies in bank `b` of channel `c`, and the module owns its check. -/
def Held (s : State) (c : Chan) (b : BankIx) (blk : BitVec 34) : Prop :=
  offChan (blk.toNat * 64) = c.val ∧ offBank (blk.toNat * 64) = b.val ∧ s.hostOwned blk.toNat = false

section
variable {s : State} {c : Chan} {b : BankIx} {blk : BitVec 34} {o1 o2 : Bool}

theorem Held.here (h : Held s c b blk) : (decide (offChan (blk.toNat * 64) = c.val ∧ offBank (blk.toNat * 64) = b.val) && !s.hostOwned blk.toNat) = true := by
  obtain ⟨hc, hb, hown⟩ := h
  rw [decide_eq_true ⟨hc, hb⟩, hown]
  rfl

theorem exec_readRetry_scrubber (h : Held s c b blk) (hs : s.scrubs c = true) :
    exec (.readRetry c b (.scrubber blk) o1 o2) s = .next (s.retried c b blk.toNat o1 o2 fun t => t.scrubFail c blk.toNat) :=
  if_neg (by beta_reduce; rw [h.here, hs]; decide)

theorem exec_readRetry_slice (h : Held s c b blk) {sl : SliceId} (e : Engine) {l : LayerRun} (hl : (s.slice sl).layer = some l) :
    exec (.readRetry c b (.slice sl e blk) o1 o2) s = .next (s.retried c b blk.toNat o1 o2 fun t => t.sliceReadFails sl e blk.toNat) :=
  if_neg (by beta_reduce; rw [h.here, SliceSt.current, hl]; exact Bool.false_ne_true)

theorem exec_readRetry_sequencer (h : Held s c b blk) (r : Rec) (pos : CmdNo) :
    exec (.readRetry c b (.sequencer r pos blk) o1 o2) s = .next (s.retried c b blk.toNat o1 o2 fun t => t.seqReadFails c r pos blk.toNat) :=
  if_neg (by beta_reduce; rw [h.here]; decide)

theorem exec_readRetry_digest (h : Held s c b blk) (r : Rec) (pos : CmdNo) :
    exec (.readRetry c b (.digest r pos blk) o1 o2) s = .next (s.retried c b blk.toNat o1 o2 fun t => t.seqReadFails c r pos blk.toNat) :=
  if_neg (by beta_reduce; rw [h.here]; decide)

/-- A read of a running LAYER that fails for good. -/
theorem sliceReadFails_layer {t : State} (ht : Beside s t) {sl : SliceId} (e : Engine) {l : LayerRun} (hl : (s.slice sl).layer = some l) (blk : Nat) :
    t.sliceReadFails sl e blk = (t.readFail blk 1 l.tag).sliceFault sl e 0x20 (s.arrayDetail (blk * 64)) := by
  unfold State.sliceReadFails
  rw [ht.slice, hl, ht.arrayDetail]
  rfl

/-- A read of a command in flight that fails for good. -/
theorem seqReadFails_cmd {t : State} (ht : Beside s t) {r : Rec} {pos : CmdNo} {m : Cmd} (hm : s.cmd c r pos = some m) (hf : m.fault = none) (blk : Nat) :
    t.seqReadFails c r pos blk = (t.readFail blk 1 m.tag).cmdFault c r pos ⟨0x20, 0, .bx, BitVec.ofNat 64 (s.arrayDetail (blk * 64))⟩ := by
  unfold State.seqReadFails State.seqFault
  rw [ht.cmd, hm, ht.arrayDetail]
  exact if_neg (by rw [hf]; decide)

end

section
variable {s : State} {c : Chan} {b : BankIx} {blk : BitVec 34} {o1 o2 : Bool} (h : Held s c b blk) (hbad : s.failing blk.toNat = true)
include h hbad

/-- R326: the slice's operation faults, and the failure is counted. -/
theorem readRetry_slice_fails {sl : SliceId} (e : Engine) {l : LayerRun} (hl : (s.slice sl).layer = some l) :
    ∃ t, exec (.readRetry c b (.slice sl e blk) o1 o2) s = .next (t.sliceFault sl e 0x20 (s.arrayDetail (blk.toNat * 64))) ∧ FailNoted s t c blk.toNat 1 := by
  refine ⟨_, ?_, failNoted_triedAgain (b := b) (o1 := o1) h.1 1 l.tag⟩
  rw [exec_readRetry_slice h e hl, retried_fail _ hbad, sliceReadFails_layer (beside_triedAgain ..) e hl]

/-- R326: a read of the sequencer or of the digest engine faults its command, and the failure is counted. -/
theorem seqReadFails_spec {r : Rec} {pos : CmdNo} {m : Cmd} (hm : s.cmd c r pos = some m) (hs : sound m) :
    ran (.next (s.retried c b blk.toNat o1 o2 fun t => t.seqReadFails c r pos blk.toNat)) fun t =>
      ((t.chan c).chk.readFail = satInc (s.chan c).chk.readFail 0xFFFF ∧ (t.chan c).chk.lastBlk = blk.toNat % 2 ^ 25 ∧ (t.chan c).chk.lastSrc = 1 ∧ t.mg.alert.getLsbD 0 = true)
        ∧ (t.cmd c r pos).bind (·.fault) = some ⟨0x20, 0, .bx, BitVec.ofNat 64 (s.arrayDetail (blk.toNat * 64))⟩ := by
  have hnoted := failNoted_triedAgain (s := s) (b := b) (o1 := o1) h.1 1 m.tag
  refine ⟨_, rfl, ?_⟩
  rw [retried_fail _ hbad, seqReadFails_cmd (beside_triedAgain ..) hm hs.2.2]
  refine ⟨hnoted.noted (checksStand_cmdFault ..), ?_⟩
  rw [SliceCode.cmdFault_cmd _ ((hnoted.beside.cmd c r pos).trans hm) hs]
  rfl

end

/-! ## The host's reads (R325, R326) -/

theorem replied_answerReq (s : State) (c id : Nat) (st : Status) (data : List Byte) (check : W32) : replied s (s.answerReq c id st data check) c id st data check :=
  congrArg LaneGroup.out (PreolmondLink.group_modGroup_same s (groupOf c) _)

section
variable {s : State} {c : Chan} {b : BankIx} {q : BankReq} {o1 o2 : Bool}

/-- The state in which the retries of the host's request `q` are over, and its bank goes on. -/
def hostTriedAgain (s : State) (c : Chan) (b : BankIx) (q : BankReq) (o1 : Bool) : State :=
  retrying (s.modBank c b fun k => { k with failing := none }) c b q.row (o1 && !s.failing q.blk)

theorem beside_hostTriedAgain : Beside s (hostTriedAgain s c b q o1) := (beside_modChan rfl).trans (beside_retrying ..)

theorem chk_hostTriedAgain : ((hostTriedAgain s c b q o1).chan c).chk = (s.chan c).chk := by
  rw [hostTriedAgain, chk_retrying, State.modBank, chan_modChan_same]
  rfl

theorem failing_hostTriedAgain : (((hostTriedAgain s c b q o1).chan c).bank b).failing = none := by
  rw [hostTriedAgain, failing_retrying, PreolmondLink.bank_modBank_same]

theorem exec_readRetry_host (hq : ((s.chan c).bank b).failing = some q) :
    exec (.readRetry c b .host o1 o2) s =
      let t := hostTriedAgain s c b q o1
      .next (if s.retryPasses q.blk o1 o2 = true then (t.retriedOk c).complete c q else t.completeBad c q) := by
  have hnoted : Beside s ((s.modBank c b fun k => { k with failing := none }).timing c 3) := (beside_modChan rfl).trans (beside_timing ..)
  have hpasses : (hostTriedAgain s c b q o1).retryPasses q.blk o1 o2 = s.retryPasses q.blk o1 o2 := by
    rw [State.retryPasses, beside_hostTriedAgain.failing]
    rfl
  show execReadRetry c b .host o1 o2 s = _
  simp only [execReadRetry, hq, hnoted.failing, ← hpasses]
  exact (apply_ite Host.Outcome.next ..).symm

/-- A read of the host whose retry passes. -/
theorem readRetry_host_passes (hq : ((s.chan c).bank b).failing = some q) (hread : q.isWrite = false) (hpass : o1 = true ∨ o2 = true) (hgood : s.failing q.blk = false) :
    ran (exec (.readRetry c b .host o1 o2) s) fun t => ((t.chan c).bank b).failing = none ∧ replied s t c q.id .ok (s.blockData q.blk) (s.checkWord q.blk)
      ∧ (t.chan c).chk.retriedOk = satInc (s.chan c).chk.retriedOk 0xFFFF ∧ t.mem = s.mem := by
  have hok := checked_retriedOk (hostTriedAgain s c b q o1) c
  have hbeside := beside_hostTriedAgain.trans hok.beside
  rw [chk_hostTriedAgain] at hok
  refine ⟨_, (exec_readRetry_host hq).trans (congrArg _ ((if_pos (retryPasses_of_pass hpass hgood)).trans (if_neg (Bool.eq_false_iff.1 hread)))), ?_, ?_, ?_, hbeside.mem⟩
  · show ((((hostTriedAgain s c b q o1).retriedOk c).chan c).bank b).failing = none
    rw [hok.2]
    exact failing_hostTriedAgain
  · rw [hbeside.blockData, hbeside.checkWord]
    exact (replied_answerReq ..).trans (by rw [hbeside.group])
  · exact congrArg CheckSt.retriedOk hok.chk

/-- A read of the host that fails for good is answered CHECK_FAIL. -/
theorem readRetry_host_fails (hq : ((s.chan c).bank b).failing = some q) (hread : q.isWrite = false) (hbad : ¬ (o1 = true ∨ o2 = true) ∨ s.failing q.blk = true)
    (hc : offChan (q.blk * 64) = c.val) :
    ran (exec (.readRetry c b .host o1 o2) s) fun t => ((t.chan c).bank b).failing = none ∧ replied s t c q.id .checkFail (List.replicate 64 0) (crc32c (List.replicate 64 0))
      ∧ (t.chan c).chk.readFail = satInc (s.chan c).chk.readFail 0xFFFF ∧ (t.chan c).chk.lastSrc = 2 ∧ t.mg.alert.getLsbD 0 = true ∧ t.mem = s.mem := by
  obtain ⟨hnoted, hbanks⟩ := readFail_spec (hostTriedAgain s c b q o1) q.blk 2 0
  rw [hc] at hnoted hbanks
  obtain ⟨hfail, -, hsrc, halert⟩ := (hnoted.after beside_hostTriedAgain chk_hostTriedAgain).noted (checksStand_refl _)
  have hbeside := beside_hostTriedAgain.trans hnoted.beside
  refine ⟨_, (exec_readRetry_host hq).trans (congrArg _ ((if_neg (Bool.eq_false_iff.1 (retryPasses_of_fail hbad))).trans (if_neg (Bool.eq_false_iff.1 hread)))),
    ?_, ?_, hfail, hsrc, halert, hbeside.mem⟩
  · exact (congrArg BankSt.failing (BankMemory.bank_congr hbanks b)).trans failing_hostTriedAgain
  · exact (replied_answerReq ..).trans (by rw [hbeside.group]; rfl)

end

end Sys2Proof.Detection
end

section
/-! SUPPORT. Transit and settle notices (12 R330, R333, R334). -/

namespace Sys2Proof.Detection
open Sys2Proof Sys2Proof.Machine

/-! ## A payload that fails once (R334) -/

theorem exec_payloadReceive {s : State} (c : Chan) (hop : Hop) {g : Cargo} (hg : s.carried g = true) :
    exec (.payloadReceive c hop g false) s = .next ((s.modChk c fun k => { k with resend := k.resend ++ [(hop, g)] }).timing c 3) :=
  if_neg (by rw [hg]; decide)

theorem ran_payloadReceive {s : State} (c : Chan) (hop : Hop) {g : Cargo} (hg : s.carried g = true) :
    ran (exec (.payloadReceive c hop g false) s) fun t => onlyChan s t c ∧ (t.chan c).chk = { (s.chan c).chk with resend := (s.chan c).chk.resend ++ [(hop, g)] }
      ∧ (s.port.strict = true → (t.chan c).strictCause = (s.chan c).strictCause ||| 0b001000#6) ∧ (s.port.strict = false → t.chan c = { s.chan c with chk := (t.chan c).chk }) := by
  obtain ⟨honly, hchan⟩ := checked_modChk s c fun k => { k with resend := k.resend ++ [(hop, g)] }
  refine ⟨_, exec_payloadReceive c hop hg, BankMemory.onlyChan_trans honly (BankMemory.onlyChan_timing _ c 3), ?_, fun hstrict => ?_, fun hstrict => ?_⟩
  · rw [chk_timing, hchan]
  · rw [StrictMode.timing_of_strict (s := s.modChk c _) hstrict, chan_modChan_same, hchan]
    rfl
  · rw [show State.timing (s.modChk c _) c 3 = s.modChk c _ from if_neg (Bool.eq_false_iff.1 hstrict), hchan]

/-! ## A payload that fails twice (R333, R334) -/

theorem banksStand_timing (s : State) (c i : Nat) : Commands.BanksStand s (s.timing c i) := by
  unfold State.timing
  split
  · exact Commands.banksStand_modChan rfl
  · exact ⟨rfl, rfl, fun _ => rfl⟩

theorem carried_modChk (s : State) (c : Nat) (f : CheckSt → CheckSt) (g : Cargo) : (s.modChk c f).carried g = s.carried g := by
  have hcmd := (checked_modChk s c f).beside.cmd
  cases g with
  | command d r pos =>
    simp only [State.carried, hcmd]
  | slice sl e =>
    simp only [State.carried, hcmd]
    rfl
  | hostRead g tag => rfl
  | hostWrite blk =>
    have hbanks : ∀ k, ((s.modChk c f).chan k).banks = (s.chan k).banks := (Commands.banksStand_modChan rfl).banks
    simp only [State.carried, BankMemory.bank_congr (hbanks _)]

/-- From `s` to `t` the oldest payload asked for again has been dropped as failed: what of channel `c` is still asked for is `more`. -/
structure Dropped (s t : State) (c : Nat) (more : List (Hop × Cargo)) : Prop where
  beside : Beside s t
  banks : ∀ k, (t.chan k).banks = (s.chan k).banks
  resend : (t.chan c).chk.resend = more
  transit : (t.chan c).chk.transit = satInc (s.chan c).chk.transit 0xFFFF
  alert : t.mg.alert.getLsbD 2 = true

theorem exec_transitResend_good {s : State} {c : Chan} {p : Hop × Cargo} {more : List (Hop × Cargo)} (h : (s.chan c).chk.resend = p :: more) :
    exec (.transitResend c true) s = .next (s.modChk c fun k => { k with resend := more }) := by
  show execTransitResend c true s = _
  unfold execTransitResend
  rw [h]
  rfl

/-- A payload that failed twice, counted with its alert and the mark of broken timing. -/
def transitCounted (s : State) (c : Chan) (n : Nat) (e : ErrRec) : State :=
  (((s.modChk c fun k => { k with transit := satInc n 0xFFFF, lastSrc := 5 }).alert 2 e).noteSat n 0xFFFF c).timing c 3

theorem banks_transitCounted (s : State) (c : Chan) (n : Nat) (e : ErrRec) (k : Nat) : ((transitCounted s c n e).chan k).banks = (s.chan k).banks := by
  unfold transitCounted
  rw [(banksStand_timing _ c 3).banks, BankMemory.noteSat_chan, State.alert_read_chan]
  exact (Commands.banksStand_modChan rfl).banks k

theorem exec_transitResend_failed {s : State} {c : Chan} {hop : Hop} {g : Cargo} {more : List (Hop × Cargo)} (h : (s.chan c).chk.resend = (hop, g) :: more)
    (hg : s.carried g = true) : ∃ t, exec (.transitResend c false) s = .next (t.undelivered c hop g) ∧ Dropped s t c more := by
  have hfirst := checked_modChk s c fun k => { k with resend := more }
  generalize hu : (s.modChk c fun k => { k with resend := more }) = u at hfirst
  have hgo : ¬ (false || !u.carried g) = true := by rw [← hu, carried_modChk, hg]; decide
  obtain ⟨e, hexec⟩ : ∃ e, exec (.transitResend c false) s = .next ((transitCounted u c (u.chan c).chk.transit e).undelivered c hop g) := by
    refine ⟨{ plainRec 2 c 0 with source := 5, tag := u.cargoTag g, address := BitVec.ofNat 40 (hopDetail c hop % 2 ^ 32) }, ?_⟩
    show execTransitResend c false s = _
    unfold execTransitResend
    rw [h]
    dsimp only
    rw [hu]
    exact if_neg hgo
  obtain ⟨hcheck, halert⟩ := checked_alerted u c (fun k => { k with transit := satInc (u.chan c).chk.transit 0xFFFF, lastSrc := 5 }) (bit := 2) (by decide) e (u.chan c).chk.transit
  refine ⟨_, hexec, (hfirst.trans hcheck).beside.trans (beside_timing _ c 3), fun k => (banks_transitCounted ..).trans ?_, ?_, ?_, ?_⟩
  · rw [← hu]
    exact (Commands.banksStand_modChan rfl).banks k
  · rw [transitCounted, chk_timing, hcheck.chk, hfirst.chk]
  · rw [transitCounted, chk_timing, hcheck.chk, hfirst.chk]
  · rw [transitCounted, timing_only]
    exact halert

/-! ## What is not delivered (R333, R334) -/

/-- Whatever a payload's loss does, it leaves the checkers and the management domain. -/
theorem checksStand_undelivered (s : State) (c : Nat) (hop : Hop) (g : Cargo) : ChecksStand s (s.undelivered c hop g) := by
  unfold State.undelivered
  split
  · split
    · exact checksStand_cmdFault ..
    · exact checksStand_refl s
  · split
    · exact checksStand_sliceFault ..
    · split
      · exact checksStand_cmdFault ..
      · exact checksStand_refl s
  · exact ⟨fun _ => rfl, rfl⟩
  · exact checksStand_modChan rfl

/-- The loss stays counted. -/
theorem Dropped.failed {s t u : State} {c : Nat} {more : List (Hop × Cargo)} (h : Dropped s t c more) (hu : ChecksStand t u) :
    (u.chan c).chk.resend = more ∧ (u.chan c).chk.transit = satInc (s.chan c).chk.transit 0xFFFF ∧ u.mg.alert.getLsbD 2 = true := by
  rw [hu.chk, hu.mg]
  exact ⟨h.resend, h.transit, h.alert⟩

theorem undelivered_layer {t : State} (c : Nat) (hop : Hop) {sl : SliceId} (e : Engine) {l : LayerRun} (hl : (t.slice sl).layer = some l) :
    t.undelivered c hop (.slice sl e) = t.sliceFault sl e 0x20 (hopDetail c hop) := if_pos (by rw [hl]; rfl)

theorem undelivered_cmd {t : State} (c : Nat) (hop : Hop) {d : Chan} {r : Rec} {pos : CmdNo} {m : Cmd} (hm : t.cmd d r pos = some m) :
    t.undelivered c hop (.command d r pos) = t.cmdFault d r pos ⟨0x20, m.transferSlice, .bx, BitVec.ofNat 64 (hopDetail c hop)⟩ := by
  simp only [State.undelivered, hm]
  rfl

theorem undelivered_hostWrite (t : State) (c : Nat) (hop : Hop) (blk : BitVec 34) :
    (((t.undelivered c hop (.hostWrite blk)).chan (offChan (blk.toNat * 64))).bank (offBank (blk.toNat * 64))).queue
      = loseFirst blk.toNat ((t.chan (offChan (blk.toNat * 64))).bank (offBank (blk.toNat * 64))).queue :=
  congrArg BankSt.queue (PreolmondLink.bank_modBank_same t _ _ _)

theorem undelivered_hostRead (t : State) (c : Nat) (hop : Hop) (grp : Group) (tag : W16) :
    ((t.undelivered c hop (.hostRead grp tag)).group grp).out = (t.group grp).out.map fun o =>
      if o.tag = tag ∧ o.chan = some c then { o with status := some .checkFail, data := List.replicate 64 0, check := crc32c (List.replicate 64 0) } else o :=
  congrArg LaneGroup.out (PreolmondLink.group_modGroup_same t grp _)

/-! ## Settle notices (R330) -/

/-- An entry of a writer log once notice `n` has come to its channel. -/
def noticed (n : Chan × Chan × Rec × Byte × W32) (e : WLog) : WLog := if e.names n.2.2.2.2 n.1 n.2.2.1 n.2.2.2.1 then { e with pend := false } else e

theorem exec_settleNotice {s : State} {c : Chan} {n : Chan × Chan × Rec × Byte × W32} (h : s.settleQ.find? (fun q => q.2.1 = c) = some n) :
    exec (.settleNotice c) s = .next ({ s with settleQ := dropFirst n s.settleQ }.modChan c fun ch => { ch with wlog := tmap ch.wlog fun _ => noticed n }) := by
  show execSettleNotice c s = _
  unfold execSettleNotice
  rw [h]
  rfl

/-- The oldest notice for the channel is taken, and each entry of its writer log answers for itself. -/
theorem ran_settleNotice {s : State} {c : Chan} {n : Chan × Chan × Rec × Byte × W32} (h : s.settleQ.find? (fun q => q.2.1 = c) = some n) (k : Nat) :
    ran (exec (.settleNotice c) s) fun t => t.settleQ = dropFirst n s.settleQ ∧ tfind (t.chan c).wlog k = (tfind (s.chan c).wlog k).map (noticed n) ∧ t.mem = s.mem := by
  refine ⟨_, exec_settleNotice h, rfl, ?_, rfl⟩
  rw [chan_modChan_same]
  exact tfind_tmap (s.chan c).wlog (fun _ => noticed n) k

/-- Settles O31: the retries come to a pass counted, or to a failure counted with the fault or the answer it has; a payload is asked for once again, then
dropped; a settle notice changes each entry of the writer log by itself. -/
theorem readRetriesAndSettling : Obligations.ReadRetriesAndSettling := by
  unfold Obligations.ReadRetriesAndSettling
  refine ⟨?retries, ?transit⟩
  case retries =>
    intro s c b q sl e blk r pos m o1 o2 ch pass held noted
    refine ⟨readRetry_host_passes, readRetry_host_fails, fun hq => ?noRequest, fun hheld hs hpass hgood => ?scrubPass,
      fun hheld hbad => ⟨?sliceFault, fun hl => ?sliceNoted, fun hm hsound => ⟨?sequencer, ?digest⟩, fun hs => ?scrubFail⟩,
      fun hheld hs => ?scrubIdle, fun hheld ho hpass hgood hs => ?activated⟩
    case noRequest =>
      show execReadRetry c b .host o1 o2 s = _
      simp only [execReadRetry, show ((s.chan c).bank b).failing = none from hq]
    case scrubPass =>
      have hok := checked_retriedOk (triedAgain s c b blk.toNat o1) c
      rw [chk_triedAgain] at hok
      refine ⟨_, (exec_readRetry_scrubber hheld hs).trans (congrArg _ (retried_pass _ hpass hgood)), ?_, ((beside_triedAgain ..).trans hok.beside).slices⟩
      rw [hok.chk]
    case sliceFault =>
      intro l m hl hm hsound
      obtain ⟨t, ht, hnoted⟩ := readRetry_slice_fails hheld hbad e hl
      rw [ht]
      exact SliceCode.faults_of_faulting (hnoted.beside.faulting sl e) _ _ l m hl hm hsound
    case sliceNoted =>
      obtain ⟨l, hl⟩ := Option.isSome_iff_exists.1 hl
      obtain ⟨t, ht, hnoted⟩ := readRetry_slice_fails hheld hbad e hl
      exact ⟨_, ht, hnoted.noted (checksStand_sliceFault ..)⟩
    case sequencer =>
      rw [exec_readRetry_sequencer hheld]
      exact seqReadFails_spec hheld hbad hm hsound
    case digest =>
      rw [exec_readRetry_digest hheld]
      exact seqReadFails_spec hheld hbad hm hsound
    case scrubFail =>
      obtain ⟨hfail, halert⟩ := scrubFail_spec (triedAgain s c b blk.toNat o1) c blk.toNat
      rw [chk_triedAgain] at hfail
      refine ⟨_, (exec_readRetry_scrubber hheld hs).trans (congrArg _ (retried_fail _ hbad)), ?_, ?_, halert⟩
      · rw [hfail.chk]
      · rw [hfail.chk]
    case scrubIdle => exact if_pos (by rw [hs, Bool.not_false, Bool.or_true])
    case activated =>
      have hok := checked_retriedOk (triedAgain s c b blk.toNat o1) c
      obtain ⟨act, hact, hbank⟩ := row_triedAgain s c b blk.toNat
      rw [← ho] at hbank
      have hrow := (congrArg (Channel.bank · b) hok.2).trans hbank
      refine ⟨_, (exec_readRetry_scrubber hheld hs).trans (congrArg _ (retried_pass _ hpass hgood)), congrArg BankSt.openRow hrow, congrArg BankSt.wrAt hrow, fun a ha => ?_⟩
      obtain rfl : act = a := Option.some.inj ((congrArg BankSt.actAt hrow).symm.trans ha)
      exact hact
  case transit =>
    intro s c hop g sl e grp tag n k more d r pos m blk ch detail failed
    refine ⟨rfl, fun hg => ?notCarried, ran_payloadReceive c hop, fun hr => ?noResend, fun hr => ?good, fun hr hg => ⟨?sliceFault, ?sliceFailed⟩,
      fun hr hg hm hsound => ?command, fun hr hg => ?hostWrite, fun hr hg => ?hostRead, fun hn => ?settle⟩
    case notCarried => exact if_pos (by rw [hg]; rfl)
    case noResend =>
      show execTransitResend c true s = _
      simp only [execTransitResend, show (s.chan c).chk.resend = [] from hr]
    case good => exact ⟨_, exec_transitResend_good hr, checked_modChk s c fun k => { k with resend := more }⟩
    case sliceFault =>
      intro l m hl hm hsound
      obtain ⟨t, ht, hdropped⟩ := exec_transitResend_failed hr hg
      rw [ht, undelivered_layer c hop e ((congrArg SliceSt.layer (hdropped.beside.slice sl)).trans hl)]
      exact SliceCode.faults_of_faulting (hdropped.beside.faulting sl e) _ _ l m hl hm hsound
    case sliceFailed =>
      obtain ⟨t, ht, hdropped⟩ := exec_transitResend_failed hr hg
      exact ⟨_, ht, hdropped.failed (checksStand_undelivered ..)⟩
    case command =>
      obtain ⟨t, ht, hdropped⟩ := exec_transitResend_failed hr hg
      have hmt : t.cmd d r pos = some m := (hdropped.beside.cmd d r pos).trans hm
      refine ⟨_, ht, hdropped.failed (checksStand_undelivered ..), ?_⟩
      rw [undelivered_cmd c hop hmt, SliceCode.cmdFault_cmd _ hmt hsound]
      rfl
    case hostWrite =>
      obtain ⟨t, ht, hdropped⟩ := exec_transitResend_failed hr hg
      refine ⟨_, ht, hdropped.failed (checksStand_undelivered ..), hdropped.beside.mem, ?_⟩
      rw [undelivered_hostWrite, BankMemory.bank_congr (hdropped.banks _)]
    case hostRead =>
      obtain ⟨t, ht, hdropped⟩ := exec_transitResend_failed hr hg
      refine ⟨_, ht, hdropped.failed (checksStand_undelivered ..), ?_⟩
      rw [undelivered_hostRead, hdropped.beside.group]
    case settle =>
      obtain ⟨t, ht, hqueue, hlog, hmem⟩ := ran_settleNotice hn k
      exact ⟨t, ht, hqueue, fun w hw => hlog.trans (congrArg _ hw), fun hnone => hlog.trans (congrArg _ hnone), hmem⟩

end Sys2Proof.Detection
end

section
/-!
SUPPORT. The canonical form of data space (log 7) as a predicate of states, results and what an operation of BX comes to, and how it goes through a
state's update: a record that leaves `mem`, a branch, a fold. Bytes are written by `wrL` and `wr` alone, which keep the form (`wf_wrL`, `wf_wr`).
-/
namespace Sys2Proof.MemoryForm
open Sys2Proof Sys2Proof.Machine

/-- Data space is in its canonical form. -/
def Canonical (s : State) : Prop := Memory.wf s.mem = true

/-- A row's next state, where it has one, has a canonical data space. -/
def Keeps (r : Result) : Prop := ∀ t, r = .next t → Canonical t

/-- The state that an operation of BX leaves has a canonical data space. -/
def Holds (r : BxOut) : Prop := match r with
  | .done s => Canonical s
  | .hold s _ => Canonical s
  | .again s => Canonical s
  | .wait s _ _ => Canonical s
  | .fault s _ _ => Canonical s

variable {s : State}

theorem Canonical.of_mem {t : State} (h : Canonical s) (e : t.mem = s.mem) : Canonical t := by
  rw [Canonical, e]; exact h

theorem Canonical.written (h : Canonical s) (bs : List Byte) (a : Nat) : Canonical { s with mem := wrL s.mem a bs } := wf_wrL bs s.mem a h

theorem Canonical.of_wr (h : Canonical s) (a : Nat) (v : Byte) : Canonical { s with mem := wr s.mem a v } := wf_wr s.mem a v h

theorem Canonical.ite {c : Prop} [Decidable c] {a b : State} (ha : Canonical a) (hb : Canonical b) : Canonical (if c then a else b) := by
  split <;> assumption

theorem Canonical.ite_fst {β : Type} {c : Prop} [Decidable c] {a b : State × β} (ha : Canonical a.1) (hb : Canonical b.1) :
    Canonical (if c then a else b).1 := by
  split <;> assumption

theorem Canonical.ite_snd {β : Type} {c : Prop} [Decidable c] {a b : β × State} (ha : Canonical a.2) (hb : Canonical b.2) :
    Canonical (if c then a else b).2 := by
  split <;> assumption

theorem Canonical.ite_s {c : Prop} [Decidable c] {a b : Fusing} (ha : Canonical a.s) (hb : Canonical b.s) : Canonical (if c then a else b).s := by
  split <;> assumption

theorem Canonical.ite_merge {c : Prop} [Decidable c] {a b : MergeSt} (ha : Canonical a.s) (hb : Canonical b.s) : Canonical (if c then a else b).s := by
  split <;> assumption

/-- A fold keeps the form when its step does, whatever the state is a part of. -/
theorem Canonical.foldl_of {α β : Type} {p : β → State} {f : β → α → β} {l : List α} (hf : ∀ t a, Canonical (p t) → Canonical (p (f t a))) {b : β}
    (h : Canonical (p b)) : Canonical (p (l.foldl f b)) := by
  induction l generalizing b with
  | nil => exact h
  | cons a l ih => exact ih (hf b a h)

theorem Canonical.foldl {α : Type} {f : State → α → State} {l : List α} (hf : ∀ t a, Canonical t → Canonical (f t a)) (h : Canonical s) :
    Canonical (l.foldl f s) :=
  Canonical.foldl_of (p := id) hf h

theorem Canonical.foldl_fst {α β : Type} {f : State × β → α → State × β} {l : List α} {b : β}
    (hf : ∀ t a, Canonical t.1 → Canonical (f t a).1) (h : Canonical s) : Canonical (l.foldl f (s, b)).1 :=
  Canonical.foldl_of (p := Prod.fst) hf h

theorem Canonical.foldl_merge {α : Type} {f : MergeSt → α → MergeSt} {l : List α} {m : MergeSt} (hf : ∀ t a, Canonical t.s → Canonical (f t a).s)
    (h : Canonical m.s) : Canonical (l.foldl f m).s :=
  Canonical.foldl_of (p := MergeSt.s) hf h

theorem Canonical.foldl_merge_mk {α : Type} {f : MergeSt → α → MergeSt} {l : List α} {bad : List (Nat × Nat)} {n k : Nat}
    (hf : ∀ t a, Canonical t.s → Canonical (f t a).s) (h : Canonical s) : Canonical (l.foldl f ⟨s, bad, n, k⟩).s :=
  Canonical.foldl_merge hf h

theorem Canonical.forN {n : Nat} {f : Nat → State → State} (hf : ∀ i t, Canonical t → Canonical (f i t)) (h : Canonical s) :
    Canonical (Machine.forN n f s) :=
  Canonical.foldl (fun t i ht => hf i t ht) h

theorem Keeps.next {t : State} (h : Canonical t) : Keeps (.next t) := fun _ e => Host.Outcome.next.inj e ▸ h

theorem Keeps.refused {x : Refusal} : Keeps (.refused x) := fun _ e => nomatch e

theorem Keeps.ite {c : Prop} [Decidable c] {a b : Result} (ha : Keeps a) (hb : Keeps b) : Keeps (if c then a else b) := by
  split <;> assumption

theorem Holds.ite {c : Prop} [Decidable c] {a b : BxOut} (ha : Holds a) (hb : Holds b) : Holds (if c then a else b) := by
  split <;> assumption

/-! ## State -/

theorem Canonical.reset : Canonical State.reset := rfl

/-! ## Ops -/

theorem Canonical.modChan {c : Nat} {f : Channel → Channel} (h : Canonical s) : Canonical (s.modChan c f) := .of_mem h rfl

theorem Canonical.modSlice {sl : SliceId} {f : SliceSt → SliceSt} (h : Canonical s) : Canonical (s.modSlice sl f) := .of_mem h rfl

theorem Canonical.modGroup {g : Nat} {f : LaneGroup → LaneGroup} (h : Canonical s) : Canonical (s.modGroup g f) := .of_mem h rfl

theorem Canonical.modPort {f : PortSt → PortSt} (h : Canonical s) : Canonical (s.modPort f) := .of_mem h rfl

theorem Canonical.modMg {f : MgSt → MgSt} (h : Canonical s) : Canonical (s.modMg f) := .of_mem h rfl

theorem Canonical.modBoot {f : BootSt → BootSt} (h : Canonical s) : Canonical (s.modBoot f) := .of_mem h rfl

theorem Canonical.modSc {f : SecSt → SecSt} (h : Canonical s) : Canonical (s.modSc f) := .of_mem h rfl

theorem Canonical.modLedger {f : LedgerSt → LedgerSt} (h : Canonical s) : Canonical (s.modLedger f) := .of_mem h rfl

theorem Canonical.modBank {c b : Nat} {f : BankSt → BankSt} (h : Canonical s) : Canonical (s.modBank c b f) := h.modChan

theorem Canonical.modCtx {c r : Nat} {f : Ctx → Ctx} (h : Canonical s) : Canonical (s.modCtx c r f) := h.modChan

theorem Canonical.modCmd {c r pos : Nat} {f : Cmd → Cmd} (h : Canonical s) : Canonical (s.modCmd c r pos f) := h.modCtx

theorem Canonical.modObj {o : ObjRef} {f : SyncObj → SyncObj} (h : Canonical s) : Canonical (s.modObj o f) := by
  unfold State.modObj
  split
  · exact h.modChan
  · exact .of_mem h rfl

theorem Canonical.alert {bit : Nat} {e : ErrRec} (h : Canonical s) : Canonical (s.alert bit e) := h.modMg

theorem Canonical.noteSat {old limit c : Nat} (h : Canonical s) : Canonical (s.noteSat old limit c) := .ite h.alert h

theorem Canonical.secEvent {code : Nat} (h : Canonical s) : Canonical (s.secEvent code) := h.modSc.alert.noteSat

theorem Canonical.traceEv {tag : W32} {c r event info : Nat} (h : Canonical s) : Canonical (s.traceEv tag c r event info) :=
  .ite h.modMg (.ite h.modBoot.noteSat h)

theorem Canonical.timing {c i : Nat} (h : Canonical s) : Canonical (s.timing c i) := .ite h.modChan h

theorem Canonical.draw {n : Nat} (h : Canonical s) : Canonical (s.draw n).2 := .of_mem h rfl

theorem Canonical.modPwr {c : Nat} {f : ChPower → ChPower} (h : Canonical s) : Canonical (s.modPwr c f) := h.modChan

theorem Canonical.modDom {d : Domain} {f : PowerDom → PowerDom} (h : Canonical s) : Canonical (s.modDom d f) := by
  unfold State.modDom
  split
  · exact h.modBank
  · exact h.modPwr
  · exact h.modMg
  · exact h.modMg
  · exact h.modMg
  · exact h.modMg

theorem Canonical.refuse {d : Domain} {code : Nat} (h : Canonical s) : Canonical (s.refuse d code) := h.modDom.noteSat

theorem Canonical.wake1 {d : Domain} {t : PState} (h : Canonical s) : Canonical (s.wake1 d t) := .ite h.modDom.noteSat (.ite h.modDom h)

theorem Canonical.wake {d : Domain} (h : Canonical s) : Canonical (s.wake d) := by
  cases d with
  | channel c => exact .wake1 (.ite h h.wake1)
  | link => exact .wake1 (.ite h h.wake1)
  | bank c b => exact h.wake1
  | switch => exact h.wake1
  | management => exact h.wake1
  | security => exact h.wake1

theorem Canonical.stir {d : Domain} (h : Canonical s) : Canonical (s.stir d) := .ite h.modDom h

/-! ## Clock -/

theorem Canonical.tick (h : Canonical s) : Canonical s.tick := .ite (.of_mem h rfl) h

/-! ## Operands -/

theorem Canonical.perfAdd {sl : SliceId} {j n : Nat} (h : Canonical s) : Canonical (s.perfAdd sl j n) :=
  .ite (.ite h.modSlice (.ite h.modSlice h.modSlice.alert)) h

theorem Canonical.requestStop {c r pos : Nat} (h : Canonical s) : Canonical (s.requestStop c r pos) := by
  unfold State.requestStop
  split
  · exact h
  · exact .foldl (fun _ _ h1 => h1.modSlice) h

theorem Canonical.cmdFault {c r pos : Nat} {f : FaultInfo} (h : Canonical s) : Canonical (s.cmdFault c r pos f) := by
  unfold State.cmdFault
  split
  · exact h
  · exact .ite h h.modCmd.requestStop

theorem Canonical.sliceFault {sl : SliceId} {e : Engine} {cause detail : Nat} (h : Canonical s) : Canonical (s.sliceFault sl e cause detail) := by
  unfold State.sliceFault
  split
  · exact h
  · exact h.modSlice.cmdFault

theorem Canonical.parityErr {c : Nat} {tag : W32} {src : Nat} (h : Canonical s) : Canonical (s.parityErr c tag src) := h.modChan.alert.noteSat

theorem Canonical.putSlice {sl : SliceId} {x : SliceSt} (h : Canonical s) : Canonical (s.putSlice sl x) := .of_mem h rfl

/-- What an issue that does not go through leaves. -/
theorem Canonical.issueAt {sl : SliceId} {e : Engine} {t : State} (h : Canonical s) (he : s.issueAt sl e = .no t) : Canonical t := by
  unfold State.issueAt at he
  dsimp only at he
  split at he
  · exact Issue.no.inj he ▸ h
  · split at he
    · exact Issue.no.inj he ▸ h
    · split at he
      · exact Issue.no.inj he ▸ h.sliceFault
      · split at he
        · exact Issue.no.inj he ▸ h.modSlice
        · exact nomatch he

theorem Canonical.await {sl : SliceId} {x : SliceSt} {e : Engine} {k : Fin 16} {n : Nat} (h : Canonical s) :
    Canonical (s.await sl x e k n) :=
  h.putSlice

theorem Canonical.issued {sl : SliceId} {e : Engine} {n : Nat} (h : Canonical s) : Canonical (s.issued sl e n) := by
  unfold State.issued
  split
  · exact h.perfAdd
  · exact h.perfAdd
  · exact h
  · exact h.perfAdd

theorem Canonical.runOpBy {sl : SliceId} {e : Engine} {cost : Nat} {f : SliceSt → LayerRun → OpOut} (h : Canonical s) :
    Canonical (s.runOpBy sl e cost f) := by
  unfold State.runOpBy
  split
  · exact h.issueAt ‹_›
  · split
    · exact h.putSlice.issued
    · exact h.await.issued
    · exact .sliceFault (.ite h.putSlice.issued.parityErr h.putSlice.issued)

theorem Canonical.runOp {sl : SliceId} {e : Engine} {f : SliceSt → LayerRun → OpOut} (h : Canonical s) : Canonical (s.runOp sl e f) := h.runOpBy

/-! ## Array -/

theorem Canonical.setDiff {blk : Nat} {d : W32} (h : Canonical s) : Canonical (s.setDiff blk d) := .of_mem h rfl

theorem Canonical.logWrite {a : Nat} {w : Writer} (h : Canonical s) : Canonical (s.logWrite a w) := h.modChan

theorem Canonical.modChk {c : Nat} {f : CheckSt → CheckSt} (h : Canonical s) : Canonical (s.modChk c f) := h.modChan

theorem Canonical.readFail {blk src : Nat} {tag : W32} (h : Canonical s) : Canonical (s.readFail blk src tag) := h.modChk.alert.noteSat.timing

theorem Canonical.keptFail {blk src : Nat} {tag : W32} (h : Canonical s) : Canonical (s.keptFail blk src tag) := h.modChk.alert.noteSat

theorem Canonical.putBytes {a : Nat} {bs : List Byte} {w : Writer} (h : Canonical s) : Canonical (s.putBytes a bs w) :=
  .logWrite (.setDiff (h.written bs a))

theorem Canonical.putKept {a : Nat} {bs : List Byte} {w : Writer} {tag : W32} (h : Canonical s) : Canonical (s.putKept a bs w tag) :=
  .timing (.logWrite (.setDiff ((h.written bs a).of_mem rfl)))

theorem Canonical.cmdWrite {a : Nat} {bs : List Byte} {whole : Bool} {w : Writer} {t : State} (h : Canonical s)
    (e : s.cmdWrite a bs whole w = .ok t) : Canonical t := by
  unfold State.cmdWrite at e
  dsimp only at e
  split at e
  · exact nomatch e
  · split at e
    · exact nomatch e
    · exact Except.ok.inj e ▸ h.putBytes

theorem Canonical.hostWrite {blk : Nat} {en : W64} {data : List Byte} {check : W32} {lost owned : Bool} (h : Canonical s) :
    Canonical (s.hostWrite blk en data check lost owned) :=
  .ite (.logWrite (.setDiff (h.written _ _))) (.ite h.putKept h.putBytes)

/-! ## Matrix -/

theorem execMxZero_keeps {sl : SliceId} {first : Fin 32} {count : Nat} {lp : Loop} (h : Canonical s) : Keeps (execMxZero sl first count lp s) :=
  .ite (.next h.runOp) .refused

theorem execMxMma_keeps {sl : SliceId} {m : MmaOp} {parity : Option Storage} (h : Canonical s) : Keeps (execMxMma sl m parity s) := by
  refine .ite ?_ .refused
  split <;> exact .ite (.next h.runOp) .refused

theorem execMxRound_keeps {sl : SliceId} {m : RoundOp} {parity : Option Storage} (h : Canonical s) : Keeps (execMxRound sl m s parity) :=
  .ite (.next h.runOp) .refused

theorem execMxPstore_keeps {sl : SliceId} {p x : ScrOperand} {lp : Loop} {first : Fin 32} {count : Nat} {clear : Bool}
    {parity : Option Storage} (h : Canonical s) :
    Keeps (execMxPstore sl p x lp first count clear s parity) :=
  .ite (.next h.runOp) .refused

theorem execMxPload_keeps {sl : SliceId} {p x : ScrOperand} {lp : Loop} {first : Fin 32} {count : Nat} {parity : Option Storage} (h : Canonical s) :
    Keeps (execMxPload sl p x lp first count s parity) :=
  .ite (.next h.runOp) .refused

/-! ## Vector -/

theorem execVxRun_keeps {sl : SliceId} {m : VxRun} {parity : Option Storage} (h : Canonical s) : Keeps (execVxRun sl m parity s) :=
  .ite (.next h.runOpBy) .refused

theorem execVxKset_keeps {sl : SliceId} {k : Fin 4} {imm : W32} {fmt : Fmt} {lp : Loop} (h : Canonical s) : Keeps (execVxKset sl k imm fmt lp s) :=
  .ite (.next h.runOp) .refused

theorem execVxKld_keeps {sl : SliceId} {k : Fin 4} {src : ScrOperand} {fmt : Fmt} {lp : Loop} {parity : Option Storage} (h : Canonical s) :
    Keeps (execVxKld sl k src fmt lp s parity) :=
  .ite (.next h.runOp) .refused

theorem execVxRclr_keeps {sl : SliceId} {mask : BitVec 4} {lp : Loop} (h : Canonical s) :
    Keeps (execVxRclr sl mask lp s) :=
  .ite (.next h.runOp) .refused

theorem execVxRround_keeps {sl : SliceId} {r : Fin 4} {dst : RoundDst} {fmt : Fmt} {sat : Bool} {adj : Int} {index : Bool} {lp : Loop} (h : Canonical s) :
    Keeps (execVxRround sl r dst fmt sat adj index lp s) :=
  .ite (.next (.runOp (.of_mem h rfl))) .refused

theorem execVxRpstore_keeps {sl : SliceId} {r : Fin 4} {p x : ScrOperand} {lp : Loop} (h : Canonical s) : Keeps (execVxRpstore sl r p x lp s) :=
  .ite (.next h.runOp) .refused

theorem execVxRpload_keeps {sl : SliceId} {r : Fin 4} {p x : ScrOperand} {count : Nat} {lp : Loop} {parity : Option Storage} (h : Canonical s) :
    Keeps (execVxRpload sl r p x count lp s parity) :=
  .ite (.next h.runOp) .refused

theorem execVxRpost_keeps {sl : SliceId} {sumR maxR : Fin 4} {lp : Loop} (h : Canonical s) : Keeps (execVxRpost sl sumR maxR lp s) :=
  .ite (.next h.runOp) .refused

theorem execVxTld_keeps {sl : SliceId} {tile : Fin 4} {a : ScrOperand} {lp : Loop} {parity : Option Storage} (h : Canonical s) :
    Keeps (execVxTld sl tile a lp s parity) :=
  .ite (.next h.runOp) .refused

theorem execVxTst_keeps {sl : SliceId} {tile : Fin 4} {a : ScrOperand} {lp : Loop} {parity : Option Storage} (h : Canonical s) :
    Keeps (execVxTst sl tile a lp s parity) :=
  .ite (.next h.runOp) .refused

theorem execVxTtr_keeps {sl : SliceId} {src dst : Fin 4} {esize : Nat} {lp : Loop} {parity : Option Storage} (h : Canonical s) :
    Keeps (execVxTtr sl src dst esize lp s parity) :=
  .ite (.next h.runOp) .refused

theorem execVxTred_keeps {sl : SliceId} {tile : Fin 4} {rows : Nat} {axis : Bool} {kind : RKind} {fin fout : Fmt} {d : ScrOperand} {lp : Loop}
    {parity : Option Storage} (h : Canonical s) :
    Keeps (execVxTred sl tile rows axis kind fin fout d lp s parity) :=
  .ite (.next (.runOp (.of_mem h rfl))) .refused

theorem execVxQblk_keeps {sl : SliceId} {x y d : ScrOperand} {blocks : Nat} {fx fe : Fmt} {lp : Loop} {parity : Option Storage} (h : Canonical s) :
    Keeps (execVxQblk sl x y d blocks fx fe lp s parity) :=
  .ite (.next h.runOp) .refused

theorem execVxTsum_keeps {sl : SliceId} {x : ScrOperand} {lp : Loop} {d : ScrOperand} {a b : AReg} {parity : Option Storage} (h : Canonical s) :
    Keeps (execVxTsum sl x lp d a b s parity) :=
  .ite (.next h.runOp) .refused

theorem execVxTadd_keeps {sl : SliceId} {p d : ScrOperand} {b : AReg} {lp : Loop} {parity : Option Storage} (h : Canonical s) :
    Keeps (execVxTadd sl p d b lp s parity) :=
  .ite (.next h.runOp) .refused

/-! ## Descriptor -/

theorem Canonical.moveWrite {m : Mover} {scr : Bool} {ws : List (Nat × List Byte)} (h : Canonical s) : Canonical (s.moveWrite m scr ws).1 :=
  .ite_fst h.modSlice (.foldl_fst (fun t e ht => by
    split
    · exact ht
    · split
      · exact ht.cmdWrite ‹_›
      · exact ht) h)

theorem Canonical.scrubStage {sl : SliceId} {d : CopyD} (h : Canonical s) : Canonical (s.scrubStage sl d) := .modSlice (.of_mem h rfl)

theorem Canonical.runItem {m : Mover} {d : GatherD} {t : Nat} (h : Canonical s) : Canonical (s.runItem m d t).1 := by
  unfold State.runItem
  split
  · exact h
  · exact .ite h.moveWrite h.moveWrite.modSlice

theorem Canonical.runItems {m : Mover} {d : GatherD} {first n : Nat} (h : Canonical s) : Canonical (s.runItems m d first n).1 :=
  .foldl_fst (fun t e ht => by
    split
    · exact ht
    · exact ht.runItem) h

/-! ## Ledger -/

theorem Canonical.charge {c v : Nat} (h : Canonical s) : Canonical (s.charge c v) := h.modLedger

theorem Canonical.ledgerWait {c : Chan} {r : Rec} (h : Canonical s) : Canonical (s.ledgerWait c r) := .ite h h.modLedger

theorem Canonical.ledgerLeave {c : Chan} {r : Rec} (h : Canonical s) : Canonical (s.ledgerLeave c r) := h.modLedger

theorem Canonical.borrow {c : Chan} {v : Nat} (h : Canonical s) : Canonical (s.borrow c v) := .ite h h.modLedger

theorem Canonical.reclaim {c v : Nat} (h : Canonical s) : Canonical (s.reclaim c v) := .ite h h.modLedger

theorem Canonical.lend {c v : Nat} (h : Canonical s) : Canonical (s.lend c v) := h.modLedger

theorem Canonical.uncharge {c v : Nat} (h : Canonical s) : Canonical (s.uncharge c v) := h.modLedger

theorem Canonical.endCharge {c : Nat} {m : Cmd} (h : Canonical s) : Canonical (s.endCharge c m) := h.reclaim.uncharge

theorem Canonical.endLongWait {c r : Nat} (h : Canonical s) : Canonical (s.endLongWait c r) := h.reclaim.modCtx

theorem Canonical.waitMark {c r : Nat} (h : Canonical s) : Canonical (s.waitMark c r) := h.modCtx

/-! ## Rows -/

theorem Canonical.touchRow {a : Nat} {write : Bool} (h : Canonical s) : Canonical (s.touchRow a write) := .ite (.ite h.modBank h) h.modChan

theorem Canonical.modTrain {c : Nat} {f : TrainSt → TrainSt} (h : Canonical s) : Canonical (s.modTrain c f) := h.modChan

theorem Canonical.mismatches {c n : Nat} (h : Canonical s) : Canonical (s.mismatches c n) := .ite h.modTrain.alert h.modTrain

theorem Canonical.shadowed {a n : Nat} {write tsv : Bool} (h : Canonical s) : Canonical (s.shadowed a n write tsv) := .ite h.draw.mismatches h

theorem Canonical.wakeFor {l : List (Nat × Nat)} (h : Canonical s) : Canonical (s.wakeFor l) := by
  refine .foldl (fun _ _ h1 => ?_) h
  split
  · exact .ite h1 h1.wake
  · exact h1

theorem Canonical.touch {reads writes : List (Nat × Nat)} (h : Canonical s) : Canonical (s.touch reads writes) :=
  .foldl (fun _ _ h1 => h1.shadowed) (.foldl (fun _ _ h1 => h1.touchRow) (.foldl (fun _ _ h1 => h1.shadowed) (.foldl (fun _ _ h1 => h1.touchRow) h)))

/-! ## Sync -/

theorem Canonical.send {o : ObjRef} {act : SyncAct} {who : Party} (h : Canonical s) : Canonical (s.send o act who) := .of_mem h rfl

theorem Canonical.releaseWaiter {w : WaiterBy} (h : Canonical s) : Canonical (s.releaseWaiter w) := by
  unfold State.releaseWaiter
  split
  · exact .modCmd (.of_mem h rfl)
  · exact .of_mem h rfl
  · exact h

theorem Canonical.scan {o : ObjRef} (h : Canonical s) : Canonical (s.scan o) := .foldl (fun _ _ h1 => h1.releaseWaiter) h.modObj

theorem Canonical.objFault {o : ObjRef} {cause : Nat} {host : Bool} (h : Canonical s) : Canonical (s.objFault o cause host) := by
  unfold State.objFault
  split
  · exact h.modObj.modChan.noteSat
  · exact .ite h.modObj.modPort.noteSat h.modObj.modPort.noteSat

theorem Canonical.answer {who : Party} {cause : Nat} (h : Canonical s) : Canonical (s.answer who cause) := by
  unfold State.answer
  split
  · exact .ite h.modCmd h.cmdFault
  · exact .of_mem h rfl
  · exact h

theorem Canonical.signalObj {o : ObjRef} {n : W32} {who : Party} (h : Canonical s) : Canonical (s.signalObj o n who).1 :=
  .ite_fst h.objFault h.modObj.scan

theorem Canonical.subtractObj {o : ObjRef} {n : W32} {who : Party} (h : Canonical s) :
    Canonical (s.subtractObj o n who).1 :=
  .ite_fst h.objFault h.modObj

theorem Canonical.hold {c : Nat} {x : Held} (h : Canonical s) : Canonical (s.hold c x) := h.modChan

theorem Canonical.waitObj {m : SyncMsg} {w : WaiterBy} {v : W32} {consume : Bool} (h : Canonical s) : Canonical (s.waitObj m w v consume) := by
  refine .ite (.releaseWaiter (.ite h.modObj h)) ?_
  split
  · exact h.modObj
  · exact h.hold

theorem Canonical.perform {m : SyncMsg} (h : Canonical s) : Canonical (s.perform m) := by
  unfold State.perform
  split
  · exact h.signalObj.answer
  · exact h.subtractObj.answer
  · refine .ite h.objFault.answer ?_
    split
    · exact h.waitObj
    · exact h
  · exact h.waitObj
  · exact .ite (.ite h.signalObj.answer h.signalObj) (.ite h.signalObj h.signalObj.modObj)

theorem Canonical.joinWatch {sl : SliceId} {r : Rec} {o : ObjRef} {v : W32} (h : Canonical s) : Canonical (s.joinWatch sl r o v) := by
  unfold State.joinWatch
  dsimp only
  split
  · exact h.modChan
  · split
    · exact h.modChan.send
    · exact h.hold

theorem Canonical.sendArrival {o : ObjRef} {c : Chan} {who : List Arriver} (h : Canonical s) : Canonical (s.sendArrival o c who) := .of_mem h rfl

theorem Canonical.joinBar {a : Arriver} {o : ObjRef} (h : Canonical s) : Canonical (s.joinBar a o) :=
  .ite (.ite (.sendArrival (.modChan (.ite h h.modChan))) (.modChan (.ite h h.modChan))) h.hold

theorem execCombinerForward_keeps {c : Chan} {m : Fin 8192} (h : Canonical s) : Keeps (execCombinerForward c m s) := by
  unfold execCombinerForward
  split
  · exact .next h
  · exact .ite (.next h) (.next h.modChan.sendArrival)

theorem execWaitRetry_keeps {c : Chan} (h : Canonical s) : Keeps (execWaitRetry c s) := by
  refine .next (.foldl (fun _ _ h1 => ?_) h.modChan)
  split
  · exact h1.perform
  · exact h1.joinWatch
  · exact h1.joinBar

theorem Canonical.combinerSlot {o : ObjRef} {c : Chan} (h : Canonical s) : Canonical (s.combinerSlot o c) := by
  refine .ite ?_ h
  split
  · exact h.modObj
  · exact h

theorem Canonical.episodeEnd {o : ObjRef} {a : Arriver} {chs : List Nat} (h : Canonical s) : Canonical (s.episodeEnd o a chs) :=
  .scan (.of_mem h.modObj rfl)

theorem Canonical.arrive {o : ObjRef} {c : Chan} {a : Arriver} (h : Canonical s) : Canonical (s.arrive o c a) :=
  .ite h.objFault.answer.modChan (.ite h.modChan.episodeEnd h.modChan.modObj.combinerSlot)

theorem Canonical.doOp {m : SyncMsg} (h : Canonical s) : Canonical (s.doOp m) := .perform (.of_mem h rfl)

theorem Canonical.doArrival {w : Arrival} (h : Canonical s) : Canonical (s.doArrival w) := .foldl (fun _ _ h1 => h1.arrive) (.of_mem h rfl)

theorem execSyncOperation_keeps {o : ObjRef} (h : Canonical s) : Keeps (execSyncOperation o s) := by
  unfold execSyncOperation
  split
  · exact .next h
  · exact .ite (.next h.doOp) (.next h)

theorem execBarrierArrival_keeps {o : ObjRef} (h : Canonical s) : Keeps (execBarrierArrival o s) := by
  unfold execBarrierArrival
  split
  · exact .next h
  · exact .ite (.next h.doArrival) (.next h)

theorem Canonical.catchUp {o : ObjRef} (h : Canonical s) : Canonical (s.catchUp o) := by
  refine .forN (fun _ _ h1 => ?_) h
  split
  · refine .ite h1.doOp ?_
    split
    · exact h1.doArrival
    · exact h1
  · exact h1.doArrival
  · exact h1

theorem Canonical.bxGo {sl : SliceId} {r : Nat} {w : BxWait} (h : Canonical s) : Canonical (s.bxGo sl r w) :=
  .waitMark (.ite h.modSlice.endLongWait h.modSlice)

theorem Canonical.barGo {c : Chan} {o : ObjRef} {sense : Bool} (h : Canonical s) : Canonical (s.barGo c o sense) := by
  unfold State.barGo
  split
  · exact h
  · exact .foldl (fun _ _ h1 => h1.bxGo) h.modChan

theorem execBarrierRelease_keeps {c : Chan} (h : Canonical s) : Keeps (execBarrierRelease c s) := by
  unfold execBarrierRelease
  split
  · exact .ite (.next h.wake) (.next (.barGo (.of_mem h rfl)))
  · exact .next h

theorem Canonical.bxFault {sl : SliceId} {r : Rec} {pos : Nat} {cause : Byte} (h : Canonical s) : Canonical (s.bxFault sl r pos cause) :=
  .ite h.modSlice.sliceFault h.cmdFault

theorem execWaiterRelease_keeps {c : Chan} (h : Canonical s) : Keeps (execWaiterRelease c s) := by
  unfold execWaiterRelease
  split
  · exact .next h
  · refine .ite (.next h.wake) ?_
    have hq : ∀ q, Canonical { s with relQ := q } := fun q => h.of_mem rfl
    dsimp only
    split
    · exact .next (.waitMark (.ite (.endLongWait (.modCmd (hq _))) (.modCmd (hq _))))
    · split
      · exact .next (hq _)
      · exact .next (.foldl (fun _ _ h1 => .foldl (fun _ _ h2 => h2.bxGo) h1) (.modChan (hq _)))
    · exact .ite (.next (.bxFault (hq _))) (.next (.modSlice (hq _)))
    · exact .next (hq _)

theorem Canonical.dropMail {sl : SliceId} {m : Mail} {cause : Nat} (h : Canonical s) : Canonical (s.dropMail sl m cause) :=
  .send (.ite h.modChan.noteSat h.modChan.noteSat)

theorem Canonical.wakeBank {sl : SliceId} (h : Canonical s) : Canonical (s.wakeBank sl) := .wake (.ite h h.wake)

theorem execMessageArrival_keeps {sl : SliceId} (h : Canonical s) : Keeps (execMessageArrival sl s) := by
  unfold execMessageArrival
  split
  · exact .next h
  · exact .ite (.next h.wakeBank) (.ite (.next (.dropMail (.of_mem h rfl))) (.ite (.next (.dropMail (.of_mem h rfl))) (.next (.modSlice (.of_mem h rfl)))))

theorem execLongWait_keeps {c : Chan} {r : Rec} (h : Canonical s) : Keeps (execLongWait c r s) :=
  .ite (.next h) (.ite (.next h.modCtx.lend.modCtx) (.next h.modCtx))

theorem Canonical.withdrawBx {sl : SliceId} {r : Rec} {w : BxWait} (h : Canonical s) : Canonical (s.withdrawBx sl r w) := by
  unfold State.withdrawBx
  dsimp only
  split
  · split
    · exact h.modChan
    · exact .ite h.modChan.modChan (h.modChan.modChan.modObj.of_mem rfl)
  · exact .ite h.modChan h.modChan.modObj
  · exact h

theorem Canonical.withdrawWait {c : Chan} {r : Rec} {pos : Nat} (h : Canonical s) : Canonical (s.withdrawWait c r pos) := .of_mem h rfl

/-! ## Bx -/

theorem Canonical.runBx {sl : SliceId} {f : State → SliceSt → LayerRun → BxOut} (h : Canonical s)
    (hf : ∀ {t : State} {x : SliceSt} {l : LayerRun}, Canonical t → Holds (f t x l)) : Canonical (s.runBx sl f) := by
  unfold State.runBx
  refine .ite h ?_
  split
  · exact h.issueAt ‹_›
  · rename_i x l _
    have hr : Holds (f (s.putSlice sl x) x l) := hf h.putSlice
    split <;> rename_i he <;> rw [he] at hr
    · exact Canonical.modSlice hr
    · exact hr
    · exact Canonical.waitMark (Canonical.modSlice hr)
    · exact Canonical.await hr
    · exact Canonical.sliceFault hr

theorem bxParity_canonical {parity : Option Storage} {sl : SliceId} {f : State → SliceSt → LayerRun → BxOut} {x : SliceSt} {l : LayerRun}
    (h : Canonical s) (hf : ∀ {t : State} {x : SliceSt} {l : LayerRun}, Canonical t → Holds (f t x l)) : Holds (bxParity parity sl f s x l) := by
  unfold bxParity
  split
  · exact h.parityErr
  · exact hf h

theorem moved_canonical {reads writes : List (Nat × Nat)} {f : State → BxOut} (h : Canonical s)
    (hf : ∀ {t : State}, Canonical t → Holds (f t)) : Holds (s.moved reads writes f) :=
  .ite (hf h.touch) h.wakeFor

theorem Canonical.noteErr {e : MoveErr} {tag : W32} (h : Canonical s) : Canonical (s.noteErr e tag) := .ite h.readFail h

theorem loadOp_canonical {sl : SliceId} {m : BxMove} {x : SliceSt} {l : LayerRun} (h : Canonical s) : Holds (loadOp sl m s x l) := by
  refine .ite h (moved_canonical h (fun ht => ?_))
  dsimp only
  split
  · exact ht.putSlice.perfAdd
  · exact ht.putSlice.perfAdd
  · exact ht.putSlice.perfAdd.noteErr

theorem storeOp_canonical {sl : SliceId} {m : BxMove} {x : SliceSt} {l : LayerRun} (h : Canonical s) : Holds (storeOp sl m s x l) := by
  refine .ite h (moved_canonical h (fun {t} ht => ?_))
  have hw : ∀ y ws n, Canonical (((t.putSlice sl y).moveWrite ⟨⟨sl, 0⟩, l.writer sl, l.tag⟩ false ws).1.perfAdd sl 2 n) :=
    fun y ws n => ht.putSlice.moveWrite.perfAdd
  dsimp only
  generalize runLoop (t.slice sl) l .bx m.lp [moveOpd m false] [⟨moveOpd m false, widthBytes m.wcode, []⟩] [] _ = o
  cases o with
  | done y ws => exact hw _ _ _
  | wait y ws k n => exact hw _ _ _
  | fault y ws c d =>
    show Canonical _
    split
    · exact (hw _ _ _).noteErr
    · exact hw _ _ _

theorem execBxLd_keeps {sl : SliceId} {m : BxMove} (h : Canonical s) : Keeps (execBxLd sl m s) := .ite (.next (h.runBx loadOp_canonical)) .refused

theorem execBxSt_keeps {sl : SliceId} {m : BxMove} {parity : Option Storage} (h : Canonical s) : Keeps (execBxSt sl m s parity) :=
  .ite (.next (h.runBx (fun ht => bxParity_canonical ht storeOp_canonical))) .refused

theorem Canonical.runCopy {m : Mover} {d : CopyD} {first n : Nat} (h : Canonical s) : Canonical (s.runCopy m d first n).1 := by
  unfold State.runCopy
  split
  · exact h
  · exact h.moveWrite

theorem moveEnd_canonical {sl : SliceId} {l : LayerRun} {r : State × Option MoveErr} {slots : Nat} (h : Canonical r.1) :
    Holds (moveEnd sl l r slots) := by
  unfold moveEnd
  split
  · exact h.noteErr
  · exact h.perfAdd

theorem copyOp_canonical {sl : SliceId} {desc : ScrAddr} {o : AReg} {x : SliceSt} {l : LayerRun} (h : Canonical s) :
    Holds (copyOp sl desc o s x l) := by
  unfold copyOp
  split
  · exact moved_canonical h (fun ht => moveEnd_canonical (.ite ht.runCopy.scrubStage ht.runCopy))
  · exact h
  · exact h

theorem execBxCopy_keeps {sl : SliceId} {desc : ScrAddr} {o : AReg} {parity : Option Storage} (h : Canonical s) :
    Keeps (execBxCopy sl desc o s parity) :=
  .next (h.runBx (fun ht => bxParity_canonical ht copyOp_canonical))

theorem fillOp_canonical {sl : SliceId} {desc : ScrAddr} {o : AReg} {x : SliceSt} {l : LayerRun} (h : Canonical s) :
    Holds (fillOp sl desc o s x l) := by
  unfold fillOp
  split
  · exact moved_canonical h (fun ht => moveEnd_canonical ht.moveWrite)
  · exact h
  · exact h

theorem execBxFill_keeps {sl : SliceId} {desc : ScrAddr} {o : AReg} {parity : Option Storage} (h : Canonical s) :
    Keeps (execBxFill sl desc o s parity) :=
  .next (h.runBx (fun ht => bxParity_canonical ht fillOp_canonical))

theorem gatherOp_canonical {sl : SliceId} {desc : ScrAddr} {x : SliceSt} {l : LayerRun} (h : Canonical s) : Holds (gatherOp sl desc s x l) := by
  unfold gatherOp
  dsimp only
  split
  · refine .ite (moved_canonical h (fun ht => moveEnd_canonical ht.runItems)) ?_
    split
    · exact h
    · split
      · exact h
      · refine .ite h.modCmd.modSlice (moved_canonical h (fun ht => ?_))
        split
        · rename_i he
          exact Canonical.modSlice (he ▸ moveEnd_canonical ht.modCmd.runItem : Holds (.done _))
        · exact moveEnd_canonical ht.modCmd.runItem
  · exact h
  · exact h

theorem execBxGather_keeps {sl : SliceId} {desc : ScrAddr} {parity : Option Storage} (h : Canonical s) :
    Keeps (execBxGather sl desc s parity) :=
  .next (h.runBx (fun ht => bxParity_canonical ht gatherOp_canonical))

theorem sendOp_canonical {sl : SliceId} {d : AReg} {entry : Fin 16} {src : ScrAddr} {ack : Fin 256} {x : SliceSt} {l : LayerRun} (h : Canonical s) :
    Holds (sendOp sl d entry src ack s x l) := by
  unfold sendOp
  dsimp only
  generalize (do
    let o ← s.layerObj sl l ack.val
    if (x.arI .bx d).toNat < 2 ^ 20 ∧ inSel (slChan sl) (s.ctx (slChan sl) l.record.val).sliceSet (x.arI .bx d).toNat then .ok () else .error (causeRange, 0)
    let a ← block64 x src
    .ok ⟨BitVec.ofNat 20 (x.arI .bx d).toNat, entry, ⟨rdN x.scratch a 64, l.record, l.gen, o, l.tag⟩, l.party sl⟩ : Except (Nat × Nat) Msg) = m
  cases m with
  | error e => exact h
  | ok m => exact Canonical.stir (h.of_mem rfl)

theorem execBxSend_keeps {sl : SliceId} {d : AReg} {entry : Fin 16} {src : ScrAddr} {ack : Fin 256} {parity : Option Storage} (h : Canonical s) :
    Keeps (execBxSend sl d entry src ack s parity) :=
  .next (h.runBx (fun ht => bxParity_canonical ht sendOp_canonical))

theorem recvOp_canonical {sl : SliceId} {entry : Fin 16} {dst : ScrAddr} {ack : Fin 256} {x : SliceSt} {l : LayerRun} (h : Canonical s) :
    Holds (recvOp sl entry dst ack s x l) := by
  unfold recvOp
  dsimp only
  generalize (do
    let _ ← s.layerObj sl l ack.val
    block64 x dst : Except (Nat × Nat) Nat) = a
  cases a with
  | error e => exact h
  | ok a =>
    dsimp only
    split
    · exact h
    · exact h.modSlice.send

theorem Canonical.recvAgain {sl : SliceId} {entry : Fin 16} (h : Canonical s) : Canonical (s.recvAgain sl entry) := .ite h.putSlice h

theorem execBxRecv_keeps {sl : SliceId} {entry : Fin 16} {dst : ScrAddr} {ack : Fin 256} (h : Canonical s) :
    Keeps (execBxRecv sl entry dst ack s) :=
  .next (h.recvAgain.runBx recvOp_canonical)

theorem changeOp_canonical {sl : SliceId} {v : Fin 256} {n : RegImm32} {sig : Bool} {x : SliceSt} {l : LayerRun} (h : Canonical s) :
    Holds (changeOp sl v n sig s x l) := by
  unfold changeOp
  split
  · exact h
  · exact .ite h (.ite h h.send)

theorem execBxSsig_keeps {sl : SliceId} {vsync : Fin 256} {amount : RegImm32} (h : Canonical s) : Keeps (execBxSsig sl vsync amount s) :=
  .ite .refused (.next (h.runBx changeOp_canonical))

theorem execBxSsub_keeps {sl : SliceId} {vsync : Fin 256} {amount : RegImm32} (h : Canonical s) : Keeps (execBxSsub sl vsync amount s) :=
  .ite .refused (.next (h.runBx changeOp_canonical))

theorem watchOp_canonical {sl : SliceId} {v : Fin 256} {n : RegImm32} {x : SliceSt} {l : LayerRun} (h : Canonical s) :
    Holds (watchOp sl v n s x l) := by
  unfold watchOp
  split
  · exact h
  · exact h.joinWatch

theorem execBxSwatch_keeps {sl : SliceId} {vsync : Fin 256} {value : RegImm32} (h : Canonical s) : Keeps (execBxSwatch sl vsync value s) :=
  .next (h.runBx watchOp_canonical)

theorem barOp_canonical {sl : SliceId} {v : Fin 256} {y : SliceSt} {l : LayerRun} (h : Canonical s) : Holds (barOp sl v s y l) := by
  unfold barOp
  split
  · exact h
  · exact .ite h.joinBar h

theorem execBxBar_keeps {sl : SliceId} {vsync : Fin 256} (h : Canonical s) : Keeps (execBxBar sl vsync s) := .next (h.runBx barOp_canonical)

/-! ## Context -/

theorem Canonical.overrun {c r : Nat} (h : Canonical s) : Canonical (s.overrun c r) := h.modCtx.noteSat

theorem Canonical.scanHeaders {c r : Nat} (h : Canonical s) : Canonical (s.scanHeaders c r) := .ite h.modCtx h

theorem Canonical.doorbell {c r : Nat} {v : W32} (h : Canonical s) : Canonical (s.doorbell c r v) := .ite h (.ite h.overrun h.modCtx.scanHeaders.stir)

theorem Canonical.dbRing {c r : Nat} {v : W32} (h : Canonical s) : Canonical (s.dbRing c r v) := h.modCtx

theorem Canonical.dbCq {c r : Nat} {v : W32} (h : Canonical s) : Canonical (s.dbCq c r v) := h.modCtx

theorem Canonical.cqHead {c r : Nat} {v : W32} (h : Canonical s) : Canonical (s.cqHead c r v) := .ite h (.ite h.overrun h.modCtx)

theorem Canonical.readCommand {c r : Nat} (h : Canonical s) : Canonical (s.readCommand c r) := h.modCtx.scanHeaders

theorem Canonical.writeRecord {c r : Nat} {f : RecFields} (h : Canonical s) : Canonical (s.writeRecord c r f) := .ite h.modCtx h.modCtx.modChan.modCtx

theorem Canonical.seqWrite {a : Nat} {bs : List Byte} {w : Writer} {tag : W32} (h : Canonical s) : Canonical (s.seqWrite a bs w tag) :=
  .ite h.putKept h.putBytes

theorem Canonical.writeFlag {c r : Nat} {raw : List Byte} {good : Bool} (h : Canonical s) : Canonical (s.writeFlag c r raw good) := .ite h.seqWrite h

theorem Canonical.settle {c : Chan} {r : Rec} {tag : W32} (h : Canonical s) : Canonical (s.settle c r tag) := .of_mem h rfl

theorem Canonical.endUnread {c : Chan} {r : Rec} {f : Fetched} {status cause : Nat} {fi : Option FaultInfo} {flag : Bool} (h : Canonical s) :
    Canonical (s.endUnread c r f status cause fi flag) :=
  .traceEv (.modCtx (.ite h.ledgerLeave.writeRecord.modCtx.writeFlag.settle h.ledgerLeave.writeRecord.modCtx))

theorem Canonical.parityEnd {c : Chan} {r : Rec} {f : Fetched} {k : Storage} (h : Canonical s) : Canonical (s.parityEnd c r f k) :=
  .ite h.parityErr.endUnread h

theorem execCommandRead_keeps {c : Chan} {r : Rec} {parity : Option Storage} (h : Canonical s) : Keeps (execCommandRead c r s parity) := by
  refine .ite (.next h) (.ite (.next h.modCtx) ?_)
  split
  · exact .next h.readCommand
  · split
    · exact .next h.parityEnd
    · exact .next h

theorem execTornReread_keeps {c : Chan} {r : Rec} {parity : Option Storage} (h : Canonical s) : Keeps (execTornReread c r s parity) := by
  unfold execTornReread
  dsimp only
  split
  · refine .ite (.next h) (.ite (.next h.modCtx) ?_)
    split
    · exact .next h.parityEnd
    · exact .next h.modCtx.scanHeaders
  · exact .ite (.next h.scanHeaders) (.next h)
  · exact .next h

theorem Canonical.countTorn {c r : Nat} (h : Canonical s) : Canonical (s.countTorn c r) := h.modCtx.noteSat

theorem Canonical.endScanned {c : Chan} {r : Rec} {p : Nat} (h : Canonical s) : Canonical (s.endScanned c r p) := by
  unfold State.endScanned
  exact Canonical.scanHeaders (Canonical.traceEv (Canonical.countTorn (Canonical.modCtx (Canonical.writeRecord h.ledgerLeave))))

theorem execTornCommand_keeps {c : Chan} {r : Rec} (h : Canonical s) : Keeps (execTornCommand c r s) := by
  unfold execTornCommand
  dsimp only
  split
  · exact .ite (.next h.endUnread.countTorn) (.next h)
  · exact .ite (.next h.endScanned) (.next h)
  · exact .next h

theorem Canonical.takeOff {c : Chan} {r : Rec} {f : Fetched} {t : CmdType} {desc prov : List Byte} {charge : Nat} (h : Canonical s) :
    Canonical (s.takeOff c r f t desc prov charge) :=
  .waitMark (.traceEv (.charge (.stir (.ite (.endLongWait (.foldl (fun _ _ h1 => h1.modSlice.stir) h.modCtx))
    (.foldl (fun _ _ h1 => h1.modSlice.stir) h.modCtx)))))

theorem Canonical.ledgerGate {c : Chan} {r : Rec} {v : Nat} {go : State → State} (h : Canonical s) (hf : ∀ t, Canonical t → Canonical (go t)) :
    Canonical (s.ledgerGate c r v go) :=
  .ite (hf _ h.ledgerLeave) (.ite (hf _ h.ledgerWait.borrow.ledgerLeave) h.ledgerWait)

theorem Canonical.launch {c : Chan} {r : Rec} {f : Fetched} {t : CmdType} {desc prov : List Byte} (h : Canonical s) :
    Canonical (s.launch c r f t desc prov) :=
  .ite (.foldl (fun _ _ h1 => h1.wakeBank) h) (h.ledgerGate (fun _ h1 => h1.takeOff))

theorem execDispatch_keeps {c : Chan} {r : Rec} {parity : Option Storage} (h : Canonical s) : Keeps (execDispatch c r parity s) := by
  unfold execDispatch
  dsimp only
  split
  · exact .next h
  · refine .ite (.next h) ?_
    split
    · exact .next h.parityEnd
    · refine .ite (.next h.modCtx) (.ite (.next h) (.ite (.next h.wakeFor) ?_))
      split
      · exact .next h.touch.endUnread
      · exact .next h.touch.readFail.endUnread
      · exact .next h.touch.endUnread
      · exact .next h.touch.launch

theorem execCastOn_keeps {c : Chan} {r : Rec} (h : Canonical s) : Keeps (execCastOn c r s) := by
  unfold execCastOn
  split
  · exact .next h
  · exact .next h.modCtx

theorem Canonical.unmapLines {c : Nat} (h : Canonical s) : Canonical (s.unmapLines c) := .of_mem h rfl

theorem Canonical.releaseCtx {c r : Nat} (h : Canonical s) : Canonical (s.releaseCtx c r) :=
  .unmapLines (.modCtx (.foldl (fun _ _ h1 => (.ite h1.modSlice h1)) h))

theorem execBindOff_keeps {c : Chan} {r : Rec} (h : Canonical s) : Keeps (execBindOff c r s) := by
  unfold execBindOff
  dsimp only
  split
  · exact .next h
  · exact .ite (.next h) (.next h.endCharge.releaseCtx.modCmd)

theorem Canonical.begin_ {c r pos : Nat} {p : Phase} (h : Canonical s) : Canonical (s.begin_ c r pos p) := h.modCmd

theorem execSignal_keeps {c : Chan} {r : Rec} {pos : CmdNo} (h : Canonical s) : Keeps (execSignal c r pos s) := by
  unfold execSignal
  dsimp only
  split
  · exact .next h
  · refine .ite (.next h) ?_
    split
    · exact .next h
    · exact .next h.begin_.send

theorem execWait_keeps {c : Chan} {r : Rec} {pos : CmdNo} (h : Canonical s) : Keeps (execWait c r pos s) := by
  unfold execWait
  dsimp only
  split
  · exact .next h
  · refine .ite (.next h) ?_
    split
    · exact .next h
    · exact .next h.begin_.send

theorem execFenceChannel_keeps {c : Chan} {r : Rec} {pos : CmdNo} (h : Canonical s) : Keeps (execFenceChannel c r pos s) := by
  unfold execFenceChannel
  dsimp only
  split
  · exact .next h
  · exact .ite (.next h.begin_) (.next h)

theorem execFenceModule_keeps {c : Chan} {r : Rec} {pos : CmdNo} (h : Canonical s) : Keeps (execFenceModule c r pos s) := by
  unfold execFenceModule
  dsimp only
  split
  · exact .next h
  · exact .ite (.next h.begin_) (.next h)

theorem execHintCodePrefetch_keeps {c : Chan} {r : Rec} {pos : CmdNo} (h : Canonical s) : Keeps (execHintCodePrefetch c r pos s) := by
  unfold execHintCodePrefetch
  split
  · exact .next h
  · exact .ite (.next h.begin_) (.next h)

theorem execHintRowOpen_keeps {c : Chan} {r : Rec} {pos : CmdNo} (h : Canonical s) : Keeps (execHintRowOpen c r pos s) := by
  unfold execHintRowOpen
  split
  · exact .next h
  · exact .ite (.next h.begin_) (.next h)

theorem Canonical.endLeases {c r : Nat} {m : Cmd} (h : Canonical s) : Canonical (s.endLeases c r m) := h.modChan

theorem execCompletion_keeps {c : Chan} {r : Rec} {pos : CmdNo} (h : Canonical s) : Keeps (execCompletion c r pos s) := by
  unfold execCompletion
  dsimp only
  split
  · exact .next h
  · refine .ite (.next h) (.next (.waitMark (.traceEv (.modCtx (.ite (.ledgerLeave ?_) ?_)))))
    all_goals
      refine .settle (.endLeases (.endCharge (.writeFlag (.writeRecord ?_))))
      split
      · exact .ite h.seqWrite h
      · exact h

theorem Canonical.stopCmd {c : Chan} {r : Rec} {m : Cmd} (h : Canonical s) : Canonical (s.stopCmd c r m) := by
  refine .ite h ?_
  split
  · exact .ite h.modCmd.requestStop h.modCmd.requestStop.withdrawWait.modCmd
  · exact .ite h.modCmd.requestStop.modCmd h.modCmd.requestStop
  · exact .ite h.modCmd.requestStop h.modCmd.requestStop.modCmd
  · exact .ite h.modCmd.requestStop h.modCmd.requestStop.modCmd
  · exact .ite h.modCmd.requestStop h.modCmd.requestStop.modCmd.modCmd
  · exact h.modCmd.requestStop

theorem Canonical.beginAbort {c : Chan} {r : Rec} {a : AbortSt} (h : Canonical s) : Canonical (s.beginAbort c r a) :=
  .ledgerLeave (.foldl (fun _ _ h1 => h1.stopCmd) (.modCtx (.ite h.endLongWait h)))

theorem execAbort_keeps {c : Chan} {r : Rec} (h : Canonical s) : Keeps (execAbort c r s) := by
  unfold execAbort
  dsimp only
  split
  · exact .next h.scanHeaders
  · refine .ite (.next h.scanHeaders.modCtx) ?_
    split
    · exact .next h.scanHeaders.modCtx.modCtx
    · exact .next h.scanHeaders.modCtx.beginAbort

theorem execWatchdogFire_keeps {c : Chan} {r : Rec} (h : Canonical s) : Keeps (execWatchdogFire c r s) :=
  .ite (.next h) (.ite (.next h.wake) (.next h.modCtx.beginAbort))

theorem execStopEvent_keeps {c : Chan} {r : Rec} {pos : CmdNo} (h : Canonical s) : Keeps (execStopEvent c r pos s) := by
  unfold execStopEvent
  split
  · exact .next h
  · exact .ite (.next h.modCmd) (.next h)

theorem execAbortSlack_keeps {c : Chan} {r : Rec} (h : Canonical s) : Keeps (execAbortSlack c r s) := by
  unfold execAbortSlack
  dsimp only
  split
  · exact .ite (.next h) (.ite (.next (.traceEv (.modCtx (.foldl (fun _ _ h1 => h1.writeFlag.settle) h.writeRecord)))) (.next h.modCtx))
  · exact .next h

/-! ## Gate -/

theorem Canonical.violation {c cause : Nat} (h : Canonical s) : Canonical (s.violation c cause) := h.modPort.noteSat

theorem Canonical.winRefused {x1 : RegWin} (h : Canonical s) : Canonical (s.winRefused x1) := by
  unfold State.winRefused
  split
  · exact .ite h.violation h
  · exact h

theorem Canonical.keyOff (h : Canonical s) : Canonical s.keyOff := h.modPort

theorem Canonical.status {st : Status} (h : Canonical s) : Canonical (s.status st) := h.modPort

theorem Canonical.hostReg {w : RegWin} {own : Status} {f : State → State} (h : Canonical s) (hf : ∀ t, Canonical t → Canonical (f t)) :
    Canonical (s.hostReg w own f) := by
  unfold State.hostReg
  refine .ite h ?_
  dsimp only
  split
  · split
    · exact (hf _ h.keyOff).status
    · exact h.keyOff.status
  · exact h.keyOff.winRefused.status

theorem execDoorbell_keeps {c : Chan} {r : Rec} {v : W32} (h : Canonical s) :
    Keeps (execDoorbell c r v s) :=
  .next (h.hostReg (fun _ h1 => h1.doorbell))

theorem execDbRingWrite_keeps {c : Chan} {r : Rec} {v : W32} (h : Canonical s) : Keeps (execDbRingWrite c r v s) :=
  .next (h.hostReg (fun _ h1 => h1.dbRing))

theorem execDbCqWrite_keeps {c : Chan} {r : Rec} {v : W32} (h : Canonical s) :
    Keeps (execDbCqWrite c r v s) :=
  .next (h.hostReg (fun _ h1 => h1.dbCq))

theorem execCqHeadWrite_keeps {c : Chan} {r : Rec} {v : W32} (h : Canonical s) : Keeps (execCqHeadWrite c r v s) :=
  .next (h.hostReg (fun _ h1 => h1.cqHead))

theorem Canonical.codeBusyClear {c : Nat} (h : Canonical s) : Canonical (s.codeBusyClear c) := h.modChan

theorem execCodeBusyClear_keeps {c : Chan} (h : Canonical s) : Keeps (execCodeBusyClear c s) := .next (h.hostReg (fun _ h1 => h1.codeBusyClear))

theorem Canonical.hostAdd {o : ObjRef} {v : W32} (h : Canonical s) : Canonical (s.hostAdd o v) := .ite h h.catchUp.signalObj

theorem Canonical.hostSub {o : ObjRef} {v : W32} (h : Canonical s) : Canonical (s.hostSub o v) := .ite h h.catchUp.subtractObj

theorem Canonical.barCfg {o : ObjRef} {v : W32} (h : Canonical s) : Canonical (s.barCfg o v) := .ite h.modObj h.objFault

theorem Canonical.barClear {o : ObjRef} {v : W32} (h : Canonical s) : Canonical (s.barClear o v) := .ite h (.ite h.modObj h.objFault)

theorem Canonical.objStateWrite {o : ObjRef} {v : W32} (h : Canonical s) : Canonical (s.objStateWrite o v) := .ite h.modObj h

theorem Canonical.syncClear {c : Nat} (h : Canonical s) : Canonical (s.syncClear c) := h.modChan

theorem Canonical.hbSyncClear (h : Canonical s) : Canonical s.hbSyncClear := h.modPort

theorem Canonical.syncCfg {c : Nat} {v : W32} (h : Canonical s) : Canonical (s.syncCfg c v) := .ite h.modChan.syncClear h.modChan

theorem Canonical.objWrite {o : ObjRef} {off : Nat} {v : W32} (h : Canonical s) : Canonical (s.objWrite o off v) :=
  .ite h.hostAdd (.ite h.hostSub (.ite h.objStateWrite (.ite h.barCfg (.ite h.barClear h))))

theorem execSyncClearCounters_keeps {c : Chan} (h : Canonical s) : Keeps (execSyncClearCounters c s) := .next (h.hostReg (fun _ h1 => h1.syncClear))

theorem execHbSyncClearCounters_keeps (h : Canonical s) : Keeps (execHbSyncClearCounters s) := .next (h.hostReg (fun _ h1 => h1.hbSyncClear))

theorem Canonical.runDeferred (h : Canonical s) : Canonical s.runDeferred := .foldl (fun _ _ h1 => h1.objWrite) h.modPort

theorem Canonical.objWriteBy {g : Nat} {o : ObjRef} {off : Nat} {v : W32} (h : Canonical s) : Canonical (s.objWriteBy g o off v) := by
  unfold State.objWriteBy
  split
  · exact h.objWrite
  · exact .ite h.objWrite h.modPort

theorem execAdd_keeps {o : ObjRef} {amount : W32} {g : optParam Group 0} (h : Canonical s) : Keeps (execAdd o amount s g) :=
  .next (h.hostReg (fun _ h1 => h1.objWriteBy))

theorem execSub_keeps {o : ObjRef} {amount : W32} {g : optParam Group 0} (h : Canonical s) : Keeps (execSub o amount s g) :=
  .next (h.hostReg (fun _ h1 => h1.objWriteBy))

theorem execBarCfgWrite_keeps {o : ObjRef} {v : W32} {g : optParam Group 0} (h : Canonical s) : Keeps (execBarCfgWrite o v s g) :=
  .next (h.hostReg (fun _ h1 => h1.objWriteBy))

theorem execBarStateClear_keeps {o : ObjRef} {g : optParam Group 0} (h : Canonical s) : Keeps (execBarStateClear o s g) :=
  .next (h.hostReg (fun _ h1 => h1.objWriteBy))

/-! ## Bank -/

theorem Canonical.answerReq {c id : Nat} {st : Status} {data : List Byte} {check : W32} (h : Canonical s) :
    Canonical (s.answerReq c id st data check) :=
  h.modGroup

theorem Canonical.fences (h : Canonical s) : Canonical s.fences := .of_mem h rfl

theorem Canonical.wrote {c : Nat} (h : Canonical s) : Canonical (s.wrote c) := .foldl (fun _ _ h1 => (.ite h1.scanHeaders h1)) h.fences.runDeferred

theorem Canonical.complete {c : Nat} {q : BankReq} (h : Canonical s) : Canonical (s.complete c q) := .ite h.hostWrite.wrote h.answerReq

theorem Canonical.completeBad {c : Nat} {q : BankReq} (h : Canonical s) : Canonical (s.completeBad c q) := .ite h.hostWrite.wrote h.readFail.answerReq

theorem Canonical.forced {c b col : Nat} (h : Canonical s) : Canonical (s.forced c b col) := h.modChan.noteSat

theorem execForcedRefresh_keeps {c : Chan} {b : BankIx} {col : Nat} (h : Canonical s) : Keeps (execForcedRefresh c b col s) :=
  .ite (.next h.forced) (.next h)

theorem execIdleRefresh_keeps {c : Chan} {b : BankIx} {col : Nat} (h : Canonical s) : Keeps (execIdleRefresh c b col s) :=
  .ite (.next h.modChan) (.next h)

theorem execStrictRefreshSlot_keeps {c : Chan} {b : BankIx} {col : Nat} (h : Canonical s) : Keeps (execStrictRefreshSlot c b col s) :=
  .ite (.next h.modChan) (.next h)

theorem execRefreshTick_keeps {c : Chan} {b : BankIx} {col : optParam Nat 0} (h : Canonical s) : Keeps (execRefreshTick c b s col) :=
  .ite (.next h) (.next h.modChan)

theorem execDramSelfRefreshTick_keeps {c : Chan} (h : Canonical s) : Keeps (execDramSelfRefreshTick c s) := .ite (.next h.modChan) (.next h)

theorem Canonical.delayReads {c b : Nat} (h : Canonical s) : Canonical (s.delayReads c b) := h.modGroup

theorem Canonical.access {c b col : Nat} {q : BankReq} {garbled : Bool} (h : Canonical s) : Canonical (s.access c b col q garbled) :=
  .ite h.modBank.shadowed.modBank.delayReads (.ite h.modBank.shadowed.draw.answerReq h.modBank.shadowed.complete)

theorem Canonical.serve {c b col : Nat} {q : BankReq} {garbled : Bool} (h : Canonical s) : Canonical (s.serve c b col q garbled) := by
  unfold State.serve
  dsimp only
  split
  · exact .ite (.ite h.access h) (.ite h.modBank h)
  · exact .ite h.modChan h

theorem execBankOperation_keeps {c : Chan} {b : BankIx} {col : Nat} {garbled : Bool} (h : Canonical s) :
    Keeps (execBankOperation c b col garbled s) := by
  refine .ite (.next h) (.ite (.ite (.next h.forced) (.next h)) ?_)
  split
  · exact .next h
  · exact .next h.serve

theorem Canonical.memClear {c : Nat} (h : Canonical s) : Canonical (s.memClear c) := h.modChan

theorem Canonical.memCfg {c : Nat} {v : W32} (h : Canonical s) : Canonical (s.memCfg c v) := .ite h.modChan.memClear h.modChan

theorem execMemClearCounters_keeps {c : Chan} (h : Canonical s) : Keeps (execMemClearCounters c s) := .next (h.hostReg (fun _ h1 => h1.memClear))

theorem execHardwareSweep_keeps {c : Chan} {bad : List LaneTaps} (h : Canonical s) : Keeps (execHardwareSweep c bad s) := by
  unfold execHardwareSweep
  dsimp only
  split
  · exact .ite (.next h.modTrain) (.next h.modTrain)
  · exact .ite (.next h) (.next h.modTrain)
  · exact .next h

theorem Canonical.addRepair {k : RepairKind} {c b target : Nat} (h : Canonical s) :
    Canonical (s.addRepair k c b target) :=
  .ite (.of_mem h rfl) h.alert

theorem Canonical.goOffline {c : Nat} (h : Canonical s) : Canonical (s.goOffline c) := h.modChan.alert

theorem Canonical.repairSlices {c : Nat} (h : Canonical s) : Canonical (s.repairSlices c) := .foldl (fun _ _ h1 => (.ite h1.addRepair h1.addRepair)) h

theorem Canonical.sweepReq {c : Nat} (h : Canonical s) : Canonical (s.sweepReq c) := .ite h.modTrain h.modTrain

theorem Canonical.nudge {c : Nat} {up : Bool} (h : Canonical s) : Canonical (s.nudge c up) := h.modTrain

theorem Canonical.patternGo {c : Nat} (h : Canonical s) : Canonical (s.patternGo c) := .ite h.modTrain (.of_mem h rfl)

theorem Canonical.trainCtrl {c : Nat} {v : W32} (h : Canonical s) : Canonical (s.trainCtrl c v) :=
  .ite (.patternGo (.ite (.nudge (.ite h.modTrain.sweepReq h.modTrain)) (.ite (.nudge (.ite h.modTrain.sweepReq h.modTrain)) (.ite
    h.modTrain.sweepReq h.modTrain)))) (.ite (.nudge (.ite h.modTrain.sweepReq h.modTrain)) (.ite (.nudge (.ite h.modTrain.sweepReq h.modTrain))
    (.ite h.modTrain.sweepReq h.modTrain)))

theorem Canonical.trainLane {c : Nat} {v : W32} (h : Canonical s) : Canonical (s.trainLane c v) := h.modTrain

theorem execSweep_keeps {c : Chan} (h : Canonical s) : Keeps (execSweep c s) := .next (h.hostReg (fun _ h1 => h1.sweepReq))

theorem execNudgeUp_keeps {c : Chan} (h : Canonical s) : Keeps (execNudgeUp c s) := .next (h.hostReg (fun _ h1 => h1.nudge))

theorem execNudgeDown_keeps {c : Chan} (h : Canonical s) : Keeps (execNudgeDown c s) := .next (h.hostReg (fun _ h1 => h1.nudge))

theorem execPatternGo_keeps {c : Chan} (h : Canonical s) : Keeps (execPatternGo c s) := .next (h.hostReg (fun _ h1 => h1.patternGo))

theorem execPatternRunDone_keeps {c : Chan} {mismatches : Nat} (h : Canonical s) : Keeps (execPatternRunDone c mismatches s) :=
  .ite (.next h) (.next h.modTrain.mismatches)

/-! ## Control -/

theorem Canonical.allDone {c r pos : Nat} (h : Canonical s) : Canonical (s.allDone c r pos) := h.modCmd

theorem Canonical.sliceFinish {sl : SliceId} (h : Canonical s) : Canonical (s.sliceFinish sl) := by
  unfold State.sliceFinish
  dsimp only
  split
  · exact h
  · exact .ite h h.modSlice.modCmd.allDone

theorem execEndOp_keeps {sl : SliceId} {e : Engine} (h : Canonical s) : Keeps (execEndOp sl e s) := by
  have hd : Canonical (if ((s.slice sl).eng e).state = .draining then s.modSlice sl (·.modEng e (fun g => { g with state := .issuing })) else s) :=
    .ite h.modSlice h
  refine .ite (.next ?_) (.next hd.runOp.sliceFinish)
  split
  · exact hd.issueAt ‹_›
  · exact hd.putSlice

theorem execNop_keeps {sl : SliceId} {e : Engine} (h : Canonical s) : Keeps (execNop sl e s) := .next h.runOp

theorem execSemSig_keeps {sl : SliceId} {e : Engine} {k : Fin 16} {n : Fin 256} (h : Canonical s) : Keeps (execSemSig sl e k n s) :=
  .ite .refused (.next h.runOp)

theorem execSemWait_keeps {sl : SliceId} {e : Engine} {k : Fin 16} {n : Fin 256} (h : Canonical s) : Keeps (execSemWait sl e k n s) :=
  .ite .refused (.next h.runOp)

theorem execFenceEngine_keeps {sl : SliceId} {e : Engine} (h : Canonical s) : Keeps (execFenceEngine sl e s) := .ite (.next h) (.next h.runOp)

theorem execFenceSlice_keeps {sl : SliceId} {e : Engine} (h : Canonical s) : Keeps (execFenceSlice sl e s) := .ite (.next h.runOp) (.next h)

theorem execJmp_keeps {sl : SliceId} {e : Engine} {off : Int} (h : Canonical s) : Keeps (execJmp sl e off s) := .ite .refused (.next h.runOp)

theorem execBrar_keeps {sl : SliceId} {e : Engine} {a : AReg} {off : Int} (h : Canonical s) : Keeps (execBrar sl e a off s) :=
  .ite .refused (.next h.runOp)

theorem execCxLi_keeps {sl : SliceId} {d : AReg} {imm : W32} (h : Canonical s) : Keeps (execCxLi sl d imm s) := .next h.runOp

theorem execCxAdd_keeps {sl : SliceId} {d a : AReg} {b : RegImm16} (h : Canonical s) : Keeps (execCxAdd sl d a b s) := .next h.runOp

theorem execCxSub_keeps {sl : SliceId} {d a : AReg} {b : RegImm16} (h : Canonical s) : Keeps (execCxSub sl d a b s) := .next h.runOp

theorem execCxShl_keeps {sl : SliceId} {d a : AReg} {b : RegImm5} (h : Canonical s) : Keeps (execCxShl sl d a b s) := .next h.runOp

theorem execCxShr_keeps {sl : SliceId} {d a : AReg} {b : RegImm5} (h : Canonical s) : Keeps (execCxShr sl d a b s) := .next h.runOp

theorem execCxSar_keeps {sl : SliceId} {d a : AReg} {b : RegImm5} (h : Canonical s) : Keeps (execCxSar sl d a b s) := .next h.runOp

theorem execCxCmp_keeps {sl : SliceId} {cond : CxCond} {d a : AReg} {b : RegImm16} (h : Canonical s) :
    Keeps (execCxCmp sl cond d a b s) :=
  .next h.runOp

theorem execCxSel_keeps {sl : SliceId} {d cc a b : AReg} (h : Canonical s) : Keeps (execCxSel sl d cc a b s) := .next h.runOp

theorem execCxLdp_keeps {sl : SliceId} {d : AReg} {word : Fin 64} (h : Canonical s) : Keeps (execCxLdp sl d word s) := .next h.runOp

theorem execCxStp_keeps {sl : SliceId} {word : Fin 64} {a : AReg} (h : Canonical s) : Keeps (execCxStp sl word a s) := .next h.runOp

theorem execCxId_keeps {sl : SliceId} {d : AReg} (h : Canonical s) : Keeps (execCxId sl d s) := .next h.runOp

theorem execCxBr_keeps {sl : SliceId} {test : BrTest} {target : Int} (h : Canonical s) : Keeps (execCxBr sl test target s) := .next h.runOp

theorem execCxSumpop_keeps {sl : SliceId} {d : AReg} (h : Canonical s) : Keeps (execCxSumpop sl d s) := .ite (.next (.runOp (.of_mem h rfl))) .refused

theorem execCxSumset_keeps {sl : SliceId} {bit : Fin 16} {a : AReg} (h : Canonical s) : Keeps (execCxSumset sl bit a s) := .next h.runOp

theorem execFetch_keeps {sl : SliceId} {e : Engine} {lens : List Nat} {parity : Option Storage} (h : Canonical s) :
    Keeps (execFetch sl e lens parity s) := by
  unfold execFetch
  dsimp only
  split
  · exact .next h
  · refine .ite (.next h) (.ite (.next h.sliceFault) ?_)
    split
    · exact .next h.parityErr.sliceFault
    · refine .ite (.next h) ?_
      split
      · exact .ite (.next h.modSlice.sliceFault) (.next h.modSlice.modSlice.perfAdd)
      · exact .next h.modSlice.modSlice

theorem execIcacheMissReturn_keeps {sl : SliceId} {e : Engine} (h : Canonical s) : Keeps (execIcacheMissReturn sl e s) := by
  unfold execIcacheMissReturn
  split
  · exact .next h
  · exact .next h.modSlice

theorem execPerfClear_keeps {sl : SliceId} (h : Canonical s) : Keeps (execPerfClear sl s) := .next h.modSlice

/-! ## Layer -/

theorem Canonical.leaseFor {sl : SliceId} {r pos : Nat} (h : Canonical s) : Canonical (s.leaseFor sl r pos) := h.modChan.modCmd

theorem Canonical.hashedDone {c : Chan} {r : Rec} {pos : Nat} (h : Canonical s) : Canonical (s.hashedDone c r pos) := by
  unfold State.hashedDone
  split
  · exact h
  · exact .ite h.allDone h

theorem execLeafHash_keeps {c : Chan} {r : Rec} {pos : CmdNo} (h : Canonical s) : Keeps (execLeafHash c r pos s) := by
  unfold execLeafHash
  split
  · exact .next h
  · refine .ite (.next h) ?_
    split
    · exact .next h
    · split
      · exact .next h
      · split
        · exact .next h
        · refine .ite (.next h.wakeFor) ?_
          dsimp only
          split
          · exact .next h.touch.readFail.cmdFault
          · exact .next h.touch.modCmd

theorem execDigest_keeps {c : Chan} {r : Rec} {pos : CmdNo} (h : Canonical s) : Keeps (execDigest c r pos s) := by
  unfold execDigest
  split
  · exact .next h
  · split
    · exact .ite (.next h.modCmd) (.next h)
    · exact .next h

theorem execProvenanceDigest_keeps {c : Chan} {r : Rec} {pos : CmdNo} (h : Canonical s) : Keeps (execProvenanceDigest c r pos s) := by
  unfold execProvenanceDigest
  split
  · exact .next h
  · split
    · exact .next h
    · exact .ite (.next h) (.next (.hashedDone (.modCmd (.ite (.foldl (fun _ _ h1 => h1.leaseFor) h) h))))

theorem Canonical.partDone {c : Chan} {r : Rec} {pos : Nat} {sl : SliceId} (h : Canonical s) : Canonical (s.partDone c r pos sl) := h.modSlice.modCmd

theorem execPatch_keeps {c : Chan} {r : Rec} {pos : CmdNo} (h : Canonical s) : Keeps (execPatch c r pos s) := by
  unfold execPatch
  split
  · exact .next h
  · exact .ite (.next h) (.next (.allDone (.foldl (fun _ _ h1 => (.ite h1.modSlice.partDone h1)) h)))

theorem Canonical.partFault {c : Chan} {r : Rec} {pos : Nat} {sl : SliceId} {e : MoveErr} {tag : W32} (h : Canonical s) :
    Canonical (s.partFault c r pos sl e tag) :=
  h.noteErr.cmdFault

theorem Canonical.partMoved {reads writes : List (Nat × Nat)} {f : State → State × Option MoveErr × Bool} (h : Canonical s)
    (hf : ∀ {t : State}, Canonical t → Canonical (f t).1) : Canonical (s.partMoved reads writes f).1 :=
  .ite_fst (hf h.touch) h.wakeFor

theorem Canonical.doParts {c : Chan} {r : Rec} {pos : Nat} {f : Part} (h : Canonical s)
    (hf : ∀ {t : State} {m : Cmd} {v : Mover}, Canonical t → Canonical (f t m v).1) : Canonical (s.doParts c r pos f) := by
  unfold State.doParts
  split
  · exact h
  · refine .allDone (.foldl (fun t sl ht => ?_) h)
    split
    · exact ht
    · refine .ite ?_ ht
      have hp : ∀ m v, Canonical (f (t.leaseFor sl r pos) m v).1 := fun m v => hf ht.leaseFor
      dsimp only
      split
      · exact (hp _ _).partFault
      · exact .ite (hp _ _).partDone (hp _ _)

theorem copyPart_fst {c : Chan} {r : Rec} {pos : Nat} {d : CopyD} {m : Cmd} {v : Mover} (h : Canonical s) :
    Canonical (copyPart c r pos d s m v).1 := by
  refine .ite_fst (h.partMoved (fun ht => ?_)) (h.partMoved (fun ht => ?_))
  · split
    · exact ht
    · exact ht.scrubStage.modCmd.perfAdd
  · split
    · exact ht.perfAdd
    · exact ht.moveWrite.perfAdd

theorem execCopy_keeps {c : Chan} {r : Rec} {pos : CmdNo} (h : Canonical s) : Keeps (execCopy c r pos s) := by
  unfold execCopy
  split
  · exact .next h
  · split
    · exact .ite (.next h) (.next (h.doParts copyPart_fst).modCmd)
    · exact .next h

theorem execStagedCopyWrite_keeps {c : Chan} {r : Rec} {pos : CmdNo} (h : Canonical s) : Keeps (execStagedCopyWrite c r pos s) := by
  unfold execStagedCopyWrite
  split
  · exact .next h
  · split
    · refine .ite (.next h) (.ite (.next h.wakeFor) (.next (.allDone (.foldl (fun t sl ht => ?_) h.touch))))
      split
      · refine .ite ht ?_
        split <;> rename_i hw <;> have hm := congrArg Prod.fst hw ▸ ht.moveWrite
        · exact Canonical.partFault hm
        · exact Canonical.partDone (Canonical.perfAdd hm)
      · exact ht
    · exact .next h

theorem fillPart_fst {c : Chan} {n : Nat} {t : TRec} {m : Cmd} {v : Mover} (h : Canonical s) : Canonical (fillPart c n t s m v).1 :=
  h.partMoved (fun ht => ht.moveWrite.perfAdd)

theorem execFill_keeps {c : Chan} {r : Rec} {pos : CmdNo} (h : Canonical s) : Keeps (execFill c r pos s) := by
  unfold execFill
  split
  · exact .next h
  · split
    · exact .next (h.doParts fillPart_fst)
    · exact .next h

theorem gatherPart_fst {c : Chan} {r : Rec} {pos : Nat} {d : GatherD} {m : Cmd} {v : Mover} (h : Canonical s) :
    Canonical (gatherPart c r pos d s m v).1 :=
  .ite_fst (.ite_fst h (h.partMoved (fun ht => ht.modCmd.runItem.perfAdd))) (h.partMoved (fun ht => ht.runItems.perfAdd))

theorem execGather_keeps {c : Chan} {r : Rec} {pos : CmdNo} (h : Canonical s) : Keeps (execGather c r pos s) := by
  unfold execGather
  split
  · exact .next h
  · split
    · exact .ite (.next (h.doParts gatherPart_fst)) (.next h)
    · exact .next h

theorem execLayer_keeps {c : Chan} {r : Rec} {pos : CmdNo} (h : Canonical s) : Keeps (execLayer c r pos s) := by
  unfold execLayer
  split
  · exact .next h
  · refine .ite (.next h) (.ite (.next h.wakeFor) ?_)
    dsimp only
    split
    · exact .next h.touch.readFail.cmdFault
    · exact .next h.touch.modCmd.hashedDone

theorem Canonical.dropMails {sl : SliceId} {own : Rec × Byte} (h : Canonical s) : Canonical (s.dropMails sl own) :=
  .ite h (.foldl (fun _ _ h1 => h1.dropMail) h.modSlice)

theorem Canonical.startLayer {sl : SliceId} {r : Rec} {m : Cmd} (h : Canonical s) : Canonical (s.startLayer sl r m) := by
  unfold State.startLayer
  dsimp only
  split
  · exact h
  · exact .ite h.leaseFor.dropMails.modSlice.modCmd.sliceFinish h.leaseFor.dropMails.modSlice.modCmd.sliceFault

theorem execLayerStart_keeps {sl : SliceId} (h : Canonical s) : Keeps (execLayerStart sl s) := by
  unfold execLayerStart
  split
  · exact .next h
  · split
    · exact .next h
    · exact .ite (.next h.startLayer) (.next h)

theorem Canonical.answerStop {c r pos : Nat} {sl : SliceId} (h : Canonical s) : Canonical (s.answerStop c r pos sl) := h.modCmd

theorem Canonical.stopRunning {sl : SliceId} {l : LayerRun} (h : Canonical s) : Canonical (s.stopRunning sl l) := h.withdrawBx.modSlice.answerStop

theorem execSliceStop_keeps {sl : SliceId} (h : Canonical s) : Keeps (execSliceStop sl s) := by
  unfold execSliceStop
  extract_lets x c rest
  have hrest : Canonical rest := by
    dsimp only [rest]
    split
    · exact h.withdrawBx.modSlice.answerStop
    · split
      · exact h.modSlice.answerStop
      · exact h
  split
  · exact .ite (.next hrest) (.ite (.next h) (.next h.stopRunning))
  · exact .next hrest

theorem Canonical.noteDesched {c : Nat} (h : Canonical s) : Canonical (s.noteDesched c) := h.modChan.noteSat

theorem execDeschedule_keeps {sl : SliceId} (h : Canonical s) : Keeps (execDeschedule sl s) := by
  unfold execDeschedule
  dsimp only
  split
  · exact .next h
  · split
    · exact .next h
    · exact .ite (.next h) (.next h.modSlice.noteDesched.startLayer)

theorem execResume_keeps {sl : SliceId} (h : Canonical s) : Keeps (execResume sl s) := by
  unfold execResume
  dsimp only
  split
  · exact .next h
  · refine .ite (.next h) ?_
    split
    · exact .next h.modSlice
    · exact .ite (.next h) (.next h.modSlice.noteDesched)

/-! ## Check -/

theorem Canonical.retriedOk {c : Nat} (h : Canonical s) : Canonical (s.retriedOk c) := h.modChk.noteSat

theorem Canonical.scrubFail {c blk : Nat} (h : Canonical s) : Canonical (s.scrubFail c blk) := h.modChk.alert.noteSat

theorem Canonical.seqReadFails {c : Chan} {r : Rec} {pos : CmdNo} {blk : Nat} (h : Canonical s) : Canonical (s.seqReadFails c r pos blk) := by
  unfold State.seqReadFails
  split
  · exact .ite h h.readFail.cmdFault
  · exact .ite h.readFail.endUnread h
  · exact h

theorem Canonical.reactivate {c b row : Nat} (h : Canonical s) : Canonical (s.reactivate c b row) := h.modChan

theorem Canonical.sliceReadFails {sl : SliceId} {e : Engine} {blk : Nat} (h : Canonical s) : Canonical (s.sliceReadFails sl e blk) := by
  unfold State.sliceReadFails
  split
  · exact h.readFail.sliceFault
  · split
    · exact .ite h.readFail.cmdFault h
    · exact h
  · exact h

theorem Canonical.retried {c b blk : Nat} {ok1 ok2 : Bool} {bad : State → State} (h : Canonical s) (hf : ∀ t, Canonical t → Canonical (bad t)) :
    Canonical (s.retried c b blk ok1 ok2 bad) :=
  .ite (.retriedOk (.ite h.timing h.timing.reactivate)) (hf _ (.ite h.timing h.timing.reactivate))

theorem execReadRetry_keeps {c : Chan} {b : BankIx} {who : Reader} {ok1 ok2 : Bool} (h : Canonical s) : Keeps (execReadRetry c b who ok1 ok2 s) := by
  unfold execReadRetry
  split
  · split
    · exact .next h
    · exact .ite (.next (.complete (.retriedOk (.ite h.modBank.timing h.modBank.timing.reactivate)))) (.next (.completeBad (.ite h.modBank.timing
      h.modBank.timing.reactivate)))
  · exact .ite (.next h) (.next (h.retried (fun _ h1 => h1.sliceReadFails)))
  · exact .ite (.next h) (.next (h.retried (fun _ h1 => h1.scrubFail)))
  · exact .ite (.next h) (.next (h.retried (fun _ h1 => h1.seqReadFails)))
  · exact .ite (.next h) (.next (h.retried (fun _ h1 => h1.seqReadFails)))

theorem execPayloadReceive_keeps {c : Chan} {hop : Hop} {cargo : Cargo} {ok : Bool} (h : Canonical s) : Keeps (execPayloadReceive c hop cargo ok s) :=
  .ite (.next h) (.next h.modChk.timing)

theorem Canonical.undelivered {c : Nat} {x : Hop} {g : Cargo} (h : Canonical s) : Canonical (s.undelivered c x g) := by
  unfold State.undelivered
  split
  · split
    · exact h.cmdFault
    · exact h
  · refine .ite h.sliceFault ?_
    split
    · exact h.cmdFault
    · exact h
  · exact h.modGroup
  · exact h.modBank

theorem execTransitResend_keeps {c : Chan} {ok : Bool} (h : Canonical s) : Keeps (execTransitResend c ok s) := by
  unfold execTransitResend
  split
  · exact .next h
  · exact .ite (.next h.modChk) (.next (.undelivered (.timing (.noteSat (.alert (.modChk h.modChk))))))

theorem execSettleNotice_keeps {c : Chan} (h : Canonical s) : Keeps (execSettleNotice c s) := by
  unfold execSettleNotice
  split
  · exact .next h
  · exact .next (.modChan (.of_mem h rfl))

theorem execScrubRead_keeps {c : Chan} {b : BankIx} {blk : Fin 128} {ok0 ok1 ok2 : Bool} (h : Canonical s) :
    Keeps (execScrubRead c b blk ok0 ok1 ok2 s) :=
  .ite (.next h) (.ite (.next h.modChk) (.ite (.next h.modChk.retriedOk) (.next h.modChk.scrubFail)))

theorem execScrubInterval_keeps {c : Chan} (h : Canonical s) : Keeps (execScrubInterval c s) :=
  .ite (.next h) (.ite (.next h.modChk) (.next (.ite h.modChk.modChk.noteSat h.modChk.modChk)))

theorem Canonical.chkClear {c : Nat} (h : Canonical s) : Canonical (s.chkClear c) := h.modChk

theorem Canonical.wlogClear {c : Nat} (h : Canonical s) : Canonical (s.wlogClear c) := .ite h.modChan h

theorem Canonical.chkCtrl {c : Nat} {v : W32} (h : Canonical s) :
    Canonical (s.chkCtrl c v) :=
  .ite (.wlogClear (.ite h.chkClear h)) (.ite h.chkClear h)

theorem Canonical.scrubCfg {c : Nat} {v : W32} (h : Canonical s) : Canonical (s.scrubCfg c v) := h.modChk

theorem execClearCounters_keeps {c : Chan} (h : Canonical s) : Keeps (execClearCounters c s) := .next (h.hostReg (fun _ h1 => h1.chkClear))

theorem execClearWlog_keeps {c : Chan} (h : Canonical s) : Keeps (execClearWlog c s) := .next (h.hostReg (fun _ h1 => h1.wlogClear))

theorem Canonical.errClear (h : Canonical s) : Canonical s.errClear := h.modMg

theorem execErrLogClear_keeps (h : Canonical s) : Keeps (execErrLogClear s) := .next (h.hostReg (fun _ h1 => h1.errClear))

theorem execErrorLogRecord_keeps (h : Canonical s) : Keeps (execErrorLogRecord s) := by
  unfold execErrorLogRecord
  split
  · exact .next h
  · exact .ite (.next h.modMg.modMg) (.next h.modMg.modMg.alert.noteSat)

/-! ## Power -/

theorem Canonical.tryEntry {d : Domain} (h : Canonical s) : Canonical (s.tryEntry d) := .ite h (.ite h.refuse h.modDom)

theorem execOwnerWait_keeps {d : Domain} (h : Canonical s) : Keeps (execOwnerWait d s) :=
  .ite (.next h) (.ite (.next h.modBoot.tryEntry) (.ite (.next h.stir) (.ite (.next h) (.next h.modDom.tryEntry))))

theorem execSelfRefreshEntry_keeps {c : Chan} (h : Canonical s) : Keeps (execSelfRefreshEntry c s) := .ite (.next h.modChan) (.next h)

theorem execSelfRefreshExit_keeps {c : Chan} (h : Canonical s) : Keeps (execSelfRefreshExit c s) := .ite (.next h.modChan) (.next h)

theorem execWakeSource_keeps {d : Domain} (h : Canonical s) : Keeps (execWakeSource d s) := .ite (.next h.wake) (.next h)

theorem Canonical.applyTarget {d : Domain} (h : Canonical s) : Canonical (s.applyTarget d) := .ite (.ite h h.wake) (.ite h.modDom.tryEntry h)

theorem Canonical.writeTarget {d : Domain} {v : Nat} (h : Canonical s) : Canonical (s.writeTarget d v) := .ite h.modDom h.modDom.applyTarget

theorem Canonical.settleTarget {d : Domain} (h : Canonical s) : Canonical (s.settleTarget d) := .ite h.modDom.applyTarget h

theorem Canonical.enterLow {d : Domain} {t : PState} (h : Canonical s) : Canonical (s.enterLow d t) := by
  unfold State.enterLow
  split
  · exact .ite (.of_mem h rfl) h
  · exact .ite h.modSc h
  · exact h.modPwr
  · exact h

theorem execPointOfNoReturn_keeps {d : Domain} (h : Canonical s) : Keeps (execPointOfNoReturn d s) :=
  .ite (.next h.modDom.enterLow.settleTarget) (.next h)

theorem Canonical.clearBank {c b : Nat} (h : Canonical s) : Canonical (s.clearBank c b) := .foldl (fun _ _ h1 => (.of_mem h1 rfl)) h

theorem Canonical.mgmtFromOff (h : Canonical s) : Canonical s.mgmtFromOff := h.modMg.alert

theorem Canonical.wantSession (h : Canonical s) : Canonical s.wantSession := .ite h.modSc h

theorem Canonical.reachUp {d : Domain} {off : Bool} (h : Canonical s) : Canonical (s.reachUp d off) := by
  unfold State.reachUp
  split
  · exact .ite h.clearBank h
  · exact .ite (.of_mem h rfl) h.modPwr
  · exact h
  · exact h
  · exact .ite h.mgmtFromOff h
  · exact .ite h.wantSession h

theorem execTransitionComplete_keeps {d : Domain} (h : Canonical s) : Keeps (execTransitionComplete d s) := by
  unfold execTransitionComplete
  dsimp only
  generalize (s.dom d).going = t
  cases t with
  | none => exact .next h
  | some t => exact .ite (.next h) (.ite (.next h.wake1) (.next h.modDom.reachUp.settleTarget))

theorem execTargetWrite_keeps {d : Domain} {v : BitVec 2} (h : Canonical s) : Keeps (execTargetWrite d v s) :=
  .next (h.hostReg (fun _ h1 => h1.writeTarget))

theorem Canonical.pllReqWrite {c : Nat} (h : Canonical s) : Canonical (s.pllReqWrite c) := h.modPwr

theorem execPllReq_keeps {c : Chan} (h : Canonical s) : Keeps (execPllReq c s) := .next (h.hostReg (fun _ h1 => h1.pllReqWrite))

theorem Canonical.pointMoves {c v : Nat} (h : Canonical s) : Canonical (s.pointMoves c v) := .ite h.timing h

theorem Canonical.channelOn {c : Chan} (h : Canonical s) : Canonical (s.channelOn c) := h.pointMoves.modPwr.settleTarget

theorem execPllLock_keeps {c : Chan} (h : Canonical s) : Keeps (execPllLock c s) :=
  .ite (.ite (.next h.modPwr.modTrain) (.next h.modPwr.channelOn)) (.next h)

theorem execPllLockLoss_keeps {c : Chan} (h : Canonical s) : Keeps (execPllLockLoss c s) := .ite (.next h.modPwr.timing) (.next h)

theorem execSweepDone_keeps {c : Chan} (h : Canonical s) : Keeps (execSweepDone c s) :=
  .ite (.next h) (.ite (.next (.repairSlices (.goOffline (.ite h.modTrain.modChan.channelOn h.modTrain)))) (.next (.ite
    h.modTrain.modChan.channelOn h.modTrain)))

theorem Canonical.startPoint {c v : Nat} (h : Canonical s) : Canonical (s.startPoint c v) := h.pointMoves.modPwr

theorem Canonical.opWrite {c v : Nat} (h : Canonical s) : Canonical (s.opWrite c v) := .ite h.modPwr.modPwr (.ite h.modPwr.startPoint h.modPwr)

theorem execOpTargetWrite_keeps {c : Chan} {v : BitVec 2} (h : Canonical s) : Keeps (execOpTargetWrite c v s) :=
  .next (h.hostReg (fun _ h1 => h1.opWrite))

theorem execOpPointChangeDone_keeps {c : Chan} (h : Canonical s) : Keeps (execOpPointChangeDone c s) := by
  unfold execOpPointChangeDone
  dsimp only
  split
  · exact .next h
  · split
    · exact .ite (.next h.pointMoves.modPwr.startPoint) (.next h.pointMoves.modPwr)
    · exact .next h.pointMoves.modPwr

theorem Canonical.refusalClear {d : Domain} (h : Canonical s) : Canonical (s.refusalClear d) := h.modDom

theorem Canonical.bankRefusalsClear {c : Nat} (h : Canonical s) : Canonical (s.bankRefusalsClear c) := h.modChan

theorem execPwrRefusalClear_keeps {d : Domain} (h : Canonical s) : Keeps (execPwrRefusalClear d s) := by
  unfold execPwrRefusalClear
  split
  · exact .next h
  · exact .next (h.hostReg (fun _ h1 => h1.refusalClear))

theorem execPwrBankClearCounters_keeps {c : Chan} (h : Canonical s) : Keeps (execPwrBankClearCounters c s) :=
  .next (h.hostReg (fun _ h1 => h1.bankRefusalsClear))

theorem Canonical.allowWrite {c : Chan} {v : Nat} (h : Canonical s) : Canonical (s.allowWrite c v) := .ite h.modLedger h.modLedger

theorem execLedgerAllowWrite_keeps {c : Chan} {v : W32} (h : Canonical s) : Keeps (execLedgerAllowWrite c v s) :=
  .next (h.hostReg (fun _ h1 => h1.allowWrite))

theorem execLimiterWindow_keeps {c : Chan} {drawMw : Nat} (h : Canonical s) : Keeps (execLimiterWindow c drawMw s) :=
  .ite (.next (.ite h h.modChan.timing)) (.next h.draw.modChan.timing)

/-! ## Strict -/

theorem Canonical.reclaimAll (h : Canonical s) : Canonical s.reclaimAll := .foldl (fun _ _ h1 => h1.reclaim) h

theorem Canonical.setStrict {v : Bool} (h : Canonical s) : Canonical (s.setStrict v) := .ite h.modPort.reclaimAll h.modPort

theorem execStrictWrite_keeps {v : Bool} (h : Canonical s) : Keeps (execStrictWrite v s) := .next (h.hostReg (fun _ h1 => h1.setStrict))

theorem execStrictOrigin_keeps (h : Canonical s) : Keeps (execStrictOrigin s) := .ite (.next h.tick) (.next h)

theorem Canonical.epochSlip (h : Canonical s) : Canonical s.epochSlip := .ite (.foldl (fun _ _ h1 => h1.timing) h.modPort.noteSat) h.modPort.noteSat

theorem execEpochTick_keeps (h : Canonical s) : Keeps (execEpochTick s) :=
  .ite (.next h) (.ite (.ite (.next h) (.next (.of_mem h rfl))) (.ite (.ite (.next h) (.next h.epochSlip)) (.next h)))

theorem Canonical.epochClear (h : Canonical s) : Canonical s.epochClear := h.modPort

theorem Canonical.epochWrite {v : W32} (h : Canonical s) : Canonical (s.epochWrite v) := .ite h.modPort.epochClear h.modPort

theorem execEpochClear_keeps (h : Canonical s) : Keeps (execEpochClear s) := .next (h.hostReg (fun _ h1 => h1.epochClear))

theorem Canonical.strictClear {c : Nat} {mask : BitVec 6} (h : Canonical s) : Canonical (s.strictClear c mask) := h.modChan

theorem execStrictStatusClear_keeps {c : Chan} {mask : BitVec 6} (h : Canonical s) : Keeps (execStrictStatusClear c mask s) :=
  .next (h.hostReg (fun _ h1 => h1.strictClear))

/-! ## Security -/

theorem Canonical.andThen {r : Fusing} {f : State → List Bool → Fusing} (h : Canonical r.s)
    (hf : ∀ {t : State} {bl : List Bool}, Canonical t → Canonical (f t bl).s) : Canonical (r.andThen f).s :=
  .ite_s (hf h) h

theorem Canonical.modFuses {f : Fuses → Fuses} (h : Canonical s) : Canonical (s.modFuses f) := .of_mem h rfl

theorem Canonical.modMram {f : Mram → Mram} (h : Canonical s) : Canonical (s.modMram f) := .of_mem h rfl

theorem Canonical.writeSlot {bl : List Bool} {put : Fuses → Nat → Bool → Fuses} (h : Canonical s) : Canonical (s.writeSlot bl put).s :=
  .ite_s h.draw.modFuses h.draw.modFuses

theorem Canonical.writeSecret {bl : List Bool} (h : Canonical s) : Canonical (s.writeSecret bl).s :=
  .ite_s h (.ite_s h (.ite_s (.ite_s h.writeSlot (.ite_s h.writeSlot h)) (.modFuses (.ite_s h.writeSlot (.ite_s h.writeSlot h)))))

theorem Canonical.blowLifecycle {want : Nat} {bl : List Bool} (h : Canonical s) : Canonical (s.blowLifecycle want bl).s := h.modFuses

theorem Canonical.blowDisable {bl : List Bool} (h : Canonical s) : Canonical (s.blowDisable bl).s := .ite_s h h.modFuses

theorem Canonical.enqueue {q : SecReq} (h : Canonical s) : Canonical (s.enqueue q) := h.modSc

theorem Canonical.popSec (h : Canonical s) : Canonical s.popSec := h.modSc

theorem Canonical.newChallenge (h : Canonical s) : Canonical s.newChallenge := h.draw.modSc

theorem Canonical.tokenDone {r : Nat} (h : Canonical s) : Canonical (s.tokenDone r) :=
  .ite (.modBoot (.ite h.popSec.modSc.newChallenge h.popSec.modSc.newChallenge.modSc.secEvent)) (.ite h.popSec.modSc.newChallenge
    h.popSec.modSc.newChallenge.modSc.secEvent)

theorem Canonical.reportFails {sideband : Bool} {r : Nat} (h : Canonical s) : Canonical (s.reportFails sideband r) := .ite h.popSec h.popSec.modSc

theorem Canonical.serveSec {n : Nat} (h : Canonical s) : Canonical (State.serveSec n s) := by
  induction n generalizing s with
  | zero => exact h
  | succ n ih =>
    unfold State.serveSec
    split
    · exact h
    · exact .ite h (.ite h.modSc (ih h.tokenDone))
    · refine .ite (ih h.reportFails) ?_
      split
      · exact .ite h.modSc h
      · exact .ite (ih h.reportFails) h.modSc
    · exact .ite h (ih h.popSec)
    · exact h

theorem Canonical.secServe (h : Canonical s) : Canonical s.secServe := .ite h.serveSec h

theorem Canonical.submit {sideband : Bool} (h : Canonical s) : Canonical (s.submit sideband) := h.enqueue.modSc.secServe

theorem execSubmit_keeps (h : Canonical s) : Keeps (execSubmit s) := .next (h.hostReg (fun _ h1 => h1.submit))

theorem execChallenge_keeps (h : Canonical s) : Keeps (execChallenge s) := .next (h.hostReg (fun _ h1 => h1.newChallenge))

theorem Canonical.attestGo (h : Canonical s) : Canonical s.attestGo := .ite h.modSc h.enqueue.modSc.secServe

theorem execAttestGo_keeps (h : Canonical s) : Keeps (execAttestGo s) := .next (h.hostReg (fun _ h1 => h1.attestGo))

theorem Canonical.relock (h : Canonical s) : Canonical s.relock := h.modSc.modMram

theorem execRelock_keeps (h : Canonical s) : Keeps (execRelock s) := .next (h.hostReg (fun _ h1 => h1.relock))

theorem Canonical.finish {r : Fusing} {done : State → State} (h : Canonical r.s) (hf : ∀ t, Canonical t → Canonical (done t)) : Canonical (r.finish done) :=
  .ite (hf _ h).tokenDone.secServe h.secEvent.tokenDone.secServe

theorem Canonical.unlock {level : Nat} (h : Canonical s) :
    Canonical (s.unlock level) :=
  .ite h.modSc.secEvent.modSc.secEvent.wantSession h.modSc.secEvent

theorem execDebug_keeps (h : Canonical s) : Keeps (execDebug s) := by
  unfold execDebug
  split
  · exact .next h
  · exact .next (.secServe (.tokenDone (.unlock (.ite h.modMram h))))

theorem Canonical.genIdentity (h : Canonical s) : Canonical s.genIdentity := h.draw.modMram

theorem Canonical.eraseMram (h : Canonical s) : Canonical s.eraseMram := h.modMram

theorem Canonical.transition {target : Nat} {bl : List Bool} (h : Canonical s) : Canonical (s.transition target bl).s := by
  have hd : ∀ n, Canonical ((s.eraseMram.blowDisable bl).andThen (fun s bl => s.blowLifecycle n bl)).s :=
    fun n => h.eraseMram.blowDisable.andThen (fun ht => ht.blowLifecycle)
  unfold State.transition
  split
  · exact h.writeSecret.andThen (fun ht => ht.genIdentity.blowLifecycle)
  · exact h.blowLifecycle
  · exact hd 7
  · exact .ite_s h.blowLifecycle (hd 15)

theorem execLifecycle_keeps {blows : List Bool} (h : Canonical s) : Keeps (execLifecycle blows s) := by
  unfold execLifecycle
  split
  · exact .next h
  · exact .next (h.transition.finish (fun _ h1 => h1.modMram.secEvent))

theorem execRevoke_keeps {blows : List Bool} (h : Canonical s) : Keeps (execRevoke blows s) := by
  unfold execRevoke
  split
  · exact .next h
  · exact .next (h.modFuses.finish (fun _ h1 => h1.secEvent))

theorem execSecver_keeps {blows : List Bool} (h : Canonical s) : Keeps (execSecver blows s) := by
  unfold execSecver
  split
  · exact .next h
  · exact .next (Canonical.finish (r := ⟨_, _, _⟩) h.modFuses (fun _ ht => ht))

theorem execOwner_keeps {blows : List Bool} (h : Canonical s) : Keeps (execOwner blows s) := by
  unfold execOwner
  split
  · exact .next h
  · exact .next (Canonical.finish (Canonical.andThen (r := ⟨_, _, _⟩) h.modFuses (fun ht => .ite_s ht.modFuses ht)) (fun _ ht => ht))

theorem Canonical.reserveBlock {bl : List Bool} (h : Canonical s) : Canonical (s.reserveBlock bl).s := .ite_s h.modFuses.secEvent h.secEvent

theorem Canonical.useIndex (h : Canonical s) : Canonical s.useIndex := .ite h.modMram.secEvent h.modMram

theorem Canonical.certify (h : Canonical s) : Canonical s.certify := h.draw.draw.modSc

theorem execSessionKeyGenerated_keeps {blows : List Bool} (h : Canonical s) : Keeps (execSessionKeyGenerated blows s) := by
  have hr : Canonical (if 1024 * s.secServe.fuses.idBlocks ≤ s.secServe.mram.nextIndex then s.secServe.reserveBlock blows else ⟨s.secServe, blows, true⟩ : Fusing).s :=
    .ite_s h.secServe.reserveBlock h.secServe
  unfold execSessionKeyGenerated
  dsimp only
  split
  · exact .ite (.next h.secServe) (.ite (.next hr.useIndex.certify.popSec.secServe) (.next hr.popSec.secServe))
  · exact .next h.secServe

theorem execReportSigned_keeps (h : Canonical s) : Keeps (execReportSigned s) := by
  unfold execReportSigned
  dsimp only
  split
  · exact .ite (.next h.secServe) (.next (.secServe (.ite h.secServe.draw.popSec.modSc.wantSession h.secServe.draw.popSec.modSc)))
  · exact .next h.secServe

theorem Canonical.bypass {tdi : List Bool} (h : Canonical s) : Canonical (s.bypass tdi) := h.modSc

theorem execBypass_keeps {tdi : List Bool} (h : Canonical s) : Keeps (execBypass tdi s) := .ite (.next h.bypass) (.next h)

theorem execIdcode_keeps (h : Canonical s) : Keeps (execIdcode s) := .ite (.next h.modSc) (.next h)

theorem Canonical.boundary {tdi : List Bool} (h : Canonical s) : Canonical (s.boundary tdi) := .ite (.modSc (.of_mem h rfl)) h.bypass

theorem execExtest_keeps {tdi : List Bool} (h : Canonical s) : Keeps (execExtest tdi s) := .ite (.next h.boundary) (.next h)

theorem execSamplePreload_keeps {tdi : List Bool} (h : Canonical s) : Keeps (execSamplePreload tdi s) := .ite (.next h.boundary) (.next h)

theorem Canonical.tokenLoad {off : Nat} {bs : List Byte} (h : Canonical s) : Canonical (s.tokenLoad off bs) := h.modSc

theorem execTapTokenLoad_keeps {off : Nat} {bytes : List Byte} (h : Canonical s) : Keeps (execTapTokenLoad off bytes s) :=
  .ite (.next h.tokenLoad.wake) (.next h)

theorem execTrstNAssert_keeps (h : Canonical s) : Keeps (execTrstNAssert s) := .ite (.next (.of_mem h rfl)) (.next h)

theorem Canonical.scWrite {off : Nat} {v : W32} (h : Canonical s) : Canonical (s.scWrite off v) :=
  .ite (.ite h.relock h) (.ite (.ite (.submit (.ite h.newChallenge h)) (.ite h.newChallenge h)) (.ite (.ite h.attestGo h) (.ite h.modSc (.ite
    h.tokenLoad h))))

/-! ## Reset -/

theorem Canonical.porReset (h : Canonical s) : Canonical s.porReset := .of_mem h rfl

theorem Canonical.powerOff (_h : Canonical s) : Canonical s.powerOff := wf_nil

theorem Canonical.warmReset (h : Canonical s) : Canonical s.warmReset := .of_mem h rfl

theorem Canonical.modPins {f : Pins → Pins} (h : Canonical s) : Canonical (s.modPins f) := .of_mem h rfl

theorem execPorstNAssert_keeps {aonCycles : Nat} (h : Canonical s) : Keeps (execPorstNAssert aonCycles s) := .ite (.next h) (.next h.porReset.modPins)

theorem execWarmrstNAssert_keeps {aonCycles : Nat} (h : Canonical s) : Keeps (execWarmrstNAssert aonCycles s) :=
  .ite (.next h) (.next h.warmReset.modPins)

theorem execRefclkLoss_keeps (h : Canonical s) : Keeps (execRefclkLoss s) := .ite (.next h.modPins) (.next (.modPins (.ite h.warmReset h)))

theorem execRefclkRunsAgain_keeps {us : Nat} (h : Canonical s) : Keeps (execRefclkRunsAgain us s) := .ite (.next h) (.next h.modPins)

theorem execModulePowerOff_keeps (h : Canonical s) : Keeps (execModulePowerOff s) := .next h.powerOff.modPins

theorem execInputStageCharged_keeps (h : Canonical s) : Keeps (execInputStageCharged s) := .ite (.next h.modPins) (.next h)

theorem execVaonApplied_keeps (h : Canonical s) : Keeps (execVaonApplied s) := .ite (.next h) (.next (.modPins (.of_mem h rfl)))

theorem execVaonRemoved_keeps (h : Canonical s) : Keeps (execVaonRemoved s) := .next h.porReset.modPins

/-! ## Thermal -/

theorem Canonical.readSensor {e : Nat × Int} (h : Canonical s) : Canonical (s.readSensor e) := .ite h (.ite h.modMg.alert h.modMg)

theorem Canonical.noteEngaged {c : Nat} (h : Canonical s) : Canonical (s.noteEngaged c) := h.modMg.alert.noteSat

theorem Canonical.heatChan {c : Nat} (h : Canonical s) : Canonical (s.heatChan c) := by
  have hs : Canonical (match s.tierTemp c with
      | some t => s.modChan c (fun ch => { ch with mem := { ch.mem with pendStep := nextStep ch.mem.pendStep t } })
      | none => s) := by
    split
    · exact h.modChan
    · exact h
  unfold State.heatChan
  extract_lets t
  split
  · exact hs
  · exact .ite (.timing (.ite (.noteEngaged (.modChan hs)) (.modChan hs))) (.ite (.noteEngaged (.modChan hs)) (.modChan hs))

theorem execSensorRead_keeps {readings : List (Nat × Int)} (h : Canonical s) : Keeps (execSensorRead readings s) :=
  .ite (.next h) (.next (.foldl (fun _ _ h1 => h1.heatChan) (.modMg (.foldl (fun _ _ h1 => h1.readSensor) h))))

theorem execThermalTrip_keeps {sensor : Fin 2608} {reading : Int} (h : Canonical s) : Keeps (execThermalTrip sensor reading s) :=
  .ite (.next h.powerOff.modMg) (.next h)

theorem Canonical.thermClear (h : Canonical s) : Canonical s.thermClear := h.modMg

theorem execThermStatClear_keeps (h : Canonical s) : Keeps (execThermStatClear s) := .next (h.hostReg (fun _ h1 => h1.thermClear))

/-! ## Boot -/

theorem Canonical.copyRow {c b row : Nat} (h : Canonical s) : Canonical (s.copyRow c b row) := h.modChan

theorem Canonical.enableRow {c b row : Nat} (h : Canonical s) : Canonical (s.enableRow c b row) :=
  .foldl (fun _ _ h1 => h1.setDiff) (h.modChan.written _ _)

theorem Canonical.skip {m : MergeSt} {bad : List (Nat × Nat)} (h : Canonical m.s) : Canonical (m.skip bad).s := h

theorem Canonical.take {m : MergeSt} {c : Nat} {f : Channel → Channel} (h : Canonical m.s) : Canonical (m.take c f).s := h.modChan

theorem Canonical.record {m : MergeSt} {r : Repair} (h : Canonical m.s) : Canonical (m.record r).s := by
  unfold MergeSt.record
  refine .ite_merge h ?_
  dsimp only
  split
  · refine .ite_merge ?_ h.skip
    dsimp only
    exact Canonical.enableRow (Canonical.copyRow h)
  · exact .ite_merge h.take h.skip
  · exact .ite_merge h.skip h.take

theorem Canonical.failed {m : MergeSt} {c p q : Nat} (h : Canonical m.s) : Canonical (m.failed c p q).s := by
  unfold MergeSt.failed
  dsimp only
  split
  · exact h
  · exact .ite_merge h (.ite_merge h.modChan.addRepair (.ite_merge h h.modChan.addRepair))

theorem Canonical.channel {m : MergeSt} {c : Nat} (h : Canonical m.s) : Canonical (m.channel c).s :=
  .foldl_merge (fun _ _ h1 => .foldl_merge (fun _ _ h2 => h2.failed) h1) h

theorem Canonical.scramble {c b : Nat} (h : Canonical s) : Canonical (s.scramble c b) :=
  .foldl (fun _ _ h1 => h1.setDiff) ((h.written _ _).of_mem rfl)

theorem Canonical.darn {sweeps : List (Nat × List LaneTaps)} (h : Canonical s) : Canonical (s.darn sweeps) := by
  unfold State.darn
  dsimp only
  refine Canonical.modBoot (Canonical.modMg (Canonical.foldl (fun _ _ h1 => Canonical.foldl (fun _ _ h2 => .ite h2 h2.scramble) h1)
    (Canonical.foldl (fun _ _ h1 => .ite h1.goOffline h1) ?_)))
  exact Canonical.foldl_merge (fun _ _ h1 => h1.channel) (Canonical.foldl_merge_mk (fun _ _ h1 => h1.record) (Canonical.foldl (fun _ _ h1 => h1.modChan) h))

theorem Canonical.bootCounted {ok : Bool} (h : Canonical s) : Canonical (s.bootCounted ok) := .ite h.modMram h.modMram.secEvent

theorem Canonical.indexChecked {ok : Bool} {blows : List Bool} (h : Canonical s) : Canonical (s.indexChecked ok blows) :=
  .ite h (.ite h.modMram.secEvent.secEvent h.modMram.secEvent.reserveBlock)

theorem Canonical.applyInstalled {ok : Bool} (h : Canonical s) : Canonical (s.applyInstalled ok) := by
  unfold State.applyInstalled
  split
  · exact h
  · exact .ite h.secEvent (.ite h.modMram h.unlock)

theorem Canonical.bootSecurity {env : BootEnv} (h : Canonical s) : Canonical (s.bootSecurity env) :=
  .applyInstalled (.wantSession (.newChallenge (.ite h.modSc.bootCounted.indexChecked.modSc h.modSc.bootCounted)))

theorem Canonical.bootPhase {warm : Bool} (h : Canonical s) : Canonical (s.bootPhase warm) :=
  .ite h.modBoot (.ite h.modBoot.alert (.ite h.modBoot.enqueue h.modBoot))

theorem Canonical.bootClocks {warm : Bool} (h : Canonical s) : Canonical (s.bootClocks warm) := .modPins (.modBoot (.modMg (.of_mem h rfl)))

theorem Canonical.bootEnd (h : Canonical s) : Canonical s.bootEnd :=
  .secServe (.bootPhase (.modBoot (.foldl (fun _ _ h1 => h1.modChan) (.ite h wf_nil))))

theorem Canonical.bootStage {env : BootEnv} (h : Canonical s) : Canonical (s.bootStage env) := by
  unfold State.bootStage
  split
  · exact h.bootSecurity.modBoot
  · exact h.darn.modBoot
  · exact h.bootEnd
  · exact h

theorem Canonical.bootTo {env : BootEnv} (h : Canonical s) : Canonical (s.bootTo env) := .forN (fun _ _ h1 => (.ite h1.bootStage h1)) h

theorem execBoot_keeps {env : BootEnv} (h : Canonical s) : Keeps (execBoot env s) :=
  .ite (.next h) (.ite (.ite (.next h.modPins) (.ite (.next h.modPins.modBoot.modPins) (.next h.modPins.modBoot.bootClocks.bootTo))) (.ite (.ite
    (.next h.modPins) (.next h.bootClocks.bootTo)) (.next h.bootTo)))

theorem Canonical.waitImage (h : Canonical s) : Canonical s.waitImage := h.modBoot

theorem Canonical.claim {src : LoadSource} (h : Canonical s) : Canonical (s.claim src) := h.modBoot

theorem Canonical.startLink (h : Canonical s) : Canonical s.startLink := .ite h.claim h.modBoot

theorem execStartLink_keeps (h : Canonical s) : Keeps (execStartLink s) := .next (h.hostReg (fun _ h1 => h1.startLink))

theorem Canonical.coreRequest {q : SecReq} (h : Canonical s) : Canonical (s.coreRequest q) := h.enqueue.wake.secServe

theorem Canonical.startVerify (h : Canonical s) : Canonical s.startVerify := .ite h.modBoot.coreRequest h

theorem execBootGo_keeps (h : Canonical s) : Keeps (execBootGo s) := .next (h.hostReg (fun _ h1 => h1.startVerify))

theorem Canonical.slotWrite {off : Nat} {bs : List Byte} (h : Canonical s) : Canonical (s.slotWrite off bs) := h.modBoot

theorem Canonical.abandon (h : Canonical s) : Canonical s.abandon := .ite h.waitImage h

theorem execAbandon_keeps (h : Canonical s) : Keeps (execAbandon s) := .next (h.hostReg (fun _ h1 => h1.abandon))

theorem execLoadTimeout_keeps (h : Canonical s) : Keeps (execLoadTimeout s) := .ite (.next h.waitImage) (.next h)

theorem Canonical.runImage (h : Canonical s) : Canonical s.runImage := h.modSc.modBoot

theorem Canonical.refuseImage {r : Nat} (h : Canonical s) : Canonical (s.refuseImage r) := h.modSc.secEvent.waitImage.modBoot.alert

theorem execFirmwareVerified_keeps (h : Canonical s) : Keeps (execFirmwareVerified s) := by
  unfold execFirmwareVerified
  dsimp only
  split
  · exact .ite (.next h.secServe) (.next (.secServe (.ite h.secServe.popSec.runImage h.secServe.popSec.refuseImage)))
  · exact .next h.secServe

theorem Canonical.mgmtReset {wd : Bool} (h : Canonical s) : Canonical (s.mgmtReset wd) := h.modSc.modBoot

theorem Canonical.recover {key : Nat} (h : Canonical s) : Canonical (s.recover key) := .ite h.mgmtReset h

theorem execRecover_keeps {key : W16} (h : Canonical s) : Keeps (execRecover key s) := .next (h.hostReg (fun _ h1 => h1.recover))

theorem execMgmtWatchdogExpire_keeps (h : Canonical s) : Keeps (execMgmtWatchdogExpire s) :=
  .ite (.next h) (.ite (.next h.mgmtReset.modBoot.alert.modBoot.coreRequest) (.next h.mgmtReset.modBoot.alert))

theorem execShedMeasure_keeps {busyPct : Nat} (h : Canonical s) : Keeps (execShedMeasure busyPct s) := .ite (.next h.modBoot) (.next h)

theorem Canonical.shedWrite {v : W32} (h : Canonical s) : Canonical (s.shedWrite v) := h.modBoot

theorem execRepairRecord_keeps {kind : RepairKind} {c : Chan} {b : BankIx} {target : W16} (h : Canonical s) :
    Keeps (execRepairRecord kind c b target s) :=
  .ite (.next h.addRepair) (.next h)

theorem Canonical.respond {bs : List Byte} (h : Canonical s) : Canonical (s.respond bs) := h.modBoot

theorem Canonical.sideband {pec : Bool} {f : State → State} (h : Canonical s) (hf : ∀ t, Canonical t → Canonical (f t)) :
    Canonical (s.sideband pec f) :=
  .ite h (.ite (hf _ h.modBoot) h.modBoot.wake)

theorem Canonical.sbFirmware {pec : Bool} {f : State → State} (h : Canonical s) (hf : ∀ t, Canonical t → Canonical (f t)) :
    Canonical (s.sbFirmware pec f) :=
  h.sideband (fun _ h2 => (.ite (hf _ h2) h2.respond))

theorem execGetBootStatus_keeps {pec : Bool} (h : Canonical s) : Keeps (execGetBootStatus pec s) := .next (h.sideband (fun _ h1 => h1.respond))

theorem Canonical.fwBegin (h : Canonical s) : Canonical s.fwBegin := by
  unfold State.fwBegin
  split
  · exact h.claim.respond
  · exact h.respond
  · exact h.respond
  · exact h.respond

theorem execFwBegin_keeps {pec : Bool} (h : Canonical s) : Keeps (execFwBegin pec s) := .next (h.sideband (fun _ h1 => h1.fwBegin))

theorem Canonical.fwChunk {off : Nat} {bs : List Byte} (h : Canonical s) : Canonical (s.fwChunk off bs) :=
  .ite h.respond (.ite h.respond h.slotWrite.respond)

theorem execFwChunk_keeps {pec : Bool} {off : W32} {bytes : List Byte} (h : Canonical s) : Keeps (execFwChunk pec off bytes s) :=
  .next (h.sideband (fun _ h1 => h1.fwChunk))

theorem execFwEnd_keeps {pec : Bool} (h : Canonical s) : Keeps (execFwEnd pec s) :=
  .next (h.sideband (fun _ h1 => (.ite h1.startVerify.respond h1.respond)))

theorem execGetChallenge_keeps {pec : Bool} (h : Canonical s) : Keeps (execGetChallenge pec s) := .next (h.sideband (fun _ h1 => h1.respond))

theorem execTokenLoad_keeps {pec : Bool} {off : W16} {bytes : List Byte} (h : Canonical s) : Keeps (execTokenLoad pec off bytes s) :=
  .next (h.sideband (fun _ h1 => (.ite h1.respond h1.tokenLoad.respond)))

theorem execTokenSubmit_keeps {pec : Bool} (h : Canonical s) :
    Keeps (execTokenSubmit pec s) :=
  .next (h.sideband (fun _ h1 => h1.respond.wake.submit))

theorem execAttest_keeps {pec : Bool} {nonce : List Byte} (h : Canonical s) : Keeps (execAttest pec nonce s) :=
  .next (h.sbFirmware (fun _ h1 => (.ite h1.respond (.ite h1.respond (.ite h1.respond h1.respond.coreRequest)))))

theorem execAttestRead_keeps {pec : Bool} {off : W16} {len : Nat} (h : Canonical s) : Keeps (execAttestRead pec off len s) :=
  .next (h.sbFirmware (fun _ h1 => (.ite h1.respond (.ite h1.respond h1.respond))))

theorem execErrlogRead_keeps {pec : Bool} {first : Byte} {count : Nat} (h : Canonical s) : Keeps (execErrlogRead pec first count s) :=
  .next (h.sbFirmware (fun _ h1 => (.ite h1.respond h1.respond)))

theorem execDarnRead_keeps {pec : Bool} {c : W16} (h : Canonical s) : Keeps (execDarnRead pec c s) :=
  .next (h.sbFirmware (fun _ h1 => (.ite h1.respond h1.respond)))

theorem execTraceRead_keeps {pec : Bool} {first : W16} {count : Nat} (h : Canonical s) : Keeps (execTraceRead pec first count s) :=
  .next (h.sbFirmware (fun _ h1 => (.ite h1.respond h1.respond)))

theorem execSetEndpointId_keeps {pec : Bool} {eid : Byte} (h : Canonical s) : Keeps (execSetEndpointId pec eid s) :=
  .next (h.sideband (fun _ h1 => (.ite h1.respond h1.modBoot.respond)))

theorem execGetEndpointId_keeps {pec : Bool} (h : Canonical s) : Keeps (execGetEndpointId pec s) := .next (h.sideband (fun _ h1 => h1.respond))

theorem execGetMctpVersionSupport_keeps {pec : Bool} {msgType : Byte} (h : Canonical s) : Keeps (execGetMctpVersionSupport pec msgType s) :=
  .next (h.sideband (fun _ h1 => (.ite h1.draw.respond h1.respond)))

theorem execGetMessageTypeSupport_keeps {pec : Bool} (h : Canonical s) : Keeps (execGetMessageTypeSupport pec s) :=
  .next (h.sideband (fun _ h1 => h1.respond))

theorem execGetVendorMessageSupport_keeps {pec : Bool} (h : Canonical s) : Keeps (execGetVendorMessageSupport pec s) :=
  .next (h.sideband (fun _ h1 => h1.respond))

theorem Canonical.pldmValue {k : PldmSensor} (h : Canonical s) : Canonical (s.pldmValue k).2 := by
  unfold State.pldmValue
  split
  · exact h
  · exact h
  · exact Canonical.draw (n := 4) h

theorem Canonical.sensorReading {k : PldmSensor} (h : Canonical s) : Canonical (s.sensorReading k) :=
  .ite h.modBoot.respond.noteSat h.pldmValue.modBoot.respond

theorem execGetSensorReading_keeps {pec : Bool} {sensor : PldmSensor} (h : Canonical s) : Keeps (execGetSensorReading pec sensor s) :=
  .next (h.sbFirmware (fun _ h1 => h1.sensorReading))

theorem execPlatformEventMessage_keeps {bit : Fin 13} (h : Canonical s) : Keeps (execPlatformEventMessage bit s) := .ite (.next h.respond) (.next h)

/-! ## Regs -/

theorem Canonical.pwrChWrite {c : Chan} {v : W32} (h : Canonical s) : Canonical (s.pwrChWrite c v) :=
  .ite h.writeTarget.opWrite.pllReqWrite h.writeTarget.opWrite

theorem Canonical.pdWrite {v : W32} (h : Canonical s) : Canonical (s.pdWrite v) := .foldl (fun _ _ h1 => h1.writeTarget) h

theorem Canonical.bootCtrl {v : W32} (h : Canonical s) : Canonical (s.bootCtrl v) :=
  .ite (.abandon (.ite (.recover (.ite (.startVerify (.ite h.startLink h)) (.ite h.startLink h))) (.ite (.startVerify (.ite h.startLink h)) (.ite
    h.startLink h)))) (.ite (.recover (.ite (.startVerify (.ite h.startLink h)) (.ite h.startLink h))) (.ite (.startVerify (.ite h.startLink h))
    (.ite h.startLink h)))

theorem Canonical.violClear {c : Nat} (h : Canonical s) : Canonical (s.violClear c) := h.modPort

theorem Canonical.mgWrite {off : Nat} {v : W32} (h : Canonical s) : Canonical (s.mgWrite off v) :=
  .ite h.bootCtrl (.ite h.shedWrite (.ite h.modMg (.ite h.modMg (.ite h.modMg (.ite (.ite h.errClear h) (.ite h.pwrChWrite (.ite (.ite
    h.refusalClear h) (.ite h.pdWrite (.ite (.ite h.refusalClear h) (.ite h.modMg (.ite (.ite h.thermClear h) h)))))))))))

theorem Canonical.sendSets {g : Nat} (h : Canonical s) : Canonical (s.sendSets g) := .ite h.draw.modGroup h.modGroup

theorem Canonical.retrain {g : Nat} (h : Canonical s) :
    Canonical (s.retrain g) :=
  .stir (.sendSets (.modGroup (.foldl (fun _ _ h1 => h1.modGroup) h)))

theorem Canonical.linkClear' {g : Nat} (h : Canonical s) : Canonical (s.linkClear' g) := h.modGroup

theorem Canonical.grpCtrl {g : Nat} {v : W32} (h : Canonical s) : Canonical (s.grpCtrl g v) :=
  .ite (.retrain (.ite h.modGroup.linkClear' h.modGroup)) (.ite h.modGroup.linkClear' h.modGroup)

theorem Canonical.lkWrite {off : Nat} {v : W32} (h : Canonical s) : Canonical (s.lkWrite off v) := .ite (.ite h.grpCtrl h) (.ite (.of_mem h rfl) h)

theorem Canonical.hbWrite {off : Nat} {v : W32} (h : Canonical s) : Canonical (s.hbWrite off v) :=
  .ite h.setStrict (.ite h.epochWrite (.ite h.modPort (.ite (.ite h.violClear h) (.ite h.modPort (.ite h.modPort (.ite h.modPort (.ite h.modLedger
    (.ite h.allowWrite (.ite h.modLedger (.ite (.ite h.hbSyncClear h) h))))))))))

theorem Canonical.portWrite {off : Nat} {v : W32} (h : Canonical s) : Canonical (s.portWrite off v) :=
  .ite h.hbWrite (.ite h.lkWrite (.ite h.hbWrite (.ite h.mgWrite (.ite h.scWrite h.hbWrite))))

theorem Canonical.dbWrite {c r off : Nat} {v : W32} (h : Canonical s) : Canonical (s.dbWrite c r off v) :=
  .ite h.doorbell (.ite h.dbRing (.ite h.dbCq (.ite h.cqHead h)))

theorem Canonical.slWrite {sl : SliceId} {off : Nat} {v : W32} (h : Canonical s) :
    Canonical (s.slWrite sl off v) :=
  .ite h.modSlice (.ite h.modSlice h)

theorem Canonical.chRegWrite {c off : Nat} {v : W32} (h : Canonical s) : Canonical (s.chRegWrite c off v) :=
  .ite h.memCfg (.ite h.trainCtrl (.ite h.trainLane (.ite h.modChan (.ite (.ite h.codeBusyClear h) (.ite h.modChan (.ite h.modChan (.ite h.objWrite
    (.ite h.syncCfg (.ite h.strictClear (.ite h.chkCtrl (.ite h.scrubCfg (.ite h.writeTarget (.ite (.ite h.bankRefusalsClear h) h)))))))))))))

theorem Canonical.chanWrite {c off : Nat} {v : W32} (h : Canonical s) : Canonical (s.chanWrite c off v) :=
  .ite h.dbWrite (.ite h.slWrite (.ite h.chRegWrite h))

theorem Canonical.regWrite {x : Target} {v : W32} (h : Canonical s) : Canonical (s.regWrite x v) := by
  unfold State.regWrite
  split
  · exact h.portWrite
  · exact h.chanWrite
  · exact .ite h.objWrite h
  · exact h

/-! ## Port -/

theorem Canonical.modeWrite {t : Nat} {tgt : Bool} {confirm : Nat} (h : Canonical s) : Canonical (s.modeWrite t tgt confirm) :=
  .ite h.keyOff.modPort.status h.keyOff.modPort.status

theorem Canonical.keyWrite {t arm : Nat} (h : Canonical s) : Canonical (s.keyWrite t arm) := h.modPort

theorem execPortKeyArm_keeps {t : Nat} {arm : W16} (h : Canonical s) : Keeps (execPortKeyArm t arm s) := .next (h.hostReg (fun _ h1 => h1.keyWrite))

theorem execPortKeyExpire_keeps {t : Nat} (h : Canonical s) : Keeps (execPortKeyExpire t s) := by
  unfold execPortKeyExpire
  split
  · exact .ite (.next h.keyOff) (.next h)
  · exact .next h

theorem execPortModeSwitch_keeps {t : Nat} {tgt : Bool} {confirm : W16} (h : Canonical s) : Keeps (execPortModeSwitch t tgt confirm s) :=
  .ite (.next h.modeWrite) (.next h)

theorem Canonical.masksAt {t : Nat} (h : Canonical s) : Canonical (s.masksAt t) := h.modPort

theorem Canonical.maskWrite {g t k : Nat} {v : W32} (h : Canonical s) : Canonical (s.maskWrite g t k v) := h.modPort

theorem Canonical.regWriteAt {g t : Nat} {x : Target} {v : W32} (h : Canonical s) : Canonical (s.regWriteAt g t x v) := by
  unfold State.regWriteAt
  split
  · exact h.keyWrite
  · exact .ite h.maskWrite h.regWrite
  · exact h.regWrite

theorem execHbWinWrite_keeps {w : Fin 1024} {v : W32} (h : Canonical s) : Keeps (execHbWinWrite w v s) := .next (h.hostReg (fun _ h1 => h1.regWrite))

theorem execXorMaskWrite_keeps {t : Nat} {k : Fin 16} {v : W32} {g : optParam Group 0} (h : Canonical s) : Keeps (execXorMaskWrite t k v s g) :=
  .next (h.hostReg (fun _ h1 => h1.maskWrite))

theorem execViolClear_keeps {c : Chan} (h : Canonical s) : Keeps (execViolClear c s) := .next (h.hostReg (fun _ h1 => h1.violClear))

theorem Canonical.addEcho {g t : Nat} {fs : List (BitVec 4)} (h : Canonical s) : Canonical (s.addEcho g t fs) := h.modGroup

theorem Canonical.malform {g t : Nat} (h : Canonical s) : Canonical (s.malform g t) := h.modGroup.addEcho

theorem Canonical.noteTide {x : Target} {cause : Nat} (h : Canonical s) : Canonical (s.noteTide x cause) := by
  unfold State.noteTide
  split
  · exact h.violation
  · exact h

theorem Canonical.noteReq {t : Nat} {x : Target} (h : Canonical s) : Canonical (s.noteReq t x) := by
  unfold State.noteReq
  split
  · exact h.modPort.stir
  · exact h

theorem Canonical.outReq {g t : Nat} {tag : W16} {x : Target} {st : Option Status} {data : List Byte} {check : W32} {covers : List Nat} (h : Canonical s) :
    Canonical (s.outReq g t tag x st data check covers) :=
  h.modGroup.modPort

theorem Canonical.outBad {g t : Nat} {tag : W16} {x : Target} {st : Status} (h : Canonical s) : Canonical (s.outBad g t tag x st) := h.outReq

theorem Canonical.readOk {g t : Nat} {tag : W16} {x : Target} {parity : Bool} (h : Canonical s) : Canonical (s.readOk g t tag x parity) := by
  unfold State.readOk
  split
  · exact h.outReq.modBank
  · exact .ite h.parityErr.outBad h.outReq
  · exact h.outReq

theorem Canonical.hostRead {g t : Nat} {tag : W16} {a : Nat} {parity : Bool} (h : Canonical s) : Canonical (s.hostRead g t tag a parity) := by
  have he : Canonical ((s.masksAt t).addEcho g t [0]) := h.masksAt.addEcho
  unfold State.hostRead
  refine .ite h.masksAt (.ite h.masksAt.malform ?_)
  dsimp only
  split
  · exact he.outBad.noteReq
  · exact .ite he.noteTide.outReq (.ite he.outBad.noteReq he.readOk.noteReq)

theorem execRead_keeps {g : Group} {t : Nat} {tag : W16} {addr : BitVec 42} {parity : Bool} (h : Canonical s) :
    Keeps (execRead g t tag addr parity s) :=
  .ite (.next h.hostRead) (.next h)

theorem Canonical.hostFence {g t : Nat} {tag : W16} {a : Nat} (h : Canonical s) : Canonical (s.hostFence g t tag a) :=
  .ite h.masksAt (.ite h.masksAt.malform (.ite h.masksAt.addEcho.outBad.noteReq (.ite h.masksAt.addEcho.outBad.noteReq (.ite
    h.masksAt.addEcho.noteTide.outReq h.masksAt.addEcho.outReq.noteReq))))

theorem execPfence_keeps {g : Group} {t : Nat} {tag : W16} {addr : BitVec 42} (h : Canonical s) : Keeps (execPfence g t tag addr s) :=
  .ite (.next h.hostFence) (.next h)

theorem Canonical.syncWrites {g : Nat} {ws : List (Target × W32)} (h : Canonical s) : Canonical (s.syncWrites g ws) :=
  .ite (.foldl (fun _ _ h1 => h1.regWrite) h) h.modPort

theorem Canonical.writeOk {g t : Nat} {x : Target} {en : W64} {data : List Byte} {check : W32} (h : Canonical s) :
    Canonical (s.writeOk g t x en data check) := by
  unfold State.writeOk
  split
  · exact h.modPort.modBank
  · exact .ite h.modChan (.ite h.modChan (.foldl (fun _ _ h1 => h1.regWriteAt) h))
  · exact .ite h.modBoot (.foldl (fun _ _ h1 => h1.regWriteAt) h)
  · exact h.syncWrites
  · exact h

theorem Canonical.modeBlock {g t v : Nat} {en : W64} {data : List Byte} (h : Canonical s) : Canonical (s.modeBlock g t v en data) :=
  .ite (.foldl (fun _ _ h1 => h1.regWriteAt) h.modeWrite) h.modeWrite

theorem Canonical.hostWriteReq {g t : Nat} {x : Target} {en : W64} {data : List Byte} {check : W32} (h : Canonical s) :
    Canonical (s.hostWriteReq g t x en data check) := by
  unfold State.hostWriteReq
  dsimp only
  split
  · exact .ite h.modeBlock h.keyOff.status
  · refine .ite h.keyOff.status.noteReq (.ite h.keyOff.status.noteReq (.ite h.keyOff.noteTide.status ?_))
    split
    · exact h.keyOff.noteReq.modChan.noteSat.status
    · exact .ite h.keyOff.noteReq.status h.keyOff.noteReq.writeOk.status

theorem Canonical.hostWriteDesc {g t a : Nat} {en : W64} {data : List Byte} {check : W32} (h : Canonical s) :
    Canonical (s.hostWriteDesc g t a en data check) :=
  .ite h.masksAt (.ite h.masksAt.keyOff.malform h.masksAt.hostWriteReq.addEcho)

theorem execWrite_keeps {g : Group} {t : Nat} {addr : BitVec 42} {byteEn : W64} {data : List Byte} {check : W32} (h : Canonical s) :
    Keeps (execWrite g t addr byteEn data check s) :=
  .ite (.next h.hostWriteDesc) (.next h)

theorem execIdle_keeps {g : Group} {t : Nat} (h : Canonical s) : Keeps (execIdle g t s) := .ite (.next h.addEcho) (.next h)

theorem execRegisterWrite_keeps {t : Nat} {addr : HostAddr} {v : W32} {g : optParam Group 0} (h : Canonical s) :
    Keeps (execRegisterWrite t addr v s g) := by
  refine .ite (.next h) ?_
  split
  · exact .next h
  · exact .next h.hostWriteReq

theorem execReadResponse_keeps {g : Group} {t : Nat} {pos : Fin 3} (h : Canonical s) : Keeps (execReadResponse g t pos s) := by
  refine .ite (.next h) ?_
  split
  · exact .next h
  · exact .next h.modGroup

/-! ## Link -/

theorem Canonical.noteFixed {p : Nat} {fixed : List Nat} (h : Canonical s) : Canonical (s.noteFixed p fixed) :=
  .ite h (.ite (.alert (.noteSat (.modGroup (.foldl (fun _ _ h1 => h1.modGroup.noteSat) h)))) (.noteSat (.modGroup
    (.foldl (fun _ _ h1 => h1.modGroup.noteSat) h))))

theorem Canonical.flitPassed {p : Nat} (h : Canonical s) : Canonical (s.flitPassed p) := h.modGroup

theorem Canonical.putEcho {g : Nat} {e : EchoRec} (h : Canonical s) : Canonical (s.putEcho g e) := h.modGroup

theorem Canonical.flitLost {p t : Nat} {crcOnly : Bool} (h : Canonical s) : Canonical (s.flitLost p t crcOnly) :=
  .flitPassed (.putEcho (.ite (.noteSat (.modGroup (.ite h.modGroup.noteSat.alert h.modGroup.noteSat))) (.ite h.modGroup.noteSat.alert h.modGroup.noteSat)))

theorem Canonical.parseUnit {g t : Nat} {flit : List Byte} (h : Canonical s) : Canonical (s.parseUnit g t flit) := by
  refine .ite h ?_
  split
  · exact h.addEcho
  · exact h.hostRead
  · exact h.hostWriteDesc
  · exact h.hostFence
  · exact h.malform

theorem Canonical.parseFlit {g t : Nat} {flit : List Byte} (h : Canonical s) :
    Canonical (s.parseFlit g t flit) :=
  .forN (fun _ _ h1 => h1.parseUnit) h

theorem Canonical.flitIn {p t : Nat} {flit : List Byte} (h : Canonical s) : Canonical (s.flitIn p t flit) := by
  unfold State.flitIn
  split
  · exact h.noteFixed.flitLost
  · exact .ite h.noteFixed.modGroup.putEcho.flitPassed h.noteFixed.modGroup.putEcho.flitPassed.parseFlit

theorem execDownstreamFlit_keeps {g : Group} {t : Nat} {lanes : List (List Byte)} (h : Canonical s) : Keeps (execDownstreamFlit g t lanes s) :=
  .ite (.next h.modGroup.flitIn) (.next h)

theorem execStandbyReq_keeps {g : Group} {t : Nat} (h : Canonical s) : Keeps (execStandbyReq g t s) := .ite (.next h.putEcho) (.next h)

theorem Canonical.enterStandby {p : Nat} (h : Canonical s) : Canonical (s.enterStandby p) := .foldl (fun _ _ h1 => h1.modGroup) h.modGroup

theorem Canonical.sendUp {g t : Nat} {flit : List Byte} (h : Canonical s) : Canonical (s.sendUp g t flit) := h.modGroup.modGroup

theorem Canonical.echo {g t : Nat} (h : Canonical s) : Canonical (s.echo g t) := by
  unfold State.echo
  dsimp only
  split
  · exact h.draw.sendUp
  · exact .ite h.sendUp.modGroup.enterStandby h.sendUp.modGroup

theorem execEcho_keeps {g : Group} {t : Nat} (h : Canonical s) : Keeps (execEcho g t s) := .ite (.next h.echo) (.next h)

theorem execGroupUnaligned_keeps {g : Group} (h : Canonical s) : Keeps (execGroupUnaligned g s) := .ite (.next h.retrain.alert) (.next h)

theorem Canonical.setShare {g : Nat} {on : Bool} (h : Canonical s) : Canonical (s.setShare g on) :=
  .ite (.foldl (fun _ _ h1 => h1.timing) (.ite h.modGroup.modGroup h.modGroup)) (.ite h.modGroup.modGroup h.modGroup)

theorem Canonical.trainDone {g : Nat} (h : Canonical s) : Canonical (s.trainDone g) := h.modGroup.setShare

theorem execTrainingSetReceive_keeps {g : Group} {lanes : List (List Byte)} {skews : List Byte} {adapted : optParam Byte 255} (h : Canonical s) :
    Keeps (execTrainingSetReceive g lanes skews s adapted) := by
  refine .ite (.next h) ?_
  split
  · exact .ite (.next (.ite h.modGroup.sendSets.modGroup.trainDone h.modGroup.sendSets.modGroup)) (.next h.modGroup.sendSets.modGroup)
  · exact .next (.ite h.retrain h)
  · exact .next (.ite h.retrain h)
  · exact .next h

theorem execTrainPhaseLimit_keeps {g : Group} (h : Canonical s) : Keeps (execTrainPhaseLimit g s) := .ite (.next h.modGroup.setShare.alert) (.next h)

theorem execStandbyResume_keeps {g : Group} (h : Canonical s) : Keeps (execStandbyResume g s) :=
  .ite (.ite (.next (.stir (.foldl (fun _ _ h1 => h1.modGroup) h.modGroup.sendSets.modGroup))) (.next h.wake)) (.next h)

theorem Canonical.linkWake {g : Nat} {swell : Bool} (h : Canonical s) : Canonical (s.linkWake g swell) := .ite (.of_mem h rfl) (.wake (.of_mem h rfl))

theorem execSwell_keeps {g : Group} {ui : Nat} (h : Canonical s) : Keeps (execSwell g ui s) := .ite (.next h.linkWake) (.next h)

theorem execActivity_keeps {g : Group} {millivolts ns : Nat} (h : Canonical s) : Keeps (execActivity g millivolts ns s) :=
  .ite (.next h.linkWake) (.next h)

theorem execLinkPllLock_keeps (h : Canonical s) :
    Keeps (execLinkPllLock s) :=
  .ite (.next (.foldl (fun _ _ h1 => h1.retrain) (.of_mem h rfl))) (.next h)

theorem execRetrain_keeps {g : Group} (h : Canonical s) : Keeps (execRetrain g s) := .next (h.hostReg (fun _ h1 => h1.retrain))

theorem execLinkClearCounters_keeps {g : Group} (h : Canonical s) : Keeps (execLinkClearCounters g s) := .next (h.hostReg (fun _ h1 => h1.linkClear'))

/-! ## Debug -/

theorem Canonical.tapOut {width v : Nat} {st : TapStatus} (h : Canonical s) : Canonical (s.tapOut width v st) := h.modSc

theorem Canonical.denied (h : Canonical s) : Canonical s.denied := h.tapOut

theorem Canonical.observe {x : Target} (h : Canonical s) : Canonical (s.observe x) := by
  unfold State.observe
  split
  · exact h.denied
  · exact .ite h.denied (.ite h.tapOut h.tapOut)

theorem execDbgObserve_keeps {addr : HostAddr} (h : Canonical s) : Keeps (execDbgObserve addr s) := .ite (.next h.wake.observe) (.next h)

theorem Canonical.invasive {strict : Bool} {p : PState} {read leased : Bool} {f : State → State} (h : Canonical s) (hf : ∀ t, Canonical t → Canonical (f t)) :
    Canonical (s.invasive strict p read leased f) :=
  .ite h.denied (.ite (.ite h.denied h.tapOut) (.ite h.tapOut (hf _ h)))

theorem Canonical.dbgWrite {x : Target} {v : W32} (h : Canonical s) : Canonical (s.dbgWrite x v) := by
  refine .tapOut ?_
  split
  · exact h.modeWrite
  · exact h.keyWrite
  · exact h.regWrite

theorem Canonical.dbgArray {a : Nat} {v : Byte} (h : Canonical s) : Canonical (s.dbgArray a v) :=
  .ite (.logWrite (.setDiff (Canonical.of_wr h a v))) (.ite h.putKept h.putBytes)

theorem Canonical.onSlice {sl : SliceId} {read write : Bool} {f : State → State} (h : Canonical s) (hf : ∀ t, Canonical t → Canonical (f t)) :
    Canonical (s.onSlice sl read write f) :=
  h.invasive (fun _ h2 => (hf _ h2))

theorem Canonical.onData {a : Nat} {write : Bool} {f : State → State} (h : Canonical s) (hf : ∀ t, Canonical t → Canonical (f t)) :
    Canonical (s.onData a write f) :=
  h.invasive (fun _ h2 => (hf _ h2))

theorem Canonical.dbgHalt {sl : SliceId} {on : Bool} (h : Canonical s) : Canonical (s.dbgHalt sl on) := h.modSlice.tapOut

theorem Canonical.onCore {f : BootSt → BootSt} (h : Canonical s) : Canonical (s.onCore f) := h.invasive (fun _ h1 => h1.modBoot.tapOut)

theorem Canonical.dbg {x1 : DbgOp} (h : Canonical s) : Canonical (s.dbg x1) := by
  unfold State.dbg
  split
  · exact h.observe
  · exact .ite h.denied (h.invasive (fun _ h1 => h1.dbgWrite))
  · exact h.onData (fun _ h1 => h1.tapOut)
  · exact h.onData (fun _ h1 => h1.dbgArray.tapOut)
  · exact h.onSlice (fun _ h1 => h1.tapOut)
  · exact h.onSlice (fun _ h1 => h1.modSlice.tapOut)
  · exact h.onSlice (fun _ h1 => h1.dbgHalt)
  · exact h.onSlice (fun _ h1 => h1.dbgHalt)
  · exact h.onSlice (fun _ h1 => h1.modSlice.tapOut)
  · exact h.onSlice (fun _ h1 => h1.modSlice.tapOut)
  · exact h.onCore
  · exact h.onCore
  · exact h.onCore
  · exact h.onCore

theorem execDbgAccess_keeps {a : DbgOp} (h : Canonical s) : Keeps (execDbgAccess a s) := .ite (.next h.wake.dbg) (.next h)

theorem Canonical.scanShift {tdi : List Bool} (h : Canonical s) : Canonical (s.scanShift tdi) := .modSc (.of_mem h rfl)

theorem execDbgScan_keeps {d : Domain} {tdi : List Bool} (h : Canonical s) : Keeps (execDbgScan d tdi s) :=
  .ite (.next h) (.ite (.next h.wake.denied) (.ite (.next h.wake.scanShift) (.next h.wake.tapOut)))

/-! ## Every row, and a step -/

theorem exec_keeps (i : Instr) (h : Canonical s) : Keeps (exec i s) := by
  cases i with
  | downstreamFlit => exact execDownstreamFlit_keeps h
  | idle => exact execIdle_keeps h
  | read => exact execRead_keeps h
  | write => exact execWrite_keeps h
  | pfence => exact execPfence_keeps h
  | readResponse => exact execReadResponse_keeps h
  | echo => exact execEcho_keeps h
  | standbyReq => exact execStandbyReq_keeps h
  | groupUnaligned => exact execGroupUnaligned_keeps h
  | trainingSetReceive => exact execTrainingSetReceive_keeps h
  | trainPhaseLimit => exact execTrainPhaseLimit_keeps h
  | standbyResume => exact execStandbyResume_keeps h
  | swell => exact execSwell_keeps h
  | activity => exact execActivity_keeps h
  | linkPllLock => exact execLinkPllLock_keeps h
  | retrain => exact execRetrain_keeps h
  | linkClearCounters => exact execLinkClearCounters_keeps h
  | portKeyArm => exact execPortKeyArm_keeps h
  | portKeyExpire => exact execPortKeyExpire_keeps h
  | portModeSwitch => exact execPortModeSwitch_keeps h
  | hbWinWrite => exact execHbWinWrite_keeps h
  | xorMaskWrite => exact execXorMaskWrite_keeps h
  | violClear => exact execViolClear_keeps h
  | registerWrite => exact execRegisterWrite_keeps h
  | bankOperation => exact execBankOperation_keeps h
  | readRetry => exact execReadRetry_keeps h
  | refreshTick => exact execRefreshTick_keeps h
  | forcedRefresh => exact execForcedRefresh_keeps h
  | idleRefresh => exact execIdleRefresh_keeps h
  | strictRefreshSlot => exact execStrictRefreshSlot_keeps h
  | memClearCounters => exact execMemClearCounters_keeps h
  | hardwareSweep => exact execHardwareSweep_keeps h
  | sweepDone => exact execSweepDone_keeps h
  | sweep => exact execSweep_keeps h
  | nudgeUp => exact execNudgeUp_keeps h
  | nudgeDown => exact execNudgeDown_keeps h
  | patternGo => exact execPatternGo_keeps h
  | patternRunDone => exact execPatternRunDone_keeps h
  | doorbell => exact execDoorbell_keeps h
  | dbRingWrite => exact execDbRingWrite_keeps h
  | dbCqWrite => exact execDbCqWrite_keeps h
  | cqHeadWrite => exact execCqHeadWrite_keeps h
  | commandRead => exact execCommandRead_keeps h
  | tornReread => exact execTornReread_keeps h
  | tornCommand => exact execTornCommand_keeps h
  | dispatch => exact execDispatch_keeps h
  | castOn => exact execCastOn_keeps h
  | layer => exact execLayer_keeps h
  | patch => exact execPatch_keeps h
  | copy => exact execCopy_keeps h
  | stagedCopyWrite => exact execStagedCopyWrite_keeps h
  | fill => exact execFill_keeps h
  | gather => exact execGather_keeps h
  | signal => exact execSignal_keeps h
  | wait => exact execWait_keeps h
  | fenceChannel => exact execFenceChannel_keeps h
  | fenceModule => exact execFenceModule_keeps h
  | digest => exact execDigest_keeps h
  | abort => exact execAbort_keeps h
  | bindOff => exact execBindOff_keeps h
  | hintCodePrefetch => exact execHintCodePrefetch_keeps h
  | hintRowOpen => exact execHintRowOpen_keeps h
  | completion => exact execCompletion_keeps h
  | stopEvent => exact execStopEvent_keeps h
  | abortSlack => exact execAbortSlack_keeps h
  | watchdogFire => exact execWatchdogFire_keeps h
  | codeBusyClear => exact execCodeBusyClear_keeps h
  | layerStart => exact execLayerStart_keeps h
  | fetch => exact execFetch_keeps h
  | icacheMissReturn => exact execIcacheMissReturn_keeps h
  | sliceStop => exact execSliceStop_keeps h
  | deschedule => exact execDeschedule_keeps h
  | resume => exact execResume_keeps h
  | endOp => exact execEndOp_keeps h
  | nop => exact execNop_keeps h
  | semSig => exact execSemSig_keeps h
  | semWait => exact execSemWait_keeps h
  | fenceEngine => exact execFenceEngine_keeps h
  | fenceSlice => exact execFenceSlice_keeps h
  | jmp => exact execJmp_keeps h
  | brar => exact execBrar_keeps h
  | cxLi => exact execCxLi_keeps h
  | cxAdd => exact execCxAdd_keeps h
  | cxSub => exact execCxSub_keeps h
  | cxShl => exact execCxShl_keeps h
  | cxShr => exact execCxShr_keeps h
  | cxSar => exact execCxSar_keeps h
  | cxCmp => exact execCxCmp_keeps h
  | cxSel => exact execCxSel_keeps h
  | cxLdp => exact execCxLdp_keeps h
  | cxStp => exact execCxStp_keeps h
  | cxId => exact execCxId_keeps h
  | cxBr => exact execCxBr_keeps h
  | cxSumpop => exact execCxSumpop_keeps h
  | cxSumset => exact execCxSumset_keeps h
  | bxLd => exact execBxLd_keeps h
  | bxSt => exact execBxSt_keeps h
  | bxCopy => exact execBxCopy_keeps h
  | bxFill => exact execBxFill_keeps h
  | bxGather => exact execBxGather_keeps h
  | bxSend => exact execBxSend_keeps h
  | bxSsig => exact execBxSsig_keeps h
  | bxSsub => exact execBxSsub_keeps h
  | bxSwatch => exact execBxSwatch_keeps h
  | bxBar => exact execBxBar_keeps h
  | bxRecv => exact execBxRecv_keeps h
  | mxZero => exact execMxZero_keeps h
  | mxMma => exact execMxMma_keeps h
  | mxRound => exact execMxRound_keeps h
  | mxPstore => exact execMxPstore_keeps h
  | mxPload => exact execMxPload_keeps h
  | vxRun => exact execVxRun_keeps h
  | vxKset => exact execVxKset_keeps h
  | vxKld => exact execVxKld_keeps h
  | vxRclr => exact execVxRclr_keeps h
  | vxRround => exact execVxRround_keeps h
  | vxRpstore => exact execVxRpstore_keeps h
  | vxRpload => exact execVxRpload_keeps h
  | vxRpost => exact execVxRpost_keeps h
  | vxTld => exact execVxTld_keeps h
  | vxTst => exact execVxTst_keeps h
  | vxTtr => exact execVxTtr_keeps h
  | vxTred => exact execVxTred_keeps h
  | vxQblk => exact execVxQblk_keeps h
  | vxTsum => exact execVxTsum_keeps h
  | vxTadd => exact execVxTadd_keeps h
  | perfClear => exact execPerfClear_keeps h
  | syncOperation => exact execSyncOperation_keeps h
  | waitRetry => exact execWaitRetry_keeps h
  | waiterRelease => exact execWaiterRelease_keeps h
  | add => exact execAdd_keeps h
  | sub => exact execSub_keeps h
  | barCfgWrite => exact execBarCfgWrite_keeps h
  | barStateClear => exact execBarStateClear_keeps h
  | barrierArrival => exact execBarrierArrival_keeps h
  | combinerForward => exact execCombinerForward_keeps h
  | barrierRelease => exact execBarrierRelease_keeps h
  | messageArrival => exact execMessageArrival_keeps h
  | longWait => exact execLongWait_keeps h
  | syncClearCounters => exact execSyncClearCounters_keeps h
  | hbSyncClearCounters => exact execHbSyncClearCounters_keeps h
  | strictWrite => exact execStrictWrite_keeps h
  | strictOrigin => exact execStrictOrigin_keeps h
  | epochTick => exact execEpochTick_keeps h
  | epochClear => exact execEpochClear_keeps h
  | strictStatusClear => exact execStrictStatusClear_keeps h
  | provenanceDigest => exact execProvenanceDigest_keeps h
  | leafHash => exact execLeafHash_keeps h
  | payloadReceive => exact execPayloadReceive_keeps h
  | transitResend => exact execTransitResend_keeps h
  | settleNotice => exact execSettleNotice_keeps h
  | scrubInterval => exact execScrubInterval_keeps h
  | scrubRead => exact execScrubRead_keeps h
  | clearCounters => exact execClearCounters_keeps h
  | clearWlog => exact execClearWlog_keeps h
  | errorLogRecord => exact execErrorLogRecord_keeps h
  | errLogClear => exact execErrLogClear_keeps h
  | ownerWait => exact execOwnerWait_keeps h
  | selfRefreshEntry => exact execSelfRefreshEntry_keeps h
  | pointOfNoReturn => exact execPointOfNoReturn_keeps h
  | wakeSource => exact execWakeSource_keeps h
  | transitionComplete => exact execTransitionComplete_keeps h
  | selfRefreshExit => exact execSelfRefreshExit_keeps h
  | targetWrite => exact execTargetWrite_keeps h
  | pllReq => exact execPllReq_keeps h
  | pllLock => exact execPllLock_keeps h
  | pllLockLoss => exact execPllLockLoss_keeps h
  | opTargetWrite => exact execOpTargetWrite_keeps h
  | opPointChangeDone => exact execOpPointChangeDone_keeps h
  | pwrRefusalClear => exact execPwrRefusalClear_keeps h
  | pwrBankClearCounters => exact execPwrBankClearCounters_keeps h
  | ledgerAllowWrite => exact execLedgerAllowWrite_keeps h
  | limiterWindow => exact execLimiterWindow_keeps h
  | sensorRead => exact execSensorRead_keeps h
  | thermalTrip => exact execThermalTrip_keeps h
  | thermStatClear => exact execThermStatClear_keeps h
  | submit => exact execSubmit_keeps h
  | debug => exact execDebug_keeps h
  | lifecycle => exact execLifecycle_keeps h
  | revoke => exact execRevoke_keeps h
  | secver => exact execSecver_keeps h
  | owner => exact execOwner_keeps h
  | challenge => exact execChallenge_keeps h
  | attestGo => exact execAttestGo_keeps h
  | reportSigned => exact execReportSigned_keeps h
  | sessionKeyGenerated => exact execSessionKeyGenerated_keeps h
  | relock => exact execRelock_keeps h
  | bypass => exact execBypass_keeps h
  | idcode => exact execIdcode_keeps h
  | extest => exact execExtest_keeps h
  | samplePreload => exact execSamplePreload_keeps h
  | tapTokenLoad => exact execTapTokenLoad_keeps h
  | dbgObserve => exact execDbgObserve_keeps h
  | dbgAccess => exact execDbgAccess_keeps h
  | dbgScan => exact execDbgScan_keeps h
  | porstNAssert => exact execPorstNAssert_keeps h
  | warmrstNAssert => exact execWarmrstNAssert_keeps h
  | boot => exact execBoot_keeps h
  | refclkLoss => exact execRefclkLoss_keeps h
  | modulePowerOff => exact execModulePowerOff_keeps h
  | inputStageCharged => exact execInputStageCharged_keeps h
  | startLink => exact execStartLink_keeps h
  | bootGo => exact execBootGo_keeps h
  | recover => exact execRecover_keeps h
  | abandon => exact execAbandon_keeps h
  | loadTimeout => exact execLoadTimeout_keeps h
  | firmwareVerified => exact execFirmwareVerified_keeps h
  | mgmtWatchdogExpire => exact execMgmtWatchdogExpire_keeps h
  | shedMeasure => exact execShedMeasure_keeps h
  | repairRecord => exact execRepairRecord_keeps h
  | getBootStatus => exact execGetBootStatus_keeps h
  | fwBegin => exact execFwBegin_keeps h
  | fwChunk => exact execFwChunk_keeps h
  | fwEnd => exact execFwEnd_keeps h
  | getChallenge => exact execGetChallenge_keeps h
  | tokenLoad => exact execTokenLoad_keeps h
  | tokenSubmit => exact execTokenSubmit_keeps h
  | attest => exact execAttest_keeps h
  | attestRead => exact execAttestRead_keeps h
  | errlogRead => exact execErrlogRead_keeps h
  | darnRead => exact execDarnRead_keeps h
  | traceRead => exact execTraceRead_keeps h
  | setEndpointId => exact execSetEndpointId_keeps h
  | getEndpointId => exact execGetEndpointId_keeps h
  | getMctpVersionSupport => exact execGetMctpVersionSupport_keeps h
  | getMessageTypeSupport => exact execGetMessageTypeSupport_keeps h
  | getVendorMessageSupport => exact execGetVendorMessageSupport_keeps h
  | getSensorReading => exact execGetSensorReading_keeps h
  | platformEventMessage => exact execPlatformEventMessage_keeps h
  | dramSelfRefreshTick => exact execDramSelfRefreshTick_keeps h
  | refclkRunsAgain => exact execRefclkRunsAgain_keeps h
  | vaonApplied => exact execVaonApplied_keeps h
  | vaonRemoved => exact execVaonRemoved_keeps h
  | trstNAssert => exact execTrstNAssert_keeps h

theorem step_keeps (h : Canonical s) : Keeps (step s) := by
  unfold step
  split
  · exact .next h.tick
  · exact exec_keeps _ (h.of_mem rfl)

/-- Settles O57: bytes are put by `wrL` and `wr` alone, a power loss and a boot without kept arrays begin from the empty form, and every row of the
dispatch is put together of operations that do so or leave data space alone. -/
theorem memoryStaysCanonical : Obligations.MemoryStaysCanonical := by
  intro s t h hs
  exact step_keeps h t hs

end Sys2Proof.MemoryForm
end

section
namespace Sys2Proof.StepShape
open Sys2Proof Sys2Proof.Machine

/-- Settles O54: the two cases of `step`, on the form of the queue. -/
theorem stepRunsTheFrontCommand : Obligations.StepRunsTheFrontCommand := by
  intro s c rest
  refine ⟨rfl, fun hempty => ?_⟩
  unfold step
  rw [hempty]

end Sys2Proof.StepShape
end

section
namespace Sys2Proof.DomainPower
open Sys2Proof Sys2Proof.Machine

/-! ## Power transitions (13 R342 to R350) -/

/-- Bank 0 of channel 0 wakes from OFF, and the table of slices lists slice 0 twice, halted by the debugger both times. -/
def wakingBankListedTwice : State := { State.reset with
  chans := [(0, { Channel.zero with banks := [(0, { BankSt.zero with pwr := { PowerDom.zero with state := .off, going := some .on } })] })]
  slices := [(0, { SliceSt.zero with halted := true }), (0, { SliceSt.zero with halted := true })] }

/-- The bank that comes up from OFF loses the first entry of each of its slices; the second stands. -/
theorem wakingBankListedTwice_leaves_halted :
    ran (exec (.transitionComplete (.bank 0 0)) wakingBankListedTwice) fun t => (t.slice (mkSlice 0 0 0)).halted = true :=
  ⟨_, rfl, by decide⟩

/-- Refutes O41: a bank that wakes from OFF does not leave each of its slices at zero in every state, for a slice that the table lists twice keeps its
second entry. `wakingBankListedTwice` is such a state. -/
theorem not_powerTransitions : ¬ Obligations.PowerTransitions := by
  intro h
  obtain ⟨-, -, -, -, -, -, -, -, -, -, hbank, -⟩ := h wakingBankListedTwice (.bank 0 0) 0 0 0 .on
  obtain ⟨t, ht, -, -, -, -, hzero⟩ := hbank (by decide) (by decide)
  obtain ⟨u, hu, hhalted⟩ := wakingBankListedTwice_leaves_halted
  obtain rfl : u = t := Host.Outcome.next.inj (hu.symm.trans ht)
  have hslice : u.slice (mkSlice 0 0 0) = .zero := hzero (by decide) 0 (by decide)
  rw [hslice] at hhalted
  exact absurd hhalted (by decide)

end Sys2Proof.DomainPower
end

section
/-! SUPPORT. What WARMRST_N leaves of a channel (16 R407). -/
namespace Sys2Proof.ResetSupply
open Sys2Proof Sys2Proof.Machine

/-- The bank of a warm reset: its refreshes owed done, and only where they stand. -/
theorem warm_bank (ch : Channel) (b : Nat) (hb : b < 128) :
    ch.warm.bank b = { BankSt.zero with
      rowPtr := if (ch.bank b).debt = 0 then (ch.bank b).rowPtr else ((ch.bank b).rowPtr + (ch.bank b).debt) % 2048, refreshed := (ch.warm.bank b).refreshed } := by
  have hwarm : ch.warm.bank b = { BankSt.zero with rowPtr := (ch.settleDebts.bank b).rowPtr, refreshed := (ch.settleDebts.bank b).refreshed } := by
    simp only [Channel.warm, Channel.bank, tget, tfind_tmap]
    cases tfind ch.settleDebts.banks b <;> rfl
  have hptr : (ch.settleDebts.bank b).rowPtr = if (ch.bank b).debt = 0 then (ch.bank b).rowPtr else ((ch.bank b).rowPtr + (ch.bank b).debt) % 2048 := by
    rw [(BankMemory.settleDebts_banks ch).2 b hb]
    exact congrArg BankSt.rowPtr (BankMemory.walked_iterate ch b (ch.bank b).debt (ch.bank b))
  rw [hwarm, hptr]

theorem warmReset_chan {s : State} {k : Nat} {ch : Channel} (h : tfind s.chans k = some ch) : s.warmReset.chan k = ch.warm := by
  simp only [State.chan, State.warmReset, tget, tfind_tmap, h]
  rfl

/-- An assertion of WARMRST_N that takes effect (16 R407). -/
theorem exec_warmrstNAssert {s : State} {n : Nat} (hn : 23 ≤ n) (hv : s.pins.vaon = true) (hp : s.pins.porstN = true) (hw : s.pins.warmrstN = true)
    (ht : s.mg.tripLatch = false) :
    exec (.warmrstNAssert n) s = .next (s.warmReset.modPins (fun p => { p with warmrstN := false })) :=
  if_neg (by simp [hv, hp, hw, ht, hn])

/-- An assertion of PORST_N that takes effect (16 R404). -/
theorem exec_porstNAssert {s : State} {n : Nat} (hn : 237 ≤ n) (hv : s.pins.vaon = true) (hp : s.pins.porstN = true) :
    exec (.porstNAssert n) s = .next (s.porReset.modPins (fun p => { p with porstN := false, releaseHeld := false })) :=
  if_neg (by simp [hv, hp, hn])

theorem exec_refclkLoss {s : State} (hv : s.pins.vaon = true) (hp : s.pins.porstN = true) (hr : s.pins.refclk = true) (hw : s.pins.warmrstN = true)
    (ht : s.mg.tripLatch = false) :
    exec .refclkLoss s = .next (s.warmReset.modPins (fun p => { p with refclk := false, warmrstN := false })) := by
  show execRefclkLoss s = _
  rw [execRefclkLoss, if_neg (by simp [hv, hp, hr]), hw, ht]
  rfl

theorem exec_thermalTrip {s : State} {sensor : Fin 2608} {x : Int} (hv : s.pins.vaon = true) (hi : s.pins.vin = true) (ht : s.mg.tripLatch = false)
    (hx : tripAt (dieOf sensor) < x) :
    exec (.thermalTrip sensor x) s
      = .next (s.powerOff.modMg (fun m => { m with tripLatch := true, tripSensor := sensor, tripCount := satInc m.tripCount 0xFF })) :=
  if_pos (by simp [hv, hi, ht, hx])

end Sys2Proof.ResetSupply
end

section
namespace Sys2Proof.ResetSupply
open Sys2Proof Sys2Proof.Machine

/-- The forgotten registers and buffers of a reset that sets pins. -/
theorem porReset_forgets (s : State) (f : Pins → Pins) : forgotten s (s.porReset.modPins f) ∧ aonKept s (s.porReset.modPins f) :=
  ⟨⟨rfl, rfl, rfl, rfl, rfl, rfl, rfl, rfl, rfl, rfl, rfl, rfl, rfl, rfl, rfl, rfl, rfl, rfl⟩, rfl, rfl, rfl, rfl, rfl, rfl, rfl, rfl⟩

theorem warmReset_aonKept (s : State) (f : Pins → Pins) : aonKept s (s.warmReset.modPins f) := ⟨rfl, rfl, rfl, rfl, rfl, rfl, rfl, rfl⟩

/-- Settles O45: each reset is a record that says what it keeps; a bank's row pointer after WARMRST_N is that of its debts settled. -/
theorem resetsAndSupplies : Obligations.ResetsAndSupplies := by
  unfold Obligations.ResetsAndSupplies
  intro s n sensor x k ch
  refine ⟨?porst, ?porstNot, ?warm, ?warmNot, ?loss, ?again, ?againNot, ?off, ?charged, ?chargedNot, ?applied, ?appliedNot, ?removed, ?trip, ?tripNot⟩
  case porst =>
    intro hn hv hp
    exact ⟨_, exec_porstNAssert hn hv hp, (porReset_forgets s _).1, (porReset_forgets s _).2, rfl, rfl, rfl, rfl⟩
  case porstNot => exact fun h => if_pos h
  case warm =>
    intro hn hv hp hw ht
    refine ⟨_, exec_warmrstNAssert hn hv hp hw ht, warmReset_aonKept s _, rfl, rfl, rfl, rfl, rfl, rfl, rfl, rfl, rfl, rfl, rfl, rfl, rfl, rfl, fun hk => ?_⟩
    have hchan : (s.warmReset.modPins (fun p => { p with warmrstN := false })).chan k = ch.warm := warmReset_chan hk
    rw [hchan]
    exact ⟨rfl, rfl, rfl, rfl, rfl, rfl, rfl, warm_bank ch⟩
  case warmNot =>
    rintro (h | h | h)
    · exact if_pos (Or.inl h)
    · exact if_pos (Or.inr (Or.inr (Or.inl h)))
    · exact if_pos (Or.inr (Or.inr (Or.inr (Or.inl h))))
  case loss => exact fun hv hp hr hw ht => ⟨_, exec_refclkLoss hv hp hr hw ht, warmReset_aonKept s _, rfl, rfl, rfl, rfl⟩
  case again => exact fun hn => ⟨_, if_neg (Nat.not_lt.mpr hn), rfl⟩
  case againNot => exact fun hn => if_pos hn
  case off => exact ⟨_, rfl, (porReset_forgets s id).1, (porReset_forgets s id).2, rfl, rfl, rfl⟩
  case charged => exact fun hv => ⟨_, if_pos hv, rfl⟩
  case chargedNot => exact fun hv => if_neg (by simp [hv])
  case applied => exact fun hv => ⟨_, if_neg (by simp [hv]), (porReset_forgets s id).1, rfl, rfl, rfl⟩
  case appliedNot => exact fun hv => if_pos hv
  case removed => exact ⟨_, rfl, (porReset_forgets s _).1, rfl, rfl, rfl⟩
  case trip =>
    intro hv hi ht hx
    exact ⟨_, exec_thermalTrip hv hi ht hx, (porReset_forgets s id).1, rfl, rfl, rfl, rfl, by simp [State.thermtripN, State.powerOff, State.porReset, hv]⟩
  case tripNot =>
    rintro (h | h)
    · exact if_neg (by simp [h])
    · exact if_neg (by simp [Int.not_lt.mpr h])

end Sys2Proof.ResetSupply
end

section
/-! SUPPORT. A sensor read and a channel heated: what each changes (14 R366 to R372). -/
namespace Sys2Proof.SensorHeat
open Sys2Proof Sys2Proof.Machine

/-- Heat that reaches channel `c`: but for it, alerts and the count of engagements, nothing has changed; the readings stand. -/
def Heats (s t : State) (c : Nat) : Prop :=
  t.mem = s.mem ∧ t.slices = s.slices ∧ t.mg.sensors = s.mg.sensors ∧ (s.mg.alert.getLsbD 8 = true → t.mg.alert.getLsbD 8 = true)
    ∧ ∀ k, k ≠ c → t.chan k = s.chan k

theorem Heats.refl (s : State) (c : Nat) : Heats s s c := ⟨rfl, rfl, rfl, id, fun _ _ => rfl⟩

theorem Heats.trans {s t u : State} {c : Nat} (h : Heats s t c) (h' : Heats t u c) : Heats s u c := by
  obtain ⟨hmem, hslices, hsens, halert, hchan⟩ := h
  obtain ⟨hmem', hslices', hsens', halert', hchan'⟩ := h'
  exact ⟨hmem'.trans hmem, hslices'.trans hslices, hsens'.trans hsens, halert' ∘ halert, fun k hk => (hchan' k hk).trans (hchan k hk)⟩

theorem Heats.modChan (s : State) (c : Nat) (f : Channel → Channel) : Heats s (s.modChan c f) c :=
  ⟨rfl, rfl, rfl, id, fun k hk => chan_modChan_other s c k f hk⟩

theorem Heats.timing (s : State) (c i : Nat) : Heats s (s.timing c i) c := by
  unfold State.timing
  split
  · exact .modChan s c _
  · exact .refl s c

theorem Heats.alert (s : State) (bit : Nat) (e : ErrRec) (c : Nat) : Heats s (s.alert bit e) c :=
  ⟨rfl, rfl, rfl, fun ha => by simp [ha], fun _ _ => rfl⟩

theorem Heats.noteSat (s : State) (old limit d c : Nat) : Heats s (s.noteSat old limit d) c := by
  rcases noteSat_cases s old limit d with h | h <;> rw [h]
  · exact .refl s c
  · exact .alert s 9 _ c

theorem Heats.noteEngaged (s : State) (c : Nat) : Heats s (s.noteEngaged c) c := by
  have hcount : Heats s (s.modMg (fun m => { m with engagements := satInc s.mg.engagements 0xFFFF })) c := ⟨rfl, rfl, rfl, id, fun _ _ => rfl⟩
  exact (hcount.trans (.alert _ 8 _ c)).trans (.noteSat _ _ _ c c)

theorem noteEngaged_chan (s : State) (c k : Nat) : (s.noteEngaged c).chan k = s.chan k := by
  unfold State.noteEngaged
  rw [BankMemory.noteSat_chan]
  rfl

/-- The state once the refresh step of the channel is taken (02 R56). -/
def stepped (s : State) (c : Nat) : State :=
  match s.tierTemp c with
  | some t => s.modChan c (fun ch => { ch with mem := { ch.mem with pendStep := nextStep ch.mem.pendStep t } })
  | none => s

theorem stepped_heats (s : State) (c : Nat) : Heats s (stepped s c) c := by
  unfold stepped
  split
  · exact .modChan s c _
  · exact .refl s c

/-- The state once the throttling of the channel follows excess `e` (14 R370 to R372). -/
def throttled (s : State) (c : Nat) (e : Int) : State :=
  let t := (s.chan c).thr
  let u := t.update e
  let s := s.modChan c (fun ch => { ch with thr := u })
  let s := if u.engaged && !t.engaged then s.noteEngaged c else s
  if u.duty ≠ t.duty ∨ u.cap ≠ t.cap then s.timing c 0 else s

theorem throttled_heats (s : State) (c : Nat) (e : Int) : Heats s (throttled s c e) c := by
  unfold throttled
  extract_lets t u v w
  have hw : Heats s w c := by
    refine (Heats.modChan s c (fun ch => { ch with thr := u })).trans ?_
    dsimp only [w]
    split
    · exact .noteEngaged v c
    · exact .refl v c
  split
  · exact hw.trans (.timing w c 0)
  · exact hw

theorem throttled_chan (s : State) (c : Nat) (e : Int) :
    ((throttled s c e).chan c).thr = (s.chan c).thr.update e ∧ ((throttled s c e).chan c).mem = (s.chan c).mem := by
  unfold throttled
  extract_lets t u v w
  have hw : (w.chan c).thr = u ∧ (w.chan c).mem = (s.chan c).mem := by
    have hv : v.chan c = { s.chan c with thr := u } := chan_modChan_same s c _
    dsimp only [w]
    split
    · rw [noteEngaged_chan, hv]; exact ⟨rfl, rfl⟩
    · rw [hv]; exact ⟨rfl, rfl⟩
  split
  · rw [BankMemory.timing_chan]; exact hw
  · exact hw

theorem heatChan_eq (s : State) (c : Nat) :
    s.heatChan c = match s.excess c with | none => stepped s c | some e => throttled (stepped s c) c e := by
  have hexcess : (stepped s c).excess c = s.excess c := by
    unfold stepped
    split <;> rfl
  rw [← hexcess]
  rfl

theorem heatChan_heats (s : State) (c : Nat) : Heats s (s.heatChan c) c := by
  rw [heatChan_eq]
  split
  · exact stepped_heats s c
  · exact (stepped_heats s c).trans (throttled_heats _ c _)

theorem heatChan_thr {s : State} {c : Nat} {e : Int} (he : s.excess c = some e) : ((s.heatChan c).chan c).thr = (s.chan c).thr.update e := by
  rw [heatChan_eq, he]
  have hthr : ((stepped s c).chan c).thr = (s.chan c).thr := by
    unfold stepped
    split
    · rw [chan_modChan_same]
    · rfl
  exact (throttled_chan (stepped s c) c e).1.trans (by rw [hthr])

theorem heatChan_pendStep {s : State} {c : Nat} {x : Int} (hx : s.tierTemp c = some x) :
    ((s.heatChan c).chan c).mem.pendStep = nextStep (s.chan c).mem.pendStep x := by
  have hstep : ((stepped s c).chan c).mem.pendStep = nextStep (s.chan c).mem.pendStep x := by
    unfold stepped
    rw [hx, chan_modChan_same]
  rw [heatChan_eq]
  split
  · exact hstep
  · rw [(throttled_chan _ c _).2]; exact hstep

/-! ## The channels of one reading -/

/-- Heat over a list of channels: outside it nothing but alerts and the count of engagements changes. -/
theorem heatAll_keeps (l : List Nat) (s : State) :
    (l.foldl State.heatChan s).mem = s.mem ∧ (l.foldl State.heatChan s).slices = s.slices ∧ (l.foldl State.heatChan s).mg.sensors = s.mg.sensors
      ∧ (s.mg.alert.getLsbD 8 = true → (l.foldl State.heatChan s).mg.alert.getLsbD 8 = true)
      ∧ ∀ k, k ∉ l → (l.foldl State.heatChan s).chan k = s.chan k := by
  induction l generalizing s with
  | nil => exact ⟨rfl, rfl, rfl, id, fun _ _ => rfl⟩
  | cons c l ih =>
    obtain ⟨hmem, hslices, hsens, halert, hchan⟩ := heatChan_heats s c
    obtain ⟨imem, islices, isens, ialert, ichan⟩ := ih (s.heatChan c)
    refine ⟨imem.trans hmem, islices.trans hslices, isens.trans hsens, ialert ∘ halert, fun k hk => ?_⟩
    rw [List.mem_cons, not_or] at hk
    exact (ichan k hk.2).trans (hchan k hk.1)

/-- A channel of the list is heated once, from where it stood. -/
theorem heatAll_chan {l : List Nat} (hl : l.Nodup) {c : Nat} (hc : c ∈ l) (s : State) :
    ∃ u : State, (l.foldl State.heatChan s).chan c = (u.heatChan c).chan c ∧ u.mg.sensors = s.mg.sensors ∧ u.chan c = s.chan c := by
  induction l generalizing s with
  | nil => exact absurd hc List.not_mem_nil
  | cons k l ih =>
    obtain ⟨hk, hl⟩ := List.nodup_cons.mp hl
    rcases List.mem_cons.mp hc with rfl | hc
    · exact ⟨s, (heatAll_keeps l (s.heatChan c)).2.2.2.2 c hk, rfl, rfl⟩
    · obtain ⟨u, hu, hsens, hchan⟩ := ih hl hc (s.heatChan k)
      obtain ⟨-, -, hsens', -, hchan'⟩ := heatChan_heats s k
      exact ⟨u, hu, hsens.trans hsens', hchan.trans (hchan' c (fun h => hk (h ▸ hc)))⟩

theorem sensor_congr {s t : State} (h : t.mg.sensors = s.mg.sensors) : t.sensor = s.sensor :=
  funext fun i => by rw [State.sensor, State.sensor, h]

theorem excess_congr {s t : State} (h : t.mg.sensors = s.mg.sensors) (c : Nat) : t.excess c = s.excess c := by
  rw [State.excess, State.excess, sensor_congr h]

theorem tierTemp_congr {s t : State} (h : t.mg.sensors = s.mg.sensors) (c : Nat) : t.tierTemp c = s.tierTemp c := by
  rw [State.tierTemp, State.tierTemp, sensor_congr h]

/-! ## A sensor read -/

theorem readSensor_sensor (s : State) (i : Nat) (x : Int) (hi : i < 2608) :
    ((s.readSensor (i, x)).sensor i).temp = clampTemp x ∧ ((s.readSensor (i, x)).sensor i).valid = true
      ∧ ((s.readSensor (i, x)).sensor i).warn
        = (decide (s.mg.warnAt (dieOf i) < clampTemp x) || ((s.sensor i).warn && decide (s.mg.warnAt (dieOf i) - 16 < clampTemp x)))
      ∧ ∀ j, j ≠ i → (s.readSensor (i, x)).sensor j = s.sensor j := by
  unfold State.readSensor
  rw [if_neg (Nat.not_le.mpr hi)]
  have hput : ∀ y : Sensor, tget (tput s.mg.sensors i y) i .zero = y := fun y => tget_tput_same _ _ _ _
  dsimp only
  split
  · refine ⟨?_, ?_, ?_, fun j hj => tget_tput_other _ _ _ _ _ hj⟩ <;> exact congrArg _ (hput _)
  · refine ⟨?_, ?_, ?_, fun j hj => tget_tput_other _ _ _ _ _ hj⟩ <;> exact congrArg _ (hput _)

/-- What a sensor read leaves: all but the readings and alerts. -/
theorem readSensor_keeps (s : State) (e : Nat × Int) :
    (s.readSensor e).mem = s.mem ∧ (s.readSensor e).slices = s.slices ∧ (s.readSensor e).chans = s.chans := by
  unfold State.readSensor
  dsimp only
  split
  · exact ⟨rfl, rfl, rfl⟩
  · split <;> exact ⟨rfl, rfl, rfl⟩

/-- The alert of a warning that begins (14 R369). -/
theorem readSensor_alert {s : State} {i : Nat} {x : Int} (hi : i < 2608) (hw : ((s.readSensor (i, x)).sensor i).warn = true) (hold : (s.sensor i).warn = false) :
    (s.readSensor (i, x)).mg.alert.getLsbD 8 = true := by
  rw [(readSensor_sensor s i x hi).2.2.1, hold, Bool.false_and, Bool.or_false] at hw
  unfold State.readSensor
  rw [if_neg (Nat.not_le.mpr hi)]
  dsimp only
  rw [if_pos (by rw [hw, hold]; rfl)]
  exact PreolmondLink.alert_sets _ 8 _ (by decide)

end Sys2Proof.SensorHeat
end

section
/-! SUPPORT. The channels a reading names, and what their own readings come to. -/
namespace Sys2Proof.SensorHeat
open Sys2Proof Sys2Proof.Machine

/-- The larger of a value and what has been found so far. -/
theorem foldl_isSome {α β : Type} {f : Option β → α → Option β} (hf : ∀ b a, b.isSome = true → (f b a).isSome = true) {l : List α} {x : α} (hx : x ∈ l)
    (hfx : ∀ b, (f b x).isSome = true) (b : Option β) : (l.foldl f b).isSome = true := by
  have hkeep : ∀ (l : List α) (b : Option β), b.isSome = true → (l.foldl f b).isSome = true := fun l => by
    induction l with
    | nil => exact fun b h => h
    | cons a l ih => exact fun b h => ih _ (hf b a h)
  induction l generalizing b with
  | nil => exact absurd hx List.not_mem_nil
  | cons a l ih =>
    rcases List.mem_cons.mp hx with rfl | hx
    · exact hkeep l _ (hfx b)
    · exact ih hx _

/-- A channel has an excess once one of its own sensors of a die that throttles has been read (14 R370). -/
theorem excess_isSome {s : State} {c i : Nat} {h : Int} (hi : i ∈ ownSensors c) (hat : throttleAt (dieOf i) = some h) (hv : (s.sensor i).valid = true) :
    ∃ e, s.excess c = some e := by
  refine Option.isSome_iff_exists.mp (foldl_isSome (fun b j hb => ?_) hi (fun b => ?_) none)
  · dsimp only
    split
    · split
      · rfl
      · exact hb
    · exact hb
  · simp only [hat, hv, if_true, Option.isSome_some]

/-- A tier has a temperature once one of its DRAM sensors has been read (02 R56). -/
theorem tierTemp_isSome {s : State} {c i : Nat} (hi : i ∈ upFrom (2048 + c / 4 * 4) 4) (hv : (s.sensor i).valid = true) : ∃ x, s.tierTemp c = some x := by
  have hmem : s.sensor i ∈ ((upFrom (2048 + c / 4 * 4) 4).map s.sensor).filter (·.valid) := List.mem_filter.mpr ⟨List.mem_map_of_mem hi, hv⟩
  exact Option.isSome_iff_exists.mp (foldl_isSome (fun _ _ _ => rfl) hmem (fun _ => rfl) none)

/-- The warning with its hysteresis, as a Boolean and as a condition (14 R369). -/
theorem warn_eq (w x : Int) (old : Bool) :
    (decide (w < clampTemp x) || (old && decide (w - 16 < clampTemp x))) = decide (w < max (-2048) (min 2047 x) ∨ (old = true ∧ w - 16 < max (-2048) (min 2047 x))) := by
  rw [Bool.eq_iff_iff]
  simp only [Bool.or_eq_true, Bool.and_eq_true, decide_eq_true_eq]
  rfl

theorem nodup_four (a : Nat) : (upFrom a 4).Nodup := by
  simp only [upFrom, List.nodup_cons, List.mem_cons, List.not_mem_nil, or_false, not_or, List.nodup_nil, not_false_eq_true, and_true]
  omega

theorem dedupe_four (a : Nat) : dedupe (upFrom a 4) = upFrom a 4 := by
  have h2 : ¬ a + 1 + 1 = a := by omega
  have h3 : ¬ a + 1 + 1 + 1 = a := by omega
  simp [upFrom, dedupe, h2, h3]

theorem sensorChans_logic {i : Nat} (hi : i < 2048) : sensorChans i = [i / 16 * 4 + i % 16 / 4] := by
  rw [sensorChans, dieOf, if_pos hi]

theorem sensorChans_dram {i : Nat} (hi : 2048 ≤ i) (hi' : i < 2560) : sensorChans i = upFrom ((i - 2048) / 4 * 4) 4 := by
  rw [sensorChans, dieOf, if_neg (Nat.not_lt.mpr hi), if_pos hi']

/-- The state in which the channels of one reading are heated. -/
def heard (s : State) (i : Nat) (x : Int) : State :=
  (s.readSensor (i, x)).modMg (fun m => { m with hottest := hottestOf (m.sensors.filter (·.2.valid)) })

theorem exec_sensorRead {s : State} {i : Nat} {x : Int} (hp : s.powered = true) (hi : i < 2608) :
    exec (.sensorRead [(i, x)]) s = .next ((dedupe (sensorChans i)).foldl State.heatChan (heard s i x)) := by
  have hnamed : ([(i, x)].filter (fun e => decide (e.1 < 2608))).flatMap (fun e => sensorChans e.1) = sensorChans i := by
    simp [hi]
  show execSensorRead [(i, x)] s = _
  rw [execSensorRead, if_neg (by simp [hp]), hnamed]
  rfl

theorem heard_chan (s : State) (i : Nat) (x : Int) (c : Nat) : (heard s i x).chan c = s.chan c := by
  rw [State.chan, State.chan]
  exact congrArg (tget · c .zero) (readSensor_keeps s (i, x)).2.2

theorem heard_valid (s : State) {i : Nat} (x : Int) (hi : i < 2608) : ((heard s i x).sensor i).valid = true := (readSensor_sensor s i x hi).2.1

end Sys2Proof.SensorHeat
end

section
namespace Sys2Proof.SensorHeat
open Sys2Proof Sys2Proof.Machine

/-- Settles O43: a reading is noted before its channels are heated, each from where it stood, and heat changes no reading. -/
theorem sensorReadings : Obligations.SensorReadings := by
  unfold Obligations.SensorReadings
  intro s i x e c u
  refine ⟨?reading, ?throttle, ?tier, ?engaged, ?free, ?level⟩
  case reading =>
    intro hp hi
    obtain ⟨hmem, hslices, hsens, halert, -⟩ := heatAll_keeps (dedupe (sensorChans i)) (heard s i x)
    obtain ⟨htemp, hvalid, hwarn, hother⟩ := readSensor_sensor s i x hi
    obtain ⟨rmem, rslices, -⟩ := readSensor_keeps s (i, x)
    have hs := sensor_congr hsens
    refine ⟨_, exec_sensorRead hp hi, (congrArg Sensor.temp (congrFun hs i)).trans htemp, (congrArg Sensor.valid (congrFun hs i)).trans hvalid,
      (congrArg Sensor.warn (congrFun hs i)).trans (hwarn.trans ?_), fun j hj => (congrFun hs j).trans (hother j hj), fun hw hold => halert ?_, hmem.trans rmem,
      hslices.trans rslices⟩
    · exact warn_eq _ _ _
    · exact readSensor_alert hi (hwarn.trans ((warn_eq _ _ _).trans hw)) hold
  case throttle =>
    intro hp hi hc
    have hown : i ∈ ownSensors c := by
      rw [ownSensors, List.mem_append, mem_upFrom]
      omega
    obtain ⟨e, he⟩ := excess_isSome (h := 408) hown (by rw [dieOf, if_pos hi]; rfl) (heard_valid s x (by omega : i < 2608))
    have hlist : dedupe (sensorChans i) = [c.val] := by rw [sensorChans_logic hi, hc]; rfl
    refine ⟨_, exec_sensorRead hp (by omega), e, ?_, ?_⟩
    · exact (excess_congr (heatAll_keeps _ _).2.2.1 c).trans he
    · rw [hlist]
      exact (heatChan_thr he).trans (by rw [heard_chan])
  case tier =>
    intro hp hi hi' hc
    have htier : i ∈ upFrom (2048 + c.val / 4 * 4) 4 := by
      rw [mem_upFrom]
      omega
    obtain ⟨e, he⟩ := tierTemp_isSome htier (heard_valid s x (by omega : i < 2608))
    have hlist : dedupe (sensorChans i) = upFrom ((i - 2048) / 4 * 4) 4 := by rw [sensorChans_dram hi hi', dedupe_four]
    have hmem : c.val ∈ upFrom ((i - 2048) / 4 * 4) 4 := by
      rw [mem_upFrom]
      omega
    obtain ⟨v, hv, hsens, hchan⟩ := heatAll_chan (nodup_four _) hmem (heard s i x)
    refine ⟨_, exec_sensorRead hp (by omega), e, ?_, ?_⟩
    · exact (tierTemp_congr (heatAll_keeps _ _).2.2.1 c).trans he
    · rw [hlist, hv, heatChan_pendStep ((tierTemp_congr hsens c).trans he), hchan, heard_chan]
  case engaged => simp [Throttle.update]
  case free =>
    intro h
    simp only [Throttle.update] at h ⊢
    rw [h]
    exact ⟨rfl, rfl⟩
  case level =>
    intro h
    simp only [Throttle.update] at h ⊢
    rw [h, if_pos rfl]
    unfold throttleLevel
    split_ifs <;> simp <;> omega

end Sys2Proof.SensorHeat
end

section
/-! SUPPORT. The security engine (15): what its operations leave alone, and what each does to `sc`. -/
namespace Sys2Proof.SecEngine
open Sys2Proof Sys2Proof.Machine

/-! ## What the engine leaves alone -/

/-- The engine has gone on: nothing but `sc`, the free values drawn, alerts and a sideband response has changed; no alert bit has fallen, the management
domain has no transition begun, and the core that does not wait does not begin to. -/
def Served (s t : State) : Prop :=
  t = { s with sc := t.sc, mg := t.mg, free := t.free }
    ∧ t.mg = { s.mg with
        alert := t.mg.alert, events := t.mg.events, mgmtDom := t.mg.mgmtDom, boot := { s.mg.boot with coreWait := t.mg.boot.coreWait, sbOut := t.mg.boot.sbOut } }
    ∧ (∀ bit, s.mg.alert.getLsbD bit = true → t.mg.alert.getLsbD bit = true) ∧ (s.mg.mgmtDom = .zero → t.mg.mgmtDom = .zero)
    ∧ (s.mg.boot.coreWait = false → t.mg.boot.coreWait = false)

namespace Served
variable {s t u : State}

theorem refl (s : State) : Served s s := ⟨rfl, rfl, fun _ h => h, id, id⟩

theorem trans (h : Served s t) (h' : Served t u) : Served s u := by
  obtain ⟨hs, hm, ha, hd, hw⟩ := h
  obtain ⟨hs', hm', ha', hd', hw'⟩ := h'
  refine ⟨?_, ?_, fun bit => ha' bit ∘ ha bit, hd' ∘ hd, hw' ∘ hw⟩
  · rw [hs', hs]
  · rw [hm', hm]

theorem modSc (s : State) (f : SecSt → SecSt) : Served s (s.modSc f) := ⟨rfl, rfl, fun _ h => h, id, id⟩

theorem draw (s : State) (n : Nat) : Served s (s.draw n).2 := ⟨rfl, rfl, fun _ h => h, id, id⟩

theorem respond (s : State) (bs : List Byte) : Served s (s.respond bs) := ⟨rfl, rfl, fun _ h => h, id, id⟩

theorem alert (s : State) (bit : Nat) (e : ErrRec) : Served s (s.alert bit e) :=
  ⟨rfl, rfl, fun _ h => by simp [h], fun h => by rw [alert_onlyAlerts, h]; rfl, fun _ => rfl⟩

theorem noteSat (s : State) (old limit c : Nat) : Served s (s.noteSat old limit c) := by
  rcases noteSat_cases s old limit c with h | h <;> rw [h]
  · exact refl s
  · exact alert s 9 _

theorem secEvent (s : State) (code : Nat) : Served s (s.secEvent code) := ((modSc s _).trans (alert _ _ _)).trans (noteSat _ _ _ _)

theorem newChallenge (s : State) : Served s s.newChallenge := (draw s 32).trans (modSc (s.draw 32).2 (fun x => { x with nonce := (s.draw 32).1 }))

theorem wantSession (s : State) : Served s s.wantSession := by
  unfold State.wantSession
  split
  · exact modSc s _
  · exact refl s

theorem tokenDone (s : State) (r : Nat) : Served s (s.tokenDone r) := by
  unfold State.tokenDone
  extract_lets sb v w
  have hv : Served s v := ((modSc s _).trans (modSc _ _)).trans (newChallenge _)
  have hw : Served s w := by
    dsimp only [w]
    split
    · exact hv
    · exact (hv.trans (modSc _ _)).trans (secEvent _ 1)
  split
  · exact hw.trans (respond w _)
  · exact hw

theorem reportFails (s : State) (sb : Bool) (r : Nat) : Served s (s.reportFails sb r) := by
  unfold State.reportFails
  dsimp only
  split
  · exact modSc s _
  · exact (modSc s _).trans (modSc _ _)

theorem serveSec (n : Nat) (s : State) : Served s (s.serveSec n) := by
  induction n generalizing s with
  | zero => exact refl s
  | succ n ih =>
    unfold State.serveSec
    split
    · exact refl s
    · split
      · exact refl s
      · dsimp only
        split
        · exact modSc s _
        · exact (tokenDone s _).trans (ih _)
    · split
      · exact (reportFails s _ _).trans (ih _)
      · split
        · split
          · exact modSc s _
          · exact refl s
        · split
          · exact (reportFails s _ _).trans (ih _)
          · exact modSc s _
    · split
      · exact refl s
      · exact (modSc s _).trans (ih _)
    · exact refl s

theorem secServe (s : State) : Served s s.secServe := by
  unfold State.secServe
  split
  · exact serveSec _ s
  · exact refl s

/-! What stands while the engine goes on. -/

theorem chans (h : Served s t) : t.chans = s.chans := by rw [h.1]
theorem slices (h : Served s t) : t.slices = s.slices := by rw [h.1]
theorem mem (h : Served s t) : t.mem = s.mem := by rw [h.1]
theorem checkDiff (h : Served s t) : t.checkDiff = s.checkDiff := by rw [h.1]
theorem fuses (h : Served s t) : t.fuses = s.fuses := by rw [h.1]
theorem mram (h : Served s t) : t.mram = s.mram := by rw [h.1]
theorem port (h : Served s t) : t.port = s.port := by rw [h.1]
theorem pins (h : Served s t) : t.pins = s.pins := by rw [h.1]
theorem keepsAlert (h : Served s t) {bit : Nat} (ha : s.mg.alert.getLsbD bit = true) : t.mg.alert.getLsbD bit = true := h.2.2.1 bit ha
theorem boot (h : Served s t) : t.mg.boot = { s.mg.boot with coreWait := t.mg.boot.coreWait, sbOut := t.mg.boot.sbOut } := by rw [h.2.1]
theorem coreRuns (h : Served s t) (hw : s.mg.boot.coreWait = false) : t.mg.boot.coreWait = false := h.2.2.2.2 hw
theorem mgmtDom (h : Served s t) (hz : s.mg.mgmtDom = .zero) : t.mg.mgmtDom = .zero := h.2.2.2.1 hz
theorem secDom (h : Served s t) : t.mg.secDom = s.mg.secDom := by rw [h.2.1]

theorem secOn (h : Served s t) : t.secOn = s.secOn := by
  rw [State.secOn, State.secOn, State.powered, State.powered, h.pins, h.secDom, h.2.1]

end Served

/-! ## Events -/

theorem secEvent_alert (s : State) (code : Nat) : (s.secEvent code).mg.alert.getLsbD 12 = true :=
  (Served.noteSat _ _ _ _).keepsAlert (PreolmondLink.alert_sets _ 12 _ (by decide))

/-! ## The end of a token (R397) -/

theorem popSec_sc (s : State) : s.popSec.sc = { s.sc with queue := s.sc.queue.drop 1 } := rfl

/-- The token at the head came over the sideband. -/
def sbToken (s : State) : Bool := match s.sc.queue with | .token _ true :: _ => true | _ => false

/-- The token at the head has left with result `r`, and a new challenge stands. -/
def answered (s : State) (r : Nat) : State :=
  (s.popSec.modSc (fun x => { x with result := r, tokenOk := false, busy := x.queue.any SecReq.isToken })).newChallenge

theorem answered_sc (s : State) (r : Nat) : (answered s r).sc = { s.sc with
    queue := s.sc.queue.drop 1, result := r, tokenOk := false, busy := (s.sc.queue.drop 1).any SecReq.isToken, nonce := (s.draw 32).1 } := rfl

/-- A refusal leaves its code and event 1. -/
def refused (s : State) (r : Nat) : State := ((answered s r).modSc (fun x => { x with lastResult := BitVec.ofNat 8 r })).secEvent 1

theorem tokenDone_accepted (s : State) : s.tokenDone 1 = if sbToken s then (answered s 1).respond [0, 1] else answered s 1 := rfl

theorem tokenDone_refused (s : State) {r : Nat} (hr : r ≠ 1) :
    s.tokenDone r = if sbToken s then (refused s r).respond [3, BitVec.ofNat 8 r] else refused s r := by
  unfold State.tokenDone
  dsimp only
  rw [if_neg hr, if_neg hr]
  rfl

theorem refused_sc (s : State) (r : Nat) : (refused s r).sc = { s.sc with
    queue := s.sc.queue.drop 1, result := r, tokenOk := false, busy := (s.sc.queue.drop 1).any SecReq.isToken, nonce := (s.draw 32).1
    lastResult := BitVec.ofNat 8 r, lastEvent := 1, events := satInc s.sc.events 0xFFFF } := by
  rw [refused, secEvent_sc]
  rfl

theorem tokenDone_accepted_sc (s : State) : (s.tokenDone 1).sc = { s.sc with
    queue := s.sc.queue.drop 1, result := 1, tokenOk := false, busy := (s.sc.queue.drop 1).any SecReq.isToken, nonce := (s.draw 32).1 } := by
  rw [tokenDone_accepted, ← answered_sc]
  split <;> rfl

theorem tokenDone_refused_sc (s : State) {r : Nat} (hr : r ≠ 1) : (s.tokenDone r).sc = { s.sc with
    queue := s.sc.queue.drop 1, result := r, tokenOk := false, busy := (s.sc.queue.drop 1).any SecReq.isToken, nonce := (s.draw 32).1
    lastResult := BitVec.ofNat 8 r, lastEvent := 1, events := satInc s.sc.events 0xFFFF } := by
  rw [tokenDone_refused s hr, ← refused_sc]
  split <;> rfl

theorem tokenDone_refused_alert (s : State) {r : Nat} (hr : r ≠ 1) : (s.tokenDone r).mg.alert.getLsbD 12 = true := by
  rw [tokenDone_refused s hr]
  have halert : (refused s r).mg.alert.getLsbD 12 = true := secEvent_alert _ 1
  split
  · exact halert
  · exact halert

/-! ## The engine goes on, by what its queue holds (R394) -/

theorem secServe_off {s : State} (h : s.secOn = false) : s.secServe = s := if_neg (by simp [h])

theorem secServe_on {s : State} (h : s.secOn = true) : s.secServe = s.serveSec (s.sc.queue.length + 1) := if_pos h

theorem serveSec_empty {s : State} (n : Nat) (hq : s.sc.queue = []) : s.serveSec n = s := by
  cases n with
  | zero => rfl
  | succ n =>
    unfold State.serveSec
    rw [hq]

theorem secServe_empty {s : State} (hq : s.sc.queue = []) : s.secServe = s := by
  unfold State.secServe
  split
  · exact serveSec_empty _ hq
  · rfl

theorem serveSec_firmware {s : State} (n : Nat) {rest : List SecReq} (hq : s.sc.queue = .firmware :: rest) : s.serveSec n = s := by
  cases n with
  | zero => rfl
  | succ n =>
    unfold State.serveSec
    rw [hq]

theorem secServe_firmware {s : State} {rest : List SecReq} (hq : s.sc.queue = .firmware :: rest) : s.secServe = s := by
  unfold State.secServe
  split
  · exact serveSec_firmware _ hq
  · rfl

theorem secServe_token_accepted {s : State} {bs : List Byte} {sb : Bool} {rest : List SecReq} (hon : s.secOn = true) (hq : s.sc.queue = .token bs sb :: rest)
    (hok : s.sc.tokenOk = false) (hc : s.checkToken bs = 0) : s.secServe = s.modSc (fun x => { x with tokenOk := true }) := by
  rw [secServe_on hon]
  unfold State.serveSec
  rw [hq]
  simp only [hok, hc, if_true, Bool.false_eq_true, if_false]

theorem secServe_token_refused {s : State} {bs : List Byte} {sb : Bool} (hon : s.secOn = true) (hq : s.sc.queue = [.token bs sb])
    (hok : s.sc.tokenOk = false) (hc : s.checkToken bs ≠ 0) (hc1 : s.checkToken bs ≠ 1) : s.secServe = s.tokenDone (s.checkToken bs) := by
  rw [secServe_on hon]
  unfold State.serveSec
  rw [hq]
  simp only [hok, hc, Bool.false_eq_true, if_false]
  exact serveSec_empty _ (by rw [tokenDone_refused_sc s hc1, hq]; rfl)

theorem serveSec_session {s : State} {n : Nat} (hq : s.sc.queue = [.session]) (hc : s.certifies = true) (he : s.exhausted = false) : s.serveSec n = s := by
  cases n with
  | zero => rfl
  | succ n =>
    unfold State.serveSec
    rw [hq]
    simp only [hc, he, Bool.not_false, Bool.and_true, if_true]

theorem secServe_session {s : State} (hq : s.sc.queue = [.session]) (hc : s.certifies = true) (he : s.exhausted = false) : s.secServe = s := by
  unfold State.secServe
  split
  · exact serveSec_session hq hc he
  · rfl

/-! ## The checks of a token (R397) -/

/-- A token passes its checks when each of them does, in the order of R397. -/
theorem checkToken_eq_zero_iff (s : State) (bs : List Byte) : s.checkToken bs = 0 ↔
    tokFormat bs = true ∧ bytesAt bs 8 32 = s.deviceId ∧ bytesAt bs 40 32 = s.sc.nonce ∧ s.tokAllowed (tokKind bs) (tokArg bs) = true ∧ s.tokRootCheck bs = 0
      ∧ s.tokOwnerOk bs = true ∧ (tokKind bs = 1 → s.mram.bootCount ≤ leAt bs 72 4) ∧ (tokKind bs = 4 → s.fuses.secver < tokArg bs) := by
  unfold State.checkToken
  split_ifs <;> simp_all

theorem tokRootCheck_ne_one (s : State) (bs : List Byte) : s.tokRootCheck bs ≠ 1 := by
  unfold State.tokRootCheck
  dsimp only
  split_ifs <;> decide

/-- No check answers 1, the code of a token accepted. -/
theorem checkToken_ne_one (s : State) (bs : List Byte) : s.checkToken bs ≠ 1 := by
  unfold State.checkToken
  split_ifs
  on_goal 5 => exact tokRootCheck_ne_one s bs
  all_goals decide

/-! ## What no step of the engine sets -/

theorem tokenDone_keeps (s : State) (r : Nat) : (s.tokenDone r).sc.level = s.sc.level ∧ (s.tokenDone r).sc.lifecycleNow = s.sc.lifecycleNow := by
  by_cases hr : r = 1
  · rw [hr, tokenDone_accepted_sc]
    exact ⟨rfl, rfl⟩
  · rw [tokenDone_refused_sc s hr]
    exact ⟨rfl, rfl⟩

theorem reportFails_keeps (s : State) (sb : Bool) (r : Nat) :
    (s.reportFails sb r).sc.level = s.sc.level ∧ (s.reportFails sb r).sc.lifecycleNow = s.sc.lifecycleNow := by
  unfold State.reportFails
  dsimp only
  split <;> exact ⟨rfl, rfl⟩

/-- Going on with its queue, the engine sets no debug level and reads no lifecycle. -/
theorem serveSec_keeps (n : Nat) (s : State) : (s.serveSec n).sc.level = s.sc.level ∧ (s.serveSec n).sc.lifecycleNow = s.sc.lifecycleNow := by
  induction n generalizing s with
  | zero => exact ⟨rfl, rfl⟩
  | succ n ih =>
    have hnext : ∀ u : State, u.sc.level = s.sc.level ∧ u.sc.lifecycleNow = s.sc.lifecycleNow →
        (u.serveSec n).sc.level = s.sc.level ∧ (u.serveSec n).sc.lifecycleNow = s.sc.lifecycleNow :=
      fun u hu => ⟨(ih u).1.trans hu.1, (ih u).2.trans hu.2⟩
    unfold State.serveSec
    split
    · exact ⟨rfl, rfl⟩
    · split
      · exact ⟨rfl, rfl⟩
      · dsimp only
        split
        · exact ⟨rfl, rfl⟩
        · exact hnext _ (tokenDone_keeps s _)
    · split
      · exact hnext _ (reportFails_keeps s _ _)
      · split
        · split
          · simp only [State.modSc, and_self]
          · exact ⟨rfl, rfl⟩
        · split
          · exact hnext _ (reportFails_keeps s _ _)
          · exact ⟨rfl, rfl⟩
    · split
      · exact ⟨rfl, rfl⟩
      · exact hnext s.popSec ⟨rfl, rfl⟩
    · exact ⟨rfl, rfl⟩

theorem secServe_keeps (s : State) : s.secServe.sc.level = s.sc.level ∧ s.secServe.sc.lifecycleNow = s.sc.lifecycleNow := by
  unfold State.secServe
  split
  · exact serveSec_keeps _ s
  · exact ⟨rfl, rfl⟩

end Sys2Proof.SecEngine
end

section
/-! SUPPORT. A host write of one register of the port's window, for the engine's registers (04 R107). -/
namespace Sys2Proof.SecEngine
open Sys2Proof Sys2Proof.Machine

/-- A register write that the host reaches and that goes on only in the engine and beside the port. -/
theorem wrotePort_served {s t : State} (h : Served s.keyOff t) : wrotePort s (t.status .ok) :=
  PreolmondLink.wrotePort_status h.port h.chans h.slices h.mem

theorem exec_submit {s : State} (hr : s.reached = true) : exec .submit s = .next ((s.keyOff.submit false).status .ok) :=
  congrArg Host.Outcome.next (hostReg_port s _ hr)

theorem exec_challenge {s : State} (hr : s.reached = true) : exec .challenge s = .next (s.keyOff.newChallenge.status .ok) :=
  congrArg Host.Outcome.next (hostReg_port s _ hr)

theorem exec_relock {s : State} (hr : s.reached = true) : exec .relock s = .next (s.keyOff.relock.status .ok) :=
  congrArg Host.Outcome.next (hostReg_port s _ hr)

/-- The token stands in the queue, and the engine has not gone on yet. -/
def submitted (s : State) (sb : Bool) : State :=
  (s.enqueue (.token (rdN s.sc.tokenBuf 0 tokenSize) sb)).modSc (fun x => { x with busy := true })

theorem submitted_served (s : State) (sb : Bool) : Served s (submitted s sb) := (Served.modSc s _).trans (.modSc _ _)

theorem submit_served (s : State) (sb : Bool) : Served s (s.submit sb) := (submitted_served s sb).trans (.secServe _)

theorem submitted_sc {s : State} (hq : s.sc.queue = []) (sb : Bool) :
    (submitted s sb).sc = { s.sc with queue := [.token (rdN s.sc.tokenBuf 0 5960) sb], busy := true } := by
  have h : (submitted s sb).sc = { s.sc with queue := s.sc.queue ++ [.token (rdN s.sc.tokenBuf 0 tokenSize) sb], busy := true } := rfl
  rw [h, hq, tokenSize, List.nil_append]

theorem submitted_queue {s : State} (hq : s.sc.queue = []) (sb : Bool) : (submitted s sb).sc.queue = [.token (rdN s.sc.tokenBuf 0 5960) sb] := by
  rw [submitted_sc hq]

theorem submitted_checkToken (s : State) (sb : Bool) (bs : List Byte) : (submitted s sb).checkToken bs = s.checkToken bs := rfl

/-- A submission to an idle engine whose checks pass waits for its effect. -/
theorem submit_accepted {s : State} {sb : Bool} (hon : s.secOn = true) (hq : s.sc.queue = []) (hok : s.sc.tokenOk = false)
    (hc : s.checkToken (rdN s.sc.tokenBuf 0 5960) = 0) :
    s.submit sb = (submitted s sb).modSc (fun x => { x with tokenOk := true }) :=
  secServe_token_accepted (s := submitted s sb) hon (submitted_queue hq sb) hok ((submitted_checkToken s sb _).trans hc)

theorem submit_accepted_sc {s : State} {sb : Bool} (hon : s.secOn = true) (hq : s.sc.queue = []) (hok : s.sc.tokenOk = false)
    (hc : s.checkToken (rdN s.sc.tokenBuf 0 5960) = 0) :
    (s.submit sb).sc = { s.sc with queue := [.token (rdN s.sc.tokenBuf 0 5960) sb], busy := true, tokenOk := true } := by
  rw [submit_accepted hon hq hok hc, State.modSc, submitted_sc hq]

/-- A submission to an idle engine that fails a check is answered with it. -/
theorem submit_refused {s : State} {sb : Bool} (hon : s.secOn = true) (hq : s.sc.queue = []) (hok : s.sc.tokenOk = false)
    (hc : s.checkToken (rdN s.sc.tokenBuf 0 5960) ≠ 0) :
    s.submit sb = (submitted s sb).tokenDone (s.checkToken (rdN s.sc.tokenBuf 0 5960)) := by
  rw [← submitted_checkToken s sb] at hc ⊢
  exact secServe_token_refused hon (submitted_queue hq sb) hok hc (checkToken_ne_one _ _)

theorem submit_refused_sc {s : State} {sb : Bool} (hon : s.secOn = true) (hq : s.sc.queue = []) (hok : s.sc.tokenOk = false)
    (hc : s.checkToken (rdN s.sc.tokenBuf 0 5960) ≠ 0) :
    (s.submit sb).sc = { s.sc with
      busy := false, result := s.checkToken (rdN s.sc.tokenBuf 0 5960), lastResult := BitVec.ofNat 8 (s.checkToken (rdN s.sc.tokenBuf 0 5960)), lastEvent := 1
      events := satInc s.sc.events 0xFFFF, nonce := (s.draw 32).1 } := by
  have hdraw : ((submitted s sb).draw 32).1 = (s.draw 32).1 := rfl
  rw [submit_refused hon hq hok hc, tokenDone_refused_sc _ (checkToken_ne_one _ _), hdraw, submitted_sc hq]
  simp only [List.drop_one, List.tail_cons, List.any_nil, hq, hok]

theorem submit_refused_alert {s : State} {sb : Bool} (hon : s.secOn = true) (hq : s.sc.queue = []) (hok : s.sc.tokenOk = false)
    (hc : s.checkToken (rdN s.sc.tokenBuf 0 5960) ≠ 0) : (s.submit sb).mg.alert.getLsbD 12 = true := by
  rw [submit_refused hon hq hok hc]
  exact tokenDone_refused_alert _ (checkToken_ne_one _ _)

theorem keyOff_checkToken (s : State) (bs : List Byte) : s.keyOff.checkToken bs = s.checkToken bs := rfl

/-! ## No effect without an accepted token -/

theorem exec_debug_none {s : State} (h : s.accepted 1 = none) : exec .debug s = .next s := by
  show execDebug s = _
  rw [execDebug, h]

theorem exec_lifecycle_none {s : State} (blows : List Bool) (h : s.accepted 2 = none) : exec (.lifecycle blows) s = .next s := by
  show execLifecycle blows s = _
  rw [execLifecycle, h]

theorem exec_revoke_none {s : State} (blows : List Bool) (h : s.accepted 3 = none) : exec (.revoke blows) s = .next s := by
  show execRevoke blows s = _
  rw [execRevoke, h]

theorem exec_secver_none {s : State} (blows : List Bool) (h : s.accepted 4 = none) : exec (.secver blows) s = .next s := by
  show execSecver blows s = _
  rw [execSecver, h]

theorem exec_owner_none {s : State} (blows : List Bool) (h : s.accepted 5 = none) : exec (.owner blows) s = .next s := by
  show execOwner blows s = _
  rw [execOwner, h]

/-! ## The single checks -/

theorem tokFormat_magic {bs : List Byte} (h : leAt bs 0 4 ≠ 0x4E4B5444) : tokFormat bs = false := by
  simp [tokFormat, h]

theorem tokAllowed_debug {s : State} {a : Nat} (h : s.tokAllowed 1 a = true) : s.sc.lifecycleNow ≠ 4 := by
  intro hl
  simp [State.tokAllowed, hl] at h

theorem tokRootCheck_revoke {s : State} {bs : List Byte} (hk : tokKind bs = 3) (h : s.tokRootCheck bs = 0) :
    s.otherRoot (tokArg bs) = true ∧ tokRoot bs ≠ tokArg bs := by
  have hn : (s.tokNeeds bs).1 = true := by simp [State.tokNeeds, hk]
  unfold State.tokRootCheck at h
  rw [hn, hk] at h
  dsimp only at h
  split_ifs at h <;> simp_all

end Sys2Proof.SecEngine
end

section
namespace Sys2Proof.SecEngine
open Sys2Proof Sys2Proof.Machine

/-- Settles O46: a submission joins the queue, and an idle engine that works takes it at once through the checks of R397. -/
theorem tokenSubmission : Obligations.TokenSubmission := by
  unfold Obligations.TokenSubmission
  intro s blows bs
  refine ⟨?idle, ?asleep, ?challenge, ?relock, ?debug, ?lifecycle, ?revoke, ?secver, ?owner, ?magic, ?device, ?nonce, ?dead, ?rootless, ?expiry, ?version,
    ?roots⟩
  case idle =>
    intro hr hon hq hok
    have hserved := submit_served s.keyOff false
    refine ⟨fun hc => ?_, fun hc => ?_⟩
    · rw [← keyOff_checkToken] at hc
      exact ⟨_, exec_submit hr, wrotePort_served hserved, submit_accepted_sc (s := s.keyOff) hon hq hok hc, hserved.fuses, hserved.mram⟩
    · rw [← keyOff_checkToken] at hc ⊢
      exact ⟨_, exec_submit hr, wrotePort_served hserved, hserved.fuses, hserved.mram, submit_refused_alert (s := s.keyOff) hon hq hok hc,
        submit_refused_sc (s := s.keyOff) hon hq hok hc⟩
  case asleep =>
    intro hr hoff
    refine ⟨_, exec_submit hr, wrotePort_served (submit_served _ _), ?_⟩
    exact congrArg State.sc (secServe_off (s := submitted s.keyOff false) hoff)
  case challenge => exact fun hr => ⟨_, exec_challenge hr, wrotePort_served (.newChallenge _), rfl, rfl, rfl⟩
  case relock => exact fun hr => ⟨_, exec_relock hr, PreolmondLink.wrotePort_status rfl rfl rfl rfl, rfl, rfl, rfl⟩
  case debug => exact exec_debug_none
  case lifecycle => exact exec_lifecycle_none blows
  case revoke => exact exec_revoke_none blows
  case secver => exact exec_secver_none blows
  case owner => exact exec_owner_none blows
  case magic => exact fun h => if_pos (by rw [tokFormat_magic h]; rfl)
  case device => exact fun hf hd => by rw [State.checkToken, hf, if_neg (by decide), if_pos hd]
  case nonce => exact fun hf hd hn => by rw [State.checkToken, hf, if_neg (by decide), if_neg (not_not.mpr hd), if_pos hn]
  case dead =>
    intro hf hd hn hl hk
    have ha : s.tokAllowed (tokKind bs) (tokArg bs) = false := by
      rw [hk]
      exact Bool.eq_false_iff.mpr fun h => tokAllowed_debug h hl
    rw [State.checkToken, hf, ha, if_neg (by decide), if_neg (not_not.mpr hd), if_neg (not_not.mpr hn), if_pos (by decide)]
  case rootless =>
    intro hf hd hn hk hroot
    have ha : s.tokAllowed (tokKind bs) (tokArg bs) = true := by rw [hk]; rfl
    have hc : s.tokRootCheck bs = 5 := by
      have hneed : (s.tokNeeds bs).1 = true := by simp [State.tokNeeds, hk]
      rw [State.tokRootCheck, hroot, hneed]
      rfl
    rw [State.checkToken, hf, ha, hc, if_neg (by decide), if_neg (not_not.mpr hd), if_neg (not_not.mpr hn), if_neg (by decide), if_pos (by decide)]
  case expiry =>
    intro hc hk
    obtain ⟨-, -, -, hallowed, -, -, hexpiry, -⟩ := (checkToken_eq_zero_iff s bs).mp hc
    rw [hk] at hallowed
    exact ⟨hexpiry hk, tokAllowed_debug hallowed⟩
  case version =>
    intro hc hk
    obtain ⟨-, -, -, -, -, -, -, hversion⟩ := (checkToken_eq_zero_iff s bs).mp hc
    exact hversion hk
  case roots =>
    intro hc hk
    obtain ⟨-, -, -, -, hroot, -, -, -⟩ := (checkToken_eq_zero_iff s bs).mp hc
    exact tokRootCheck_revoke hk hroot

end Sys2Proof.SecEngine
end

section
/-! SUPPORT. Reports and session keys: the engine at the head of its queue (15 R388 to R394). -/
namespace Sys2Proof.SecEngine
open Sys2Proof Sys2Proof.Machine

theorem exec_attestGo {s : State} (hr : s.reached = true) : exec .attestGo s = .next (s.keyOff.attestGo.status .ok) :=
  congrArg Host.Outcome.next (hostReg_port s _ hr)

/-- A host's report stands in the queue, and the engine has not gone on yet. -/
def askedFor (s : State) : State := (s.enqueue (.report false [])).modSc (fun x => { x with attBusy := true, attRefused := false, attResult := 0 })

theorem askedFor_served (s : State) : Served s (askedFor s) := (Served.modSc s _).trans (.modSc _ _)

theorem attestGo_served (s : State) : Served s s.attestGo := by
  unfold State.attestGo
  split
  · exact .modSc s _
  · exact (askedFor_served s).trans (.secServe _)

theorem attestGo_idle {s : State} (h : s.sc.attBusy = false) : s.attestGo = (askedFor s).secServe := if_neg (by simp [h])

theorem askedFor_sc {s : State} (hq : s.sc.queue = []) :
    (askedFor s).sc = { s.sc with queue := [.report false []], attBusy := true, attRefused := false, attResult := 0 } := by
  have h : (askedFor s).sc = { s.sc with queue := s.sc.queue ++ [.report false []], attBusy := true, attRefused := false, attResult := 0 } := rfl
  rw [h, hq, List.nil_append]

theorem askedFor_queue {s : State} (hq : s.sc.queue = []) : (askedFor s).sc.queue = [.report false []] := by
  rw [askedFor_sc hq]

theorem status_sc (s : State) (st : Status) : (s.status st).sc = s.sc := rfl

theorem sampled_sc (s : State) (f : SecSt → List Byte) : (s.modSc (fun x => { x with sample := f x })).sc = { s.sc with sample := f s.sc } := rfl

/-! ## A report at the head of the queue -/

theorem reportFails_queue {s : State} {sb : Bool} {n : List Byte} {r : Nat} (hq : s.sc.queue = [.report sb n]) : (s.reportFails sb r).sc.queue = [] := by
  unfold State.reportFails
  dsimp only
  split <;> exact congrArg (List.drop 1) hq

theorem reportFails_host_sc (s : State) (r : Nat) :
    (s.reportFails false r).sc = { s.sc with queue := s.sc.queue.drop 1, attBusy := false, attResult := r } := rfl

/-- A report of the host's that fails at once leaves the engine idle, with the result. -/
theorem reportFails_askedFor_sc {s : State} (hq : s.sc.queue = []) (hb : s.sc.attBusy = false) (r : Nat) :
    ((askedFor s).reportFails false r).sc = { s.sc with attRefused := false, attResult := r } := by
  rw [reportFails_host_sc, askedFor_sc hq]
  simp only [List.drop_one, List.tail_cons, hq, hb]

theorem secServe_report_barred {s : State} {sb : Bool} {n : List Byte} (hon : s.secOn = true) (hq : s.sc.queue = [.report sb n]) (hc : s.certifies = false) :
    s.secServe = s.reportFails sb 2 := by
  rw [secServe_on hon]
  unfold State.serveSec
  rw [hq]
  simp only [hc, Bool.not_false, if_true]
  exact serveSec_empty _ (reportFails_queue hq)

theorem secServe_report_exhausted {s : State} {sb : Bool} {n : List Byte} (hon : s.secOn = true) (hq : s.sc.queue = [.report sb n])
    (hc : s.certifies = true) (hk : s.sc.session = none) (he : s.exhausted = true) : s.secServe = s.reportFails sb 3 := by
  rw [secServe_on hon]
  unfold State.serveSec
  rw [hq]
  simp only [hc, hk, he, Bool.not_true, Bool.false_eq_true, if_false, if_true]
  exact serveSec_empty _ (reportFails_queue hq)

theorem secServe_report_sampled {s : State} {sb : Bool} {n : List Byte} {k : SessionKey} (hon : s.secOn = true) (hq : s.sc.queue = [.report sb n])
    (hc : s.certifies = true) (hk : s.sc.session = some k) (hs : s.sc.sample = []) :
    s.secServe = s.modSc (fun x => { x with sample := s.reportFields (if sb then n else x.attNonce) k }) := by
  rw [secServe_on hon]
  unfold State.serveSec
  rw [hq]
  simp only [hc, hk, hs, Bool.not_true, Bool.false_eq_true, if_false, if_true]

theorem secServe_report_waits {s : State} {sb : Bool} {n : List Byte} {k : SessionKey} (hq : s.sc.queue = [.report sb n])
    (hc : s.certifies = true) (hk : s.sc.session = some k) (hs : s.sc.sample ≠ []) : s.secServe = s := by
  unfold State.secServe
  split
  · unfold State.serveSec
    rw [hq]
    simp only [hc, hk, hs, Bool.not_true, Bool.false_eq_true, if_false]
  · rfl

theorem take_append_four {α : Type} {a b c d r : List α} {n : Nat} (h : a.length + b.length + c.length + d.length = n) :
    (a ++ (b ++ (c ++ (d ++ r)))).take n = a ++ (b ++ (c ++ d)) := by
  have hassoc : a ++ (b ++ (c ++ (d ++ r))) = (a ++ (b ++ (c ++ d))) ++ r := by simp only [List.append_assoc]
  rw [hassoc]
  exact List.take_left' (by simp only [List.length_append]; omega)

/-- The first 40 bytes of a report (15 Table 6). -/
theorem reportFields_head (s : State) (n : List Byte) (k : SessionKey) :
    (s.reportFields n k).take 40 = leBytes 4 0x54535441 ++ leBytes 2 1 ++ leBytes 2 0 ++ bytesAt n 0 32 := by
  unfold State.reportFields
  simp only [List.append_assoc]
  exact take_append_four (by simp only [leBytes_length, bytesAt, slice_length])

/-! ## A report signed -/

/-- The host's buffer or the sideband's takes the report, and the session key has signed once more. -/
def signed (s : State) (sb : Bool) (k : SessionKey) : State :=
  (s.draw 2692).2.popSec.modSc (fun x =>
    let x := if sb then { x with sbBuf := s.sc.sample ++ (s.draw 2692).1 } else { x with attBuf := s.sc.sample ++ (s.draw 2692).1, attBusy := false, attResult := 1 }
    { x with sample := [], session := if k.nextIndex + 1 = 65536 then none else some { k with nextIndex := k.nextIndex + 1 } })

theorem exec_reportSigned {s : State} {sb : Bool} {n : List Byte} {k : SessionKey} (hon : s.secOn = true) (hq : s.sc.queue = [.report sb n])
    (hc : s.certifies = true) (hk : s.sc.session = some k) (hs : s.sc.sample ≠ []) :
    exec .reportSigned s = .next (if k.nextIndex + 1 = 65536 then (signed s sb k).wantSession else signed s sb k).secServe := by
  show execReportSigned s = _
  unfold execReportSigned
  rw [secServe_report_waits hq hc hk hs]
  dsimp only
  rw [hq, hk]
  dsimp only
  rw [if_neg (by simp [hon, hs])]
  rfl

theorem signed_host_sc {s : State} {k : SessionKey} (h : ¬ k.nextIndex + 1 = 65536) : (signed s false k).sc = { s.sc with
    queue := s.sc.queue.drop 1, attBuf := s.sc.sample ++ (s.draw 2692).1, attBusy := false, attResult := 1, sample := []
    session := some { k with nextIndex := k.nextIndex + 1 } } := by
  unfold signed
  simp only [if_neg h]
  rfl

theorem signed_sideband_sc {s : State} {k : SessionKey} (h : ¬ k.nextIndex + 1 = 65536) : (signed s true k).sc = { s.sc with
    queue := s.sc.queue.drop 1, sbBuf := s.sc.sample ++ (s.draw 2692).1, sample := [], session := some { k with nextIndex := k.nextIndex + 1 } } := by
  unfold signed
  simp only [if_neg h]
  rfl

theorem signed_keeps (s : State) (sb : Bool) (k : SessionKey) : (signed s sb k).fuses = s.fuses ∧ (signed s sb k).mram = s.mram := ⟨rfl, rfl⟩

theorem signed_queue {s : State} {sb : Bool} {n : List Byte} {k : SessionKey} (hq : s.sc.queue = [.report sb n]) : (signed s sb k).sc.queue = [] := by
  cases sb <;> exact congrArg (List.drop 1) hq

theorem signed_certifies (s : State) (sb : Bool) (k : SessionKey) : (signed s sb k).certifies = s.certifies := by
  cases sb <;> rfl

/-- The last signature of a session key destroys it, and a new one is due (R391). -/
theorem signed_last {s : State} {sb : Bool} {n : List Byte} {k : SessionKey} (hq : s.sc.queue = [.report sb n]) (hc : s.certifies = true) (he : s.exhausted = false)
    (h : k.nextIndex + 1 = 65536) :
    (signed s sb k).wantSession.secServe = (signed s sb k).modSc (fun x => { x with queue := [.session] }) ∧ (signed s sb k).sc.session = none
      ∧ (signed s sb k).sc.sample = [] := by
  have hwant : (signed s sb k).wantSession = (signed s sb k).modSc (fun x => { x with queue := [.session] }) := by
    unfold State.wantSession
    rw [signed_certifies, if_pos hc, State.modSc, State.modSc, signed_queue hq]
    rfl
  refine ⟨?_, ?_, ?_⟩
  · rw [hwant]
    exact secServe_session rfl ((signed_certifies s sb k).trans hc) he
  · unfold signed
    simp only [if_pos h]
    rfl
  · cases sb <;> rfl

/-! ## A session key -/

theorem useIndex_below {s : State} (h : s.mram.nextIndex + 1 < 2 ^ 20) : s.useIndex = s.modMram (fun m => { m with nextIndex := m.nextIndex + 1 }) :=
  if_neg (by rw [State.exhausted, decide_eq_true_eq]; exact Nat.not_le.mpr h)

/-- The key takes its index from the block at hand, or from one reserved for it. -/
def indexed (s : State) (blows : List Bool) : Fusing := if 1024 * s.fuses.idBlocks ≤ s.mram.nextIndex then s.reserveBlock blows else ⟨s, blows, true⟩

theorem exec_sessionKeyGenerated {s : State} {blows : List Bool} (hon : s.secOn = true) (hq : s.sc.queue = [.session]) (hc : s.certifies = true)
    (he : s.exhausted = false) :
    exec (.sessionKeyGenerated blows) s
      = .next (if (indexed s blows).ok then (indexed s blows).s.useIndex.certify.popSec.secServe else (indexed s blows).s.popSec.secServe) := by
  show execSessionKeyGenerated blows s = _
  unfold execSessionKeyGenerated
  rw [secServe_session hq hc he]
  dsimp only
  rw [hq]
  dsimp only
  rw [if_neg (by simp [hon])]
  unfold indexed
  split_ifs <;> rfl

/-- What a certified key leaves, the request served. -/
theorem certify_popSec (s : State) : s.certify.popSec.fuses = s.fuses ∧ s.certify.popSec.mram = s.mram ∧ s.certify.popSec.sc.queue = s.sc.queue.drop 1
    ∧ s.certify.popSec.sc.lastEvent = s.sc.lastEvent ∧ s.certify.popSec.sc.sessionsMade = s.sc.sessionsMade + 1
    ∧ ∃ q, s.certify.popSec.sc.session = some q ∧ q.nextIndex = 0 ∧ q.generation = s.sc.sessionsMade + 1 := ⟨rfl, rfl, rfl, rfl, rfl, _, rfl, rfl, rfl⟩

/-- A block reserved at once, without a failed blow. -/
theorem reserveBlock_blown (s : State) : s.reserveBlock [] = ⟨(s.modFuses (fun f => { f with idBlocks := f.idBlocks + 1 })).secEvent 5, [], true⟩ := rfl

theorem reserveBlock_failed (s : State) : s.reserveBlock [false, false] = ⟨s.secEvent 7, [], false⟩ := rfl

theorem exec_reportSigned_empty {s : State} (hq : s.sc.queue = []) : exec .reportSigned s = .next s := by
  show execReportSigned s = _
  unfold execReportSigned
  rw [secServe_empty hq]
  dsimp only
  rw [hq]

theorem exec_sessionKeyGenerated_empty {s : State} (blows : List Bool) (hq : s.sc.queue = []) : exec (.sessionKeyGenerated blows) s = .next s := by
  show execSessionKeyGenerated blows s = _
  unfold execSessionKeyGenerated
  rw [secServe_empty hq]
  dsimp only
  rw [hq]

/-- A key made for the one request that waits leaves the queue empty. -/
theorem certified_ends {u : State} (hq : u.sc.queue = [.session]) (hn : u.mram.nextIndex + 1 < 2 ^ 20) :
    u.useIndex.certify.popSec.secServe = (u.modMram (fun m => { m with nextIndex := m.nextIndex + 1 })).certify.popSec := by
  rw [useIndex_below hn]
  exact secServe_empty (congrArg (List.drop 1) hq)

end Sys2Proof.SecEngine
end

section
namespace Sys2Proof.SecEngine
open Sys2Proof Sys2Proof.Machine

/-- Settles O48: what the head of the queue is decides how the engine goes on, and with a queue of one request it stops there. -/
theorem attestation : Obligations.Attestation := by
  unfold Obligations.Attestation
  intro s k asked blows
  refine ⟨?busy, ?barred, ?sampled, ?exhausted, ?signing, ?empty, ?session⟩
  case busy =>
    intro hr hb
    refine ⟨_, exec_attestGo hr, wrotePort_served (attestGo_served _), ?_⟩
    have hgo : s.keyOff.attestGo = s.keyOff.modSc (fun x => { x with attRefused := true }) := if_pos hb
    rw [hgo]
    rfl
  case barred =>
    intro hr hb hon hq hc
    refine ⟨_, exec_attestGo hr, wrotePort_served (attestGo_served _), ?_⟩
    rw [attestGo_idle (s := s.keyOff) hb, secServe_report_barred (s := askedFor s.keyOff) hon (askedFor_queue (s := s.keyOff) hq) hc]
    exact reportFails_askedFor_sc (s := s.keyOff) hq hb 2
  case sampled =>
    intro hr hb hon hq hc hk hs
    refine ⟨_, exec_attestGo hr, wrotePort_served (attestGo_served _), ?_⟩
    rw [attestGo_idle (s := s.keyOff) hb, secServe_report_sampled (s := askedFor s.keyOff) (k := k) hon (askedFor_queue (s := s.keyOff) hq) hc hk hs]
    have hsc := sampled_sc (askedFor s.keyOff) (fun x => (askedFor s.keyOff).reportFields (if false then [] else x.attNonce) k)
    rw [askedFor_sc (s := s.keyOff) hq] at hsc
    refine ⟨?_, ?_⟩
    · rw [status_sc, hsc]
      rfl
    · rw [status_sc, hsc]
      exact reportFields_head _ _ k
  case exhausted =>
    intro hr hb hon hq hc hk he
    refine ⟨_, exec_attestGo hr, wrotePort_served (attestGo_served _), ?_⟩
    rw [attestGo_idle (s := s.keyOff) hb, secServe_report_exhausted (s := askedFor s.keyOff) hon (askedFor_queue (s := s.keyOff) hq) hc hk he]
    exact reportFails_askedFor_sc (s := s.keyOff) hq hb 3
  case signing =>
    intro hon hc hqueue hk hs
    refine ⟨fun hn hq => ?_, fun hn hq => ?_, fun hn he => ?_⟩
    · have hlast : ¬ k.nextIndex + 1 = 65536 := by omega
      refine ⟨_, exec_reportSigned hon hq hc hk hs, ?_⟩
      rw [if_neg hlast, secServe_empty (signed_queue hq)]
      beta_reduce
      rw [signed_host_sc hlast, hq]
      exact ⟨rfl, (signed_keeps s false k).2, (signed_keeps s false k).1⟩
    · have hlast : ¬ k.nextIndex + 1 = 65536 := by omega
      refine ⟨_, exec_reportSigned hon hq hc hk hs, ?_⟩
      rw [if_neg hlast, secServe_empty (signed_queue hq)]
      beta_reduce
      rw [signed_sideband_sc hlast, hq]
      exact ⟨rfl, (signed_keeps s true k).2, (signed_keeps s true k).1⟩
    · obtain ⟨sb, hq⟩ : ∃ sb, s.sc.queue = [.report sb asked] := hqueue.elim (fun h => ⟨false, h⟩) (fun h => ⟨true, h⟩)
      obtain ⟨hserve, hsession, hsample⟩ := signed_last hq hc he hn
      refine ⟨_, exec_reportSigned hon hq hc hk hs, ?_⟩
      rw [if_pos hn, hserve]
      exact ⟨hsession, rfl, hsample, (signed_keeps s sb k).1⟩
  case empty => exact fun hq => ⟨exec_reportSigned_empty hq, exec_sessionKeyGenerated_empty blows hq⟩
  case session =>
    intro hon hc he hq
    refine ⟨fun hroom hn => ?_, fun hroom hn => ?_, fun hroom => ?_⟩
    · have hi : indexed s blows = ⟨s, blows, true⟩ := if_neg (Nat.not_le.mpr hroom)
      refine ⟨_, exec_sessionKeyGenerated hon hq hc he, ?_⟩
      rw [hi, if_pos rfl, certified_ends hq hn]
      obtain ⟨hf, hm, hqueue, -, hmade, hkey⟩ := certify_popSec (s.modMram (fun m => { m with nextIndex := m.nextIndex + 1 }))
      exact ⟨hf, hm, hqueue.trans (congrArg (List.drop 1) hq), hmade, hkey⟩
    · have hi : indexed s [] = ⟨(s.modFuses (fun f => { f with idBlocks := f.idBlocks + 1 })).secEvent 5, [], true⟩ := (if_pos hroom).trans (reserveBlock_blown s)
      have hserved := Served.secEvent (s.modFuses (fun f => { f with idBlocks := f.idBlocks + 1 })) 5
      have hsc := secEvent_sc (s.modFuses (fun f => { f with idBlocks := f.idBlocks + 1 })) 5
      refine ⟨_, exec_sessionKeyGenerated hon hq hc he, ?_⟩
      rw [hi, if_pos rfl]
      generalize (s.modFuses (fun f => { f with idBlocks := f.idBlocks + 1 })).secEvent 5 = u at hserved hsc ⊢
      have hmram : u.mram = s.mram := hserved.mram
      rw [certified_ends (by rw [hsc]; exact hq) (by rw [hmram]; exact hn)]
      obtain ⟨hf, hm, hqueue, hevent, -, q, hq', hq0, -⟩ := certify_popSec (u.modMram (fun m => { m with nextIndex := m.nextIndex + 1 }))
      refine ⟨hf.trans hserved.fuses, hm.trans ?_, hevent.trans (congrArg SecSt.lastEvent hsc), hqueue.trans ?_, q, hq', hq0⟩
      · show { u.mram with nextIndex := u.mram.nextIndex + 1 } = _
        rw [hmram]
      · show u.sc.queue.drop 1 = []
        rw [hsc]
        exact congrArg (List.drop 1) hq
    · have hi : indexed s [false, false] = ⟨s.secEvent 7, [], false⟩ := (if_pos hroom).trans (reserveBlock_failed s)
      refine ⟨_, exec_sessionKeyGenerated hon hq hc he, ?_⟩
      have hsc := secEvent_sc s 7
      have hsession : (s.secEvent 7).sc.session = s.sc.session := by rw [hsc]
      have hqueue : (s.secEvent 7).popSec.sc.queue = [] := by
        rw [popSec_sc, hsc]
        exact congrArg (List.drop 1) hq
      rw [hi, if_neg Bool.false_ne_true, secServe_empty hqueue]
      exact ⟨(Served.secEvent s 7).fuses, (Served.secEvent s 7).mram, congrArg SecSt.lastEvent hsc, hsession, hqueue⟩

end Sys2Proof.SecEngine
end

section
/-! SUPPORT. Blows of fuses (15 R381): the bits that a row of blows leaves. -/
namespace Sys2Proof.FuseBlows
open Sys2Proof Sys2Proof.Machine

/-- A bit that is not set is added as it is set. -/
theorem add_two_pow_eq_or {m i : Nat} (h : m.testBit i = false) : m + 2 ^ i = m ||| 2 ^ i := by
  have hlow : m % 2 ^ (i + 1) < 2 ^ i := by
    by_contra hle
    have hset : (m % 2 ^ (i + 1)).testBit i = true :=
      Nat.testBit_of_two_pow_le_and_two_pow_add_one_gt (Nat.not_lt.mp hle) (Nat.mod_lt _ (Nat.two_pow_pos _))
    rw [Nat.testBit_mod_two_pow, h, Bool.and_false] at hset
    exact Bool.false_ne_true hset
  have hsum : m % 2 ^ (i + 1) + 2 ^ i < 2 ^ (i + 1) := by
    have hdouble : 2 ^ (i + 1) = 2 ^ i * 2 := pow_succ 2 i
    omega
  calc m + 2 ^ i = 2 ^ (i + 1) * (m / 2 ^ (i + 1)) + (m % 2 ^ (i + 1) + 2 ^ i) := by rw [← Nat.add_assoc, Nat.div_add_mod]
    _ = 2 ^ (i + 1) * (m / 2 ^ (i + 1)) ||| (m % 2 ^ (i + 1) ||| 2 ^ i) := by rw [Nat.two_pow_add_eq_or_of_lt hsum, Nat.or_two_pow_eq_add_of_lt hlow]
    _ = m ||| 2 ^ i := by
      rw [← Nat.or_assoc, ← Nat.two_pow_add_eq_or_of_lt (hlow.trans (Nat.pow_lt_pow_right (by decide) (Nat.lt_succ_self i))), Nat.div_add_mod]

/-- A blown bit stays blown, whatever the blows come to. -/
theorem blowBits_keeps {n i want has : Nat} {bl : List Bool} {j : Nat} (h : has.testBit j = true) : (blowBits n i want has bl).1.testBit j = true := by
  induction n generalizing i has bl with
  | zero => exact h
  | succ n ih =>
    unfold blowBits
    split
    · next hlacks =>
      split
      · refine ih ?_
        rw [Bool.and_eq_true, Bool.not_eq_true'] at hlacks
        rw [add_two_pow_eq_or hlacks.2, Nat.testBit_or, h, Bool.true_or]
      · exact h
    · exact ih h

/-- Blows that all succeed leave every bit wanted of the range, and use no outcome. -/
theorem blowBits_nil (n i want has : Nat) : (blowBits n i want has []).2 = (true, [])
    ∧ ∀ j, (blowBits n i want has []).1.testBit j = (has.testBit j || (decide (i ≤ j ∧ j < i + n) && want.testBit j)) := by
  induction n generalizing i has with
  | zero =>
    refine ⟨rfl, fun j => ?_⟩
    rw [decide_eq_false (by omega), Bool.false_and, Bool.or_false]
    rfl
  | succ n ih =>
    have hrange : ∀ j, decide (i ≤ j ∧ j < i + (n + 1)) = (decide (j = i) || decide (i + 1 ≤ j ∧ j < i + 1 + n)) := fun j => by
      rw [← Bool.decide_or]
      exact decide_eq_decide.mpr (by omega)
    unfold blowBits
    split
    · next hlacks =>
      rw [Bool.and_eq_true, Bool.not_eq_true'] at hlacks
      obtain ⟨hwant, hhas⟩ := hlacks
      obtain ⟨hleft, hbits⟩ := ih (i + 1) (has + 2 ^ i)
      refine ⟨hleft, fun j => (hbits j).trans ?_⟩
      rw [add_two_pow_eq_or hhas, Nat.testBit_or, Nat.testBit_two_pow, hrange]
      by_cases hj : j = i
      · subst hj; simp [hwant]
      · simp [hj, Ne.symm hj]
    · next hlacks =>
      obtain ⟨hleft, hbits⟩ := ih (i + 1) has
      refine ⟨hleft, fun j => (hbits j).trans ?_⟩
      rw [hrange]
      by_cases hj : j = i
      · subst hj
        have : has.testBit j = true ∨ want.testBit j = false := by
          rw [Bool.and_eq_true, Bool.not_eq_true', not_and_or] at hlacks
          rcases hlacks with h | h
          · exact Or.inr (by simpa using h)
          · exact Or.inl (by simpa using h)
        rcases this with h | h <;> simp [h]
      · simp [hj]

/-- What blows that succeed make of a row of fuses as a number, when all that is wanted lies in the row. -/
theorem blowBits_nil_or {n want has : Nat} (h : want < 2 ^ n) : (blowBits n 0 want has []).1 = has ||| want := by
  refine Nat.eq_of_testBit_eq fun j => ?_
  rw [(blowBits_nil n 0 want has).2 j, Nat.testBit_or]
  by_cases hj : j < n
  · simp [hj]
  · have hout : want.testBit j = false := Nat.testBit_lt_two_pow (lt_of_lt_of_le h (Nat.pow_le_pow_right (by decide) (Nat.not_lt.mp hj)))
    simp [hout]

/-! ## The count of a row (15 Table 2) -/

/-- The lowest bits counted, from bit `i` on. -/
theorem foldl_ones (a n i k : Nat) :
    (upFrom i n).foldl (fun k j => k + b2n ((2 ^ a - 1).testBit j)) k = k + (min a (i + n) - min a i) := by
  induction n generalizing i k with
  | zero => simp [upFrom]
  | succ n ih =>
    rw [upFrom, List.foldl_cons, ih, Nat.testBit_two_pow_sub_one]
    by_cases h : i < a
    · simp [h, b2n]; omega
    · simp [h, b2n]; omega

theorem onesOf_mask (a : Nat) : onesOf (2 ^ a - 1) = min a 64 := by
  rw [onesOf, foldl_ones]
  omega

/-- A row with more bits set counts no fewer. -/
theorem onesOf_mono {m n : Nat} (h : ∀ j, m.testBit j = true → n.testBit j = true) : onesOf m ≤ onesOf n := by
  have hstep : ∀ j, b2n (m.testBit j) ≤ b2n (n.testBit j) := fun j => by
    cases hm : m.testBit j
    · exact Nat.zero_le _
    · rw [h j hm]
  have hfold : ∀ (l : List Nat) (a b : Nat), a ≤ b → l.foldl (fun k j => k + b2n (m.testBit j)) a ≤ l.foldl (fun k j => k + b2n (n.testBit j)) b := fun l => by
    induction l with
    | nil => exact fun a b hab => hab
    | cons j l ih => exact fun a b hab => ih _ _ (Nat.add_le_add hab (hstep j))
  exact hfold _ 0 0 (Nat.le_refl 0)

/-- A version no lower than the one blown is what its blows come to. -/
theorem secver_blown {a v : Nat} (h : v ≤ a) (ha : a ≤ 64) : onesOf (blowBits 64 0 (2 ^ a - 1) (2 ^ v - 1) []).1 = a := by
  have hwant : 2 ^ a - 1 < 2 ^ 64 := lt_of_lt_of_le (Nat.sub_lt (Nat.two_pow_pos a) Nat.one_pos) (Nat.pow_le_pow_right (by decide) ha)
  have hrow : (blowBits 64 0 (2 ^ a - 1) (2 ^ v - 1) []).1 = 2 ^ a - 1 := by
    rw [blowBits_nil_or hwant]
    refine Nat.eq_of_testBit_eq fun j => ?_
    rw [Nat.testBit_or, Nat.testBit_two_pow_sub_one, Nat.testBit_two_pow_sub_one, ← Bool.decide_or]
    exact decide_eq_decide.mpr (by omega)
  rw [hrow, onesOf_mask]
  omega

/-! ## A hash as a number -/

theorem shake256_length (bs : List Byte) : (shake256 bs).length ≤ 32 := by
  rw [shake256, List.length_flatten, List.map_map]
  generalize absorbAll _ _ _ = a
  have hsum : ∀ l : List W64, (l.map (List.length ∘ fun w => leBytes 8 w.toNat)).sum = 8 * l.length := fun l => by
    induction l with
    | nil => rfl
    | cons w l ih => rw [List.map_cons, List.sum_cons, ih, List.length_cons, Function.comp, leBytes_length]; omega
  rw [hsum, List.length_take]
  omega

theorem leNat_shake256_lt (bs : List Byte) : leNat (shake256 bs) < 2 ^ 256 :=
  lt_of_lt_of_le (leNat_lt _) ((Nat.pow_le_pow_right (by decide) (shake256_length bs)).trans (by norm_num))

end Sys2Proof.FuseBlows
end

section
/-! SUPPORT. The effects of an accepted token (15 R380 to R383, R397). -/
namespace Sys2Proof.SecEngine
open Sys2Proof Sys2Proof.Machine

/-- The token that waited for its effect has it, and the engine is idle: the clauses that every effect shares. -/
def Answered (s t : State) (r : Nat) : Prop :=
  t.sc.queue = [] ∧ t.sc.result = r ∧ t.sc.tokenOk = false ∧ t.sc.busy = false ∧ t.mem = s.mem ∧ t.chans = s.chans ∧ t.slices = s.slices
    ∧ t.mg.alert.getLsbD 12 = true

theorem accepted_head {s : State} {bs : List Byte} (hon : s.secOn = true) (hok : s.sc.tokenOk = true) (hq : s.sc.queue = [.token bs false]) :
    s.accepted (tokKind bs) = some bs := by
  simp [State.accepted, hon, hok, hq]

/-- An effect that ends accepted. -/
theorem answered_accepted {s u : State} {bs : List Byte} (hq : u.sc.queue = [.token bs false]) (hmem : u.mem = s.mem) (hchans : u.chans = s.chans)
    (hslices : u.slices = s.slices) (ha : u.mg.alert.getLsbD 12 = true) : (u.tokenDone 1).secServe = u.tokenDone 1 ∧ Answered s (u.tokenDone 1) 1 := by
  have hsc := tokenDone_accepted_sc u
  have hserved := Served.tokenDone u 1
  rw [hq] at hsc
  have hempty : (u.tokenDone 1).sc.queue = [] := congrArg SecSt.queue hsc
  exact ⟨secServe_empty hempty, hempty, congrArg SecSt.result hsc, congrArg SecSt.tokenOk hsc, congrArg SecSt.busy hsc, hserved.mem.trans hmem,
    hserved.chans.trans hchans, hserved.slices.trans hslices, hserved.keepsAlert ha⟩

/-- An effect that ends refused. -/
theorem answered_refused {s u : State} {bs : List Byte} {r : Nat} (hr : r ≠ 1) (hq : u.sc.queue = [.token bs false]) (hmem : u.mem = s.mem)
    (hchans : u.chans = s.chans) (hslices : u.slices = s.slices) : (u.tokenDone r).secServe = u.tokenDone r ∧ Answered s (u.tokenDone r) r := by
  have hsc := tokenDone_refused_sc u hr
  have hserved := Served.tokenDone u r
  rw [hq] at hsc
  have hempty : (u.tokenDone r).sc.queue = [] := congrArg SecSt.queue hsc
  exact ⟨secServe_empty hempty, hempty, congrArg SecSt.result hsc, congrArg SecSt.tokenOk hsc, congrArg SecSt.busy hsc, hserved.mem.trans hmem,
    hserved.chans.trans hchans, hserved.slices.trans hslices, tokenDone_refused_alert u hr⟩

theorem tokenDone_accepted_keeps (s : State) : (s.tokenDone 1).sc.lastEvent = s.sc.lastEvent ∧ (s.tokenDone 1).sc.lifecycleNow = s.sc.lifecycleNow
    ∧ (s.tokenDone 1).sc.level = s.sc.level ∧ (s.tokenDone 1).sc.max = s.sc.max ∧ (s.tokenDone 1).sc.session = s.sc.session := by
  rw [tokenDone_accepted_sc]
  exact ⟨rfl, rfl, rfl, rfl, rfl⟩

/-! ## Debug levels (Table 8) -/

/-- The state in which an accepted debug token unlocks its level. -/
def installing (s : State) (bs : List Byte) : State :=
  if bitAt (tokFlags bs) 0 then s.modMram (fun m => { m with installed := some ⟨BitVec.ofNat 2 (tokArg bs), leAt bs 72 4⟩ }) else s

theorem exec_debug {s : State} {bs : List Byte} (h : s.accepted 1 = some bs) :
    exec .debug s = .next (((installing s bs).unlock (tokArg bs)).tokenDone 1).secServe := by
  show execDebug s = _
  rw [execDebug, h]
  rfl

theorem installing_keeps (s : State) (bs : List Byte) :
    (installing s bs).sc = s.sc ∧ (installing s bs).fuses = s.fuses ∧ (installing s bs).mem = s.mem ∧ (installing s bs).chans = s.chans
      ∧ (installing s bs).slices = s.slices
      ∧ (installing s bs).mram = if bitAt (tokFlags bs) 0 then { s.mram with installed := some ⟨BitVec.ofNat 2 (tokArg bs), leAt bs 72 4⟩ } else s.mram := by
  unfold installing
  split <;> exact ⟨rfl, rfl, rfl, rfl, rfl, rfl⟩

/-- The level reached, before its event. -/
def leveled (s : State) (a : Nat) : State :=
  s.modSc (fun x => { x with level := BitVec.ofNat 2 (max x.level.toNat a), max := BitVec.ofNat 2 (max x.max.toNat a) })

theorem leveled_toNat {v : BitVec 2} {a : Nat} (ha : a ≤ 3) : (BitVec.ofNat 2 (max v.toNat a)).toNat = max v.toNat a := by
  rw [BitVec.toNat_ofNat]
  have := v.isLt
  omega

theorem certifies_congr {s t : State} (hl : t.sc.lifecycleNow = s.sc.lifecycleNow) (hf : t.fuses = s.fuses) : t.certifies = s.certifies := by
  rw [State.certifies, State.certifies, hl, hf]

theorem leveled_event_certifies (s : State) (a : Nat) : ((leveled s a).secEvent 4).certifies = s.certifies :=
  certifies_congr (by rw [secEvent_sc]; rfl) (Served.secEvent (leveled s a) 4).fuses

/-- A level that keeps the session key. -/
theorem unlock_keeping {s : State} {a : Nat} (h : a < 2 ∨ s.certifies = false) : s.unlock a = (leveled s a).secEvent 4 := by
  refine if_neg ?_
  rintro ⟨ha, hc⟩
  have hc' : s.certifies = true := (leveled_event_certifies s a).symm.trans hc
  rcases h with h | h
  · exact absurd ha (Nat.not_le.mpr h)
  · exact Bool.false_ne_true (h.symm.trans hc')

/-- INVASIVE and above in PROVISIONED and FIELD destroy the session key. -/
theorem unlock_destroying {s : State} {a : Nat} (ha : 2 ≤ a) (hc : s.certifies = true) :
    s.unlock a = ((((leveled s a).secEvent 4).modSc (fun x => { x with session := none, queue := x.queue.filter (fun q => !q.isSession) })).secEvent 10).wantSession :=
  if_pos ⟨ha, (leveled_event_certifies s a).trans hc⟩

theorem leveled_installing_sc (s : State) (bs : List Byte) : (leveled (installing s bs) (tokArg bs)).sc
    = { s.sc with level := BitVec.ofNat 2 (max s.sc.level.toNat (tokArg bs)), max := BitVec.ofNat 2 (max s.sc.max.toNat (tokArg bs)) } := by
  rw [← (installing_keeps s bs).1]
  rfl

/-- The level reached, the session key destroyed and a new one due. -/
def destroyed (s : State) (a : Nat) : State :=
  ((((leveled s a).secEvent 4).modSc (fun x => { x with session := none, queue := x.queue.filter (fun q => !q.isSession) })).secEvent 10).wantSession

theorem wantSession_certifying {s : State} (h : s.certifies = true) : s.wantSession = s.modSc (fun x => { x with queue := x.queue ++ [.session] }) := if_pos h

theorem destroyed_sc {s : State} {bs : List Byte} {rest : List SecReq} (hq : s.sc.queue = .token bs false :: rest) (hc : s.certifies = true) :
    (destroyed (installing s bs) (tokArg bs)).sc = { s.sc with
        level := BitVec.ofNat 2 (max s.sc.level.toNat (tokArg bs)), max := BitVec.ofNat 2 (max s.sc.max.toNat (tokArg bs)), session := none, lastEvent := 10
        events := satInc (satInc s.sc.events 0xFFFF) 0xFFFF, queue := .token bs false :: (rest.filter (fun q => !q.isSession) ++ [.session]) }
      ∧ (destroyed (installing s bs) (tokArg bs)).fuses = s.fuses ∧ (destroyed (installing s bs) (tokArg bs)).mram.nextIndex = s.mram.nextIndex := by
  obtain ⟨isc, ifuses, -, -, -, imram⟩ := installing_keeps s bs
  have hindex : (installing s bs).mram.nextIndex = s.mram.nextIndex := by
    rw [imram]
    split <;> rfl
  have h4 := secEvent_sc (leveled (installing s bs) (tokArg bs)) 4
  have hs4 := Served.secEvent (leveled (installing s bs) (tokArg bs)) 4
  rw [leveled_installing_sc] at h4
  unfold destroyed
  generalize (leveled (installing s bs) (tokArg bs)).secEvent 4 = u at h4 hs4 ⊢
  have hw : (u.modSc (fun x => { x with session := none, queue := x.queue.filter (fun q => !q.isSession) })).sc
      = { u.sc with session := none, queue := u.sc.queue.filter (fun q => !q.isSession) } := rfl
  have hsw := Served.modSc u (fun x => { x with session := none, queue := x.queue.filter (fun q => !q.isSession) })
  rw [h4] at hw
  generalize u.modSc (fun x => { x with session := none, queue := x.queue.filter (fun q => !q.isSession) }) = w at hw hsw ⊢
  have h10 := secEvent_sc w 10
  have hs10 := hsw.trans (Served.secEvent w 10)
  rw [hw] at h10
  generalize w.secEvent 10 = v at h10 hs10 ⊢
  have hfuses : v.fuses = s.fuses := (hs10.fuses.trans hs4.fuses).trans ifuses
  have hcert : v.certifies = true := (certifies_congr (by rw [h10]) hfuses).trans hc
  rw [wantSession_certifying hcert]
  refine ⟨?_, hfuses, (congrArg Mram.nextIndex (hs10.mram.trans hs4.mram)).trans hindex⟩
  show { v.sc with queue := v.sc.queue ++ [SecReq.session] } = _
  rw [h10]
  simp only [hq, List.filter_cons, SecReq.isSession, Bool.not_false, if_true, List.cons_append]
  rfl

/-! ## Operations that need fuses -/

theorem exec_lifecycle {s : State} {bs : List Byte} (blows : List Bool) (h : s.accepted 2 = some bs) :
    exec (.lifecycle blows) s = .next ((s.transition (tokArg bs) blows).finish (fun s => (s.modMram (fun m => { m with installed := none })).secEvent 2)) := by
  show execLifecycle blows s = _
  rw [execLifecycle, h]

theorem finish_ok {r : Fusing} {f : State → State} (h : r.ok = true) : r.finish f = ((f r.s).tokenDone 1).secServe := if_pos h

theorem finish_failed {r : Fusing} {f : State → State} (h : r.ok = false) : r.finish f = ((r.s.secEvent 7).tokenDone 10).secServe :=
  if_neg (by simp [h])

/-- A row of `n` fuses after blows that all succeed. -/
theorem ofNat_blowBits {n want : Nat} (v : BitVec n) (h : want < 2 ^ n) : BitVec.ofNat n (blowBits n 0 want v.toNat []).1 = v ||| BitVec.ofNat n want := by
  rw [FuseBlows.blowBits_nil_or h]
  refine BitVec.eq_of_toNat_eq ?_
  rw [BitVec.toNat_or, BitVec.toNat_ofNat, BitVec.toNat_ofNat, Nat.or_mod_two_pow, Nat.mod_eq_of_lt v.isLt]

theorem blowLifecycle_nil (s : State) (want : Nat) (h : want < 16) :
    s.blowLifecycle want [] = ⟨s.modFuses (fun f => { f with lifecycle := s.fuses.lifecycle ||| BitVec.ofNat 4 want }), [], true⟩ := by
  unfold State.blowLifecycle
  dsimp only
  rw [(FuseBlows.blowBits_nil 4 0 want s.fuses.lifecycle.toNat).1, ofNat_blowBits s.fuses.lifecycle h]

theorem blowDisable_nil (s : State) : s.blowDisable [] = ⟨s.modFuses (fun f => { f with secretDisable := true }), [], true⟩ := by
  unfold State.blowDisable
  split
  · next h =>
    have hsame : s = s.modFuses (fun f => { f with secretDisable := true }) := by
      show s = { s with fuses := { s.fuses with secretDisable := true } }
      rw [← h]
    rw [← hsame]
  · rfl

theorem blowLifecycle_failed {s : State} (h : s.fuses.lifecycle = 1) : s.blowLifecycle 3 [false, false] = ⟨s, [], false⟩ := by
  have hsame : s.modFuses (fun f => { f with lifecycle := 1 }) = s := by
    show { s with fuses := { s.fuses with lifecycle := 1 } } = s
    rw [← h]
  unfold State.blowLifecycle
  rw [h]
  exact congrArg (Fusing.mk · [] false) hsame

/-- The MRAM erased, the secret disabled and the lifecycle's fuses blown. -/
def erased (s : State) (want : Nat) : State :=
  (s.eraseMram.modFuses (fun f => { f with secretDisable := true })).modFuses (fun f => { f with lifecycle := f.lifecycle ||| BitVec.ofNat 4 want })

theorem erase_blown (s : State) (want : Nat) (h : want < 16) :
    (s.eraseMram.blowDisable []).andThen (fun s bl => s.blowLifecycle want bl) = ⟨erased s want, [], true⟩ := by
  rw [blowDisable_nil]
  exact blowLifecycle_nil (s.eraseMram.modFuses (fun f => { f with secretDisable := true })) want h

/-- What an effect leaves that ends with an event, from the state `u` it has made. -/
theorem event_ends {s u : State} {bs : List Byte} (code : Nat) (hq : u.sc.queue = [.token bs false]) (hmem : u.mem = s.mem) (hchans : u.chans = s.chans)
    (hslices : u.slices = s.slices) :
    ∃ t, ((u.secEvent code).tokenDone 1).secServe = t ∧ Answered s t 1 ∧ t.fuses = u.fuses ∧ t.mram = u.mram ∧ t.sc.lastEvent = BitVec.ofNat 8 code
      ∧ t.sc.lifecycleNow = u.sc.lifecycleNow ∧ t.sc.level = u.sc.level ∧ t.sc.max = u.sc.max ∧ t.sc.session = u.sc.session := by
  have hserved := Served.secEvent u code
  have hsc := secEvent_sc u code
  have halert := secEvent_alert u code
  generalize u.secEvent code = v at hserved hsc halert ⊢
  obtain ⟨hserve, hdone⟩ := answered_accepted (s := s) (u := v) (bs := bs) (by rw [hsc]; exact hq) (hserved.mem.trans hmem) (hserved.chans.trans hchans)
    (hserved.slices.trans hslices) halert
  have hkeeps := tokenDone_accepted_keeps v
  rw [hsc] at hkeeps
  exact ⟨_, hserve, hdone, (Served.tokenDone v 1).fuses.trans hserved.fuses, (Served.tokenDone v 1).mram.trans hserved.mram, hkeeps⟩

/-- What an accepted change of lifecycle leaves, from the state `u` in which its fuses are blown. -/
theorem lifecycle_ends {s u : State} {bs : List Byte} (hq : u.sc.queue = [.token bs false]) (hmem : u.mem = s.mem) (hchans : u.chans = s.chans)
    (hslices : u.slices = s.slices) :
    ∃ t, Fusing.finish ⟨u, [], true⟩ (fun s => (s.modMram (fun m => { m with installed := none })).secEvent 2) = t ∧ Answered s t 1 ∧ t.fuses = u.fuses
      ∧ t.mram = { u.mram with installed := none } ∧ t.sc.lastEvent = 2 ∧ t.sc.lifecycleNow = u.sc.lifecycleNow := by
  obtain ⟨t, ht, hdone, hfuses, hmram, hevent, hnow, -⟩ := event_ends (u := u.modMram (fun m => { m with installed := none })) 2 hq hmem hchans hslices
  exact ⟨t, (finish_ok rfl).trans ht, hdone, hfuses, hmram, hevent, hnow⟩

theorem exec_revoke {s : State} {bs : List Byte} (blows : List Bool) (h : s.accepted 3 = some bs) :
    exec (.revoke blows) s = .next ((Fusing.mk
      (s.modFuses (fun f => { f with rootRevoke := BitVec.ofNat 4 (blowBits 4 0 (2 ^ tokArg bs) s.fuses.rootRevoke.toNat blows).1 }))
      (blowBits 4 0 (2 ^ tokArg bs) s.fuses.rootRevoke.toNat blows).2.2 (blowBits 4 0 (2 ^ tokArg bs) s.fuses.rootRevoke.toNat blows).2.1).finish
        (fun s => s.secEvent 3)) := by
  show execRevoke blows s = _
  rw [execRevoke, h]

theorem exec_secver {s : State} {bs : List Byte} (blows : List Bool) (h : s.accepted 4 = some bs) :
    exec (.secver blows) s = .next ((Fusing.mk
      (s.modFuses (fun f => { f with secver := onesOf (blowBits 64 0 (2 ^ tokArg bs - 1) (2 ^ s.fuses.secver - 1) blows).1 }))
      (blowBits 64 0 (2 ^ tokArg bs - 1) (2 ^ s.fuses.secver - 1) blows).2.2 (blowBits 64 0 (2 ^ tokArg bs - 1) (2 ^ s.fuses.secver - 1) blows).2.1).finish id) := by
  show execSecver blows s = _
  rw [execSecver, h]

/-- The owner's hash as the blows leave it. -/
def ownerHashed (s : State) (bs : List Byte) (blows : List Bool) : Fusing :=
  let r := blowBits 256 0 (leNat (shake256 (bytesAt bs 196 68))) (s.fuses.ownerHash.getD 0).toNat blows
  ⟨s.modFuses (fun f => { f with ownerHash := if r.1 = 0 then none else some (BitVec.ofNat 256 r.1) }), r.2.2, r.2.1⟩

/-- The owner made required, where the token says so. -/
def ownerRequire (bs : List Byte) (s : State) (bl : List Bool) : Fusing :=
  if bitAt (tokFlags bs) 1 && !s.fuses.ownerRequired then ⟨s.modFuses (fun f => { f with ownerRequired := (takeBlow bl).1 }), (takeBlow bl).2, (takeBlow bl).1⟩
  else ⟨s, bl, true⟩

theorem exec_owner {s : State} {bs : List Byte} (blows : List Bool) (h : s.accepted 5 = some bs) :
    exec (.owner blows) s = .next (((ownerHashed s bs blows).andThen (ownerRequire bs)).finish id) := by
  show execOwner blows s = _
  rw [execOwner, h]
  rfl

theorem ownerHashed_nil {s : State} {bs : List Byte} (h : s.fuses.ownerHash = none) (hn : leNat (shake256 (bytesAt bs 196 68)) ≠ 0) :
    ownerHashed s bs [] = ⟨s.modFuses (fun f => { f with ownerHash := some (BitVec.ofNat 256 (leNat (shake256 (bytesAt bs 196 68)))) }), [], true⟩ := by
  unfold ownerHashed
  have hrow : (blowBits 256 0 (leNat (shake256 (bytesAt bs 196 68))) (s.fuses.ownerHash.getD 0).toNat []).1 = leNat (shake256 (bytesAt bs 196 68)) := by
    rw [FuseBlows.blowBits_nil_or (n := 256) (FuseBlows.leNat_shake256_lt _), h]
    exact Nat.zero_or _
  dsimp only
  rw [hrow, (FuseBlows.blowBits_nil _ _ _ _).1, if_neg hn]

/-- The owner's hash blown, and the owner required where the token says so. -/
def owned (s : State) (bs : List Byte) : State :=
  (s.modFuses (fun f => { f with ownerHash := some (BitVec.ofNat 256 (leNat (shake256 (bytesAt bs 196 68)))) })).modFuses
    (fun f => { f with ownerRequired := bitAt (tokFlags bs) 1 || f.ownerRequired })

theorem ownerRequire_nil (bs : List Byte) (s : State) :
    ownerRequire bs s [] = ⟨s.modFuses (fun f => { f with ownerRequired := bitAt (tokFlags bs) 1 || f.ownerRequired }), [], true⟩ := by
  have hvalue : s.modFuses (fun f => { f with ownerRequired := bitAt (tokFlags bs) 1 || f.ownerRequired })
      = s.modFuses (fun f => { f with ownerRequired := bitAt (tokFlags bs) 1 || s.fuses.ownerRequired }) := rfl
  rw [hvalue]
  unfold ownerRequire
  split
  · next h =>
    rw [(Bool.and_eq_true_iff.mp h).1, Bool.true_or]
    rfl
  · next h =>
    have hsame : (bitAt (tokFlags bs) 1 || s.fuses.ownerRequired) = s.fuses.ownerRequired := by
      cases hb : bitAt (tokFlags bs) 1 <;> simp_all
    rw [hsame]
    rfl

end Sys2Proof.SecEngine
end

section
namespace Sys2Proof.SecEngine
open Sys2Proof Sys2Proof.Machine

/-- Settles O47: each effect blows and writes what its token names, its event raises alert 12, and the token is answered. -/
theorem acceptedTokens : Obligations.AcceptedTokens := by
  unfold Obligations.AcceptedTokens
  intro s bs
  dsimp only
  intro hon hok hq
  have hhead := accepted_head hon hok hq
  refine ⟨?debug, ?destroy, ?provision, ?field, ?retire, ?ends, ?failed, ?revoke, ?secver, ?owner⟩
  case debug =>
    intro hk ha1 ha hkeep
    obtain ⟨isc, ifuses, imem, ichans, islices, imram⟩ := installing_keeps s bs
    have hkeep' : tokArg bs < 2 ∨ (installing s bs).certifies = false := hkeep.imp_right (fun h => (certifies_congr (by rw [isc]) ifuses).trans h)
    have hlev := leveled_installing_sc s bs
    obtain ⟨t, ht, hdone, hfuses, hmram, hevent, -, hlevel, hmax, hsession⟩ := event_ends (s := s) (u := leveled (installing s bs) (tokArg bs)) (bs := bs) 4
      (by rw [hlev]; exact hq) imem ichans islices
    rw [hlev] at hlevel hmax hsession
    refine ⟨_, exec_debug (hk ▸ hhead), ?_⟩
    rw [unlock_keeping hkeep', ht]
    refine ⟨hdone, hfuses.trans ifuses, ?_, ?_, hevent, hsession, hmram.trans imram⟩
    · rw [hlevel]
      exact leveled_toNat ha
    · rw [hmax]
      exact leveled_toNat ha
  case destroy =>
    intro hk ha2 ha hc he
    obtain ⟨isc, ifuses, -, -, -, imram⟩ := installing_keeps s bs
    have hc' : (installing s bs).certifies = true := (certifies_congr (by rw [isc]) ifuses).trans hc
    obtain ⟨hsc, hfuses, hmram⟩ := destroyed_sc (s := s) (bs := bs) (rest := []) hq hc
    refine ⟨_, exec_debug (hk ▸ hhead), ?_⟩
    rw [unlock_destroying ha2 hc', ← destroyed]
    generalize destroyed (installing s bs) (tokArg bs) = u at hsc hfuses hmram ⊢
    have hend := tokenDone_accepted_sc u
    rw [hsc] at hend
    have hcert : (u.tokenDone 1).certifies = true :=
      (certifies_congr (by rw [hend]) ((Served.tokenDone u 1).fuses.trans hfuses)).trans hc
    have hroom : (u.tokenDone 1).exhausted = false := by
      rw [State.exhausted, (Served.tokenDone u 1).mram, hmram]
      exact he
    rw [secServe_session (congrArg SecSt.queue hend) hcert hroom]
    exact ⟨congrArg SecSt.session hend, congrArg SecSt.queue hend, congrArg SecSt.result hend, congrArg SecSt.lastEvent hend,
      (congrArg (fun x => x.level.toNat) hend).trans (leveled_toNat ha), (Served.tokenDone u 1).fuses.trans hfuses⟩
  case provision =>
    intro hk ha hvalid
    refine ⟨_, exec_lifecycle [] (hk ▸ hhead), ?_⟩
    have htrans : s.transition (tokArg bs) [] = ⟨s.genIdentity.modFuses (fun f => { f with lifecycle := s.fuses.lifecycle ||| 1 }), [], true⟩ := by
      have hsecret : s.writeSecret [] = ⟨s, [], true⟩ := if_pos hvalid
      rw [ha, State.transition, hsecret]
      exact blowLifecycle_nil s.genIdentity 1 (by decide)
    rw [htrans]
    obtain ⟨t, ht, hdone, hfuses, hmram, hevent, -⟩ := lifecycle_ends (s := s) (u := s.genIdentity.modFuses (fun f => { f with lifecycle := s.fuses.lifecycle ||| 1 }))
      hq rfl rfl rfl
    rw [ht]
    exact ⟨hdone, hfuses, hmram, hevent⟩
  case field =>
    intro hk ha
    refine ⟨_, exec_lifecycle [] (hk ▸ hhead), ?_⟩
    have htrans : s.transition (tokArg bs) [] = ⟨s.modFuses (fun f => { f with lifecycle := s.fuses.lifecycle ||| 3 }), [], true⟩ := by
      rw [ha]
      exact blowLifecycle_nil s 3 (by decide)
    rw [htrans]
    obtain ⟨t, ht, hdone, hfuses, hmram, hevent, hnow⟩ := lifecycle_ends (s := s) (u := s.modFuses (fun f => { f with lifecycle := s.fuses.lifecycle ||| 3 }))
      hq rfl rfl rfl
    rw [ht]
    exact ⟨hdone, hfuses, hmram, hevent, hnow⟩
  case retire =>
    intro hk ha
    refine ⟨_, exec_lifecycle [] (hk ▸ hhead), ?_⟩
    have htrans : s.transition (tokArg bs) [] = ⟨erased s 7, [], true⟩ := by
      rw [ha]
      exact erase_blown s 7 (by decide)
    rw [htrans]
    obtain ⟨t, ht, hdone, hfuses, hmram, hevent, -⟩ := lifecycle_ends (s := s) (u := erased s 7) hq rfl rfl rfl
    rw [ht]
    exact ⟨hdone, hfuses, hmram, hevent⟩
  case ends =>
    intro hk ha hlc
    refine ⟨_, exec_lifecycle [] (hk ▸ hhead), ?_⟩
    have htrans : s.transition (tokArg bs) [] = ⟨erased s 15, [], true⟩ := by
      rw [ha]
      exact (if_neg hlc).trans (erase_blown s 15 (by decide))
    rw [htrans]
    obtain ⟨t, ht, hdone, hfuses, hmram, hevent, -⟩ := lifecycle_ends (s := s) (u := erased s 15) hq rfl rfl rfl
    rw [ht]
    exact ⟨hdone, hfuses, hmram, hevent⟩
  case failed =>
    intro hk ha hlc
    refine ⟨_, exec_lifecycle _ (hk ▸ hhead), ?_⟩
    have htrans : s.transition (tokArg bs) [false, false] = ⟨s, [], false⟩ := by
      rw [ha]
      exact blowLifecycle_failed hlc
    rw [htrans, finish_failed rfl]
    have hserved := Served.secEvent s 7
    have hsc := secEvent_sc s 7
    generalize s.secEvent 7 = u at hserved hsc ⊢
    have hend := tokenDone_refused_sc u (r := 10) (by decide)
    obtain ⟨hserve, hdone⟩ := answered_refused (s := s) (u := u) (r := 10) (by decide) (by rw [hsc]; exact hq) hserved.mem hserved.chans hserved.slices
    rw [hserve]
    exact ⟨hdone, (Served.tokenDone u 10).fuses.trans hserved.fuses, (Served.tokenDone u 10).mram.trans hserved.mram, congrArg SecSt.lastEvent hend,
      congrArg SecSt.lastResult hend⟩
  case revoke =>
    intro hk ha
    refine ⟨_, exec_revoke [] (hk ▸ hhead), ?_⟩
    have hrow : BitVec.ofNat 4 (blowBits 4 0 (2 ^ tokArg bs) s.fuses.rootRevoke.toNat []).1 = s.fuses.rootRevoke ||| BitVec.ofNat 4 (2 ^ tokArg bs) :=
      ofNat_blowBits s.fuses.rootRevoke (Nat.pow_lt_pow_right (by decide) (Nat.lt_succ_of_le ha))
    obtain ⟨t, ht, hdone, hfuses, hmram, hevent, -⟩ := event_ends (s := s)
      (u := s.modFuses (fun f => { f with rootRevoke := s.fuses.rootRevoke ||| BitVec.ofNat 4 (2 ^ tokArg bs) })) 3 hq rfl rfl rfl
    rw [hrow, (FuseBlows.blowBits_nil _ _ _ _).1, finish_ok rfl, ht]
    exact ⟨hdone, hfuses, hmram, hevent⟩
  case secver =>
    intro hk hle ha halert
    refine ⟨_, exec_secver [] (hk ▸ hhead), ?_⟩
    obtain ⟨hserve, hdone⟩ := answered_accepted (s := s) (u := s.modFuses (fun f => { f with secver := tokArg bs })) hq rfl rfl rfl halert
    rw [FuseBlows.secver_blown hle ha, (FuseBlows.blowBits_nil _ _ _ _).1, finish_ok rfl, id_eq, hserve]
    exact ⟨hdone, (Served.tokenDone _ 1).fuses, (Served.tokenDone _ 1).mram⟩
  case owner =>
    intro hk hn hnone halert
    refine ⟨_, exec_owner [] (hk ▸ hhead), ?_⟩
    have hboth : (ownerHashed s bs []).andThen (ownerRequire bs) = ⟨owned s bs, [], true⟩ := by
      rw [ownerHashed_nil hnone hn]
      exact ownerRequire_nil bs _
    obtain ⟨hserve, hdone⟩ := answered_accepted (s := s) (u := owned s bs) hq rfl rfl rfl halert
    rw [hboth, finish_ok rfl, id_eq, hserve]
    exact ⟨hdone, (Served.tokenDone _ 1).mram, (Served.tokenDone _ 1).fuses⟩

end Sys2Proof.SecEngine
end

section
/-! SUPPORT. Wakes of the security domain, and the firmware's request in the engine's queue (13 Table 5, 15 R394). -/
namespace Sys2Proof.Management
open Sys2Proof Sys2Proof.Machine Sys2Proof.SecEngine

/-- A wake has reached the security domain: its own transition, its refusal counter and alerts; what it is on stays. -/
def Woken (s t : State) : Prop :=
  t = { s with mg := t.mg }
    ∧ t.mg = { s.mg with
        secDom := t.mg.secDom, alert := t.mg.alert, events := t.mg.events, mgmtDom := t.mg.mgmtDom, boot := { s.mg.boot with coreWait := t.mg.boot.coreWait } }
    ∧ t.mg.secDom.state = s.mg.secDom.state ∧ (∀ bit, s.mg.alert.getLsbD bit = true → t.mg.alert.getLsbD bit = true)
    ∧ (s.mg.boot.coreWait = false → t.mg.boot.coreWait = false) ∧ t.mg.mgmtDom.state = s.mg.mgmtDom.state

theorem wake_state (p : PowerDom) (t : PState) : (p.wake t).state = p.state := by
  unfold PowerDom.wake
  split
  · rfl
  · split <;> rfl

theorem wake_security (s : State) : Woken s (s.wake .security) := by
  have hmod : Woken s (s.modDom .security (·.wake .on)) := ⟨rfl, rfl, wake_state _ _, fun _ h => h, id, rfl⟩
  show Woken s (s.wake1 .security .on)
  unfold State.wake1
  dsimp only
  split
  · rcases noteSat_cases (s.modDom .security (·.wake .on)) (s.dom .security).refused 0xFFFF (domChan .security) with h | h <;> rw [h]
    · exact hmod
    · exact ⟨rfl, rfl, wake_state _ _, fun _ h => by simp [State.modDom, h], fun _ => rfl, wake_state _ _⟩
  · split
    · exact hmod
    · exact ⟨rfl, rfl, rfl, fun _ h => h, id, rfl⟩

namespace Woken
variable {s t : State}

theorem sc (h : Woken s t) : t.sc = s.sc := by rw [h.1]
theorem chans (h : Woken s t) : t.chans = s.chans := by rw [h.1]
theorem slices (h : Woken s t) : t.slices = s.slices := by rw [h.1]
theorem mem (h : Woken s t) : t.mem = s.mem := by rw [h.1]
theorem fuses (h : Woken s t) : t.fuses = s.fuses := by rw [h.1]
theorem mram (h : Woken s t) : t.mram = s.mram := by rw [h.1]
theorem port (h : Woken s t) : t.port = s.port := by rw [h.1]
theorem linkDom (h : Woken s t) : t.mg.linkDom = s.mg.linkDom := by rw [h.2.1]
theorem switchDom (h : Woken s t) : t.mg.switchDom = s.mg.switchDom := by rw [h.2.1]
theorem boot (h : Woken s t) : t.mg.boot = { s.mg.boot with coreWait := t.mg.boot.coreWait } := by rw [h.2.1]
theorem keepsAlert (h : Woken s t) {bit : Nat} (ha : s.mg.alert.getLsbD bit = true) : t.mg.alert.getLsbD bit = true := h.2.2.2.1 bit ha
theorem coreRuns (h : Woken s t) (hw : s.mg.boot.coreWait = false) : t.mg.boot.coreWait = false := h.2.2.2.2.1 hw
theorem mgmtState (h : Woken s t) : t.mg.mgmtDom.state = s.mg.mgmtDom.state := h.2.2.2.2.2

theorem secOn (h : Woken s t) : t.secOn = s.secOn := by
  have hpowered : t.powered = s.powered := by rw [State.powered, State.powered, h.1, h.2.1]
  rw [State.secOn, State.secOn, hpowered, h.2.2.1]

end Woken

/-! ## A request of the management core (15 R394) -/

/-- A request is in the queue and the engine awake, and it has not gone on yet. -/
def requested (s : State) (q : SecReq) : State := (s.enqueue q).wake .security

theorem coreRequest_eq (s : State) (q : SecReq) : s.coreRequest q = (requested s q).secServe := rfl

theorem requested_woken (s : State) (q : SecReq) : Woken (s.enqueue q) (requested s q) := wake_security _

theorem requested_sc (s : State) (q : SecReq) : (requested s q).sc = { s.sc with queue := s.sc.queue ++ [q] } := (requested_woken s q).sc

theorem coreRequest_keeps (s : State) (q : SecReq) :
    (s.coreRequest q).port = s.port ∧ (s.coreRequest q).chans = s.chans ∧ (s.coreRequest q).slices = s.slices ∧ (s.coreRequest q).mem = s.mem
      ∧ (s.coreRequest q).fuses = s.fuses ∧ (s.coreRequest q).mram = s.mram := by
  have hw := requested_woken s q
  have hs := Served.secServe (requested s q)
  exact ⟨hs.port.trans hw.port, hs.chans.trans hw.chans, hs.slices.trans hw.slices, hs.mem.trans hw.mem, hs.fuses.trans hw.fuses, hs.mram.trans hw.mram⟩

/-- An image in an idle engine waits there for its verification. -/
theorem coreRequest_firmware {s : State} (hq : s.sc.queue = []) : s.coreRequest .firmware = requested s .firmware :=
  secServe_firmware (s := requested s .firmware) (rest := []) (by rw [requested_sc, hq]; rfl)

theorem tokenDone_queue (s : State) (r : Nat) : (s.tokenDone r).sc.queue = s.sc.queue.drop 1 := by
  by_cases hr : r = 1
  · rw [hr, tokenDone_accepted_sc]
  · rw [tokenDone_refused_sc s hr]

theorem reportFails_queue_drop (s : State) (sb : Bool) (r : Nat) : (s.reportFails sb r).sc.queue = s.sc.queue.drop 1 := by
  unfold State.reportFails
  dsimp only
  split <;> rfl

/-- The engine goes on past other requests, never past an image. -/
theorem serveSec_keeps_firmware {s : State} (n : Nat) (h : SecReq.firmware ∈ s.sc.queue) : SecReq.firmware ∈ (s.serveSec n).sc.queue := by
  induction n generalizing s with
  | zero => exact h
  | succ n ih =>
    have hdrop : ∀ q rest, s.sc.queue = q :: rest → q ≠ .firmware → SecReq.firmware ∈ s.sc.queue.drop 1 := fun q rest hq hne => by
      rw [hq] at h ⊢
      exact (List.mem_cons.mp h).resolve_left (fun he => hne he.symm)
    unfold State.serveSec
    split
    · exact h
    · next bs sb rest hq =>
      split
      · exact h
      · dsimp only
        split
        · exact h
        · exact ih (by rw [tokenDone_queue]; exact hdrop _ _ hq (by simp))
    · next sb nonce rest hq =>
      have hfails : ∀ r, SecReq.firmware ∈ (s.reportFails sb r).sc.queue := fun r => by
        rw [reportFails_queue_drop]
        exact hdrop _ _ hq (by simp)
      split
      · exact ih (hfails 2)
      · split
        · split
          · simpa only [State.modSc] using h
          · exact h
        · split
          · exact ih (hfails 3)
          · have hrest : SecReq.firmware ∈ rest := by
              have := hdrop _ _ hq (by simp)
              rwa [hq] at this
            exact List.mem_cons_of_mem _ (List.mem_cons_of_mem _ (List.mem_filter.mpr ⟨hrest, rfl⟩))
    · next rest hq =>
      split
      · exact h
      · exact ih (hdrop _ _ hq (by simp))
    · exact h

theorem coreRequest_keeps_firmware (s : State) : SecReq.firmware ∈ (s.coreRequest .firmware).sc.queue := by
  have hq : SecReq.firmware ∈ (requested s .firmware).sc.queue := by
    rw [requested_sc]
    exact List.mem_append_right _ (List.mem_singleton.mpr rfl)
  rw [coreRequest_eq, State.secServe]
  split
  · exact serveSec_keeps_firmware _ hq
  · exact hq

theorem coreRequest_boot (s : State) (q : SecReq) : (s.coreRequest q).mg.boot
    = { s.mg.boot with coreWait := (s.coreRequest q).mg.boot.coreWait, sbOut := (s.coreRequest q).mg.boot.sbOut } := by
  have hs := (Served.secServe (requested s q)).boot
  rw [(requested_woken s q).boot] at hs
  exact hs

theorem coreRequest_phase_slot (s : State) (q : SecReq) :
    (s.coreRequest q).mg.boot.phase = s.mg.boot.phase ∧ (s.coreRequest q).mg.boot.slot = s.mg.boot.slot := by
  rw [coreRequest_boot]
  exact ⟨rfl, rfl⟩

theorem coreRequest_keeps_alert (s : State) (q : SecReq) {bit : Nat} (h : s.mg.alert.getLsbD bit = true) : (s.coreRequest q).mg.alert.getLsbD bit = true :=
  (Served.secServe _).keepsAlert ((requested_woken s q).keepsAlert h)

end Sys2Proof.Management
end

section
/-! SUPPORT. Claims, verification, recovery and the watchdog (16 R411 to R418). -/
namespace Sys2Proof.Management
open Sys2Proof Sys2Proof.Machine Sys2Proof.SecEngine

theorem exec_startLink {s : State} (hr : s.reached = true) : exec .startLink s = .next (s.keyOff.startLink.status .ok) :=
  congrArg Host.Outcome.next (hostReg_port s _ hr)

theorem exec_bootGo {s : State} (hr : s.reached = true) : exec .bootGo s = .next (s.keyOff.startVerify.status .ok) :=
  congrArg Host.Outcome.next (hostReg_port s _ hr)

theorem exec_abandon {s : State} (hr : s.reached = true) : exec .abandon s = .next (s.keyOff.abandon.status .ok) :=
  congrArg Host.Outcome.next (hostReg_port s _ hr)

theorem exec_recover {s : State} (key : W16) (hr : s.reached = true) : exec (.recover key) s = .next ((s.keyOff.recover key.toNat).status .ok) :=
  congrArg Host.Outcome.next (hostReg_port s _ hr)

theorem wrotePort_same {s t : State} (h : t = { s.keyOff with mg := t.mg, sc := t.sc }) : wrotePort s (t.status .ok) := by
  rw [h]
  exact PreolmondLink.wrotePort_status rfl rfl rfl rfl

/-- The image at the head of the queue is checked and leaves it. -/
theorem exec_firmwareVerified {s : State} (hon : s.secOn = true) (hq : s.sc.queue = [.firmware]) :
    exec .firmwareVerified s
      = .next (if s.checkContainer s.mg.boot.slot = 1 then s.popSec.runImage else s.popSec.refuseImage (s.checkContainer s.mg.boot.slot)).secServe := by
  show execFirmwareVerified s = _
  unfold execFirmwareVerified
  rw [secServe_firmware hq]
  dsimp only
  rw [hq]
  dsimp only
  rw [if_neg (by simp [hon])]

theorem exec_firmwareVerified_empty {s : State} (hq : s.sc.queue = []) : exec .firmwareVerified s = .next s := by
  show execFirmwareVerified s = _
  unfold execFirmwareVerified
  rw [secServe_empty hq]
  dsimp only
  rw [hq]

theorem secEvent_boot (s : State) (code : Nat) : (s.secEvent code).mg.boot = { s.mg.boot with coreWait := false } := by
  unfold State.secEvent State.noteSat
  split <;> rfl

/-- What is left of the slot once it holds no image. -/
def BootSt.emptied (b : BootSt) : BootSt := { b with phase := .waitImage, source := .none, slotValid := false, slot := [] }

/-- An image refused: the slot is emptied, the result stands, and alerts 11 and 12 are up. -/
theorem refuseImage_result (s : State) (r : Nat) :
    (s.refuseImage r).mg.boot = { BootSt.emptied s.mg.boot with lastResult := r, coreWait := false } ∧ (s.refuseImage r).mg.alert.getLsbD 11 = true
      ∧ (s.refuseImage r).mg.alert.getLsbD 12 = true
      ∧ (s.refuseImage r).sc = { s.sc with lastEvent := 8, lastResult := BitVec.ofNat 8 r, events := satInc s.sc.events 0xFFFF } := by
  have hboot := secEvent_boot (s.modSc (fun x => { x with lastResult := BitVec.ofNat 8 r })) 8
  have hsc := secEvent_sc (s.modSc (fun x => { x with lastResult := BitVec.ofNat 8 r })) 8
  have halert := secEvent_alert (s.modSc (fun x => { x with lastResult := BitVec.ofNat 8 r })) 8
  unfold State.refuseImage
  generalize (s.modSc (fun x => { x with lastResult := BitVec.ofNat 8 r })).secEvent 8 = u at hboot hsc halert ⊢
  refine ⟨?_, PreolmondLink.alert_sets _ 11 _ (by decide), (Served.alert _ 11 _).keepsAlert (s := u.waitImage.modBoot _) halert, hsc⟩
  show { u.mg.boot with phase := .waitImage, source := .none, slotValid := false, slot := [], lastResult := r, coreWait := false } = _
  rw [hboot]
  rfl

/-- The checks that an accepted container has passed (15 Table 5). -/
theorem checkContainer_accepted {s : State} {m : Memory} (h : s.checkContainer m = 1) :
    headerOk (rdN m 0 256) = true ∧ s.rootRevoked (leAt (rdN m 0 256) 14 1) = false ∧ s.rootSet (leAt (rdN m 0 256) 14 1) = true
      ∧ s.fuses.secver ≤ leAt (rdN m 0 256) 12 2 ∧ bytesAt (rdN m 0 256) 24 32 = shake256 (rdN m 5952 (payloadSize (rdN m 0 256))) := by
  unfold State.checkContainer at h
  dsimp only at h
  split at h
  · exact absurd h (by decide)
  next hform =>
  split at h
  · exact absurd h (by decide)
  next hroot =>
  split at h
  · exact absurd h (by decide)
  split at h
  · exact absurd h (by decide)
  split at h
  · exact absurd h (by decide)
  next hversion =>
  split at h
  · exact absurd h (by decide)
  next hhash =>
  simp only [Bool.or_eq_true, Bool.not_eq_true', not_or, Bool.not_eq_false, Bool.not_eq_true] at hform hroot
  exact ⟨hform.1.1.1, hroot.1, hroot.2, Nat.not_lt.mp hversion, not_not.mp hhash⟩

theorem runImage_sc (s : State) :
    s.runImage.sc = { s.sc with fwMeas := shake256 (rdN s.mg.boot.slot 0 256), fwHeader := rdN s.mg.boot.slot 0 256 } := rfl

/-! ## The watchdog (R417) -/

/-- The state after the management reset of an expiry, with its alert. -/
def expired (s : State) : State :=
  ((s.mgmtReset true).modBoot (fun b => { b with expiries := s.recentExpiries, wdExpiries := satInc s.mg.boot.wdExpiries 0xFF })).alert 11 (plainRec 11 0 0)

theorem exec_mgmtWatchdogExpire {s : State} (hp : s.powered = true) :
    exec .mgmtWatchdogExpire s
      = if s.mg.boot.slotValid && decide (s.recentExpiries.length < 3 ∧ s.mg.boot.restart = .waitImage) then
          .next (((expired s).modBoot (fun b => { b with phase := .verify })).coreRequest .firmware)
        else .next (expired s) := by
  show execMgmtWatchdogExpire s = _
  rw [execMgmtWatchdogExpire, if_neg (by simp [hp])]
  rfl

theorem expired_boot (s : State) : (expired s).mg.boot
    = { (s.mgmtReset true).mg.boot with expiries := (expired s).mg.boot.expiries, wdExpiries := (expired s).mg.boot.wdExpiries } := rfl

theorem expired_keeps (s : State) : (expired s).mem = s.mem ∧ (expired s).slices = s.slices ∧ (expired s).chans = s.chans :=
  let h := Served.alert ((s.mgmtReset true).modBoot (fun b => { b with expiries := s.recentExpiries, wdExpiries := satInc s.mg.boot.wdExpiries 0xFF })) 11 (plainRec 11 0 0)
  ⟨h.mem, h.slices, h.chans⟩

theorem expired_counts (s : State) : (expired s).mg.boot.expiries = s.recentExpiries ∧ (expired s).mg.boot.wdExpiries = satInc s.mg.boot.wdExpiries 0xFF :=
  ⟨rfl, rfl⟩

theorem expired_alert (s : State) : (expired s).mg.alert.getLsbD 11 = true := PreolmondLink.alert_sets _ 11 _ (by decide)

end Sys2Proof.Management
end

section
namespace Sys2Proof.Management
open Sys2Proof Sys2Proof.Machine Sys2Proof.SecEngine

/-- What a management reset leaves: the phase the boot ROM restarts in, and the cause (R414, R415). -/
theorem restarted_of {s t : State} {wd : Bool} (hboot : t.mg.boot = { (s.mgmtReset wd).mg.boot with expiries := t.mg.boot.expiries, wdExpiries := t.mg.boot.wdExpiries })
    (hmem : t.mem = s.mem) (hslices : t.slices = s.slices) (hchans : t.chans = s.chans) :
    t.mg.boot.phase = (if s.mg.boot.phase = .closed then .closed else if s.mg.boot.straps.getLsbD 3 then .hwInit else .waitImage)
      ∧ t.mg.boot.source = .none ∧ t.mg.boot.lastResult = 0 ∧ t.mg.boot.slotValid = false ∧ t.mg.boot.level = 0 ∧ t.mg.boot.coreHalted = false
      ∧ t.mg.boot.recover = !wd ∧ t.mg.boot.watchdog = wd ∧ t.mg.boot.por = false ∧ t.mg.boot.warm = false ∧ t.mg.boot.slot = s.mg.boot.slot
      ∧ t.mg.boot.straps = s.mg.boot.straps ∧ t.mem = s.mem ∧ t.slices = s.slices ∧ t.chans = s.chans := by
  rw [hboot]
  exact ⟨rfl, rfl, rfl, rfl, rfl, rfl, rfl, rfl, rfl, rfl, rfl, rfl, hmem, hslices, hchans⟩

/-- Settles O50: each request acts in one phase alone; an image stays in the engine's queue until it is checked, and its result decides the phase. -/
theorem firmwareDelivery : Obligations.FirmwareDelivery := by
  unfold Obligations.FirmwareDelivery
  intro s key m
  refine ⟨fun hr => ⟨?claim, ?claimRefused, ?go, ?goNot, ?abandon, ?abandonNot, ?recover, ?recoverNot⟩, ?timeout, ?timeoutNot, fun hon hq => ⟨?accepted, ?refused⟩,
    ?idle, ?checks, ?noImage, ?third, ?again, ?unpowered⟩
  case claim =>
    intro hphase hstrap
    have hgo : s.keyOff.startLink = s.keyOff.claim .link := if_pos ⟨hphase, hstrap⟩
    refine ⟨_, exec_startLink hr, ?_⟩
    rw [hgo]
    exact ⟨wrotePort_same rfl, rfl⟩
  case claimRefused =>
    intro h
    have hgo : s.keyOff.startLink = s.keyOff.modBoot (fun b => { b with claimRefused := true }) := by
      refine if_neg ?_
      rintro ⟨hphase, hstrap⟩
      rcases h with h | h
      · exact h hphase
      · exact Bool.false_ne_true (hstrap.symm.trans h)
    refine ⟨_, exec_startLink hr, ?_⟩
    rw [hgo]
    exact ⟨wrotePort_same rfl, rfl⟩
  case go =>
    intro hphase hq
    have hgo : s.keyOff.startVerify = (s.keyOff.modBoot (fun b => { b with phase := .verify })).coreRequest .firmware := if_pos hphase
    refine ⟨_, exec_bootGo hr, ?_⟩
    obtain ⟨hport, hchans, hslices, hmem, -, -⟩ := coreRequest_keeps (s.keyOff.modBoot (fun b => { b with phase := .verify })) .firmware
    obtain ⟨hverify, hslot⟩ := coreRequest_phase_slot (s.keyOff.modBoot (fun b => { b with phase := .verify })) .firmware
    have hsc := requested_sc (s.keyOff.modBoot (fun b => { b with phase := .verify })) .firmware
    rw [hgo]
    refine ⟨PreolmondLink.wrotePort_status hport hchans hslices hmem, hverify, hslot, ?_⟩
    rw [coreRequest_firmware (s := s.keyOff.modBoot (fun b => { b with phase := .verify })) hq]
    refine (congrArg SecSt.queue hsc).trans ?_
    show s.sc.queue ++ [SecReq.firmware] = _
    rw [hq]
    rfl
  case goNot =>
    intro hphase
    have hgo : s.keyOff.startVerify = s.keyOff := if_neg hphase
    refine ⟨_, exec_bootGo hr, ?_⟩
    rw [hgo]
    exact ⟨wrotePort_same rfl, rfl, rfl⟩
  case abandon =>
    intro hphase
    have hgo : s.keyOff.abandon = s.keyOff.waitImage := if_pos hphase
    refine ⟨_, exec_abandon hr, ?_⟩
    rw [hgo]
    exact ⟨wrotePort_same rfl, rfl⟩
  case abandonNot =>
    intro hphase
    have hgo : s.keyOff.abandon = s.keyOff := if_neg hphase
    refine ⟨_, exec_abandon hr, ?_⟩
    rw [hgo]
    exact ⟨wrotePort_same rfl, rfl⟩
  case recover =>
    rintro rfl
    exact ⟨_, exec_recover _ hr, wrotePort_same (t := s.keyOff.mgmtReset false) rfl, restarted_of (wd := false) rfl rfl rfl rfl, rfl⟩
  case recoverNot =>
    intro hkey
    have hgo : s.keyOff.recover key.toNat = s.keyOff := if_neg (fun h => hkey (BitVec.eq_of_toNat_eq h))
    refine ⟨_, exec_recover _ hr, ?_⟩
    rw [hgo]
    exact ⟨wrotePort_same rfl, rfl, rfl⟩
  case timeout => exact fun hphase hdue => ⟨_, if_pos ⟨hphase, hdue⟩, rfl⟩
  case timeoutNot =>
    intro h
    refine if_neg ?_
    rintro ⟨hphase, hdue⟩
    rcases h with h | h
    · exact h hphase
    · exact absurd hdue (Nat.not_le.mpr h)
  case accepted =>
    intro hc
    have hqueue : s.popSec.runImage.sc.queue = [] := congrArg (List.drop 1) hq
    refine ⟨_, exec_firmwareVerified hon hq, ?_⟩
    rw [if_pos hc, secServe_empty hqueue]
    refine ⟨rfl, rfl, rfl, rfl, rfl, ?_⟩
    rw [runImage_sc, popSec_sc, hq]
    rfl
  case refused =>
    intro hc
    obtain ⟨hboot, h11, h12, hsc⟩ := refuseImage_result s.popSec (s.checkContainer s.mg.boot.slot)
    have hpop : s.popSec.sc = { s.sc with queue := [] } := by
      rw [popSec_sc, hq]
      rfl
    rw [hpop] at hsc
    refine ⟨_, exec_firmwareVerified hon hq, ?_⟩
    rw [if_neg hc, secServe_empty (congrArg SecSt.queue hsc)]
    exact ⟨hboot, h11, h12, hsc⟩
  case idle => exact exec_firmwareVerified_empty
  case checks =>
    intro hc
    obtain ⟨hheader, hrevoked, hset, hversion, hhash⟩ := checkContainer_accepted hc
    simp only [headerOk, Bool.and_eq_true, decide_eq_true_eq] at hheader
    exact ⟨hheader.1.1.1.1.1.1, hversion, hset, hrevoked, hhash⟩
  case noImage =>
    intro hp hslot
    have hrestarted := restarted_of (s := s) (t := expired s) (wd := true) (expired_boot s) (expired_keeps s).1 (expired_keeps s).2.1 (expired_keeps s).2.2
    have hgo := (exec_mgmtWatchdogExpire hp).trans (if_neg (by simp [hslot]))
    exact ⟨_, hgo, hrestarted, expired_alert s, (expired_counts s).2⟩
  case third =>
    intro hp _ hthird
    have hrestarted := restarted_of (s := s) (t := expired s) (wd := true) (expired_boot s) (expired_keeps s).1 (expired_keeps s).2.1 (expired_keeps s).2.2
    have hgo := (exec_mgmtWatchdogExpire hp).trans (if_neg (by simp [hthird]))
    exact ⟨_, hgo, hrestarted, expired_alert s, (expired_counts s).2⟩
  case again =>
    intro hp hslot hfew hphase hstrap
    have hrestart : s.mg.boot.restart = .waitImage := by rw [BootSt.restart, if_neg hphase, hstrap]; rfl
    have hgo := (exec_mgmtWatchdogExpire hp).trans (if_pos (by simp [hslot, hfew, hrestart]))
    obtain ⟨hverify, hkept⟩ := coreRequest_phase_slot ((expired s).modBoot (fun b => { b with phase := .verify })) .firmware
    exact ⟨_, hgo, hverify, hkept, coreRequest_keeps_firmware _, coreRequest_keeps_alert _ _ (expired_alert s)⟩
  case unpowered => exact fun hp => if_pos (by simp [hp])

end Sys2Proof.Management
end

section
/-! SUPPORT. The duties of running firmware (16 R419, R421). -/
namespace Sys2Proof.Management
open Sys2Proof Sys2Proof.Machine

/-- Ten calm measurements lower the level by one and begin the count again. -/
theorem measure_calm {b : BootSt} {u : Nat} (hu : u < 60) :
    b.measure u = if b.calm + 1 = 10 then { b with busyPct := min u 255, calm := 0, level := max (b.level - 1) b.forcedMin }
      else { b with busyPct := min u 255, calm := b.calm + 1, level := max b.level b.forcedMin } := by
  have hbusy : ¬ 90 < u := by omega
  by_cases h10 : b.calm + 1 = 10
  · simp only [BootSt.measure, if_pos hu, if_neg hbusy, if_pos h10]
  · simp only [BootSt.measure, if_pos hu, if_neg hbusy, if_neg h10]

/-- A load of 60 % or more begins the count again; above 90 % it raises the level. -/
theorem measure_busy {b : BootSt} {u : Nat} (hu : 60 ≤ u) :
    b.measure u = { b with busyPct := min u 255, calm := 0, level := max (if 90 < u then min 3 (b.level + 1) else b.level) b.forcedMin } := by
  unfold BootSt.measure
  rw [if_neg (Nat.not_lt.mpr hu)]
  rfl

theorem exec_shedMeasure {s : State} (u : Nat) (h : s.fwRuns = true) : exec (.shedMeasure u) s = .next (s.modBoot (fun b => b.measure u)) := if_pos h

theorem exec_repairRecord {s : State} (kind : RepairKind) (c : Chan) (bank : BankIx) (target : W16) (h : s.fwRuns = true) :
    exec (.repairRecord kind c bank target) s = .next (s.addRepair kind c bank target.toNat) := if_pos h

theorem addRepair_room {s : State} (kind : RepairKind) (c b target : Nat) (h : s.mram.repairs.length < 4096) :
    s.addRepair kind c b target = { s with mram := { s.mram with repairs := s.mram.repairs ++
      [⟨if kind = .row ∧ 32 ≤ s.rowsUsed c b then .bank else kind, c, b, if kind = .row ∧ 32 ≤ s.rowsUsed c b then 0 else target, s.mram.repairs.length + 1, true⟩] } } := by
  unfold State.addRepair
  rw [if_pos h]
  by_cases hfull : kind = .row ∧ 32 ≤ s.rowsUsed c b
  · simp only [hfull, and_self, decide_true, if_true]
  · simp only [hfull, decide_false, if_false, Bool.false_eq_true]

theorem addRepair_full {s : State} (kind : RepairKind) (c b target : Nat) (h : 4096 ≤ s.mram.repairs.length) :
    s.addRepair kind c b target = s.alert 11 (plainRec 11 c 0) := if_neg (Nat.not_lt.mpr h)

/-- Settles O51: a measurement moves the level and the calm count alone; a repair is recorded while MRAM has room; an alert bit is sent while it is set. -/
theorem managementDuties : Obligations.ManagementDuties := by
  unfold Obligations.ManagementDuties
  intro s u kind c bank target bit
  refine ⟨fun hfw => ⟨_, exec_shedMeasure u hfw, rfl, rfl, ?high, ?middle, ?calm, ?tenth⟩, ?recorded, ?noRoom, ?sent, fun hfw => ⟨if_neg (by simp [hfw]), if_neg (by simp [hfw])⟩, ?notSent⟩
  case high =>
    intro hu
    have hm := measure_busy (b := s.mg.boot) (Nat.le_of_lt (Nat.lt_trans (by decide) hu))
    rw [if_pos hu] at hm
    exact ⟨congrArg BootSt.level hm, congrArg BootSt.calm hm⟩
  case middle =>
    intro hlow hu
    have hm := measure_busy (b := s.mg.boot) hlow
    rw [if_neg (Nat.not_lt.mpr hu)] at hm
    exact ⟨congrArg BootSt.level hm, congrArg BootSt.calm hm⟩
  case calm =>
    intro hu hcalm
    have hm := (measure_calm (b := s.mg.boot) hu).trans (if_neg (Nat.ne_of_lt hcalm))
    exact ⟨congrArg BootSt.level hm, congrArg BootSt.calm hm⟩
  case tenth =>
    intro hu hcalm
    have hm := (measure_calm (b := s.mg.boot) hu).trans (if_pos hcalm)
    exact ⟨congrArg BootSt.level hm, congrArg BootSt.calm hm⟩
  case recorded => exact fun hfw hroom => ⟨_, exec_repairRecord kind c bank target hfw, addRepair_room kind c bank target.toNat hroom⟩
  case noRoom =>
    intro hfw hfull
    refine ⟨_, exec_repairRecord kind c bank target hfw, ?_⟩
    rw [addRepair_full kind c bank target.toNat hfull]
    exact ⟨rfl, PreolmondLink.alert_sets _ 11 _ (by decide), rfl⟩
  case sent => exact fun hfw hbit => ⟨_, if_pos (by simp [hfw, hbit]), rfl⟩
  case notSent =>
    intro h
    refine if_neg ?_
    rcases h with h | h
    · rw [h, Bool.false_and]
      exact Bool.false_ne_true
    · rw [h, Bool.and_false]
      exact Bool.false_ne_true

end Sys2Proof.Management
end

section
/-! SUPPORT. What a debug access finds once its wake has reached the security domain (15 R398 to R400, Table 8). -/
namespace Sys2Proof.DebugPort
open Sys2Proof Sys2Proof.Machine Sys2Proof.Management

/-- The state after a debug access that changed nothing but the TAP's answer. -/
def answered (s : State) (n r : Nat) (st : TapStatus) : State :=
  { s.wake .security with sc := { s.sc with tdo := (upFrom 0 n).map r.testBit, tapStatus := st } }

theorem tapOut_wake (s : State) (n r : Nat) (st : TapStatus) : (s.wake .security).tapOut n r st = answered s n r st := by
  rw [State.tapOut, State.modSc, (wake_security s).sc]
  rfl

theorem denied_wake (s : State) : (s.wake .security).denied = answered s 32 0 .denied := tapOut_wake s 32 0 .denied

theorem slice_wake (s : State) (k : SliceId) : (s.wake .security).slice k = s.slice k := by rw [State.slice, State.slice, (wake_security s).slices]

theorem chan_wake (s : State) (c : Nat) : (s.wake .security).chan c = s.chan c := by rw [State.chan, State.chan, (wake_security s).chans]

theorem level_wake (s : State) : (s.wake .security).sc.level = s.sc.level := by rw [(wake_security s).sc]

/-- A wake changes what a domain goes to, never the state it is in. -/
theorem dom_state_wake (s : State) (d : Domain) : ((s.wake .security).dom d).state = (s.dom d).state := by
  have hw := wake_security s
  cases d with
  | bank c b => exact congrArg (fun ch : Channel => (ch.bank b).pwr.state) (chan_wake s c)
  | channel c => exact congrArg (fun ch : Channel => ch.pwr.dom.state) (chan_wake s c)
  | link => exact congrArg PowerDom.state hw.linkDom
  | switch => exact congrArg PowerDom.state hw.switchDom
  | management => exact hw.mgmtState
  | security => exact hw.2.2.1

theorem targetPower_wake (s : State) (x : Target) : (s.wake .security).targetPower x = s.targetPower x := by
  have hlink : (s.wake .security).mg.linkDom.state = s.mg.linkDom.state := dom_state_wake s .link
  have hswitch : (s.wake .security).mg.switchDom.state = s.mg.switchDom.state := dom_state_wake s .switch
  have hmgmt : (s.wake .security).mg.mgmtDom.state = s.mg.mgmtDom.state := dom_state_wake s .management
  have hsec : (s.wake .security).mg.secDom.state = s.mg.secDom.state := dom_state_wake s .security
  have hplaced : ∀ a, (s.wake .security).placed a = s.placed a := fun a => by rw [(wake_security s).1]; rfl
  cases x with
  | port off => simp only [State.targetPower, hlink, hmgmt, hsec, hswitch]
  | sync o => exact hswitch
  | chan c off => simp only [State.targetPower, chan_wake]
  | data off => simp only [State.targetPower, hplaced, chan_wake]
  | hole => rfl

/-! ## What the debug level, a strict channel and the power state leave of an access -/

section
variable {s : State} {strict read leased : Bool} {p : PState} {f : State → State}

theorem invasive_level (h : s.sc.level.toNat < 2) : s.invasive strict p read leased f = s.denied := if_pos (Or.inl h)

theorem invasive_strict : s.invasive true p read leased f = s.denied := if_pos (Or.inr (Or.inl rfl))

theorem invasive_off : s.invasive strict .off read leased f = s.denied := if_pos (Or.inr (Or.inr rfl))

/-- Neither the level nor the channel nor OFF denies the access. -/
theorem invasive_open (hl : 2 ≤ s.sc.level.toNat) (hs : strict = false) (hp : p ≠ .off) :
    s.invasive strict p read leased f
      = if p = .retention then (if read then s.denied else s.tapOut 32 0 .notOn) else if leased then s.tapOut 32 0 .leased else f s := by
  refine if_neg ?_
  rintro (h | h | h)
  · exact absurd h (Nat.not_lt.mpr hl)
  · exact absurd (hs.symm.trans h) (by decide)
  · exact hp h

theorem invasive_retention (hl : 2 ≤ s.sc.level.toNat) (hs : strict = false) (hp : p = .retention) :
    s.invasive strict p read leased f = if read then s.denied else s.tapOut 32 0 .notOn :=
  (invasive_open hl hs (by simp [hp])).trans (if_pos hp)

theorem invasive_on (hl : 2 ≤ s.sc.level.toNat) (hs : strict = false) (hp : p = .on) :
    s.invasive strict p read leased f = if leased then s.tapOut 32 0 .leased else f s :=
  (invasive_open hl hs (by simp [hp])).trans (if_neg (by simp [hp]))

end

/-- Below INVASIVE, every access but the read of a register is denied. -/
theorem dbg_level {s : State} {op : DbgOp} (h : s.sc.level.toNat < 2) (hop : ∀ r, op ≠ .readReg r) : s.dbg op = s.denied := by
  cases op with
  | readReg a => exact absurd rfl (hop a)
  | writeReg a v =>
    simp only [State.dbg]
    split
    · rfl
    · exact invasive_level h
  | readArray | writeArray | readScratch | writeScratch | halt | release | breakpoint | step | haltCore | releaseCore | breakpointCore | stepCore =>
    exact if_pos (Or.inl h)

theorem observe_hole {s : State} {x : Target} (h : s.wordOf s.now x = none) : s.observe x = s.denied := by rw [State.observe, h]

theorem observe_locked {s : State} {x : Target} (h : s.sc.level = 0) : s.observe x = s.denied := by
  unfold State.observe
  split
  · rfl
  · exact if_pos (Or.inl h)

theorem observe_register {s : State} {x : Target} {v : Nat} (hv : s.wordOf s.now x = some v) (hl : s.sc.level ≠ 0) (hx : observable x = true)
    (hp : s.targetPower x ≠ .off) : s.observe x = s.tapOut 32 v .ok := by
  rw [State.observe, hv]
  dsimp only
  rw [if_neg (not_or.mpr ⟨hl, by simp [hx]⟩), if_neg (fun h => hp h.1)]

theorem exec_dbgObserve {s : State} (addr : HostAddr) (ht : s.tapRuns = true) (hp : s.powered = true) :
    exec (.dbgObserve addr) s = .next ((s.wake .security).observe (regTarget addr)) := if_pos (by simp [ht, hp])

theorem exec_dbgAccess {s : State} (op : DbgOp) (ht : s.tapRuns = true) (hp : s.powered = true) :
    exec (.dbgAccess op) s = .next ((s.wake .security).dbg op) := if_pos (by simp [ht, hp])

/-- An access to a slice, with the channel and the bank as they were before its wake. -/
theorem onSlice_wake (s : State) (sl : SliceId) (read write : Bool) (f : State → State) :
    (s.wake .security).onSlice sl read write f
      = (s.wake .security).invasive (s.chan (slChan sl)).strictCtx ((s.chan (slChan sl)).bank (slBank sl)).pwr.state read
          (write && (s.chan (slChan sl)).leased (slBank sl)) f := by
  rw [State.onSlice, chan_wake]

/-- What an access that the bank admits does to the slice, and that it does nothing else. -/
theorem modSlice_answered (s : State) (sl : SliceId) (f : SliceSt → SliceSt) :
    let t := ((s.wake .security).modSlice sl f).tapOut 32 0 .ok
    t.slice sl = f (s.slice sl) ∧ (∀ k, k ≠ sl → t.slice k = s.slice k) ∧ t.sc = (answered s 32 0 .ok).sc ∧ t.mem = s.mem ∧ t.chans = s.chans := by
  have hw := wake_security s
  have hsame := (slice_modSlice_same (s.wake .security) sl f).trans (congrArg f (slice_wake s sl))
  have hother := fun k hk => (slice_modSlice_other (s.wake .security) sl k f hk).trans (slice_wake s k)
  have hsc : ((s.wake .security).tapOut 32 0 .ok).sc = (answered s 32 0 .ok).sc := congrArg State.sc (tapOut_wake s 32 0 .ok)
  exact ⟨hsame, hother, hsc, hw.mem, hw.chans⟩

/-! ### The accesses to a slice, each by its effect -/

section
variable (s : State) (sl : SliceId) (a : Fin 32768) (v : Byte) (pc : BitVec 18) (on : Bool)

theorem dbg_readScratch : s.dbg (.readScratch sl a) = s.onSlice sl true false (fun s => s.tapOut 8 (rd (s.slice sl).scratch a.val).toNat .ok) := rfl

theorem dbg_writeScratch : s.dbg (.writeScratch sl a v)
    = s.onSlice sl false true (fun s => (s.modSlice sl (fun x => { x with scratch := wr x.scratch a.val v })).tapOut 32 0 .ok) := rfl

theorem dbg_halt : s.dbg (.halt sl)
    = s.onSlice sl false false (fun s => (s.modSlice sl (fun x => { x with halted := true, stepping := false })).tapOut 32 0 .ok) := rfl

theorem dbg_release : s.dbg (.release sl)
    = s.onSlice sl false false (fun s => (s.modSlice sl (fun x => { x with halted := false, stepping := false })).tapOut 32 0 .ok) := rfl

theorem dbg_step : s.dbg (.step sl) = s.onSlice sl false false (fun s => (s.modSlice sl (fun x => { x with stepping := x.halted })).tapOut 32 0 .ok) := rfl

theorem dbg_breakpoint : s.dbg (.breakpoint sl pc on)
    = s.onSlice sl false false (fun s => (s.modSlice sl (fun x => { x with breaks := setBreak pc.toNat on x.breaks })).tapOut 32 0 .ok) := rfl

end

/-- The accesses that stand or fall with a slice's bank. -/
theorem dbg_onSlice (s : State) (sl : SliceId) (a : Fin 32768) (v : Byte) :
    ∀ o ∈ [DbgOp.readScratch sl a, .writeScratch sl a v, .halt sl, .release sl, .step sl], ∃ read write f, s.dbg o = s.onSlice sl read write f := by
  simp only [List.forall_mem_cons, List.not_mem_nil, false_implies, implies_true, and_true]
  exact ⟨⟨_, _, _, dbg_readScratch s sl a⟩, ⟨_, _, _, dbg_writeScratch s sl a v⟩, ⟨_, _, _, dbg_halt s sl⟩, ⟨_, _, _, dbg_release s sl⟩, ⟨_, _, _, dbg_step s sl⟩⟩

/-- Those of them that are writes or halts. -/
theorem dbg_onSlice_write (s : State) (sl : SliceId) (a : Fin 32768) (v : Byte) (pc : BitVec 18) (on : Bool) :
    ∀ o ∈ [DbgOp.writeScratch sl a v, .halt sl, .release sl, .step sl, .breakpoint sl pc on], ∃ write f, s.dbg o = s.onSlice sl false write f := by
  simp only [List.forall_mem_cons, List.not_mem_nil, false_implies, implies_true, and_true]
  exact ⟨⟨_, _, dbg_writeScratch s sl a v⟩, ⟨_, _, dbg_halt s sl⟩, ⟨_, _, dbg_release s sl⟩, ⟨_, _, dbg_step s sl⟩, ⟨_, _, dbg_breakpoint s sl pc on⟩⟩

/-! ## What the TAP shifts -/

theorem boundary_closed {s : State} (tdi : List Bool) (h : s.sc.level = 0 ∨ s.sc.level = 1) : s.boundary tdi = s.bypass tdi := by
  refine if_neg ?_
  rcases h with h | h <;> rw [h] <;> decide

/-- The fields of the code: the constant 1, the maker, the part and the stepping. -/
theorem idcode_bits (s : State) : s.idcode.testBit 0 = true ∧ (∀ i, i < 16 → s.idcode.testBit (12 + i) = (0x9A10).testBit i)
    ∧ ∀ i, i < 4 → s.idcode.testBit (28 + i) = s.fuses.stepping.toNat.testBit i := by
  have hmaker : Config.jep106.toNat < 2 ^ 11 := Config.jep106.isLt
  have hstep : s.fuses.stepping.toNat < 2 ^ 4 := s.fuses.stepping.isLt
  have hcode : s.idcode = 1 + Config.jep106.toNat * 2 + 0x9A10 * 4096 + s.fuses.stepping.toNat * 268435456 := rfl
  generalize s.idcode = n at hcode ⊢
  have hpart : n / 2 ^ 12 % 2 ^ 16 = 0x9A10 := by omega
  have hstepping : n / 2 ^ 28 = s.fuses.stepping.toNat := by omega
  refine ⟨?_, fun i hi => ?_, fun i _ => ?_⟩
  · rw [Nat.testBit_zero]
    exact decide_eq_true (by omega)
  · rw [← hpart, Nat.testBit_mod_two_pow, Nat.testBit_div_two_pow, Nat.add_comm i 12, decide_eq_true hi, Bool.true_and]
  · rw [← hstepping, Nat.testBit_div_two_pow, Nat.add_comm i 28]

/-- What shifting the code gives, bit by bit. -/
theorem idcode_shift (s : State) (i : Nat) (h : i < 32) : ((upFrom 0 32).map (fun i => s.idcode.testBit i))[i]? = some (s.idcode.testBit i) := by
  rw [List.getElem?_map, upFrom_getElem? 0 32 i h, Nat.zero_add]
  rfl

theorem scanShift_wake (s : State) (tdi : List Bool) :
    (s.wake .security).scanShift tdi
      = { s.wake .security with free := s.free + 1, sc := { s.sc with tdo := (upFrom 0 tdi.length).map (Config.scanBit (s.wake .security).free), tapStatus := .ok } } := by
  have hfree : (s.wake .security).free = s.free := by rw [(wake_security s).1]
  rw [← hfree, ← (wake_security s).sc]
  rfl

theorem exec_dbgScan {s : State} (d : Domain) (tdi : List Bool) (ht : s.tapRuns = true) (hp : s.powered = true) :
    exec (.dbgScan d tdi) s = .next (if s.sc.level ≠ 3 then answered s 32 0 .denied else if (s.dom d).state = .on then (s.wake .security).scanShift tdi
      else answered s 32 0 .notOn) := by
  show execDbgScan d tdi s = _
  unfold execDbgScan
  rw [if_neg (by simp [ht, hp])]
  dsimp only
  rw [level_wake, dom_state_wake, denied_wake, tapOut_wake]
  split
  · rfl
  · split <;> rfl

theorem not_tapRuns {s : State} (tdi : List Bool) (off : Nat) (bytes : List Byte) (addr : HostAddr) (op : DbgOp) (d : Domain) (h : s.tapRuns = false) :
    ∀ i ∈ [Instr.bypass tdi, .idcode, .extest tdi, .samplePreload tdi, .tapTokenLoad off bytes, .dbgObserve addr, .dbgAccess op, .dbgScan d tdi], unchanged (exec i s) s := by
  have hoff : ¬ s.tapRuns = true := by simp [h]
  have hoff' : ¬ (s.tapRuns && s.powered) = true := by simp [h]
  simp only [List.forall_mem_cons, List.not_mem_nil, false_implies, implies_true, and_true]
  exact ⟨if_neg hoff, if_neg hoff, if_neg hoff, if_neg hoff, if_neg hoff', if_neg hoff', if_neg hoff', if_pos (by simp [h])⟩

end Sys2Proof.DebugPort
end

section
namespace Sys2Proof.DebugPort
open Sys2Proof Sys2Proof.Machine Sys2Proof.Management

/-- Settles O53: every access answers on the woken state; the level, the channel's strictness, the power state and the lease decide between its effect and a refusal. -/
theorem debugAccess : Obligations.DebugAccess := by
  unfold Obligations.DebugAccess
  intro s tdi off bytes addr op d sl a v pc mpc on v32 data
  refine ⟨not_tapRuns tdi off bytes addr op d, fun h => ⟨_, if_pos h, rfl⟩, fun h => if_neg (by simp [h]), fun ht => ⟨⟨_, if_pos ht, rfl⟩, ?idcode, ?closed, ?opened⟩,
    fun ht hp => ⟨⟨_, if_pos (by simp [ht, hp]), rfl⟩, ?locked, ?low, ?hole, ?register, ?strict, ?off, ?retention, ?on, ?array, ?core, ?scanDenied, ?scanNotOn, ?scan⟩⟩
  case idcode =>
    obtain ⟨hone, hpart, hstepping⟩ := idcode_bits s
    refine ⟨_, if_pos ht, rfl, ?_, ?_, fun i hi => ?_, fun i hi => ?_⟩
    · exact (List.length_map _).trans (upFrom_length 0 32)
    · rw [List.head?_eq_getElem?]
      exact (idcode_shift s 0 (by decide)).trans (congrArg some hone)
    · exact (idcode_shift s (12 + i) (by omega)).trans (congrArg some (hpart i hi))
    · exact (idcode_shift s (28 + i) (by omega)).trans (congrArg some (hstepping i hi))
  case closed =>
    intro hl
    have hgo := boundary_closed tdi hl
    exact ⟨⟨_, if_pos ht, hgo⟩, ⟨_, if_pos ht, hgo⟩⟩
  case opened =>
    intro hl
    have hgo : s.boundary tdi = { s with sc := { s.sc with tdo := (upFrom 0 tdi.length).map (Config.scanBit s.free) }, free := s.free + 1 } := if_pos hl
    have hlen : ((upFrom 0 tdi.length).map (Config.scanBit s.free)).length = tdi.length := (List.length_map _).trans (upFrom_length 0 _)
    refine ⟨⟨_, if_pos ht, ?_⟩, ⟨_, if_pos ht, ?_⟩⟩ <;> rw [hgo] <;> exact ⟨rfl, hlen⟩
  case locked =>
    intro hl
    have hlow : (s.wake .security).sc.level = 0 := (level_wake s).trans hl
    have hobs := fun x => (observe_locked (x := x) hlow).trans (denied_wake s)
    refine ⟨⟨_, exec_dbgObserve addr ht hp, hobs _⟩, ⟨_, exec_dbgAccess op ht hp, ?_⟩⟩
    by_cases hop : ∃ r, op = .readReg r
    · obtain ⟨r, rfl⟩ := hop
      exact hobs _
    · exact (dbg_level (by rw [hlow]; decide) (fun r h => hop ⟨r, h⟩)).trans (denied_wake s)
  case low =>
    intro hl hop
    exact ⟨_, exec_dbgAccess op ht hp, (dbg_level (by rwa [level_wake]) hop).trans (denied_wake s)⟩
  case hole => exact fun h => ⟨_, exec_dbgObserve addr ht hp, (observe_hole h).trans (denied_wake s)⟩
  case register =>
    intro hl hv hx hpow
    have hgo := (observe_register hv (by rwa [level_wake]) hx (by rwa [targetPower_wake])).trans (tapOut_wake s 32 v32 .ok)
    exact ⟨⟨_, exec_dbgObserve addr ht hp, hgo⟩, ⟨_, exec_dbgAccess _ ht hp, hgo⟩⟩
  case strict =>
    intro hstrict
    have hgo : ∀ read write f, (s.wake .security).onSlice sl read write f = answered s 32 0 .denied := fun read write f => by
      rw [onSlice_wake, hstrict, invasive_strict, denied_wake]
    intro o ho
    obtain ⟨read, write, f, hf⟩ := dbg_onSlice (s.wake .security) sl a v o ho
    exact ⟨_, exec_dbgAccess o ht hp, hf.trans (hgo read write f)⟩
  case off =>
    rintro - hoff
    have hgo : ∀ read write f, (s.wake .security).onSlice sl read write f = answered s 32 0 .denied := fun read write f => by
      rw [onSlice_wake, hoff, invasive_off, denied_wake]
    intro o ho
    obtain ⟨read, write, f, hf⟩ := dbg_onSlice (s.wake .security) sl a v o ho
    exact ⟨_, exec_dbgAccess o ht hp, hf.trans (hgo read write f)⟩
  case retention =>
    rintro ⟨hl, hstrict⟩ hret
    have hgo : ∀ read write f, (s.wake .security).onSlice sl read write f = if read then answered s 32 0 .denied else answered s 32 0 .notOn := fun read write f => by
      rw [onSlice_wake, invasive_retention (by rwa [level_wake]) hstrict hret, denied_wake, tapOut_wake]
    refine ⟨⟨_, exec_dbgAccess _ ht hp, hgo true false (fun s => s.tapOut 8 (rd (s.slice sl).scratch a.val).toNat .ok)⟩, fun o ho => ?_⟩
    obtain ⟨write, f, hf⟩ := dbg_onSlice_write (s.wake .security) sl a v pc on o ho
    exact ⟨_, exec_dbgAccess o ht hp, hf.trans (hgo false write f)⟩
  case on =>
    rintro ⟨hl, hstrict⟩ hon
    have hgo : ∀ read write f, (s.wake .security).onSlice sl read write f
        = if write && (s.chan (slChan sl)).leased (slBank sl) then answered s 32 0 .leased else f (s.wake .security) := fun read write f => by
      rw [onSlice_wake, invasive_on (by rwa [level_wake]) hstrict hon, tapOut_wake]
    have hmod : ∀ o f, (s.wake .security).dbg o = (s.wake .security).onSlice sl false false (fun s => (s.modSlice sl f).tapOut 32 0 .ok) →
        exec (.dbgAccess o) s = .next (((s.wake .security).modSlice sl f).tapOut 32 0 .ok) := fun o f ho =>
      (exec_dbgAccess o ht hp).trans (congrArg Host.Outcome.next (ho.trans (hgo _ _ _)))
    have hread : (s.wake .security).dbg (.readScratch sl a) = answered s 8 (rd (s.slice sl).scratch a.val).toNat .ok := by
      rw [dbg_readScratch, hgo, Bool.false_and, if_neg Bool.false_ne_true, slice_wake, tapOut_wake]
    have hleased : (s.chan (slChan sl)).leased (slBank sl) = true → (s.wake .security).dbg (.writeScratch sl a v) = answered s 32 0 .leased := fun h => by
      rw [dbg_writeScratch, hgo, if_pos (by simp [h])]
    have hwrite : (s.chan (slChan sl)).leased (slBank sl) = false → (s.wake .security).dbg (.writeScratch sl a v)
        = ((s.wake .security).modSlice sl (fun x => { x with scratch := wr x.scratch a.val v })).tapOut 32 0 .ok := fun h => by
      rw [dbg_writeScratch, hgo, if_neg (by simp [h])]
    obtain ⟨hsame, hother, -, hmem, -⟩ := modSlice_answered s sl (fun x => { x with breaks := setBreak pc.toNat true x.breaks })
    refine ⟨⟨_, exec_dbgAccess _ ht hp, hread⟩, fun h => ⟨_, exec_dbgAccess _ ht hp, hleased h⟩,
      fun h => ⟨_, (exec_dbgAccess _ ht hp).trans (congrArg Host.Outcome.next (hwrite h)), modSlice_answered s sl _⟩,
      ⟨_, hmod (.halt sl) _ (dbg_halt _ sl), modSlice_answered s sl _⟩, ⟨_, hmod (.release sl) _ (dbg_release _ sl), modSlice_answered s sl _⟩,
      ⟨_, hmod (.step sl) _ (dbg_step _ sl), modSlice_answered s sl _⟩, ⟨_, hmod (.breakpoint sl pc true) _ (dbg_breakpoint _ sl pc true), ?_, hmem, hother⟩⟩
    rw [hsame]
    exact List.mem_append_right _ (List.mem_singleton.mpr rfl)
  case array =>
    intro hl hstrict hon
    refine ⟨_, exec_dbgAccess _ ht hp, ?_⟩
    show (s.wake .security).onData data.toNat false (fun s => s.tapOut 8 (rd s.mem data.toNat).toNat .ok) = answered s 8 (rd s.mem data.toNat).toNat .ok
    rw [State.onData, chan_wake]
    rw [invasive_on (by rwa [level_wake]) hstrict hon, Bool.false_and, if_neg Bool.false_ne_true, (wake_security s).mem, tapOut_wake]
  case core =>
    intro hl hon
    have hgo : ∀ f, (s.wake .security).onCore f = ((s.wake .security).modBoot f).tapOut 32 0 .ok := fun f =>
      (invasive_on (by rwa [level_wake]) rfl ((wake_security s).mgmtState.trans hon)).trans (if_neg Bool.false_ne_true)
    have hout : ∀ f, ((s.wake .security).modBoot f).tapOut 32 0 .ok
        = { answered s 32 0 .ok with mg := { (s.wake .security).mg with boot := f (s.wake .security).mg.boot } } := fun f => by
      rw [← tapOut_wake]
      rfl
    exact ⟨⟨_, exec_dbgAccess _ ht hp, (hgo _).trans (hout _)⟩, ⟨_, exec_dbgAccess _ ht hp, (hgo _).trans (hout _)⟩,
      ⟨_, exec_dbgAccess _ ht hp, (hgo id).trans (hout id)⟩, ⟨_, exec_dbgAccess _ ht hp, (hgo _).trans (hout _)⟩⟩
  case scanDenied => exact fun hl => ⟨_, exec_dbgScan d tdi ht hp, if_pos hl⟩
  case scanNotOn => exact fun hl hd => ⟨_, exec_dbgScan d tdi ht hp, (if_neg (by simp [hl])).trans (if_neg hd)⟩
  case scan =>
    intro hl hd
    refine ⟨_, exec_dbgScan d tdi ht hp, ?_⟩
    rw [if_neg (by simp [hl]), if_pos hd, scanShift_wake]
    exact ⟨rfl, (List.length_map _).trans (upFrom_length 0 _)⟩

end Sys2Proof.DebugPort
end

section
/-! SUPPORT. The sideband (16 R422, R423). -/
namespace Sys2Proof.Sideband
open Sys2Proof Sys2Proof.Machine Sys2Proof.SecEngine Sys2Proof.Management

/-- A good transaction has reached the module: the management core waits no longer. -/
def heard (s : State) : State := s.modBoot (fun b => { b with coreWait := false })

section
variable {s : State} {f : State → State}

theorem sbReady_heard : (heard s).sbReady = s.sbReady := rfl

theorem fwRuns_heard : (heard s).fwRuns = s.fwRuns := rfl

theorem sbReport_heard : (heard s).sbReport = s.sbReport := rfl

theorem certifies_heard : (heard s).certifies = s.certifies := rfl

theorem sideband_asleep (hp : s.powered = true) (hd : s.mg.mgmtDom.state ≠ .on) : s.sideband true f = (heard s).wake .management := by
  have hready : ¬ (heard s).sbReady = true := by
    rw [sbReady_heard, State.sbReady, hp, Bool.true_and, decide_eq_true_eq]
    exact hd
  unfold State.sideband
  rw [if_neg (by simp [hp])]
  exact if_neg hready

theorem sideband_ready (h : s.sbReady = true) : s.sideband true f = f (heard s) := by
  have hp : s.powered = true := (Bool.and_eq_true _ _ ▸ h).1
  unfold State.sideband
  rw [if_neg (by simp [hp])]
  exact if_pos h

theorem fwRuns_sbReady (h : s.fwRuns = true) : s.sbReady = true := by
  simp only [State.fwRuns, Bool.and_eq_true, decide_eq_true_eq] at h
  rw [State.sbReady, h.1.1, Bool.true_and]
  exact decide_eq_true h.1.2.2

theorem sbFirmware_idle (h : s.sbReady = true) (hf : s.fwRuns = false) : s.sbFirmware true f = (heard s).respond [4] :=
  (sideband_ready h).trans (if_neg (by simp [fwRuns_heard, hf]))

theorem sbFirmware_runs (h : s.fwRuns = true) : s.sbFirmware true f = f (heard s) := (sideband_ready (fwRuns_sbReady h)).trans (if_pos h)

end

theorem heard_respond (s : State) (bs : List Byte) :
    (heard s).respond bs = { s with mg := { s.mg with boot := { s.mg.boot with coreWait := false, sbOut := bs } } } := rfl

theorem modBoot_modBoot (s : State) (g h : BootSt → BootSt) : (s.modBoot g).modBoot h = s.modBoot (fun b => h (g b)) := rfl

theorem heard_modBoot_respond (s : State) (g : BootSt → BootSt) (bs : List Byte) :
    ((heard s).modBoot g).respond bs = { s with mg := { s.mg with boot := { g { s.mg.boot with coreWait := false } with sbOut := bs } } } := by
  rw [heard, State.respond, modBoot_modBoot, modBoot_modBoot]
  rfl

theorem heard_draw_respond (s : State) (n : Nat) (bs : List Byte) :
    ((heard s).draw n).2.respond bs = { s with mg := { s.mg with boot := { s.mg.boot with coreWait := false, sbOut := bs } }, free := s.free + 1 } := rfl

/-! ## Commands as transactions -/

/-- A command of the sideband, by its PEC. -/
def Transacts (i : Bool → Instr) (s : State) : Prop := ∃ f, ∀ p, exec (i p) s = .next (s.sideband p f)

/-- A command of the sideband that firmware serves. -/
def FirmwareServes (i : Bool → Instr) (s : State) : Prop := ∃ f, ∀ p, exec (i p) s = .next (s.sbFirmware p f)

theorem FirmwareServes.transacts {i : Bool → Instr} {s : State} (h : FirmwareServes i s) : Transacts i s := by
  obtain ⟨f, hf⟩ := h
  exact ⟨_, hf⟩

/-- The commands that firmware serves (Table 6). -/
theorem firmware_serves (s : State) (nonce : List Byte) (off : W16) (len count : Nat) (first : Byte) (c tfirst : W16) (k : PldmSensor) :
    ∀ i ∈ [fun p => Instr.attest p nonce, fun p => .attestRead p off len, fun p => .errlogRead p first count, fun p => .darnRead p c,
      fun p => .traceRead p tfirst count, fun p => .getSensorReading p k], FirmwareServes i s := by
  simp only [List.forall_mem_cons, List.not_mem_nil, false_implies, implies_true, and_true]
  exact ⟨⟨_, fun _ => rfl⟩, ⟨_, fun _ => rfl⟩, ⟨_, fun _ => rfl⟩, ⟨_, fun _ => rfl⟩, ⟨_, fun _ => rfl⟩, ⟨_, fun _ => rfl⟩⟩

/-- The commands that the boot ROM serves. -/
theorem rom_transacts (s : State) (off32 : W32) (off : W16) (bytes : List Byte) (eid ty : Byte) :
    ∀ i ∈ [fun p => Instr.getBootStatus p, fun p => .fwBegin p, fun p => .fwChunk p off32 bytes, fun p => .fwEnd p, fun p => .getChallenge p,
      fun p => .tokenLoad p off bytes, fun p => .tokenSubmit p, fun p => .setEndpointId p eid, fun p => .getEndpointId p, fun p => .getMctpVersionSupport p ty,
      fun p => .getMessageTypeSupport p, fun p => .getVendorMessageSupport p], Transacts i s := by
  simp only [List.forall_mem_cons, List.not_mem_nil, false_implies, implies_true, and_true]
  exact ⟨⟨_, fun _ => rfl⟩, ⟨_, fun _ => rfl⟩, ⟨_, fun _ => rfl⟩, ⟨_, fun _ => rfl⟩, ⟨_, fun _ => rfl⟩, ⟨_, fun _ => rfl⟩, ⟨_, fun _ => rfl⟩, ⟨_, fun _ => rfl⟩,
    ⟨_, fun _ => rfl⟩, ⟨_, fun _ => rfl⟩, ⟨_, fun _ => rfl⟩, ⟨_, fun _ => rfl⟩⟩

theorem Transacts.refused_asleep {i : Bool → Instr} {s : State} (h : Transacts i s) :
    unchanged (exec (i false) s) s ∧ (s.powered = true → s.mg.mgmtDom.state ≠ .on → ran (exec (i true) s) fun t => t = (heard s).wake .management) := by
  obtain ⟨f, hf⟩ := h
  exact ⟨hf false, fun hp hd => ⟨_, hf true, sideband_asleep hp hd⟩⟩

/-- A command of the boot ROM answers on the state that has heard it. -/
theorem ran_ready {c : Instr} {s : State} {f : State → State} {P : State → Prop} (hc : exec c s = .next (s.sideband true f)) (h : s.sbReady = true)
    (hP : P (f (heard s))) : ran (exec c s) P := ⟨_, hc, (sideband_ready (f := f) h).symm ▸ hP⟩

/-- So does a command of the firmware's. -/
theorem ran_firmware {c : Instr} {s : State} {f : State → State} {P : State → Prop} (hc : exec c s = .next (s.sbFirmware true f)) (h : s.fwRuns = true)
    (hP : P (f (heard s))) : ran (exec c s) P := ⟨_, hc, (sbFirmware_runs (f := f) h).symm ▸ hP⟩

theorem exec_setEndpointId {s : State} {eid : Byte} (h : s.sbReady = true) (h0 : eid ≠ 0) (hff : eid ≠ 0xFF) :
    exec (.setEndpointId true eid) s = .next (((heard s).modBoot (fun b => { b with eid := eid })).respond [0, 0, eid]) :=
  congrArg Host.Outcome.next ((sideband_ready h).trans (if_neg (not_or.mpr ⟨h0, hff⟩)))

/-! ## The delivery of an image -/

theorem fwBegin_waitImage {s : State} (h : s.mg.boot.phase = .waitImage) : s.fwBegin = (s.claim .smbus).respond [0] := by rw [State.fwBegin, h]

theorem fwBegin_loading {s : State} (h : s.mg.boot.phase = .loading) : s.fwBegin = s.respond [1] := by rw [State.fwBegin, h]

theorem fwBegin_closed {s : State} (h : s.mg.boot.phase = .closed) : s.fwBegin = s.respond [3, 2] := by rw [State.fwBegin, h]

theorem fwBegin_other {s : State} (h : s.mg.boot.phase = .hwInit ∨ s.mg.boot.phase = .verify ∨ s.mg.boot.phase = .running) : s.fwBegin = s.respond [4] := by
  unfold State.fwBegin
  rcases h with h | h | h <;> rw [h]

theorem fwChunk_refused {s : State} (off : Nat) (bs : List Byte) (h : s.mg.boot.phase ≠ .loading ∨ s.mg.boot.source ≠ .smbus) : s.fwChunk off bs = s.respond [4] :=
  if_pos (fun ⟨hphase, hsource⟩ => h.elim (· hphase) (· hsource))

theorem fwChunk_loading {s : State} (off : Nat) (bs : List Byte) (hp : s.mg.boot.phase = .loading) (hs : s.mg.boot.source = .smbus) :
    s.fwChunk off bs = if 1024 < bs.length then s.respond [2] else (s.slotWrite off bs).respond [0] := if_neg (not_not.mpr ⟨hp, hs⟩)

theorem fwChunk_stored {s : State} (off : Nat) (bs : List Byte) (hp : s.mg.boot.phase = .loading) (hs : s.mg.boot.source = .smbus) (hlen : bs.length ≤ 1024) :
    s.fwChunk off bs = { s with mg := { s.mg with boot :=
      { s.mg.boot with slot := wrL s.mg.boot.slot off (bs.take (0x70000 - off)), loadStart := s.refCount, sbOut := [0] } } } := by
  rw [fwChunk_loading off bs hp hs, if_neg (Nat.not_lt.mpr hlen), State.slotWrite, slotSize]
  rfl

/-- The end of a load over the sideband: the image waits for its verification. -/
theorem startVerify_idle {s : State} (hp : s.mg.boot.phase = .loading) (hq : s.sc.queue = []) (hw : s.mg.boot.coreWait = false) :
    s.startVerify.mg.boot = { s.mg.boot with phase := .verify } ∧ s.startVerify.sc.queue = [.firmware] := by
  have hgo : s.startVerify = requested (s.modBoot (fun b => { b with phase := .verify })) .firmware := (if_pos hp).trans (coreRequest_firmware hq)
  have hwoken := requested_woken (s.modBoot (fun b => { b with phase := .verify })) .firmware
  rw [hgo, hwoken.boot, hwoken.coreRuns hw, hwoken.sc]
  have hqueue : s.sc.queue ++ [SecReq.firmware] = [.firmware] := by rw [hq, List.nil_append]
  exact ⟨by rw [← hw]; rfl, hqueue⟩

/-! ## A token of the sideband's -/

/-- The engine as a token of the sideband's finds it. -/
def tokenHeard (s : State) : State := ((heard s).respond []).wake .security

theorem tokenHeard_woken (s : State) : Woken ((heard s).respond []) (tokenHeard s) := wake_security _

theorem tokenHeard_boot (s : State) : (tokenHeard s).mg.boot = { s.mg.boot with coreWait := false, sbOut := [] } := by
  have h := tokenHeard_woken s
  rw [h.boot, h.coreRuns rfl, heard_respond]

theorem tokenHeard_sc (s : State) : (tokenHeard s).sc = s.sc := (tokenHeard_woken s).sc

theorem tokenHeard_secOn (s : State) : (tokenHeard s).secOn = s.secOn := (tokenHeard_woken s).secOn

theorem submit_asleep {s : State} (sb : Bool) (h : s.secOn = false) : s.submit sb = submitted s sb :=
  secServe_off (s := submitted s sb) ((submitted_served s sb).secOn.trans h)

theorem tokenHeard_checkToken (s : State) (bs : List Byte) : (tokenHeard s).checkToken bs = s.checkToken bs := by
  rw [(tokenHeard_woken s).1, heard_respond]
  rfl

/-- A refused token answers with its code. -/
theorem submit_refused_boot {s : State} (hon : s.secOn = true) (hq : s.sc.queue = []) (hok : s.sc.tokenOk = false)
    (hc : s.checkToken (rdN s.sc.tokenBuf 0 5960) ≠ 0) (hw : s.mg.boot.coreWait = false) :
    (s.submit true).mg.boot = { s.mg.boot with sbOut := [3, BitVec.ofNat 8 (s.checkToken (rdN s.sc.tokenBuf 0 5960))] } := by
  have hsb : sbToken (submitted s true) = true := by rw [sbToken, submitted_queue hq]
  rw [submit_refused hon hq hok hc, tokenDone_refused _ (checkToken_ne_one _ _), if_pos hsb]
  have hserved : Served s (refused (submitted s true) (s.checkToken (rdN s.sc.tokenBuf 0 5960))) :=
    (submitted_served s true).trans ((((Served.modSc _ _).trans (.modSc _ _)).trans (.newChallenge _)).trans ((Served.modSc _ _).trans (.secEvent _ 1)))
  have hboot := hserved.boot
  rw [hserved.coreRuns hw] at hboot
  generalize refused (submitted s true) (s.checkToken (rdN s.sc.tokenBuf 0 5960)) = u at hboot
  show { u.mg.boot with sbOut := [3, BitVec.ofNat 8 (s.checkToken (rdN s.sc.tokenBuf 0 5960))] } = _
  rw [hboot, ← hw]

/-! ## What firmware answers -/

theorem coreRequest_level (s : State) (q : SecReq) : (s.coreRequest q).sc.level = s.sc.level := by
  rw [coreRequest_eq, (secServe_keeps _).1, requested_sc]

/-- A request made while the engine's domain is off waits there. -/
theorem coreRequest_asleep {s : State} (q : SecReq) (hoff : s.secOn = false) (hw : s.mg.boot.coreWait = false) :
    (s.coreRequest q).mg.boot = s.mg.boot ∧ (s.coreRequest q).sc = { s.sc with queue := s.sc.queue ++ [q] } := by
  have hwoken := requested_woken s q
  have hgo : s.coreRequest q = requested s q := secServe_off (s := requested s q) (hwoken.secOn.trans hoff)
  rw [hgo, hwoken.boot, hwoken.coreRuns hw]
  exact ⟨by rw [← hw]; rfl, hwoken.sc⟩

/-- What firmware does with a request for a report. -/
def attestAnswer (nonce : List Byte) (s : State) : State :=
  if nonce.length ≠ 32 then s.respond [2] else if s.sbReport then s.respond [1] else if !s.certifies then s.respond [3, 2]
  else (s.respond [0]).coreRequest (.report true nonce)

theorem exec_attest {s : State} (nonce : List Byte) (h : s.fwRuns = true) : exec (.attest true nonce) s = .next (attestAnswer nonce (heard s)) :=
  congrArg Host.Outcome.next (sbFirmware_runs h)

/-- Whatever becomes of it, the request changes no memory, fuse or level. -/
theorem attestAnswer_keeps (nonce : List Byte) (s : State) :
    (attestAnswer nonce s).mem = s.mem ∧ (attestAnswer nonce s).chans = s.chans ∧ (attestAnswer nonce s).fuses = s.fuses ∧ (attestAnswer nonce s).mram = s.mram := by
  unfold attestAnswer
  split
  · exact ⟨rfl, rfl, rfl, rfl⟩
  · split
    · exact ⟨rfl, rfl, rfl, rfl⟩
    · split
      · exact ⟨rfl, rfl, rfl, rfl⟩
      · obtain ⟨-, hchans, -, hmem, hfuses, hmram⟩ := coreRequest_keeps (s.respond [0]) (.report true nonce)
        exact ⟨hmem, hchans, hfuses, hmram⟩

theorem attestAnswer_level (nonce : List Byte) (s : State) : (attestAnswer nonce s).sc.level = s.sc.level := by
  unfold attestAnswer
  split
  · rfl
  · split
    · rfl
    · split
      · rfl
      · exact coreRequest_level (s.respond [0]) (.report true nonce)

/-- A sensor's reading while polling is shed. -/
theorem sensorReading_shed {s : State} (k : PldmSensor) (hl : 1 ≤ s.mg.boot.level) (hn : s.mg.boot.pollsShed + 1 < 0xFFFF) :
    s.sensorReading k = (s.modBoot (fun b => { b with pollsShed := b.pollsShed + 1 })).respond (0 :: 3 :: leBytes 4 (wrapNat (s.mg.boot.lastPolled k) 32)) := by
  have hcount : satInc s.mg.boot.pollsShed 0xFFFF = s.mg.boot.pollsShed + 1 := if_pos (by omega)
  unfold State.sensorReading
  rw [if_pos hl]
  dsimp only
  rw [noteSat_below _ _ _ _ (Nat.ne_of_lt hn), hcount]
  rfl

theorem pldmValue_keeps (s : State) (k : PldmSensor) : (s.pldmValue k).2.mg = s.mg ∧ (s.pldmValue k).2.mem = s.mem := by cases k <;> exact ⟨rfl, rfl⟩

theorem lastPolled_cons {b : BootSt} {k : PldmSensor} {v : Int} {l : List (PldmSensor × Int)} (h : b.polled = (k, v) :: l) : b.lastPolled k = v := by
  rw [BootSt.lastPolled, h, List.find?_cons_of_pos (by simp)]

/-- A sensor's reading, which becomes the last one polled. -/
theorem sensorReading_polled {s : State} (k : PldmSensor) (hl : s.mg.boot.level = 0) :
    (s.sensorReading k).mg = { s.mg with boot := { s.mg.boot with
        polled := (s.sensorReading k).mg.boot.polled, sbOut := 0 :: 0 :: leBytes 4 (wrapNat ((s.sensorReading k).mg.boot.lastPolled k) 32) } }
      ∧ (s.sensorReading k).mem = s.mem := by
  obtain ⟨hmg, hmem⟩ := pldmValue_keeps s k
  have hgo : s.sensorReading k = ((s.pldmValue k).2.modBoot (fun b => { b with polled := (k, (s.pldmValue k).1) :: b.polled.filter (fun e => e.1 ≠ k) })).respond
      (0 :: 0 :: leBytes 4 (wrapNat (s.pldmValue k).1 32)) := if_neg (by rw [hl]; decide)
  have hpolled : (s.sensorReading k).mg.boot.polled = (k, (s.pldmValue k).1) :: (s.pldmValue k).2.mg.boot.polled.filter (fun e => e.1 ≠ k) := by
    rw [hgo]
    rfl
  rw [lastPolled_cons hpolled, hgo]
  generalize s.pldmValue k = r at hmg hmem ⊢
  refine ⟨?_, hmem⟩
  simp only [State.respond, State.modBoot, hmg]

end Sys2Proof.Sideband
end

section
namespace Sys2Proof.Sideband
open Sys2Proof Sys2Proof.Machine Sys2Proof.SecEngine Sys2Proof.Management

/-- Settles O52: a transaction acts on the state that has heard it; each command of the boot ROM's and of the firmware's then answers by its own lemma. -/
theorem sideband : Obligations.Sideband := by
  unfold Obligations.Sideband
  intro s off32 off bytes nonce len count first c tfirst eid ty k
  refine ⟨fun i hi => ?every, fun hready hfw i hi => ?idle, fun hready => ⟨ran_ready rfl hready (heard_respond s _), ?beginWait, ?beginLoading, ?beginClosed, ?beginOther, ?chunkPhase, ?chunkLong, ?chunk,
    ?endPhase, ?ends, ran_ready rfl hready (heard_respond s _), ?loadLong, ?load, ?submitAsleep, ?submitAccepted, ?submitRefused, ?eidBad, ?eid, ran_ready rfl hready (heard_respond s _), ?mctp,
    ran_ready rfl hready (heard_respond s _), ran_ready rfl hready (heard_respond s _)⟩, fun hfw => ⟨?nonceBad, ?attestBusy, ?attestBarred, ?attestFrame, ?attestQueued, ?readLong, ?readBusy, ?read, ?errBad, ?err, ?darnBad, ?darn,
    ?traceBad, ?trace, ?polled, ?shed⟩⟩
  case every =>
    refine Transacts.refused_asleep ?_
    rcases List.mem_append.mp hi with hi | hi
    · exact (firmware_serves s nonce off len count first c tfirst k i hi).transacts
    · exact rom_transacts s off32 off bytes eid ty i hi
  case idle =>
    obtain ⟨f, hf⟩ := firmware_serves s nonce off len count first c tfirst k i hi
    exact ⟨_, hf true, sbFirmware_idle hready hfw⟩
  case beginWait => exact fun hp => ran_ready rfl hready ((fwBegin_waitImage (s := heard s) hp).trans (heard_modBoot_respond s _ [0]))
  case beginLoading => exact fun hp => ran_ready rfl hready ((fwBegin_loading (s := heard s) hp).trans (heard_respond s _))
  case beginClosed => exact fun hp => ran_ready rfl hready ((fwBegin_closed (s := heard s) hp).trans (heard_respond s _))
  case beginOther => exact fun hp => ran_ready rfl hready ((fwBegin_other (s := heard s) hp).trans (heard_respond s _))
  case chunkPhase => exact fun h => ran_ready rfl hready ((fwChunk_refused (s := heard s) off32.toNat bytes h).trans (heard_respond s _))
  case chunkLong => exact fun hp hs hlen => ran_ready rfl hready ((fwChunk_loading (s := heard s) off32.toNat bytes hp hs).trans ((if_pos hlen).trans (heard_respond s _)))
  case chunk => exact fun hp hs hlen => ran_ready rfl hready (fwChunk_stored (s := heard s) off32.toNat bytes hp hs hlen)
  case endPhase => exact fun hp => ran_ready rfl hready ((if_neg hp).trans (heard_respond s _))
  case ends =>
    intro hp hq
    obtain ⟨hboot, hqueue⟩ := startVerify_idle (s := heard s) hp hq rfl
    refine ⟨(heard s).startVerify.respond [0], congrArg Host.Outcome.next ((sideband_ready hready).trans (if_pos hp)), ?_, hqueue⟩
    exact congrArg (fun b : BootSt => { b with sbOut := [0] }) hboot
  case loadLong => exact fun h => ran_ready rfl hready ((if_pos h).trans (heard_respond s _))
  case load =>
    intro h
    refine ⟨((heard s).tokenLoad off.toNat bytes).respond [0], congrArg Host.Outcome.next ((sideband_ready hready).trans (if_neg (Nat.not_lt.mpr h))), rfl, rfl⟩
  case submitAsleep =>
    intro hoff
    have hgo : (tokenHeard s).submit true = submitted (tokenHeard s) true := submit_asleep true ((tokenHeard_secOn s).trans hoff)
    refine ⟨(tokenHeard s).submit true, congrArg Host.Outcome.next (sideband_ready hready), ?_⟩
    rw [hgo]
    refine ⟨tokenHeard_boot s, ?_⟩
    show { (tokenHeard s).sc with queue := (tokenHeard s).sc.queue ++ [SecReq.token (rdN (tokenHeard s).sc.tokenBuf 0 tokenSize) true], busy := true } = _
    rw [tokenHeard_sc]
    rfl
  case submitAccepted =>
    intro hon hq hok hc
    rw [← tokenHeard_sc s] at hq hok hc ⊢
    rw [← tokenHeard_secOn] at hon
    rw [← tokenHeard_checkToken] at hc
    refine ⟨(tokenHeard s).submit true, congrArg Host.Outcome.next (sideband_ready hready), ?_, submit_accepted_sc hon hq hok hc⟩
    rw [submit_accepted hon hq hok hc]
    exact tokenHeard_boot s
  case submitRefused =>
    intro hon hq hok hc
    rw [← tokenHeard_sc s] at hq hok hc ⊢
    rw [← tokenHeard_secOn] at hon
    rw [← tokenHeard_checkToken] at hc ⊢
    have hsc := submit_refused_sc (sb := true) hon hq hok hc
    have hboot := submit_refused_boot hon hq hok hc (congrArg BootSt.coreWait (tokenHeard_boot s))
    have hserved := submit_served (tokenHeard s) true
    have hwoken := tokenHeard_woken s
    have hresult : ((tokenHeard s).submit true).sc.result = (tokenHeard s).checkToken (rdN (tokenHeard s).sc.tokenBuf 0 5960) := by rw [hsc]
    have hqueue : ((tokenHeard s).submit true).sc.queue = [] := by
      rw [hsc]
      exact hq
    rw [tokenHeard_boot] at hboot
    refine ⟨(tokenHeard s).submit true, congrArg Host.Outcome.next (sideband_ready hready), hqueue, hresult, hboot, hserved.fuses.trans hwoken.fuses,
      hserved.mram.trans hwoken.mram⟩
  case eidBad => exact fun h => ran_ready rfl hready ((if_pos h).trans (heard_respond s _))
  case eid => exact fun h0 hff => ⟨_, exec_setEndpointId hready h0 hff, heard_modBoot_respond s _ _⟩
  case mctp =>
    refine ran_ready rfl hready ?_
    dsimp only
    split
    · rw [heard_draw_respond]
      exact ⟨rfl, rfl, rfl, rfl⟩
    · rw [heard_respond]
      exact ⟨rfl, rfl, rfl, rfl⟩
  case nonceBad => exact fun h => ⟨_, exec_attest nonce hfw, (if_pos h).trans (heard_respond s _)⟩
  case attestBusy => exact fun h hb => ⟨_, exec_attest nonce hfw, (if_neg (not_not.mpr h)).trans ((if_pos hb).trans (heard_respond s _))⟩
  case attestBarred => exact fun h hb hc => ⟨_, exec_attest nonce hfw, (if_neg (not_not.mpr h)).trans ((if_neg (by simp [sbReport_heard, hb])).trans ((if_pos (by simp [certifies_heard, hc])).trans (heard_respond s _)))⟩
  case attestFrame =>
    obtain ⟨hmem, hchans, hfuses, hmram⟩ := attestAnswer_keeps nonce (heard s)
    exact ⟨_, exec_attest nonce hfw, hmem, hchans, hfuses, hmram, attestAnswer_level nonce (heard s)⟩
  case attestQueued =>
    intro h hc hoff hb
    have hgo : attestAnswer nonce (heard s) = ((heard s).respond [0]).coreRequest (.report true nonce) := (if_neg (not_not.mpr h)).trans ((if_neg (by simp [sbReport_heard, hb])).trans (if_neg (by simp [certifies_heard, hc])))
    refine ⟨_, exec_attest nonce hfw, ?_⟩
    rw [hgo, heard_respond]
    exact coreRequest_asleep _ hoff rfl
  case readLong => exact fun h => ran_firmware rfl hfw ((if_pos h).trans (heard_respond s _))
  case readBusy => exact fun h hb => ran_firmware rfl hfw ((if_neg (Nat.not_lt.mpr h)).trans ((if_pos hb).trans (heard_respond s _)))
  case read => exact fun h hb => ran_firmware rfl hfw ((if_neg (Nat.not_lt.mpr h)).trans ((if_neg (fun h' => Bool.false_ne_true (hb.symm.trans h'))).trans (heard_respond s _)))
  case errBad => exact fun h => ran_firmware rfl hfw ((if_pos h).trans (heard_respond s _))
  case err => exact fun h0 h16 h256 => ran_firmware rfl hfw ((if_neg (not_or.mpr ⟨h0, not_or.mpr ⟨Nat.not_lt.mpr h16, Nat.not_lt.mpr h256⟩⟩)).trans (heard_respond s _))
  case darnBad => exact fun h => ran_firmware rfl hfw ((if_pos h).trans (heard_respond s _))
  case darn => exact fun h => ran_firmware rfl hfw ((if_neg (Nat.not_le.mpr h)).trans (heard_respond s _))
  case traceBad => exact fun h => ran_firmware rfl hfw ((if_pos h).trans (heard_respond s _))
  case trace => exact fun h0 h64 h4096 => ran_firmware rfl hfw ((if_neg (not_or.mpr ⟨h0, not_or.mpr ⟨Nat.not_lt.mpr h64, Nat.not_lt.mpr h4096⟩⟩)).trans (heard_respond s _))
  case polled => exact fun hl => ran_firmware rfl hfw (sensorReading_polled (s := heard s) k hl)
  case shed => exact fun hl hn => ran_firmware rfl hfw ((sensorReading_shed (s := heard s) k hl hn).trans (heard_modBoot_respond s _ _))

end Sys2Proof.Sideband
end

section
/-! SUPPORT. What the stages of a boot leave alone (16 R408, R409): frames for the darning merge, the security engine's start and the end. -/
namespace Sys2Proof.BootStages
open Sys2Proof Sys2Proof.Machine Sys2Proof.SecEngine

/-- A boot has gone on: its clocks, pins and causes, the slices, and every fuse but the blocks of identity indices stand. -/
structure Frame (s t : State) : Prop where
  state : t = { s with chans := t.chans, mem := t.mem, checkDiff := t.checkDiff, mg := t.mg, sc := t.sc, fuses := t.fuses, mram := t.mram, free := t.free }
  mg : t.mg = { s.mg with
    alert := t.mg.alert, events := t.mg.events, mgmtDom := t.mg.mgmtDom, darnGen := t.mg.darnGen, darnDigest := t.mg.darnDigest, boot := t.mg.boot }
  boot : t.mg.boot = { s.mg.boot with
    stage := t.mg.boot.stage, phase := t.mg.boot.phase, channelsReady := t.mg.boot.channelsReady, zeroPending := t.mg.boot.zeroPending
    skipped := t.mg.boot.skipped, coreWait := t.mg.boot.coreWait, sbOut := t.mg.boot.sbOut }
  mgmtDom : s.mg.mgmtDom = .zero → t.mg.mgmtDom = .zero
  fuses : t.fuses = { s.fuses with idBlocks := t.fuses.idBlocks }
  idBlocks : s.fuses.idBlocks ≤ t.fuses.idBlocks

namespace Frame
variable {s t u : State}

theorem refl (s : State) : Frame s s := ⟨rfl, rfl, rfl, id, rfl, Nat.le_refl _⟩

theorem trans (h : Frame s t) (h' : Frame t u) : Frame s u where
  state := by rw [h'.state, h.state]
  mg := by rw [h'.mg, h.mg]
  boot := by rw [h'.boot, h.boot]
  mgmtDom := h'.mgmtDom ∘ h.mgmtDom
  fuses := by rw [h'.fuses, h.fuses]
  idBlocks := h.idBlocks.trans h'.idBlocks

/-- What the security engine does is within a boot's frame. -/
theorem served (h : Served s t) : Frame s t where
  state := by rw [h.1]
  mg := by rw [h.2.1]
  boot := by rw [h.boot]
  mgmtDom := h.mgmtDom
  fuses := by rw [h.fuses]
  idBlocks := Nat.le_of_eq (congrArg Fuses.idBlocks h.fuses).symm

theorem slices (h : Frame s t) : t.slices = s.slices := by rw [h.state]
theorem pins (h : Frame s t) : t.pins = s.pins := by rw [h.state]
theorem keeps (h : Frame s t) : t.mg.boot.keeps = s.mg.boot.keeps := by
  rw [h.boot]
  rfl

theorem clocks (h : Frame s t) : t.refCount = s.refCount ∧ t.master = s.master := by
  rw [h.state]
  exact ⟨rfl, rfl⟩

end Frame

/-- Nor has the lifecycle in force or the boot count changed. -/
structure Kept (s t : State) : Prop where
  frame : Frame s t
  lifecycle : t.sc.lifecycleNow = s.sc.lifecycleNow
  bootCount : t.mram.bootCount = s.mram.bootCount

namespace Kept
variable {s t u : State}

theorem refl (s : State) : Kept s s := ⟨.refl s, rfl, rfl⟩

theorem trans (h : Kept s t) (h' : Kept t u) : Kept s u := ⟨h.frame.trans h'.frame, h'.lifecycle.trans h.lifecycle, h'.bootCount.trans h.bootCount⟩

/-- A fold of steps, each within the frame. -/
theorem foldl {α : Type} {f : State → α → State} (hf : ∀ s a, Kept s (f s a)) (l : List α) (s : State) : Kept s (l.foldl f s) := by
  induction l generalizing s with
  | nil => exact refl s
  | cons a l ih => exact (hf s a).trans (ih (f s a))

theorem served (h : Served s t) (hl : t.sc.lifecycleNow = s.sc.lifecycleNow) : Kept s t := ⟨.served h, hl, congrArg Mram.bootCount h.mram⟩

theorem modChan (s : State) (c : Nat) (f : Channel → Channel) : Kept s (s.modChan c f) := ⟨⟨rfl, rfl, rfl, id, rfl, Nat.le_refl _⟩, rfl, rfl⟩

theorem putMem (s : State) (m : Memory) (n : Nat) : Kept s { s with mem := m, free := n } := ⟨⟨rfl, rfl, rfl, id, rfl, Nat.le_refl _⟩, rfl, rfl⟩

theorem putArrays (s : State) (m : Memory) (d : Table W32) : Kept s { s with mem := m, checkDiff := d } := ⟨⟨rfl, rfl, rfl, id, rfl, Nat.le_refl _⟩, rfl, rfl⟩

theorem setDiff (s : State) (blk : Nat) (d : W32) : Kept s (s.setDiff blk d) := ⟨⟨rfl, rfl, rfl, id, rfl, Nat.le_refl _⟩, rfl, rfl⟩

theorem putRepairs (s : State) (l : List Repair) : Kept s { s with mram := { s.mram with repairs := l } } := ⟨⟨rfl, rfl, rfl, id, rfl, Nat.le_refl _⟩, rfl, rfl⟩

theorem putPhase (s : State) (p : BootPhase) : Kept s (s.modBoot (fun b => { b with phase := p })) := ⟨⟨rfl, rfl, rfl, id, rfl, Nat.le_refl _⟩, rfl, rfl⟩

theorem putStage (s : State) (n : Nat) : Kept s (s.modBoot (fun b => { b with stage := n })) := ⟨⟨rfl, rfl, rfl, id, rfl, Nat.le_refl _⟩, rfl, rfl⟩

theorem ready (s : State) : Kept s (s.modBoot (fun b => { b with stage := 4, zeroPending := false, channelsReady := true })) :=
  ⟨⟨rfl, rfl, rfl, id, rfl, Nat.le_refl _⟩, rfl, rfl⟩

theorem digest (s : State) (g n : Nat) (d : List Byte) :
    Kept s ((s.modMg (fun m => { m with darnGen := g, darnDigest := d })).modBoot (fun b => { b with skipped := n })) :=
  ⟨⟨rfl, rfl, rfl, id, rfl, Nat.le_refl _⟩, rfl, rfl⟩

theorem alert (s : State) (bit : Nat) (e : ErrRec) : Kept s (s.alert bit e) := served (.alert s bit e) rfl

theorem modSc (s : State) (f : SecSt → SecSt) (h : (f s.sc).lifecycleNow = s.sc.lifecycleNow) : Kept s (s.modSc f) := served (.modSc s f) h

theorem secEvent (s : State) (code : Nat) : Kept s (s.secEvent code) := served (.secEvent s code) (by rw [secEvent_sc])

theorem newChallenge (s : State) : Kept s s.newChallenge := served (.newChallenge s) rfl

theorem wantSession (s : State) : Kept s s.wantSession := by
  unfold State.wantSession
  split
  · exact modSc s _ rfl
  · exact refl s

end Kept

/-! ## The darning merge -/

theorem addRepair_kept (s : State) (k : RepairKind) (c b target : Nat) : Kept s (s.addRepair k c b target) := by
  unfold State.addRepair
  dsimp only
  split
  · exact .putRepairs s _
  · exact .alert s _ _

theorem copyRow_kept (s : State) (c b row : Nat) : Kept s (s.copyRow c b row) := .modChan s _ _

theorem putBlocks_kept (g : Nat → State → W32) (h : Nat → Nat) (l : List Nat) (s : State) : Kept s (l.foldl (fun s i => s.setDiff (h i) (g i s)) s) :=
  .foldl (fun t _ => .setDiff t _ _) l s

theorem enableRow_kept (s : State) (c b row : Nat) : Kept s (s.enableRow c b row) := by
  unfold State.enableRow
  extract_lets p k a x u v
  have hu : Kept s u := .modChan s _ _
  have hv : Kept u v := .putMem u (wrL u.mem a x.data) u.free
  exact (hu.trans hv).trans (putBlocks_kept (fun i t => x.checks.getD i 0 ^^^ crc32c (t.blockData (a / 64 + i))) (fun i => a / 64 + i) _ v)

theorem record_kept (m : MergeSt) (r : Repair) : Kept m.s (m.record r).s := by
  unfold MergeSt.record
  split
  · exact .refl _
  · dsimp only
    split
    · split
      · exact (copyRow_kept m.s r.channel r.bank r.target).trans (enableRow_kept (m.s.copyRow r.channel r.bank r.target) r.channel r.bank r.target)
      · exact .refl _
    · split
      · exact .modChan m.s _ _
      · exact .refl _
    · split
      · exact .refl _
      · exact .modChan m.s _ _

theorem failed_kept (m : MergeSt) (c p q : Nat) : Kept m.s (m.failed c p q).s := by
  unfold MergeSt.failed
  dsimp only
  split
  · exact .refl _
  · split
    · exact .refl _
    · split
      · exact (Kept.modChan m.s _ _).trans (addRepair_kept _ _ _ _ _)
      · split
        · exact .refl _
        · exact (Kept.modChan m.s _ _).trans (addRepair_kept _ _ _ _ _)

/-- A fold of steps of the merge. -/
theorem merge_foldl {α : Type} {f : MergeSt → α → MergeSt} (hf : ∀ m a, Kept m.s (f m a).s) (l : List α) (m : MergeSt) : Kept m.s (l.foldl f m).s := by
  induction l generalizing m with
  | nil => exact .refl _
  | cons a l ih => exact (hf m a).trans (ih (f m a))

theorem channel_kept (m : MergeSt) (c : Nat) : Kept m.s (m.channel c).s := merge_foldl (fun m _ => merge_foldl (fun m _ => failed_kept m c _ _) _ m) _ m

theorem goOffline_kept (s : State) (c : Nat) : Kept s (s.goOffline c) := (Kept.modChan s c _).trans (.alert _ _ _)

theorem scramble_kept (s : State) (c b : Nat) : Kept s (s.scramble c b) := by
  unfold State.scramble
  extract_lets a n u
  have hu : Kept s u := .putMem s (wrL s.mem a ((upFrom 0 (2 ^ 24)).map (Config.freeByte n))) (n + 2)
  exact hu.trans (putBlocks_kept (fun i _ => BitVec.ofNat 32 (leNat ((upFrom (4 * i) 4).map (Config.freeByte (n + 1))))) (fun i => a / 64 + i) _ u)

/-! ### The merge by its steps -/

/-- A channel as the boot's sweeps find it. -/
def swept (sweeps : List (Nat × List LaneTaps)) (s : State) (c : Nat) (ch : Channel) : Channel :=
  let ch := (tget s.fuses.maps c .plain).load ch
  { ch with train := (TrainSt.sweep { ch.train with phase := .none, lostTaps := none } ((sweeps.filter (fun e => decide (e.1 = c))).flatMap (fun e => e.2))).steer }

/-- The channels with their maps loaded and swept. -/
def loaded (sweeps : List (Nat × List LaneTaps)) (s : State) : State := (upFrom 0 512).foldl (fun s c => s.modChan c (swept sweeps s c)) s

/-- The repair records merged, then what the sweeps failed. -/
def merged (s : State) : MergeSt := (upFrom 0 512).foldl MergeSt.channel (s.mram.repairs.foldl MergeSt.record ⟨s, [], 0, 0⟩)

/-- The channels without a full set offline. -/
def offlined (m : MergeSt) : State :=
  (upFrom 0 512).foldl (fun s c => if (s.chan c).train.tsvOver || m.bad.any (fun e => e.1 = c) then s.goOffline c else s) m.s

/-- The banks that have moved hold free contents. -/
def movedFree (old : Nat → Nat → Nat) (s : State) : State :=
  (upFrom 0 512).foldl (fun s c => (upFrom 0 128).foldl (fun s b =>
    if !s.mg.boot.keeps || decide (old c b = ((s.chan c).darnOf b).physBank) then s else s.scramble c b) s) s

/-- The generation and the digest of the map. -/
def digested (m : MergeSt) (s : State) : State :=
  (s.modMg (fun g => { g with darnGen := m.gen, darnDigest := shake256 ((upFrom 0 512).flatMap (fun c => (s.chan c).darnBytes)) })).modBoot
    (fun b => { b with skipped := m.skipped })

theorem darn_eq (s : State) (sweeps : List (Nat × List LaneTaps)) : s.darn sweeps
    = digested (merged (loaded sweeps s)) (movedFree (fun c b => ((s.chan c).darnOf b).physBank) (offlined (merged (loaded sweeps s)))) := by
  unfold State.darn digested movedFree offlined merged loaded swept
  rfl

theorem loaded_kept (sweeps : List (Nat × List LaneTaps)) (s : State) : Kept s (loaded sweeps s) := .foldl (fun t c => Kept.modChan t c _) _ s

theorem merged_kept (s : State) : Kept s (merged s).s :=
  (merge_foldl record_kept s.mram.repairs ⟨s, [], 0, 0⟩).trans (merge_foldl channel_kept (upFrom 0 512) _)

theorem offlined_kept (m : MergeSt) : Kept m.s (offlined m) := by
  refine .foldl (fun t c => ?_) (upFrom 0 512) m.s
  split
  · exact goOffline_kept t c
  · exact .refl t

theorem movedFree_kept (old : Nat → Nat → Nat) (s : State) : Kept s (movedFree old s) := by
  refine .foldl (fun t c => .foldl (fun t b => ?_) (upFrom 0 128) t) (upFrom 0 512) s
  split
  · exact .refl t
  · exact scramble_kept t c b

theorem darn_kept (s : State) (sweeps : List (Nat × List LaneTaps)) : Kept s (s.darn sweeps) := by
  have hloaded := loaded_kept sweeps s
  rw [darn_eq]
  generalize loaded sweeps s = u at hloaded
  have hmerged := merged_kept u
  generalize merged u = m at hmerged
  exact ((hloaded.trans hmerged).trans (offlined_kept m)).trans ((movedFree_kept _ _).trans (.digest _ _ _ _))

/-! ## The security engine's start -/

/-- The channels, their arrays and the repair records are as they were. -/
structure Arrays (s t : State) : Prop where
  chans : t.chans = s.chans
  mem : t.mem = s.mem
  checkDiff : t.checkDiff = s.checkDiff
  repairs : t.mram.repairs = s.mram.repairs

namespace Arrays
variable {s t u : State}

theorem refl (s : State) : Arrays s s := ⟨rfl, rfl, rfl, rfl⟩

theorem trans (h : Arrays s t) (h' : Arrays t u) : Arrays s u :=
  ⟨h'.chans.trans h.chans, h'.mem.trans h.mem, h'.checkDiff.trans h.checkDiff, h'.repairs.trans h.repairs⟩

theorem served (h : Served s t) : Arrays s t := ⟨h.chans, h.mem, h.checkDiff, congrArg Mram.repairs h.mram⟩

end Arrays

/-- A step of the security engine at boot, which touches no channel. -/
structure Secured (s t : State) : Prop where
  kept : Kept s t
  arrays : Arrays s t

namespace Secured
variable {s t u : State}

theorem refl (s : State) : Secured s s := ⟨.refl s, .refl s⟩

theorem trans (h : Secured s t) (h' : Secured t u) : Secured s u := ⟨h.kept.trans h'.kept, h.arrays.trans h'.arrays⟩

theorem putIndex (s : State) (n : Nat) : Secured s (s.modMram (fun m => { m with nextIndex := n })) :=
  ⟨⟨⟨rfl, rfl, rfl, id, rfl, Nat.le_refl _⟩, rfl, rfl⟩, ⟨rfl, rfl, rfl, rfl⟩⟩

theorem dropInstalled (s : State) : Secured s (s.modMram (fun m => { m with installed := none })) :=
  ⟨⟨⟨rfl, rfl, rfl, id, rfl, Nat.le_refl _⟩, rfl, rfl⟩, ⟨rfl, rfl, rfl, rfl⟩⟩

theorem addBlock (s : State) : Secured s (s.modFuses (fun f => { f with idBlocks := f.idBlocks + 1 })) :=
  ⟨⟨⟨rfl, rfl, rfl, id, rfl, Nat.le_succ _⟩, rfl, rfl⟩, ⟨rfl, rfl, rfl, rfl⟩⟩

theorem modSc (s : State) (f : SecSt → SecSt) (h : (f s.sc).lifecycleNow = s.sc.lifecycleNow) : Secured s (s.modSc f) := ⟨.modSc s f h, .served (.modSc s f)⟩

theorem secEvent (s : State) (code : Nat) : Secured s (s.secEvent code) := ⟨.secEvent s code, .served (.secEvent s code)⟩

theorem newChallenge (s : State) : Secured s s.newChallenge := ⟨.newChallenge s, .served (.newChallenge s)⟩

theorem wantSession (s : State) : Secured s s.wantSession := ⟨.wantSession s, .served (.wantSession s)⟩

end Secured

theorem reserveBlock_secured (s : State) (bl : List Bool) : Secured s (s.reserveBlock bl).s := by
  unfold State.reserveBlock
  split
  · exact (Secured.addBlock s).trans (.secEvent _ _)
  · exact .secEvent s _

theorem indexChecked_secured (s : State) (ok : Bool) (blows : List Bool) : Secured s (s.indexChecked ok blows) := by
  unfold State.indexChecked
  dsimp only
  have hindex : Secured s ((s.modMram (fun m => { m with nextIndex := 1024 * s.fuses.idBlocks })).secEvent 6) := (Secured.putIndex s _).trans (.secEvent _ _)
  split
  · exact .refl s
  · split
    · exact hindex.trans (.secEvent _ _)
    · exact hindex.trans (reserveBlock_secured _ _)

theorem unlock_secured (s : State) (level : Nat) : Secured s (s.unlock level) := by
  unfold State.unlock
  dsimp only
  have hlevel : Secured s ((s.modSc (fun x => { x with level := BitVec.ofNat 2 (max x.level.toNat level), max := BitVec.ofNat 2 (max x.max.toNat level) })).secEvent 4) :=
    (Secured.modSc s _ rfl).trans (.secEvent _ _)
  split
  · exact ((hlevel.trans (.modSc _ _ rfl)).trans (.secEvent _ _)).trans (.wantSession _)
  · exact hlevel

theorem applyInstalled_secured (s : State) (ok : Bool) : Secured s (s.applyInstalled ok) := by
  unfold State.applyInstalled
  split
  · exact .refl s
  · split
    · exact .secEvent s _
    · split
      · exact .dropInstalled s
      · exact unlock_secured s _

/-- The lifecycle in force is read from the fuses. -/
def lifecycleRead (s : State) : State := s.modSc (fun x => { x with lifecycleNow := BitVec.ofNat 4 (lifecycleCode s.fuses.lifecycle) })

theorem bootCounted_frame (s : State) (ok : Bool) : Frame s (s.bootCounted ok) := by
  unfold State.bootCounted
  split
  · exact ⟨rfl, rfl, rfl, id, rfl, Nat.le_refl _⟩
  · have hreset : Frame s (s.modMram (fun m => { m with bootCount := 1, installed := none })) := ⟨rfl, rfl, rfl, id, rfl, Nat.le_refl _⟩
    exact hreset.trans (.served (.secEvent _ _))

theorem bootCounted_arrays (s : State) (ok : Bool) : Arrays s (s.bootCounted ok) := by
  unfold State.bootCounted
  split
  · exact ⟨rfl, rfl, rfl, rfl⟩
  · have hreset : Arrays s (s.modMram (fun m => { m with bootCount := 1, installed := none })) := ⟨rfl, rfl, rfl, rfl⟩
    exact hreset.trans (.served (.secEvent _ _))

theorem bootCounted_lifecycle (s : State) (ok : Bool) : (s.bootCounted ok).sc.lifecycleNow = s.sc.lifecycleNow := by
  unfold State.bootCounted
  split
  · rfl
  · rw [secEvent_sc]
    rfl

theorem bootCounted_count (s : State) (ok : Bool) :
    (s.bootCounted ok).mram.bootCount = if ok && !s.fuses.secretDisable then (s.mram.bootCount + 1) % 2 ^ 32 else 1 := by
  unfold State.bootCounted
  split
  · rfl
  · rw [(Served.secEvent _ _).mram]
    rfl

theorem bootSecurity_secured (s : State) (env : BootEnv) : Secured ((lifecycleRead s).bootCounted env.bootRecordOk) (s.bootSecurity env) := by
  have hgo : s.bootSecurity env = ((if ((lifecycleRead s).bootCounted env.bootRecordOk).certifies then
      (((lifecycleRead s).bootCounted env.bootRecordOk).indexChecked env.idRecordOk env.blows).modSc
        (fun x => { x with idPk := ((lifecycleRead s).bootCounted env.bootRecordOk).mram.idKey.getD [] })
      else (lifecycleRead s).bootCounted env.bootRecordOk).newChallenge.wantSession).applyInstalled env.tokenRecordOk := rfl
  rw [hgo]
  generalize (lifecycleRead s).bootCounted env.bootRecordOk = u
  have hindex : Secured u (if u.certifies then (u.indexChecked env.idRecordOk env.blows).modSc (fun x => { x with idPk := u.mram.idKey.getD [] }) else u) := by
    split
    · exact (indexChecked_secured u _ _).trans (.modSc _ _ rfl)
    · exact .refl u
  exact ((hindex.trans (.newChallenge _)).trans (.wantSession _)).trans (applyInstalled_secured _ _)

theorem bootSecurity_frame (s : State) (env : BootEnv) : Frame s (s.bootSecurity env) :=
  ((Frame.served (.modSc s _)).trans (bootCounted_frame _ _)).trans (bootSecurity_secured s env).kept.frame

theorem bootSecurity_arrays (s : State) (env : BootEnv) : Arrays s (s.bootSecurity env) :=
  ((Arrays.served (.modSc s _)).trans (bootCounted_arrays _ _)).trans (bootSecurity_secured s env).arrays

/-- The lifecycle in force is that of the fuses, and the boot has been counted, unless its record is not good (R395). -/
theorem bootSecurity_counted (s : State) (env : BootEnv) :
    (s.bootSecurity env).sc.lifecycleNow = BitVec.ofNat 4 (lifecycleCode s.fuses.lifecycle)
      ∧ (s.bootSecurity env).mram.bootCount = if env.bootRecordOk && !s.fuses.secretDisable then (s.mram.bootCount + 1) % 2 ^ 32 else 1 := by
  have h := (bootSecurity_secured s env).kept
  exact ⟨h.lifecycle.trans (bootCounted_lifecycle _ _), h.bootCount.trans (bootCounted_count _ _)⟩

/-! ## The end, and the stages -/

theorem secServe_kept (s : State) : Kept s s.secServe := .served (.secServe s) (secServe_keeps s).2

theorem bootPhase_kept (s : State) (warm : Bool) : Kept s (s.bootPhase warm) := by
  unfold State.bootPhase
  split
  · exact .putPhase s _
  · split
    · exact (Kept.putPhase s _).trans (.alert _ _ _)
    · split
      · exact (Kept.putPhase s _).trans (.modSc _ _ rfl)
      · exact .putPhase s _

/-- The arrays as the boot leaves them (R409). -/
def filled (s : State) : State := if s.mg.boot.keeps then s else { s with mem := [], checkDiff := [] }

/-- Every channel is ON and awake. -/
def channelsOn (s : State) : State :=
  (upFrom 0 512).foldl (fun s c => s.modChan c (fun ch => { ch with awake := true, pwr := { Channel.zero.pwr with pllOn := true } })) s

/-- The hardware is ready, and its phase not yet chosen. -/
def hardwareReady (s : State) : State := (channelsOn (filled s)).modBoot (fun b => { b with stage := 4, zeroPending := false, channelsReady := true })

theorem bootEnd_eq (s : State) : s.bootEnd = ((hardwareReady s).bootPhase s.mg.boot.warm).secServe := rfl

theorem filled_kept (s : State) : Kept s (filled s) := by
  unfold filled
  split
  · exact .refl s
  · exact .putArrays s _ _

theorem channelsOn_kept (s : State) : Kept s (channelsOn s) := .foldl (fun t c => Kept.modChan t c _) _ s

theorem hardwareReady_kept (s : State) : Kept s (hardwareReady s) := ((filled_kept s).trans (channelsOn_kept _)).trans (.ready _)

theorem bootEnd_kept (s : State) : Kept s s.bootEnd := by
  rw [bootEnd_eq]
  exact ((hardwareReady_kept s).trans (bootPhase_kept _ _)).trans (secServe_kept _)

theorem bootStage_frame (s : State) (env : BootEnv) : Frame s (s.bootStage env) := by
  unfold State.bootStage
  split
  · exact (bootSecurity_frame s env).trans (Kept.putStage _ _).frame
  · exact ((darn_kept s _).trans (.putStage _ _)).frame
  · exact (bootEnd_kept s).frame
  · exact .refl s

theorem bootTo_frame (s : State) (env : BootEnv) : Frame s (s.bootTo env) := by
  refine List.foldlRecOn (motive := fun t => Frame s t) _ _ (.refl s) fun t ht i _ => ?_
  dsimp only
  split
  · exact ht.trans (bootStage_frame t env)
  · exact ht

end Sys2Proof.BootStages
end

section
/-! SUPPORT. What blows may do to the fuses (15 R381). -/
namespace Sys2Proof.FuseBlows
open Sys2Proof Sys2Proof.Machine Sys2Proof.SecEngine

/-- No fuse of `f` is clear in `g`, and what no blow writes is the same. -/
structure Grown (f g : Fuses) : Prop where
  lifecycle : ∀ i, f.lifecycle.getLsbD i = true → g.lifecycle.getLsbD i = true
  rootRevoke : ∀ i, f.rootRevoke.getLsbD i = true → g.rootRevoke.getLsbD i = true
  secretDisable : f.secretDisable = true → g.secretDisable = true
  ownerRequired : f.ownerRequired = true → g.ownerRequired = true
  ownerHash : ∀ h, f.ownerHash = some h → h ≠ 0 → ∃ h', g.ownerHash = some h' ∧ ∀ i, h.getLsbD i = true → h'.getLsbD i = true
  secver : f.secver ≤ 64 → f.secver ≤ g.secver
  idBlocks : f.idBlocks ≤ g.idBlocks
  slot0 : f.valid0 = true → g.valid0 = true ∧ g.secret0 = f.secret0
  slot1 : f.valid1 = true → g.valid1 = true ∧ g.secret1 = f.secret1
  serial : g.serial = f.serial
  rootHash : g.rootHash = f.rootHash
  grade : g.grade = f.grade
  fp64 : g.fp64 = f.fp64

/-- A number with a bit set is not 0. -/
theorem ne_zero_of_bit {n i : Nat} {h : BitVec n} (hi : h.getLsbD i = true) : h ≠ 0 := by
  rintro rfl
  simp at hi

theorem exists_bit {n : Nat} {h : BitVec n} (hn : h ≠ 0) : ∃ i, h.getLsbD i = true := by
  by_contra hall
  refine hn (BitVec.eq_of_getLsbD_eq fun i _ => ?_)
  rw [Bool.eq_false_iff.mpr (fun hi => hall ⟨i, hi⟩)]
  simp

/-- A row of `n` fuses after blows, as its register holds it, keeps the bits that were blown. -/
theorem ofNat_blowBits_keeps {n k i want : Nat} {v : BitVec n} {bl : List Bool} (h : v.getLsbD i = true) :
    (BitVec.ofNat n (blowBits k 0 want v.toNat bl).1).getLsbD i = true := by
  have hi : i < n := BitVec.lt_of_getLsbD h
  rw [BitVec.getLsbD_ofNat, decide_eq_true hi, Bool.true_and]
  exact blowBits_keeps h

namespace Grown
variable {f g k : Fuses}

theorem refl (f : Fuses) : Grown f f :=
  ⟨fun _ => id, fun _ => id, id, id, fun h hh _ => ⟨h, hh, fun _ => id⟩, fun _ => Nat.le_refl _, Nat.le_refl _, fun h => ⟨h, rfl⟩, fun h => ⟨h, rfl⟩, rfl, rfl, rfl, rfl⟩

/-- A second step that leaves the security version. -/
theorem trans (h : Grown f g) (h' : Grown g k) (hv : k.secver = g.secver) : Grown f k where
  lifecycle i := h'.lifecycle i ∘ h.lifecycle i
  rootRevoke i := h'.rootRevoke i ∘ h.rootRevoke i
  secretDisable := h'.secretDisable ∘ h.secretDisable
  ownerRequired := h'.ownerRequired ∘ h.ownerRequired
  ownerHash a ha hne := by
    obtain ⟨b, hb, hab⟩ := h.ownerHash a ha hne
    obtain ⟨i, hi⟩ := exists_bit hne
    obtain ⟨c, hc, hbc⟩ := h'.ownerHash b hb (ne_zero_of_bit (hab i hi))
    exact ⟨c, hc, fun i => hbc i ∘ hab i⟩
  secver hle := hv ▸ h.secver hle
  idBlocks := h.idBlocks.trans h'.idBlocks
  slot0 hf := ⟨(h'.slot0 (h.slot0 hf).1).1, (h'.slot0 (h.slot0 hf).1).2.trans (h.slot0 hf).2⟩
  slot1 hf := ⟨(h'.slot1 (h.slot1 hf).1).1, (h'.slot1 (h.slot1 hf).1).2.trans (h.slot1 hf).2⟩
  serial := h'.serial.trans h.serial
  rootHash := h'.rootHash.trans h.rootHash
  grade := h'.grade.trans h.grade
  fp64 := h'.fp64.trans h.fp64

/-- A device secret is written only while neither slot is valid. -/
theorem secrets (h0 : f.valid0 = false) (h1 : f.valid1 = false) (a b : BitVec 256) (v w x : Bool) :
    Grown f { f with secret0 := a, valid0 := v, secret1 := b, valid1 := w, secretFailed := x } :=
  { refl f with slot0 := fun h => absurd (h0.symm.trans h) (by decide), slot1 := fun h => absurd (h1.symm.trans h) (by decide) }

theorem blocks {n : Nat} (h : f.idBlocks ≤ n) : Grown f { f with idBlocks := n } := { refl f with idBlocks := h }

theorem disabled {v : Bool} (h : f.secretDisable = false) : Grown f { f with secretDisable := v } :=
  { refl f with secretDisable := fun hf => absurd (h.symm.trans hf) (by decide) }

theorem required {v : Bool} (h : f.ownerRequired = false) : Grown f { f with ownerRequired := v } :=
  { refl f with ownerRequired := fun hf => absurd (h.symm.trans hf) (by decide) }

theorem lifecycleRow (f : Fuses) (want : Nat) (bl : List Bool) : Grown f { f with lifecycle := BitVec.ofNat 4 (blowBits 4 0 want f.lifecycle.toNat bl).1 } :=
  { refl f with lifecycle := fun _ => ofNat_blowBits_keeps }

theorem revokeRow (f : Fuses) (want : Nat) (bl : List Bool) : Grown f { f with rootRevoke := BitVec.ofNat 4 (blowBits 4 0 want f.rootRevoke.toNat bl).1 } :=
  { refl f with rootRevoke := fun _ => ofNat_blowBits_keeps }

/-- The row of the security version counts no fewer than it did. -/
theorem secverRow (f : Fuses) (want : Nat) (bl : List Bool) : Grown f { f with secver := onesOf (blowBits 64 0 want (2 ^ f.secver - 1) bl).1 } :=
  { refl f with
    secver := fun hle => by
      have hcount : onesOf (2 ^ f.secver - 1) ≤ onesOf (blowBits 64 0 want (2 ^ f.secver - 1) bl).1 := onesOf_mono fun _ => blowBits_keeps
      rwa [onesOf_mask, Nat.min_eq_left hle] at hcount }

/-- A hash cut short stays as far as it was blown. -/
theorem ownerRow (f : Fuses) (want : Nat) (bl : List Bool) :
    Grown f { f with ownerHash := if (blowBits 256 0 want (f.ownerHash.getD 0).toNat bl).1 = 0 then none else some (BitVec.ofNat 256 (blowBits 256 0 want (f.ownerHash.getD 0).toNat bl).1) } :=
  { refl f with
    ownerHash := fun h hh hne => by
      obtain ⟨i, hi⟩ := exists_bit hne
      dsimp only
      rw [hh, Option.getD_some]
      have hrow : ∀ i, h.getLsbD i = true → (BitVec.ofNat 256 (blowBits 256 0 want h.toNat bl).1).getLsbD i = true := fun _ => ofNat_blowBits_keeps
      have hset : (blowBits 256 0 want h.toNat bl).1 ≠ 0 := fun h0 => by
        have hbit := hrow i hi
        rw [h0] at hbit
        exact absurd hbit (by simp)
      exact ⟨_, if_neg hset, hrow⟩ }

end Grown

/-! ## The operations that blow fuses -/

/-- The state in which an operation's blows have ended holds no fewer fuses blown, and the same security version. -/
def Blown (s : State) (r : Fusing) : Prop := Grown s.fuses r.s.fuses ∧ r.s.fuses.secver = s.fuses.secver

theorem Blown.andThen {s : State} {r : Fusing} {f : State → List Bool → Fusing} (h : Blown s r) (hf : ∀ bl, Blown r.s (f r.s bl)) : Blown s (r.andThen f) := by
  unfold Fusing.andThen
  split
  · exact ⟨h.1.trans (hf _).1 (hf _).2, (hf _).2.trans h.2⟩
  · exact h

/-- What follows the blows touches no fuse. -/
theorem finish_fuses (r : Fusing) {done : State → State} (h : ∀ s, (done s).fuses = s.fuses) : (r.finish done).fuses = r.s.fuses := by
  unfold Fusing.finish
  split
  · exact ((Served.tokenDone _ 1).trans (.secServe _)).fuses.trans (h r.s)
  · exact ((Served.secEvent r.s 7).trans ((Served.tokenDone _ 10).trans (.secServe _))).fuses

theorem finish_grown {f : Fuses} {r : Fusing} {done : State → State} (h : Grown f r.s.fuses) (hd : ∀ s, (done s).fuses = s.fuses) : Grown f (r.finish done).fuses := by
  rw [finish_fuses r hd]
  exact h

theorem blowLifecycle_blown (s : State) (want : Nat) (bl : List Bool) : Blown s (s.blowLifecycle want bl) := ⟨.lifecycleRow s.fuses want bl, rfl⟩

theorem blowDisable_blown (s : State) (bl : List Bool) : Blown s (s.blowDisable bl) := by
  unfold State.blowDisable
  split
  · exact ⟨.refl _, rfl⟩
  · next h => exact ⟨.disabled (Bool.eq_false_iff.mpr h), rfl⟩

theorem eraseMram_blowDisable_blown (s : State) (bl : List Bool) : Blown s (s.eraseMram.blowDisable bl) := blowDisable_blown s.eraseMram bl

/-- A slot written, its valid bit with it. -/
theorem writeSlot_fuses (s : State) (bl : List Bool) (put : Fuses → Nat → Bool → Fuses) : ∃ k v, (s.writeSlot bl put).s.fuses = put s.fuses k v := by
  unfold State.writeSlot
  dsimp only
  split
  · exact ⟨_, _, rfl⟩
  · exact ⟨_, _, rfl⟩

theorem writeSecret_blown (s : State) (bl : List Bool) : Blown s (s.writeSecret bl) := by
  unfold State.writeSecret
  split
  · exact ⟨.refl _, rfl⟩
  next hvalid =>
  split
  · exact ⟨.refl _, rfl⟩
  obtain ⟨h0, h1⟩ := Bool.or_eq_false_iff.mp (Bool.eq_false_iff.mpr hvalid)
  extract_lets r
  have hr : ∃ a b v w, r.s.fuses = { s.fuses with secret0 := a, valid0 := v, secret1 := b, valid1 := w } := by
    dsimp only [r]
    split
    · obtain ⟨k, v, h⟩ := writeSlot_fuses s bl (fun f k v => { f with secret0 := BitVec.ofNat 256 k, valid0 := v })
      exact ⟨_, _, _, _, h⟩
    · split
      · obtain ⟨k, v, h⟩ := writeSlot_fuses s bl (fun f k v => { f with secret1 := BitVec.ofNat 256 k, valid1 := v })
        exact ⟨_, _, _, _, h⟩
      · exact ⟨_, _, _, _, rfl⟩
  obtain ⟨a, b, v, w, hr⟩ := hr
  clear_value r
  split
  · rw [Blown, hr]
    exact ⟨.secrets h0 h1 a b v w _, rfl⟩
  · have hfailed : ({ r with s := r.s.modFuses (fun f => { f with secretFailed := true }) } : Fusing).s.fuses = { r.s.fuses with secretFailed := true } := rfl
    rw [Blown, hfailed, hr]
    exact ⟨.secrets h0 h1 a b v w true, rfl⟩

theorem transition_blown (s : State) (target : Nat) (bl : List Bool) : Blown s (s.transition target bl) := by
  unfold State.transition
  split
  · exact (writeSecret_blown s bl).andThen fun bl => blowLifecycle_blown (s.writeSecret _).s.genIdentity 1 bl
  · exact blowLifecycle_blown s 3 bl
  · exact (eraseMram_blowDisable_blown s bl).andThen fun bl => blowLifecycle_blown _ 7 bl
  · split
    · exact blowLifecycle_blown s 15 bl
    · exact (eraseMram_blowDisable_blown s bl).andThen fun bl => blowLifecycle_blown _ 15 bl

theorem ownerRequire_blown (bs : List Byte) (s : State) (bl : List Bool) : Blown s (ownerRequire bs s bl) := by
  unfold ownerRequire
  split
  · next h =>
    rw [Bool.and_eq_true, Bool.not_eq_true'] at h
    exact ⟨.required h.2, rfl⟩
  · exact ⟨.refl _, rfl⟩

theorem ownerHashed_blown (s : State) (bs : List Byte) (bl : List Bool) : Blown s (ownerHashed s bs bl) := ⟨.ownerRow s.fuses _ bl, rfl⟩

theorem useIndex_fuses (s : State) : s.useIndex.fuses = s.fuses := by
  unfold State.useIndex
  dsimp only
  split
  · exact (Served.secEvent _ 9).fuses
  · rfl

theorem reserveBlock_blocks (s : State) (bl : List Bool) : Grown s.fuses (s.reserveBlock bl).s.fuses := by
  have hframe := (BootStages.reserveBlock_secured s bl).kept.frame
  rw [hframe.fuses]
  exact .blocks hframe.idBlocks

/-! ## Each command -/

theorem lifecycle_grows (s : State) (blows : List Bool) : ran (exec (.lifecycle blows) s) fun t => Grown s.fuses t.fuses := by
  cases h : s.accepted 2 with
  | none => exact ⟨s, exec_lifecycle_none blows h, .refl _⟩
  | some bs =>
    have hevent : ∀ u : State, ((u.modMram fun m => { m with installed := none }).secEvent 2).fuses = u.fuses := fun u => (Served.secEvent _ 2).fuses
    exact ⟨_, exec_lifecycle blows h, finish_grown (transition_blown s (tokArg bs) blows).1 hevent⟩

theorem revoke_grows (s : State) (blows : List Bool) : ran (exec (.revoke blows) s) fun t => Grown s.fuses t.fuses := by
  cases h : s.accepted 3 with
  | none => exact ⟨s, exec_revoke_none blows h, .refl _⟩
  | some bs =>
    exact ⟨_, exec_revoke blows h, finish_grown (.revokeRow s.fuses _ blows) fun u => (Served.secEvent u 3).fuses⟩

theorem secver_grows (s : State) (blows : List Bool) : ran (exec (.secver blows) s) fun t => Grown s.fuses t.fuses := by
  cases h : s.accepted 4 with
  | none => exact ⟨s, exec_secver_none blows h, .refl _⟩
  | some bs =>
    exact ⟨_, exec_secver blows h, finish_grown (.secverRow s.fuses _ blows) fun _ => rfl⟩

theorem owner_grows (s : State) (blows : List Bool) : ran (exec (.owner blows) s) fun t => Grown s.fuses t.fuses := by
  cases h : s.accepted 5 with
  | none => exact ⟨s, exec_owner_none blows h, .refl _⟩
  | some bs =>
    exact ⟨_, exec_owner blows h, finish_grown ((ownerHashed_blown s bs blows).andThen fun bl => ownerRequire_blown bs _ bl).1 fun _ => rfl⟩

theorem sessionKeyGenerated_grows (s : State) (blows : List Bool) : ran (exec (.sessionKeyGenerated blows) s) fun t => Grown s.fuses t.fuses := by
  have hserved : s.secServe.fuses = s.fuses := (Served.secServe s).fuses
  show ran (execSessionKeyGenerated blows s) _
  unfold execSessionKeyGenerated
  dsimp only
  generalize s.secServe = u at hserved
  rw [← hserved]
  split
  · split
    · exact ⟨u, rfl, .refl _⟩
    · have hblock : Grown u.fuses (indexed u blows).s.fuses := by
        unfold indexed
        split
        · exact reserveBlock_blocks u blows
        · exact .refl _
      show ran (if (indexed u blows).ok then .next (indexed u blows).s.useIndex.certify.popSec.secServe else .next (indexed u blows).s.popSec.secServe) _
      generalize indexed u blows = r at hblock ⊢
      split
      · refine ⟨_, rfl, ?_⟩
        beta_reduce
        rw [(Served.secServe _).fuses, (certify_popSec _).1, useIndex_fuses]
        exact hblock
      · refine ⟨_, rfl, ?_⟩
        beta_reduce
        rw [(Served.secServe _).fuses]
        exact hblock
  · exact ⟨u, rfl, .refl _⟩

theorem boot_grows (s : State) (env : BootEnv) : ran (exec (.boot env) s) fun t => Grown s.fuses t.fuses := by
  have hboot : ∀ u : State, u.fuses = s.fuses → Grown s.fuses (u.bootTo env).fuses := fun u hu => by
    have hframe := BootStages.bootTo_frame u env
    rw [← hu, hframe.fuses]
    exact .blocks hframe.idBlocks
  show ran (execBoot env s) _
  unfold execBoot
  dsimp only
  split
  · exact ⟨s, rfl, .refl _⟩
  · split
    · split
      · exact ⟨_, rfl, .refl _⟩
      · split
        · exact ⟨_, rfl, .refl _⟩
        · exact ⟨_, rfl, hboot _ rfl⟩
    · split
      · split
        · exact ⟨_, rfl, .refl _⟩
        · exact ⟨_, rfl, hboot _ rfl⟩
      · exact ⟨_, rfl, hboot s rfl⟩

end Sys2Proof.FuseBlows
end

section
namespace Sys2Proof.FuseBlows
open Sys2Proof Sys2Proof.Machine

/-- Settles O58: every row of blows keeps the bits it finds, a slot is written only while none is valid, and a boot adds blocks of identity indices alone. -/
theorem fusesOnlyGrow : Obligations.FusesOnlyGrow := by
  unfold Obligations.FusesOnlyGrow
  intro s blows env c hc
  have hgrown : ran (exec c s) fun t => Grown s.fuses t.fuses := by
    revert c
    simp only [List.forall_mem_cons, List.not_mem_nil, false_implies, implies_true, and_true]
    exact ⟨lifecycle_grows s blows, revoke_grows s blows, secver_grows s blows, owner_grows s blows, sessionKeyGenerated_grows s blows, boot_grows s env⟩
  obtain ⟨t, ht, h⟩ := hgrown
  exact ⟨t, ht, h.lifecycle, h.rootRevoke, h.secretDisable, h.ownerRequired, h.ownerHash, h.secver, h.idBlocks, h.slot0, h.slot1, h.serial, h.rootHash, h.grade, h.fp64⟩

end Sys2Proof.FuseBlows
end

section
/-! SUPPORT. What a whole boot leaves (14 R375, 16 R407 to R411). -/
namespace Sys2Proof.BootStages
open Sys2Proof Sys2Proof.Machine Sys2Proof.SecEngine

/-! ## Folds over channels -/

/-- A fold that gives each channel named a property leaves it there. -/
theorem foldl_modChan_holds {Q : Channel → Prop} {f : State → Nat → Channel → Channel} (hf : ∀ s c ch, Q (f s c ch)) {k : Nat} (l : List Nat) (s : State)
    (h : k ∈ l ∨ Q (s.chan k)) : Q ((l.foldl (fun s c => s.modChan c (f s c)) s).chan k) := by
  induction l generalizing s with
  | nil => exact h.resolve_left (by simp)
  | cons a l ih =>
    refine ih (s.modChan a (f s a)) ?_
    by_cases hk : k = a
    · subst hk
      rw [chan_modChan_same]
      exact Or.inr (hf s k _)
    · rw [chan_modChan_other _ _ _ _ hk]
      exact h.imp_left fun hmem => (List.mem_cons.mp hmem).resolve_left hk

/-! ## The darning merge of a module without repairs -/

theorem swept_clean (s : State) (c : Nat) (ch : Channel) : (swept [] s c ch).train.failedBond = [] := rfl

theorem swept_physBank (s : State) (c : Nat) (ch : Channel) (b : Nat) :
    ((swept [] s c ch).darnOf b).physBank = (tget (tget s.fuses.maps c .plain).darn b ⟨b, 16, false, false⟩).physBank := rfl

/-- The physical banks of every channel are those of `s`, and so are the arrays. -/
structure Unmoved (s t : State) : Prop where
  mem : t.mem = s.mem
  checkDiff : t.checkDiff = s.checkDiff
  physBank : ∀ c b, ((t.chan c).darnOf b).physBank = ((s.chan c).darnOf b).physBank

theorem Unmoved.modChan {s t : State} (h : Unmoved s t) (c : Nat) (f : Channel → Channel)
    (hf : ∀ b, ((f (t.chan c)).darnOf b).physBank = ((s.chan c).darnOf b).physBank) : Unmoved s (t.modChan c f) where
  mem := h.mem
  checkDiff := h.checkDiff
  physBank k b := by
    by_cases hk : k = c
    · subst hk
      rw [chan_modChan_same]
      exact hf b
    · rw [chan_modChan_other _ _ _ _ hk]
      exact h.physBank k b

theorem Unmoved.goOffline {s t : State} (h : Unmoved s t) (c : Nat) : Unmoved s (t.goOffline c) := by
  have hmod : Unmoved s (t.modChan c (fun ch => { ch with offline := true })) := h.modChan c _ fun b => h.physBank c b
  have halert := Served.alert (t.modChan c (fun ch => { ch with offline := true })) 7 (plainRec 7 c 0)
  refine ⟨halert.mem.trans hmod.mem, halert.checkDiff.trans hmod.checkDiff, fun k b => ?_⟩
  rw [← hmod.physBank k b]
  exact congrArg (fun m : Table Channel => ((tget m k Channel.zero).darnOf b).physBank) halert.chans

/-- A channel whose sweep failed no lane adds nothing to the merge. -/
theorem channel_clean {m : MergeSt} {c : Nat} (h : (m.s.chan c).train.failedBond = []) : m.channel c = m := by
  unfold MergeSt.channel forN
  refine List.foldlRecOn (motive := fun k => k = m) _ _ rfl fun k hk i _ => ?_
  beta_reduce
  rw [hk, h]
  rfl

theorem digested_arrays (m : MergeSt) (s : State) : (digested m s).mem = s.mem ∧ (digested m s).checkDiff = s.checkDiff := ⟨rfl, rfl⟩

theorem loaded_unmoved {s : State} (hmap : ∀ c b, ((s.chan c).darnOf b).physBank = (tget (tget s.fuses.maps c .plain).darn b ⟨b, 16, false, false⟩).physBank) :
    Unmoved s (loaded [] s) ∧ (loaded [] s).mram = s.mram := by
  have hall : Unmoved s (loaded [] s) ∧ (loaded [] s).fuses = s.fuses ∧ (loaded [] s).mram = s.mram := by
    unfold loaded
    refine List.foldlRecOn (motive := fun t => Unmoved s t ∧ t.fuses = s.fuses ∧ t.mram = s.mram) _ _ ⟨⟨rfl, rfl, fun _ _ => rfl⟩, rfl, rfl⟩ ?_
    rintro t ⟨ht, hfuses, hmram⟩ c -
    refine ⟨ht.modChan c _ fun b => ?_, hfuses, hmram⟩
    rw [swept_physBank, hfuses]
    exact (hmap c b).symm
  exact ⟨hall.1, hall.2.2⟩

theorem loaded_clean (s : State) {c : Nat} (hc : c ∈ upFrom 0 512) : ((loaded [] s).chan c).train.failedBond = [] := by
  unfold loaded
  exact foldl_modChan_holds (Q := fun ch => ch.train.failedBond = []) swept_clean _ s (Or.inl hc)

theorem merged_clean {s : State} (hrepairs : s.mram.repairs = []) (hclean : ∀ c ∈ upFrom 0 512, (s.chan c).train.failedBond = []) : merged s = ⟨s, [], 0, 0⟩ := by
  unfold merged
  rw [hrepairs]
  refine List.foldlRecOn (motive := fun k : MergeSt => k = ⟨s, [], 0, 0⟩) _ _ rfl fun k hk c hc => ?_
  rw [hk]
  exact channel_clean (hclean c hc)

theorem offlined_unmoved {s : State} {m : MergeSt} (h : Unmoved s m.s) : Unmoved s (offlined m) := by
  unfold offlined
  refine List.foldlRecOn (motive := fun t => Unmoved s t) _ _ h fun t ht c _ => ?_
  split
  · exact ht.goOffline c
  · exact ht

theorem movedFree_unmoved {old : Nat → Nat → Nat} {s : State} (h : ∀ c b, ((s.chan c).darnOf b).physBank = old c b) : movedFree old s = s := by
  unfold movedFree
  refine List.foldlRecOn (motive := fun t => t = s) _ _ rfl fun t ht c _ => ?_
  refine List.foldlRecOn (motive := fun t => t = s) _ _ ht fun t ht b _ => ?_
  rw [ht]
  exact if_pos (by rw [decide_eq_true (h c b).symm, Bool.or_true])

/-- With no repair records, no failed lanes and the map as the fuses give it, no bank moves and the arrays stay. -/
theorem darn_arrays {s : State} (hrepairs : s.mram.repairs = [])
    (hmap : ∀ c b, ((s.chan c).darnOf b).physBank = (tget (tget s.fuses.maps c .plain).darn b ⟨b, 16, false, false⟩).physBank) :
    (s.darn []).mem = s.mem ∧ (s.darn []).checkDiff = s.checkDiff := by
  obtain ⟨hloaded, hmram⟩ := loaded_unmoved hmap
  have hclean : ∀ c ∈ upFrom 0 512, ((loaded [] s).chan c).train.failedBond = [] := fun c hc => loaded_clean s hc
  rw [darn_eq]
  generalize loaded [] s = u at hloaded hmram hclean
  have hmerged : merged u = ⟨u, [], 0, 0⟩ := merged_clean (by rw [hmram, hrepairs]) hclean
  have hoff : Unmoved s (offlined ⟨u, [], 0, 0⟩) := offlined_unmoved hloaded
  rw [(digested_arrays _ _).1, (digested_arrays _ _).2, hmerged, movedFree_unmoved hoff.physBank]
  exact ⟨hoff.mem, hoff.checkDiff⟩

/-! ## The end of a boot -/

/-- The phase in which a boot ends (R408, R411, R416). -/
def endPhase (s : State) (warm : Bool) : BootPhase :=
  if s.sc.lifecycleNow = 4 then .closed else if s.mg.boot.straps.getLsbD 3 then .hwInit else if warm && s.mg.boot.keptSlot then .verify else .waitImage

theorem bootPhase_phase (s : State) (warm : Bool) : (s.bootPhase warm).mg.boot = { s.mg.boot with phase := endPhase s warm, coreWait := (s.bootPhase warm).mg.boot.coreWait } := by
  unfold State.bootPhase endPhase
  split
  · rfl
  · split
    · rfl
    · split <;> rfl

theorem bootPhase_arrays (s : State) (warm : Bool) : (s.bootPhase warm).mem = s.mem ∧ (s.bootPhase warm).checkDiff = s.checkDiff ∧ (s.bootPhase warm).chans = s.chans := by
  unfold State.bootPhase
  split
  · exact ⟨rfl, rfl, rfl⟩
  · split
    · have h := Served.alert (s.modBoot (fun b => { b with phase := .hwInit })) 11 (plainRec 11 0 0)
      exact ⟨h.mem, h.checkDiff, h.chans⟩
    · split <;> exact ⟨rfl, rfl, rfl⟩

theorem modBoot_arrays (s : State) (f : BootSt → BootSt) : (s.modBoot f).mem = s.mem ∧ (s.modBoot f).checkDiff = s.checkDiff ∧ (s.modBoot f).chans = s.chans :=
  ⟨rfl, rfl, rfl⟩

theorem hardwareReady_arrays (s : State) : (hardwareReady s).mem = (filled s).mem ∧ (hardwareReady s).checkDiff = (filled s).checkDiff
    ∧ (hardwareReady s).chans = (channelsOn (filled s)).chans := by
  have hon : (channelsOn (filled s)).mem = (filled s).mem ∧ (channelsOn (filled s)).checkDiff = (filled s).checkDiff :=
    List.foldlRecOn (motive := fun t : State => t.mem = (filled s).mem ∧ t.checkDiff = (filled s).checkDiff) _ _ ⟨rfl, rfl⟩ fun t ht c _ => ht
  unfold hardwareReady
  obtain ⟨hmem, hdiff, hchans⟩ := modBoot_arrays (channelsOn (filled s)) (fun b => { b with stage := 4, zeroPending := false, channelsReady := true })
  exact ⟨hmem.trans hon.1, hdiff.trans hon.2, hchans⟩

theorem bootEnd_boot (s : State) : s.bootEnd.mg.boot = { s.mg.boot with
    stage := 4, zeroPending := false, channelsReady := true, phase := endPhase s s.mg.boot.warm, coreWait := s.bootEnd.mg.boot.coreWait, sbOut := s.bootEnd.mg.boot.sbOut } := by
  have hready : (hardwareReady s).mg.boot = { s.mg.boot with stage := 4, zeroPending := false, channelsReady := true } := by
    have h := ((filled_kept s).trans (channelsOn_kept _)).frame
    have hmg : (channelsOn (filled s)).mg = s.mg := by
      refine List.foldlRecOn (motive := fun t : State => t.mg = s.mg) _ _ ?_ fun t ht c _ => ht
      unfold filled
      split <;> rfl
    show { (channelsOn (filled s)).mg.boot with stage := 4, zeroPending := false, channelsReady := true } = _
    rw [hmg]
  have hphase : endPhase (hardwareReady s) s.mg.boot.warm = endPhase s s.mg.boot.warm := by
    unfold endPhase
    rw [(hardwareReady_kept s).lifecycle, hready]
  rw [bootEnd_eq, (Served.secServe _).boot, bootPhase_phase, hready, hphase]

theorem bootEnd_arrays (s : State) : s.bootEnd.mem = (filled s).mem ∧ s.bootEnd.checkDiff = (filled s).checkDiff := by
  have hserved := Served.secServe ((hardwareReady s).bootPhase s.mg.boot.warm)
  obtain ⟨hmem, hdiff, -⟩ := bootPhase_arrays (hardwareReady s) s.mg.boot.warm
  obtain ⟨hready, hready', -⟩ := hardwareReady_arrays s
  rw [bootEnd_eq]
  exact ⟨hserved.mem.trans (hmem.trans hready), hserved.checkDiff.trans (hdiff.trans hready')⟩

theorem bootEnd_chan (s : State) (c : Chan) : (s.bootEnd.chan c).awake = true ∧ (s.bootEnd.chan c).pwr = { Channel.zero.pwr with pllOn := true } := by
  have hserved := Served.secServe ((hardwareReady s).bootPhase s.mg.boot.warm)
  obtain ⟨-, -, hchans⟩ := bootPhase_arrays (hardwareReady s) s.mg.boot.warm
  have hall : s.bootEnd.chans = (channelsOn (filled s)).chans := by
    rw [bootEnd_eq]
    exact hserved.chans.trans (hchans.trans (hardwareReady_arrays s).2.2)
  have hchan : s.bootEnd.chan c = (channelsOn (filled s)).chan c := congrArg (fun m : Table Channel => tget m c.val Channel.zero) hall
  rw [hchan]
  exact foldl_modChan_holds (Q := fun ch => ch.awake = true ∧ ch.pwr = { Channel.zero.pwr with pllOn := true })
    (f := fun _ _ ch => { ch with awake := true, pwr := { Channel.zero.pwr with pllOn := true } }) (fun _ _ _ => ⟨rfl, rfl⟩) _ _
    (Or.inl ((mem_upFrom 0 512 c).mpr ⟨Nat.zero_le _, by omega⟩))

/-! ## A boot from its first stage -/

/-- One stage, unless the boot is to stop before it. -/
def bootNext (env : BootEnv) (s : State) : State := if s.mg.boot.stage < env.stages then s.bootStage env else s

theorem bootTo_eq (s : State) (env : BootEnv) : s.bootTo env = bootNext env (bootNext env (bootNext env s)) := rfl

theorem bootNext_stopped {s : State} {env : BootEnv} (h : env.stages ≤ s.mg.boot.stage) : bootNext env s = s := if_neg (Nat.not_lt.mpr h)

theorem bootNext_idle {s : State} {env : BootEnv} (h : s.mg.boot.stage = 0 ∨ 4 ≤ s.mg.boot.stage) : bootNext env s = s := by
  unfold bootNext
  split
  · unfold State.bootStage
    split
    · next h1 => omega
    · next h2 => omega
    · next h3 => omega
    · rfl
  · rfl

theorem bootTo_idle {s : State} {env : BootEnv} (h : s.mg.boot.stage = 0 ∨ 4 ≤ s.mg.boot.stage) : s.bootTo env = s := by
  rw [bootTo_eq, bootNext_idle h, bootNext_idle h, bootNext_idle h]

/-- The engine has started. -/
def secured (s : State) (env : BootEnv) : State := (s.bootSecurity env).modBoot (fun b => { b with stage := 2 })

theorem modBoot_fuses (s : State) (f : BootSt → BootSt) : (s.modBoot f).fuses = s.fuses := rfl

theorem secured_fuses (s : State) (env : BootEnv) : (secured s env).fuses = (s.bootSecurity env).fuses := modBoot_fuses _ _

/-- The channels are darned. -/
def darned (s : State) (env : BootEnv) : State := ((secured s env).darn env.sweeps).modBoot (fun b => { b with stage := 3 })

theorem bootNext_security {s : State} {env : BootEnv} (h : s.mg.boot.stage = 1) (hs : 4 ≤ env.stages) : bootNext env s = secured s env := by
  refine (if_pos (by omega)).trans ?_
  rw [State.bootStage, h]
  rfl

theorem bootNext_darn {s : State} {env : BootEnv} (hs : 4 ≤ env.stages) : bootNext env (secured s env) = darned s env := by
  have h : (secured s env).mg.boot.stage = 2 := rfl
  refine (if_pos (by omega)).trans ?_
  rw [State.bootStage, h]
  rfl

theorem bootNext_end {s : State} {env : BootEnv} (h : s.mg.boot.stage = 3) (hs : 4 ≤ env.stages) : bootNext env s = s.bootEnd := by
  refine (if_pos (by omega)).trans ?_
  rw [State.bootStage, h]
  rfl

theorem bootTo_whole {s : State} {env : BootEnv} (h : s.mg.boot.stage = 1) (hs : 4 ≤ env.stages) : s.bootTo env = (darned s env).bootEnd := by
  have h3 : (darned s env).mg.boot.stage = 3 := rfl
  rw [bootTo_eq, bootNext_security h hs, bootNext_darn hs, bootNext_end h3 hs]

theorem bootTo_last {s : State} {env : BootEnv} (h : s.mg.boot.stage = 3) (hs : 4 ≤ env.stages) : s.bootTo env = s.bootEnd := by
  have h4 : s.bootEnd.mg.boot.stage = 4 := by rw [bootEnd_boot]
  rw [bootTo_eq, bootNext_end h hs, bootNext_idle (Or.inr (Nat.le_of_eq h4.symm)), bootNext_idle (Or.inr (Nat.le_of_eq h4.symm))]

theorem darned_kept (s : State) (env : BootEnv) : Kept (s.bootSecurity env) (darned s env) :=
  ((Kept.putStage _ 2).trans (darn_kept _ _)).trans (.putStage _ 3)

theorem darned_frame (s : State) (env : BootEnv) : Frame s (darned s env) := (bootSecurity_frame s env).trans (darned_kept s env).frame

/-- The code of a lifecycle, as the register holds it, is that of end of life just when it is 4. -/
theorem lifecycle_closed (l : BitVec 4) : BitVec.ofNat 4 (lifecycleCode l) = 4 ↔ lifecycleCode l = 4 := by
  revert l
  decide

/-- The phase in which a whole boot ends. -/
theorem whole_phase (s : State) (env : BootEnv) : endPhase (darned s env) (darned s env).mg.boot.warm
    = if lifecycleCode s.fuses.lifecycle = 4 then .closed else if s.mg.boot.straps.getLsbD 3 then .hwInit
      else if s.mg.boot.warm && s.mg.boot.keptSlot then .verify else .waitImage := by
  have hboot := (darned_frame s env).boot
  have hnow := (darned_kept s env).lifecycle.trans (bootSecurity_counted s env).1
  unfold endPhase
  rw [hnow, hboot]
  simp only [lifecycle_closed]

/-- A boot that keeps the arrays, in a module without repairs whose map is the fuses', leaves them. -/
theorem whole_arrays_kept {s : State} {env : BootEnv} (hkeeps : s.mg.boot.keeps = true) (hrepairs : s.mram.repairs = []) (hsweeps : env.sweeps = [])
    (hmap : ∀ c b, ((s.chan c).darnOf b).physBank = (tget (tget s.fuses.maps c .plain).darn b ⟨b, 16, false, false⟩).physBank) :
    (darned s env).bootEnd.mem = s.mem ∧ (darned s env).bootEnd.checkDiff = s.checkDiff := by
  have harrays := bootSecurity_arrays s env
  have hchan : ∀ c, (secured s env).chan c = s.chan c := fun c => congrArg (fun m : Table Channel => tget m c Channel.zero) harrays.chans
  have hmaps : (secured s env).fuses.maps = s.fuses.maps := by rw [secured_fuses, (bootSecurity_frame s env).fuses]
  obtain ⟨hmem, hdiff⟩ := darn_arrays (s := secured s env) (harrays.repairs.trans hrepairs) fun c b => by
    rw [hchan, hmaps]
    exact hmap c b
  have hfilled : filled (darned s env) = darned s env := if_pos ((darned_frame s env).keeps.trans hkeeps)
  obtain ⟨hmem', hdiff', -⟩ := modBoot_arrays (s.bootSecurity env) (fun b => { b with stage := 2 })
  rw [(bootEnd_arrays _).1, (bootEnd_arrays _).2, hfilled, darned, hsweeps, (modBoot_arrays _ _).1, (modBoot_arrays _ _).2.1, hmem, hdiff]
  exact ⟨hmem'.trans harrays.mem, hdiff'.trans harrays.checkDiff⟩

theorem whole_arrays_cleared {s : State} {env : BootEnv} (hkeeps : s.mg.boot.keeps = false) :
    (darned s env).bootEnd.mem = [] ∧ (darned s env).bootEnd.checkDiff = [] := by
  have hkeeps' : (darned s env).mg.boot.keeps = false := (darned_frame s env).keeps.trans hkeeps
  rw [(bootEnd_arrays _).1, (bootEnd_arrays _).2]
  generalize darned s env = u at hkeeps'
  have hfilled : filled u = { u with mem := [], checkDiff := [] } := if_neg (by simp [hkeeps'])
  rw [hfilled]
  exact ⟨rfl, rfl⟩

/-! ## The release of a reset -/

/-- PORST_N is released: the AON clock is chosen and zero_pending set (R405, R409). -/
def released (s : State) (env : BootEnv) : State :=
  (s.modPins (fun p => { p with releaseHeld := false, aonPin := env.aonToggles })).modBoot (fun b => { b with zeroPending := true })

section
variable {s : State} {env : BootEnv}

theorem exec_boot_unsupplied (h : ¬ (s.pins.vaon = true ∧ s.pins.vin = true ∧ s.pins.refclk = true)) : exec (.boot env) s = .next s := by
  refine if_pos ?_
  by_contra hoff
  simp only [Bool.or_eq_true, Bool.not_eq_true', not_or, Bool.not_eq_false] at hoff
  exact h ⟨hoff.1.1, hoff.1.2, hoff.2⟩

theorem exec_boot_supplied (h : s.pins.vaon = true ∧ s.pins.vin = true ∧ s.pins.refclk = true) : exec (.boot env) s
    = if !s.pins.porstN then
        (if !s.pins.charged then .next (s.modPins (fun p => { p with releaseHeld := true }))
        else if s.mg.tripLatch && decide (tripAt (dieOf s.mg.tripSensor) - 60 < env.tripReading) then .next ((released s env).modPins (fun p => { p with porstN := true }))
        else .next (((released s env).bootClocks false).bootTo env))
      else if !s.pins.warmrstN then
        (if s.mg.tripLatch then .next (s.modPins (fun p => { p with warmrstN := true })) else .next ((s.bootClocks true).bootTo env))
      else .next (s.bootTo env) := by
  obtain ⟨hvaon, hvin, hrefclk⟩ := h
  show execBoot env s = _
  exact if_neg (by simp [hvaon, hvin, hrefclk])

end

/-- The state `u` in which a boot begins that the release of a reset has started on `s` (R408). -/
structure Clocked (s u : State) (warm : Bool) : Prop where
  clocks : u.refCount = 0 ∧ u.master = 0
  pins : u.pins.porstN = true ∧ u.pins.warmrstN = true
  boot : u.mg.boot = { s.mg.boot with
    stage := 1, por := !warm, warm := warm, recover := false, watchdog := false, afterTrip := !warm && s.mg.tripLatch
    zeroRepeated := warm && s.mg.boot.zeroPending, wdExpiries := if warm then s.mg.boot.wdExpiries else 0
    straps := if warm then s.mg.boot.straps else s.pins.strapPins, zeroPending := u.mg.boot.zeroPending }
  trip : u.mg.tripLatch = false
  doms : u.mg.linkDom = .zero ∧ u.mg.switchDom = .zero ∧ u.mg.mgmtDom = .zero ∧ u.mg.secDom = .zero
  fuses : u.fuses = s.fuses
  mram : u.mram = s.mram
  slices : u.slices = s.slices
  chans : u.chans = s.chans
  mem : u.mem = s.mem
  checkDiff : u.checkDiff = s.checkDiff

theorem clocked_cold (s : State) (env : BootEnv) : Clocked s ((released s env).bootClocks false) false :=
  ⟨⟨rfl, rfl⟩, ⟨rfl, rfl⟩, rfl, rfl, ⟨rfl, rfl, rfl, rfl⟩, rfl, rfl, rfl, rfl, rfl, rfl⟩

theorem clocked_warm (s : State) : Clocked s (s.bootClocks true) true := ⟨⟨rfl, rfl⟩, ⟨rfl, rfl⟩, rfl, rfl, ⟨rfl, rfl, rfl, rfl⟩, rfl, rfl, rfl, rfl, rfl, rfl⟩

/-- What every whole boot has done, cold or warm. -/
def Started (s t : State) (env : BootEnv) (c : Chan) (warm : Bool) : Prop :=
  t.refCount = 0 ∧ t.master = 0 ∧ t.mg.tripLatch = false ∧ t.pins.porstN = true ∧ t.pins.warmrstN = true ∧ t.mg.boot.por = !warm ∧ t.mg.boot.warm = warm
    ∧ t.mg.boot.recover = false ∧ t.mg.boot.watchdog = false ∧ t.mg.boot.afterTrip = (!warm && s.mg.tripLatch)
    ∧ t.mg.boot.straps = (if warm then s.mg.boot.straps else s.pins.strapPins) ∧ t.mg.boot.channelsReady = true
    ∧ t.mg.linkDom = .zero ∧ t.mg.switchDom = .zero ∧ t.mg.mgmtDom = .zero ∧ t.mg.secDom = .zero
    ∧ (t.chan c).awake = true ∧ (t.chan c).pwr = { Channel.zero.pwr with pllOn := true }
    ∧ t.sc.lifecycleNow = BitVec.ofNat 4 (lifecycleCode s.fuses.lifecycle) ∧ t.fuses = { s.fuses with idBlocks := t.fuses.idBlocks } ∧ t.slices = s.slices
    ∧ (env.bootRecordOk = true → s.fuses.secretDisable = false → t.mram.bootCount = (s.mram.bootCount + 1) % 2 ^ 32)
    ∧ ((env.bootRecordOk = false ∨ s.fuses.secretDisable = true) → t.mram.bootCount = 1)

namespace Clocked
variable {s u : State} {warm : Bool} {env : BootEnv}

theorem stage (h : Clocked s u warm) : u.mg.boot.stage = 1 := by rw [h.boot]

theorem keeps (h : Clocked s u warm) : u.mg.boot.keeps = (warm && !s.mg.boot.zeroPending) := by
  rw [h.boot]
  cases warm <;> rfl

theorem started (h : Clocked s u warm) (hs : 4 ≤ env.stages) (c : Chan) : Started s (u.bootTo env) env c warm := by
  have hframe := bootTo_frame u env
  have hwhole := bootTo_whole h.stage hs
  have hboot : (u.bootTo env).mg.boot.channelsReady = true := by rw [hwhole, bootEnd_boot]
  obtain ⟨hawake, hpwr⟩ := bootEnd_chan (darned u env) c
  have hkept := (darned_kept u env).trans (bootEnd_kept (darned u env))
  obtain ⟨hnow, hcount⟩ := bootSecurity_counted u env
  rw [h.fuses] at hnow
  rw [h.fuses, h.mram] at hcount
  rw [← hwhole] at hawake hpwr hkept
  have hcause := hframe.boot
  have hmg := hframe.mg
  have hfuses := hframe.fuses
  have hmgmt := hframe.mgmtDom h.doms.2.2.1
  have hpins := hframe.pins
  have hclocks := hframe.clocks
  have hslices := hframe.slices.trans h.slices
  have hnow' := hkept.lifecycle.trans hnow
  have hcount' := hkept.bootCount.trans hcount
  generalize u.bootTo env = t at *
  rw [h.boot] at hcause
  rw [h.fuses] at hfuses
  refine ⟨hclocks.1.trans h.clocks.1, hclocks.2.trans h.clocks.2, ?_, ?_, ?_, ?_, ?_, ?_, ?_, ?_, ?_, hboot, ?_, ?_, hmgmt, ?_, hawake, hpwr, hnow', hfuses, hslices, ?_, ?_⟩
  · rw [hmg]; exact h.trip
  · rw [hpins]; exact h.pins.1
  · rw [hpins]; exact h.pins.2
  · rw [hcause]
  · rw [hcause]
  · rw [hcause]
  · rw [hcause]
  · rw [hcause]
  · rw [hcause]
  · rw [hmg]; exact h.doms.1
  · rw [hmg]; exact h.doms.2.1
  · rw [hmg]; exact h.doms.2.2.2
  · intro hok hd
    rw [hcount', hok, hd]
    rfl
  · intro hbad
    rw [hcount']
    rcases hbad with hbad | hbad <;> simp [hbad]

theorem phase (h : Clocked s u warm) (hs : 4 ≤ env.stages) : (u.bootTo env).mg.boot.phase
    = if lifecycleCode s.fuses.lifecycle = 4 then .closed else if (if warm then s.mg.boot.straps else s.pins.strapPins).getLsbD 3 then .hwInit
      else if warm && s.mg.boot.keptSlot then .verify else .waitImage := by
  rw [bootTo_whole h.stage hs, bootEnd_boot, whole_phase, h.fuses, h.boot]

theorem wdExpiries (h : Clocked s u warm) : (u.bootTo env).mg.boot.wdExpiries = if warm then s.mg.boot.wdExpiries else 0 := by
  rw [(bootTo_frame u env).boot, h.boot]

theorem cleared (h : Clocked s u warm) (hs : 4 ≤ env.stages) (hk : (warm && !s.mg.boot.zeroPending) = false) : (u.bootTo env).mem = [] ∧ (u.bootTo env).checkDiff = [] := by
  rw [bootTo_whole h.stage hs]
  exact whole_arrays_cleared (h.keeps.trans hk)

theorem keptArrays (h : Clocked s u warm) (hs : 4 ≤ env.stages) (hk : (warm && !s.mg.boot.zeroPending) = true) (hrepairs : s.mram.repairs = []) (hsweeps : env.sweeps = [])
    (hmap : ∀ c b, ((s.chan c).darnOf b).physBank = (tget (tget s.fuses.maps c .plain).darn b ⟨b, 16, false, false⟩).physBank) :
    (u.bootTo env).mem = s.mem ∧ (u.bootTo env).checkDiff = s.checkDiff := by
  have hchan : ∀ c, u.chan c = s.chan c := fun c => congrArg (fun m : Table Channel => tget m c Channel.zero) h.chans
  rw [bootTo_whole h.stage hs, ← h.mem, ← h.checkDiff]
  refine whole_arrays_kept (h.keeps.trans hk) (by rw [h.mram, hrepairs]) hsweeps fun c b => ?_
  rw [hchan, h.fuses]
  exact hmap c b

end Clocked

end Sys2Proof.BootStages
end

section
namespace Sys2Proof.BootStages
open Sys2Proof Sys2Proof.Machine

/-- Settles O49: the release of a reset starts the clocks, and the stages then keep the boot's frame up to its end, which gives the phase. -/
theorem bootSequence : Obligations.BootSequence := by
  unfold Obligations.BootSequence
  intro s env c
  refine ⟨?none, ?held, ?hot, ?cold, ?first, ?last, ?tripped, ?warm⟩
  case none =>
    intro h
    by_cases hsup : s.pins.vaon = true ∧ s.pins.vin = true ∧ s.pins.refclk = true
    · obtain ⟨hp, hw, hstage⟩ := h.resolve_left (not_not.mpr hsup)
      exact ((exec_boot_supplied hsup).trans ((if_neg (by simp [hp])).trans (if_neg (by simp [hw])))).trans (congrArg Host.Outcome.next (bootTo_idle hstage))
    · exact exec_boot_unsupplied hsup
  case held => exact fun hsup hp hc => ⟨_, (exec_boot_supplied hsup).trans ((if_pos (by simp [hp])).trans (if_pos (by simp [hc]))), rfl⟩
  case hot =>
    rintro hsup hp hc ⟨htrip, hread⟩
    exact ⟨_, (exec_boot_supplied hsup).trans ((if_pos (by simp [hp])).trans ((if_neg (by simp [hc])).trans (if_pos (by simp [htrip, hread])))), rfl⟩
  case cold =>
    intro hsup hp hc hcool _ hs
    have hgo : exec (.boot env) s = .next (((released s env).bootClocks false).bootTo env) := (exec_boot_supplied hsup).trans
      ((if_pos (by simp [hp])).trans ((if_neg (by simp [hc])).trans (if_neg (by simpa using hcool))))
    have h := clocked_cold s env
    obtain ⟨hmem, hdiff⟩ := h.cleared hs rfl
    exact ⟨_, hgo, h.started hs c, hmem, hdiff, h.wdExpiries, h.phase hs⟩
  case first =>
    intro hsup hp hc hcool hs
    have hgo : exec (.boot env) s = .next (((released s env).bootClocks false).bootTo env) := (exec_boot_supplied hsup).trans
      ((if_pos (by simp [hp])).trans ((if_neg (by simp [hc])).trans (if_neg (by simpa using hcool))))
    have hstop : bootNext env ((released s env).bootClocks false) = (released s env).bootClocks false := bootNext_stopped (Nat.le_of_eq hs)
    rw [bootTo_eq, hstop, hstop, hstop] at hgo
    exact ⟨_, hgo, rfl, rfl, rfl, rfl, rfl⟩
  case last =>
    intro hsup hp hw hstage hs
    have hgo : exec (.boot env) s = .next (s.bootTo env) := (exec_boot_supplied hsup).trans ((if_neg (by simp [hp])).trans (if_neg (by simp [hw])))
    rw [bootTo_last hstage hs] at hgo
    refine ⟨_, hgo, ?_⟩
    beta_reduce
    rw [bootEnd_boot]
    exact ⟨rfl, rfl, rfl⟩
  case tripped => exact fun hsup hp hw htrip => ⟨_, (exec_boot_supplied hsup).trans ((if_neg (by simp [hp])).trans ((if_pos (by simp [hw])).trans (if_pos htrip))), rfl⟩
  case warm =>
    intro hsup hp hw htrip _ hs
    have hgo : exec (.boot env) s = .next ((s.bootClocks true).bootTo env) := 
      (exec_boot_supplied hsup).trans ((if_neg (by simp [hp])).trans ((if_pos (by simp [hw])).trans (if_neg (by simp [htrip]))))
    have h := clocked_warm s
    exact ⟨_, hgo, h.started hs c, fun hz => h.cleared hs (by rw [hz]; rfl), fun hz hrepairs hsweeps hmap => h.keptArrays hs (by rw [hz]; rfl) hrepairs hsweeps hmap, h.wdExpiries, h.phase hs⟩

end Sys2Proof.BootStages
end
